-- ==== Sys2Proof/Word.lean ====
section
/-! DEFINITION. The words of the model and the plain data types that its syntax, its configuration constants
and its state share: bytes, sparse tables, decoded fabric configuration, image parts, packets and flits. -/

namespace Sys2Proof

/-- A byte. -/
abbrev Byte := BitVec 8

/-- A 64-bit word. -/
abbrev W64 := BitVec 64

/-- A sparse table: pairs of a key and a value, keys strictly rising, no value equal to what an unlisted key
reads as. Every array of the state is one, so that equal arrays are equal lists. -/
abbrev Tab (α : Type) := List (Nat × α)

/-- The requester of a mailbox command: the mailbox channel it came on and its SEQ (R448, R452). -/
structure Req where
  channel : Fin 16
  seq : BitVec 16
  deriving DecidableEq, Repr, Inhabited

/-- The two scheduled ports of a memory block (R154). -/
inductive PortAB where
  | a
  | b
  deriving DecidableEq, Repr, Inhabited

/-- What strikes a stored word just before an access meets it: nothing, an upset of one of its 72 bits (data bits 0 to
63, then check bits), or an uncorrectable upset after which the word reads as given (R168, Table MEM-4). -/
inductive WordUpset where
  | none
  | single (pos : Fin 72)
  | multi (asRead : W64)
  deriving DecidableEq, Repr, Inhabited

/-- What strikes a 64-byte DRAM line just before it is served (R307, R317, R318). -/
inductive LineUpset where
  | none
  | corrected
  | multi (asRead : BitVec 512)
  deriving DecidableEq, Repr, Inhabited

/-- The operations of a NoC request (Table NOC-4, R379). -/
inductive NocOp where
  | read
  | write
  | fetchAdd
  | swap
  | compareSwap
  deriving DecidableEq, Repr, Inhabited

/-- A request in the NoC (Table NOC-4): source, tag, stream, class, operation, address, length in words minus 1,
byte enables, reinitialise attribute and data words. -/
structure NocReq where
  src : BitVec 8
  tag : BitVec 12
  stream : BitVec 4
  cls : BitVec 2
  op : NocOp
  addr : BitVec 48
  len : Fin 32
  beFirst : BitVec 8
  beLast : BitVec 8
  reinit : Bool
  data : List W64
  deriving DecidableEq, Repr, Inhabited

/-! ## Decoded fabric configuration (R27 to R75) -/

/-- The four directions of travel of a segment. -/
inductive Dir where
  | east
  | west
  | north
  | south
  deriving DecidableEq, Repr, Inhabited

/-- The four kinds of segment (Table FAB-6). -/
inductive SegKind where
  | s1
  | s2
  | s6
  | s16
  deriving DecidableEq, Repr, Inhabited

/-- The inputs a routing multiplexer can have (R39, R53, R66): constant 0, an arriving segment, a cell register of
the cluster, a carry-over register of the switch box, an arriving VX or VM wire, a cascade line, an output of the
hard primitive at the site. -/
inductive Src where
  | const0
  | seg (d : Dir) (k : SegKind) (i : Nat)
  | ffa (cell : Nat)
  | ffb (cell : Nat)
  | carryOver (k : Nat)
  | vx (i : Nat)
  | vm (j : Nat)
  | cascade (cell : Nat)
  | prim (j : Nat)
  deriving DecidableEq, Repr, Inhabited

/-- A routing multiplexer's select: the inputs whose select bit is 1 (R66, R67). -/
abbrev Sel := List Src

/-- The inputs of FFA and FFB (R32): constant 0, the LUT output, SUM, MX, the bypass input. -/
inductive FfIn where
  | const0
  | lut
  | sum
  | mx
  | bypass
  deriving DecidableEq, Repr, Inhabited

/-- Choices of a register's clock enable (Table FAB-3). -/
inductive CeSel where
  | ce (i : Fin 4)
  | one
  deriving DecidableEq, Repr, Inhabited

/-- Choices of a register's set-reset line (Table FAB-3). -/
inductive SrSel where
  | sr (i : Fin 2)
  | none
  deriving DecidableEq, Repr, Inhabited

/-- Inputs of the cluster carry-in select (R39). -/
inductive CarrySrc where
  | const0
  | const1
  | xbar
  | link
  deriving DecidableEq, Repr, Inhabited

/-- The configuration of one register (Table FAB-3) and of its input select (R32). -/
structure FfCfg where
  input : List FfIn
  ce : CeSel
  sr : SrSel
  srVal : Bool
  init : Bool
  deriving DecidableEq, Repr, Inhabited

/-- What a frame with f mod 4 = 1 configures: crossbar selects and cell levels (Table CFG-5, R36). -/
structure XbarCfg where
  a : List (List Sel)
  dx : List Sel
  dy : List Sel
  level2 : List Bool
  ce : List Sel
  sr : List Sel
  msel : List Sel
  cin : Sel
  deriving DecidableEq, Repr, Inhabited

/-- What a frame with f mod 4 = 2 configures: switch-box outputs, VX and VM drivers, the carry-over input and its
clock enable (Table CFG-5, R46, R53). Segments lie in the order direction, kind, index. -/
structure SwitchCfg where
  segs : List Sel
  vx : List Sel
  vm : List Sel
  coIn : Sel
  coCe : Sel
  deriving DecidableEq, Repr, Inhabited

/-- What a frame with f mod 4 = 3 configures: registers, carry-in, dual mode, border value codes (Table CFG-5,
R30, R37, R39, R119). `mux` is the level of the mux group in use at each cell, 0 for none. Border codes are given for
the segments, the carry link, VX, VM and the face of the site. -/
structure RegsCfg where
  ffa : List FfCfg
  ffb : List FfCfg
  dual : List Bool
  mux : List (Fin 5)
  carryIn : List CarrySrc
  borderSegs : List (BitVec 2)
  borderCarry : BitVec 2
  borderVx : List (BitVec 2)
  borderVm : List (BitVec 2)
  borderFace : List (BitVec 2)
  deriving DecidableEq, Repr, Inhabited

/-- The decoded content of one frame by f mod 4 (Table CFG-5). -/
inductive FramePart where
  | luts (l : List (BitVec 64))
  | xbar (c : XbarCfg)
  | switch (c : SwitchCfg)
  | regs (c : RegsCfg)
  deriving DecidableEq, Repr, Inhabited

/-! ## Image parts (chapter 06) -/

/-- A footprint entry (Table CFG-8). -/
structure FpEntry where
  kind : BitVec 4
  column : BitVec 5
  row : BitVec 5
  layer : Bool
  index : BitVec 12
  deriving DecidableEq, Repr, Inhabited

/-- A channel descriptor with its extension record joined to it (Tables CFG-9 and CFG-9a). -/
structure ChanDesc where
  number : BitVec 16
  dest : Bool
  nocPort : Fin 64
  width : Byte
  slots : Byte
  latency : BitVec 32
  route : List W64
  floors : List (BitVec 2)
  deriving DecidableEq, Repr, Inhabited

/-- A region descriptor (Table CFG-7). -/
structure RegionDesc where
  region : Fin 32
  action : BitVec 2
  footprint : List FpEntry
  deriving DecidableEq, Repr, Inhabited

/-- The essential bits of one frame in a tile map (Table CFG-11, R208). -/
inductive MapFrame where
  | none
  | all
  | literal (bits : BitVec 1024)
  | runs (l : List (Nat × Nat))
  deriving DecidableEq, Repr, Inhabited

/-- A tile map (Table CFG-10): its flag word and the frames it describes; an unlisted frame has no essential bit. -/
structure TileMap where
  flags : BitVec 16
  frames : List (Nat × MapFrame)
  deriving DecidableEq, Repr, Inhabited

/-- A block entry of a memory-layer initialisation image (Table MEM-10). -/
structure BlockEntry where
  block : BitVec 16
  mode : Byte
  capLog2 : Byte
  creditInit : BitVec 16
  flags : BitVec 16
  wordCount : BitVec 16
  startWord : BitVec 16
  data : List W64
  deriving DecidableEq, Repr, Inhabited

/-- A section table entry (Table CFG-4). -/
structure SectionEntry where
  secType : BitVec 16
  region : Byte
  offset : W64
  length : W64
  reservedZero : Bool
  deriving DecidableEq, Repr, Inhabited

/-- An image header (Table CFG-2). The byte strings are held in their standards' order; `signedBytes` are header
bytes 0 to 415, over which SIGNATURE is computed (R198); `reservedZero` says that every reserved byte is 0. -/
structure ImgHeader where
  magic : BitVec 32
  hdrVersion : BitVec 16
  imageType : BitVec 16
  contractRev : BitVec 32
  flags : BitVec 32
  imageLen : W64
  regionMask : BitVec 32
  context : Byte
  keySlot : Byte
  initIndex : BitVec 16
  sectionCount : BitVec 16
  sectionTableOffset : W64
  buildId : BitVec 128
  gcmIv : BitVec 96
  gcmTag : BitVec 128
  payloadDigest : BitVec 384
  signerKey : List Byte
  signature : List Byte
  signedBytes : List Byte
  reservedZero : Bool
  deriving DecidableEq, Repr, Inhabited

/-- One element of the image stream after its header: the section table, or one frame, region descriptor, tile map,
channel descriptor section or block entry (R200 to R208). -/
inductive LoadItem where
  | sections (t : List SectionEntry)
  | frame (region : Fin 32) (tile : Fin 36) (frame : Fin 1024) (data : BitVec 1024) (crc : BitVec 32)
  | descriptor (d : RegionDesc) (reservedZero : Bool)
  | tileMap (region : Fin 32) (tile : Fin 36) (m : TileMap)
  | channels (l : List ChanDesc) (reservedZero : Bool)
  | blockEntry (e : BlockEntry)
  deriving DecidableEq, Repr, Inhabited

/-- The flash boot directory (Table CFG-13): magic, version, entry count, and each image's offset and length. -/
structure BootDir where
  magic : BitVec 32
  version : BitVec 16
  entryCount : BitVec 16
  entries : List (W64 × BitVec 32)
  deriving DecidableEq, Repr, Inhabited

/-- A firmware slot or code image: its header (Table MBX-1), whether its reserved bytes are 0, and the
code whose digest the header carries. -/
structure FwImage where
  magic : BitVec 32
  version : BitVec 32
  ifRev : BitVec 16
  svn : BitVec 16
  length : BitVec 32
  digest : BitVec 384
  signature : List Byte
  reservedZero : Bool
  code : List Byte
  deriving DecidableEq, Repr, Inhabited

/-- What the SPD and the sensors of one DIMM show (R306, Tables DRM-1 and DRM-9). -/
structure Dimm where
  moduleType : Byte
  supported : Bool
  threeDs : Bool
  x8 : Bool
  density : Byte
  ranks2 : Bool
  stackLog2 : BitVec 2
  mfr : BitVec 16
  capacityGb : BitVec 16
  serial : BitVec 32
  part : BitVec 240
  hubTemp : BitVec 16
  ts0Temp : BitVec 16
  ts1Temp : BitVec 16
  drfm : Bool
  deriving DecidableEq, Repr, Inhabited

/-- A failing start-up or in-service test: the row of Table BRG-3, the UNIT of EV_BIST_FAIL, and the unit's place
(layer, logical column, row, index). -/
structure BistFail where
  row : Fin 19
  unit : BitVec 16
  layer : Bool
  column : Fin 25
  trow : Fin 24
  index : BitVec 12
  deriving DecidableEq, Repr, Inhabited

/-- A bundle of vertical connections at a tile position (Tables STK-2, FAB-6): VX, VM or L0-L1 crossings and the
configuration frame bus. -/
inductive Bundle where
  | l0l1
  | l2l3
  | l3l4
  | l1l2
  deriving DecidableEq, Repr, Inhabited

/-- A TSV group or a bonded signal: its bundle, its tile position, its spare group and the signal. -/
structure TsvGroup where
  bundle : Bundle
  column : Fin 24
  row : Fin 24
  group : BitVec 6
  deriving DecidableEq, Repr, Inhabited

/-- A crossing as vertical alignment measures it: its footprint kind 5 VX, 6 VM or 7 L0-L1 (Table CFG-8), its
place, the latency measured, and whether a spare was brought in (Table SCH-5 step 6). -/
structure CrossObs where
  kind : BitVec 4
  column : Fin 24
  row : Fin 24
  layer : Bool
  index : BitVec 12
  latency : BitVec 8
  spared : Bool
  group : BitVec 6
  deriving DecidableEq, Repr, Inhabited

/-! ## Link (chapter 07) -/

/-- A slot flit (Table LNK-7) with its 240 payload bits in clear. -/
structure Flit where
  vc : BitVec 2
  sop : Bool
  eop : Bool
  rsp : Bool
  credit : BitVec 4
  creditClass : BitVec 2
  payload : BitVec 240
  deriving DecidableEq, Repr, Inhabited

/-- A frame header (Table LNK-5). -/
structure FrameHdr where
  marker : BitVec 16
  width : Byte
  flags : Byte
  frame : BitVec 32
  time : W64
  timeFrac : Byte
  ctrlCode : Byte
  ctrlData : BitVec 48
  chainId : W64
  deriving DecidableEq, Repr, Inhabited

/-- A TXN packet (Table LNK-11) with its extension words and data words. -/
structure TxnPkt where
  route : W64
  routeExt : List W64
  ret : W64
  retWords : List W64
  addr : BitVec 48
  op : Byte
  len : Fin 32
  tag : BitVec 12
  status : Byte
  hop : BitVec 5
  data : List W64
  deriving DecidableEq, Repr, Inhabited

/-- Kinds of MGMT message: a mailbox request, its response, a forwarded event, and the messages of check 8d and of
the slot reservations (R269, R294, R468, R469, R478). -/
inductive MgmtKind where
  | request
  | response
  | event
  | reserve
  | release
  | descriptorQuery
  deriving DecidableEq, Repr, Inhabited

/-- A MGMT message (R294): route and return words, the originating handle, the 16-byte header and the payload. -/
structure MgmtMsg where
  kind : MgmtKind
  route : W64
  routeExt : List W64
  ret : W64
  retWords : List W64
  hop : BitVec 5
  handle : BitVec 12
  header : List Byte
  payload : List Byte
  deriving DecidableEq, Repr, Inhabited

/-- Where a lane of a detect step finds what (R251). -/
inductive DetectFind where
  | receiver
  | transmitter
  | nothing
  deriving DecidableEq, Repr, Inhabited

/-- The content of the step 6 exchange (R250, Table LNK-2): chain identifier, lock state, upstream flag, fabric
multiplier, credits and encryption setting, and whether the peer is a root. -/
structure Capability where
  chainId : W64
  locked : Bool
  upstreamFlag : Bool
  root : Bool
  m : Byte
  txnReqCredits : BitVec 9
  txnRspCredits : BitVec 9
  mgmtCredits : BitVec 9
  encrypt : Bool
  deriving DecidableEq, Repr, Inhabited

/-- What a training step finds (Tables LNK-2 and LNK-3): the good lanes of step 5, the corrections of steps 2 and 3,
miswiring that cannot be corrected, the wire delays and flight times of step 7, whether step 8's agreement
succeeded, and the lanes of the transmit direction that the peer found good. -/
structure TrainObs where
  goodLanes : BitVec 9
  laneInverted : BitVec 9
  reversed : Bool
  clkInverted : Bool
  miswired : Bool
  rxWirePs : BitVec 32
  txWirePs : BitVec 32
  flight8 : BitVec 32
  flight4 : BitVec 32
  flight2 : BitVec 32
  keyOk : Bool
  txGood : BitVec 9
  deriving DecidableEq, Repr, Inhabited

/-- References of a PLL group (CLK.STATUS REF codes): REFCLK, forwarded clock, holdover. -/
inductive PllRef where
  | refclk
  | forwarded
  | holdover
  deriving DecidableEq, Repr, Inhabited

/-- The JTAG instructions of R560. -/
inductive JtagInst where
  | bypass
  | samplePreload
  | extest
  | extestPulse
  | extestTrain
  deriving DecidableEq, Repr, Inhabited

/-- Who performs a register write outside the NoC (R457, R461, R462) or on the NoC. -/
inductive Writer where
  | bar0
  | jtag
  | smbus
  | noc (src : BitVec 8) (tag : BitVec 12)
  deriving DecidableEq, Repr, Inhabited

/-- The wake sources of Table PWR-3. -/
inductive WakeSrc where
  | wakePin
  | mailbox (channel : Fin 16)
  | userPin (pin : Fin 1152)
  | golular (port : Fin 6)
  deriving DecidableEq, Repr, Inhabited

/-- The compensated items of Table PWR-13. -/
inductive CompItem where
  | dripClock
  | pllBand
  | bandgap
  | pinDac (bank : Fin 24)
  | pintuDelay (bank : Fin 24)
  deriving DecidableEq, Repr, Inhabited

/-- What check 8 of Table SCH-13 meets for one channel at staging: the natural latency N measured at the floor, the
narrowest present width on its route, whether the far end's descriptor agrees, and whether every device on the route
has the slots free (R98, R106, R269). -/
structure ChanObs where
  number : BitVec 16
  natural : BitVec 32
  widthOk : Bool
  farAgrees : Bool
  slotsFree : Bool
  outPort : Fin 6
  deriving DecidableEq, Repr, Inhabited

/-- What the store and the frame bus show while a region is staged (Table CTX-7 steps 4 and 5). -/
structure StageObs where
  crcOk : Bool
  storeOk : Bool
  readbackOk : Bool
  deriving DecidableEq, Repr, Inhabited

/-- What the inline engine's checks find for a request (Table PRT-4): nothing wrong, a MAC mismatch or DRAM
uncorrectable error of the line, a MAC block error, or a bad counter block or tree node at a level (0 for a counter
block). -/
inductive EngineFind where
  | ok
  | macMismatch
  | macBlock
  | node (level : Fin 16)
  | cacheDirty (level : Fin 16)
  | cacheClean
  deriving DecidableEq, Repr, Inhabited

end Sys2Proof
end

