-- ==== Sys2Proof/Syntax.lean ====
section
/-! DEFINITION. The commands of the block: one constructor for each row of spec/opcode_table.json, in the table's
order, each with the operands that the rule of its row names. A mailbox command's first operand is its requester. -/

namespace Sys2Proof

/-- The commands. The rule that each docstring names governs the row. -/
inductive Instr where
  /-- PWR_GOOD_RISE (R570): PWR_GOOD rises with VCC_AON in tolerance: AON powers on, the drip clock starts and
    step 2 of the start-up sequence begins. -/
  | pwrGoodRise
  /-- POWER_CYCLE (R570): PWR_GOOD is low for 1 µs or more: every domain goes off, every trip latch clears and the
    boot key is zeroised. -/
  | powerCycle
  /-- RESET_N_ASSERT (R570): RESET_N is held low for 2.5 µs or more and the whole device is reset; every region
    goes to OFF. -/
  | resetNAssert
  /-- RESET_N_RELEASE (R522): RESET_N is released while PWR_GOOD is high: MODE[2:0] is sampled and the start-up
    sequence of Table BRG-1 runs from step 3. -/
  | resetNRelease (mode : BitVec 3) (fails : List BistFail) (flashA flashB : Option FwImage) (dimms : List (Nat × Dimm)) (trainFail : BitVec 8) (pprRefused : List (BitVec 64))
  /-- PLL_LOCK (R499): A PLL group locks to its reference; for group 0 this enables vertical alignment and
    restarts chain time on a root. -/
  | pllLock (group : Fin 4) (ref : PllRef) (mismatch : Bool)
  /-- REF_MONITOR_WINDOW (R503): A 40 dc window of the group-0 reference monitor ends; two bad windows are a loss
    of reference and two good windows allow a relock. -/
  | refMonitorWindow (edges : BitVec 12)
  /-- BIST_ROUND_DONE (R524): A round of start-up BIST ends: each region tested becomes BLANK or RETIRED, and the
    next round starts unless a thermal condition holds it. -/
  | bistRoundDone (fails : List BistFail) (excursion : BitVec 32)
  /-- VALIGN_START (R86): Vertical alignment starts once the fabric PLL is locked, start-up BIST is complete and,
    on a member, chain time is locked. -/
  | valignStart
  /-- VALIGN_DONE (R86): Vertical alignment completes: latencies are recorded, failed crossings are entered, and
    regions may leave BLANK. -/
  | valignDone (crossings : List CrossObs) (phi phi2 : BitVec 6)
  /-- VALIGN_TRACK_STEP (R87): A tracking step of 1/32 fc corrects φ or φ′, at most one step per 1,024 fc, without
    changing any latency. -/
  | valignTrackStep (upper : Bool) (up : Bool)
  /-- VALIGN_LOST (R88): φ or φ′ leaves 1/4 fc to 3/4 fc: the RUNNING regions of the two layers go to HELD. -/
  | valignLost (upper : Bool) (phase : BitVec 8)
  /-- FABRIC_CLOCK_LOST (R23): The fabric clock stops: every region goes to HELD and presents its border values,
    and EV_CLOCK_LOST is raised. -/
  | fabricClockLost (cause : BitVec 8)
  /-- BOOT_LOAD_START (R217): Alignment completes after a start and the boot load opens its boot source. -/
  | bootLoadStart (dir : BootDir)
  /-- LOAD_IMAGE_HEADER (R198): The loader receives an image header and verifies its owner key and its signature. -/
  | loadImageHeader (h : ImgHeader)
  /-- LOAD_FRAME_RECEIVED (R204): The loader receives one frame or descriptor, applies checks 2 to 7 and writes it
    into a free area. -/
  | loadFrameReceived (x : LoadItem)
  /-- LOAD_IMAGE_END (R225): The end of an image arrives: the digest and the GCM tag are checked, the directories
    are committed or the load fails, and the result record is set. -/
  | loadImageEnd (digest : BitVec 384) (tagOk : Bool)
  /-- BOOT_LOAD_COMPLETE (R217): Every flagged region is RUNNING and release has been evaluated, so DONE is
    released. -/
  | bootLoadComplete
  /-- CFG_WS_WPTR_WRITE (R214): A write to CFG_WS_WPTR advances the workspace ring, or is ignored and sets
    CFG_WS_PTR_ERR. -/
  | cfgWsWptrWrite (src : BitVec 8) (value : W64)
  /-- JTAG_CFG_STREAM (R215): A CFG_STREAM shift passes image bits to the loader, or discards them when the loader
    cannot take them. -/
  | jtagCfgStream (bits : List Bool)
  /-- JTAG_MBX_ACCESS (R461): An MBX_ACCESS shift reads or writes the register image of mailbox channel 12. -/
  | jtagMbxAccess (dr : W64)
  /-- JTAG_TAG_ACCESS (R563): A TAG_ACCESS shift reads the user tag area or the identity record. -/
  | jtagTagAccess (dr : W64)
  /-- JTAG_SCAN_BASE (R561): SCAN_BASE zeroises the boot key, wipes the vault, clears state and disables I/O, and
    then opens the base-die scan chains. -/
  | jtagScanBase
  /-- JTAG_BOUNDARY_SCAN (R560): An IEEE 1149.1 or 1149.6 instruction is accepted, or acts as BYPASS, according to
    the life-cycle state and the state of banks and links. -/
  | jtagBoundaryScan (inst : JtagInst)
  /-- STAGING_SHARE_GRANT (R139): A queued staging receives a bandwidth share: its target slot is emptied and
    checks 2, 6, 7 and 8 run. -/
  | stagingShareGrant (chans : List ChanObs)
  /-- STAGING_DONE (R139): Staging completes or fails: the slot is verified or left empty, and EV_CTX_DONE is
    posted. -/
  | stagingDone (region : Fin 32) (obs : StageObs)
  /-- READBACK_DONE (R226): A CFG.READBACK copy into the workspace completes. -/
  | readbackDone
  /-- SCRUB_FRAME_CHECK (R230): The scrubber compares one frame with its golden copy; on a difference it rewrites
    the frame at a fc boundary and applies the upset action. -/
  | scrubFrameCheck (goldenUe mapUe vote : Bool)
  /-- SCRUB_PASS_END (R229): A scrub pass over all verified planes completes and the next pass begins. -/
  | scrubPassEnd (us : BitVec 32)
  /-- SCRUB_STALL_TIMEOUT (R235): A scrub pass has not completed within 8 × 1,536 µs plus the time its share was
    lent, so EV_SCRUB_STALLED is raised. -/
  | scrubStallTimeout
  /-- STORE_PATROL_READ (R196): The store patrol reads an area, corrects single-bit errors and marks uncorrectable
    frames damaged. -/
  | storePatrolRead (region : Fin 32) (context : Fin 16) (tile : Fin 36) (frame : Fin 1024) (corrected uncorrectable : Bool)
  /-- REGION_RESET_END (R116): A region that was HELD for 16 fc by a region reset returns to RUNNING. -/
  | regionResetEnd (region : Fin 32)
  /-- REGION_CTL_SWITCH_REQUEST (R126): REGION_CTL samples SW_REQ in fc n and accepts the switch, or refuses it as
    busy or as not runnable. -/
  | regionCtlSwitchRequest (region : Fin 32) (slot : Fin 4) (init : Bool)
  /-- REGION_CTL_SWITCH_EFFECT (R128): At the boundary into fc n + 4 the configuration and register planes switch,
    and internal routing registers take 0. -/
  | regionCtlSwitchEffect (region : Fin 32)
  /-- WINDOW_BOUNDARY (R133): At a switch window boundary b, armed mailbox commands enter REGION_CTL or take
    effect at fc b + 4, or complete with ST_STATE. -/
  | windowBoundary
  /-- CARRYOVER_PARITY (R50): The parity of a group of carry-over registers mismatches, so EV_CARRYOVER_PARITY is
    raised. -/
  | carryoverParity (layer : Bool) (column row : Fin 24) (group : Fin 4) (upset : BitVec 17)
  /-- TSV_GROUP_SUSPECT (R538): A TSV group becomes suspect: its owning region is HELD and the group is walk-
    tested. -/
  | tsvGroupSuspect (g : TsvGroup)
  /-- TSV_SWAP_DONE (R538): A TSV swap completes: the signal has moved onto the spare, and the region returns to
    RUNNING. -/
  | tsvSwapDone (g : TsvGroup) (failed : Option (BitVec 16))
  /-- TSV_WALK_TEST (R537): Every 100 ms, a group whose spare is in use is walk-tested while its region is not
    RUNNING. -/
  | tsvWalkTest (g : TsvGroup) (failed : Option (BitVec 16))
  /-- PORT_NOP (R158): NOP at port A or B: nothing is done, and the response carries only the status flags. -/
  | portNop (p : PortAB) (block : Fin 1152)
  /-- PORT_READ (R158): READ at port A or B returns the word with its ERR result 3 fc later. -/
  | portRead (p : PortAB) (block : Fin 1152) (addr : BitVec 13) (u : WordUpset)
  /-- PORT_WRITE (R157): WRITE at port A or B writes 64 data bits with fresh check bits, visible from fc w + 2. -/
  | portWrite (p : PortAB) (block : Fin 1152) (addr : BitVec 13) (data : W64)
  /-- PORT_ENQ (R176): ENQ at port A or B appends an entry, or is refused with ACCEPT 0 according to the block's
    mode. -/
  | portEnq (p : PortAB) (block : Fin 1152) (data : W64) (arg : BitVec 3)
  /-- PORT_DEQ (R176): DEQ at port A or B removes and returns the head entry, or returns VALID 0. -/
  | portDeq (p : PortAB) (block : Fin 1152) (u : WordUpset)
  /-- PORT_PEEK (R176): PEEK at port A or B returns the head entry without removing it. -/
  | portPeek (p : PortAB) (block : Fin 1152) (u : WordUpset)
  /-- PORT_RETURN (R179): RETURN at port A or B adds ARG + 1 credits to a credit queue, saturating at CAP. -/
  | portReturn (p : PortAB) (block : Fin 1152) (arg : BitVec 3)
  /-- QUEUE_ENTRY_VISIBLE (R82): An accepted enqueue, or a whole inbox group or mail message, becomes visible to
    dequeues 4 fc after it was written. -/
  | queueEntryVisible (block : Fin 1152)
  /-- NOC_BLOCK_REQUEST (R596): A NoC request reaches a sector endpoint and is passed to its block, or is answered
    with ST_BUSY, ST_DOMAIN_OFF, ST_RETIRED or ST_BAD_ARG. -/
  | nocBlockRequest (src : BitVec 8) (tag : BitVec 12)
  /-- PORT_N_CYCLE (R160): Port N serves one word of a waiting request in a fc left free by ports A and B, or
    defers it and counts the conflict. -/
  | portNCycle (block : Fin 1152) (u : WordUpset)
  /-- PATROL_READ (R173): The patrol reader reads the next word in an idle port N cycle, at most once per 256 fc. -/
  | patrolRead (block : Fin 1152) (u : WordUpset)
  /-- PATROL_WRITEBACK (R174): Two fc after finding a single-bit error, the patrol reader writes the corrected
    word back, unless a write intervened. -/
  | patrolWriteback (block : Fin 1152)
  /-- MEM_COLUMN (R187): Corrections in one column reach 16, so a pending repair entry is written and
    EV_MEM_COLUMN is raised. -/
  | memColumn (block : Fin 1152) (group : Fin 9) (column : Fin 64)
  /-- SECTOR_CLEAR_DONE (R152): The clearing of a sector that has powered on completes, and its blocks become
    available. -/
  | sectorClearDone (sector : Fin 8)
  /-- MEM_INIT_DONE (R192): A memory-layer initialisation completes or fails, and EV_MEM_INIT_DONE is posted. -/
  | memInitDone (crcOk : Bool) (reached words : Nat)
  /-- QCTL_CREDIT_RETURN_WRITE (R179): A write to QCTL_CREDIT_ADD adds credits to a credit queue, saturating at
    CAP. -/
  | qctlCreditReturnWrite (src : BitVec 8) (block : Fin 1152) (value : BitVec 32)
  /-- MEM_CSEL_WRITE (R167): A write to MEM_CSEL_k selects a new source for counter k and sets that counter to 0. -/
  | memCselWrite (src : BitVec 8) (sector : Fin 8) (k : Fin 64) (value : BitVec 32)
  /-- MEM_CCTL_CLEAR (R166): A write of 1 to MEM_CCTL_CLEAR sets all 64 conflict counters of the sector to 0. -/
  | memCctlClear (src : BitVec 8) (sector : Fin 8) (value : BitVec 32)
  /-- REGISTER_WRITE (R11): A write to a register with no row of its own acts by its access codes, or is refused
    with ST_DENIED or ST_BAD_ARG. -/
  | registerWrite (w : Writer) (addr : BitVec 48) (value : W64)
  /-- NOC_REQUEST_ISSUE (R370): An initiator decodes a request, checks its rules and injects it into the mesh, or
    completes it itself. -/
  | nocRequestIssue (q : NocReq)
  /-- NOC_RESPONSE_DELIVERED (R380): A response reaches its initiator and is placed in order, or is discarded as
    late. -/
  | nocResponseDelivered (src : BitVec 8) (tag : BitVec 12)
  /-- NOC_REQUEST_TIMEOUT (R381): An initiator's timeout expires with no response, and the request completes with
    ST_TIMEOUT. -/
  | nocRequestTimeout (src : BitVec 8) (tag : BitVec 12)
  /-- NOC_PORT_REQ_PUSH (R379): The fabric pushes a request word into a NOC_PORT; the word is accepted or refused,
    and a complete or malformed request is handled. -/
  | nocPortReqPush (port : Fin 64) (word : W64) (last : Bool)
  /-- NOC_PORT_RSP_POP (R94): The fabric pops a NOC_PORT response word, or receives VALID 0 when the queue is
    empty. -/
  | nocPortRspPop (port : Fin 64)
  /-- SCHED_WORD_SEND (R97): A word at a source SCHED face is packed into the channel's reserved slots. -/
  | schedWordSend (port : Fin 64) (word : W64) (valid : Bool)
  /-- SCHED_WORD_DELIVER (R99): A word leaves the padding buffer and is presented at the destination SCHED face at
    fc t + D. -/
  | schedWordDeliver (port : Fin 64)
  /-- ROUTER_RECONFIG_DONE (R384): A router reconfiguration applies its new weights once the router is empty, or
    gives up at 7.5 µs. -/
  | routerReconfigDone (router : Fin 64) (empty : Bool)
  /-- NOC_ROUTER_FAILED (R23): A router fails in service, which is fatal: ERROR_N asserts. -/
  | nocRouterFailed (router : Fin 64)
  /-- TAMP_COMPLETE (R386): A tamp completes once the domain holds no request and every outgoing request is
    answered or timed out. -/
  | tampComplete (domain : Fin 96)
  /-- DOMAIN_POWER_UP_DONE (R483): A domain that is powering up reaches ON, and EV_PWR_DONE is posted. -/
  | domainPowerUpDone (domain : Fin 96)
  /-- DOMAIN_POWER_DOWN_DONE (R486): The power switch of an isolated domain opens, the domain is OFF, and
    EV_PWR_DONE is posted. -/
  | domainPowerDownDone (domain : Fin 96)
  /-- BASE_WARM_RESET (R496): A base warm reset begins, from PWR.BASE_RESET after 100 µs or from a PCIe hot reset. -/
  | baseWarmReset
  /-- PCIE_HOT_RESET (R496): A PCIe hot reset arrives and triggers a base warm reset. -/
  | pcieHotReset
  /-- PF0_FUNCTION_RESET (R460): A function-level reset of PF0 returns channels 0 to 7 to IDLE and clears
    EVT_RING_EN. -/
  | pf0FunctionReset
  /-- PF1_FUNCTION_RESET (R594): A function-level reset of PF1 resets the function, while its fetched DMA
    descriptors are still performed. -/
  | pf1FunctionReset
  /-- DEEP_IDLE_ENTER (R493): The conditions for deep idle hold and DEEP_EN is 1, so the PLLs stop and Barista
    enters retention. -/
  | deepIdleEnter
  /-- WAKE_EVENT (R495): An enabled wake source is sampled and the wake sequence of Table PWR-4 runs. -/
  | wakeEvent (src : WakeSrc)
  /-- WAKE_DONE (R495): A wake completes with alignment done, and EV_PWR_DONE with CMD 0x0406 is posted. -/
  | wakeDone
  /-- SENSOR_SAMPLE (R507): Each sensor is converted every 250 µs and checked for fault, warning, throttle, rate
    of rise and trip. -/
  | sensorSample (readings : List (Option Int))
  /-- THERMAL_CLEAR (R508): Every sensor has read at least 3 °C below its threshold for 10 ms, so a warning or
    throttle ends. -/
  | thermalClear (throttle : Bool)
  /-- PRIVILEGED_TRIP (R514): A hardware comparator sees 115 °C on S0 to S19: every domain is switched off and AON
    enters trip retention. -/
  | privilegedTrip (sensor : Fin 20) (temp : Int)
  /-- PRIVILEGED_RESTART (R515): S0 to S19 have read below 90 °C for 100 ms, so the privileged group restarts by
    itself. -/
  | privilegedRestart
  /-- COMPENSATION_STEP (R519): A periodic temperature-compensation trim step is applied without changing any
    latency. -/
  | compensationStep (item : CompItem)
  /-- TAMPER (R559): A tamper condition occurs: the boot key is zeroised, the vault is wiped and EV_TAMPER is
    raised. -/
  | tamper (cause : BitVec 8) (ongoing : Bool)
  /-- BOOT_KEY_REDRAW (R559): 1 ms after the last tamper condition ends, a new boot key is drawn and integrity
    regions are off. -/
  | bootKeyRedraw
  /-- TRNG_HEALTH_FAIL (R547): A TRNG health test fails: output stops and the source restarts. -/
  | trngHealthFail
  /-- TRNG_OUTPUT_TIMEOUT (R547): TRNG output has not resumed within 10 ms and the waiting request fails. -/
  | trngOutputTimeout
  /-- DRBG_RESEED (R546): The CTR_DRBG is reseeded after 2^20 requests. -/
  | drbgReseed
  /-- VAULT_ACCESS (R558): A NoC request to the vault is served, or denied according to the life-cycle state and
    the master. -/
  | vaultAccess (src : BitVec 8) (tag : BitVec 12)
  /-- VAULT_WIPE_DONE (R557): A vault wipe completes and requests are served again. -/
  | vaultWipeDone
  /-- DRAM_REQUEST (R313): A request reaches the inline engine and DRAM side; it is encrypted or verified and
    ordered within its source and stream. -/
  | dramRequest (src : BitVec 8) (tag : BitVec 12) (find : EngineFind)
  /-- CONVERSION_PAGE (R356): The converter rewrites one page under the new epoch using idle bandwidth; after the
    last page the old key is discarded. -/
  | conversionPage (ir : Fin 8)
  /-- IR_SET_DONE (R348): The creation or deletion of an integrity region completes its zero-fill. -/
  | irSetDone (ir : Fin 8)
  /-- DRAM_SERVE (R320): A sub-channel makes a scheduling decision and serves the next request in the order of
    Table DRM-4. -/
  | dramServe (channel : Fin 8) (sub : Bool) (u : LineUpset) (nrr : Bool)
  /-- AGE_PROMOTION (R321): A request reaches its class's age limit and is promoted with the earlier requests of
    its stream. -/
  | agePromotion (channel : Fin 8) (sub : Bool) (pick : Nat)
  /-- REFRESH_TIMER (R322): The refresh interval expires and an all-bank refresh is issued. -/
  | refreshTimer (channel : Fin 8) (sub : Bool)
  /-- PERIODIC_RETRAIN (R327): Every 1 s, or after a 10 °C DIMM temperature change, read and write timing are
    recentred. -/
  | periodicRetrain (channel : Fin 8) (ok : Bool)
  /-- SETPOINT_SWITCH_START (R328): A queued DRM.SETPOINT starts once the gathering of training data ends. -/
  | setpointSwitchStart
  /-- SETPOINT_SWITCH_DONE (R328): A set point switch completes or fails on a channel, and EV_DRM_DONE is posted. -/
  | setpointSwitchDone (channel : Fin 8) (ok : Bool)
  /-- SOFT_REPAIR_DONE (R332): A soft post-package repair completes and traffic to its bank resumes. -/
  | softRepairDone (channel : Fin 8)
  /-- DRAM_CHANNEL_FAILED (R334): A channel fails in service: it is marked FAILED and its requests receive
    ST_RETIRED. -/
  | dramChannelFailed (channel : Fin 8) (cause : BitVec 8)
  /-- DMA_STOP_DONE (R340): No request of the stopped PF1 DMA channels remains in flight, so DRM.DMA_STOP
    completes. -/
  | dmaStopDone
  /-- LINK_DETECT_STEP (R251): A periodic detect step classifies each lane as finding a receiver, a transmitter or
    nothing. -/
  | linkDetectStep (port : Fin 6) (clk : DetectFind) (lanes : List DetectFind)
  /-- LINK_TRAINING_STEP_DONE (R250): A training step completes and the port moves to the next step of Table
    LNK-2. -/
  | linkTrainingStepDone (port : Fin 6) (obs : TrainObs)
  /-- LINK_STEP_TIMEOUT (R250): A training step exceeds 10 ms; the port raises EV_LINK_DOWN and returns to step 1
    after 100 ms. -/
  | linkStepTimeout (port : Fin 6)
  /-- LINK_RETRY_TIMER (R250): The 100 ms retry delay of a failed training expires and the port restarts at step
    1. -/
  | linkRetryTimer (port : Fin 6)
  /-- LINK_UP (R250): Training completes: MGMT and TXN open, TIME opens on an upstream link, and reservations are
    restored. -/
  | linkUp (port : Fin 6)
  /-- LINK_FRAME_RECEIVED (R255): A frame is received whole; its codewords are decoded and its flits delivered,
    forwarded or discarded. -/
  | linkFrameReceived (port : Fin 6) (hdr : FrameHdr) (flits : List Flit) (bad : List (Nat × Nat)) (corrected : List Nat) (tagFail : Bool)
  /-- BEACON_SEND (R276): At chain time a multiple of 2^20, a beacon is sent on every port that is not upstream. -/
  | beaconSend
  /-- BEACON_RECEIVED (R279): A beacon arrives on the upstream port; chain time is locked, tracked or slipped. -/
  | beaconReceived (port : Fin 6) (time : W64) (frac : Byte) (arriveFrac : Int)
  /-- SPARE_REQUEST (R262): A frame header carries a spare request, and the transmitter acknowledges with a switch
    frame. -/
  | spareRequest (port : Fin 6) (lane : Fin 9)
  /-- WIDTH_REQUEST (R262): A frame header carries a width request, and the transmitter acknowledges with a switch
    frame. -/
  | widthRequest (port : Fin 6) (code : BitVec 2) (mask : BitVec 9)
  /-- LINK_ACKNOWLEDGE (R262): A frame header acknowledgement names the switch frame of a spare or width change. -/
  | linkAcknowledge (port : Fin 6) (frame : BitVec 32)
  /-- DELAY_MEASUREMENT_REQUEST (R254): A delay measurement request arrives and is echoed with the turnaround. -/
  | delayMeasurementRequest (port : Fin 6) (stamp turnaround : BitVec 48)
  /-- DELAY_MEASUREMENT_REPLY (R254): A delay measurement reply arrives, and the wire delay is computed from the
    round trip. -/
  | delayMeasurementReply (port : Fin 6) (stamp now : BitVec 48)
  /-- POISON_NOTICE (R298): A poison notice arrives in a frame header from the peer. -/
  | poisonNotice (port : Fin 6) (poisoned : Bool)
  /-- CAPABILITY_WORD (R250): A capability word of the step 6 exchange arrives and roles are resolved. -/
  | capabilityWord (port : Fin 6) (c : Capability)
  /-- LANE_FAILED (R260): A lane loses lock, meets an uncorrectable codeword or exceeds LANE_ERR_LIMIT, so a spare
    or width request is started. -/
  | laneFailed (port : Fin 6) (lane : Fin 9)
  /-- LANE_MAP_SWITCH (R262): At the switch frame both ends change the lane map and relock, and traffic resumes. -/
  | laneMapSwitch (port : Fin 6) (rx : Bool)
  /-- SPARE_LANE_CHECK (R266): The PRBS31 check of an unused spare lane ends a beacon period; the spare is marked
    bad above 16 errors. -/
  | spareLaneCheck (port : Fin 6) (errors : BitVec 32)
  /-- UPSTREAM_CLOCK_LOST (R246): A member loses its upstream forwarded clock: it stops forwarding clocks and
    takes its other links down. -/
  | upstreamClockLost
  /-- CLOCK_LOSS_RETRAIN (R246): 100 µs after loss of the upstream clock, the member retrains its ports and
    selects an upstream. -/
  | clockLossRetrain
  /-- TXN_REQUEST_RECEIVED (R289): A TXN request packet arrives at its destination and is performed as a NoC
    access by the receiving port. -/
  | txnRequestReceived (port : Fin 6)
  /-- TXN_RESPONSE_RECEIVED (R291): A TXN response packet arrives at its initiator's device, or is discarded as
    late. -/
  | txnResponseReceived (port : Fin 6)
  /-- MGMT_MESSAGE_RECEIVED (R294): A MGMT request message is received on channel 14 or 15, or is refused when the
    queue is full. -/
  | mgmtMessageReceived (port : Fin 6)
  /-- MGMT_EVENT_MESSAGE (R469): A forwarded event message arrives and is posted with the forwarded flag. -/
  | mgmtEventMessage (port : Fin 6)
  /-- FORWARD_TIMEOUT (R468): The forwarding timeout expires and the host's command is answered with ST_TIMEOUT. -/
  | forwardTimeout
  /-- DSP_TOKEN_WRITE (R394): A NoC write to DSP_TOKEN delivers whole tokens to the dispatcher. -/
  | dspTokenWrite (src : BitVec 8) (tag : BitVec 12)
  /-- DSP_DONE_WRITE (R394): A NoC write to DSP_DONE delivers DONE tokens to the dispatcher. -/
  | dspDoneWrite (src : BitVec 8) (tag : BitVec 12)
  /-- DSP_SOURCE_DEQUEUE (R395): The dispatcher dequeues one token of two words from a bound QCTL source in
    rotation. -/
  | dspSourceDequeue
  /-- DSP_CREATE (R398): A CREATE token enters an item, is held at its source, or is discarded. -/
  | dspCreate
  /-- DSP_OPERAND (R398): An OPERAND token fills a slot of an item, or is discarded. -/
  | dspOperand
  /-- DSP_DONE (R398): A DONE token takes its flow out of service, or is discarded with cause 4. -/
  | dspDone
  /-- DSP_DISPATCH (R405): At a dispatch opportunity, the dispatcher chooses an eligible item and an engine and
    dispatches it; it meets an uncorrectable error in the store entry of a tag, false, or in the flow entry of a key,
    true. -/
  | dspDispatch (bad : Option (Bool × BitVec 32))
  /-- DSP_GROUP_WRITE (R403): A dispatch group is written into the engine's inbox in consecutive port N cycles. -/
  | dspGroupWrite (engine : Fin 256)
  /-- PIN_EDGE (R428): An edge of a pin's received level is timestamped to a tick of the present fc and recorded in the
    event FIFO. -/
  | pinEdge (pin : Fin 1152) (rise : Bool) (tick : Fin 16) (coin : Bool)
  /-- PIN_OUTPUT_LAUNCH (R426): A change in OUT_D or OUT_OE in the face register places a pin edge at tick 16 × (t
    + 3) + k. -/
  | pinOutputLaunch (pin : Fin 1152) (d oe : Bool) (ofs : BitVec 4)
  /-- PIN_EVENT_POP (R430): EV_POP pops one event record, or returns VALID 0 when the FIFO is empty. -/
  | pinEventPop (pin : Fin 1152)
  /-- PIN_WINDOW_OPEN (R431): WIN_SET opens a compare window and abandons any window that is open. -/
  | pinWindowOpen (pin : Fin 1152) (start len : BitVec 20)
  /-- PIN_WINDOW_RESULT (R432): The window result is presented with WIN_DONE. -/
  | pinWindowResult (pin : Fin 1152)
  /-- BANK_LEVEL_MEASURE (R412): VCCIO_Bnn is measured at power-on and every 1 ms; a change after release makes
    the bank's pins high-impedance. -/
  | bankLevelMeasure (bank : Fin 24) (mv : BitVec 12)
  /-- BANK_POWER_RECOVER (R414): A bank has measured its original level for 10 ms and its pins return. -/
  | bankPowerRecover (bank : Fin 24) (levels : BitVec 48)
  /-- PIN_SHORT (R433): The current limit and a level mismatch persist for PIN_SHORT_FILT, so the pin is made
    safe. -/
  | pinShort (pin : Fin 1152) (level : Bool)
  /-- PIN_OVERVOLTAGE (R433): A pin stays above VCCIO_Bnn + 0.3 V for 1 µs and is made safe. -/
  | pinOvervoltage (pin : Fin 1152) (level : Bool)
  /-- PIN_PROBE_PHASE (R434): A probe phase of PHASE_US ends; the pin is sampled and then classified. -/
  | pinProbePhase (above90 below10 : Bool)
  /-- PIN_POLARITY_CHECK (R435): The 1 µs polarity sample of a differential pair ends, and the receiver inverts if
    needed. -/
  | pinPolarityCheck (pin : Fin 1152) (steady level : Bool)
  /-- MBX_RING (R459): A doorbell write posts a request, acknowledges a response, or is ignored in BUSY. -/
  | mbxRing (channel : Fin 16)
  /-- MBX_ACK (R458): MBX_ACK marks the response consumed and returns the channel to IDLE. -/
  | mbxAck (channel : Fin 16)
  /-- MBX_CLEAR (R457): MBX_CLEAR returns the channel to IDLE from RESPONSE or PART and discards the parts. -/
  | mbxClear (channel : Fin 16)
  /-- MBX_REQ_PUSH (R465): The fabric pushes a request word into a fabric mailbox; a request is taken at REQ_LAST. -/
  | mbxReqPush (channel : Fin 4) (word : W64) (last : Bool)
  /-- MBX_RSP_POP (R94): The fabric pops a response word from a fabric mailbox. -/
  | mbxRspPop (channel : Fin 4)
  /-- SMBUS_POINTER_WRITE (R462): SMBus command 0x01 sets the 2-byte pointer of channel 13. -/
  | smbusPointerWrite (value : BitVec 16) (pecOk : Bool)
  /-- SMBUS_BLOCK_WRITE (R462): SMBus command 0x02 writes 1 to 32 bytes at the pointer and advances it. -/
  | smbusBlockWrite (bytes : List Byte) (pecOk : Bool)
  /-- SMBUS_BLOCK_READ (R462): SMBus command 0x03 reads 32 bytes at the pointer and advances it. -/
  | smbusBlockRead
  /-- SMBUS_ARP (R462): An SMBus Address Resolution Protocol transaction is served. -/
  | smbusArp (assign : Option (BitVec 7))
  /-- BARISTA_EXECUTE (R449): Barista takes the next complete request and executes, forwards or refuses it. -/
  | baristaExecute
  /-- EVT_RING_ENABLE (R475): A write that sets EVT_RING_EN from 0 to 1 sets the ring's head and tail to 0. -/
  | evtRingEnable (value : BitVec 32)
  /-- EVT_RING_TAIL_WRITE (R475): A write to EVT_RING_TAIL frees ring space, or is ignored if out of range. -/
  | evtRingTailWrite (value : BitVec 32)
  /-- EVT_ALERT_ACK_WRITE (R477): A write to EVT_ALERT_ACK acknowledges events and may release ALERT_N. -/
  | evtAlertAckWrite (value : BitVec 32)
  /-- LOCKSTEP_MISMATCH (R445): The checker finds the cores disagree: they halt and the mailbox hardware takes
    every channel. -/
  | lockstepMismatch
  /-- LOCKSTEP_RESTART_DONE (R445): The restart completes, firmware serves again, and EV_BARISTA_RESTART is
    posted. -/
  | lockstepRestartDone (codeOk : Bool) (third : Bool) (flashA flashB : Option FwImage)
  /-- FW_TRIAL_TIMEOUT (R443): A trial firmware has not initialised within 100 ms, so the ROM falls back to the
    other slot. -/
  | fwTrialTimeout
  /-- REGION_TEST_DONE (R530): An in-service region test ends; the region is BLANK or RETIRED. -/
  | regionTestDone (region : Fin 32) (fails : List BistFail) (excursion : Bool)
  /-- MEMORY_TEST_DONE (R545): The march of TST.MEMORY over the named blocks completes. -/
  | memoryTestDone (fails : List (Fin 1152))
  /-- ANALOG_TEST_DONE (R545): A TST.ANALOG test completes. -/
  | analogTestDone (ok : Bool)
  /-- SKIP_CHANGE_DONE (R536): A skip change in a maintenance window completes its remeasurement of the layer's
    crossings. -/
  | skipChangeDone (crossings : List CrossObs)
  /-- REPAIR_RECORD_WRITE (R544): A repair-record write, deferred while S19 read above 95 °C, is written once the
    temperature allows. -/
  | repairRecordWrite
  /-- TAG_WRITE_DONE (R565): A tag page write completes and EV_TAG_DONE is posted. -/
  | tagWriteDone
  /-- LIFECYCLE_DONE (R555): A life-cycle transition completes, and EV_LIFECYCLE is raised. -/
  | lifecycleDone
  /-- SYS_HELLO (R470): SYS.HELLO sets the channel's interface revision and returns identity. -/
  | sysHello (r : Req) (rev : BitVec 8)
  /-- SYS_VERSION (R479): SYS.VERSION returns the firmware and ROM versions. -/
  | sysVersion (r : Req)
  /-- SYS_FW_LOAD (R444): SYS.FW_LOAD places firmware in working memory while Barista is in ROM mode. -/
  | sysFwLoad (r : Req) (addr : BitVec 48) (length : BitVec 20)
  /-- SYS_FW_UPDATE (R479): SYS.FW_UPDATE writes a whole slot image into the slot not in use. -/
  | sysFwUpdate (r : Req) (addr : BitVec 48) (length : BitVec 20)
  /-- SYS_FW_ACTIVATE (R443): SYS.FW_ACTIVATE selects a slot as a trial. -/
  | sysFwActivate (r : Req) (slot : Bool)
  /-- SYS_FW_STATUS (R479): SYS.FW_STATUS returns the state of the firmware slots. -/
  | sysFwStatus (r : Req)
  /-- SYS_RESTART (R479): SYS.RESTART answers and then restarts Barista from flash. -/
  | sysRestart (r : Req)
  /-- SYS_CHANNEL_POLICY (R451): SYS.CHANNEL_POLICY sets the group mask of another channel. -/
  | sysChannelPolicy (r : Req) (channel : BitVec 4) (mask : BitVec 32)
  /-- SYS_FWD_TIMEOUT (R468): SYS.FWD_TIMEOUT sets the forwarding timeout. -/
  | sysFwdTimeout (r : Req) (ms : BitVec 14)
  /-- CFG_LOAD (R221): CFG.LOAD starts an image load from flash, the workspace ring or JTAG. -/
  | cfgLoad (r : Req) (source : BitVec 2) (offset : BitVec 32)
  /-- CFG_STATUS (R225): CFG.STATUS returns the load result record. -/
  | cfgStatus (r : Req)
  /-- CFG_LIST (R237): CFG.LIST returns the present contexts of a region and their build identifiers. -/
  | cfgList (r : Req) (region : BitVec 5)
  /-- CFG_DELETE (R237): CFG.DELETE removes stored contexts. -/
  | cfgDelete (r : Req) (mask : BitVec 32) (context : BitVec 4)
  /-- CFG_READBACK (R226): CFG.READBACK queues a copy of frames into the workspace. -/
  | cfgReadback (r : Req) (region : BitVec 5) (source : BitVec 2) (number : BitVec 4) (tile : BitVec 11) (frame : BitVec 10) (count : BitVec 11) (wsOffset : BitVec 27)
  /-- CFG_SCRUB_STATUS (R236): CFG.SCRUB_STATUS returns the scrub status record. -/
  | cfgScrubStatus (r : Req)
  /-- CFG_MEM_INIT (R191): CFG.MEM_INIT applies a stored initialisation image to memory blocks. -/
  | cfgMemInit (r : Req) (image : BitVec 16)
  /-- CFG_MEM_MODE (R183): CFG.MEM_MODE sets a block's QCTL mode and empties its queue. -/
  | cfgMemMode (r : Req) (block : BitVec 11) (mode : BitVec 3) (capLog2 : BitVec 4) (creditInit : BitVec 14) (patrolEn : Bool)
  /-- CFG_MEM_STATUS (R184): CFG.MEM_STATUS returns the seven QCTL registers of a block. -/
  | cfgMemStatus (r : Req) (block : BitVec 11)
  /-- CTX_STAGE (R138): CTX.STAGE checks and queues stagings of a stored context into a slot. -/
  | ctxStage (r : Req) (mask : BitVec 32) (context : BitVec 4) (slot : BitVec 2) (fast : Bool)
  /-- CTX_SWITCH (R132): CTX.SWITCH arms a switch for a window boundary. -/
  | ctxSwitch (r : Req) (mask : BitVec 32) (slot : BitVec 2) (init : Bool) (at_ : W64)
  /-- CTX_START (R133): CTX.START arms the start of a verified slot. -/
  | ctxStart (r : Req) (mask : BitVec 32) (slot : BitVec 2) (init : Bool) (at_ : W64)
  /-- CTX_HOLD (R133): CTX.HOLD arms a hold of a RUNNING region. -/
  | ctxHold (r : Req) (mask : BitVec 32) (at_ : W64)
  /-- CTX_RESUME (R133): CTX.RESUME arms the resumption of a HELD region. -/
  | ctxResume (r : Req) (mask : BitVec 32) (at_ : W64)
  /-- CTX_STOP (R133): CTX.STOP arms a stop of a RUNNING region, or stops a HELD region at once. -/
  | ctxStop (r : Req) (mask : BitVec 32) (at_ : W64)
  /-- CTX_RESET (R133): CTX.RESET arms a region reset. -/
  | ctxReset (r : Req) (mask : BitVec 32) (at_ : W64)
  /-- CTX_CLEAR (R116): CTX.CLEAR empties all slots and makes the region BLANK. -/
  | ctxClear (r : Req) (mask : BitVec 32)
  /-- CTX_EVICT (R607): CTX.EVICT empties a verified slot at one fc boundary, unless a switch into it is pending. -/
  | ctxEvict (r : Req) (mask : BitVec 32) (slot : BitVec 2)
  /-- CTX_STATUS (R118): CTX.STATUS returns the status word of each named region. -/
  | ctxStatus (r : Req) (mask : BitVec 32)
  /-- CTX_WINDOW (R130): CTX.WINDOW sets the window exponent p. -/
  | ctxWindow (r : Req) (p : BitVec 5)
  /-- PWR_STATUS (R521): PWR.STATUS returns PWR_DOM_STATUS of the named domains. -/
  | pwrStatus (r : Req) (mask : BitVec 96)
  /-- PWR_ON (R483): PWR.ON powers domains on, with the domains they need, or wakes regions from retention. -/
  | pwrOn (r : Req) (mask : BitVec 96)
  /-- PWR_OFF (R486): PWR.OFF starts the shut-down of domains. -/
  | pwrOff (r : Req) (mask : BitVec 96)
  /-- PWR_TAMP (R487): PWR.TAMP closes a domain's fence and leaves the domain on. -/
  | pwrTamp (r : Req) (mask : BitVec 96)
  /-- PWR_RETAIN (R492): PWR.RETAIN places regions in retention. -/
  | pwrRetain (r : Req) (mask : BitVec 96)
  /-- PWR_WAKE_CFG (R494): PWR.WAKE_CFG sets the wake sources, the wake set and deep idle. -/
  | pwrWakeCfg (r : Req) (sources : BitVec 3) (portMask : BitVec 6) (deepEn : Bool) (wakeSet : BitVec 96) (pinSet : BitVec 1152)
  /-- PWR_BASE_RESET (R496): PWR.BASE_RESET answers and schedules a base warm reset 100 µs later. -/
  | pwrBaseReset (r : Req)
  /-- CLK_STATUS (R521): CLK.STATUS returns clock frequencies and lock states. -/
  | clkStatus (r : Req)
  /-- CLK_FABRIC (R502): CLK.FABRIC changes the fabric multiplier M on a root and relocks PLL group 0. -/
  | clkFabric (r : Req) (m : BitVec 7)
  /-- CLK_AUX (R505): CLK.AUX configures an auxiliary clock output. -/
  | clkAux (r : Req) (output : BitVec 3) (n : BitVec 13) (start : W64) (enable : Bool)
  /-- THM_STATUS (R521): THM.STATUS returns the thermal summary. -/
  | thmStatus (r : Req)
  /-- THM_SENSORS (R521): THM.SENSORS returns sensor registers. -/
  | thmSensors (r : Req) (first : BitVec 7) (count : BitVec 7)
  /-- THM_LIMITS (R508): THM.LIMITS lowers the warning and throttle thresholds. -/
  | thmLimits (r : Req) (warn : BitVec 8) (throttle : BitVec 8)
  /-- DRM_STATUS (R605): DRM.STATUS returns channel records. -/
  | drmStatus (r : Req) (mask : BitVec 8)
  /-- DRM_SETPOINT (R328): DRM.SETPOINT requests a set point switch, queued behind training. -/
  | drmSetpoint (r : Req) (setpoint : BitVec 2)
  /-- DRM_SETPOINT_CFG (R325): DRM.SETPOINT_CFG changes the speed of a set point that is not in use. -/
  | drmSetpointCfg (r : Req) (setpoint : BitVec 2) (speed : BitVec 3)
  /-- DRM_QOS (R321): DRM.QOS sets a class age limit. -/
  | drmQos (r : Req) (cls : BitVec 2) (ageNs : BitVec 16)
  /-- DRM_NRR (R323): DRM.NRR sets the neighbour-refresh exponent. -/
  | drmNrr (r : Req) (mask : BitVec 8) (exp : BitVec 5)
  /-- DRM_PPR (R333): DRM.PPR requests a soft repair of a named row. -/
  | drmPpr (r : Req) (channel : BitVec 3) (sub : Bool) (dimm : Bool) (rank : Bool) (cid : BitVec 3) (bg : BitVec 3) (ba : BitVec 2) (row : BitVec 18)
  /-- DRM_PPR_AUTO (R331): DRM.PPR_AUTO sets automatic soft repair. -/
  | drmPprAuto (r : Req) (mask : BitVec 8) (enable : Bool)
  /-- DRM_EXCLUDE (R336): DRM.EXCLUDE names channels to leave out at later starts. -/
  | drmExclude (r : Req) (mask : BitVec 8)
  /-- DRM_INCLUDE (R336): DRM.INCLUDE returns excluded channels at later starts. -/
  | drmInclude (r : Req) (mask : BitVec 8)
  /-- DRM_TRAIN_EXPORT (R330): DRM.TRAIN_EXPORT returns stored training results. -/
  | drmTrainExport (r : Req) (channel : BitVec 3) (setpoint : BitVec 2)
  /-- DRM_TRAIN_IMPORT (R330): DRM.TRAIN_IMPORT loads a training record. -/
  | drmTrainImport (r : Req) (channel : BitVec 3) (setpoint : BitVec 2) (record : List Byte)
  /-- DRM_DMA_STOP (R340): DRM.DMA_STOP stops named PF1 DMA channels. -/
  | drmDmaStop (r : Req) (mask : BitVec 16)
  /-- DRM_ERRLOG (R339): DRM.ERRLOG returns recent error locations and repair entries. -/
  | drmErrlog (r : Req) (channel : BitVec 3)
  /-- PRT_STATUS (R366): PRT.STATUS returns the PRT registers and the poison list. -/
  | prtStatus (r : Req)
  /-- PRT_CAPACITY (R346): PRT.CAPACITY sets the integrity capacity for the next start. -/
  | prtCapacity (r : Req) (pGib : BitVec 11)
  /-- PRT_IR_SET (R348): PRT.IR_SET creates or deletes an integrity region. -/
  | prtIrSet (r : Req) (ir : BitVec 3) (enable : Bool) (baseGib : BitVec 10) (sizeLog2 : BitVec 4)
  /-- PRT_REINIT (R362): PRT.REINIT zero-fills a range under the next epoch and removes covered poison entries. -/
  | prtReinit (r : Req) (ir : BitVec 3) (base : BitVec 36) (pages : BitVec 36)
  /-- PRT_RANGE_SET (R364): PRT.RANGE_SET configures a protected range. -/
  | prtRangeSet (r : Req) (range : BitVec 4) (base : BitVec 36) (limit : BitVec 36) (enable : Bool) (lock : Bool)
  /-- PRT_PRIV (R361): PRT.PRIV names privileged NoC sources. -/
  | prtPriv (r : Req) (mask : BitVec 256)
  /-- LNK_STATUS (R604): LNK.STATUS returns port records. -/
  | lnkStatus (r : Req) (mask : BitVec 6)
  /-- LNK_UP (R250): LNK.UP enables ports with their encryption setting. -/
  | lnkUp (r : Req) (mask : BitVec 6) (encrypt : Bool)
  /-- LNK_DOWN (R250): LNK.DOWN disables ports. -/
  | lnkDown (r : Req) (mask : BitVec 6)
  /-- LNK_ROLE (R240): LNK.ROLE sets root or member. -/
  | lnkRole (r : Req) (member : Bool)
  /-- LNK_ROUTE_SET (R284): LNK.ROUTE_SET writes a route table entry. -/
  | lnkRouteSet (r : Req) (handle : BitVec 12) (route : W64) (next : BitVec 12)
  /-- LNK_ROUTE_GET (R284): LNK.ROUTE_GET returns a route table entry. -/
  | lnkRouteGet (r : Req) (handle : BitVec 12)
  /-- LNK_CWIN_SET (R292): LNK.CWIN_SET configures a chain window. -/
  | lnkCwinSet (r : Req) (window : BitVec 8) (handle : BitVec 12) (base : BitVec 12) (writeEn : Bool) (atomicEn : Bool)
  /-- LNK_RESET (R299): LNK.RESET agrees new keys and clears the poison. -/
  | lnkReset (r : Req) (mask : BitVec 6)
  /-- LNK_WIDEN (R265): LNK.WIDEN tests the unused lanes and widens the link. -/
  | lnkWiden (r : Req) (mask : BitVec 6)
  /-- LNK_TEST (R300): LNK.TEST enters TEST state with pattern generators. -/
  | lnkTest (r : Req) (port : BitVec 3) (laneMask : BitVec 10) (pattern : BitVec 3) (pam2 : Bool) (user : BitVec 160) (injectMode : BitVec 2) (e : BitVec 6) (b : BitVec 7)
  /-- LNK_TEST_RESULT (R301): LNK.TEST_RESULT returns the checker counters. -/
  | lnkTestResult (r : Req) (port : BitVec 3)
  /-- LNK_TIME (R604): LNK.TIME returns chain time and role. -/
  | lnkTime (r : Req)
  /-- LNK_TIME_TRIM (R279): LNK.TIME_TRIM enters a wire-delay asymmetry. -/
  | lnkTimeTrim (r : Req) (port : BitVec 3) (asymPs : BitVec 16)
  /-- LNK_SLOTS (R604): LNK.SLOTS returns the slot reservation map. -/
  | lnkSlots (r : Req) (port : BitVec 3)
  /-- LNK_FEC_INJECT (R302): LNK.FEC_INJECT starts FEC symbol corruption. -/
  | lnkFecInject (r : Req) (port : BitVec 3) (lane : BitVec 3) (s_ : BitVec 4) (m : BitVec 16)
  /-- LNK_LANE_LIMIT (R260): LNK.LANE_LIMIT sets LANE_ERR_LIMIT. -/
  | lnkLaneLimit (r : Req) (mask : BitVec 6) (limit : BitVec 16)
  /-- PIN_CONFIG (R421): PIN.CONFIG sets pin configuration. -/
  | pinConfig (r : Req) (bank : BitVec 5) (mask : BitVec 48) (cfg : W64)
  /-- PIN_STATUS (R437): PIN.STATUS returns pin status and may clear counters. -/
  | pinStatus (r : Req) (bank : BitVec 5) (mask : BitVec 48) (clear : Bool)
  /-- PIN_CLEAR (R433): PIN.CLEAR re-enables pins made safe. -/
  | pinClear (r : Req) (bank : BitVec 5) (mask : BitVec 48)
  /-- PIN_PROBE (R434): PIN.PROBE starts probing named pins. -/
  | pinProbe (r : Req) (pinSet : BitVec 1152) (phaseUs : BitVec 8) (expect : Bool)
  /-- PIN_POLARITY (R435): PIN.POLARITY starts a polarity check of differential pairs. -/
  | pinPolarity (r : Req) (bank : BitVec 5) (mask : BitVec 48)
  /-- PIN_BANK (R437): PIN.BANK returns PIN_BANK_STATUS. -/
  | pinBank (r : Req) (bank : BitVec 5)
  /-- DSP_STATUS (R410): DSP.STATUS returns the dispatcher registers. -/
  | dspStatus (r : Req)
  /-- DSP_CONFIG (R410): DSP.CONFIG sets the bypass thresholds and the default group. -/
  | dspConfig (r : Req) (t0 t1 t2 : BitVec 8) (defaultGroup : BitVec 5)
  /-- DSP_ENGINE_SET (R402): DSP.ENGINE_SET binds an engine to an inbox block. -/
  | dspEngineSet (r : Req) (engine : BitVec 8) (block : BitVec 11) (thresh : BitVec 13) (enable : Bool)
  /-- DSP_GROUP_SET (R410): DSP.GROUP_SET sets an engine group mask. -/
  | dspGroupSet (r : Req) (group : BitVec 5) (mask : BitVec 256)
  /-- DSP_SOURCE_SET (R395): DSP.SOURCE_SET binds a source to a FIFO block. -/
  | dspSourceSet (r : Req) (source : BitVec 6) (block : BitVec 11) (role : Bool) (enable : Bool)
  /-- DSP_FLOW_SET (R400): DSP.FLOW_SET allocates or changes a pinned flow. -/
  | dspFlowSet (r : Req) (flow : BitVec 32) (group : BitVec 5)
  /-- DSP_FLOW_GET (R410): DSP.FLOW_GET returns a flow's state. -/
  | dspFlowGet (r : Req) (flow : BitVec 32)
  /-- DSP_FLOW_RELEASE (R401): DSP.FLOW_RELEASE takes a flow out of service. -/
  | dspFlowRelease (r : Req) (flow : BitVec 32)
  /-- DSP_FLOW_CLEAR (R400): DSP.FLOW_CLEAR frees a flow. -/
  | dspFlowClear (r : Req) (flow : BitVec 32)
  /-- DSP_FLUSH (R410): DSP.FLUSH empties the store and the flow table. -/
  | dspFlush (r : Req)
  /-- NOC_STATUS (R606): NOC.STATUS returns the NOC registers. -/
  | nocStatus (r : Req)
  /-- NOC_TIMEOUT (R381): NOC.TIMEOUT sets a source's timeout. -/
  | nocTimeout (r : Req) (source : BitVec 8) (us : BitVec 20)
  /-- NOC_ROUTER_CFG (R383): NOC.ROUTER_CFG starts a router reconfiguration. -/
  | nocRouterCfg (r : Req) (router : BitVec 6) (rt hi norm bulk : BitVec 4)
  /-- NOC_COUNTERS (R390): NOC.COUNTERS returns and may clear a source's counters. -/
  | nocCounters (r : Req) (source : BitVec 8) (clear : Bool)
  /-- TST_STATUS (R545): TST.STATUS returns the test results. -/
  | tstStatus (r : Req)
  /-- TST_REGION (R529): TST.REGION starts in-service BIST of BLANK regions. -/
  | tstRegion (r : Req) (mask : BitVec 32) (parallel : BitVec 3)
  /-- TST_MEMORY (R545): TST.MEMORY starts a march of named blocks. -/
  | tstMemory (r : Req) (block : BitVec 11) (count : BitVec 11)
  /-- TST_ANALOG (R545): TST.ANALOG starts an analogue test of a unit. -/
  | tstAnalog (r : Req) (unit : BitVec 2) (index : BitVec 5)
  /-- RPR_STATUS (R545): RPR.STATUS returns the repair summary. -/
  | rprStatus (r : Req)
  /-- RPR_MAP (R545): RPR.MAP returns retired-resource map entries. -/
  | rprMap (r : Req) (first : BitVec 12) (count : BitVec 8)
  /-- RPR_SKIP (R535): RPR.SKIP records a skip position or applies it in a maintenance window. -/
  | rprSkip (r : Req) (layer : Bool) (s_ : BitVec 5) (when_ : Bool)
  /-- RPR_RETIRE (R540): RPR.RETIRE retires a resource or removes a persistent entry. -/
  | rprRetire (r : Req) (entry : W64) (action : Bool)
  /-- RPR_RECORD (R545): RPR.RECORD reads the repair record or sets its parameters. -/
  | rprRecord (r : Req) (action : BitVec 2) (value : BitVec 8) (offset : BitVec 13)
  /-- SEC_STATUS (R567): SEC.STATUS returns the security state and the nonce. -/
  | secStatus (r : Req)
  /-- SEC_CERT (R551): SEC.CERT returns the certificate and an attestation. -/
  | secCert (r : Req) (nonce : BitVec 384)
  /-- SEC_KEY_SET (R550): SEC.KEY_SET writes or revokes a user image key. -/
  | secKeySet (r : Req) (slot : BitVec 2) (action : Bool) (keyIndex : BitVec 3) (sig : BitVec 768) (record : List Byte)
  /-- SEC_OWNER (R553): SEC.OWNER writes or revokes an owner key slot. -/
  | secOwner (r : Req) (slot : BitVec 3) (action : Bool) (keyIndex : BitVec 3) (digest : BitVec 384) (sig : BitVec 768) (record : List Byte)
  /-- SEC_LIFECYCLE (R555): SEC.LIFECYCLE starts a life-cycle transition. -/
  | secLifecycle (r : Req) (target : BitVec 3) (keyIndex : BitVec 3) (sig : BitVec 768) (record : List Byte)
  /-- SEC_ZEROISE (R559): SEC.ZEROISE raises a tamper with cause 0x4. -/
  | secZeroise (r : Req)
  /-- TAG_READ (R567): TAG.READ returns tag bytes and page write counts. -/
  | tagRead (r : Req) (offset : BitVec 13) (length : BitVec 13)
  /-- TAG_WRITE (R565): TAG.WRITE starts a page write. -/
  | tagWrite (r : Req) (offset : BitVec 13) (record : List Byte)
  /-- TAG_LOCK (R564): TAG.LOCK sets permanent lock bits. -/
  | tagLock (r : Req) (mask : BitVec 8)
  /-- TAG_IDENTITY (R567): TAG.IDENTITY returns the factory identity record. -/
  | tagIdentity (r : Req)
  /-- LOG_EVENTS (R602): LOG.EVENTS returns log records by post number. -/
  | logEvents (r : Req) (from_ : BitVec 32) (count : BitVec 8)
  /-- LOG_ALERT_ACK (R477): LOG.ALERT_ACK acknowledges events for ALERT_N. -/
  | logAlertAck (r : Req) (number : BitVec 32)
  /-- LOG_ALERT_LEVEL (R479): LOG.ALERT_LEVEL sets the lowest severity that asserts ALERT_N. -/
  | logAlertLevel (r : Req) (level : BitVec 3)
  /-- LOG_EVENT_ROUTE (R478): LOG.EVENT_ROUTE sets where events are forwarded. -/
  | logEventRoute (r : Req) (handle : BitVec 12) (minSeverity : BitVec 3)
  /-- LOG_COUNTERS (R479): LOG.COUNTERS returns and may clear the log counters. -/
  | logCounters (r : Req) (clear : Bool)
  /-- LOG_MEM_CONFLICT (R192): LOG.MEM_CONFLICT returns a sector's conflict counters and may clear them. -/
  | logMemConflict (r : Req) (sector : BitVec 3) (clear : Bool)
  /-- FABRIC_CLOCK_CYCLE (R33): In each fc of the running slot, cell registers, carry-over registers, routing
    registers and border registers take their next values. -/
  | fabricClockCycle
  /-- CONFIGURATION_UPSET (R69): An upset changes a configuration bit of a resident plane, so a select no longer
    one-hot makes its multiplexer drive constant 0 while that plane runs. -/
  | configurationUpset (region : Fin 32) (slot : Fin 4) (tile : Fin 36) (frame : Fin 1024) (bit : Fin 1024)
  /-- BOND_PAD_FAILURE (R15): One bond pad of an L1–L2 signal fails: the signal continues on the other pad and the
    failure is counted, or with both pads failed it becomes a failed vertical connection. -/
  | bondPadFailure (layer : Bool) (column row : Fin 24) (cluster : Fin 256) (wire : Fin 16)
  /-- MGMT_RESPONSE_RECEIVED (R468): A MGMT response returns along the return route; the forwarding Barista passes
    it to the host's channel with FORWARDED set, or discards it when it is late. -/
  | mgmtResponseReceived (port : Fin 6)
  /-- TIMED_OUT_TAG_FREE (R382): 1 s after a timeout with no late response, the timed-out tag may be used again. -/
  | timedOutTagFree (src : BitVec 8) (tag : BitVec 12)
  /-- BASE_WARM_RESET_DONE (R496): The base warm reset completes: the NoC, DRAM channels and PCIe are back in
    service and PWR and CLK commands are accepted again. -/
  | baseWarmResetDone
  /-- WIDEN_PRBS_CHECK_DONE (R265): The 1 ms PRBS31 check of the unused lanes ends, and the link widens to what
    the good lanes allow or LNK.WIDEN returns ST_STATE. -/
  | widenPrbsCheckDone (port : Fin 6) (good : BitVec 9)
  /-- REINIT_ZERO_FILL_DONE (R366): The zero-fill of a PRT.REINIT range completes, its poison list entries are
    removed and the command completes with EV_PRT_DONE. -/
  | reinitZeroFillDone (ir : Fin 8)
  /-- FW_UPDATE_DONE (R479): The flash write of SYS.FW_UPDATE into the slot not in use completes or fails, and
    EV_SYS_DONE is posted. -/
  | fwUpdateDone (ok : Bool)
  /-- REGION_RETENTION_ENTERED (R492): A region named by PWR.RETAIN reaches retention, with its planes kept and
    not scrubbed, and EV_PWR_DONE reports ST_OK. -/
  | regionRetentionEntered (region : Fin 32)
  /-- SUPPLY_OUT_OF_TOLERANCE (R571): A required supply leaves its operating tolerance before PWR_GOOD falls, and
    all state except eFuse, tag NVM and flash contents is lost. -/
  | supplyOutOfTolerance
  deriving DecidableEq, Repr

end Sys2Proof
end

