-- ==== Sys2Proof/Decode.lean ====
section
/-! DEFINITION. The block takes commands, not encoded instructions: no row of spec/opcode_table.json gives bits, so no word
spells a command. -/

namespace Sys2Proof

/-- The command that a word spells by the bits of the opcode table. No row has bits, so there is none. -/
def decodeTableWord (_nbits _w : Nat) : Option Instr := none

end Sys2Proof
end

