-- ==== Sys2Proof/Config.lean ====
section
/-! DEFINITION. What one AE9624 fixes at manufacture, and the free values: constants without a body where the spec
names a standard's function, an unpublished bit position, a fused value or a value it leaves open. -/

namespace Sys2Proof.Config

/-- The ordering code: true for AE9624-2C, false for AE9624-1C (R1, ID_GRADE of Table MBX-11). -/
opaque grade2C : Bool

/-- The grade maximum of the fabric multiplier M: 72 on a 2C and 60 on a 1C (R501). -/
def mMax : Nat := if grade2C then 72 else 60

/-- The serial number of the factory identity record (R241, Table SEC-5). -/
opaque serial : W64

/-- ID_STEPPING (Table MBX-11). -/
opaque stepping : BitVec 4

/-- The version that SYS.VERSION returns for the ROM (Table MBX-17). -/
opaque romVersion : BitVec 32

/-- Byte k of the factory identity record where Table SEC-5 leaves it to the device: year, week, lots, wafers and dies. -/
opaque identityByte : Nat → Byte

/-- The device certificate in DER (R551). -/
opaque certificate : List Byte

/-- FREE VALUE. The n-th value that the spec leaves open: a random draw, an unpredictable read. -/
opaque freeValue : Nat → BitVec 512

/-- The decoded content of a frame with f mod 4 = kind (R203: the bit positions are fixed and not published). -/
opaque decodeFrame : Fin 4 → BitVec 1024 → FramePart

/-- Which bit of a block port's response the VM wire j entering the cluster at x carries (R155). -/
opaque vmReturnBit : Nat → Nat → Nat

/-- Which bit of a hard primitive's outputs the site cluster's crossbar input j is (R124, R378, R425, R463). -/
opaque faceBit : Nat → Nat

/-- SHA-384 over bytes (FIPS 180-4, named by R197, R198). -/
opaque sha384 : List Byte → BitVec 384

/-- ECDSA P-384 verification: key, digest, signature (R198, R441, R554). -/
opaque ecdsaVerify : List Byte → BitVec 384 → List Byte → Bool

/-- The Krasan firmware key held in ROM (Table MBX-1). -/
opaque firmwareKey : List Byte

/-- The unwrapping of SEC.KEY_SET's record for a slot with the device identity key: the image key, or none when the
tag fails to verify (R550). -/
opaque unwrapKey : Nat → List Byte → Option (BitVec 256)

/-- The attestation signature by the device identity key over a digest (R551). -/
opaque attest : BitVec 384 → List Byte

/-- The content of a MGMT message's flits (R294 gives its parts and no byte layout). -/
opaque decodeMgmt : List (BitVec 240) → MgmtMsg

/-- FREE VALUE. What a byte of host memory that the device has not written holds (Table NOC-3). -/
opaque hostByte : Nat → Byte

/-- The training record of a channel and set point as DRM.TRAIN_EXPORT returns it (R330 gives no layout). -/
opaque trainingRecord : Nat → Nat → Nat → List Byte

/-- The DIMM serial number that a training record names, and the generation of the results it holds (R330). -/
opaque recordSerial : List Byte → BitVec 32

/-- Whether a training record's CRC-32C verifies (R330). -/
opaque recordCrcOk : List Byte → Bool

/-- The unique device identifier of SMBus ARP, derived from the serial number (R462). -/
opaque smbusUdid : BitVec 128

/-- The state of a test pattern checker: bits compared and bit errors of a lane after the n-th reading (R300, R301). -/
opaque testCounters : Nat → BitVec 48 × BitVec 48

end Sys2Proof.Config
end

