-- ==== Sys2Proof/Machine/State.lean ====
section
/-! DEFINITION. The state of one AE9624 as plain data, the reasons a step can stop, and the state right after reset.
Each field's docstring gives its width, the rule of spec/ that names it and its value at reset. -/

namespace Sys2Proof.Machine

/-- The reasons of a fault. No meaning of this model raises one: the spec answers every error with a status code, an
event or an ignored operation. Safe: nothing can be proved of a step that faults. -/
inductive Fault where
  /-- Raised by no meaning (safe). -/
  | unreachable
  deriving DecidableEq, Repr

/-- The reasons of a refusal. -/
inductive Refusal where
  /-- The command of this mnemonic has no meaning yet. Raised by Dispatch's arms alone; safe. -/
  | notModelled (mnemonic : String)
  deriving DecidableEq, Repr

/-- The status codes of Table MBX-12 (R472). -/
inductive Status where
  | ok
  | busy
  | pending
  | badCmd
  | badArg
  | denied
  | state
  | noResource
  | retired
  | crc
  | auth
  | timeout
  | domainOff
  | baseReset
  | poison
  | integrity
  | thermal
  | internal
  deriving DecidableEq, Repr, Inhabited

/-- The events of Table MBX-16. -/
inductive Ev where
  | baristaRestart | fwFallback | sysDone | ringOverflow | hwEventsLost
  | cfgDone | ctxDamaged | scrubMapFallback | scrubStalled | upsetEssential | memInitDone | memUncorrectable | memColumn
  | ctxDone | slotInvalidated | regionRetired | valignLost | carryoverParity
  | pwrDone
  | clkDone | clockLost | clockGrade
  | thermalWarn | thermalThrottle | thermalTrip | thermalRor | thermalRestart
  | drmDone | dramPopulation | dramUncorrectable | dramPpr | dramChannelFailed
  | prtDone | integrity | epochAdvanced | prtCapacity
  | lnkDone | linkUp | linkDown | linkReversed | laneSpared | linkWidth | linkPoisoned | schedStopped | schedResumed
  | timeSlip
  | pinDone | pinShort | pinOpen | pinPolarity | pinBankPower
  | dspToken | dspSource | dspEngine | dspFull | dspItemLost
  | nocDone | nocRouterFailed
  | tstDone | bistFail
  | rprDone | tsvSpared
  | secDone | tamper | lifecycle
  | tagDone
  deriving DecidableEq, Repr, Inhabited

/-- The commands of the mailbox (Table MBX-18), each under its code. -/
structure Origin where
  /-- CMD of the command (Table MBX-6). -/
  cmd : BitVec 16
  /-- SEQ of the request. -/
  seq : BitVec 16
  /-- Mailbox channel of the request; 0xFF when none. -/
  channel : Byte
  /-- The MGMT request message, when the command came along the chain (R469). -/
  via : Option MgmtMsg
  deriving DecidableEq, Repr, Inhabited

/-! ## Barista, mailboxes and events (chapter 13) -/

/-- States of Barista (ID_BARISTA, R471). -/
inductive BaristaState where
  | inReset
  | rom
  | serving
  | restarting
  deriving DecidableEq, Repr, Inhabited

/-- MBX_STATE (Table MBX-9). -/
inductive ChanState where
  | idle
  | busy
  | response
  | part
  deriving DecidableEq, Repr, Inhabited

/-- Request parts received so far (R455): CMD, SEQ and TARGET they share, their number and their argument bytes. -/
structure PartReq where
  cmd : BitVec 16
  seq : BitVec 16
  target : W64
  count : Nat
  args : List Byte
  deriving DecidableEq, Repr, Inhabited

/-- Response parts not yet fetched (R456). -/
structure PartRsp where
  cmd : BitVec 16
  seq : BitVec 16
  status : Byte
  flags : BitVec 16
  next : Nat
  total : Nat
  rest : List Byte
  deriving DecidableEq, Repr, Inhabited

/-- One mailbox channel (R448, R457, R463, R467). -/
structure Chan where
  /-- MBX_ENABLE, 1 bit (13 R457); reset 1. -/
  enable : Bool := true
  /-- MBX_STATE, 2 bits (13 R457); reset IDLE. -/
  st : ChanState := .idle
  /-- MBX_OVERRUN, 1 bit (13 R459); reset 0. -/
  overrun : Bool := false
  /-- MBX_WRITE_IGNORED, 1 bit (13 R459); reset 0. -/
  writeIgnored : Bool := false
  /-- MBX_IF_REV, 8 bits (13 R470); reset 1. -/
  ifRev : Byte := 1
  /-- MBX_LAST_SEQ, 16 bits (13 R457); reset 0. -/
  lastSeq : BitVec 16 := 0
  /-- MBX_IRQ_RSP_MASK, 1 bit (13 R457, R476); reset 0. -/
  irqMask : Bool := false
  /-- Request header, 16 bytes (13 R452, R457); reset DESIGN CHOICE 0 (log 1). -/
  reqHdr : BitVec 128 := 0
  /-- Request buffer, 256 bytes (13 R457); reset DESIGN CHOICE 0 (log 1). -/
  reqBuf : Tab Byte := []
  /-- Response header, 16 bytes (13 R452, R457); reset DESIGN CHOICE 0 (log 1). -/
  rspHdr : BitVec 128 := 0
  /-- Response buffer, 256 bytes (13 R457); reset DESIGN CHOICE 0 (log 1). -/
  rspBuf : Tab Byte := []
  /-- Request parts received (13 R455); reset none. -/
  parts : Option PartReq := none
  /-- Response parts not fetched (13 R456); reset none. -/
  rest : Option PartRsp := none
  /-- Fabric request queue, up to 64 words with REQ_LAST, oldest first (13 R463 to R465); reset empty. -/
  reqQ : List (W64 × Bool) := []
  /-- Fabric response queue, up to 64 words with RSP_LAST, oldest first (13 R463); reset empty. -/
  rspQ : List (W64 × Bool) := []
  /-- A fabric response that waits until it fits (13 R465); reset none. -/
  rspWait : Option (List (W64 × Bool)) := none
  /-- REQ_ACCEPT results with the fc from which they are presented, newest first (13 R463, 03 R84); reset none. -/
  accepts : List (Nat × Bool) := []
  /-- RSP_WORD, RSP_VALID, RSP_LAST results with the fc from which they are presented, newest first (13 R463, 03 R84);
  reset none. -/
  pops : List (Nat × W64 × Bool × Bool) := []
  /-- The MBX of the site is closed to further words (13 R465); reset open. -/
  closed : Bool := false
  /-- MGMT request messages held, up to 8, oldest first (13 R467); reset empty. -/
  msgs : List MgmtMsg := []
  deriving DecidableEq, Repr, Inhabited

/-- A pending command record (R450): its origin, the final events still due, and whether it was forwarded (R469). -/
structure Pend where
  org : Origin
  units : Nat
  remote : Bool
  /-- Route handle of a forwarded command. -/
  handle : BitVec 12
  deriving DecidableEq, Repr, Inhabited

/-- A forwarded command that awaits its reply (R466, R468). -/
structure Fwd where
  org : Origin
  handle : BitVec 12
  units : Nat
  /-- The request was a part with MORE set (R455). -/
  more : Bool
  /-- The host's channel was reset: the response is discarded (R460). -/
  drop : Bool
  deriving DecidableEq, Repr, Inhabited

/-- The firmware that serves (R442 to R444). -/
structure FwRun where
  version : BitVec 32
  ifRev : BitVec 16
  svn : BitVec 16
  /-- Slot it was loaded from, false A, true B; none for SYS.FW_LOAD. -/
  slot : Option Bool
  /-- On trial and not yet answered its first command (R443). -/
  trial : Bool
  deriving DecidableEq, Repr, Inhabited

/-- Barista, its firmware and the channels. -/
structure Mbx where
  /-- ID_BARISTA, 2 bits (13 R471); reset 0b00 in reset. -/
  barista : BaristaState := .inReset
  /-- The 16 channels (13 R448); reset as Chan. -/
  chans : Tab Chan := []
  /-- Group masks, 32 bits per channel (13 R451); reset Table MBX-5. -/
  groupMask : Tab (BitVec 32) :=
    [(8, 0x00020C48#32), (9, 0x00020C48#32), (10, 0x00020C48#32), (11, 0x00020C48#32)]
  /-- Channels with a complete request, in order of completion (13 R449); reset empty. -/
  order : List Nat := []
  /-- Pending command records, up to 64 (13 R450); reset empty. -/
  pend : List Pend := []
  /-- Forwarded commands that await a reply, oldest first (13 R468); reset empty. -/
  fwd : List Fwd := []
  /-- Forwarding timeout in ms, 14 bits (13 R468); reset 50. -/
  fwdMs : BitVec 14 := 50
  /-- Event route handle, 12 bits (13 R478); reset DESIGN CHOICE 0, no route (log 1). -/
  routeHandle : BitVec 12 := 0
  /-- Event route minimum severity, 3 bits (13 R478); reset DESIGN CHOICE 0 (log 1). -/
  routeMin : BitVec 3 := 0
  /-- MGMT messages handed to the ports, with the port, oldest first (13 R466, R468, R469, R478); reset empty. -/
  mgmtOut : List (Nat × MgmtMsg) := []
  /-- SMBus pointer, 16 bits (13 R462); reset DESIGN CHOICE 0 (log 1). -/
  smbPtr : BitVec 16 := 0
  /-- SMBus target address, 7 bits (13 R462); reset 0x2C. -/
  smbAddr : BitVec 7 := 0x2C
  /-- Bytes the last SMBus block read returned (13 R462); reset empty. -/
  smbOut : List Byte := []
  /-- Data the next Capture-DR of MBX_ACCESS loads, 32 bits (13 R461); reset DESIGN CHOICE 0 (log 1). -/
  jtagMbx : BitVec 32 := 0
  /-- Serving firmware (13 R442); reset none. -/
  fw : Option FwRun := none
  /-- Flash slot A (13 R440), flash content; reset DESIGN CHOICE empty (log 1); kept over RESET_N. -/
  slotA : Option FwImage := none
  /-- Flash slot B (13 R440), flash content; reset DESIGN CHOICE empty (log 1); kept over RESET_N. -/
  slotB : Option FwImage := none
  /-- Selection in the tag NVM, false A, true B (13 R442); reset DESIGN CHOICE none (log 1); kept over RESET_N. -/
  selected : Option Bool := none
  /-- The selection is a trial (13 R443); reset DESIGN CHOICE false (log 1); kept over RESET_N. -/
  selTrial : Bool := false
  /-- The restart in progress loads the selected slot from flash, after SYS.RESTART (13 R479); reset no. -/
  reload : Bool := false
  /-- ID_FW_FALLBACK, 1 bit (13 R471); reset 0. -/
  fallback : Bool := false
  /-- ID_RESTART_COUNT, 16 bits, saturating (13 R471); reset 0. -/
  restarts : BitVec 16 := 0
  /-- A SYS.FW_UPDATE whose flash write is in progress (13 R479); reset none. -/
  fwUpdate : Option (Origin × FwImage) := none
  /-- BOND_PAD_FAILS, 32 bits (13 R479, 01 R15); reset DESIGN CHOICE 0 (log 1). -/
  bondPadFails : BitVec 32 := 0
  /-- RESTARTS of LOG.COUNTERS, 16 bits (13 R479); reset DESIGN CHOICE 0 (log 1). -/
  logRestarts : BitVec 16 := 0
  /-- HW_EVENTS_LOST of LOG.COUNTERS, 32 bits (13 R474, R479); reset DESIGN CHOICE 0 (log 1). -/
  hwLostTotal : BitVec 32 := 0
  /-- FWD_TIMEOUTS, 32 bits (13 R479); reset DESIGN CHOICE 0 (log 1). -/
  fwdTimeouts : BitVec 32 := 0
  deriving DecidableEq, Repr, Inhabited

/-- An event record (Table MBX-13). -/
structure EvRec where
  code : BitVec 16
  severity : BitVec 3
  flags : Byte
  number : BitVec 32
  time : W64
  origin : W64
  data : List Byte
  deriving DecidableEq, Repr, Inhabited

/-- The event log, the event ring and the interrupt registers. -/
structure Evt where
  /-- EV_NUMBER of the last event raised here and posted, EVT_LAST_NUMBER, 32 bits (13 R473, R475); reset 0. -/
  last : BitVec 32 := 0
  /-- Post number of the last record posted, 32 bits (13 R602); reset 0. -/
  post : BitVec 32 := 0
  /-- On-chip log, up to 1,024 records with their post numbers, oldest first (13 R474); reset empty. -/
  log : List (BitVec 32 × EvRec) := []
  /-- Hardware event queue, up to 256, oldest first, each with the command it ends, if any (13 R474); reset empty. -/
  hwq : List (EvRec × Option Origin) := []
  /-- Events discarded at the full hardware queue and not yet reported, 32 bits (13 R474); reset 0. -/
  hwLost : BitVec 32 := 0
  /-- EVT_RING_BASE, 64 bits (13 R475); reset 0. -/
  ringBase : W64 := 0
  /-- EVT_RING_LOG2, 5 bits (13 R475); reset 6. -/
  ringLog2 : BitVec 5 := 6
  /-- EVT_RING_EN, 1 bit (13 R475); reset 0. -/
  ringEn : Bool := false
  /-- EVT_RING_HEAD, 32 bits (13 R475); reset 0. -/
  head : BitVec 32 := 0
  /-- EVT_RING_TAIL, 32 bits (13 R475); reset 0. -/
  tail : BitVec 32 := 0
  /-- EVT_RING_LOST, 32 bits, saturating (13 R475); reset 0. -/
  lost : BitVec 32 := 0
  /-- Records lost since the last EV_RING_OVERFLOW, 32 bits (13 R475); reset 0. -/
  lostNew : BitVec 32 := 0
  /-- EVT_ALERT_LEVEL, 3 bits (13 R475); reset 0b010. -/
  alertLevel : BitVec 3 := 2
  /-- EVT_ALERT_ACK, 32 bits (13 R477); reset 0. -/
  alertAck : BitVec 32 := 0
  /-- ALERT_N asserted (13 R477); reset released. -/
  alert : Bool := false
  /-- IRQ_RSP, 8 bits (13 R475); reset 0. -/
  irqRsp : Byte := 0
  /-- IRQ_EVENT, IRQ_RING_FULL and IRQ_BARISTA as bits 0 to 2 (13 R475); reset 0. -/
  irqEvt : BitVec 3 := 0
  /-- IRQ_MASK_EVT, 3 bits (13 R475); reset 0. -/
  irqMask : BitVec 3 := 0
  /-- MSI-X vectors signalled since reset, oldest first (13 R476); reset empty. -/
  msix : List Nat := []
  /-- Host memory bytes the device has written (13 R475, 10 Table NOC-3); reset none. -/
  hostMem : Tab (Option Byte) := []
  deriving DecidableEq, Repr, Inhabited

/-! ## Power, clocks, thermal management (chapter 14) and the pins of the package (chapter 17) -/

/-- PWR_STATE (Table PWR-8). -/
inductive PwrState where
  | off
  | poweringUp
  | on
  | retention
  | stopping
  | isolated
  | tripped
  deriving DecidableEq, Repr, Inhabited

/-- One power domain (R482, Table PWR-8) and the commands that wait on it. -/
structure Domain where
  /-- PWR_STATE, 3 bits (14 R520); reset OFF; domains 0, 1 and 21 ON once VCC_AON is up. -/
  st : PwrState := .off
  /-- PWR_FENCED, 1 bit (14 R520); reset 0. -/
  fenced : Bool := false
  /-- PWR_ISOLATED, 1 bit (14 R520); reset 0. -/
  isolated : Bool := false
  /-- PWR_TRIP_LATCHED, 1 bit (14 R513); 0 at power-on, kept over RESET_N. -/
  latched : Bool := false
  /-- PWR_TRIP_ROR, 1 bit (14 R520); reset 0. -/
  tripRor : Bool := false
  /-- PWR_TRIP_SENSOR, 7 bits (14 R520); reset 0. -/
  tripSensor : BitVec 7 := 0
  /-- PWR_ON_COUNT, 16 bits, saturating (14 R520); reset 0. -/
  onCount : BitVec 16 := 0
  /-- The tamp of the fence has completed (14 R386, R486); reset no. -/
  tamped : Bool := false
  /-- PWR.ON commands that wait (14 R483, R489); reset none. -/
  waitOn : List Origin := []
  /-- The PWR.OFF in progress (14 R486); reset none. -/
  waitOff : Option Origin := none
  /-- The PWR.TAMP commands in progress (14 R487); reset none. -/
  waitTamp : List Origin := []
  /-- The PWR.RETAIN commands in progress (14 R492); reset none. -/
  waitRetain : List Origin := []
  deriving DecidableEq, Repr, Inhabited

/-- Power domains, wake and base warm reset. -/
structure Pwr where
  /-- The 96 domains (14 R481); reset as Domain, with 0, 1 and 21 ON (Table PWR-8). -/
  doms : Tab Domain := [(0, { st := .on }), (1, { st := .on }), (21, { st := .on })]
  /-- Domains that wait to be powered on, in order (14 R483); reset empty. -/
  onQueue : List Nat := []
  /-- THERMTRIP_N asserted (14 R513); reset released. -/
  thermtrip : Bool := false
  /-- SOURCES, 3 bits (14 R494); reset DESIGN CHOICE 0 (log 1). -/
  wakeSources : BitVec 3 := 0
  /-- PORT_MASK, 6 bits (14 R494); reset DESIGN CHOICE 0 (log 1). -/
  wakePorts : BitVec 6 := 0
  /-- DEEP_EN, 1 bit (14 R493); reset DESIGN CHOICE 0 (log 1). -/
  deepEn : Bool := false
  /-- WAKE_SET, 96 bits (14 R494); reset DESIGN CHOICE 0 (log 1). -/
  wakeSet : BitVec 96 := 0
  /-- PIN_SET, 1,152 bits (14 R494); reset DESIGN CHOICE 0 (log 1). -/
  wakePins : BitVec 1152 := 0
  /-- In deep idle (14 R493); reset no. -/
  deepIdle : Bool := false
  /-- A wake is in progress (14 R495); reset no. -/
  waking : Bool := false
  /-- A base warm reset is due after PWR.BASE_RESET (14 R496); reset no. -/
  baseDue : Bool := false
  /-- A base warm reset is in progress (14 R496); reset no. -/
  baseReset : Bool := false
  /-- AON in trip retention (14 R514); reset no. -/
  tripRetention : Bool := false
  /-- Sensor of the privileged trip, 7 bits (14 R514); reset DESIGN CHOICE 0 (log 1). -/
  tripSensor : BitVec 7 := 0
  /-- Ports enabled before the privileged trip, 6 bits (14 R515); reset DESIGN CHOICE 0 (log 1). -/
  portsBefore : BitVec 6 := 0
  /-- VCC_FAB within 3 % of nominal (15 R526, R529); reset yes. -/
  vccFabOk : Bool := true
  deriving DecidableEq, Repr, Inhabited

/-- One thermal sensor (Table PWR-14). -/
structure Sensor where
  /-- THM_TEMP, 12 bits signed in 0.125 °C (14 R520); reset 0. -/
  temp : BitVec 12 := 0
  /-- THM_MAX, 12 bits signed (14 R520); reset 0. -/
  max : BitVec 12 := 0
  /-- THM_ROR_WARN, 1 bit (14 R509); reset 0. -/
  ror : Bool := false
  /-- THM_WARN, 1 bit (14 R520); reset 0. -/
  warn : Bool := false
  /-- THM_THROTTLE, 1 bit (14 R520); reset 0. -/
  throttle : Bool := false
  /-- THM_FAULT, 1 bit (14 R507); reset 0. -/
  fault : Bool := false
  /-- The last 21 readings in 0.125 °C, newest first (14 R509); reset none. -/
  hist : List Int := []
  deriving DecidableEq, Repr, Inhabited

/-- The sensors, the thresholds and the device's thermal conditions. -/
structure Thm where
  /-- The 72 sensors (14 R506); reset as Sensor. -/
  sensors : Tab Sensor := []
  /-- THM_WARN_C, 8 bits (14 R508); reset 95. -/
  warnC : Byte := 95
  /-- THM_THROTTLE_C, 8 bits (14 R508); reset 100. -/
  throttleC : Byte := 100
  /-- A warning lasts (14 R508, R510); reset no. -/
  warning : Bool := false
  /-- A throttle lasts (14 R511); reset no. -/
  throttle : Bool := false
  /-- Restart since RESET_N, FLAGS bit 3 of THM.STATUS (14 R521); reset 0. -/
  restarted : Bool := false
  deriving DecidableEq, Repr, Inhabited

/-- One PLL group (R499). -/
structure Pll where
  /-- Locked (14 R499); reset no. -/
  locked : Bool := false
  /-- The reference in use (14 R500); reset REFCLK. -/
  ref : PllRef := .refclk
  deriving DecidableEq, Repr, Inhabited

/-- One auxiliary clock output (R505). -/
structure Aux where
  /-- Divisor N, 13 bits (14 R505); reset DESIGN CHOICE 0 (log 1). -/
  n : BitVec 13 := 0
  /-- START, 64 bits (14 R505); reset DESIGN CHOICE 0 (log 1). -/
  start : W64 := 0
  /-- ENABLE (14 R505); reset DESIGN CHOICE disabled (log 1). -/
  en : Bool := false
  deriving DecidableEq, Repr, Inhabited

/-- Clocks and time. -/
structure Clk where
  /-- Fabric multiplier M, 7 bits (14 R501); reset the grade maximum. -/
  m : BitVec 7 := BitVec.ofNat 7 Config.mMax
  /-- The four PLL groups (14 R499); reset as Pll. -/
  plls : Tab Pll := []
  /-- The last reference monitor window was bad (14 R503); reset no. -/
  refBad : Bool := false
  /-- The last reference monitor window was good, while groups are lost (14 R503); reset no. -/
  refGood : Bool := false
  /-- A loss of reference is in force (14 R503); reset no. -/
  refLost : Bool := false
  /-- Fabric cycles delivered since RESET_N, the model's own time (03 R76); reset 0. -/
  fc : Nat := 0
  /-- fc since the last lock of the fabric PLL (13 R473); reset 0. -/
  sinceLock : Nat := 0
  /-- Chain time, 64 bits (07 R276); reset DESIGN CHOICE 0 (log 1). -/
  time : W64 := 0
  /-- Chain time carries UNSYNC (07 R278, R279); reset yes. -/
  unsync : Bool := true
  /-- Chain identifier, 64 bits (07 R277); reset DESIGN CHOICE 0 (log 1). -/
  chainId : W64 := 0
  /-- The chain epoch has begun or chain time has locked since the last fabric PLL lock (07 R276, R278); reset no. -/
  timeLocked : Bool := false
  /-- Phase correction of chain time in 1/256 fc (07 R279); reset DESIGN CHOICE 0 (log 1). -/
  phase : Int := 0
  /-- The forwarded clock exceeds the grade maximum, so the fabric clock stays stopped (00 R4); reset no. -/
  gradeStop : Bool := false
  /-- A CLK.FABRIC whose alignment is awaited (14 R502); reset none. -/
  fabricCmd : Option Origin := none
  /-- AUXCLK0 to AUXCLK7 (14 R505); reset as Aux. -/
  aux : Tab Aux := []
  /-- Temperature-compensation trim steps applied, by item (14 R519); reset DESIGN CHOICE none (log 1). -/
  comp : Tab Nat := []
  deriving DecidableEq, Repr, Inhabited

/-- Pins of the package that the start-up uses (17 R570, 15 R522). -/
structure Ext where
  /-- PWR_GOOD high (17 R570); at reset high. -/
  pwrGood : Bool := true
  /-- RESET_N released (17 R570); at reset held low. -/
  resetReleased : Bool := false
  /-- DONE released (06 R217); reset driven low. -/
  done : Bool := false
  /-- ERROR_N asserted (06 R218); reset released. -/
  error : Bool := false
  /-- MODE[2:0] as sampled, ID_MODE, 3 bits (06 R210); reset DESIGN CHOICE 0 (log 1). -/
  mode : BitVec 3 := 0
  deriving DecidableEq, Repr, Inhabited

/-! ## Start-up, self-test and repair (chapter 15) -/

/-- The repair record (Table BRG-9). -/
structure RepairRec where
  /-- RR_SKIP_L1, 5 bits (15 R544); 24 as shipped. -/
  skip1 : BitVec 5 := 24
  /-- RR_SKIP_L2, 5 bits (15 R544); 24 as shipped. -/
  skip2 : BitVec 5 := 24
  /-- RR_AUTO_SKIP, 1 bit (15 R544); 1 as shipped. -/
  autoSkip : Bool := true
  /-- RR_BIST_PARALLEL, 4 bits (15 R544); 4 as shipped. -/
  bistParallel : BitVec 4 := 4
  /-- RR_DRM_EXCLUDE, 8 bits (08 R336); DESIGN CHOICE 0 as shipped (log 1). -/
  exclude : Byte := 0
  /-- RR_PRT_CAPACITY in GiB, 16 bits (09 R346); DESIGN CHOICE 0 as shipped (log 1). -/
  prtCap : BitVec 16 := 0
  /-- RR_COL entries, up to 512 (05 R186); DESIGN CHOICE empty as shipped (log 1). -/
  cols : List W64 := []
  /-- RR_MAP entries, up to 256 (15 R540); DESIGN CHOICE empty as shipped (log 1). -/
  map : List W64 := []
  /-- RR_PPR entries, up to 256 (08 R332); DESIGN CHOICE empty as shipped (log 1). -/
  ppr : List W64 := []
  /-- RR_GEN, 32 bits (15 R544); DESIGN CHOICE 0 as shipped (log 1). -/
  gen : BitVec 32 := 0
  deriving DecidableEq, Repr, Inhabited

/-- An in-service region test (R529, R530). -/
structure RegionTest where
  org : Origin
  region : Nat
  parallel : Nat
  running : Bool
  deriving DecidableEq, Repr, Inhabited

/-- What step 7 of a start meets (R522): the tests that fail, the DIMMs as channel and slot, the channels whose training
fails, and the hard repairs that find no spare row. -/
structure StartObs where
  fails : List BistFail
  dimms : List (Nat × Dimm)
  trainFail : Byte
  refused : List W64
  deriving DecidableEq, Repr, Inhabited

/-- Start-up, tests and repair. -/
structure Start where
  /-- The start-up step of Table BRG-1 reached (15 R522); reset 2. -/
  step : Nat := 2
  /-- The device stays in reset after a fatal failure (15 R523); reset no. -/
  held : Bool := false
  /-- What step 7 will meet, until firmware runs (15 R522); reset none. -/
  obs : Option StartObs := none
  /-- Regions whose start-up test is still to run, in order (15 R524); reset empty. -/
  toTest : List Nat := []
  /-- Regions in the round in progress (15 R524); reset empty. -/
  round : List Nat := []
  /-- Regions to repeat after the last round (15 R526); reset empty. -/
  again : List Nat := []
  /-- The round in progress repeats tests (15 R526); reset no. -/
  repeating : Bool := false
  /-- Start-up BIST has completed (15 R522); reset no. -/
  bistDone : Bool := false
  /-- RESULT of TST.STATUS per region, 8 bits (15 R545); reset 0 untested. -/
  results : Tab Byte := []
  /-- ROUNDS, 8 bits (15 R545); reset DESIGN CHOICE 0 (log 1). -/
  rounds : Byte := 0
  /-- FAILS, 16 bits (15 R545); reset DESIGN CHOICE 0 (log 1). -/
  fails : BitVec 16 := 0
  /-- A NoC router failed its start-up test, row 4 (15 R528); reset no. -/
  nocFailed : Bool := false
  /-- The inline engine or metadata cache failed, row 5 (15 R528); reset no. -/
  engineFailed : Bool := false
  /-- The store's workspace or initialisation area failed, row 17 (15 R528); reset no. -/
  storeFailed : Bool := false
  /-- The BIST controller failed, row 18 (15 R528); reset no. -/
  bistFailed : Bool := false
  /-- PCIe lanes excluded (15 R528, row 7); reset none. -/
  pcieLanes : List Nat := []
  /-- Golular lanes counted bad, as 16 × port + lane (15 R528, row 8); reset none. -/
  badLanes : List Nat := []
  /-- Context areas withdrawn per region (15 R528, row 16); reset 0. -/
  withdrawn : Tab Nat := []
  /-- Retired-resource map, up to 4,096 entries of 64 bits (15 R539); reset empty, rebuilt at each start. -/
  map : List W64 := []
  /-- Skip position in force on L1, 5 bits (02 R71, 15 R533); reset 24. -/
  skip1 : BitVec 5 := 24
  /-- Skip position in force on L2, 5 bits (02 R71, 15 R533); reset 24. -/
  skip2 : BitVec 5 := 24
  /-- The repair record in the tag NVM (15 R544); kept over RESET_N. -/
  rr : RepairRec := {}
  /-- The record that the other header copy describes (15 R544); as shipped DESIGN CHOICE none (log 1); kept over
  RESET_N. -/
  rrPrev : Option RepairRec := none
  /-- The repair record as deferred writes will leave it (15 R544); reset none. -/
  deferred : Option RepairRec := none
  /-- In-service region tests, in order (15 R529); reset none. -/
  tests : List RegionTest := []
  /-- The TST.MEMORY in progress with its blocks (15 R545); reset none. -/
  memTest : Option (Origin × Nat × Nat) := none
  /-- The TST.ANALOG in progress with its UNIT and INDEX (15 R545); reset none. -/
  anaTest : Option (Option Origin × Nat × Nat) := none
  /-- The skip change in progress with its layer, true L2 (15 R536); reset none. -/
  skipCmd : Option (Option Origin × Bool) := none
  /-- TSV groups whose spare is in use (01 R18); reset none. -/
  tsvUsed : List TsvGroup := []
  /-- TSV groups under swap (15 R538); reset none. -/
  tsvSwap : List TsvGroup := []
  /-- L1–L2 bond signals with one pad failed, by signal number (01 R15); reset none. -/
  bondPads : List Nat := []
  /-- Golular lanes spared, LANES_SPARED, 8 bits (15 R545); reset DESIGN CHOICE 0 (log 1). -/
  lanesSpared : Byte := 0
  /-- Scan chains of the base die open (16 R561); reset no. -/
  scanBase : Bool := false
  /-- JTAG instruction in force (16 R560); reset BYPASS. -/
  jtag : JtagInst := .bypass
  deriving DecidableEq, Repr, Inhabited

/-! ## Vertical alignment (chapter 03) -/

/-- Vertical alignment (R86 to R88). -/
structure Align where
  /-- CTX_ALIGN_BUSY, 1 bit (03 R86, 04 R118); reset 1. -/
  busy : Bool := true
  /-- Alignment is running (03 R86); reset no. -/
  running : Bool := false
  /-- Phase φ of L1–L2 in 1/32 fc, 6 bits (03 R77); reset DESIGN CHOICE 0 (log 1). -/
  phi : BitVec 6 := 0
  /-- Phase φ′ of L2–L3 in 1/32 fc, 6 bits (03 R77); reset DESIGN CHOICE 0 (log 1). -/
  phi2 : BitVec 6 := 0
  /-- fc of the last tracking step of φ, if any (03 R87); reset none. -/
  stepAt : Option Nat := none
  /-- fc of the last tracking step of φ′, if any (03 R87); reset none. -/
  stepAt2 : Option Nat := none
  /-- The vertical latency record: the crossings that differ from their stated latency (01 R21, 03 R86); reset empty. -/
  record : List CrossObs := []
  deriving DecidableEq, Repr, Inhabited

/-! ## Contexts, slots and regions (chapter 04) -/

/-- CTX_STATE (Table CTX-1). -/
inductive RegSt where
  | off
  | blank
  | ready
  | running
  | held
  | faulted
  | retired
  deriving DecidableEq, Repr, Inhabited

/-- A slot is empty, staging, or verified (R112). -/
inductive SlotSt where
  | empty
  | staging
  | verified
  deriving DecidableEq, Repr, Inhabited

/-- A resident slot: its own configuration plane and register plane (R112, R114). -/
structure Slot where
  /-- Empty, staging or verified (04 R112); reset empty. -/
  st : SlotSt := .empty
  /-- Stored context in the slot, 4 bits (04 R118); reset 0. -/
  ctx : BitVec 4 := 0
  /-- Region descriptor of the context, with its upset action and footprint (06 R205, 04 R123); reset none. -/
  desc : Option RegionDesc := none
  /-- Channel descriptors of the context (06 R206); reset none. -/
  chans : List ChanDesc := []
  /-- Configuration plane: 36 tiles × 1,024 frames of 1,024 bits, key 1024 × tile + frame (06 R202); reset empty. -/
  plane : Tab (BitVec 1024) := []
  /-- Register plane: 36 tiles × 256 clusters of 32 bits, key 256 × tile + cluster, FFA of cell k at bit 2k and FFB at
  bit 2k + 1 (02 R43, 06 R226); reset DESIGN CHOICE 0 (log 1). -/
  regs : Tab (BitVec 32) := []
  deriving DecidableEq, Repr, Inhabited

/-- A switch pending in REGION_CTL (R128, R132): target slot, SW_INIT, fc of the request, and the mailbox command
that injected it. -/
structure PendSw where
  slot : Fin 4
  init : Bool
  at_ : Nat
  org : Option Origin
  deriving DecidableEq, Repr, Inhabited

/-- One region. -/
structure Region where
  /-- CTX_STATE, 3 bits (04 R118); reset OFF. -/
  st : RegSt := .off
  /-- The four slots (04 R112); reset as Slot. -/
  slots : Tab Slot := []
  /-- CTX_PRESENT_SLOT and CTX_PRESENT_VALID: the running, held or presenting slot (04 R118, R120); reset none. -/
  present : Option (Fin 4) := none
  /-- A slot has run since the region last left BLANK (04 R120); reset no. -/
  ran : Bool := false
  /-- CTX_BIST_BUSY, 1 bit (04 R118); reset 0. -/
  bistBusy : Bool := false
  /-- CTX_RETENTION, 1 bit (04 R118); reset 0. -/
  retention : Bool := false
  /-- CTX_CAUSE, 4 bits (04 R118); reset 0. -/
  cause : BitVec 4 := 0
  /-- CTX_UPSET_COUNT, 16 bits, saturating (04 R118); reset 0. -/
  upsets : BitVec 16 := 0
  /-- CTX_SLOT_RDY as it stood at the start of the last fc but one, SLOT_RDY, 4 bits (04 R125); reset 0. -/
  rdyPrev : BitVec 4 := 0
  /-- SW_ACK as presented, 2 bits (04 R125); reset DESIGN CHOICE 0 (log 1). -/
  swAck : BitVec 2 := 0
  /-- fc in which swAck is presented (04 R125); reset 0. -/
  swAckAt : Nat := 0
  /-- The pending switch (04 R128); reset none. -/
  pendSw : Option PendSw := none
  /-- fc at whose start the last switch took effect (04 R132); reset none. -/
  effectAt : Option Nat := none
  /-- fc of the last accepted or refused busy fabric request (04 R132); reset none. -/
  fabReqAt : Option Nat := none
  /-- fc in which UPSET is presented (04 R125); reset none. -/
  upsetAt : Option Nat := none
  /-- End of a region reset: the fc from which the region runs again, and whether the scrubber caused it (04 R116);
  reset none. -/
  resetEnd : Option (Nat × Bool) := none
  /-- Held by a TSV swap, to return to RUNNING by itself (04 R116); reset no. -/
  swapHeld : Bool := false
  /-- First RUNNING fc since the region last entered RUNNING (06 R219); reset 0. -/
  runFrom : Nat := 0
  deriving DecidableEq, Repr, Inhabited

/-- The commands that Barista arms for a window boundary (R131). -/
inductive ArmKind where
  | switch
  | start
  | hold
  | resume
  | stop
  | reset
  deriving DecidableEq, Repr, Inhabited

/-- An armed command of one region (R131, R134): its mailbox command, or none for a start by the boot load. -/
structure Armed where
  org : Option Origin
  kind : ArmKind
  region : Nat
  slot : Fin 4
  init : Bool
  b : W64
  deriving DecidableEq, Repr, Inhabited

/-- A place in the loader's staging queue (R137, R226): a staging, or a readback of a plane. -/
structure StageJob where
  /-- The command; none for a staging of a boot load. -/
  org : Option Origin
  region : Nat
  slot : Fin 4
  ctx : BitVec 4
  fast : Bool
  granted : Bool
  deriving DecidableEq, Repr, Inhabited

/-- A readback (R226): source 0 a stored context, 1 a configuration plane, 2 a register plane. -/
structure ReadJob where
  org : Origin
  region : Nat
  source : BitVec 2
  number : BitVec 4
  tile : BitVec 11
  frame : BitVec 10
  count : BitVec 11
  wsOffset : BitVec 27
  deriving DecidableEq, Repr, Inhabited

/-- Contexts. -/
structure Ctx where
  /-- The 32 regions by REGION_MASK bit (04 R115); reset as Region. -/
  regions : Tab Region := []
  /-- Window exponent p, 5 bits (04 R130); reset 12. -/
  p : BitVec 5 := 12
  /-- Armed mailbox commands (04 R131); reset none. -/
  armed : List Armed := []
  /-- Staging queue of 64 region stagings (04 R137); reset empty. -/
  queue : List StageJob := []
  /-- Readbacks queued, in order (06 R226); reset none. -/
  reads : List ReadJob := []
  deriving DecidableEq, Repr, Inhabited

/-! ## Configuration store, loader and scrubber (chapter 06) -/

/-- A stored context: one region's share of a whole-fabric context (R113, R194). -/
structure Stored where
  frames : Tab (BitVec 1024)
  desc : RegionDesc
  mapPresent : Bool
  maps : Tab (Option TileMap)
  chans : List ChanDesc
  buildId : BitVec 128
  encrypted : Bool
  /-- Frames marked damaged, as 1024 × tile + frame (R196, R233). -/
  damaged : List Nat
  /-- Tiles whose map is in fallback (R234). -/
  fallback : List Nat
  deriving DecidableEq, Repr, Inhabited

/-- A memory-layer initialisation image (R190, R193). -/
structure InitImage where
  entries : List BlockEntry
  apply : Bool
  bytes : Nat
  buildId : BitVec 128
  deriving DecidableEq, Repr, Inhabited

/-- A failed check: its status, LR_CHECK, and where (Table CFG-16). -/
structure LoadFail where
  status : Status
  check : Byte
  region : Byte
  tile : BitVec 16
  frame : BitVec 16
  deriving DecidableEq, Repr, Inhabited

/-- The load in progress (R216 to R225). -/
structure LoadJob where
  /-- The CFG.LOAD command; none for the first load after RESET_N. -/
  org : Option Origin
  /-- LR_SOURCE: 0 xSPI, 1 workspace ring, 2 JTAG. -/
  source : BitVec 2
  boot : Bool
  /-- Images still to come, as flash offset and length (R212). -/
  images : List (W64 × BitVec 32)
  hdr : Option ImgHeader
  sections : List SectionEntry
  /-- Regions' contexts built so far, by region. -/
  built : Tab (Option Stored)
  /-- Block entries received. -/
  entries : List BlockEntry
  /-- Regions whose descriptor has arrived. -/
  descs : List Nat
  fail : Option LoadFail
  /-- Bytes of the present image consumed. -/
  bytes : Nat
  /-- Next expected tile and frame, as 1024 × tile + frame, per region. -/
  nextFrame : Tab Nat
  deriving DecidableEq, Repr, Inhabited

/-- The load result record (Table CFG-16). -/
structure LoadResult where
  /-- LR_STATUS, 8 bits (06 R225); reset DESIGN CHOICE 0 (log 1). -/
  status : Status := .ok
  /-- LR_CHECK, 8 bits (06 R225); reset DESIGN CHOICE 0 (log 1). -/
  check : Byte := 0
  /-- LR_SOURCE, 8 bits (06 R225); reset DESIGN CHOICE 0 (log 1). -/
  source : Byte := 0
  /-- LR_REGION, 8 bits (06 R225); reset DESIGN CHOICE 0xFF, none (log 1). -/
  region : Byte := 0xFF
  /-- LR_TILE, 16 bits (06 R225); reset DESIGN CHOICE 0xFFFF, none (log 1). -/
  tile : BitVec 16 := 0xFFFF
  /-- LR_FRAME, 16 bits (06 R225); reset DESIGN CHOICE 0xFFFF, none (log 1). -/
  frame : BitVec 16 := 0xFFFF
  /-- LR_BYTES, 64 bits (06 R225); reset DESIGN CHOICE 0 (log 1). -/
  bytes : W64 := 0
  /-- LR_BUILD_ID, 128 bits (06 R225); reset DESIGN CHOICE 0 (log 1). -/
  buildId : BitVec 128 := 0
  deriving DecidableEq, Repr, Inhabited

/-- Where the boot load stands (Table CFG-15). -/
inductive BootPhase where
  | waiting
  | loading
  | applying
  | staging
  | starting
  | complete
  | failed
  deriving DecidableEq, Repr, Inhabited

/-- Store, loader, boot load. -/
structure Load where
  /-- Region directories: key 16 × region + context (06 R194); reset empty. -/
  store : Tab (Option Stored) := []
  /-- Directory of initialisation images, index 0 to 255 (06 R193, R195); reset empty. -/
  inits : Tab (Option InitImage) := []
  /-- The context store has been lost and not reloaded (01 R23, 04 R138); reset no. -/
  lost : Bool := false
  /-- Workspace, 2^27 bytes (06 R213); reset DESIGN CHOICE 0 (log 1). -/
  ws : Tab Byte := []
  /-- CFG_WS_WPTR, 64 bits (06 R214); reset 0. -/
  wptr : W64 := 0
  /-- CFG_WS_RPTR, 64 bits (06 R214); reset 0. -/
  rptr : W64 := 0
  /-- CFG_WS_PTR_ERR, 1 bit (06 R214); reset 0. -/
  ptrErr : Bool := false
  /-- Bits of CFG_STREAM not yet a whole byte, oldest first (06 R215); reset empty. -/
  jtagBits : List Bool := []
  /-- Bytes of CFG_STREAM not yet consumed, oldest first (06 R215); reset empty. -/
  jtagBytes : List Byte := []
  /-- The load in progress (06 R224); reset none. -/
  job : Option LoadJob := none
  /-- The load result record (06 R225); reset as LoadResult. -/
  result : LoadResult := {}
  /-- Where the boot load stands (06 R217); reset waiting. -/
  boot : BootPhase := .waiting
  /-- Contexts written by the boot load in progress, as 16 × region + context (06 R218); reset none. -/
  wrote : List Nat := []
  /-- Initialisation images written by the boot load in progress (06 R218); reset none. -/
  wroteInits : List Nat := []
  /-- Regions flagged by IMG_START with their contexts (06 R217); reset none. -/
  flagged : List (Nat × BitVec 4) := []
  /-- Initialisation images with IMG_APPLY, in the order of loading, still to apply (06 R217); reset none. -/
  toApply : List Nat := []
  /-- The CFG.LOAD that began the boot load in progress (06 R217); reset none. -/
  bootOrg : Option Origin := none
  /-- Why a staging, initialisation or start of the boot load failed (06 R218); reset none. -/
  bootFault : Option LoadFail := none
  /-- Banks released, with the fc from which they drive (06 R219); reset none. -/
  released : Tab (Option Nat) := []
  deriving DecidableEq, Repr, Inhabited

/-- The scrubber (R228 to R236). -/
structure Scrub where
  /-- Region of the next frame check, 0 to 31 (06 R228); reset 0. -/
  region : Nat := 0
  /-- Slot of the next frame check (06 R228); reset 0. -/
  slot : Nat := 0
  /-- Next frame as 1024 × tile + frame (06 R228); reset 0. -/
  frame : Nat := 0
  /-- Places of the pass to return to after a region that woke from retention, as region, slot and frame (04 R141); reset
  none. -/
  back : List (Nat × Nat × Nat) := []
  /-- Regions deferred to the end of the pass (06 R229); reset none. -/
  deferred : List Nat := []
  /-- The pass is in its deferred regions (06 R229); reset no. -/
  late : Bool := false
  /-- A pass has stalled and the scrubber is stopped (06 R235); reset no. -/
  stalled : Bool := false
  /-- SC_PASS_COUNT, 64 bits (06 R236); reset 0. -/
  passes : W64 := 0
  /-- SC_LAST_PASS_US, 32 bits (06 R236); reset 0. -/
  lastUs : BitVec 32 := 0
  /-- SC_VOTE_COUNT, 32 bits (06 R235); reset 0. -/
  votes : BitVec 32 := 0
  /-- SC_CORR_NONESSENTIAL, 64 bits (06 R236); reset 0. -/
  corrNon : W64 := 0
  /-- SC_CORR_ESS_RUNNING, 64 bits (06 R236); reset 0. -/
  corrRun : W64 := 0
  /-- SC_CORR_ESS_OTHER, 64 bits (06 R236); reset 0. -/
  corrOther : W64 := 0
  /-- SC_GOLDEN_UE, 32 bits (06 R236); reset 0. -/
  goldenUe : BitVec 32 := 0
  /-- SC_MAP_FALLBACK, 32 bits (06 R236); reset 0. -/
  mapFallback : BitVec 32 := 0
  /-- SC_STORE_CE, 32 bits (06 R236); reset 0. -/
  storeCe : BitVec 32 := 0
  /-- SC_STORE_UE, 32 bits (06 R236); reset 0. -/
  storeUe : BitVec 32 := 0
  deriving DecidableEq, Repr, Inhabited

/-! ## Memory layer and queue controllers (chapter 05) -/

/-- Check state of a stored word: clean, one of its 72 bits wrong, or uncorrectable (R168). -/
inductive Ecc where
  | clean
  | single (pos : Fin 72)
  | bad
  deriving DecidableEq, Repr, Inhabited

/-- A stored word: its data bits, corrected where one bit is wrong, and what its check bits show (R147, R168). -/
structure MWord where
  data : W64 := 0
  ecc : Ecc := .clean
  deriving DecidableEq, Repr, Inhabited

/-- QCTL_MODE (Table MEM-8). -/
inductive QMode where
  | ram
  | fifo
  | credit
  | priority
  | inbox
  | mail
  deriving DecidableEq, Repr, Inhabited

/-- The three ports of a block. -/
inductive Port3 where
  | a
  | b
  | n
  deriving DecidableEq, Repr, Inhabited

/-- A write in flight (R157, R163): presented in fc `at_`, visible to reads from fc `at_` + 2. -/
structure PWrite where
  at_ : Nat
  port : Port3
  addr : Nat
  word : MWord
  deriving DecidableEq, Repr, Inhabited

/-- A queue entry: its word, level, the fc from which it may become visible, and whether it is visible (R82, R176). -/
structure QEnt where
  word : MWord
  level : BitVec 3
  due : Nat
  vis : Bool
  deriving DecidableEq, Repr, Inhabited

/-- The response of port A or B to one operation, presented from fc `from_` (R156). -/
structure PortRsp where
  from_ : Nat
  data : W64
  err : BitVec 2
  valid : Bool
  accept : Bool
  level : BitVec 3
  deriving DecidableEq, Repr, Inhabited

/-- The status flags of a block (R177). -/
structure QFlags where
  empty : Bool
  full : Bool
  count : BitVec 14
  credit : BitVec 14
  deriving DecidableEq, Repr, Inhabited

/-- A port N request that has reached its block (R160): words done, words read, poison met, the words of a dequeue still
to be returned (R178), and the value read by an atomic with the fc of the read and whether a scheduled write has since
met the word (R597). -/
structure NReq where
  req : NocReq
  done : Nat
  data : List W64
  poison : Bool
  held : List MWord
  atomic : Option (Nat × W64 × Bool)
  deriving DecidableEq, Repr, Inhabited

/-- One memory block with its QCTL. -/
structure Block where
  /-- 8,192 words of 64 data bits with their check state (05 R147); reset 0, clean (05 R152). -/
  words : Tab MWord := []
  /-- Writes of the last fabric cycles (05 R157, R163); reset none. -/
  writes : List PWrite := []
  /-- QCTL_MODE, 3 bits (05 R184); reset 0b000. -/
  mode : QMode := .ram
  /-- QCTL_CAP_LOG2, 4 bits (05 R184); reset 4. -/
  capLog2 : Nat := 4
  /-- QCTL_PATROL_EN, 1 bit (05 R184); reset 1. -/
  patrolEn : Bool := true
  /-- QCTL_CREDIT_INIT, 14 bits (05 R184); reset 0. -/
  creditInit : Nat := 0
  /-- QCTL_CREDIT_COUNT, 14 bits (05 R179); reset 0. -/
  credits : Nat := 0
  /-- QCTL_CREDIT_OVF, 1 bit (05 R179); reset 0. -/
  ovf : Bool := false
  /-- Queue entries, oldest first (05 R176); reset empty. -/
  entries : List QEnt := []
  /-- A queue word has been written since the mode was set (05 R183); reset no. -/
  dirty : Bool := false
  /-- The fc that the next three fields describe (03 R90); reset 0. -/
  opFc : Nat := 0
  /-- Occupancy at the start of fc opFc (03 R90); reset 0. -/
  occStart : Nat := 0
  /-- Enqueues accepted in fc opFc (03 R90); reset 0. -/
  enqFc : Nat := 0
  /-- Credits returned in fc opFc, in force from the next (05 R179); reset 0. -/
  credPend : Nat := 0
  /-- Status flags at the start of the latest fc, newest first (03 R82); reset none. -/
  snaps : List (Nat × QFlags) := []
  /-- Inbound mail words not yet dequeued (05 R180); reset empty. -/
  inb : List QEnt := []
  /-- Outbound mail words (05 R181); reset empty. -/
  outb : List MWord := []
  /-- fc from which the outbound message counts as closed for a NoC read (05 R181); reset open. -/
  closed : Option Nat := none
  /-- QCTL_CE_COUNT, 16 bits, saturating (05 R184); reset 0. -/
  ce : BitVec 16 := 0
  /-- QCTL_UE_COUNT, 16 bits, saturating (05 R184); reset 0. -/
  ue : BitVec 16 := 0
  /-- QCTL_UE_WORD, 13 bits (05 R184); reset 0. -/
  ueWord : BitVec 13 := 0
  /-- QCTL_UE_VALID, 1 bit (05 R184); reset 0. -/
  ueValid : Bool := false
  /-- QCTL_SPARE_USED, 18 bits (05 R184); reset 0. -/
  spareUsed : BitVec 18 := 0
  /-- Under initialisation or march, QCTL_UNAVAILABLE (05 R191, 15 R545); reset 0. -/
  initBusy : Bool := false
  /-- Port N requests that have reached the block, oldest first (05 R160); reset empty. -/
  nq : List NReq := []
  /-- fc of the last port N cycle (05 R160); reset none. -/
  nAt : Option Nat := none
  /-- fc of the last operation other than NOP at port A or B (05 R159); reset none. -/
  abAt : Option Nat := none
  /-- Responses of port A, newest first (05 R156); reset none. -/
  rspA : List PortRsp := []
  /-- Responses of port B, newest first (05 R156); reset none. -/
  rspB : List PortRsp := []
  /-- Next word of the patrol reader, 13 bits (05 R173); reset 0. -/
  patrol : BitVec 13 := 0
  /-- fc of the last patrol read (05 R173); reset none. -/
  patrolAt : Option Nat := none
  /-- Word to write back and the fc of its read (05 R174); reset none. -/
  patrolFix : Option (Nat × Nat) := none
  deriving DecidableEq, Repr, Inhabited

/-- A memory-layer initialisation in progress: its command (none at a boot load) and its image index (R191). -/
structure InitJob where
  org : Option Origin
  index : Nat
  entries : List BlockEntry
  deriving DecidableEq, Repr, Inhabited

/-- The memory layer. -/
structure Mem where
  /-- The 1,152 blocks (05 R147); reset as Block. -/
  blocks : Tab Block := []
  /-- Sectors under power-on clearing (05 R152); reset none. -/
  clearing : List Nat := []
  /-- MEM_CSEL_k of each sector, key 64 × sector + k, 8 bits (05 R166); reset k, held as none. -/
  csel : Tab (Option Byte) := []
  /-- MEM_CCNT_k of each sector, key 64 × sector + k, 32 bits (05 R166); reset 0. -/
  ccnt : Tab (BitVec 32) := []
  /-- Corrections by column since the last start, key 576 × block + 64 × group + column (05 R187); reset 0. -/
  colErrs : Tab Nat := []
  /-- Columns for which EV_MEM_COLUMN has been raised since the last start (05 R187); reset none. -/
  colDone : List Nat := []
  /-- The initialisation in progress (05 R191); reset none. -/
  init : Option InitJob := none
  deriving DecidableEq, Repr, Inhabited

/-! ## The on-chip network (chapter 10) -/

/-- A response in the NoC: its initiator and tag, its status, and its data words (R371, R372). -/
structure NocRsp where
  src : BitVec 8
  tag : BitVec 12
  status : Status
  data : List W64
  deriving DecidableEq, Repr, Inhabited

/-- The class weights of a router (Table NOC-8). -/
structure Weights where
  rt : BitVec 4 := 8
  hi : BitVec 4 := 4
  norm : BitVec 4 := 2
  bulk : BitVec 4 := 1
  deriving DecidableEq, Repr, Inhabited

/-- One router (Table NOC-8). -/
structure Router where
  /-- NOC_W_RT to NOC_W_BULK, 4 bits each (10 R389); reset 8, 4, 2, 1. -/
  w : Weights := {}
  /-- The reconfiguration in progress, NOC_RTR_RECONFIG: its command and new weights (10 R383); reset none. -/
  reconfig : Option (Origin × Weights) := none
  /-- NOC_RTR_FAILED, 1 bit (10 R389); reset 0. -/
  failed : Bool := false
  deriving DecidableEq, Repr, Inhabited

/-- A request of a NOC_PORT in the order of issue (R380): the command word's LEN, OP and STREAM, its tag, and its
response once it has arrived or has been made by the port. -/
structure PortOrd where
  tag : BitVec 12
  len : BitVec 5
  op : BitVec 3
  stream : BitVec 4
  inMesh : Bool
  rsp : Option (Status × List W64)
  deriving DecidableEq, Repr, Inhabited

/-- One NOC_PORT (R378, R379). -/
structure NPort where
  /-- Request words accepted of the request being pushed (10 R379); reset empty. -/
  words : List W64 := []
  /-- Complete requests that wait to enter the mesh (10 R378); reset empty. -/
  waiting : List NocReq := []
  /-- Requests not yet answered into the response queue, in order of issue (10 R380); reset empty. -/
  ord : List PortOrd := []
  /-- Response queue of 64 words with RSP_LAST, oldest first (10 R378); reset empty. -/
  rspQ : List (W64 × Bool) := []
  /-- REQ_ACCEPT results with the fc from which they are presented, newest first (10 R379, 03 R84); reset none. -/
  accepts : List (Nat × Bool) := []
  /-- RSP_WORD, RSP_VALID, RSP_LAST results with the fc from which they are presented, newest first (10 R378, 03 R84);
  reset none. -/
  pops : List (Nat × W64 × Bool × Bool) := []
  /-- REQ_COUNT and RSP_COUNT at the start of the present fc (03 R84); reset 0. -/
  atStart : Nat × Nat := (0, 0)
  /-- REQ_COUNT and RSP_COUNT as presented, 7 bits each (10 R378, 03 R84); reset 0. -/
  shown : Nat × Nat := (0, 0)
  deriving DecidableEq, Repr, Inhabited

/-- The NoC. -/
structure Noc where
  /-- NOC_TO_US per source, 20 bits (10 R389); reset 0x186A0. -/
  timeout : Tab (BitVec 20) := []
  /-- NOC_SRC_TIMEOUTS per source, 32 bits, saturating (10 R389); reset 0. -/
  timeouts : Tab (BitVec 32) := []
  /-- NOC_SRC_LATE per source, 16 bits, saturating (10 R389); reset 0. -/
  late : Tab (BitVec 16) := []
  /-- The 64 routers (10 R389); reset as Router. -/
  routers : Tab Router := []
  /-- Requests in the mesh that have not reached their target, oldest first (10 R370); reset none. -/
  mesh : List NocReq := []
  /-- Requests outstanding at their initiators, oldest first (10 R381); reset none. -/
  out : List NocReq := []
  /-- Responses in the mesh, oldest first (10 R377); reset none. -/
  rsps : List NocRsp := []
  /-- Timed-out tags not yet free, as source and tag (10 R382); reset none. -/
  lateTags : List (BitVec 8 × BitVec 12) := []
  /-- The 64 NOC_PORTs (10 R378); reset as NPort. -/
  ports : Tab NPort := []
  /-- Responses delivered to initiators other than NOC_PORTs, oldest first (10 R372); reset none. -/
  done : List NocRsp := []
  /-- Tags of PF1 requests from before its function-level reset, whose completions are discarded (18 R594); reset none. -/
  pf1Drop : List (BitVec 12) := []
  deriving DecidableEq, Repr, Inhabited

/-! ## DRAM channels (chapter 08) -/

/-- DRM_CH_STATE (Table DRM-6). -/
inductive DramSt where
  | absent
  | training
  | inService
  | switching
  | selfRefresh
  | failed
  | failedTrain
  | excluded
  deriving DecidableEq, Repr, Inhabited

/-- A place in a channel (Table DRM-3). -/
structure DramLoc where
  sub : Bool
  dimm : Nat
  rank : Nat
  cid : Nat
  bg : Nat
  ba : Nat
  row : Nat
  col : Nat
  deriving DecidableEq, Repr, Inhabited

/-- One line of a request in a sub-channel's queue (R319): its job, window line, place, class and promotion. -/
structure LineOp where
  job : Nat
  line : Nat
  loc : DramLoc
  cls : BitVec 2
  promoted : Bool
  deriving DecidableEq, Repr, Inhabited

/-- A request at the DRAM side (R313): its order of arrival, the lines left, the data read by line, and its status so
far. -/
structure DramJob where
  id : Nat
  req : NocReq
  left : List Nat
  got : Tab (BitVec 512)
  status : Status
  deriving DecidableEq, Repr, Inhabited

/-- One sub-channel (R319, R320). -/
structure SubChan where
  /-- Queue of up to 128 line requests, oldest first (08 R319); reset empty. -/
  queue : List LineOp := []
  /-- Open row by bank number (08 R320); reset none. -/
  openRows : Tab (Option Nat) := []
  /-- Bank held for a soft repair (08 R332); reset none. -/
  heldBank : Option Nat := none
  deriving DecidableEq, Repr, Inhabited

/-- One DRAM channel (Table DRM-6). -/
structure Chan8 where
  /-- DRM_CH_STATE, 3 bits (08 R338); reset absent. -/
  st : DramSt := .absent
  /-- DRM_CH_SETPOINT, 2 bits (08 R338); reset 0. -/
  setpoint : BitVec 2 := 0
  /-- DRM_CH_SPEED, 3 bits (08 R338); reset 0. -/
  speed : BitVec 3 := 0
  /-- DRM_CH_IN_LIST, 1 bit (08 R338); reset 0. -/
  inList : Bool := false
  /-- DRM_CH_INDEX, 3 bits (08 R338); reset 0. -/
  index : BitVec 3 := 0
  /-- DRM_CH_CAP_GB, 10 bits (08 R338); reset 0. -/
  capGb : BitVec 10 := 0
  /-- DRM_NRR_EXP, 5 bits (08 R338); reset 11. -/
  nrrExp : BitVec 5 := 11
  /-- DRM_NRR_MODE, 1 bit (08 R338); reset 0. -/
  nrrMode : Bool := false
  /-- DRM_PPR_AUTO, 1 bit (08 R338); reset 1. -/
  pprAuto : Bool := true
  /-- DRM_CH_CE_COUNT, 32 bits, saturating (08 R338); reset 0. -/
  ce : BitVec 32 := 0
  /-- DRM_CH_UE_COUNT, 16 bits, saturating (08 R338); reset 0. -/
  ue : BitVec 16 := 0
  /-- DRM_CH_NRR_COUNT, 16 bits (08 R338); reset 0. -/
  nrr : BitVec 16 := 0
  /-- The DIMMs as their SPD was read (08 R306, R605); reset none. -/
  dimms : List (Option Dimm) := []
  /-- Stored training results by set point (08 R330); at power-on none, kept over RESET_N. -/
  results : Tab (Option (List Byte)) := []
  /-- The channel gathers training data (08 R327); reset no. -/
  gathering : Bool := false
  /-- Requests between DRAM and engine by sub-channel: 0 and 1 (08 R319); reset as SubChan. -/
  subs : Tab SubChan := []
  /-- Corrected errors per row since the last start, key of the row (08 R331); reset 0. -/
  rowErrs : Tab Nat := []
  /-- The last 32 error locations, newest last, with an uncorrectable flag (08 R339); reset empty. -/
  errLog : List (DramLoc × Bool) := []
  /-- Soft repairs, the one in progress first: the row, and the DRM.PPR that asked for it (08 R332); reset none. -/
  repair : List (DramLoc × Option Origin) := []
  /-- Rows that have become repair candidates since the last start, and whether a soft repair has been asked for (08 R331);
  reset none. -/
  cands : List (DramLoc × Bool) := []
  /-- Bank groups with no spare row left, by number (08 R333); reset none. -/
  noSpare : List Nat := []
  /-- The channel has failed in service and is left out at the next start (08 R336); at power-on no, kept over RESET_N. -/
  failedPrev : Bool := false
  deriving DecidableEq, Repr, Inhabited

/-- A stored DRAM line: its plaintext, the boot key generation that encrypted it, and an uncorrectable error (R318,
R342). -/
structure DramLine where
  data : BitVec 512
  gen : Nat
  bad : Bool
  deriving DecidableEq, Repr, Inhabited

/-- A zero-fill of a range of lines: first line, lines, key generation (R348, R362). -/
structure ZeroFill where
  first : Nat
  count : Nat
  gen : Nat
  deriving DecidableEq, Repr, Inhabited

/-- DRAM. -/
structure Dram where
  /-- The eight channels (08 R338); reset as Chan8. -/
  chans : Tab Chan8 := []
  /-- The interleave list (08 R309); reset empty. -/
  list : List Nat := []
  /-- K in GB (08 R309); reset 0. -/
  k : Nat := 0
  /-- Speeds of the four set points, 3 bits each (08 R325); reset set at the start from the population, before it
  DESIGN CHOICE 0 (log 1). -/
  speeds : Tab (BitVec 3) := []
  /-- Age limits in ns by class (08 R321); reset 250, 1,000, 4,000, 16,000, held as none. -/
  ages : Tab (Option (BitVec 16)) := []
  /-- Lines written, by window line number (08 R316); power-on content is a free value. -/
  lines : Tab (Option DramLine) := []
  /-- Ranges filled with zeros, newest first (09 R348, R362); reset none. -/
  fills : List ZeroFill := []
  /-- Requests at the DRAM side, oldest first (08 R313); reset none. -/
  jobs : List DramJob := []
  /-- Number of the next request at the DRAM side (08 R313); reset 0. -/
  next : Nat := 0
  /-- The DRM.SETPOINT queued behind training (08 R328); reset none. -/
  queued : Option (Origin × BitVec 2) := none
  /-- The set point switch in progress, with the channels still to finish and whether one failed (08 R328); reset
  none. -/
  switch : Option (Origin × BitVec 2 × List Nat × Bool) := none
  /-- Stopped PF1 DMA channels, 16 bits (08 R340); reset 0. -/
  dmaStopped : BitVec 16 := 0
  /-- The DRM.DMA_STOP commands in progress, oldest first (08 R340); reset none. -/
  dmaCmds : List Origin := []
  deriving DecidableEq, Repr, Inhabited

/-! ## Memory encryption and integrity (chapter 09) -/

/-- PRT_IR_STATE (Table PRT-5). -/
inductive IrSt where
  | off
  | changing
  | inService
  | converting
  deriving DecidableEq, Repr, Inhabited

/-- One integrity region (Table PRT-5). -/
structure IntRegion where
  /-- PRT_IR_EN, 1 bit (09 R365); reset 0. -/
  en : Bool := false
  /-- PRT_IR_SIZE_LOG2, 4 bits (09 R365); reset 0. -/
  sizeLog2 : BitVec 4 := 0
  /-- PRT_IR_BASE_GIB, 10 bits (09 R365); reset 0. -/
  baseGib : BitVec 10 := 0
  /-- PRT_IR_STATE, 2 bits (09 R365); reset off. -/
  st : IrSt := .off
  /-- PRT_IR_EPOCH, 32 bits (09 R365); reset 0. -/
  epoch : BitVec 32 := 0
  /-- PRT_IR_CONV_PTR, 48 bits (09 R365); reset 0. -/
  conv : BitVec 48 := 0
  /-- PRT_IR_MAC_FAIL, 32 bits, saturating (09 R365); reset 0. -/
  macFail : BitVec 32 := 0
  /-- PRT_IR_NODE_FAIL, 16 bits, saturating (09 R365); reset 0. -/
  nodeFail : BitVec 16 := 0
  /-- PRT_IR_ADVANCES, 16 bits, saturating (09 R365); reset 0. -/
  advances : BitVec 16 := 0
  /-- The PRT.IR_SET in progress (09 R348); reset none. -/
  cmd : Option Origin := none
  /-- The PRT.IR_SET in progress deletes the region (09 R348); reset no. -/
  deleting : Bool := false
  /-- Advances queued behind the conversion: a PRT.REINIT with its first page and pages, or none for a counter wrap
  (09 R359); reset none. -/
  queued : List (Option (Origin × Nat × Nat)) := []
  /-- The PRT.REINIT zero-fill in progress: command, first page, pages (09 R366); reset none. -/
  reinit : Option (Origin × Nat × Nat) := none
  deriving DecidableEq, Repr, Inhabited

/-- The counters of a page (Table PRT-2). -/
structure Page where
  /-- CB_MAJOR, 32 bits (09 R352); 0 at creation. -/
  major : BitVec 32 := 0
  /-- CB_MINOR_j, 7 bits each (09 R352); 0 at creation. -/
  minors : Tab (BitVec 7) := []
  /-- CB_EPOCH_LSB, 1 bit (09 R352); 0 at creation. -/
  lsb : Bool := false
  /-- Lines already under the new epoch in the page under conversion (09 R357); none. -/
  done : List Nat := []
  deriving DecidableEq, Repr, Inhabited

/-- A poison list entry (R362): its region, its level (0 a counter block) and its index at that level. -/
structure Poison where
  ir : Nat
  level : Nat
  index : Nat
  deriving DecidableEq, Repr, Inhabited

/-- A protected range (R363). -/
structure ProtRange where
  /-- PR_BASE, 36 bits (09 R365); reset 0. -/
  base : BitVec 36 := 0
  /-- PR_LIMIT, 36 bits (09 R365); reset 0. -/
  limit : BitVec 36 := 0
  /-- PR_EN, 1 bit (09 R365); reset 0. -/
  en : Bool := false
  /-- PR_LOCK, 1 bit (09 R364); reset 0. -/
  lock : Bool := false
  deriving DecidableEq, Repr, Inhabited

/-- The inline engine and the protected ranges. -/
structure Prt where
  /-- A boot key is present (09 R341, R342); reset zeroised. -/
  key : Bool := false
  /-- Generation of the boot key, the model's own count (09 R342); reset 0. -/
  gen : Nat := 0
  /-- PRT_CAP_GIB, 11 bits (09 R365); reset 0. -/
  capGib : Nat := 0
  /-- PRT_CARVE_BASE, 48 bits (09 R365); reset 0. -/
  carve : Nat := 0
  /-- IR0 to IR7 (09 R365); reset as IntRegion. -/
  irs : Tab IntRegion := []
  /-- Counters of pages by page number (09 R352); 0. -/
  pages : Tab Page := []
  /-- Lines with MB_POISON set, by window line number, rising (09 R352, R360); reset none. -/
  mbPoison : Tab Bool := []
  /-- Poison list of 64 entries (09 R362); reset empty. -/
  poison : List Poison := []
  /-- Counter blocks and tree nodes in the metadata cache, up to 32,768, as level and index, with a dirty flag, newest
  first (09 R353); reset empty. -/
  cache : List (Nat × Nat × Bool) := []
  /-- Protected ranges 0 to 15 (09 R363); reset as ProtRange. -/
  ranges : Tab ProtRange := []
  /-- Privileged sources named by PRT.PRIV, 256 bits (09 R361); reset DESIGN CHOICE 0, Barista alone (log 1). -/
  priv : BitVec 256 := 0
  deriving DecidableEq, Repr, Inhabited

/-! ## The Golular chain link and scheduled channels (chapters 07 and 03) -/

/-- LNK_STATE (Table LNK-12). -/
inductive LnkSt where
  | disabled
  | detect
  | clock
  | lanes
  | equalise
  | frame
  | exchange
  | measure
  | key
  | up
  | swapped
  | test
  deriving DecidableEq, Repr, Inhabited

/-- A spare switch or width step of one direction (Table LNK-8): the new width code, the new lane map, whether the
spare is used, the lane replaced, and the frame at which it takes effect once named. -/
structure LaneStep where
  width : BitVec 2
  map : List Nat
  spare : Bool
  lane : BitVec 8
  widen : Bool
  switch : Option (BitVec 32)
  deriving DecidableEq, Repr, Inhabited

/-- A test set by LNK.TEST (R300, R301). -/
structure TestCfg where
  mask : BitVec 10
  pattern : BitVec 3
  pam2 : Bool
  user : BitVec 160
  inject : BitVec 2
  e : BitVec 6
  b : BitVec 7
  deriving DecidableEq, Repr, Inhabited

/-- One Golular port (Table LNK-12, R604). -/
structure Port where
  /-- Enabled (07 R250); reset yes. -/
  enabled : Bool := true
  /-- LNK_STATE, 4 bits (07 R303); reset DETECT. -/
  st : LnkSt := .detect
  /-- LNK_TX_WIDTH, 2 bits (07 R303); reset 0b00. -/
  txWidth : BitVec 2 := 0
  /-- LNK_RX_WIDTH, 2 bits (07 R303); reset 0b00. -/
  rxWidth : BitVec 2 := 0
  /-- LNK_TX_SPARE_USED (07 R303); reset 0. -/
  txSpare : Bool := false
  /-- LNK_RX_SPARE_USED (07 R303); reset 0. -/
  rxSpare : Bool := false
  /-- LNK_ROLE, 2 bits (07 R303); reset 0b00. -/
  role : BitVec 2 := 0
  /-- LNK_ENCRYPTED (07 R303); reset 0. -/
  encrypted : Bool := false
  /-- LNK_POISONED (07 R298); reset 0. -/
  poisoned : Bool := false
  /-- The receive direction discards every flit: a tag failed (07 R298); reset no. -/
  rxCut : Bool := false
  /-- LNK_RX_REVERSED (07 R303); reset 0. -/
  rxReversed : Bool := false
  /-- LNK_CLK_INVERTED (07 R303); reset 0. -/
  clkInverted : Bool := false
  /-- LNK_RX_LANE_INVERTED, 9 bits (07 R303); reset 0. -/
  rxInverted : BitVec 9 := 0
  /-- LNK_RX_LANE_FAILED, 9 bits (07 R303); reset 0. -/
  rxFailed : BitVec 9 := 0
  /-- LNK_TX_LANE_FAILED, 9 bits (07 R303); reset 0. -/
  txFailed : BitVec 9 := 0
  /-- LNK_DOWN_CAUSE, 4 bits (07 R303); reset 0. -/
  downCause : BitVec 4 := 0
  /-- LNK_UP_COUNT, 16 bits, saturating (07 R303); reset 0. -/
  upCount : BitVec 16 := 0
  /-- ENCRYPT of LNK.UP, until RESET_N (07 R295); reset no. -/
  encReq : Bool := false
  /-- A failed training waits its 100 ms (07 R250); reset no. -/
  retry : Bool := false
  /-- Training steps 1 to 8 are complete (07 R250); reset no. -/
  ready : Bool := false
  /-- Last beacon sent, as FH_TIME and FH_TIME_FRAC (07 R276); reset none. -/
  beacon : Option (W64 × Byte) := none
  /-- Receive lane map: physical lane of each logical lane (07 R239); reset empty. -/
  rxMap : List Nat := []
  /-- Transmit lane map (07 R239); reset empty. -/
  txMap : List Nat := []
  /-- The receive spare lane is marked bad (07 R266); reset no. -/
  spareBad : Bool := false
  /-- RX_WIRE_PS, 32 bits (07 R604); reset 0. -/
  rxWire : BitVec 32 := 0
  /-- TX_WIRE_PS, 32 bits (07 R604); reset 0. -/
  txWire : BitVec 32 := 0
  /-- RX_FLIGHT_PS_8, RX_FLIGHT_PS_4, RX_FLIGHT_PS_2, 32 bits each (07 R604); reset 0. -/
  flight8 : BitVec 32 := 0
  /-- RX_FLIGHT_PS_4, 32 bits (07 R604); reset 0. -/
  flight4 : BitVec 32 := 0
  /-- RX_FLIGHT_PS_2, 32 bits (07 R604); reset 0. -/
  flight2 : BitVec 32 := 0
  /-- ASYM_PS of LNK.TIME_TRIM, 16 bits signed (07 R279); reset DESIGN CHOICE 0 (log 1). -/
  asym : BitVec 16 := 0
  /-- LANE_CORRECTED_k, 32 bits each, saturating (07 R604); reset 0. -/
  corrected : Tab (BitVec 32) := []
  /-- LANE_UNCORRECTABLE_k, 32 bits each, saturating (07 R604); reset 0. -/
  uncorrectable : Tab (BitVec 32) := []
  /-- Corrected symbols per lane in the present beacon period (07 R260); reset 0. -/
  errs : Tab Nat := []
  /-- LANE_ERR_LIMIT, 16 bits (07 R260); reset 4,096. -/
  laneLimit : BitVec 16 := 4096
  /-- What the peer announced at step 6 (07 R250); reset none. -/
  peer : Option Capability := none
  /-- FH_FRAME of the last frame received, 32 bits (07 R258); reset 0. -/
  rxFrame : BitVec 32 := 0
  /-- The step of the receive direction in progress (07 R262); reset none. -/
  rxStep : Option LaneStep := none
  /-- The step of the transmit direction in progress (07 R262); reset none. -/
  txStep : Option LaneStep := none
  /-- Control codes sent in frame headers, as code and data, oldest first (07 R258); reset none. -/
  ctrlOut : List (Byte × BitVec 48) := []
  /-- Payloads of the TXN packet being received, or none once a flit of it was lost (07 R257, R286); reset empty. -/
  rxTxn : Option (List (BitVec 240)) := some []
  /-- Payloads of the MGMT message being received (07 R257, R294); reset empty. -/
  rxMgmt : Option (List (BitVec 240)) := some []
  /-- TXN packets received for this device, with FL_RSP, oldest first (07 R286); reset empty. -/
  txnIn : List (Bool × TxnPkt) := []
  /-- MGMT messages received for this device, oldest first (07 R294); reset empty. -/
  mgmtIn : List MgmtMsg := []
  /-- TXN packets given to the transmit side, oldest first (07 R272); reset empty. -/
  txnOut : List TxnPkt := []
  /-- TXN packets that wait for credits, oldest first (07 R267); reset empty. -/
  txnWait : List TxnPkt := []
  /-- TXN request credits held (07 R267); reset 256. -/
  credReq : Nat := 256
  /-- TXN response credits held (07 R267); reset 256. -/
  credRsp : Nat := 256
  /-- MGMT credits held (07 R267); reset 32. -/
  credMgmt : Nat := 32
  /-- SCHED flits forwarded by the pass-through path, as slot and payload (07 R273); reset none. -/
  schedOut : List (Nat × BitVec 240) := []
  /-- MGMT messages that wait for credits, oldest first (07 R267); reset empty. -/
  mgmtWait : List MgmtMsg := []
  /-- Credits returned to the peer since link up, by FL_CREDIT_CLASS (07 R259); reset 0. -/
  credBack : Tab Nat := []
  /-- Reservation map of the 64 transmit slots: channel number of each (07 R268); reset none. -/
  slots : Tab (Option (BitVec 16)) := []
  /-- The channel that each of the 64 receive slots carries, as the sender reserved it (07 R269); reset none. -/
  inSlots : Tab (Option (BitVec 16)) := []
  /-- Width floors of the channels in the transmit slots, and at 65,536 + number of those in the receive slots
  (03 R105, 07 R269); reset none. -/
  floors : Tab (BitVec 2) := []
  /-- Channels stopped on this link, by number (03 R102); reset none. -/
  stopped : List (BitVec 16) := []
  /-- The test in force (07 R300); reset none. -/
  test : Option TestCfg := none
  /-- Readings of the test counters made (07 R301); reset 0. -/
  testReads : Nat := 0
  /-- FEC injection: lane, S, M (07 R302); reset none. -/
  fecInject : Option (BitVec 3 × BitVec 4 × BitVec 16) := none
  /-- Keys agreed since RESET_N (07 R296); reset 0. -/
  keys : Nat := 0
  /-- The LNK.RESET in progress (07 R299); reset none. -/
  cmdReset : Option Origin := none
  /-- The LNK.WIDEN in progress (07 R265); reset none. -/
  cmdWiden : Option Origin := none
  deriving DecidableEq, Repr, Inhabited

/-- A route table entry (R284). -/
structure RouteEnt where
  /-- Route word, 64 bits (07 R284); reset DESIGN CHOICE 0, absent (log 1). -/
  route : W64 := 0
  /-- NEXT, 12 bits (07 R284); reset DESIGN CHOICE 0 (log 1). -/
  next : BitVec 12 := 0
  /-- The entry is present (07 R284); reset no. -/
  present : Bool := false
  deriving DecidableEq, Repr, Inhabited

/-- A chain window (Table LNK-12a). -/
structure Cwin where
  /-- CW_HANDLE, 12 bits (07 R292); reset 0. -/
  handle : BitVec 12 := 0
  /-- CW_REMOTE_BASE, 12 bits (07 R292); reset 0. -/
  base : BitVec 12 := 0
  /-- CW_WRITE_EN (07 R292); reset 0. -/
  writeEn : Bool := false
  /-- CW_ATOMIC_EN (07 R292); reset 0. -/
  atomicEn : Bool := false
  deriving DecidableEq, Repr, Inhabited

/-- A scheduled channel in use at this device (R97 to R104, R268 to R271): its descriptor, natural latency N, the
port its route leaves or reaches this device by, and the first fc of chain time whose word is delivered. -/
structure ChanUse where
  desc : ChanDesc
  natural : Nat
  port : Nat
  first : Nat
  deriving DecidableEq, Repr, Inhabited

/-- The SCHED face of a NOC_PORT (R97, R271, Table NOC-5). -/
structure Face where
  /-- Source end: records packed, as chain time, VALID and data, oldest first (03 R97, 07 R271); reset empty. -/
  sent : List (W64 × Bool × W64) := []
  /-- Destination end: the padding buffer, as the chain time due, VALID and data (03 R99); reset empty. -/
  padding : List (W64 × Bool × W64) := []
  /-- SCH_RDATA, 64 bits (10 R378); reset DESIGN CHOICE 0 (log 1). -/
  rdata : W64 := 0
  /-- SCH_RVALID (10 R378); reset DESIGN CHOICE 0 (log 1). -/
  rvalid : Bool := false
  /-- SCH_POISON (07 R298); reset 0. -/
  poison : Bool := false
  deriving DecidableEq, Repr, Inhabited

/-- A NoC request that left as a TXN request (R292): its initiator and tag, the port, and the TX_TAG given to it. -/
structure Remote where
  txTag : BitVec 12
  src : BitVec 8
  tag : BitVec 12
  port : Nat
  op : NocOp
  len : Nat
  deriving DecidableEq, Repr, Inhabited

/-- A TXN request that a port performs as NoC master (R289): the port, the packet and the NoC tag. -/
structure Served where
  port : Nat
  pkt : TxnPkt
  tag : BitVec 12
  deriving DecidableEq, Repr, Inhabited

/-- The chain link. -/
structure Lnk where
  /-- P0 to P5 (07 R238); reset as Port. -/
  ports : Tab Port := []
  /-- Member of a chain rather than root (07 R240); reset set from MODE at RESET_N's release, before it root. -/
  member : Bool := false
  /-- Upstream port (07 R242); reset none. -/
  upstream : Option Nat := none
  /-- A reference has been taken from an upstream link since RESET_N (07 R243); reset no. -/
  refTaken : Bool := false
  /-- REFCLK is present (07 R243); reset yes, an observation of the board. -/
  refclk : Bool := true
  /-- The 100 µs after loss of the upstream clock run (07 R246); reset no. -/
  lossWait : Bool := false
  /-- Chain time slipped and UNSYNC waits for a beacon that agrees (07 R279); reset no. -/
  slip : Bool := false
  /-- Chain time of the last beacons sent (07 R276); reset none. -/
  beaconAt : Option W64 := none
  /-- Route table, handles 1 to 4,095 (07 R284); reset empty. -/
  routes : Tab RouteEnt := []
  /-- Chain windows 0 to 255 (07 R292); reset as Cwin. -/
  cwins : Tab Cwin := []
  /-- Scheduled channels in use, by channel number (03 R97, 07 R269); reset none. -/
  chans : Tab (Option ChanUse) := []
  /-- SCHED faces of the NOC_PORTs (10 R378); reset as Face. -/
  faces : Tab Face := []
  /-- Chain window accesses that await a TXN response, oldest first (07 R292); reset none. -/
  remote : List Remote := []
  /-- TXN requests being performed here (07 R289); reset none. -/
  served : List Served := []
  deriving DecidableEq, Repr, Inhabited

/-! ## The task dispatcher (chapter 11) -/

/-- An engine (Table DSP-6). -/
structure Engine where
  /-- DSP_ENG_BLOCK, 11 bits (11 R410); reset 0. -/
  block : Nat := 0
  /-- DSP_ENG_THRESH, 13 bits (11 R402); reset 0. -/
  thresh : Nat := 0
  /-- DSP_ENG_EN (11 R402); reset 0. -/
  en : Bool := false
  /-- A DSP.ENGINE_SET has bound the engine to its block (11 R402); reset no. -/
  bound : Bool := false
  deriving DecidableEq, Repr, Inhabited

/-- A token held at its source (R408), or waiting in a queue: two words. -/
abbrev Token := W64 × W64

/-- A source (Table DSP-6). -/
structure DspSource where
  /-- DSP_SRC_BLOCK, 11 bits (11 R395); reset 0. -/
  block : Nat := 0
  /-- DSP_SRC_ROLE, completion source (11 R395); reset 0. -/
  role : Bool := false
  /-- DSP_SRC_EN (11 R395); reset 0. -/
  en : Bool := false
  /-- A DSP.SOURCE_SET has bound the source to its block (11 R395); reset no. -/
  bound : Bool := false
  /-- The token dequeued and not yet processed (11 R397, R408); reset none. -/
  head : Option Token := none
  /-- DSP_SRC_STALLED: its head token is held (11 R408); reset 0. -/
  stalled : Bool := false
  deriving DecidableEq, Repr, Inhabited

/-- An item of the matching store (R399). -/
structure Item where
  tag : BitVec 32
  flow : BitVec 32
  classIn : Nat
  cls : Nat
  slots : BitVec 4
  filled : BitVec 4
  arg : BitVec 32
  values : Tab W64
  bypass : Nat
  /-- Order in which the item became ready; none while it is not. -/
  ready : Option Nat
  /-- Order in which its eligibility began; none while it is not eligible (R401). -/
  eligible : Option Nat
  /-- Order in which it entered its class (R404). -/
  entered : Nat
  deriving DecidableEq, Repr, Inhabited

/-- A flow (R400). -/
structure FlowEnt where
  key : BitVec 32
  group : Nat
  last : Option Nat
  pinned : Bool
  tag : Option (BitVec 32)
  deriving DecidableEq, Repr, Inhabited

/-- A NoC write of tokens (R394): its initiator and tag, its tokens left, and whether it came to DSP_DONE. -/
structure TokenWrite where
  src : BitVec 8
  tag : BitVec 12
  stream : BitVec 4
  tokens : List Token
  deriving DecidableEq, Repr, Inhabited

/-- A dispatch group that waits to be written (R403, R407): its engine and inbox block, its engine group, its words and
how many of them have been written. -/
structure Group where
  engine : Nat
  block : Nat
  group : Nat
  words : List W64
  done : Nat
  deriving DecidableEq, Repr, Inhabited

/-- The task dispatcher. -/
structure Dsp where
  /-- DSP_BYPASS_T0, 8 bits (11 R406); reset 16. -/
  t0 : Byte := 16
  /-- DSP_BYPASS_T1, 8 bits (11 R406); reset 16. -/
  t1 : Byte := 16
  /-- DSP_BYPASS_T2, 8 bits (11 R406); reset 16. -/
  t2 : Byte := 16
  /-- DSP_DEFAULT_GROUP, 5 bits (11 R400); reset 0. -/
  defGroup : BitVec 5 := 0
  /-- DSP_STORE_FULL (11 R408); reset 0. -/
  storeFull : Bool := false
  /-- DSP_FLOW_FULL (11 R408); reset 0. -/
  flowFull : Bool := false
  /-- DSP_DISPATCHES, 48 bits (11 Table DSP-6); reset 0. -/
  dispatches : BitVec 48 := 0
  /-- DSP_ERR_C1 to DSP_ERR_C5, 12 bits each, saturating (11 R398); reset 0. -/
  errs : Tab (BitVec 12) := []
  /-- fc of the last EV_DSP_TOKEN of each cause (11 R398); reset none. -/
  evAt : Tab (Option Nat) := []
  /-- The 256 engines (11 R402); reset as Engine. -/
  engines : Tab Engine := []
  /-- The 64 sources (11 R395); reset as DspSource. -/
  sources : Tab DspSource := []
  /-- The 32 engine groups, 256 bits each (11 R392); reset DESIGN CHOICE 0 (log 1). -/
  groups : Tab (BitVec 256) := []
  /-- rr(g) of each group, 8 bits (11 R405); reset DESIGN CHOICE 0 (log 1). -/
  rr : Tab Nat := []
  /-- The matching store, up to 65,536 items (11 R399); reset empty. -/
  items : List Item := []
  /-- The flow table, up to 65,536 flows (11 R400); reset empty. -/
  flows : List FlowEnt := []
  /-- The next order number of readiness, eligibility and class entry, the model's own (11 R401, R404); reset 0. -/
  next : Nat := 0
  /-- NoC writes to DSP_TOKEN at the endpoint, oldest first (11 R397); reset empty. -/
  tokenQ : List TokenWrite := []
  /-- The head token of the NoC token port is held (11 R408); reset no. -/
  tokenHeld : Bool := false
  /-- NoC writes to DSP_DONE at the endpoint, oldest first (11 R397); reset empty. -/
  doneQ : List TokenWrite := []
  /-- The source served last in rotation: 0 to 63, 64 the token port, 65 the DONE port (11 R397); reset DESIGN CHOICE
  65 (log 1). -/
  rot : Nat := 65
  /-- Dispatch groups that wait to be written, up to 16, oldest first (11 R407); reset empty. -/
  groupQ : List Group := []
  /-- Groups for which EV_DSP_ENGINE has been raised (11 R407); reset none. -/
  engineEv : List Nat := []
  deriving DecidableEq, Repr, Inhabited

/-! ## User pins (chapter 12) -/

/-- An event record (R429) with the fc from which it is available (R430). -/
structure PinRec where
  time : W64
  tick : BitVec 4
  rise : Bool
  coin : Bool
  merged : Bool
  ovf : Bool
  unsync : Bool
  from_ : Nat
  deriving DecidableEq, Repr, Inhabited

/-- A compare window (R431, R432). -/
structure Window where
  s : Nat
  e : Nat
  count : Nat
  firstRise : Bool
  coinS : Bool
  coinE : Bool
  lost : Bool
  unsync : Bool
  deriving DecidableEq, Repr, Inhabited

/-- A window result (R432). -/
structure WinResult where
  /-- The fc in which WIN_DONE is 1. -/
  at_ : Nat
  count : BitVec 4
  flags : BitVec 5
  deriving DecidableEq, Repr, Inhabited

/-- One user pin (Table PIN-7). -/
structure Pin where
  /-- PIN_DRIVE, 3 bits (12 R436); reset 0b011. -/
  drive : BitVec 3 := 3
  /-- PIN_MODE, 2 bits (12 R436); reset 0b00. -/
  mode : BitVec 2 := 0
  /-- PIN_VTH_HI, 9 bits (12 R436); reset 90. -/
  vthHi : BitVec 9 := 90
  /-- PIN_VTH_LO, 9 bits (12 R436); reset 60. -/
  vthLo : BitVec 9 := 60
  /-- A PIN.CONFIG has set the thresholds since RESET_N (12 R413); reset no. -/
  vthSet : Bool := false
  /-- PIN_EV_RISE (12 R436); reset 1. -/
  evRise : Bool := true
  /-- PIN_EV_FALL (12 R436); reset 1. -/
  evFall : Bool := true
  /-- PIN_POL_AUTO (12 R436); reset 1. -/
  polAuto : Bool := true
  /-- PIN_DIFF_IDLE (12 R436); reset 0. -/
  diffIdle : Bool := false
  /-- PIN_TX_INV (12 R436); reset 0. -/
  txInv : Bool := false
  /-- PIN_GLITCH, 8 bits (12 R436); reset 0. -/
  glitch : Byte := 0
  /-- PIN_SHORT_FILT, 8 bits (12 R436); reset 10. -/
  shortFilt : Byte := 10
  /-- PIN_IN_DESKEW, 8 bits signed (12 R436); reset 0. -/
  deskew : Byte := 0
  /-- PIN_LEVEL (12 R436); reset 0. -/
  level : Bool := false
  /-- IN_Q values with the fc from which they are held, newest first (12 R425, 03 R85); reset none, 0. -/
  inQ : List (Nat × Bool) := []
  /-- PIN_RX_INV (12 R435); reset 0. -/
  rxInv : Bool := false
  /-- PIN_LIMIT (12 R436); reset 0. -/
  limit : Bool := false
  /-- PIN_PROBE_RESULT, 3 bits (12 R434); reset 0b000. -/
  probe : BitVec 3 := 0
  /-- PIN_SHORT_FLAG (12 R436); reset 0. -/
  shortFlag : Bool := false
  /-- PIN_OV_FLAG (12 R436); reset 0. -/
  ovFlag : Bool := false
  /-- PIN_EV_TOTAL, 32 bits, saturating (12 R436); reset 0. -/
  total : BitVec 32 := 0
  /-- PIN_EV_LOST, 16 bits, saturating (12 R436); reset 0. -/
  lost : BitVec 16 := 0
  /-- PIN_GLITCH_COUNT, 16 bits, saturating (12 R436); reset 0. -/
  glitches : BitVec 16 := 0
  /-- Made safe after a short, 1, or an overvoltage, 2; 0 otherwise (12 R433); reset 0. -/
  safe : BitVec 2 := 0
  /-- Face registers OUT_D, OUT_OE, OUT_OFS (12 R425, 04 R121); reset 0. -/
  outD : Bool := false
  /-- OUT_OE (12 R425); reset 0. -/
  outOe : Bool := false
  /-- OUT_OFS, 4 bits (12 R425); reset 0. -/
  outOfs : BitVec 4 := 0
  /-- What the pin drives: value and enable, with the tick of the last change (12 R426); reset not driving. -/
  drvD : Bool := false
  /-- Output enable at the pin (12 R426); reset 0. -/
  drvOe : Bool := false
  /-- Tick of the last edge placed (12 R426); reset 0. -/
  edgeAt : Nat := 0
  /-- Event FIFO of 16 records, oldest first (12 R430); reset empty. -/
  fifo : List PinRec := []
  /-- A record was discarded since the last record popped (12 R430); reset no. -/
  ovfDue : Bool := false
  /-- Corrected tick of the last edge and whether its record was discarded (12 R430); reset none. -/
  lastEdge : Option (Int × Bool) := none
  /-- An edge whose pulse may prove shorter than PIN_GLITCH: tick, direction, COIN (12 R430); reset none. -/
  held : Option (Int × Bool × Bool) := none
  /-- Edges whose corrected tick lies at least 3 fc ahead of the present fc: tick, direction, COIN, and whether it made a
  record (12 R428, R432); reset none. -/
  ahead : List (Int × Bool × Bool × Bool) := []
  /-- Pop results, EV_VALID to EV_FLAGS, with the fc from which they are presented, newest first; none is EV_VALID 0 (12
  R425, R430, 03 R84); reset empty. -/
  pops : List (Nat × Option PinRec) := []
  /-- Open compare window (12 R431); reset none. -/
  win : Option Window := none
  /-- The next result carries LOST (12 R431); reset no. -/
  winLost : Bool := false
  /-- WIN_DONE, WIN_COUNT, WIN_FLAGS (12 R432); reset none. -/
  result : Option WinResult := none
  deriving DecidableEq, Repr, Inhabited

/-- A probe in progress (R434): its command, the pins left, PHASE_US, EXPECT, and the up sample of the pin examined. -/
structure ProbeJob where
  org : Origin
  pins : List Nat
  all : List Nat
  us : Byte
  expect : Bool
  up : Option (Bool × Bool)
  deriving DecidableEq, Repr, Inhabited

/-- One bank (Table PIN-8). -/
structure Bank where
  /-- PIN_BANK_MV, 12 bits (12 R436); reset 0. -/
  mv : BitVec 12 := 0
  /-- PIN_BANK_LEVEL, 3 bits (12 R436); reset 0b000. -/
  level : BitVec 3 := 0
  /-- The level has been measured at one of Table PIN-1 since RESET_N (12 R413); reset no. -/
  measured : Bool := false
  /-- Level when the bank was released (12 R414); reset none. -/
  original : Option (BitVec 3) := none
  /-- Bank power lost after release (12 R414); reset no. -/
  lost : Bool := false
  deriving DecidableEq, Repr, Inhabited

/-- User pins. -/
structure Pins where
  /-- The 24 banks (12 R411); reset as Bank. -/
  banks : Tab Bank := []
  /-- The 1,152 pins (12 R411); reset as Pin. -/
  pins : Tab Pin := []
  /-- The probe in progress (12 R434); reset none. -/
  probe : Option ProbeJob := none
  /-- Polarity checks in progress: the even pin, the PIN.POLARITY, or none after a release, and whether a check of that
  command has failed (12 R435); reset none. -/
  polarity : List (Nat × Option Origin × Bool) := []
  deriving DecidableEq, Repr, Inhabited

/-! ## Security, life cycle and identity (chapter 16) -/

/-- An owner key slot (R548, R549). -/
structure OwnerSlot where
  /-- SHA-384 digest of the owner key, 384 bits (16 R548); DESIGN CHOICE 0 as shipped (log 1). -/
  digest : BitVec 384 := 0
  /-- The slot has been written (16 R549); not, as shipped. -/
  written : Bool := false
  /-- The slot has been revoked (16 R549); not, as shipped. -/
  revoked : Bool := false
  deriving DecidableEq, Repr, Inhabited

/-- A user image key slot (R548 to R550). -/
structure KeySlot where
  /-- AES-256 image key (16 R548); DESIGN CHOICE 0 as shipped (log 1). -/
  key : BitVec 256 := 0
  /-- The slot has been written (16 R549); not, as shipped. -/
  written : Bool := false
  /-- The slot has been revoked (16 R549); not, as shipped. -/
  revoked : Bool := false
  deriving DecidableEq, Repr, Inhabited

/-- A SEC answer that waits for TRNG output (R547): its request, status and bytes. -/
structure SecWait where
  org : Origin
  target : W64
  status : Status
  data : List Byte
  /-- The host's channel was reset: the response is discarded (R460). -/
  drop : Bool := false
  deriving DecidableEq, Repr, Inhabited

/-- The security core, the eFuses and the vault. -/
structure Sec where
  /-- Codes of the written life-cycle transition groups from group 0, 3 bits each (16 R555); MANUFACTURE and BLANK as
  shipped; eFuse, kept over power loss. -/
  groups : List (BitVec 3) := [0, 1]
  /-- Life-cycle state in force, ID_LIFECYCLE, 3 bits (16 R552); BLANK as shipped. -/
  life : BitVec 3 := 1
  /-- The 8 owner key slots (16 R548); eFuse, as OwnerSlot. -/
  owners : Tab OwnerSlot := []
  /-- The 4 user image key slots (16 R548); eFuse, as KeySlot. -/
  keys : Tab KeySlot := []
  /-- Minimum firmware security version, 6 bits (16 R548); DESIGN CHOICE 0 as shipped (log 1); eFuse. -/
  minSvn : BitVec 6 := 0
  /-- NONCE, 384 bits (16 R554), a free value drawn at each start; before it DESIGN CHOICE 0 (log 1). -/
  nonce : BitVec 384 := 0
  /-- TAMPER_COUNT, 16 bits (16 R567); reset DESIGN CHOICE 0 (log 1). -/
  tampers : BitVec 16 := 0
  /-- LAST_CAUSE, 8 bits (16 R567); reset DESIGN CHOICE 0 (log 1). -/
  lastCause : Byte := 0
  /-- The vault, 4 MiB (16 R557); after power-on DESIGN CHOICE 0 (log 1). -/
  vault : Tab Byte := []
  /-- A vault wipe is in progress (16 R557); reset no. -/
  wiping : Bool := false
  /-- A boot key waits for the end of the tamper conditions or of a wipe (16 R555, R559); reset no. -/
  redraw : Bool := false
  /-- A tamper condition is present (16 R559); reset no. -/
  tamper : Bool := false
  /-- TRNG output is stopped (16 R547); reset no. -/
  trngStopped : Bool := false
  /-- The SEC answer that waits for TRNG output (16 R547); reset none. -/
  waiting : Option SecWait := none
  /-- Requests to the CTR_DRBG since it was seeded (16 R546); reset 0. -/
  drbg : Nat := 0
  /-- The life-cycle transition in progress: its command, old and new states (16 R555); reset none. -/
  pending : Option (Option Origin × BitVec 3 × BitVec 3) := none
  deriving DecidableEq, Repr, Inhabited

/-- A tag page write in progress (R565): the command, offset and bytes. -/
structure TagJob where
  /-- The command; none once a restart of Barista has abandoned it (R447). -/
  org : Option Origin
  offset : Nat
  data : List Byte
  deriving DecidableEq, Repr, Inhabited

/-- The tag NVM's user area and its JTAG port. -/
structure Tag where
  /-- User tag area, 8 KiB (16 R564); non-volatile, DESIGN CHOICE 0 as shipped (log 1). -/
  bytes : Tab Byte := []
  /-- Write count of each of the 128 pages, 32 bits, saturating (16 R566); DESIGN CHOICE 0 as shipped (log 1). -/
  counts : Tab (BitVec 32) := []
  /-- Lock bits, 8 bits (16 R564); DESIGN CHOICE 0 as shipped (log 1). -/
  lock : Byte := 0
  /-- The page write in progress (16 R565); reset none. -/
  job : Option TagJob := none
  /-- Address of the last TAG_ACCESS, 14 bits (16 R563); reset DESIGN CHOICE 0 (log 1). -/
  jtagAddr : BitVec 14 := 0
  /-- Data register of TAG_ACCESS as Capture-DR last loaded it, 64 bits (16 R563); reset DESIGN CHOICE 0 (log 1). -/
  jtagDr : W64 := 0
  deriving DecidableEq, Repr, Inhabited

/-! ## Fabric cells and routing (chapter 02) -/

/-- The registers of the fabric outside the register planes. Clusters are numbered 147,456 × layer + 384 × global row
+ global column, tiles 576 × layer + 24 × row + column. Segment bits lie in the order direction, kind, index. -/
structure Fab where
  /-- Switch-box output registers of the segments, 320 bits per cluster (02 R51, R52); reset DESIGN CHOICE 0 (log 1). -/
  segs : Tab (BitVec 320) := []
  /-- Midpoint registers of the S16 segments, 32 bits per cluster (02 R52); reset DESIGN CHOICE 0 (log 1). -/
  mids : Tab (BitVec 32) := []
  /-- Border registers of segments that cross a region border, 320 bits per driving cluster (02 R56, R57); reset DESIGN
  CHOICE 0 (log 1). -/
  borders : Tab (BitVec 320) := []
  /-- Carry link registers, 1 bit per cluster (02 R40); reset DESIGN CHOICE 0 (log 1). -/
  carry : Tab Bool := []
  /-- Border registers of the carry links, 1 bit per cluster (02 R40, R56); reset DESIGN CHOICE 0 (log 1). -/
  carryBorder : Tab Bool := []
  /-- VX registers, 16 bits per cluster (02 R58, R59); reset DESIGN CHOICE 0 (log 1). -/
  vx : Tab (BitVec 16) := []
  /-- VM registers leaving a switch box, first stage, up to 64 bits per cluster (02 R62); reset DESIGN CHOICE 0
  (log 1). -/
  vm1 : Tab W64 := []
  /-- VM registers at the block ports, second stage (02 R62); reset DESIGN CHOICE 0 (log 1). -/
  vm2 : Tab W64 := []
  /-- Carry-over registers, 64 bits per tile (02 R46); reset 0 (R49). -/
  co : Tab W64 := []
  /-- Parity bits of the four groups of carry-over registers, 4 bits per tile (02 R50); reset 0. -/
  coPar : Tab (BitVec 4) := []
  deriving DecidableEq, Repr, Inhabited

/-! ## The whole state -/

/-- The state of one AE9624. -/
structure State where
  /-- Pins of the package that start-up uses. -/
  ext : Ext := {}
  /-- Start-up, tests and repair. -/
  start : Start := {}
  /-- Vertical alignment. -/
  align : Align := {}
  /-- Clocks and time. -/
  clk : Clk := {}
  /-- Power domains. -/
  pwr : Pwr := {}
  /-- Thermal management. -/
  thm : Thm := {}
  /-- Configuration store and loader. -/
  load : Load := {}
  /-- Scrubber. -/
  scrub : Scrub := {}
  /-- Contexts and regions. -/
  ctx : Ctx := {}
  /-- Fabric registers. -/
  fab : Fab := {}
  /-- Memory layer. -/
  mem : Mem := {}
  /-- On-chip network. -/
  noc : Noc := {}
  /-- DRAM channels. -/
  dram : Dram := {}
  /-- Encryption and integrity. -/
  prt : Prt := {}
  /-- Golular chain link. -/
  lnk : Lnk := {}
  /-- Task dispatcher. -/
  dsp : Dsp := {}
  /-- User pins. -/
  pins : Pins := {}
  /-- Barista and mailboxes. -/
  mbx : Mbx := {}
  /-- Events. -/
  evt : Evt := {}
  /-- Security core. -/
  sec : Sec := {}
  /-- Tag NVM. -/
  tag : Tag := {}
  /-- Number of free values used so far, the model's own counter; reset DESIGN CHOICE 0 (log 2). -/
  free : Nat := 0
  /-- The commands waiting, first in, first out, the model's own; reset empty. -/
  pending : List Instr := []
  deriving DecidableEq, Repr, Inhabited

/-- The machine right after reset: RESET_N has been asserted with PWR_GOOD high, AON is on, and the start-up sequence
stands at step 2 of Table BRG-1 (15 R522). -/
def State.reset : State := {}

end Sys2Proof.Machine
end

