-- ==== Sys2Proof/Machine/Tab.lean ====
section
/-! DEFINITION. Reading and writing sparse tables, the canonical form they keep, and queues of bounded length. -/

namespace Sys2Proof

/-- What key k reads as: its entry, or the default d. -/
def Tab.get {α : Type} (d : α) : Tab α → Nat → α
  | [], _ => d
  | (k', v) :: t, k => if k = k' then v else Tab.get d t k

/-- Places v at key k, dropping any entry there; the keys stay rising. -/
def Tab.put {α : Type} : Tab α → Nat → α → Tab α
  | [], k, v => [(k, v)]
  | (k', v') :: t, k, v =>
    if k < k' then (k, v) :: (k', v') :: t
    else if k = k' then (k, v) :: t
    else (k', v') :: Tab.put t k v

/-- Removes every entry of key k. -/
def Tab.del {α : Type} : Tab α → Nat → Tab α
  | [], _ => []
  | (k', v') :: t, k => if k = k' then Tab.del t k else (k', v') :: Tab.del t k

/-- Sets key k to v; a value equal to the default leaves no entry. -/
def Tab.set {α : Type} [DecidableEq α] (d : α) (t : Tab α) (k : Nat) (v : α) : Tab α :=
  if v = d then Tab.del t k else Tab.put t k v

/-- Changes the value of key k by f. -/
def Tab.upd {α : Type} [DecidableEq α] (d : α) (t : Tab α) (k : Nat) (f : α → α) : Tab α :=
  Tab.set d t k (f (Tab.get d t k))

/-- Every key of the table is above k. -/
def Tab.above {α : Type} (k : Nat) : Tab α → Bool
  | [] => true
  | (k', _) :: t => decide (k < k') && Tab.above k t

/-- The canonical form: keys strictly rising, no entry equal to the default. -/
def Tab.wf {α : Type} [DecidableEq α] (d : α) : Tab α → Bool
  | [] => true
  | (k, v) :: t => decide (v ≠ d) && Tab.above k t && Tab.wf d t

/-- Sets every key of a list to v. -/
def Tab.fill {α : Type} [DecidableEq α] (d : α) (t : Tab α) (ks : List Nat) (v : α) : Tab α :=
  ks.foldl (fun t k => Tab.set d t k v) t

/-- The entries whose key satisfies p. -/
def Tab.keep {α : Type} (p : Nat → Bool) (t : Tab α) : Tab α :=
  t.filter (fun e => p e.1)

/-- The last n elements of a list: a bounded log that overwrites its oldest entries. -/
def lastN {α : Type} (n : Nat) (l : List α) : List α := l.drop (l.length - n)

/-- The indices below n whose bit of m is 1, in rising order. -/
def bitsOf {w : Nat} (m : BitVec w) : List Nat := (List.range w).filter (fun i => m.getLsbD i)

/-- A counter of w bits that saturates at its maximum. -/
def satAdd {w : Nat} (c : BitVec w) (n : Nat) : BitVec w :=
  if c.toNat + n < 2 ^ w then BitVec.ofNat w (c.toNat + n) else BitVec.ofNat w (2 ^ w - 1)

end Sys2Proof
end

