-- ==== Sys2Proof/Machine/Operands.lean ====
section
/-! DEFINITION. The operand forms: bytes and fields, the packing of arguments and results (R453), CRC-32C (R204), masks of
regions, blocks and pins, and the codes of statuses, events and the widths of each command's arguments. -/

namespace Sys2Proof.Machine

/-! ## Bytes and fields -/

/-- The n low bytes of v, least significant first. -/
def bytesLE : Nat → Nat → List Byte
  | 0, _ => []
  | n + 1, v => BitVec.ofNat 8 v :: bytesLE n (v / 256)

/-- The number that bytes spell, least significant first. -/
def natLE : List Byte → Nat
  | [] => 0
  | b :: bs => b.toNat + 256 * natLE bs

/-- Bits [lo + w − 1 : lo] of a number. -/
def field (v lo w : Nat) : Nat := v / 2 ^ lo % 2 ^ w

/-- 1 for true. -/
def bit (b : Bool) : Nat := if b then 1 else 0

/-- A word from its fields: each a value at its lowest bit. -/
def fieldsWord (l : List (Nat × Nat)) : Nat := l.foldl (fun a f => a + f.2 * 2 ^ f.1) 0

/-- The bytes of a table of bytes from an offset. -/
def tabBytes (t : Tab Byte) (at_ n : Nat) : List Byte := (List.range n).map (fun i => Tab.get 0 t (at_ + i))

/-- Places bytes into a table of bytes from an offset. -/
def putBytes (t : Tab Byte) : Nat → List Byte → Tab Byte
  | _, [] => t
  | k, b :: bs => putBytes (Tab.set 0 t k b) (k + 1) bs

/-- A table of bytes that holds a byte string from offset 0. -/
def bytesTab (l : List Byte) : Tab Byte := putBytes [] 0 l

/-- Splits a byte string into words of 8 bytes, the last one padded with 0. -/
def wordsOf : Nat → List Byte → List W64
  | 0, _ => []
  | n + 1, l => BitVec.ofNat 64 (natLE (l.take 8)) :: wordsOf n (l.drop 8)

/-- The words that carry a byte string (R464). -/
def wordsOfBytes (l : List Byte) : List W64 := wordsOf ((l.length + 7) / 8) l

/-- The bytes of words, least significant byte first. -/
def bytesOfWords (l : List W64) : List Byte := l.flatMap (fun w => bytesLE 8 w.toNat)

/-- Whether every byte is 0. -/
def allZero (l : List Byte) : Bool := l.all (fun b => b == 0)

/-! ## Packing (R453) -/

/-- Bytes that an argument of a width takes (R453). -/
def argSize (w : Nat) : Nat :=
  if w ≤ 8 then 1 else if w ≤ 16 then 2 else if w ≤ 32 then 4 else if w ≤ 64 then 8 else (w + 63) / 64 * 8

/-- The alignment of an argument of a width (R453). -/
def argAlign (w : Nat) : Nat := if w ≤ 64 then argSize w else 8

/-- The first multiple of a that is at least n. -/
def alignUp (n a : Nat) : Nat := (n + a - 1) / a * a

/-- Appends a field to packed bytes, with padding 0 before it (R453). -/
def packOne (acc : List Byte) (f : Nat × Nat) : List Byte :=
  acc ++ List.replicate (alignUp acc.length (argAlign f.1) - acc.length) 0 ++ bytesLE (argSize f.1) (f.2 % 2 ^ f.1)

/-- Packs fields, each a width and a value (R453). -/
def packFields (l : List (Nat × Nat)) : List Byte := l.foldl packOne []

/-- Packs fields and a trailing record at the next multiple of 8 (R453). -/
def packRecord (l : List (Nat × Nat)) (record : List Byte) : List Byte :=
  let p := packFields l
  p ++ List.replicate (alignUp p.length 8 - p.length) 0 ++ record

/-- Reads packed arguments of given widths at an offset: their values and the offset after them; none where bytes are
missing, or a padding byte or an unused bit is not 0 (R453, R454). -/
def unpackFrom (b : List Byte) : Nat → List Nat → Option (List Nat × Nat)
  | o, [] => some ([], o)
  | o, w :: ws =>
    let o' := alignUp o (argAlign w)
    let v := natLE ((b.drop o').take (argSize w))
    if b.length < o' + argSize w then none
    else if !allZero ((b.drop o).take (o' - o)) then none
    else if 2 ^ w ≤ v then none
    else
      match unpackFrom b (o' + argSize w) ws with
      | none => none
      | some (vs, e) => some (v :: vs, e)

/-- Reads a command's packed arguments: their values and the trailing record; none where R454 answers ST_BAD_ARG. -/
def unpackArgs (widths : List Nat) (record : Bool) (b : List Byte) : Option (List Nat × List Byte) :=
  match unpackFrom b 0 widths with
  | none => none
  | some (vs, e) =>
    if record then
      let r := alignUp e 8
      if allZero ((b.drop e).take (r - e)) then some (vs, b.drop r) else none
    else if b.length = e then some (vs, []) else none

/-! ## CRC-32C (R204) -/

/-- One bit of the reflected CRC-32C with polynomial 0x1EDC_6F41. -/
def crcBit (c : BitVec 32) : BitVec 32 := if c.getLsbD 0 then (c >>> 1) ^^^ 0x82F63B78#32 else c >>> 1

/-- One byte of the CRC. -/
def crcByte (c : BitVec 32) (b : Byte) : BitVec 32 :=
  crcBit (crcBit (crcBit (crcBit (crcBit (crcBit (crcBit (crcBit (c ^^^ b.zeroExtend 32))))))))

/-- CRC-32C over bytes: initial value and final XOR 0xFFFF_FFFF (R204). -/
def crc32c (l : List Byte) : BitVec 32 := l.foldl crcByte 0xFFFFFFFF#32 ^^^ 0xFFFFFFFF#32

/-! ## Serial numbers modulo 2^32 -/

/-- a is later than b, in numbers that count modulo 2^32 (R473, R477; DEDUCED: log 20). -/
def later (a b : BitVec 32) : Bool := 0 < (a - b).toNat && (a - b).toNat < 2 ^ 31

/-! ## Statuses and events -/

/-- The code of a status (Table MBX-12). -/
def Status.code : Status → Nat
  | .ok => 0x00 | .busy => 0x01 | .pending => 0x02
  | .badCmd => 0x10 | .badArg => 0x11 | .denied => 0x12 | .state => 0x13 | .noResource => 0x14 | .retired => 0x15
  | .crc => 0x20 | .auth => 0x21
  | .timeout => 0x30 | .domainOff => 0x31 | .baseReset => 0x32
  | .poison => 0x40 | .integrity => 0x41
  | .thermal => 0x50 | .internal => 0xFF

/-- The status that a code names; a reserved code reads as ST_INTERNAL (DESIGN CHOICE, log 21). -/
def Status.ofCode (n : Nat) : Status :=
  match n with
  | 0x00 => .ok | 0x01 => .busy | 0x02 => .pending
  | 0x10 => .badCmd | 0x11 => .badArg | 0x12 => .denied | 0x13 => .state | 0x14 => .noResource | 0x15 => .retired
  | 0x20 => .crc | 0x21 => .auth
  | 0x30 => .timeout | 0x31 => .domainOff | 0x32 => .baseReset
  | 0x40 => .poison | 0x41 => .integrity
  | 0x50 => .thermal | _ => .internal

/-- EV_CODE of an event (Table MBX-16). -/
def Ev.code : Ev → Nat
  | .baristaRestart => 0x0101 | .fwFallback => 0x0102 | .sysDone => 0x0103 | .ringOverflow => 0x0104
  | .hwEventsLost => 0x0105
  | .cfgDone => 0x0201 | .ctxDamaged => 0x0202 | .scrubMapFallback => 0x0203 | .scrubStalled => 0x0204
  | .upsetEssential => 0x0205 | .memInitDone => 0x0210 | .memUncorrectable => 0x0211 | .memColumn => 0x0212
  | .ctxDone => 0x0301 | .slotInvalidated => 0x0302 | .regionRetired => 0x0303 | .valignLost => 0x0304
  | .carryoverParity => 0x0305
  | .pwrDone => 0x0401
  | .clkDone => 0x0501 | .clockLost => 0x0502 | .clockGrade => 0x0503
  | .thermalWarn => 0x0601 | .thermalThrottle => 0x0602 | .thermalTrip => 0x0603 | .thermalRor => 0x0604
  | .thermalRestart => 0x0605
  | .drmDone => 0x0701 | .dramPopulation => 0x0702 | .dramUncorrectable => 0x0703 | .dramPpr => 0x0704
  | .dramChannelFailed => 0x0705
  | .prtDone => 0x0801 | .integrity => 0x0802 | .epochAdvanced => 0x0803 | .prtCapacity => 0x0804
  | .lnkDone => 0x0901 | .linkUp => 0x0902 | .linkDown => 0x0903 | .linkReversed => 0x0904 | .laneSpared => 0x0905
  | .linkWidth => 0x0906 | .linkPoisoned => 0x0907 | .schedStopped => 0x0908 | .schedResumed => 0x0909
  | .timeSlip => 0x090A
  | .pinDone => 0x0A01 | .pinShort => 0x0A02 | .pinOpen => 0x0A03 | .pinPolarity => 0x0A04 | .pinBankPower => 0x0A05
  | .dspToken => 0x0B01 | .dspSource => 0x0B02 | .dspEngine => 0x0B03 | .dspFull => 0x0B04 | .dspItemLost => 0x0B05
  | .nocDone => 0x0C01 | .nocRouterFailed => 0x0C02
  | .tstDone => 0x0D01 | .bistFail => 0x0D02
  | .rprDone => 0x0E01 | .tsvSpared => 0x0E02
  | .secDone => 0x0F01 | .tamper => 0x0F02 | .lifecycle => 0x0F03
  | .tagDone => 0x1001

/-- EV_SEVERITY of an event: 0 info, 1 notice, 2 warning, 3 error, 4 fatal (Table MBX-16). -/
def Ev.severity : Ev → BitVec 3
  | .sysDone | .cfgDone | .memInitDone | .ctxDone | .pwrDone | .clkDone | .drmDone | .prtDone | .lnkDone | .pinDone
  | .nocDone | .tstDone | .rprDone | .secDone | .tagDone => 0
  | .memColumn | .dramPpr | .epochAdvanced | .linkUp | .schedResumed | .pinPolarity | .lifecycle => 1
  | .baristaRestart | .ringOverflow | .hwEventsLost | .scrubMapFallback | .upsetEssential | .slotInvalidated
  | .carryoverParity | .thermalWarn | .thermalThrottle | .thermalRestart | .dramPopulation | .prtCapacity | .linkDown
  | .linkReversed | .laneSpared | .linkWidth | .timeSlip | .pinShort | .pinOpen | .dspToken | .dspSource | .dspEngine
  | .dspFull | .tsvSpared => 2
  | .fwFallback | .ctxDamaged | .scrubStalled | .memUncorrectable | .regionRetired | .valignLost | .clockLost
  | .clockGrade | .thermalTrip | .thermalRor | .dramUncorrectable | .dramChannelFailed | .integrity | .linkPoisoned
  | .schedStopped | .pinBankPower | .dspItemLost | .bistFail | .tamper => 3
  | .nocRouterFailed => 4

end Sys2Proof.Machine
end

