-- ==== Sys2Proof/Machine/Ops.lean ====
section
/-! DEFINITION. The named operations that every family shares: free values, the parts of the state by number, time,
routes through the chain, and the posting of events (R473 to R478, R602) and of final events (R450, R469, R473). -/

namespace Sys2Proof.Machine

/-! ## Free values -/

/-- FREE VALUE. The next value that the spec leaves open. -/
def freeNow (s : State) : BitVec 512 := Config.freeValue s.free

/-- Uses up n free values. -/
def useFree (n : Nat) (s : State) : State := { s with free := s.free + n }

/-! ## Parts of the state by number -/

/-- Region r, by REGION_MASK bit number. -/
def regionOf (s : State) (r : Nat) : Region := Tab.get {} s.ctx.regions r

/-- Changes region r. -/
def updRegion (r : Nat) (f : Region → Region) (s : State) : State :=
  { s with ctx := { s.ctx with regions := Tab.upd {} s.ctx.regions r f } }

/-- Slot k of a region. -/
def Region.slot (g : Region) (k : Nat) : Slot := Tab.get {} g.slots k

/-- Changes slot k of a region. -/
def Region.updSlot (k : Nat) (f : Slot → Slot) (g : Region) : Region := { g with slots := Tab.upd {} g.slots k f }

/-- Power domain d. -/
def domOf (s : State) (d : Nat) : Domain := Tab.get {} s.pwr.doms d

/-- Changes power domain d. -/
def updDom (d : Nat) (f : Domain → Domain) (s : State) : State :=
  { s with pwr := { s.pwr with doms := Tab.upd {} s.pwr.doms d f } }

/-- PLL group g. -/
def pllOf (s : State) (g : Nat) : Pll := Tab.get {} s.clk.plls g

/-- Changes PLL group g. -/
def updPll (g : Nat) (f : Pll → Pll) (s : State) : State :=
  { s with clk := { s.clk with plls := Tab.upd {} s.clk.plls g f } }

/-- Thermal sensor k. -/
def sensorOf (s : State) (k : Nat) : Sensor := Tab.get {} s.thm.sensors k

/-- Changes thermal sensor k. -/
def updSensor (k : Nat) (f : Sensor → Sensor) (s : State) : State :=
  { s with thm := { s.thm with sensors := Tab.upd {} s.thm.sensors k f } }

/-- Memory block b. -/
def blockOf (s : State) (b : Nat) : Block := Tab.get {} s.mem.blocks b

/-- Changes memory block b. -/
def updBlock (b : Nat) (f : Block → Block) (s : State) : State :=
  { s with mem := { s.mem with blocks := Tab.upd {} s.mem.blocks b f } }

/-- NoC router n. -/
def routerOf (s : State) (n : Nat) : Router := Tab.get {} s.noc.routers n

/-- Changes NoC router n. -/
def updRouter (n : Nat) (f : Router → Router) (s : State) : State :=
  { s with noc := { s.noc with routers := Tab.upd {} s.noc.routers n f } }

/-- NOC_PORT n. -/
def nportOf (s : State) (n : Nat) : NPort := Tab.get {} s.noc.ports n

/-- Changes NOC_PORT n. -/
def updNport (n : Nat) (f : NPort → NPort) (s : State) : State :=
  { s with noc := { s.noc with ports := Tab.upd {} s.noc.ports n f } }

/-- DRAM channel c. -/
def dchanOf (s : State) (c : Nat) : Chan8 := Tab.get {} s.dram.chans c

/-- Changes DRAM channel c. -/
def updDchan (c : Nat) (f : Chan8 → Chan8) (s : State) : State :=
  { s with dram := { s.dram with chans := Tab.upd {} s.dram.chans c f } }

/-- Integrity region IRi. -/
def irOf (s : State) (i : Nat) : IntRegion := Tab.get {} s.prt.irs i

/-- Changes integrity region IRi. -/
def updIr (i : Nat) (f : IntRegion → IntRegion) (s : State) : State :=
  { s with prt := { s.prt with irs := Tab.upd {} s.prt.irs i f } }

/-- Golular port Pn. -/
def portOf (s : State) (n : Nat) : Port := Tab.get {} s.lnk.ports n

/-- Changes Golular port Pn. -/
def updPort (n : Nat) (f : Port → Port) (s : State) : State :=
  { s with lnk := { s.lnk with ports := Tab.upd {} s.lnk.ports n f } }

/-- User pin p, by its index 48 × nn + mm. -/
def pinOf (s : State) (p : Nat) : Pin := Tab.get {} s.pins.pins p

/-- Changes user pin p. -/
def updPin (p : Nat) (f : Pin → Pin) (s : State) : State :=
  { s with pins := { s.pins with pins := Tab.upd {} s.pins.pins p f } }

/-- Bank Bnn. -/
def bankOf (s : State) (b : Nat) : Bank := Tab.get {} s.pins.banks b

/-- Changes bank Bnn. -/
def updBank (b : Nat) (f : Bank → Bank) (s : State) : State :=
  { s with pins := { s.pins with banks := Tab.upd {} s.pins.banks b f } }

/-- Mailbox channel c. -/
def chanOf (s : State) (c : Nat) : Chan := Tab.get {} s.mbx.chans c

/-- Changes mailbox channel c. -/
def updChan (c : Nat) (f : Chan → Chan) (s : State) : State :=
  { s with mbx := { s.mbx with chans := Tab.upd {} s.mbx.chans c f } }

/-- The region that tile position (layer, column, row) belongs to (R29); layer is true for L2. -/
def regionAt (layer : Bool) (column row : Nat) : Nat := 16 * bit layer + 4 * (row / 6) + column / 6

/-- Whether a region is in the present state st. -/
def regionIs (s : State) (r : Nat) (st : RegSt) : Bool := (regionOf s r).st == st

/-- Whether S19 or another sensor of the privileged die reads above 95 °C, the limit of KL-07 for eFuse, tag and repair
record writes. -/
def tooHot (s : State) : Bool := decide (760 < (sensorOf s 19).temp.toInt)

/-! ## Time -/

/-- EV_TIME: chain time, or with UNSYNC the count of fc since the last lock of the fabric PLL, 0 while it is not locked
(R473). -/
def evTime (s : State) : W64 :=
  if s.clk.unsync then (if (pllOf s 0).locked then BitVec.ofNat 64 s.clk.sinceLock else 0) else s.clk.time

/-! ## Routes (R281 to R284) -/

/-- What a selector of a route word does: leave by a port, arrive, or meet a link that is down. -/
inductive RouteAct where
  | port (p : Nat)
  | here
  | dead
  deriving DecidableEq, Repr, Inhabited

/-- Selector i of a route word (Table LNK-10). -/
def routeSel (w : W64) (i : Nat) : Nat := field w.toNat (3 * i) 3

/-- The action at the first word of a list, from selector 0 (R282). -/
def routeWords : List W64 → RouteAct × W64 × List W64 × Nat
  | [] => (.dead, 0, [], 0)
  | w :: ws =>
    if routeSel w 0 = 7 then routeWords ws
    else if routeSel w 0 = 6 then (.here, w, ws, 1)
    else (.port (routeSel w 0), w, ws, 1)

/-- Reads the selector that the hop index names and increments the index; at selector 7, or past index 20, the next
extension word is promoted (R282). Answers the action, the present word, the extension words left and the new index. -/
def routeStep (w : W64) (ext : List W64) (hop : Nat) : RouteAct × W64 × List W64 × Nat :=
  if 20 < hop ∨ routeSel w hop = 7 then routeWords ext
  else if routeSel w hop = 6 then (.here, w, ext, hop + 1)
  else (.port (routeSel w hop), w, ext, hop + 1)

/-- The extension words of a route table entry, following NEXT for at most the number of handles (R284). -/
def routeExtOf (s : State) : Nat → Nat → List W64
  | 0, _ => []
  | n + 1, h =>
    let e := Tab.get {} s.lnk.routes h
    if h = 0 ∨ e.present = false then [] else e.route :: routeExtOf s n e.next.toNat

/-- The route of a handle: its word and extension words, or none when the handle is absent (R284). -/
def routeOf (s : State) (h : Nat) : Option (W64 × List W64) :=
  match routeExtOf s 4095 h with
  | [] => none
  | w :: ws => some (w, ws)

/-- Whether the link of a port is up. -/
def linkUpAt (s : State) (p : Nat) : Bool := (portOf s p).st == .up

/-- The port by which a message leaves this device, when the first hop leaves by a link that is up (R466). -/
def firstHop (s : State) (w : W64) (ext : List W64) : Option Nat :=
  match (routeStep w ext 0).1 with
  | .port p => if linkUpAt s p then some p else none
  | _ => none

/-- Flits of a MGMT message: its header flit and payload flits of 30 bytes (R294). -/
def mgmtFlits (m : MgmtMsg) : Nat := 1 + (16 + m.payload.length + 29) / 30

/-- Gives a MGMT message to the transmit side of a port against its credits, behind the messages that wait (R267). -/
def giveMgmt (p : Nat) (m : MgmtMsg) (s : State) : State :=
  let x := portOf s p
  if x.mgmtWait = [] ∧ mgmtFlits m ≤ x.credMgmt then
    updPort p (fun x => { x with credMgmt := x.credMgmt - mgmtFlits m })
      { s with mbx := { s.mbx with mgmtOut := s.mbx.mgmtOut ++ [(p, m)] } }
  else updPort p (fun x => { x with mgmtWait := x.mgmtWait ++ [m] }) s

/-- Gives a MGMT message to the port its route names here; a route to a link that is down discards it (R283, R287,
R294). -/
def sendMgmt (m : MgmtMsg) (s : State) : State :=
  match routeStep m.route m.routeExt m.hop.toNat with
  | (.port p, w, ext, hop) =>
    if linkUpAt s p then giveMgmt p { m with route := w, routeExt := ext, hop := BitVec.ofNat 5 hop } s else s
  | _ => s

/-- A MGMT message that answers another along its return route: the return word, then the return words in the reverse
order of appending (R287). -/
def replyMgmt (q : MgmtMsg) (kind : MgmtKind) (header payload : List Byte) : MgmtMsg :=
  { kind := kind, route := q.ret, routeExt := q.retWords.reverse, ret := 6, retWords := [], hop := 0,
    handle := q.handle, header := header, payload := payload }

/-! ## Events -/

/-- The 64 bytes of an event record (Table MBX-13). -/
def evBytes (e : EvRec) : List Byte :=
  bytesLE 2 e.code.toNat ++ [e.severity.zeroExtend 8, e.flags] ++ bytesLE 4 e.number.toNat ++ bytesLE 8 e.time.toNat ++
    bytesLE 8 e.origin.toNat ++ (e.data ++ List.replicate 40 0).take 40

/-- The record that 64 bytes spell (Table MBX-13). -/
def evOfBytes (b : List Byte) : EvRec :=
  { code := BitVec.ofNat 16 (natLE (b.take 2)), severity := BitVec.ofNat 3 (natLE ((b.drop 2).take 1)),
    flags := BitVec.ofNat 8 (natLE ((b.drop 3).take 1)), number := BitVec.ofNat 32 (natLE ((b.drop 4).take 4)),
    time := BitVec.ofNat 64 (natLE ((b.drop 8).take 8)), origin := BitVec.ofNat 64 (natLE ((b.drop 16).take 8)),
    data := (b.drop 24).take 40 }

/-- Sets bit k of IRQ_EVENT, IRQ_RING_FULL and IRQ_BARISTA, and signals vector 8 when it changes to 1 and is not
masked (R476). -/
def raiseIrq (k : Nat) (e : Evt) : Evt :=
  if e.irqEvt.getLsbD k then e
  else
    let e' := { e with irqEvt := e.irqEvt ||| (1#3 <<< k) }
    if e.irqMask.getLsbD k then e' else { e' with msix := e'.msix ++ [8] }

/-- Records in the event ring (R475). -/
def ringSize (e : Evt) : Nat := 2 ^ e.ringLog2.toNat

/-- Whether the ring has room for a record (R475). -/
def ringRoom (e : Evt) : Bool := decide ((e.head - e.tail).toNat < ringSize e)

/-- Writes bytes to host memory. -/
def putHost (t : Tab (Option Byte)) : Nat → List Byte → Tab (Option Byte)
  | _, [] => t
  | k, b :: bs => putHost (Tab.set none t k (some b)) (k + 1) bs

/-- Writes a record to the ring, or counts it as lost (R475). -/
def ringWrite (b : List Byte) (e : Evt) : Evt :=
  if e.ringEn = false then e
  else if ringRoom e then
    raiseIrq 0 { e with
      hostMem := putHost e.hostMem (e.ringBase.toNat + 64 * (e.head.toNat % ringSize e)) b
      head := e.head + 1 }
  else raiseIrq 1 { e with lost := satAdd e.lost 1, lostNew := satAdd e.lostNew 1 }

/-- Whether a record of the log holds ALERT_N: raised by this device, at or above the level, and not acknowledged
(R477). -/
def alerts (e : Evt) (r : EvRec) : Bool :=
  !r.flags.getLsbD 0 && decide (e.alertLevel ≤ r.severity) && later r.number e.alertAck

/-- Sets ALERT_N as the log, the level and the acknowledgement say (R477). -/
def updAlert (e : Evt) : Evt := { e with alert := e.log.any (fun r => alerts e r.2) }

/-- Posts a record: post number, on-chip log, ring and ALERT_N (R474, R475, R477, R602). -/
def postRec (r : EvRec) (e : Evt) : Evt :=
  let n := e.post + 1
  updAlert (ringWrite (evBytes r) { e with post := n, log := lastN 1024 (e.log ++ [(n, r)]) })

/-- Sends an event of this device along the event route (R478). -/
def routeEvent (r : EvRec) (s : State) : State :=
  if s.mbx.routeHandle = 0 ∨ r.severity < s.mbx.routeMin then s
  else
    match routeOf s s.mbx.routeHandle.toNat with
    | none => s
    | some (w, ext) =>
      sendMgmt { kind := .event, route := w, routeExt := ext, ret := 6, retWords := [], hop := 0, handle := 0,
                 header := [], payload := evBytes r } s

/-- Numbers and posts an event that this device raised, and sends it along the event route (R473, R478). -/
def postOwn (r : EvRec) (s : State) : State :=
  let r' := { r with number := s.evt.last + 1 }
  routeEvent r' { s with evt := postRec r' { s.evt with last := s.evt.last + 1 } }

/-- An event record as it is raised now, not yet numbered (Table MBX-13). -/
def newRec (ev : Ev) (data : List Byte) (held : Bool) (s : State) : EvRec :=
  { code := BitVec.ofNat 16 ev.code, severity := ev.severity,
    flags := BitVec.ofNat 8 (2 * bit s.clk.unsync + 4 * bit held), number := 0, time := evTime s,
    origin := Config.serial, data := data }

/-- Once the ring has room again, posts EV_RING_OVERFLOW with the records not written (R475). -/
def postOverflow (s : State) : State :=
  if s.evt.ringEn ∧ s.evt.lostNew ≠ 0 ∧ ringRoom s.evt then
    postOwn (newRec .ringOverflow (packFields [(32, s.evt.lostNew.toNat)]) false s)
      { s with evt := { s.evt with lostNew := 0 } }
  else s

/-- Whether Barista's firmware posts events itself (R474). -/
def serving (s : State) : Bool := s.mbx.barista == .serving && !s.pwr.deepIdle

/-- Sends a final event along the return route of the command it ends (R469). -/
def sendFinal (org : Option Origin) (r : EvRec) (s : State) : State :=
  match org with
  | some { via := some q, .. } => sendMgmt (replyMgmt q .event [] (evBytes r)) s
  | _ => s

/-- Posts an event by firmware, with the command it ends. -/
def postNow (r : EvRec) (org : Option Origin) (s : State) : State :=
  let s' := postOwn r (postOverflow s)
  sendFinal org { r with number := s'.evt.last } s'

/-- Places an event in the hardware queue of 256, or counts it (R474). -/
def queueHw (r : EvRec) (org : Option Origin) (s : State) : State :=
  if s.evt.hwq.length < 256 then { s with evt := { s.evt with hwq := s.evt.hwq ++ [(r, org)] } }
  else { s with evt := { s.evt with hwLost := satAdd s.evt.hwLost 1 }
                mbx := { s.mbx with hwLostTotal := satAdd s.mbx.hwLostTotal 1 } }

/-- Raises an event (R473, R474). -/
def raise (ev : Ev) (data : List (Nat × Nat)) (s : State) : State :=
  if serving s then postNow (newRec ev (packFields data) false s) none s
  else queueHw (newRec ev (packFields data) true s) none s

/-- EV_DATA of a final event: CMD, SEQ, CHANNEL, STATUS and UNIT (R473). -/
def finalData (org : Origin) (unit : Nat) (st : Status) : List Byte :=
  bytesLE 2 org.cmd.toNat ++ bytesLE 2 org.seq.toNat ++ [org.channel] ++ bytesLE 1 st.code ++ bytesLE 2 unit

/-- UNIT when no unit applies (R473). -/
def noUnit : Nat := 0xFFFF

/-- Takes one unit off the first pending record of an origin, and frees the record at its last unit (R450). -/
def closeUnit (org : Origin) : List Pend → List Pend
  | [] => []
  | p :: ps =>
    if p.org = org ∧ p.remote = false then
      if p.units ≤ 1 then ps else { p with units := p.units - 1 } :: ps
    else p :: closeUnit org ps

/-- Posts a final event of a command, and updates its pending record (R450, R469, R473). -/
def finish (org : Origin) (ev : Ev) (unit : Nat) (st : Status) (s : State) : State :=
  let s' := { s with mbx := { s.mbx with pend := closeUnit org s.mbx.pend } }
  if serving s' then postNow (newRec ev (finalData org unit st) false s') (some org) s'
  else queueHw (newRec ev (finalData org unit st) true s') (some org) s'

/-- A final event where the command is known, and nothing where it is not. -/
def finishOpt (org : Option Origin) (ev : Ev) (unit : Nat) (st : Status) (s : State) : State :=
  match org with
  | some o => finish o ev unit st s
  | none => s

/-- Posts the events of the hardware queue, then EV_HW_EVENTS_LOST with the count of those discarded (R474, Table MBX-2
step 4). -/
def drainHw (s : State) : State :=
  let s1 := s.evt.hwq.foldl (fun a r => postNow r.1 r.2 a) { s with evt := { s.evt with hwq := [] } }
  if s1.evt.hwLost = 0 then s1
  else
    postNow (newRec .hwEventsLost (packFields [(32, s1.evt.hwLost.toNat)]) false s1) none
      { s1 with evt := { s1.evt with hwLost := 0 } }

/-- Changes ID_BARISTA and sets IRQ_BARISTA when it changes (R471, R475). -/
def setBarista (b : BaristaState) (s : State) : State :=
  if s.mbx.barista = b then s
  else { s with mbx := { s.mbx with barista := b }, evt := raiseIrq 2 s.evt }

/-! ## The map of retired resources and the repair record (R539, R540, R544) -/

/-- Asserts ERROR_N (R218). -/
def assertError (s : State) : State := { s with ext := { s.ext with error := true } }

/-- Folds a change over a list of numbers. -/
def forEach (l : List Nat) (f : Nat → State → State) (s : State) : State := l.foldl (fun a k => f k a) s

end Sys2Proof.Machine
end

