-- ==== Sys2Proof/Machine/Flags.lean ====
section
/-! DEFINITION. The status flags and status words: those of a memory block's queue with their age (R82, R177, R184), of a
region (Table CTX-3), of a power domain (Table PWR-8), of a sensor (Table PWR-14) and of a router (Table NOC-8). -/

namespace Sys2Proof.Machine

/-! ## The queue of a memory block -/

/-- CAP of a block (R175). -/
def Block.cap (b : Block) : Nat := 2 ^ b.capLog2

/-- QCTL_MODE code (Table MEM-8). -/
def QMode.code : QMode → Nat
  | .ram => 0 | .fifo => 1 | .credit => 2 | .priority => 3 | .inbox => 4 | .mail => 5

/-- The mode of a QCTL_MODE code; 6 and 7 are reserved. -/
def QMode.ofCode (n : Nat) : Option QMode :=
  match n with
  | 0 => some .ram | 1 => some .fifo | 2 => some .credit | 3 => some .priority | 4 => some .inbox | 5 => some .mail
  | _ => none

/-- The highest COUNT at which the inbox of block g is not full: the lower of its engine's threshold and CAP − 6, or
CAP − 6 with no engine bound (R402). -/
def inboxLimit (s : State) (g : Nat) : Nat :=
  let cap := (blockOf s g).cap
  match s.dsp.engines.find? (fun e => e.2.bound && e.2.block == g) with
  | some e => min e.2.thresh (cap - 6)
  | none => cap - 6

/-- FULL of a block, given its inbox limit (Table MEM-5). -/
def Block.full (limit : Nat) (b : Block) : Bool :=
  match b.mode with
  | .ram => false
  | .fifo => decide (b.cap ≤ b.entries.length)
  | .credit => b.credits == 0 || decide (b.cap ≤ b.entries.length)
  | .priority => decide (b.cap ≤ b.entries.length)
  | .inbox => decide (limit < b.entries.length)
  | .mail => b.closed.isSome

/-- EMPTY, FULL, COUNT and CREDIT of a block (R177). -/
def Block.flags (limit : Nat) (b : Block) : QFlags :=
  match b.mode with
  | .ram => { empty := true, full := false, count := 0, credit := 0 }
  | .mail =>
    { empty := !b.inb.any (fun e => e.vis), full := b.full limit,
      count := BitVec.ofNat 14 (b.inb.length + 16 * b.outb.length), credit := 0 }
  | m =>
    { empty := !b.entries.any (fun e => e.vis), full := b.full limit, count := BitVec.ofNat 14 b.entries.length,
      credit := if m = .credit then BitVec.ofNat 14 b.credits else 0 }

/-- The entries that are due by fc t are visible, in order of acceptance (R82, R176). -/
def showDue (t : Nat) : List QEnt → List QEnt
  | [] => []
  | e :: es => if e.due ≤ t then { e with vis := true } :: showDue t es else e :: es

/-- Credits after n are returned: at most CAP, with QCTL_CREDIT_OVF when they would exceed it (R179). -/
def addCredits (n : Nat) (b : Block) : Block :=
  if b.credits + n ≤ b.cap then { b with credits := b.credits + n } else { b with credits := b.cap, ovf := true }

/-- The order in which writes of one fc commit: port B's data remains (R90). -/
def portRank : Port3 → Nat
  | .n => 0 | .a => 1 | .b => 2

/-- Commits the writes that no later read can precede. -/
def commitWrites (t : Nat) (b : Block) : Block :=
  let old := b.writes.filter (fun w => decide (w.at_ + 3 ≤ t))
  { b with writes := b.writes.filter (fun w => decide (t < w.at_ + 3)),
           words := old.foldl (fun m w => Tab.set {} m w.addr w.word) b.words }

/-- The block as it stands at the start of fc t, one fc after another: credits returned are in force, entries that are
due are visible, and the status flags are recorded (R82, R90, R179). -/
def Block.startFc (limit : Nat) (t : Nat) (b : Block) : Block :=
  let b1 := { addCredits b.credPend (commitWrites t b) with credPend := 0 }
  let b2 := { b1 with entries := showDue t b1.entries, inb := showDue t b1.inb }
  { b2 with opFc := t, occStart := b2.entries.length, enqFc := 0, snaps := ((t, b2.flags limit) :: b2.snaps).take 5 }

/-- Brings a block to fc t, through at most the last 5 fc, whose flags may still be presented. -/
def Block.roll (limit : Nat) (t : Nat) (b : Block) : Block :=
  if b.opFc < t then
    let from_ := max (b.opFc + 1) (t - 4)
    (List.range (t + 1 - from_)).foldl (fun b i => b.startFc limit (from_ + i)) b
  else b

/-- Block g at the present fc. -/
def blockNow (s : State) (g : Nat) : Block := (blockOf s g).roll (inboxLimit s g) s.clk.fc

/-- The status flags that block g presents in fc m: the queue at the start of fc m − 1 (R82). -/
def presentedFlags (s : State) (g m : Nat) : QFlags :=
  let l := inboxLimit s g
  let b := blockOf s g
  let r := if b.opFc < m then b.roll l m else b
  match r.snaps.find? (fun p => decide (p.1 + 1 ≤ m)) with
  | some p => p.2
  | none => r.flags l

/-- The seven QCTL registers of a block, offset 0x00 to 0x18 (Table MEM-8). -/
def qctlWords (s : State) (g : Nat) (unavailable : Bool) : List Nat :=
  let b := blockNow s g
  let f := b.flags (inboxLimit s g)
  [ fieldsWord [(0, b.mode.code), (4, b.capLog2), (8, bit b.patrolEn)],
    fieldsWord [(0, f.count.toNat), (14, bit f.empty), (15, bit f.full), (16, bit !b.inb.isEmpty),
      (17, bit b.closed.isSome), (18, bit unavailable), (19, bit b.ovf)],
    fieldsWord [(0, b.credits), (16, b.creditInit)],
    0,
    fieldsWord [(0, b.ce.toNat), (16, b.ue.toNat)],
    fieldsWord [(0, b.ueWord.toNat), (15, bit b.ueValid)],
    b.spareUsed.toNat ]

/-! ## Regions -/

/-- CTX_STATE code (Table CTX-3). -/
def RegSt.code : RegSt → Nat
  | .off => 0 | .blank => 1 | .ready => 2 | .running => 3 | .held => 4 | .faulted => 5 | .retired => 6

/-- Whether a mailbox command for a region is armed, up to and including its boundary (Table CTX-5, Table CTX-3). -/
def armedFor (s : State) (r : Nat) : Bool :=
  s.ctx.armed.any (fun a => a.region == r && decide (s.clk.time.toNat ≤ a.b.toNat))

/-- CTX_ALIGN_BUSY of a region: vertical alignment has still to complete, or a skip change of its layer remeasures its
crossings (R86, R536). -/
def alignBusyFor (s : State) (r : Nat) : Bool :=
  s.align.busy || (match s.start.skipCmd with | some (_, l) => l == decide (16 ≤ r) | none => false)

/-- CTX_REGION_STATUS (Table CTX-3). -/
def regionStatus (s : State) (r : Nat) : Nat :=
  let g := regionOf s r
  let shown := match g.present with | some k => k.val | none => 0
  let slots := List.range 4
  fieldsWord (
    [(0, g.st.code), (3, shown), (5, bit g.present.isSome)] ++
    slots.map (fun k => (6 + k, bit ((g.slot k).st == .verified))) ++
    slots.map (fun k => (10 + k, bit ((g.slot k).st == .staging))) ++
    slots.map (fun k => (14 + 4 * k, (g.slot k).ctx.toNat)) ++
    [(30, bit (alignBusyFor s r)), (31, bit g.bistBusy), (32, bit g.retention),
     (33, bit (armedFor s r)), (34, g.cause.toNat),
     (38, match g.present with
          | some k => (match (g.slot k.val).desc with | some d => d.action.toNat | none => 0)
          | none => 0),
     (48, g.upsets.toNat)])

/-! ## Power, sensors and routers -/

/-- PWR_STATE code (Table PWR-8). -/
def PwrState.code : PwrState → Nat
  | .off => 0 | .poweringUp => 1 | .on => 2 | .retention => 3 | .stopping => 4 | .isolated => 5 | .tripped => 6

/-- Whether a domain belongs to the privileged group now (R512). -/
def privileged (s : State) (d : Nat) : Bool :=
  d == 0 || d == 1 || d == 21 || (90 ≤ d && d ≤ 93) || (15 ≤ d && d ≤ 20 && linkUpAt s (d - 15))

/-- PWR_DOM_STATUS (Table PWR-8). -/
def domStatus (s : State) (d : Nat) : Nat :=
  let x := domOf s d
  fieldsWord [(0, x.st.code), (3, bit x.fenced), (4, bit x.isolated), (5, bit x.latched), (6, bit (privileged s d)),
    (7, bit x.tripRor), (8, x.tripSensor.toNat), (16, x.onCount.toNat)]

/-- THM_SENSOR_n (Table PWR-14). -/
def sensorWord (s : State) (n : Nat) : Nat :=
  let x := sensorOf s n
  fieldsWord [(0, x.temp.toNat), (16, x.max.toNat), (28, bit x.ror), (29, bit x.warn), (30, bit x.throttle),
    (31, bit x.fault)]

/-- NOC_RTR of router n (Table NOC-8). -/
def routerWord (s : State) (n : Nat) : Nat :=
  let r := routerOf s n
  let q := 2 * (n / 8 / 4) + n % 8 / 4
  fieldsWord [(0, r.w.rt.toNat), (4, r.w.hi.toNat), (8, r.w.norm.toNat), (12, r.w.bulk.toNat),
    (16, bit r.reconfig.isSome), (17, bit !((domOf s (3 + q)).st == .on || (domOf s (3 + q)).st == .stopping)),
    (18, bit r.failed)]

end Sys2Proof.Machine
end

