-- ==== Sys2Proof/Machine/Fabric.lean ====
section
/-! DEFINITION. The fabric: cells, clusters, switch boxes, border registers, carry-over registers and vertical wires, and
what one fabric clock cycle does to them (R27 to R75, R119 to R122). -/

namespace Sys2Proof.Machine

/-! ## Places -/

/-- The place of a cluster: layer (true for L2), global cluster row and column (R28). -/
structure Place where
  layer : Bool
  gy : Nat
  gx : Nat
  deriving DecidableEq, Repr

/-- The number of a cluster in the tables of `Fab`. -/
def Place.key (p : Place) : Nat := 147456 * bit p.layer + 384 * p.gy + p.gx

/-- The place of cluster k. -/
def placeOf (k : Nat) : Place :=
  { layer := decide (147456 ≤ k), gy := k % 147456 / 384, gx := k % 147456 % 384 }

/-- The region of a cluster (R29). -/
def Place.region (p : Place) : Nat := regionAt p.layer (p.gx / 16) (p.gy / 16)

/-- The tile of a cluster within its region, in row order then column order (R202). -/
def Place.tile (p : Place) : Nat := 6 * (p.gy / 16 % 6) + p.gx / 16 % 6

/-- The number of a cluster within its tile, 16 × y + x (R203). -/
def Place.num (p : Place) : Nat := 16 * (p.gy % 16) + p.gx % 16

/-- The tile of a cluster on the device, 576 × layer + 24 × row + column. -/
def Place.devTile (p : Place) : Nat := 576 * bit p.layer + 24 * (p.gy / 16) + p.gx / 16

/-- The logical tile column of tile t of region r (R29, R202). -/
def tileColumn (r t : Nat) : Nat := 6 * (r % 4) + t % 6

/-- The tile row of tile t of region r. -/
def tileRow (r t : Nat) : Nat := 6 * (r % 16 / 4) + t / 6

/-- The place of cluster n of tile t of region r. -/
def placeIn (r t n : Nat) : Place :=
  { layer := decide (16 ≤ r), gy := 16 * tileRow r t + n / 16, gx := 16 * tileColumn r t + n % 16 }

/-- The number of a tile of region r on the device. -/
def devTileOf (r t : Nat) : Nat := 576 * (r / 16) + 24 * tileRow r t + tileColumn r t

/-! ## Configuration of a cluster -/

/-- A frame of a plane. -/
def Slot.frame (k : Slot) (tile frame : Nat) : BitVec 1024 := Tab.get 0 k.plane (1024 * tile + frame)

/-- LUT contents of a cluster (Table CFG-5). -/
def lutsAt (k : Slot) (tile n : Nat) : List (BitVec 64) :=
  match Config.decodeFrame 0 (k.frame tile (4 * n)) with
  | .luts l => l
  | _ => []

/-- Crossbar selects and cell levels of a cluster. -/
def xbarAt (k : Slot) (tile n : Nat) : XbarCfg :=
  match Config.decodeFrame 1 (k.frame tile (4 * n + 1)) with
  | .xbar c => c
  | _ => default

/-- Switch-box selects of a cluster. -/
def switchAt (k : Slot) (tile n : Nat) : SwitchCfg :=
  match Config.decodeFrame 2 (k.frame tile (4 * n + 2)) with
  | .switch c => c
  | _ => default

/-- Register settings and border value codes of a cluster. -/
def regsAt (k : Slot) (tile n : Nat) : RegsCfg :=
  match Config.decodeFrame 3 (k.frame tile (4 * n + 3)) with
  | .regs c => c
  | _ => default

/-- A routing multiplexer: a select with exactly one bit set passes that input; any other drives 0 (R66, R67). -/
def mux (f : Src → Bool) (sel : Sel) : Bool :=
  match sel with
  | [x] => f x
  | _ => false

/-- The initial value of a register plane: FFA of cell k at bit 2k, FFB at 2k + 1 (R45, Table FAB-3). -/
def initWord (c : RegsCfg) : BitVec 32 :=
  BitVec.ofNat 32 (fieldsWord ((List.range 16).flatMap (fun k =>
    [(2 * k, bit (c.ffa.getD k default).init), (2 * k + 1, bit (c.ffb.getD k default).init)])))

/-- A table of n entries from a function; entries equal to the default are left out. -/
def tabulate {α : Type} [DecidableEq α] (d : α) (n : Nat) (f : Nat → α) : Tab α :=
  (List.range n).filterMap (fun k => if f k = d then none else some (k, f k))

/-- The initial register plane of a slot (R45). -/
def initRegs (k : Slot) : Tab (BitVec 32) :=
  tabulate 0 9216 (fun i => initWord (regsAt k (i / 256) (i % 256)))

/-! ## Segments -/

/-- The position of a segment among the 320 that a switch box drives: direction, then kind, then index (Table FAB-6). -/
def segIndex (d : Dir) (k : SegKind) (i : Nat) : Nat :=
  80 * (match d with | .east => 0 | .west => 1 | .north => 2 | .south => 3) +
    (match k with | .s1 => 0 | .s2 => 32 | .s6 => 56 | .s16 => 72) + i

/-- The direction of segment j of a switch box. -/
def segDir (j : Nat) : Dir := if j < 80 then .east else if j < 160 then .west else if j < 240 then .north else .south

/-- The kind of segment j of a switch box. -/
def segKind (j : Nat) : SegKind :=
  if j % 80 < 32 then .s1 else if j % 80 < 56 then .s2 else if j % 80 < 72 then .s6 else .s16

/-- The length of a segment in clusters (Table FAB-6). -/
def segLen : SegKind → Nat
  | .s1 => 1 | .s2 => 2 | .s6 => 6 | .s16 => 16

/-- The coordinate along which a direction runs. -/
def along (d : Dir) (p : Place) : Nat :=
  match d with | .east => p.gx | .west => p.gx | .north => p.gy | .south => p.gy

/-- The place n clusters from p in a direction, if it lies in the layer (R54). -/
def moveTo (d : Dir) (n : Nat) (p : Place) : Option Place :=
  match d with
  | .east => if p.gx + n < 384 then some { p with gx := p.gx + n } else none
  | .west => if n ≤ p.gx then some { p with gx := p.gx - n } else none
  | .north => if p.gy + n < 384 then some { p with gy := p.gy + n } else none
  | .south => if n ≤ p.gy then some { p with gy := p.gy - n } else none

/-- The opposite direction. -/
def opposite : Dir → Dir
  | .east => .west | .west => .east | .north => .south | .south => .north

/-- Whether a segment from p crosses a region border (R56). -/
def crosses (d : Dir) (k : SegKind) (p : Place) : Bool :=
  match moveTo d (segLen k) p with
  | none => false
  | some q => along d p / 96 != along d q / 96

/-- Clusters from p to the border that a segment in direction d crosses. -/
def borderDist (d : Dir) (p : Place) : Nat :=
  match d with
  | .east => 96 - p.gx % 96
  | .north => 96 - p.gy % 96
  | .west => p.gx % 96 + 1
  | .south => p.gy % 96 + 1

/-- On an S16 segment across a border, the border register lies before the midpoint register when the border is at most
8 clusters away (R52, R56; DEDUCED, log 23). -/
def borderFirst (d : Dir) (p : Place) : Bool := decide (borderDist d p ≤ 8)

/-- What arrives from the segment that cluster p drives. -/
def segOut (s : State) (d : Dir) (k : SegKind) (i : Nat) (p : Place) : Bool :=
  let j := segIndex d k i
  let seg := (Tab.get 0 s.fab.segs p.key).getLsbD j
  let bord := (Tab.get 0 s.fab.borders p.key).getLsbD j
  let mid := (Tab.get 0 s.fab.mids p.key).getLsbD (8 * (j / 80) + i)
  if k = .s16 then
    if crosses d k p then (if borderFirst d p then mid else bord) else mid
  else if crosses d k p then bord
  else seg

/-- The value that a segment brings to cluster p; a segment that does not exist brings 0 (R54). -/
def segIn (s : State) (d : Dir) (k : SegKind) (i : Nat) (p : Place) : Bool :=
  match moveTo (opposite d) (segLen k) p with
  | none => false
  | some q => segOut s d k i q

/-! ## Sources at a cluster -/

/-- The running slot of a region. -/
def runSlot (g : Region) : Slot := g.slot (match g.present with | some k => k.val | none => 0)

/-- The register bits of a cluster in the plane of its region's running slot. -/
def ffWord (s : State) (p : Place) : BitVec 32 := Tab.get 0 (runSlot (regionOf s p.region)).regs (256 * p.tile + p.num)

/-- Carry-over register k of the tile of a cluster (R46). -/
def coBit (s : State) (p : Place) (k : Nat) : Bool := (Tab.get 0 s.fab.co p.devTile).getLsbD k

/-- The block above a cluster of row y = 7 or 8 in L2, numbered as Table CFG-8 and R147 do: two for each tile position
(R61). -/
def vmBlock (p : Place) : Option Nat :=
  if p.layer = false then none
  else if p.gy % 16 = 7 then some (2 * (24 * (p.gy / 16) + p.gx / 16))
  else if p.gy % 16 = 8 then some (2 * (24 * (p.gy / 16) + p.gx / 16) + 1)
  else none

/-- The response of a port that is presented in fc t. -/
def rspAt (l : List PortRsp) (t : Nat) : Option PortRsp := l.find? (fun r => r.from_ == t)

/-- The outputs of a port as one number: RDATA, ERR, VALID, ACCEPT, LEVEL and the status flags (Table MEM-2). -/
def rspNum (r : Option PortRsp) (f : QFlags) : Nat :=
  let flags := fieldsWord [(71, bit f.empty), (72, bit f.full), (73, f.count.toNat), (87, f.credit.toNat)]
  match r with
  | none => flags
  | some r =>
    flags +
      fieldsWord [(0, r.data.toNat), (64, r.err.toNat), (66, bit r.valid), (67, bit r.accept), (68, r.level.toNat)]

/-- The VM return wire j at a cluster: what the port presented 2 fc before (R62, R155). -/
def vmIn (s : State) (p : Place) (j : Nat) : Bool :=
  match vmBlock p with
  | none => false
  | some b =>
    let l := if p.gx % 16 < 8 then (blockOf s b).rspA else (blockOf s b).rspB
    let m := s.clk.fc - 2
    Nat.testBit (rspNum (if s.clk.fc < 2 then none else rspAt l m) (presentedFlags s b m))
      (Config.vmReturnBit (p.gx % 16) j)

/-- The latest result of a list, newest first, that is presented by fc t. -/
def latest {α : Type} (d : α) (l : List (Nat × α)) (t : Nat) : α :=
  match l.find? (fun r => decide (r.1 ≤ t)) with
  | some r => r.2
  | none => d

/-- The result of a list that is presented in fc t; in an fc that answers no push or pop the outputs are 0 (DEDUCED,
log 55). -/
def resultAt {α : Type} (d : α) (l : List (Nat × α)) (t : Nat) : α :=
  match l.find? (fun r => r.1 == t) with
  | some r => r.2
  | none => d

/-- The outputs of REGION_CTL in fc m, as one number in the order of Table CTX-5 (R125). -/
def regionCtlOut (s : State) (r : Nat) : Nat :=
  let g := regionOf s r
  let t := s.clk.time.toNat
  fieldsWord [
    (0, if g.swAckAt = s.clk.fc then g.swAck.toNat else 0),
    (2, bit (match g.pendSw with | some w => decide (w.at_ + 1 ≤ s.clk.fc ∧ s.clk.fc ≤ w.at_ + 3) | none => false)),
    (3, match g.present with | some k => k.val | none => 0),
    (5, g.rdyPrev.toNat),
    (9, bit (decide (t % 2 ^ s.ctx.p.toNat = 0))),
    (10, bit (armedFor s r)),
    (11, bit (g.upsetAt == some s.clk.fc))]

/-- The outputs of a NOC_PORT as one number in the order of Table NOC-5. -/
def nportOut (s : State) (n : Nat) : Nat :=
  let q := nportOf s n
  let f := Tab.get {} s.lnk.faces n
  let pop := resultAt (0, false, false) q.pops s.clk.fc
  fieldsWord [(0, bit (resultAt false q.accepts s.clk.fc)), (1, pop.1.toNat), (65, bit pop.2.1), (66, bit pop.2.2),
    (67, q.shown.1), (74, q.shown.2), (81, f.rdata.toNat), (145, bit f.rvalid), (146, bit f.poison)]

/-- The outputs of a fabric mailbox as one number in the order of Table MBX-10a. -/
def mbxOut (s : State) (c : Nat) : Nat :=
  let q := chanOf s c
  let pop := resultAt (0, false, false) q.pops s.clk.fc
  fieldsWord [(0, bit (resultAt false q.accepts s.clk.fc)), (1, pop.1.toNat), (65, bit pop.2.1), (66, bit pop.2.2),
    (67, q.reqQ.length), (74, q.rspQ.length)]

/-- EV_FLAGS of an event record (R429). -/
def pinRecFlags (r : PinRec) : Nat :=
  bit r.rise + 2 * bit r.coin + 4 * bit r.merged + 8 * bit r.ovf + 16 * bit r.unsync

/-- The outputs of a pin's face as one number in the order of Table PIN-4. -/
def pinOut (s : State) (n : Nat) : Nat :=
  let q := pinOf s n
  let ev := resultAt none q.pops s.clk.fc
  let evn := match ev with
    | none => 0
    | some r => fieldsWord [(0, 1), (1, r.time.toNat), (65, r.tick.toNat), (69, pinRecFlags r)]
  let win := match q.result with
    | some w => if w.at_ ≤ s.clk.fc then fieldsWord [(0, bit (w.at_ == s.clk.fc)), (1, w.count.toNat), (5, w.flags.toNat)] else 0
    | none => 0
  let fault := if (bankOf s (n / 48)).lost then 3 else q.safe.toNat
  fieldsWord [(0, bit (latest false q.inQ s.clk.fc)), (1, evn), (75, q.fifo.length), (80, win), (90, fault)]

/-- The outputs of the hard primitive at a cluster, 0 where there is none (R64, R124, R378, R425, R463). -/
def primOut (s : State) (p : Place) : Nat :=
  let c := p.gx / 16
  let r := p.gy / 16
  if p.gx % 16 = 8 ∧ p.gy % 16 = 8 then
    if c % 6 = 0 ∧ r % 6 = 0 then regionCtlOut s p.region
    else if p.layer then 0
    else if c % 3 = 1 ∧ r % 3 = 1 then nportOut s (8 * (r / 3) + c / 3)
    else if (c = 2 ∨ c = 20) ∧ (r = 2 ∨ r = 20) then mbxOut s (8 + bit (c == 20) + 2 * bit (r == 20))
    else 0
  else if p.layer then 0
  else if p.gx % 16 = 4 ∧ p.gy % 16 = 14 then pinOut s (48 * c + 2 * r)
  else if p.gx % 16 = 11 ∧ p.gy % 16 = 14 then pinOut s (48 * c + 2 * r + 1)
  else 0

/-- The value of a multiplexer input at a cluster, with given cascade lines (R39, R53, R66). -/
def srcVal (s : State) (p : Place) (casc : Nat → Bool) : Src → Bool
  | .const0 => false
  | .seg d k i => segIn s d k i p
  | .ffa c => (ffWord s p).getLsbD (2 * c)
  | .ffb c => (ffWord s p).getLsbD (2 * c + 1)
  | .carryOver k => coBit s p k
  | .vx i => (Tab.get 0 s.fab.vx ({ p with layer := !p.layer } : Place).key).getLsbD i
  | .vm j => vmIn s p j
  | .cascade c => casc c
  | .prim j => Nat.testBit (primOut s p) (Config.faceBit j)

/-- No cascade line: what every input but A1 to A6 of a level-2 cell sees (R36). -/
def noCascade (_ : Nat) : Bool := false

/-! ## Cells -/

/-- The address that LUT inputs spell, A1 lowest (DEDUCED, log 8). -/
def lutAddr (l : List Bool) : Nat := l.foldr (fun b a => bit b + 2 * a) 0

/-- O6 of a cell: in dual mode the upper half of the LUT, with A6 at constant 1 (R30). -/
def o6Of (lut : BitVec 64) (dual : Bool) (a : List Bool) : Bool :=
  if dual then lut.getLsbD (32 + lutAddr (a.take 5)) else lut.getLsbD (lutAddr a)

/-- O5 of a cell: 0 in single mode (R30). -/
def o5Of (lut : BitVec 64) (dual : Bool) (a : List Bool) : Bool :=
  if dual then lut.getLsbD (lutAddr (a.take 5)) else false

/-- The inputs A1 to A6 of a cell with given cascade lines. -/
def cellIn (s : State) (p : Place) (x : XbarCfg) (casc : Nat → Bool) (c : Nat) : List Bool :=
  (x.a.getD c []).map (mux (srcVal s p casc))

/-- The cascade lines: O6 of the level-1 cells (R36). -/
def cascadeOf (s : State) (p : Place) (luts : List (BitVec 64)) (x : XbarCfg) (g : RegsCfg) (c : Nat) : Bool :=
  if x.level2.getD c false then false
  else o6Of (luts.getD c 0) (g.dual.getD c false) (cellIn s p x noCascade c)

/-- The combinational outputs of a cluster's cells: O6, O5, and the carry into each cell and out of cell 15. -/
structure Comb where
  o6 : List Bool
  o5 : List Bool
  ci : List Bool
  co : Bool
  deriving DecidableEq, Repr

/-- The carry chain: CO is CI when O6 is 1 and O5 when O6 is 0 (R31, R39). Answers the carries in and the carry out. -/
def carryChain : List (Bool × Bool) → Bool → List Bool × Bool
  | [], c => ([], c)
  | (o6, o5) :: l, c => (c :: (carryChain l (if o6 then c else o5)).1, (carryChain l (if o6 then c else o5)).2)

/-- What the carry link brings to a cluster from the cluster below (R40). -/
def carryLink (s : State) (p : Place) : Bool :=
  match moveTo .south 1 p with
  | none => false
  | some q => if p.gy % 96 = 0 then Tab.get false s.fab.carryBorder q.key else Tab.get false s.fab.carry q.key

/-- The cluster carry-in select (R39). -/
def carryIn (s : State) (p : Place) (x : XbarCfg) (g : RegsCfg) : Bool :=
  match g.carryIn with
  | [.const1] => true
  | [.xbar] => mux (srcVal s p noCascade) x.cin
  | [.link] => carryLink s p
  | _ => false

/-- The combinational outputs of a cluster (R30, R31, R36, R39). -/
def combOf (s : State) (p : Place) (luts : List (BitVec 64)) (x : XbarCfg) (g : RegsCfg) : Comb :=
  let casc := cascadeOf s p luts x g
  let ins := fun c => cellIn s p x (if x.level2.getD c false then casc else noCascade) c
  let o6 := (List.range 16).map (fun c => o6Of (luts.getD c 0) (g.dual.getD c false) (ins c))
  let o5 := (List.range 16).map (fun c => o5Of (luts.getD c 0) (g.dual.getD c false) (ins c))
  let ch := carryChain (o6.zip o5) (carryIn s p x g)
  { o6 := o6, o5 := o5, ci := ch.1, co := ch.2 }

/-- The output of group k at a level of the mux tree: select 0 passes the lower half, 1 the higher (R37, R38). -/
def muxTree (o6 : List Bool) (sel : Nat → Bool) : Nat → Nat → Bool
  | 0, k => o6.getD k false
  | n + 1, k =>
    let line := (match n with | 0 => 0 | 1 => 8 | 2 => 12 | _ => 14) + k
    if sel line then muxTree o6 sel n (2 * k + 1) else muxTree o6 sel n (2 * k)

/-- MX of a cell, by the level of the group in use at it (R37). -/
def mxOf (s : State) (p : Place) (x : XbarCfg) (g : RegsCfg) (o6 : List Bool) (c : Nat) : Bool :=
  let lv := (g.mux.getD c 0).val
  if lv = 0 then false
  else muxTree o6 (fun line => mux (srcVal s p noCascade) (x.msel.getD line [])) lv (c / 2 ^ lv)

/-- The input of a register (R32): FFA takes O6 and DX, FFB takes O5 and DY. -/
def ffIn (c : Comb) (mx bypass : Bool) (fb : Bool) (k : Nat) (sel : List FfIn) : Bool :=
  match sel with
  | [.lut] => if fb then c.o5.getD k false else c.o6.getD k false
  | [.sum] => xor (c.o6.getD k false) (c.ci.getD k false)
  | [.mx] => mx
  | [.bypass] => bypass
  | _ => false

/-- The next value of a register: set-reset, then clock enable (R33). -/
def ffNext (old d ce sr : Bool) (f : FfCfg) : Bool := if sr then f.srVal else if ce then d else old

/-- The clock enable of a register (Table FAB-3). -/
def ceOf (s : State) (p : Place) (x : XbarCfg) (f : FfCfg) : Bool :=
  match f.ce with
  | .one => true
  | .ce i => mux (srcVal s p noCascade) (x.ce.getD i.val [])

/-- The set-reset line of a register (Table FAB-3). -/
def srOf (s : State) (p : Place) (x : XbarCfg) (f : FfCfg) : Bool :=
  match f.sr with
  | .none => false
  | .sr i => mux (srcVal s p noCascade) (x.sr.getD i.val [])

/-- The next register bits of a cluster (R32, R33). -/
def ffWordNext (s : State) (p : Place) (k : Slot) : BitVec 32 :=
  let luts := lutsAt k p.tile p.num
  let x := xbarAt k p.tile p.num
  let g := regsAt k p.tile p.num
  let c := combOf s p luts x g
  let old := ffWord s p
  BitVec.ofNat 32 (fieldsWord ((List.range 16).flatMap (fun n =>
    let mx := mxOf s p x g c.o6 n
    let fa := g.ffa.getD n default
    let fb := g.ffb.getD n default
    let a := ffNext (old.getLsbD (2 * n)) (ffIn c mx (mux (srcVal s p noCascade) (x.dx.getD n [])) false n fa.input)
      (ceOf s p x fa) (srOf s p x fa) fa
    let b := ffNext (old.getLsbD (2 * n + 1)) (ffIn c mx (mux (srcVal s p noCascade) (x.dy.getD n [])) true n fb.input)
      (ceOf s p x fb) (srOf s p x fb) fb
    [(2 * n, bit a), (2 * n + 1, bit b)])))

/-- CO of cell 15 of a cluster (R40). -/
def carryOut (s : State) (p : Place) (k : Slot) : Bool :=
  (combOf s p (lutsAt k p.tile p.num) (xbarAt k p.tile p.num) (regsAt k p.tile p.num)).co

/-! ## One fabric clock cycle -/

/-- A word of multiplexer outputs. -/
def muxWord (w : Nat) (s : State) (p : Place) (l : List Sel) : BitVec w :=
  BitVec.ofNat w (fieldsWord ((List.range w).map (fun j => (j, bit (mux (srcVal s p noCascade) (l.getD j []))))))

/-- Whether the region of a cluster is RUNNING. -/
def runs (s : State) (p : Place) : Bool := regionIs s p.region .running

/-- The next switch-box outputs of a cluster; they keep their values while the region's clock is stopped. -/
def segsNext (s : State) (k : Nat) : BitVec 320 :=
  let p := placeOf k
  let g := regionOf s p.region
  if runs s p then muxWord 320 s p (switchAt (runSlot g) p.tile p.num).segs else Tab.get 0 s.fab.segs k

/-- The region in which the midpoint register of a segment lies: the driving one, or the next where the border comes
first (log 23). -/
def midRegion (d : Dir) (p : Place) : Nat :=
  match moveTo d 16 p with
  | some q => if crosses d .s16 p && borderFirst d p then q.region else p.region
  | none => p.region

/-- The next midpoint registers of the S16 segments of a cluster. -/
def midsNext (s : State) (k : Nat) : BitVec 32 :=
  let p := placeOf k
  BitVec.ofNat 32 (fieldsWord ((List.range 32).map (fun m =>
    let j := 80 * (m / 8) + 72 + m % 8
    let d := segDir j
    let v :=
      if regionIs s (midRegion d p) .running then
        if crosses d .s16 p && borderFirst d p then (Tab.get 0 s.fab.borders k).getLsbD j
        else (Tab.get 0 s.fab.segs k).getLsbD j
      else (Tab.get 0 s.fab.mids k).getLsbD m
    (m, bit v))))

/-- The next border registers of the segments of a cluster: they capture while the driving region is RUNNING and
otherwise keep the border value (R57, R122). -/
def bordersNext (s : State) (k : Nat) : BitVec 320 :=
  let p := placeOf k
  if runs s p then
    BitVec.ofNat 320 (fieldsWord ((List.range 320).map (fun j =>
      let v :=
        if crosses (segDir j) (segKind j) p then
          if segKind j = .s16 ∧ borderFirst (segDir j) p = false then
            (Tab.get 0 s.fab.mids k).getLsbD (8 * (j / 80) + j % 80 - 72)
          else (Tab.get 0 s.fab.segs k).getLsbD j
        else false
      (j, bit v))))
  else Tab.get 0 s.fab.borders k

/-- The next carry link register of a cluster (R40). -/
def carryNext (s : State) (k : Nat) : Bool :=
  let p := placeOf k
  if runs s p then carryOut s p (runSlot (regionOf s p.region)) else Tab.get false s.fab.carry k

/-- The next border register of the carry link of a cluster (R40, R57). -/
def carryBorderNext (s : State) (k : Nat) : Bool :=
  let p := placeOf k
  if runs s p then decide (p.gy % 96 = 95) && Tab.get false s.fab.carry k else Tab.get false s.fab.carryBorder k

/-- The next VX registers of a cluster (R58, R59). -/
def vxNext (s : State) (k : Nat) : BitVec 16 :=
  let p := placeOf k
  if runs s p then muxWord 16 s p (switchAt (runSlot (regionOf s p.region)) p.tile p.num).vx else Tab.get 0 s.fab.vx k

/-- The next VM registers of a cluster, first stage (R62). -/
def vmNext (s : State) (k : Nat) : W64 :=
  let p := placeOf k
  if runs s p then muxWord 64 s p (switchAt (runSlot (regionOf s p.region)) p.tile p.num).vm else Tab.get 0 s.fab.vm1 k

/-- The cluster of carry-over register k of a device tile (R46). -/
def coPlace (tile k : Nat) : Place :=
  { layer := decide (576 ≤ tile), gy := 16 * (tile % 576 / 24) + 4 * (k / 16), gx := 16 * (tile % 24) + k % 16 }

/-- The next carry-over registers of a tile (R47). -/
def coNext (s : State) (tile : Nat) : W64 :=
  BitVec.ofNat 64 (fieldsWord ((List.range 64).map (fun k =>
    let p := coPlace tile k
    let c := switchAt (runSlot (regionOf s p.region)) p.tile p.num
    let v :=
      if runs s p && mux (srcVal s p noCascade) c.coCe then mux (srcVal s p noCascade) c.coIn
      else coBit s p k
    (k, bit v))))

/-- The parity of each group of 16 carry-over registers of a tile (R50). -/
def coParity (w : W64) : BitVec 4 :=
  BitVec.ofNat 4 (fieldsWord ((List.range 4).map (fun g =>
    (g, ((List.range 16).filter (fun i => w.getLsbD (16 * g + i))).length % 2))))

/-- The next parity bits of a tile: a write of the running plane refreshes the parity of the groups it changes (R50). -/
def coParNext (s : State) (tile : Nat) : BitVec 4 :=
  Tab.get 0 s.fab.coPar tile ^^^ coParity (Tab.get 0 s.fab.co tile) ^^^ coParity (coNext s tile)

/-- The next register plane of region r's running slot (R33, R43). -/
def regsNext (s : State) (r : Nat) : Tab (BitVec 32) :=
  let g := regionOf s r
  tabulate 0 9216 (fun i => ffWordNext s (placeIn r (i / 256) (i % 256)) (runSlot g))

/-- The bits of CTX_SLOT_RDY (R118). -/
def slotRdy (g : Region) : BitVec 4 :=
  BitVec.ofNat 4 (fieldsWord ((List.range 4).map (fun k => (k, bit ((g.slot k).st == .verified)))))

/-- The RUNNING regions. -/
def runningRegions (s : State) : List Nat := (List.range 32).filter (fun r => regionIs s r .running)

/-- The fabric registers after one fc (R33, R40, R47, R51, R57). -/
def fabNext (s : State) : Fab :=
  { segs := tabulate 0 294912 (segsNext s), mids := tabulate 0 294912 (midsNext s),
    borders := tabulate 0 294912 (bordersNext s), carry := tabulate false 294912 (carryNext s),
    carryBorder := tabulate false 294912 (carryBorderNext s), vx := tabulate 0 294912 (vxNext s),
    vm1 := tabulate 0 294912 (vmNext s), vm2 := s.fab.vm1,
    co := tabulate 0 1152 (coNext s), coPar := tabulate 0 1152 (coParNext s) }

/-- Stores the register plane of a region's running slot. -/
def setRunRegs (t : Tab (BitVec 32)) (g : Region) : Region :=
  g.updSlot (match g.present with | some k => k.val | none => 0) (fun k => { k with regs := t })

/-- The fabric and the register planes after one fc; nothing changes while no region is RUNNING but the second VM stage. -/
def clockFabric (s : State) : State :=
  match runningRegions s with
  | [] => { s with fab := { s.fab with vm2 := s.fab.vm1 } }
  | l => forEach l (fun r => updRegion r (setRunRegs (regsNext s r))) { s with fab := fabNext s }

/-! ## Border values and routing registers -/

/-- The value that a border register presents by its code: 0, 1 or the last value (R119). -/
def borderVal (code : BitVec 2) (old : Bool) : Bool := if code = 0 then false else if code = 1 then true else old

/-- A word of border values by their codes. -/
def borderWord (w : Nat) (codes : List (BitVec 2)) (old : BitVec w) : BitVec w :=
  BitVec.ofNat w (fieldsWord ((List.range w).map (fun j => (j, bit (borderVal (codes.getD j 2) (old.getLsbD j))))))

/-- The border registers of one cluster present the codes of a slot (R119, R120). -/
def presentCluster (k : Slot) (r t n : Nat) (f : Fab) : Fab :=
  let p := placeIn r t n
  let g := regsAt k t n
  let q := p.key
  { f with
    borders := Tab.upd 0 f.borders q (borderWord 320 g.borderSegs)
    carryBorder := Tab.upd false f.carryBorder q (borderVal g.borderCarry)
    vx := Tab.upd 0 f.vx q (borderWord 16 g.borderVx)
    vm1 := Tab.upd 0 f.vm1 q (borderWord 64 g.borderVm) }

/-- Every border register of a region presents the codes of a slot (R120, R122). -/
def presentFab (k : Slot) (r : Nat) (f : Fab) : Fab :=
  (List.range 9216).foldl (fun f i => presentCluster k r (i / 256) (i % 256) f) f

/-- A pin's face registers take new values in the fc with chain time t: where OUT_D or OUT_OE differs from what the pin presents, the pin
changes at tick 16 × (t + 3) + k (R426). -/
def launchPin (t : Nat) (d oe : Bool) (ofs : BitVec 4) (p : Pin) : Pin :=
  let p' := { p with outD := d, outOe := oe, outOfs := ofs }
  if p.drvD = d ∧ p.drvOe = oe then p'
  else { p' with drvD := d, drvOe := oe, edgeAt := 16 * (t + 3) + ofs.toNat }

/-- The pins of a region of L1 (R415). -/
def pinsOf (r : Nat) : List Nat :=
  if r < 16 then
    (List.range 6).flatMap (fun i => (List.range 12).map (fun m => 48 * (6 * (r % 4) + i) + 12 * (r / 4) + m))
  else []

/-- A pin's face registers present the border values of a slot: OUT_D, OUT_OE and OUT_OFS at face bits 0, 1 and 2 to 5
(R65, R122, R426). -/
def presentPin (k : Slot) (t : Nat) (n : Nat) (q : Pin) : Pin :=
  let col := n / 48
  let row := n % 48 / 2
  let cl := 16 * 14 + (if n % 2 = 0 then 4 else 11)
  let g := regsAt k (6 * (row % 6) + col % 6) cl
  let ofs := borderWord 4 (g.borderFace.drop 2) q.outOfs
  launchPin t (borderVal (g.borderFace.getD 0 2) q.outD) (borderVal (g.borderFace.getD 1 2) q.outOe) ofs q

/-- A region presents the border values of its presenting slot; with none, it keeps what it presented last (R120,
R121). -/
def presentBorders (r : Nat) (s : State) : State :=
  let g := regionOf s r
  match g.present with
  | none => s
  | some k =>
    forEach (pinsOf r) (fun n => updPin n (presentPin (g.slot k) s.clk.time.toNat n))
      { s with fab := presentFab (g.slot k.val) r s.fab }

/-- The clusters of a region. -/
def clustersOf (r : Nat) : List Nat := (List.range 9216).map (fun i => (placeIn r (i / 256) (i % 256)).key)

/-- The routing registers inside a region take 0: switch-box outputs, the midpoint registers that lie in it and the carry
links that cross no border (Table SCH-8, R91). -/
def zeroRouting (r : Nat) (s : State) : State :=
  let midZero := fun (k : Nat) (w : BitVec 32) =>
    BitVec.ofNat 32 (fieldsWord ((List.range 32).map (fun m =>
      (m, bit (w.getLsbD m && !(midRegion (segDir (80 * (m / 8))) (placeOf k) == r))))))
  { s with fab := { s.fab with
      segs := s.fab.segs.filter (fun e => !((placeOf e.1).region == r))
      mids := tabulate 0 294912 (fun k => midZero k (Tab.get 0 s.fab.mids k))
      carry := s.fab.carry.filter (fun e => !((placeOf e.1).region == r) || decide ((placeOf e.1).gy % 96 = 95)) } }

/-- Sets the carry-over registers of a region's tiles to 0 with their parity (R49, R50). -/
def zeroCarryOver (r : Nat) (s : State) : State :=
  let mine := fun (k : Nat) => (List.range 36).any (fun t => devTileOf r t == k)
  { s with fab := { s.fab with co := s.fab.co.filter (fun e => !mine e.1),
                               coPar := s.fab.coPar.filter (fun e => !mine e.1) } }

end Sys2Proof.Machine
end

