-- ==== Sys2Proof/Machine/Mesh.lean ====
section
/-! DEFINITION. The mesh: where masters and targets stand, address decoding, tamp fences and the two ways in which a
request ends (R363, R367 to R372, R381, R385 to R387). -/

namespace Sys2Proof.Machine

/-- Where a request goes (Table NOC-3). -/
inductive Dest where
  | dram
  | sector (block : Nat)
  | vault
  | dispatcher
  | control
  | pcie
  | chain (window : Nat)
  | nowhere
  deriving DecidableEq, Repr

/-- Bytes of the DRAM window: C × K (R7, R309). -/
def dramBytes (s : State) : Nat := s.dram.list.length * s.dram.k * 2 ^ 30

/-- The destination of an address (Table NOC-3, R310). -/
def destOf (s : State) (a : Nat) : Dest :=
  if a < 0x040000000000 then (if a < dramBytes s then .dram else .nowhere)
  else if 0x080000000000 ≤ a ∧ a < 0x080004800000 then .sector ((a - 0x080000000000) / 65536)
  else if 0x081000000000 ≤ a ∧ a < 0x081000400000 then .vault
  else if 0x082007000000 ≤ a ∧ a < 0x082008000000 then .dispatcher
  else if 0x082000000000 ≤ a ∧ a < 0x082100000000 then .control
  else if 0x0C0000000000 ≤ a ∧ a < 0x0D0000000000 then .pcie
  else if 0x100000000000 ≤ a ∧ a < 0x200000000000 then .chain ((a - 0x100000000000) / 2 ^ 36)
  else .nowhere

/-- The sector of block g (R148). -/
def sectorOf (g : Nat) : Nat := 4 * (g / 2 / 24 / 12) + g / 2 % 24 / 6

/-- The router of a master (Table NOC-2). -/
def srcRouter (src : Nat) : Nat × Nat :=
  if src < 64 then (src % 8, src / 8)
  else if src < 70 then (src - 63, 7)
  else if src = 70 then (3, 0)
  else if src = 73 then (4, 4)
  else (5, 0)

/-- The channel of a DRAM-window address (R311). -/
def dramChanOf (s : State) (a : Nat) : Nat := s.dram.list.getD (a / 256 % s.dram.list.length) 0

/-- The router of a DRAM channel (Table NOC-1). -/
def dramRouter (c : Nat) : Nat × Nat := if c < 4 then (0, 2 * c + 1) else (7, 2 * (c - 4))

/-- The port that an access to a chain window goes to: selector 0 of its handle's route, P0 where the window is disabled
(Table NOC-3). -/
def cwinPort (s : State) (j : Nat) : Nat :=
  let w := Tab.get {} s.lnk.cwins j
  if w.handle = 0 then 0
  else
    match routeOf s w.handle.toNat with
    | some (r, _) => if routeSel r 0 < 6 then routeSel r 0 else 0
    | none => 0

/-- The router of the target of a request (Table NOC-1, R150). -/
def targetRouter (s : State) (a : Nat) : Nat × Nat :=
  match destOf s a with
  | .dram => dramRouter (dramChanOf s a)
  | .sector g => (2 * (sectorOf g % 4) + 1, 4 * (sectorOf g / 4) + 1)
  | .vault => (4, 0)
  | .dispatcher => (4, 4)
  | .control => (2, 0)
  | .pcie => (3, 0)
  | .chain j => (cwinPort s j + 1, 7)
  | .nowhere => (2, 0)

/-- The NoC quadrant of a router (R367). -/
def quadOf (p : Nat × Nat) : Nat := 2 * (p.2 / 4) + p.1 / 4

/-- The quadrants that the path between two routers enters: x first, then y (R373). -/
def pathQuads (a b : Nat × Nat) : List Nat := [quadOf a, quadOf (b.1, a.2), quadOf b]

/-- The region of the site of NOC_PORT n (Table FAB-7). -/
def portRegion (n : Nat) : Nat := regionAt false (3 * (n % 8) + 1) (3 * (n / 8) + 1)

/-- The power domain in which a master's endpoint lies, if it has one of its own (Table PWR-1). -/
def srcDom (src : Nat) : Option Nat :=
  if src < 64 then some (58 + portRegion src)
  else if src < 70 then some (15 + (src - 64))
  else if src = 70 then some 22
  else if src = 73 then some 23
  else none

/-- The power domain in which a target lies, if it has one of its own (Table PWR-1). -/
def targetDom (s : State) (a : Nat) : Option Nat :=
  match destOf s a with
  | .dram => some (7 + dramChanOf s a)
  | .sector g => some (50 + sectorOf g)
  | .vault => some 2
  | .dispatcher => some 23
  | .pcie => some 22
  | .chain j => some (15 + cwinPort s j)
  | _ => none

/-- Whether a domain takes no request: off, on its way up or down, or behind a closed fence (R385). -/
def domShut (s : State) (d : Nat) : Bool :=
  let x := domOf s d
  x.fenced || !(x.st == .on)

/-- Whether a domain takes no response: its outputs are isolated or it is off (Table NOC-7). -/
def domCut (s : State) (d : Nat) : Bool :=
  let x := domOf s d
  !(x.st == .on || x.st == .stopping)

/-- Whether an optional domain is shut. -/
def optShut (s : State) : Option Nat → Bool
  | some d => domShut s d
  | none => false

/-- Whether the target of a request is shut when the request reaches it. -/
def targetShut (s : State) (a : Nat) : Bool := optShut s (targetDom s a)

/-- Whether a request meets a closed fence at its initiator or on its path, or an off quadrant (R385, R387). -/
def pathShut (s : State) (src a : Nat) : Bool :=
  optShut s (srcDom src) || (pathQuads (srcRouter src) (targetRouter s a)).any (fun q => domShut s (3 + q))

/-- Whether a response is discarded at an off quadrant or an isolated initiator (R387, Table NOC-7). -/
def rspLost (s : State) (src a : Nat) : Bool :=
  (match srcDom src with | some d => domCut s d | none => false) ||
    (pathQuads (targetRouter s a) (srcRouter src)).any (fun q => domCut s (3 + q))

/-- Whether a protected range denies a request: only PCIe PF1 and the JTAG debug master are checked (R363). -/
def protDenied (s : State) (src a : Nat) : Bool :=
  (src == 70 || src == 71) &&
    (List.range 16).any (fun i =>
      let r := Tab.get {} s.prt.ranges i
      r.en && decide (r.base.toNat ≤ a / 4096 ∧ a / 4096 ≤ r.limit.toNat))

/-- The request in the mesh of a source and tag. -/
def meshReq (s : State) (src : BitVec 8) (tag : BitVec 12) : Option NocReq :=
  s.noc.mesh.find? (fun q => q.src == src && q.tag == tag)

/-- Takes a request out of the mesh. -/
def dropMesh (q : NocReq) (s : State) : State :=
  { s with noc := { s.noc with mesh := s.noc.mesh.erase q } }

/-- Sends a target's response to a request on its way. -/
def respond (q : NocReq) (st : Status) (data : List W64) (s : State) : State :=
  if rspLost s q.src.toNat q.addr.toNat then s
  else { s with noc := { s.noc with rsps := s.noc.rsps ++ [{ src := q.src, tag := q.tag, status := st, data := data }] } }

/-- A target answers a request that has just reached it. -/
def answerMesh (q : NocReq) (st : Status) (data : List W64) (s : State) : State := respond q st data (dropMesh q s)

/-- The byte enables of word i of a request (R371). -/
def byteEnables (q : NocReq) (i : Nat) : BitVec 8 :=
  if i = 0 then q.beFirst else if i = q.len.val then q.beLast else 0xFF

/-- Whether a write carries every byte enable (R371). -/
def allEnabled (q : NocReq) : Bool := q.beFirst == 0xFF && (q.len.val == 0 || q.beLast == 0xFF)

/-- A word merged with another under byte enables. -/
def mergeWord (be : BitVec 8) (old new : W64) : W64 :=
  BitVec.ofNat 64 (natLE (((List.range 8).map (fun i =>
    BitVec.ofNat 8 (field (if be.getLsbD i then new.toNat else old.toNat) (8 * i) 8)))))

/-- Whether an operation is an atomic. -/
def isAtomic : NocOp → Bool
  | .read => false
  | .write => false
  | _ => true

/-- What an atomic leaves in its word: fetch-add, swap, or compare-swap with the compare value first (R288). -/
def atomicNew (q : NocReq) (old : W64) : W64 :=
  match q.op with
  | .fetchAdd => old + q.data.getD 0 0
  | .swap => q.data.getD 0 0
  | .compareSwap => if old = q.data.getD 0 0 then q.data.getD 1 0 else old
  | _ => old

/-- Whether the fabric clock runs: the fabric PLL is locked at a frequency the grade allows (R4, R499). -/
def fabricClock (s : State) : Bool := (pllOf s 0).locked && !s.clk.gradeStop

end Sys2Proof.Machine
end

