-- ==== Sys2Proof/Machine/Regions.lean ====
section
/-! DEFINITION. Region states and slots (R112 to R122, R141), the release of banks (R219), the retired-resource map
(R539 to R541) and the retirement of resources, as operations that several families share. -/

namespace Sys2Proof.Machine

/-! ## Slots -/

/-- Whether slot k of a region is verified. -/
def verified (s : State) (r k : Nat) : Bool := ((regionOf s r).slot k).st == .verified

/-- Whether a slot of a region is verified. -/
def anyVerified (g : Region) : Bool := (List.range 4).any (fun k => (g.slot k).st == .verified)

/-- Whether a region has a slot in staging. -/
def anyStaging (g : Region) : Bool := (List.range 4).any (fun k => (g.slot k).st == .staging)

/-- Whether slot k is the running or held slot of a region. -/
def runsOrHolds (g : Region) (k : Nat) : Bool :=
  (g.st == .running || g.st == .held) && (match g.present with | some p => p.val == k | none => false)

/-- A slot stops being the presenting slot (R120). -/
def Region.unpresent (k : Nat) (g : Region) : Region :=
  match g.present with
  | some p => if p.val = k then { g with present := none } else g
  | none => g

/-- Whether a slot of this device holds, or is being staged with, a context that uses a scheduled channel. -/
def chanHeld (s : State) (n : Nat) : Bool :=
  (List.range 32).any (fun r => (List.range 4).any (fun k =>
    ((regionOf s r).slot k).chans.any (fun d => d.number.toNat == n)))

/-- Gives back the transmit slots of a channel (R270). -/
def releaseTx (n : BitVec 16) (p : Port) : Port :=
  { p with slots := p.slots.filter (fun x => !(x.2 == some n)), floors := Tab.del p.floors n.toNat,
           stopped := if p.inSlots.any (fun x => x.2 == some n) then p.stopped else p.stopped.filter (fun x => !(x == n)) }

/-- Forgets the receive slots of a channel (R270). -/
def releaseRx (n : BitVec 16) (p : Port) : Port :=
  { p with inSlots := p.inSlots.filter (fun x => !(x.2 == some n)), floors := Tab.del p.floors (65536 + n.toNat),
           stopped := if p.slots.any (fun x => x.2 == some n) then p.stopped else p.stopped.filter (fun x => !(x == n)) }

/-- Releases the reservations of the channels that no slot uses any more, and takes them out of use; the
source sends the release along the route (R270). -/
def pruneChans (s : State) : State :=
  let gone := s.lnk.chans.filter (fun e => !chanHeld s e.1)
  gone.foldl (fun a e =>
    let a1 := { a with lnk := { a.lnk with chans := Tab.del a.lnk.chans e.1 } }
    match e.2 with
    | some { desc := d, port := p, .. } =>
      if d.dest then a1
      else
        match d.route with
        | [] => a1
        | w :: ws =>
          sendMgmt { kind := .release, route := w, routeExt := ws, ret := 6, retWords := [], hop := 0, handle := 0,
                     header := [], payload := bytesLE 2 d.number.toNat } (updPort p (releaseTx d.number) a1)
    | none => a1) s

/-- Empties slot k of a region and releases the channels that it alone used. -/
def clearSlot (r k : Nat) (s : State) : State := pruneChans (updRegion r (fun g => g.updSlot k (fun _ => {})) s)

/-- Empties a slot that is staged, evicted or cleared (R120). -/
def emptySlot (r k : Nat) (s : State) : State := clearSlot r k (updRegion r (fun g => g.unpresent k) s)

/-- Empties every slot of a region. -/
def emptyAll (r : Nat) (s : State) : State :=
  pruneChans (updRegion r (fun g => { g with slots := [], present := none, ran := false }) s)

/-! ## Leaving and entering RUNNING -/

/-- The fabric mailboxes of a region (Table FAB-7). -/
def mbxIn (r : Nat) : List Nat := if r = 0 then [8] else if r = 3 then [9] else if r = 12 then [10] else if r = 15 then [11] else []

/-- The NOC_PORTs of a region (Table FAB-7). -/
def nocPortsIn (r : Nat) : List Nat :=
  (List.range 64).filter (fun n => regionAt false (3 * (n % 8) + 1) (3 * (n / 8) + 1) == r)

/-- A request queue without the words of an incomplete request. -/
def wholeRequests (q : List (W64 × Bool)) : List (W64 × Bool) :=
  (q.reverse.dropWhile (fun w => !w.2)).reverse

/-- When a site region leaves RUNNING, its mailbox discards any incomplete request (R465). -/
def dropPartial (r : Nat) (s : State) : State :=
  forEach (mbxIn r) (fun c => updChan c (fun ch => { ch with reqQ := wholeRequests ch.reqQ })) s

/-- A pending switch is discarded; the CTX.SWITCH that injected it completes with ST_STATE (R129, R132; the status is
DEDUCED, log 24). -/
def dropSwitch (r : Nat) (s : State) : State :=
  match (regionOf s r).pendSw with
  | none => s
  | some w => finishOpt w.org .ctxDone r .state (updRegion r (fun g => { g with pendSw := none }) s)

/-- A RUNNING region leaves RUNNING at the present boundary: it presents border values, discards a pending switch and an
incomplete mailbox request, and takes its new state and cause (R116, R118, R122, R129, R465). -/
def leaveRunning (r : Nat) (st : RegSt) (cause : BitVec 4) (s : State) : State :=
  let s1 := dropPartial r (dropSwitch r (presentBorders r s))
  updRegion r (fun g => { g with st := st, cause := cause, swAck := 0, resetEnd := none, swapHeld := false }) s1

/-- Whether the footprint of a slot lists a pin of a bank. -/
def listsBank (k : Slot) (nn : Nat) : Bool :=
  match k.desc with
  | some d => d.footprint.any (fun f => f.kind.toNat == 3 && f.column.toNat == nn)
  | none => false

/-- The regions that drive a bank (R219, R415). -/
def bankRegions (nn : Nat) : List Nat := (List.range 4).map (fun j => 4 * j + nn / 6)

/-- The regions with a running or held slot that lists a pin of a bank. -/
def bankUsers (s : State) (nn : Nat) : List Nat :=
  (bankRegions nn).filter (fun r =>
    let g := regionOf s r
    (g.st == .running || g.st == .held) && listsBank (runSlot g) nn)

/-- The pairs of a bank whose polarity is checked at its release: even pins in differential mode with PIN_POL_AUTO
(R435). -/
def polarityPins (s : State) (nn : Nat) : List Nat :=
  ((List.range 24).map (fun j => 48 * nn + 2 * j)).filter (fun p => (pinOf s p).mode == 2 && (pinOf s p).polAuto)

/-- Evaluates the release of a bank: every region whose running slot lists a pin of it is RUNNING, one such region
exists, and VCCIO_Bnn is present; it drives from fc r + 4 (R219). -/
def releaseBank (nn : Nat) (s : State) : State :=
  let u := bankUsers s nn
  if Tab.get none s.load.released nn = none ∧ u ≠ [] ∧ u.all (fun r => regionIs s r .running) ∧
      (bankOf s nn).level ≠ 0 then
    let first := u.foldl (fun a r => max a (regionOf s r).runFrom) 0
    { s with load := { s.load with released := Tab.set none s.load.released nn (some (first + 4)) }
             pins := { s.pins with
               banks := Tab.upd {} s.pins.banks nn (fun b => { b with original := some b.level })
               polarity := s.pins.polarity ++ (polarityPins s nn).map (fun p => (p, none, false)) } }
  else s

/-- Evaluates the release of the banks that a region drives. -/
def releaseBanks (r : Nat) (s : State) : State :=
  if r < 16 then forEach ((List.range 6).map (fun i => 6 * (r % 4) + i)) releaseBank s else s

/-- A region enters RUNNING with slot k at the present fc; the registers take their initial values with `init`
(R116, R122, R219). -/
def enterRunning (r : Nat) (k : Fin 4) (init : Bool) (s : State) : State :=
  let s1 := updRegion r (fun g =>
    { (if init then g.updSlot k (fun q => { q with regs := initRegs q }) else g) with
      st := .running, present := some k, ran := true, runFrom := s.clk.fc, resetEnd := none, swapHeld := false }) s
  releaseBanks r s1

/-- The slot that a region runs or holds becomes empty and the region FAULTED, with EV_REGION_RETIRED (R116, Table
CTX-8). It keeps presenting the border values it presents. -/
def faultRegion (r : Nat) (cause : BitVec 4) (s : State) : State :=
  let k := match (regionOf s r).present with | some p => p.val | none => 0
  let s1 := if regionIs s r .running then leaveRunning r .faulted cause s
            else updRegion r (fun g => { g with st := .faulted, cause := cause, resetEnd := none, swapHeld := false }) s
  raise .regionRetired [(8, r), (8, k), (8, cause.toNat)] (clearSlot r k s1)

/-- A slot that does not run becomes empty, with EV_SLOT_INVALIDATED; the region keeps its state (Table CTX-8). -/
def invalidateSlot (r k : Nat) (cause : BitVec 4) (s : State) : State :=
  raise .slotInvalidated [(8, r), (8, k), (8, cause.toNat)] (clearSlot r k s)

/-- A slot loses what it runs from: the running or held slot makes the region FAULTED, any other is emptied. -/
def loseSlot (r k : Nat) (cause : BitVec 4) (s : State) : State :=
  if runsOrHolds (regionOf s r) k then faultRegion r cause s else invalidateSlot r k cause s

/-- The region reset: routing registers 0, the running register plane takes its initial values (Table CTX-8). -/
def resetPlanes (r : Nat) (s : State) : State :=
  let s1 := zeroRouting r s
  updRegion r (fun g => setRunRegs (initRegs (runSlot g)) g) s1

/-- Starts a region reset: HELD for 16 fc, then RUNNING (R116). -/
def startReset (r : Nat) (byScrub : Bool) (s : State) : State :=
  let s1 := resetPlanes r (leaveRunning r .held 3 s)
  updRegion r (fun g => { g with resetEnd := some (s.clk.fc + 16, byScrub) }) s1

/-- The command that the EV_CTX_DONE of a staging by the boot load names: CTX.STAGE with SEQ 0 and no channel (Table
CFG-15 posts the event and gives it no command: DESIGN CHOICE, log 31). -/
def bootOrigin : Origin := { cmd := 0x0301, seq := 0, channel := 0xFF, via := none }

/-- A staging ends: its status is reported, and a failure of one by the boot load is the boot load's (R140, R218). -/
def endStage (j : StageJob) (st : Status) (check : Byte) (tile : BitVec 16) (s : State) : State :=
  let s1 := finish (j.org.getD bootOrigin) .ctxDone j.region st s
  if j.org.isNone && st != .ok then
    let f : LoadFail := { status := st, check := check, region := BitVec.ofNat 8 j.region, tile := tile, frame := 0xFFFF }
    { s1 with load := { s1.load with bootFault := some f } }
  else s1

/-- Every staging of a region, queued or in progress, ends with a status (R140). -/
def endStagings (r : Nat) (st : Status) (s : State) : State :=
  let mine := s.ctx.queue.filter (fun j => j.region == r)
  let s1 := { s with ctx := { s.ctx with queue := s.ctx.queue.filter (fun j => !(j.region == r)) } }
  let s2 := mine.foldl (fun a j => if j.granted then emptySlot r j.slot.val a else a) s1
  mine.foldl (fun a j => endStage j st 0 0xFFFF a) s2

/-- A region whose domain goes off: OFF, all planes lost, borders kept (R116, R121, Table CTX-8). -/
def regionOff (r : Nat) (cause : BitVec 4) (s : State) : State :=
  let s1 := if regionIs s r .running then leaveRunning r .off cause s else s
  updRegion r (fun g => { g with st := .off, cause := cause, retention := false, resetEnd := none, swapHeld := false,
                                 swAck := 0, bistBusy := false }) (emptyAll r s1)

/-- The power domain of a region (Table PWR-1). -/
def regionDom (r : Nat) : Nat := 58 + r

/-- What a region's domain loses when it goes dark beside its planes: the queues of its NOC_PORTs and of its MBX, whose
requests are not performed (R465). -/
def darkSites (r : Nat) (s : State) : State :=
  let s1 := forEach (nocPortsIn r) (fun n => updNport n (fun _ => {})) s
  let s2 := forEach (mbxIn r) (fun c => updChan c (fun ch =>
    { ch with reqQ := [], rspQ := [], rspWait := none, accepts := [], pops := [], closed := true, parts := none, rest := none })) s1
  { s2 with mbx := { s2.mbx with order := s2.mbx.order.filter (fun c => !(mbxIn r).contains c) } }

/-- The domain of a retired region is off (Table CTX-1): a shut-down in progress has reached its end, and the other PWR
commands that wait on it end with ST_STATE (DEDUCED, log 68). A TRIPPED domain stays TRIPPED. -/
def retireDom (r : Nat) (s : State) : State :=
  let d := regionDom r
  let x := domOf s d
  if x.st = .off ∨ x.st = .tripped then s
  else
    let s1 := updDom d (fun x => { x with
      st := .off, fenced := true, isolated := true, tamped := false, waitOn := [], waitOff := none, waitTamp := [],
      waitRetain := [] }) (darkSites r s)
    let s2 := (x.waitOn ++ x.waitTamp ++ x.waitRetain).foldl (fun a o => finish o .pwrDone d .state a) s1
    finishOpt x.waitOff .pwrDone d .ok s2

/-- Makes a region RETIRED, all slots empty, its domain off (R116, Table CTX-1). -/
def regionRetire (r : Nat) (cause : BitVec 4) (s : State) : State :=
  retireDom r (updRegion r (fun g => { g with
    st := .retired, cause := cause, retention := false, resetEnd := none, swapHeld := false, bistBusy := false })
    (emptyAll r (endStagings r .retired s)))

/-! ## Domains and sectors -/

/-- The power domain of a sector. -/
def sectorDom (k : Nat) : Nat := 50 + k

/-- Whether a domain is ON. -/
def domOn (s : State) (d : Nat) : Bool := (domOf s d).st == .on

/-- The block of a footprint entry of kind 1 (R148, Table CFG-8). -/
def fpBlock (f : FpEntry) : Nat := 2 * (24 * f.row.toNat + f.column.toNat) + f.index.toNat % 2

/-- The blocks that a slot's footprint lists. -/
def slotBlocks (k : Slot) : List Nat :=
  match k.desc with
  | some d => (d.footprint.filter (fun f => f.kind.toNat == 1)).map fpBlock
  | none => []

/-- A slot can run only while every sector that holds a block of its footprint is ON (R144). -/
def slotRunnable (s : State) (k : Slot) : Bool := (slotBlocks k).all (fun b => domOn s (sectorDom (sectorOf b)))

/-- Whether a block is listed by the running or held slot of a RUNNING or HELD region. -/
def blockInUse (s : State) (b : Nat) : Bool :=
  (List.range 32).any (fun r =>
    let g := regionOf s r
    (g.st == .running || g.st == .held) && (slotBlocks (runSlot g)).contains b)

/-! ## The retired-resource map -/

/-- The skip position in force on a layer, true for L2 (R71, R533). -/
def skipOf (s : State) (layer : Bool) : Nat := if layer then s.start.skip2.toNat else s.start.skip1.toNat

/-- The physical column of a logical column (R71). -/
def physOf (skip c : Nat) : Nat := if c < skip then c else c + 1

/-- The logical column of a physical column; none for the skipped one (R71). -/
def logicalOf (skip p : Nat) : Option Nat := if p = skip then none else if p < skip then some p else some (p - 1)

/-- RM_KIND of a map entry (Table BRG-7). -/
def rmKind (e : W64) : Nat := field e.toNat 0 4
/-- RM_COLUMN. -/
def rmColumn (e : W64) : Nat := field e.toNat 4 5
/-- RM_ROW. -/
def rmRow (e : W64) : Nat := field e.toNat 9 5
/-- RM_LAYER. -/
def rmLayer (e : W64) : Bool := Nat.testBit e.toNat 14
/-- RM_INDEX. -/
def rmIndex (e : W64) : Nat := field e.toNat 16 12
/-- RM_PHYS. -/
def rmPhys (e : W64) : Nat := field e.toNat 28 5
/-- RM_CAUSE. -/
def rmCause (e : W64) : Nat := field e.toNat 33 4
/-- RM_PERSISTENT. -/
def rmPersistent (e : W64) : Bool := Nat.testBit e.toNat 37

/-- A map entry as the model holds it: RM_COLUMN 0 for a tile or block, whose column is its physical one (R533, Table
BRG-7). -/
def mapEntry (kind column row : Nat) (layer : Bool) (index phys cause : Nat) (persistent : Bool) : W64 :=
  BitVec.ofNat 64 (fieldsWord [(0, kind % 16), (4, column % 32), (9, row % 32), (14, bit layer), (16, index % 4096),
    (28, phys % 32), (33, cause % 16), (37, bit persistent)])

/-- A map entry as it is reported, with the logical column in force; none in the skipped column (R533). -/
def reported (s : State) (e : W64) : Option W64 :=
  if rmKind e = 0 ∨ rmKind e = 1 then
    match logicalOf (skipOf s (rmLayer e)) (rmPhys e) with
    | none => none
    | some c => some (BitVec.ofNat 64 (e.toNat + 16 * c))
  else some e

/-- Whether two entries name one resource. -/
def sameResource (a b : W64) : Bool :=
  rmKind a == rmKind b && rmColumn a == rmColumn b && rmRow a == rmRow b && rmLayer a == rmLayer b &&
    rmIndex a == rmIndex b && rmPhys a == rmPhys b

/-- Whether the map retires a tile by its logical position. -/
def tileRetired (s : State) (layer : Bool) (column row : Nat) : Bool :=
  s.start.map.any (fun e => rmKind e == 0 && rmLayer e == layer && rmRow e == row &&
    rmPhys e == physOf (skipOf s layer) column)

/-- Whether the map retires block g. -/
def blockRetired (s : State) (g : Nat) : Bool :=
  s.start.map.any (fun e => rmKind e == 1 && rmRow e == g / 2 / 24 && rmIndex e == g % 2 &&
    rmPhys e == physOf (skipOf s true) (g / 2 % 24))

/-- Whether a pin is retired, by itself or with the L1 tile of its site (R528, R541). -/
def pinRetired (s : State) (p : Nat) : Bool :=
  s.start.map.any (fun e => rmKind e == 3 && rmColumn e == p / 48 && rmIndex e == p % 48) ||
    tileRetired s false (p / 48) (p % 48 / 2)

/-- LR_TILE coding of a tile (Table CFG-16). -/
def tileCode (layer : Bool) (column row : Nat) : Nat := column + 32 * row + 1024 * bit layer

/-- Whether a vertical bundle, by its index in a footprint entry, joins a tile of a layer: L0–L1 the L1 tile, L2–L3 the
L2 tile, L3–L4 both, since its loss retires both (Table CFG-8, R541). -/
def bundleJoins (index : Nat) (layer : Bool) : Bool :=
  match index with
  | 0 => !layer
  | 1 => layer
  | 2 => true
  | _ => false

/-- Whether a footprint entry fails against a map entry (R111, Table SCH-14). -/
def fpUses (s : State) (e : W64) (f : FpEntry) : Bool :=
  let k := f.kind.toNat
  let col := f.column.toNat
  let row := f.row.toNat
  let idx := f.index.toNat
  match rmKind e with
  | 0 =>
    match logicalOf (skipOf s (rmLayer e)) (rmPhys e) with
    | none => false
    | some c =>
      ((k == 0 || k == 2) && f.layer == rmLayer e && col == c && row == rmRow e) ||
        (k == 3 && !rmLayer e && col == c && idx / 2 == rmRow e) ||
        (k == 4 && bundleJoins idx (rmLayer e) && col == c && row == rmRow e)
  | 1 =>
    match logicalOf (skipOf s true) (rmPhys e) with
    | none => false
    | some c =>
      (k == 1 && col == c && row == rmRow e && idx == rmIndex e) || (k == 4 && idx == 1 && col == c && row == rmRow e)
  | 3 => k == 3 && col == rmColumn e && idx == rmIndex e
  | 8 => (k == 0 || k == 2) && regionAt f.layer col row == rmIndex e
  | _ => false

/-- The first map entry that a footprint meets, with the footprint entry (check 7 of Table SCH-13, R110). -/
def fpRetired (s : State) (fp : List FpEntry) : Option FpEntry :=
  fp.find? (fun f => s.start.map.any (fun e => fpUses s e f))

/-- Writes the repair record, or defers the write above 95 °C (R544, KL-07). -/
def writeRecord (f : RepairRec → RepairRec) (s : State) : State :=
  let x := f (s.start.deferred.getD s.start.rr)
  if tooHot s then { s with start := { s.start with deferred := some x } }
  else { s with start := { s.start with rr := { x with gen := s.start.rr.gen + 1 }, rrPrev := some s.start.rr, deferred := none } }

/-- The repair record as writes made so far will leave it. -/
def recordNow (s : State) : RepairRec := s.start.deferred.getD s.start.rr

/-- An entry as the repair record holds it, with RM_PERSISTENT set. -/
def persistentEntry (e : W64) : W64 := if rmPersistent e then e else BitVec.ofNat 64 (e.toNat + 2 ^ 37)

/-- Whether a cause makes an entry persistent (R540). -/
def persistentCause (c : Nat) : Bool := c == 2 || c == 3 || c == 4

/-- Adds an entry to the map; a persistent one goes into the repair record, and where that is full EV_BIST_FAIL reports
cause 0x10 (R539, R540). The row of Table BRG-3 and the UNIT are those of the failure. -/
def addMap (e : W64) (row unit : Nat) (s : State) : State :=
  if s.start.map.any (fun x => sameResource x e) then s
  else
    let pers := persistentCause (rmCause e)
    let room := decide ((recordNow s).map.length < 256)
    let e' := if pers && room then persistentEntry e else e
    let s1 := if s.start.map.length < 4096 then { s with start := { s.start with map := s.start.map ++ [e'] } } else s
    if pers then
      if room then writeRecord (fun x => { x with map := x.map ++ [persistentEntry e] }) s1
      else raise .bistFail [(8, row), (8, 0x10), (16, unit), (64, ((reported s e).getD e).toNat)] s1
    else s1

/-- The slots of every region that use a retired resource lose it (R541, Table CTX-2, Table CTX-8). -/
def applyRetire (e : W64) (s : State) : State :=
  forEach (List.range 32) (fun r s =>
    forEach (List.range 4) (fun k s =>
      let q := (regionOf s r).slot k
      match q.desc with
      | some d => if q.st = .verified ∧ d.footprint.any (fpUses s e) then loseSlot r k 7 s else s
      | none => s) s) s

/-- Retires a resource in service: map entry, then the slots that use it. -/
def retireResource (e : W64) (row unit : Nat) (s : State) : State := applyRetire e (addMap e row unit s)

/-- The map entry of a tile by its logical position. -/
def tileEntry (s : State) (layer : Bool) (column row cause : Nat) : W64 :=
  mapEntry 0 0 row layer 0 (physOf (skipOf s layer) column) cause false

/-- The map entry of block g. -/
def blockEntryOf (s : State) (g cause : Nat) : W64 :=
  mapEntry 1 0 (g / 2 / 24) true (g % 2) (physOf (skipOf s true) (g / 2 % 24)) cause false

/-- Retires what a vertical connection without a spare serves (R541). For an L2–L3 connection, `index` names the block, 0
or 1, and any other value both blocks. -/
def retireVertical (b : Bundle) (column row index : Nat) (s : State) : State :=
  let tile := fun (layer : Bool) (s : State) =>
    retireResource (tileEntry s layer column row 3) 0 (tileCode layer column row) s
  let blk := fun (i : Nat) (s : State) =>
    let g := 2 * (24 * row + column) + i
    retireResource (blockEntryOf s g 3) 0 g s
  match b with
  | .l0l1 => tile false s
  | .l1l2 => tile true (tile false s)
  | .l2l3 => if index = 0 then blk 0 s else if index = 1 then blk 1 s else blk 1 (blk 0 s)
  | .l3l4 => tile true (tile false s)

end Sys2Proof.Machine
end

