-- ==== Sys2Proof/Machine/FabricRows.lean ====
section
/-! DEFINITION. The rows of the fabric: a fabric clock cycle, the parity of carry-over registers, an upset of a
configuration bit, and the failure of a bond pad (chapters 01 and 02). -/

namespace Sys2Proof.Machine

/-- Samples CTX_SLOT_RDY of every region for SLOT_RDY (Table CTX-5). -/
def sampleRdy (t : Tab Region) : Tab Region :=
  (t.map (fun e => (e.1, { e.2 with rdyPrev := slotRdy e.2 }))).filter (fun e => e.2 != {})

/-- Compare windows take note of a chain time under UNSYNC in one of their ticks (R432). -/
def markUnsync (s : State) : State :=
  if s.clk.unsync then
    { s with pins := { s.pins with pins := s.pins.pins.map (fun e =>
        (e.1, { e.2 with win := e.2.win.map (fun w =>
          if w.s / 16 ≤ s.clk.time.toNat ∧ s.clk.time.toNat ≤ w.e / 16 then { w with unsync := true } else w) })) } }
  else s

/-- Words in the request and response queue of a NOC_PORT (R378). -/
def nportCounts (q : NPort) : Nat × Nat :=
  (q.words.length + (q.waiting.map (fun r => 1 + r.data.length)).sum, q.rspQ.length)

/-- The status flags of every NOC_PORT move on by one fc: those presented describe the queue at the start of the fc before
(Table SCH-3). -/
def samplePorts (t : Tab NPort) : Tab NPort :=
  (t.map (fun e => (e.1, { e.2 with shown := e.2.atStart, atStart := nportCounts e.2 }))).filter (fun e => e.2 != {})

/-- FABRIC_CLOCK_CYCLE (R33, R76): one fc passes. The registers of RUNNING regions take their next values, chain time and
the count since the last lock advance, and SLOT_RDY is sampled (Table CTX-5). Nothing happens while the fabric clock is
stopped. -/
def execFabricClockCycle (s : State) : Host.Outcome State Fault Refusal :=
  if fabricClock s then
    let s1 := clockFabric (markUnsync s)
    .next { s1 with
      clk := { s1.clk with fc := s1.clk.fc + 1, sinceLock := s1.clk.sinceLock + 1, time := s1.clk.time + 1 }
      ctx := { s1.ctx with regions := sampleRdy s1.ctx.regions }
      noc := { s1.noc with ports := samplePorts s1.noc.ports } }
  else .next s

/-- CARRYOVER_PARITY (R50): a group is checked after the upset of its registers (bits 0 to 15) and of its parity (bit 16)
given; on a mismatch the event is raised and the values stay as they are. -/
def execCarryoverParity (layer : Bool) (column row : Fin 24) (group : Fin 4) (upset : BitVec 17) (s : State) :
    Host.Outcome State Fault Refusal :=
  let tile := 576 * bit layer + 24 * row.val + column.val
  let co := Tab.get 0 s.fab.co tile ^^^ ((upset.extractLsb' 0 16).zeroExtend 64 <<< (16 * group.val))
  let par := Tab.get 0 s.fab.coPar tile ^^^ ((upset.extractLsb' 16 1).zeroExtend 4 <<< group.val)
  let s1 := { s with fab := { s.fab with co := Tab.set 0 s.fab.co tile co, coPar := Tab.set 0 s.fab.coPar tile par } }
  if (coParity co).getLsbD group.val = par.getLsbD group.val then .next s1
  else .next (raise .carryoverParity [(16, tileCode layer column.val row.val), (8, group.val)] s1)

/-- CONFIGURATION_UPSET (R69): a bit of a resident plane changes; a select that is no longer one-hot then drives 0
(`mux`). -/
def execConfigurationUpset (region : Fin 32) (slot : Fin 4) (tile : Fin 36) (frame bit : Fin 1024) (s : State) :
    Host.Outcome State Fault Refusal :=
  if ((regionOf s region.val).slot slot.val).st = .empty then .next s
  else
    .next (updRegion region.val (fun g => g.updSlot slot.val (fun k =>
      { k with plane := Tab.upd 0 k.plane (1024 * tile.val + frame.val) (fun f => f ^^^ (1#1024 <<< bit.val)) })) s)

/-- The number of an L1–L2 signal: its direction (true when L2 drives it), its tile, cluster and wire (Table STK-2). -/
def bondSignal (layer : Bool) (column row cluster wire : Nat) : Nat :=
  (((576 * bit layer + 24 * row + column) * 256) + cluster) * 16 + wire

/-- BOND_PAD_FAILURE (R15, R16): the first failed pad of a signal is counted and nothing else changes; with both failed
the signal is a failed vertical connection, and the tiles at both ends retire (R541). -/
def execBondPadFailure (layer : Bool) (column row : Fin 24) (cluster : Fin 256) (wire : Fin 16) (s : State) :
    Host.Outcome State Fault Refusal :=
  let k := bondSignal layer column.val row.val cluster.val wire.val
  if s.start.bondPads.contains k then .next (retireVertical .l1l2 column.val row.val 0 s)
  else
    .next { s with start := { s.start with bondPads := s.start.bondPads ++ [k] },
                   mbx := { s.mbx with bondPadFails := satAdd s.mbx.bondPadFails 1 } }

end Sys2Proof.Machine
end

