-- ==== Sys2Proof/Machine/Engine.lean ====
section
/-! DEFINITION. The inline engine: integrity regions, the carve-out, counters, poison and the keys under which lines are
stored (R341 to R362). -/

namespace Sys2Proof.Machine

/-! ## Lines as stored -/

/-- Whether a zero-fill covers a line. -/
def ZeroFill.covers (f : ZeroFill) (l : Nat) : Bool := decide (f.first ≤ l ∧ l < f.first + f.count)

/-- What a line reads as, and whether it holds an uncorrectable error: its data under the present boot key; a FREE VALUE
where it was written under an earlier key or not at all (R342). -/
def lineRead (l : Nat) (s : State) : (BitVec 512 × Bool) × State :=
  match Tab.get none s.dram.lines l with
  | some d => if d.gen = s.prt.gen then ((d.data, d.bad), s) else ((freeNow s, d.bad), useFree 1 s)
  | none =>
    match s.dram.fills.find? (fun f => f.covers l) with
    | some f => if f.gen = s.prt.gen then ((0, false), s) else ((freeNow s, false), useFree 1 s)
    | none => ((freeNow s, false), useFree 1 s)

/-- Stores a line under the present boot key. -/
def lineStore (l : Nat) (data : BitVec 512) (bad : Bool) (s : State) : State :=
  { s with dram := { s.dram with
      lines := Tab.set none s.dram.lines l (some { data := data, gen := s.prt.gen, bad := bad }) } }

/-- Writes zero to a range of lines. -/
def zeroLines (first count : Nat) (s : State) : State :=
  let f : ZeroFill := { first := first, count := count, gen := s.prt.gen }
  { s with dram := { s.dram with
      lines := s.dram.lines.filter (fun e => !f.covers e.1), fills := f :: s.dram.fills } }

/-! ## Integrity regions -/

/-- First page of a region. -/
def IntRegion.firstPage (i : IntRegion) : Nat := i.baseGib.toNat * 2 ^ 18

/-- Pages of a region: 2^k GiB of 4 KiB each (R347). -/
def IntRegion.numPages (i : IntRegion) : Nat := 2 ^ (18 + i.sizeLog2.toNat)

/-- Whether a page lies in a region. -/
def IntRegion.hasPage (i : IntRegion) (p : Nat) : Bool := decide (i.firstPage ≤ p ∧ p < i.firstPage + i.numPages)

/-- The enabled region of a page, if one is. -/
def irOfPage (s : State) (p : Nat) : Option Nat := (List.range 8).find? (fun i => (irOf s i).en && (irOf s i).hasPage p)

/-- Whether lines of a page are being zero-filled: a region under creation or deletion, or the range of a PRT.REINIT
(R348, Table PRT-4). -/
def pageBusy (s : State) (p : Nat) : Bool :=
  match irOfPage s p with
  | none => false
  | some i =>
    let x := irOf s i
    x.st == .changing || (match x.reinit with | some (_, f, n) => decide (f ≤ p ∧ p < f + n) | none => false)

/-! ## The carve-out (Table PRT-1) -/

/-- Nodes of tree level l; level 0 is the counter blocks. -/
def treeSize (s : State) (l : Nat) : Nat := (s.prt.capGib * 2 ^ 18 + 8 ^ l - 1) / 8 ^ l

/-- The top level of the tree. -/
def treeTop (s : State) : Nat := ((List.range 12).find? (fun l => treeSize s l ≤ 1 && l != 0)).getD 0

/-- MAC_BASE for a window of C × K bytes and capacity P: the carve-out ends at C × K (R351). -/
def macBase (window capGib top : Nat) : Nat :=
  let n := capGib * 2 ^ 18
  let nodes := ((List.range top).filter (fun l => l != 0)).foldl (fun a l => a + (n + 8 ^ l - 1) / 8 ^ l) 0
  window - (capGib * 2 ^ 27 + n * 64 + 64 * nodes)

/-- Address of the MAC block of a line. -/
def macAddr (s : State) (l : Nat) : Nat := s.prt.carve + l / 8 * 64

/-- Address of the counter block of a page. -/
def ctrAddr (s : State) (p : Nat) : Nat := s.prt.carve + s.prt.capGib * 2 ^ 27 + p * 64

/-- Address of node i of tree level l, for l below the top. -/
def nodeAddr (s : State) (l i : Nat) : Nat :=
  let before := ((List.range l).filter (fun k => k != 0)).foldl (fun a k => a + treeSize s k) 0
  s.prt.carve + s.prt.capGib * 2 ^ 27 + s.prt.capGib * 2 ^ 24 + 64 * (before + i)

/-- Whether a request touches the carve-out (R351). -/
def inCarve (s : State) (a bytes : Nat) : Bool := decide (s.prt.carve < a + bytes)

/-! ## The metadata cache (R353) -/

/-- Whether a metadata block is cached, with its dirty flag. -/
def cached (s : State) (l i : Nat) : Option Bool :=
  (s.prt.cache.find? (fun e => e.1 == l && e.2.1 == i)).map (fun e => e.2.2)

/-- The blocks above a page that a request brings into the cache: up to the first cached ancestor or the root. -/
def fillPath (s : State) (p : Nat) : Nat → Nat → List (Nat × Nat)
  | 0, _ => []
  | n + 1, l =>
    if treeTop s ≤ l ∨ (cached s l (p / 8 ^ l)).isSome then [] else (l, p / 8 ^ l) :: fillPath s p n (l + 1)

/-- Changes the engine. -/
def updPrt (f : Prt → Prt) (s : State) : State := { s with prt := f s.prt }

/-- Brings the counter block of a page and the nodes above it into the cache; a write leaves the counter block dirty. The
oldest of more than 32,768 entries leave. -/
def touchCache (p : Nat) (write : Bool) (s : State) : State :=
  let new := (fillPath s p 12 0).map (fun e => (e.1, e.2, false))
  let c := (new ++ s.prt.cache).map (fun e => if e.1 = 0 ∧ e.2.1 = p then (e.1, e.2.1, e.2.2 || write) else e)
  updPrt (fun x => { x with cache := c.take 32768 }) s

/-! ## Poison -/

/-- Whether a poison list entry covers a page; an entry of a region covers pages of that region only. -/
def Poison.covers (s : State) (x : Poison) (p : Nat) : Bool := p / 8 ^ x.level == x.index && (irOf s x.ir).hasPage p

/-- The poison list entry that covers a page, if one does. -/
def poisonOf (s : State) (p : Nat) : Option Poison := s.prt.poison.find? (fun x => x.covers s p)

/-- The level of the tree at which one node covers a whole region. -/
def regionTop (i : IntRegion) : Nat :=
  ((List.range 13).find? (fun l => i.firstPage / 8 ^ l == (i.firstPage + i.numPages - 1) / 8 ^ l)).getD 12

/-- Records a poisoned block in the list of 64; when it is full the whole region takes the entry of its top node (R362). -/
def addPoison (i level index : Nat) (s : State) : State :=
  let x := irOf s i
  let e : Poison :=
    if s.prt.poison.length < 64 then { ir := i, level := level, index := index }
    else { ir := i, level := regionTop x, index := x.firstPage / 8 ^ regionTop x }
  let rest := if s.prt.poison.length < 64 then s.prt.poison else s.prt.poison.filter (fun y => y.ir != i)
  updPrt (fun y => { y with poison := rest ++ [e] })
    (updIr i (fun y => { y with nodeFail := satAdd y.nodeFail 1 }) s)

/-- Raises EV_INTEGRITY (R360). -/
def raiseIntegrity (i addr base length : Nat) (s : State) : State :=
  raise .integrity [(8, i), (64, addr), (64, base), (64, length)] s

/-- Sets MB_POISON of lines. -/
def poisonLines (ls : List Nat) (s : State) : State := updPrt (fun x => { x with mbPoison := Tab.fill false x.mbPoison ls true }) s

/-- A MAC mismatch or DRAM uncorrectable error of a line in an integrity region (Table PRT-4). -/
def lineFails (i l : Nat) (s : State) : State :=
  raiseIntegrity i (64 * l) (64 * l) 64 (poisonLines [l] (updIr i (fun y => { y with macFail := satAdd y.macFail 1 }) s))

/-- What the engine's checks find for a line of region i, where it can be found: its effects, and whether the request fails
(Table PRT-4). A cached block is trusted, so a bad digest is found only while a block is filled (R353). -/
def engineFind (i l : Nat) (full : Bool) (f : EngineFind) (s : State) : Bool × State :=
  let p := l / 64
  let node := fun (level : Nat) (s : State) =>
    let x := p / 8 ^ level
    raiseIntegrity i (64 * l) (4096 * 8 ^ level * x) (4096 * 8 ^ level) (addPoison i level x s)
  match f with
  | .ok => (false, s)
  | .cacheClean => (false, s)
  | .macMismatch => if full then (false, s) else (true, lineFails i l s)
  | .macBlock =>
    (true, raiseIntegrity i (64 * l) (512 * (l / 8)) 512 (poisonLines ((List.range 8).map (fun k => 8 * (l / 8) + k)) s))
  | .node level =>
    if (cached s level.val (p / 8 ^ level.val)).isNone && decide (level.val < max 1 (treeTop s)) then (true, node level.val s)
    else (false, s)
  | .cacheDirty level =>
    if cached s level.val (p / 8 ^ level.val) = some true then
      (true, node level.val (updPrt (fun x =>
        { x with cache := x.cache.filter (fun e => !(e.1 == level.val && e.2.1 == p / 8 ^ level.val)) }) s))
    else (false, s)

/-! ## Counters, page re-encryption and epoch advances (R350, R354 to R359) -/

/-- The counters of a page. -/
def pageOf (s : State) (p : Nat) : Page := Tab.get {} s.prt.pages p

/-- Changes the counters of a page. -/
def updPage (p : Nat) (f : Page → Page) (s : State) : State := updPrt (fun x => { x with pages := Tab.upd {} x.pages p f }) s

/-- Whether a page is encrypted under its region's present epoch. -/
def pageCurrent (s : State) (i p : Nat) : Bool := (pageOf s p).lsb == (irOf s i).epoch.getLsbD 0

/-- A page as its conversion leaves it: all counters 0 but those of lines already written under the new epoch (R355 to
R357). -/
def convertPage (i p : Nat) (s : State) : State :=
  let e := (irOf s i).epoch.getLsbD 0
  updPage p (fun x => { major := 0, minors := x.minors.filter (fun m => x.done.contains m.1), lsb := e, done := [] }) s

/-- Begins an advance of region i to the next epoch (Table PRT-3 step 1). -/
def beginAdvance (i : Nat) (s : State) : State :=
  updIr i (fun x => { x with epoch := x.epoch + 1, st := .converting, conv := BitVec.ofNat 48 (4096 * x.firstPage),
                             advances := satAdd x.advances 1 }) s

/-- What raising a line's counter meets: it is done, it must wait for a conversion, or no epoch is left. -/
inductive CtrAns where
  | done (s : State)
  | waits
  | exhausted

/-- Raises a minor counter; at 127 the page is re-encrypted under the next major counter (R350, R354). -/
def bumpMinor (j : Nat) (x : Page) : Page :=
  let m := Tab.get 0 x.minors j
  if m = 127 then { x with major := x.major + 1, minors := [] } else { x with minors := Tab.set 0 x.minors j (m + 1) }

/-- Whether raising line j's counter would raise the major counter above its maximum. -/
def wrapsMajor (x : Page) (j : Nat) : Bool := Tab.get 0 x.minors j == 127 && x.major == BitVec.allOnes 32

/-- Raises the counter of line l of region i for a write: a wrap of the major counter advances the region, converts the
page first where a conversion has not reached it, or waits for the conversion that has passed it (R354 to R359). A line of
the page under conversion is written into the new counter block. -/
def raiseCounter (i l : Nat) (s : State) : CtrAns :=
  let p := l / 64
  let j := l % 64
  let x := irOf s i
  let pg := pageOf s p
  if x.st == .converting && !pageCurrent s i p then
    if x.conv.toNat / 4096 = p then
      if pg.done.contains j then .done (updPage p (bumpMinor j) s)
      else .done (updPage p (fun y => { y with done := y.done ++ [j], minors := Tab.set 0 y.minors j 1 }) s)
    else if wrapsMajor pg j then .done (updPage p (bumpMinor j) (convertPage i p s))
    else .done (updPage p (bumpMinor j) s)
  else if wrapsMajor pg j = false then .done (updPage p (bumpMinor j) s)
  else if x.st == .converting then .waits
  else if x.epoch = BitVec.allOnes 32 then .exhausted
  else .done (updPage p (bumpMinor j) (convertPage i p (beginAdvance i s)))

/-- Begins the queued advance of region i, if one is queued: for a PRT.REINIT its range is zero-filled first (R359, Table
PRT-3). -/
def nextAdvance (i : Nat) (s : State) : State :=
  match (irOf s i).queued with
  | [] => s
  | q :: rest =>
    let s1 := updIr i (fun x => { x with queued := rest }) s
    if (irOf s i).epoch = BitVec.allOnes 32 then
      match q with
      | some (org, _, _) => finish org .prtDone noUnit .noResource s1
      | none => s1
    else updIr i (fun x => { x with reinit := q }) (beginAdvance i s1)

/-- The conversion of region i ends (Table PRT-3 step 3). -/
def endConversion (i : Nat) (s : State) : State :=
  nextAdvance i (raise .epochAdvanced [(8, i), (32, (irOf s i).epoch.toNat)]
    (updIr i (fun x => { x with st := .inService, conv := 0 }) s))

/-! ## Keys -/

/-- Zeroises the boot key (R342). -/
def zeroiseKey (s : State) : State := updPrt (fun x => { x with key := false }) s

/-- Draws a boot key: every integrity region is off, no line is poisoned, and what was written under an earlier key reads
as unpredictable data (R341, R342, R485). An advance, creation or PRT.REINIT in progress ends with its region: its command
completes with ST_STATE (DEDUCED, log 40). -/
def drawKey (s : State) : State :=
  let orgs := (List.range 8).flatMap (fun i =>
    let x := irOf s i
    x.cmd.toList ++ x.reinit.toList.map (fun q => q.1) ++ x.queued.filterMap (fun q => q.map (fun y => y.1)))
  let s1 := updPrt (fun x => { x with
    key := true, gen := x.gen + 1, pages := [], mbPoison := [], poison := [], cache := [],
    irs := (List.range 8).foldl (fun t i => Tab.upd {} t i (fun y =>
      { y with en := false, st := .off, epoch := 0, conv := 0, cmd := none, queued := [], reinit := none })) x.irs }) s
  orgs.foldl (fun a o => finish o .prtDone noUnit .state a) s1

end Sys2Proof.Machine
end

