-- ==== Sys2Proof/Machine/Barista.lean ====
section
/-! DEFINITION. The mailbox: how a request reaches Barista, how it is checked against policy and life cycle, how it is
answered in parts, and the shared way in which every mailbox command is served (R448 to R470, R560). -/

namespace Sys2Proof.Machine

/-- What a command's body answers: the state it leaves, its status and result bytes, the final events still due after
ST_PENDING, what follows once the answer is sent, and whether the answer waits for TRNG output (R547). -/
structure Ans where
  state : State
  status : Status
  data : List Byte := []
  units : Nat := 1
  after : State → State := id
  wait : Bool := false

/-- The answer of a command that changes nothing. -/
def refuse (s : State) (st : Status) : Ans := { state := s, status := st }

/-- The answer ST_OK with results. -/
def done (s : State) (data : List Byte := []) : Ans := { state := s, status := .ok, data := data }

/-- A complete request (Table MBX-6) with its channel and, on channels 14 and 15, its message. -/
structure Request where
  channel : Nat
  cmd : BitVec 16
  seq : BitVec 16
  len : Nat
  flags : BitVec 16
  target : W64
  args : List Byte
  via : Option MgmtMsg
  deriving DecidableEq, Repr, Inhabited

/-- The origin of a request (R473). -/
def Request.origin (q : Request) : Origin :=
  { cmd := q.cmd, seq := q.seq, channel := BitVec.ofNat 8 q.channel, via := q.via }

/-- One part of a response (Table MBX-7). -/
structure Rsp where
  cmd : BitVec 16
  seq : BitVec 16
  status : Byte
  part : Nat
  flags : Nat
  total : Nat
  data : List Byte
  deriving DecidableEq, Repr, Inhabited

/-- The 16 header bytes of a response (Table MBX-7). -/
def rspBytes (p : Rsp) : List Byte :=
  bytesLE 2 p.cmd.toNat ++ bytesLE 2 p.seq.toNat ++ bytesLE 2 p.data.length ++ [p.status] ++ bytesLE 1 p.part ++
    bytesLE 2 p.flags ++ [0, 0] ++ bytesLE 4 p.total

/-- Response flags MORE, FORWARDED, INTERRUPTED and HW (Table MBX-7). -/
def flagMore : Nat := 1
/-- FORWARDED. -/
def flagForwarded : Nat := 2
/-- INTERRUPTED. -/
def flagInterrupted : Nat := 4
/-- HW. -/
def flagHw : Nat := 8

/-- Channels 0 to 7, 12 and 13, whose requests and responses stand in registers (Table MBX-4). -/
def isRegChan (c : Nat) : Bool := c < 8 || c == 12 || c == 13

/-- Channels 8 to 11, the fabric mailboxes (Table MBX-4). -/
def isFabChan (c : Nat) : Bool := 8 ≤ c && c < 12

/-- The group mask of a channel (R451, Table MBX-5). -/
def groupMaskOf (s : State) (c : Nat) : BitVec 32 := Tab.get 0x0003FFFE#32 s.mbx.groupMask c

/-! ## Answers -/

/-- Sets bit c of IRQ_RSP for channels 0 to 7, and signals vector c when it changes to 1 and is not masked (R458,
R476). -/
def raiseRsp (c : Nat) (s : State) : State :=
  if c < 8 ∧ s.evt.irqRsp.getLsbD c = false then
    let e := { s.evt with irqRsp := s.evt.irqRsp ||| (1#8 <<< c) }
    { s with evt := if (chanOf s c).irqMask then e else { e with msix := e.msix ++ [c] } }
  else s

/-- The words of a response on a fabric channel: the last one carries RSP_LAST (R464). -/
def rspWords (header data : List Byte) : List (W64 × Bool) :=
  let ws := wordsOfBytes (header ++ data)
  ws.dropLast.map (fun w => (w, false)) ++ (ws.drop (ws.length - 1)).map (fun w => (w, true))

/-- Writes a response of a fabric channel when it fits whole; otherwise it waits, or is discarded at a closed site
(R465). -/
def putRspWords (ws : List (W64 × Bool)) (ch : Chan) : Chan :=
  if ch.rspQ.length + ws.length ≤ 64 then { ch with rspQ := ch.rspQ ++ ws }
  else if ch.closed then ch
  else { ch with rspWait := some ws }

/-- Gives a response, its header bytes and its data, to the requester: registers and interrupt, response queue or MGMT
message (R458, R461 to R465, R468). A register channel that is no longer BUSY discards it (R460). -/
def deliverRaw (c : Nat) (via : Option MgmtMsg) (partial_ : Bool) (header data : List Byte) (s : State) : State :=
  if isRegChan c then
    if (chanOf s c).st = .busy then
      raiseRsp c (updChan c (fun ch =>
        { ch with st := if partial_ then .part else .response, rspHdr := BitVec.ofNat 128 (natLE header),
                  rspBuf := bytesTab data }) s)
    else s
  else if isFabChan c then updChan c (putRspWords (rspWords header data)) s
  else
    match via with
    | some q => sendMgmt (replyMgmt q .response header data) s
    | none => s

/-- Gives one part of a response to the requester. -/
def deliver (c : Nat) (via : Option MgmtMsg) (partial_ : Bool) (p : Rsp) (s : State) : State :=
  deliverRaw c via partial_ (rspBytes p) p.data s

/-- Answers a request: a result longer than 256 bytes goes out in parts, the later ones on request (R456). -/
def answerWith (q : Request) (st : Status) (flags : Nat) (data : List Byte) (s : State) : State :=
  let more := 256 < data.length
  let p : Rsp := { cmd := q.cmd, seq := q.seq, status := BitVec.ofNat 8 st.code, part := 0,
                   flags := if more then flags + flagMore else flags, total := data.length, data := data.take 256 }
  let s1 := deliver q.channel q.via false p s
  if more then
    updChan q.channel (fun ch =>
      { ch with rest := some { cmd := q.cmd, seq := q.seq, status := BitVec.ofNat 8 st.code,
                               flags := BitVec.ofNat 16 flags, next := 1, total := data.length,
                               rest := data.drop 256 } }) s1
  else s1

/-- Answers by the mailbox hardware (FLAGS HW). -/
def answerHw (q : Request) (st : Status) (s : State) : State := answerWith q st flagHw [] s

/-- Raises the minimum firmware security version to the lower FW_SVN of slots A and B, in OWNED and LOCKED, to at most
63 (R556). Where a slot holds no image it does not rise (DEDUCED, log 22). -/
def raiseMinSvn (s : State) : State :=
  match s.mbx.slotA, s.mbx.slotB with
  | some a, some b =>
    if s.sec.life = 2 ∨ s.sec.life = 3 then
      let v := min 63 (min a.svn.toNat b.svn.toNat)
      { s with sec := { s.sec with minSvn := BitVec.ofNat 6 (max s.sec.minSvn.toNat v) } }
    else s
  | _, _ => s

/-- A trial firmware that has answered its first command becomes the selection; a trial of the other slot, which that
command itself has asked for, stays one (R443, R556). -/
def confirmTrial (s : State) : State :=
  match s.mbx.fw with
  | some f =>
    if f.trial then
      raiseMinSvn { s with mbx := { s.mbx with
        fw := some { f with trial := false }, selTrial := s.mbx.selTrial && s.mbx.selected != f.slot } }
    else s
  | none => s

/-- Answers by firmware. -/
def answer (q : Request) (st : Status) (data : List Byte) (s : State) : State :=
  confirmTrial (answerWith q st 0 data s)

/-! ## Posting -/

/-- A request header as its 128 bits (Table MBX-6). -/
def reqHeader (cmd seq : BitVec 16) (len flags : Nat) (target : W64) : BitVec 128 :=
  BitVec.ofNat 128 (fieldsWord [(0, cmd.toNat), (16, seq.toNat), (32, len % 65536), (48, flags % 65536),
    (64, target.toNat)])

/-- The request that a header and argument bytes spell. -/
def parseReq (c : Nat) (hdr : BitVec 128) (args : List Byte) (via : Option MgmtMsg) : Request :=
  { channel := c, cmd := hdr.extractLsb' 0 16, seq := hdr.extractLsb' 16 16, len := (hdr.extractLsb' 32 16).toNat,
    flags := hdr.extractLsb' 48 16, target := hdr.extractLsb' 64 64, args := args, via := via }

/-- The request in the registers of a channel. -/
def regRequest (s : State) (c : Nat) : Request :=
  let ch := chanOf s c
  let len := (ch.reqHdr.extractLsb' 32 16).toNat
  parseReq c ch.reqHdr (tabBytes ch.reqBuf 0 (min len 256)) none

/-- Adds a channel behind those whose requests are complete (R449). -/
def pushOrder (c : Nat) (s : State) : State := { s with mbx := { s.mbx with order := s.mbx.order ++ [c] } }

/-- A channel as its doorbell leaves it: BUSY, any response acknowledged, with the request's SEQ (R458, R459). -/
def Chan.rung (ch : Chan) : Chan := { ch with st := .busy, lastSeq := ch.reqHdr.extractLsb' 16 16 }

/-- A doorbell on a register channel: ignored in BUSY with MBX_OVERRUN; otherwise it acknowledges any response and posts
the request. A disabled channel answers ST_DENIED and a restarting Barista ST_BUSY, both by the mailbox hardware
(R445, R457 to R459). In reset nothing is posted. -/
def ringChan (c : Nat) (s : State) : State :=
  let ch := chanOf s c
  if s.mbx.barista = .inReset then s
  else if ch.st = .busy then updChan c (fun ch => { ch with overrun := true }) s
  else
    let s1 := updChan c Chan.rung s
    if ch.enable = false then answerHw (regRequest s1 c) .denied s1
    else if s.mbx.barista = .restarting then answerHw (regRequest s1 c) .busy s1
    else pushOrder c s1

/-- The words of the first request in a fabric queue, and the words after it. -/
def firstReqWords : List (W64 × Bool) → List W64 × List (W64 × Bool)
  | [] => ([], [])
  | (w, true) :: ws => ([w], ws)
  | (w, false) :: ws => (w :: (firstReqWords ws).1, (firstReqWords ws).2)

/-- The request that the words of a fabric mailbox spell, and whether its word count is right (R464, R465). -/
def fabRequest (c : Nat) (ws : List W64) : Request × Bool :=
  let w0 := ws.getD 0 0
  let w1 := ws.getD 1 0
  let len := (w0.extractLsb' 32 16).toNat
  ({ channel := c, cmd := w0.extractLsb' 0 16, seq := w0.extractLsb' 16 16, len := len,
     flags := w0.extractLsb' 48 16, target := w1, args := (bytesOfWords (ws.drop 2)).take len, via := none },
   decide (2 ≤ ws.length ∧ ws.length = 2 + (len + 7) / 8))

/-- The request that a MGMT request message carries (R294). -/
def msgRequest (c : Nat) (m : MgmtMsg) : Request :=
  parseReq c (BitVec.ofNat 128 (natLE (m.header.take 16))) m.payload (some m)

/-- The oldest complete request of a channel, whether its form is right, and the state without it in its queue. The
request bits of a fabric request that are not bytes of LEN must be 0 (R465). -/
def takeReq (c : Nat) (s : State) : Option (Request × Bool × State) :=
  if isRegChan c then some (regRequest s c, true, s)
  else if isFabChan c then
    let q := firstReqWords (chanOf s c).reqQ
    let r := fabRequest c q.1
    some (r.1, r.2, updChan c (fun ch => { ch with reqQ := q.2 }) s)
  else
    match (chanOf s c).msgs with
    | [] => none
    | m :: ms => some (msgRequest c m, true, updChan c (fun ch => { ch with msgs := ms }) s)

/-- Removes the first entry of channel c from the order of complete requests. -/
def dropOrder (c : Nat) (s : State) : State := { s with mbx := { s.mbx with order := s.mbx.order.erase c } }

/-! ## Policy -/

/-- Commands that channel 12 accepts in LOCKED and RETIRED, and every channel in RETIRED (R560). -/
def lifeAllowed (cmd : Nat) : Bool := [0x0101, 0x0102, 0x0F01, 0x0F02, 0x1001, 0x1004].contains cmd

/-- Whether the life-cycle state limits a channel to those commands (R560). -/
def lifeLimits (s : State) (c : Nat) : Bool :=
  s.sec.life == 4 || (s.sec.life == 3 && c == 12)

/-- Whether the group mask of a channel allows a command; SYS.HELLO and SYS.VERSION are allowed everywhere (R451). -/
def maskAllows (s : State) (c cmd : Nat) : Bool :=
  cmd == 0x0101 || cmd == 0x0102 || (decide (cmd / 256 < 32) && (groupMaskOf s c).getLsbD (cmd / 256))

/-- Commands that Barista serves in ROM mode (R444). -/
def romServes (cmd : Nat) : Bool := [0x0101, 0x0102, 0x0103, 0x0106].contains cmd

/-- Why a command is refused before its own checks, if it is: life cycle, group mask, ROM mode (R444, R451, R560). -/
def policy (s : State) (q : Request) : Option Status :=
  if lifeLimits s q.channel ∧ lifeAllowed q.cmd.toNat = false then some .denied
  else if maskAllows s q.channel q.cmd.toNat = false then some .denied
  else if s.mbx.barista = .rom ∧ romServes q.cmd.toNat = false then some .state
  else none

/-- Performs a request by its command's body, under the policy, with its pending record, and answers it (R449 to
R451). With 64 records held, a command that would return ST_PENDING is answered with ST_BUSY and not performed
(R450). -/
def perform (q : Request) (body : Origin → State → Ans) (s : State) : State :=
  match policy s q with
  | some st => answer q st [] s
  | none =>
    let a := body q.origin s
    if a.status = .pending then
      if 64 ≤ s.mbx.pend.length then answer q .busy [] s
      else if a.wait then
        { a.state with sec := { a.state.sec with
            waiting := some { org := q.origin, target := q.target, status := .pending, data := a.data } } }
      else
        let p : Pend := { org := q.origin, units := a.units, remote := false, handle := 0 }
        a.after (answer q .pending a.data { a.state with mbx := { a.state.mbx with pend := a.state.mbx.pend ++ [p] } })
    else if a.wait then
      { a.state with sec := { a.state.sec with
          waiting := some { org := q.origin, target := q.target, status := a.status, data := a.data } } }
    else a.after (answer q a.status a.data a.state)

/-! ## A command sent with its arguments -/

/-- The arguments beyond the last part of a request whose arguments exceed 256 bytes (R455). -/
def earlierParts (n : Nat) : Nat := if n ≤ 256 then 0 else (n - 1) / 256 * 256

/-- The region of a fabric mailbox's site (Table FAB-7). -/
def siteRegion (c : Nat) : Nat := if c = 8 then 0 else if c = 9 then 3 else if c = 10 then 12 else 15

/-- Whether the sender of a channel reaches it: PF0 while PCIe is on and in service, the fabric while the region of the
site is RUNNING on the fabric clock (Table MBX-4, R25, R465). -/
def chanReach (s : State) (c : Nat) : Bool :=
  if c < 8 then domOn s 22 && !s.pwr.baseReset
  else if isFabChan c then regionIs s (siteRegion c) .running && fabricClock s
  else true

/-- The parts received before the last one of a request with packed arguments (R455). -/
def earlierReq (r : Req) (cmd : Nat) (args : List Byte) : Option PartReq :=
  let e := earlierParts args.length
  if e = 0 then none
  else some { cmd := BitVec.ofNat 16 cmd, seq := r.seq, target := 0, count := e / 256, args := args.take e }

/-- A channel with a request's header and buffer as the host writes them. -/
def Chan.written (r : Req) (cmd : Nat) (args : List Byte) (ch : Chan) : Chan :=
  let e := earlierParts args.length
  { ch with reqHdr := reqHeader (BitVec.ofNat 16 cmd) r.seq (args.length - e) 0 0, reqBuf := bytesTab (args.drop e),
            parts := earlierReq r cmd args }

/-- Places a request with packed arguments on a channel and posts it: the host's writes and doorbell on a register
channel, the words of a fabric mailbox, or a MGMT message with no return route. Earlier parts of a long request have
been sent (R455, R458, R459, R463 to R465, R467). -/
def postCmd (r : Req) (cmd : Nat) (args : List Byte) (s : State) : State :=
  let c := r.channel.val
  let ch := chanOf s c
  let e := earlierParts args.length
  let code := BitVec.ofNat 16 cmd
  if chanReach s c = false then s
  else if isRegChan c then
    if ch.st = .busy then updChan c (fun ch => { ch with writeIgnored := true, overrun := true }) s
    else ringChan c (updChan c (Chan.written r cmd args) s)
  else if isFabChan c then
    let ws := wordsOfBytes (bytesLE 16 (reqHeader code r.seq (args.length - e) 0 0).toNat ++ args.drop e)
    let marked := ws.dropLast.map (fun w => (w, false)) ++ (ws.drop (ws.length - 1)).map (fun w => (w, true))
    if ch.closed ∨ s.mbx.barista = .inReset ∨ 64 < ch.reqQ.length + marked.length then s
    else if s.mbx.barista = .restarting then
      answerHw (fabRequest c ws).1 .busy s
    else
      updChan c (fun ch =>
        { ch with reqQ := ch.reqQ ++ marked, parts := if e = 0 then ch.parts else earlierReq r cmd args })
        (pushOrder c s)
  else if s.mbx.barista = .inReset ∨ s.mbx.barista = .restarting ∨ 8 ≤ ch.msgs.length then s
  else
    let m : MgmtMsg :=
      { kind := .request, route := 6, routeExt := [], ret := 6, retWords := [], hop := 0, handle := 0,
        header := bytesLE 16 (reqHeader code r.seq args.length 0 0).toNat, payload := args }
    updChan c (fun ch => { ch with msgs := ch.msgs ++ [m] }) (pushOrder c s)

/-- Barista serves a channel: after the start-up failure of a NoC router, channels 12 and 13 only (row 4 of Table
BRG-3). -/
def servedChan (s : State) (c : Nat) : Bool := !s.start.nocFailed || c == 12 || c == 13

/-- Barista can execute a request of a channel now: it runs, it serves the channel, no command waits for TRNG output, and
the response to an earlier request of a fabric channel has been written (R449, R465, R493, R547). -/
def canExecute (s : State) (c : Nat) : Bool :=
  servedChan s c && !s.pwr.deepIdle && s.sec.waiting.isNone &&
    !(isFabChan c && ((chanOf s c).rspWait.isSome || s.mbx.fwd.any (fun f => f.org.channel.toNat == c)))

/-- A channel without parts of an earlier request or response (R455, R456). -/
def Chan.noParts (ch : Chan) : Chan := { ch with parts := none, rest := none }

/-- Serves a mailbox command: the request is posted, and where no earlier complete request waits (R449), Barista performs
it at once; otherwise BARISTA_EXECUTE performs it in its turn. -/
def serve (r : Req) (cmd : Nat) (args : List Byte) (body : Origin → State → Ans) (s : State) : State :=
  let c := r.channel.val
  let s1 := postCmd r cmd args s
  if s.mbx.order = [] ∧ s1.mbx.order = [c] ∧ canExecute s1 c = true then
    match takeReq c s1 with
    | some (q, true, s2) =>
      perform q body (dropOrder c (updChan c Chan.noParts s2))
    | _ => s1
  else s1

end Sys2Proof.Machine
end

