-- ==== Sys2Proof/Machine/Memory.lean ====
section
/-! DEFINITION. The memory layer: ports A and B, port N, ECC and patrol, the queue controllers, column repair and
memory-layer initialisation (chapter 05). -/

namespace Sys2Proof.Machine

/-! ## Words and ECC -/

/-- The data bit that position p of a word is, as a mask; a check bit is no data bit (R147; the order of the 72
positions is DEDUCED, log 25). -/
def bitMask (p : Nat) : W64 := if p < 64 then 1#64 <<< p else 0

/-- A stored word after an upset; a second bit makes it uncorrectable (R168). -/
def strike (u : WordUpset) (w : MWord) : MWord :=
  match u with
  | .none => w
  | .multi v => { data := v, ecc := .bad }
  | .single p =>
    match w.ecc with
    | .clean => { w with ecc := .single p }
    | .single q =>
      if p = q then { w with ecc := .clean } else { data := w.data ^^^ bitMask p.val ^^^ bitMask q.val, ecc := .bad }
    | .bad => { w with data := w.data ^^^ bitMask p.val }

/-- The ERR code of a word (Table MEM-4). -/
def errCode (w : MWord) : BitVec 2 :=
  match w.ecc with
  | .clean => 0
  | .single _ => 1
  | .bad => 2

/-- The word that a read in fc t sees: every write presented by fc t − 2 (R82, R163). -/
def seenWord (t : Nat) (b : Block) (a : Nat) : MWord :=
  (b.writes.filter (fun w => decide (w.at_ + 2 ≤ t) && w.addr == a)).foldl (fun _ w => w.word) (Tab.get {} b.words a)

/-- Strikes the word that a read in fc t sees, and answers it with the block. -/
def struckRead (t : Nat) (u : WordUpset) (a : Nat) (b : Block) : MWord × Block :=
  let w := strike u (seenWord t b a)
  if u = .none then (w, b)
  else
    (w, { b with words := Tab.set {} b.words a w,
                 writes := b.writes.map (fun x => if x.at_ + 2 ≤ t ∧ x.addr = a then { x with word := w } else x) })

/-- Places a write among those of the last fc, in the order in which they commit (R90). -/
def insertWrite (x : PWrite) : List PWrite → List PWrite
  | [] => [x]
  | y :: ys =>
    if y.at_ = x.at_ ∧ portRank x.port < portRank y.port then x :: y :: ys else y :: insertWrite x ys

/-- Whether port A or B presented a write to the block in one of the fc from lo on. -/
def schedWrite (lo : Nat) (p : Nat → Bool) (b : Block) : Bool :=
  b.writes.any (fun w => decide (lo ≤ w.at_) && w.port != .n && p w.addr)

/-- Counts a correction, and attributes it to its column (R169, R187). -/
def noteCe (g a : Nat) (pos : Fin 72) (s : State) : State :=
  let k := 576 * g + 64 * (pos.val / 8) + 8 * (pos.val % 8) + a % 8
  let s1 := updBlock g (fun b => { b with ce := satAdd b.ce 1 }) s
  { s1 with mem := { s1.mem with colErrs := Tab.upd 0 s1.mem.colErrs k (fun n => n + 1) } }

/-- Counts an uncorrectable error and raises EV_MEM_UNCORRECTABLE with block, word, port and source (R169). -/
def noteUe (g a port src : Nat) (s : State) : State :=
  raise .memUncorrectable [(16, g), (16, a), (8, port), (8, src)]
    (updBlock g (fun b => { b with ue := satAdd b.ue 1, ueWord := BitVec.ofNat 13 a, ueValid := true }) s)

/-- Counts what the check of a word that was returned found (R169). -/
def noteEcc (g port src : Nat) (e : Option (MWord × Nat)) (s : State) : State :=
  match e with
  | none => s
  | some (w, a) =>
    match w.ecc with
    | .clean => s
    | .single p => noteCe g a p s
    | .bad => noteUe g a port src s

/-! ## Availability -/

/-- Whether block g is unavailable: its sector is off or in power-on clearing, it is retired, or it is under
initialisation (Table MEM-4). -/
def unavailable (s : State) (g : Nat) : Bool :=
  domCut s (sectorDom (sectorOf g)) || s.mem.clearing.contains (sectorOf g) || blockRetired s g || (blockOf s g).initBusy

/-! ## Ports A and B -/

/-- What an operation of port A or B does: its response without its time, the block, and the word it checked with the
address. -/
structure OpAns where
  block : Block
  data : W64 := 0
  err : BitVec 2 := 0
  valid : Bool := false
  accept : Bool := false
  level : BitVec 3 := 0
  ecc : Option (MWord × Nat) := none

/-- The response of an operation that the mode does not define: all 0, nothing changed (R156). -/
def undefinedOp (b : Block) : OpAns := { block := b }

/-- The port of a row as one of three. -/
def port3Of : PortAB → Port3
  | .a => .a
  | .b => .b

/-- PORT code of EV_MEM_UNCORRECTABLE (R169). -/
def portABCode : PortAB → Nat
  | .a => 0
  | .b => 1

/-- The responses of a port. -/
def rspsOf (p : PortAB) (b : Block) : List PortRsp :=
  match p with
  | .a => b.rspA
  | .b => b.rspB

/-- Records a response of a port. -/
def putRsp (p : PortAB) (r : PortRsp) (b : Block) : Block :=
  match p with
  | .a => { b with rspA := (r :: b.rspA).take 8 }
  | .b => { b with rspB := (r :: b.rspB).take 8 }

/-- Performs an operation at port A or B in the present fc: the response is presented from 3 fc later (R82, R154, R156).
A port takes one operation in each fc; while the fabric clock is stopped there is none. A NOP counts as idle. On an
unavailable block any other operation answers ERR 0b11 and changes nothing (Table MEM-4). -/
def doPort (p : PortAB) (g : Nat) (idle : Bool) (op : Nat → Block → OpAns) (s : State) : State :=
  let t := s.clk.fc
  let b := blockNow s g
  if !fabricClock s || (rspsOf p b).any (fun r => r.from_ == t + 3) then s
  else
    let b1 := if idle then b else { b with abAt := some t }
    let rsp : OpAns → PortRsp := fun a =>
      { from_ := t + 3, data := a.data, err := a.err, valid := a.valid, accept := a.accept, level := a.level }
    if unavailable s g then
      updBlock g (fun _ => putRsp p (rsp { block := b1, err := if idle then 0 else 3 }) b1) s
    else
      let a := op t b1
      noteEcc g (portABCode p) 0xFF a.ecc (updBlock g (fun _ => putRsp p (rsp a) a.block) s)

/-- Whether a word is plain RAM: any word in plain dual-port RAM mode, or at or above CAP (R175). -/
def isRam (b : Block) (a : Nat) : Bool := b.mode == .ram || decide (b.cap ≤ a)

/-- READ (R158, R175). -/
def readOp (a : Nat) (u : WordUpset) (t : Nat) (b : Block) : OpAns :=
  if isRam b a then
    let r := struckRead t u a b
    { block := r.2, data := r.1.data, err := errCode r.1, valid := true, ecc := some (r.1, a) }
  else undefinedOp b

/-- A scheduled write meets an atomic in progress at the same word: the atomic starts again (R597). -/
def spoilAtomic (a : Nat) (b : Block) : Block :=
  match b.nq with
  | q :: qs =>
    match q.atomic with
    | some (p, v, sp) =>
      { b with nq := { q with atomic := some (p, v, sp || (q.req.addr.toNat % 65536 / 8 == a)) } :: qs }
    | none => b
  | [] => b

/-- WRITE (R157, R175). -/
def writeOp (p : PortAB) (a : Nat) (d : W64) (t : Nat) (b : Block) : OpAns :=
  if isRam b a then
    { block := spoilAtomic a { b with writes := insertWrite { at_ := t, port := port3Of p, addr := a, word := { data := d } } b.writes },
      accept := true }
  else undefinedOp b

/-- Whether an enqueue at port A or B is accepted in a FIFO, credit or priority queue: judged against the occupancy, and
the credits, at the start of the fc, port A first (R90, R176, R179). -/
def enqFits (b : Block) : Bool :=
  decide (b.occStart + b.enqFc < b.cap) && (b.mode != .credit || decide (0 < b.credits))

/-- ENQ (Table MEM-5, R181). -/
def enqOp (d : W64) (arg : BitVec 3) (t : Nat) (b : Block) : OpAns :=
  match b.mode with
  | .ram => undefinedOp b
  | .inbox => undefinedOp b
  | .mail =>
    if b.closed.isSome || (b.outb.length == 7 && !arg.getLsbD 0) then undefinedOp b
    else
      { block := { b with outb := b.outb ++ [{ data := d }], dirty := true,
                          closed := if arg.getLsbD 0 then some (t + 4) else none },
        accept := true }
  | m =>
    if enqFits b then
      let e : QEnt := { word := { data := d }, level := if m = .priority then arg else 0, due := t + 4, vis := false }
      { block := { b with entries := b.entries ++ [e], enqFc := b.enqFc + 1, dirty := true,
                          credits := if m = .credit then b.credits - 1 else b.credits },
        accept := true }
    else undefinedOp b

/-- The index of the head of a priority queue: the first visible entry of the highest non-empty level. -/
def priorityHead (l : List QEnt) : Option Nat :=
  (List.range 8).reverse.findSome? (fun lv => l.findIdx? (fun e => e.vis && e.level.toNat == lv))

/-- The index of the head entry that a dequeue sees, among the entries of a queue (R90, R176). -/
def headIdx (m : QMode) (l : List QEnt) : Option Nat :=
  match m with
  | .ram => none
  | .priority => priorityHead l
  | _ =>
    match l with
    | e :: _ => if e.vis then some 0 else none
    | [] => none

/-- The entries that DEQ and PEEK act on: the inbound message of a mail slot, else the queue. -/
def deqEntries (b : Block) : List QEnt := if b.mode = .mail then b.inb else b.entries

/-- Replaces the entries that DEQ and PEEK act on. -/
def setDeqEntries (l : List QEnt) (b : Block) : Block :=
  if b.mode = .mail then { b with inb := l } else { b with entries := l }

/-- The word address that an entry of a queue is reported under: its place in the inbound message, and for any other
queue a FREE VALUE below CAP (R175 names the area and not the place; log 16). -/
def entryAddr (n : Nat) (b : Block) (e : QEnt) : Nat :=
  if b.mode = .mail then e.level.toNat else (Config.freeValue n).toNat % b.cap

/-- DEQ and PEEK (R170, Table MEM-5); n is the number of the free value that the word address is. -/
def deqOp (remove : Bool) (u : WordUpset) (n : Nat) (_t : Nat) (b : Block) : OpAns :=
  let l := deqEntries b
  match headIdx b.mode l with
  | none => undefinedOp b
  | some i =>
    let e := l.getD i { word := {}, level := 0, due := 0, vis := false }
    let w := strike u e.word
    let l' := if remove then l.eraseIdx i else l.set i { e with word := w }
    { block := setDeqEntries l' b, data := w.data, err := errCode w, valid := true,
      level := if b.mode = .priority then e.level else 0, ecc := some (w, entryAddr n b e) }

/-- RETURN (R179). -/
def returnOp (arg : BitVec 3) (_t : Nat) (b : Block) : OpAns :=
  if b.mode = .credit then { block := { b with credPend := b.credPend + arg.toNat + 1 }, accept := true }
  else undefinedOp b

/-- PORT_NOP (R158). -/
def execPortNop (p : PortAB) (block : Fin 1152) (s : State) : Host.Outcome State Fault Refusal :=
  .next (doPort p block.val true (fun _ b => undefinedOp b) s)

/-- PORT_READ (R158). -/
def execPortRead (p : PortAB) (block : Fin 1152) (addr : BitVec 13) (u : WordUpset) (s : State) :
    Host.Outcome State Fault Refusal :=
  .next (doPort p block.val false (readOp addr.toNat u) s)

/-- PORT_WRITE (R157). -/
def execPortWrite (p : PortAB) (block : Fin 1152) (addr : BitVec 13) (data : W64) (s : State) :
    Host.Outcome State Fault Refusal :=
  .next (doPort p block.val false (writeOp p addr.toNat data) s)

/-- PORT_ENQ (R176). -/
def execPortEnq (p : PortAB) (block : Fin 1152) (data : W64) (arg : BitVec 3) (s : State) :
    Host.Outcome State Fault Refusal :=
  .next (doPort p block.val false (enqOp data arg) s)

/-- PORT_DEQ (R176). -/
def execPortDeq (p : PortAB) (block : Fin 1152) (u : WordUpset) (s : State) : Host.Outcome State Fault Refusal :=
  .next (doPort p block.val false (deqOp true u s.free) (useFree 1 s))

/-- PORT_PEEK (R176). -/
def execPortPeek (p : PortAB) (block : Fin 1152) (u : WordUpset) (s : State) : Host.Outcome State Fault Refusal :=
  .next (doPort p block.val false (deqOp false u s.free) (useFree 1 s))

/-- PORT_RETURN (R179). -/
def execPortReturn (p : PortAB) (block : Fin 1152) (arg : BitVec 3) (s : State) :
    Host.Outcome State Fault Refusal :=
  .next (doPort p block.val false (returnOp arg) s)

/-- QUEUE_ENTRY_VISIBLE (R82): the entries that are due become visible; an operation of a later fc finds this done. -/
def execQueueEntryVisible (block : Fin 1152) (s : State) : Host.Outcome State Fault Refusal :=
  .next (updBlock block.val (fun _ =>
    let b := blockNow s block.val
    { b with entries := showDue s.clk.fc b.entries, inb := showDue s.clk.fc b.inb }) s)

/-! ## Port N -/

/-- The first word of a request in its block. -/
def firstWord (q : NocReq) : Nat := q.addr.toNat % 65536 / 8

/-- The number of words a request acts on; an atomic acts on one (R290, R597). -/
def reqWords (q : NocReq) : Nat := if isAtomic q.op then 1 else q.len.val + 1

/-- Why a block in its present mode refuses the form of a request, if it does (R162, R597 to R599, Table MEM-5). -/
def formCheck (b : Block) (q : NocReq) : Option Status :=
  let n := reqWords q
  let w := firstWord q
  if b.mode = .ram then none
  else if b.mode = .mail ∧ 8 < n then some .badArg
  else if b.mode = .priority ∧ 1 < n then some .badArg
  else if b.cap ≤ w then none
  else if b.cap < w + n ∨ isAtomic q.op then some .badArg
  else
    match b.mode with
    | .inbox => some .denied
    | .mail =>
      if w = 0 ∧ (q.op = .write ∧ allEnabled q = true ∨ q.op = .read ∧ n = 8) then none else some .badArg
    | _ => if q.op = .write ∧ allEnabled q = false then some .badArg else none

/-- An fc that no run reaches: the entry's word has not been written yet. -/
def notWritten : Nat := 2 ^ 64

/-- What one port N cycle does: the block, the answer once the request ends, and the word it checked. -/
structure NStep where
  block : Block
  rsp : Option (Status × List W64) := none
  ecc : Option (MWord × Nat) := none

/-- The request goes on in a later cycle. -/
def nMore (q : NReq) (b : Block) : NStep := { block := { b with nq := q :: b.nq.drop 1 } }

/-- The request ends with an answer. -/
def nEnd (st : Status) (data : List W64) (b : Block) : NStep := { block := { b with nq := b.nq.drop 1 }, rsp := some (st, data) }

/-- The status of a request by the poison it met (R171). -/
def poisonStatus (p : Bool) : Status := if p then .poison else .ok

/-- After a word has been written: the request goes on, or ends at its last word. -/
def nWrote (q : NReq) (b : Block) : NStep :=
  if q.done + 1 < reqWords q.req then nMore { q with done := q.done + 1 } b else nEnd (poisonStatus q.poison) [] b

/-- Sets the visibility time of the first entry whose word had not been written. -/
def writeEntry (due : Nat) : List QEnt → List QEnt
  | [] => []
  | e :: es => if e.due = notWritten then { e with due := due } :: es else e :: writeEntry due es

/-- The entries that an enqueue of port N places: the first one is written in this cycle (R178, R598). -/
def newEntries (m : QMode) (w t : Nat) : List W64 → List QEnt
  | [] => []
  | d :: ds =>
    { word := { data := d }, level := if m = .priority then BitVec.ofNat 3 (w % 8) else 0, due := t + 4, vis := false } ::
      ds.map (fun d => { word := { data := d }, level := 0, due := notWritten, vis := false })

/-- A port N write into the queue area (R178 to R180, R598, R599). -/
def nEnqueue (t : Nat) (q : NReq) (b : Block) : NStep :=
  let n := reqWords q.req
  let ws := q.req.data.take n
  if b.mode = .mail then
    let last := q.done + 1 = n
    let place := fun (l : List QEnt) => if last then l.map (fun e => { e with due := t + 4 }) else l
    if q.done = 0 then
      if !b.inb.isEmpty then nEnd .busy [] b
      else
        let es := ws.zipIdx.map (fun x => ({ word := { data := x.1 }, level := BitVec.ofNat 3 x.2, due := notWritten, vis := false } : QEnt))
        nWrote q { b with inb := place es, dirty := true }
    else nWrote q { b with inb := place b.inb }
  else if q.done = 0 then
    if b.entries.length + n ≤ b.cap ∧ (b.mode = .credit → n ≤ b.credits) then
      nWrote q { b with entries := b.entries ++ newEntries b.mode (firstWord q.req) t ws, dirty := true,
                        credits := if b.mode = .credit then b.credits - n else b.credits }
    else nEnd .busy [] b
  else nWrote q { b with entries := writeEntry (t + 4) b.entries }

/-- Removes the n head entries of a queue, when n are visible (R178). -/
def takeHeads (m : QMode) : Nat → List QEnt → Option (List MWord × List QEnt)
  | 0, l => some ([], l)
  | n + 1, l =>
    match headIdx m l with
    | none => none
    | some i =>
      match takeHeads m n (l.eraseIdx i) with
      | none => none
      | some (ws, r) => some ((l.getD i { word := {}, level := 0, due := 0, vis := false }).word :: ws, r)

/-- Returns one word of a dequeue, and ends the request at its last word (R171, R178, R181); `a` is the word address it
is reported under. -/
def nReturn (u : WordUpset) (a : Nat) (q : NReq) (b : Block) : NStep :=
  match q.held with
  | [] => nEnd (poisonStatus q.poison) q.data b
  | w :: ws =>
    let w' := strike u w
    let q' := { q with done := q.done + 1, data := q.data ++ [w'.data], poison := q.poison || w'.ecc == .bad, held := ws }
    let r := if ws.isEmpty then nEnd (poisonStatus q'.poison) q'.data b else nMore q' b
    { r with ecc := some (w', a) }

/-- A port N read of the queue area (R178, R181). -/
def nDequeue (t : Nat) (u : WordUpset) (n : Nat) (q : NReq) (b : Block) : NStep :=
  let a := if b.mode = .mail then 8 + q.done else (Config.freeValue n).toNat % b.cap
  if q.done ≠ 0 then nReturn u a q b
  else if b.mode = .mail then
    match b.closed with
    | some c =>
      if c ≤ t then nReturn u a { q with held := b.outb } { b with outb := [], closed := none } else nEnd .busy [] b
    | none => nEnd .busy [] b
  else
    match takeHeads b.mode (reqWords q.req) b.entries with
    | some (ws, r) => nReturn u a { q with held := ws } { b with entries := r }
    | none => nEnd .busy [] b

/-- A port N read of one RAM word (R163, R171). -/
def nRead (t : Nat) (u : WordUpset) (q : NReq) (b : Block) : NStep :=
  let a := firstWord q.req + q.done
  let r := struckRead t u a b
  let q' := { q with done := q.done + 1, data := q.data ++ [r.1.data], poison := q.poison || r.1.ecc == .bad }
  let x := if q'.done < reqWords q.req then nMore q' r.2 else nEnd (poisonStatus q'.poison) q'.data r.2
  { x with ecc := some (r.1, a) }

/-- A write through port N in fc t. -/
def nPut (t a : Nat) (w : W64) (b : Block) : Block :=
  { b with writes := insertWrite { at_ := t, port := .n, addr := a, word := { data := w } } b.writes }

/-- A port N write of one RAM word: whole, or merged with the stored word, and not performed on an uncorrectable one
(R163, R164, R171). -/
def nWrite (t : Nat) (u : WordUpset) (q : NReq) (b : Block) : NStep :=
  let a := firstWord q.req + q.done
  let d := q.req.data.getD q.done 0
  let be := byteEnables q.req q.done
  if be = 0xFF then nWrote q (nPut t a d b)
  else
    let r := struckRead t u a b
    if r.1.ecc = .bad then nWrote { q with poison := true } r.2
    else nWrote q (nPut t a (mergeWord be r.1.data d) r.2)

/-- One cycle of an atomic: its read, or its write when no scheduled write has met the word since (R597). -/
def nAtomic (t : Nat) (u : WordUpset) (q : NReq) (b : Block) : NStep :=
  let a := firstWord q.req
  match q.atomic with
  | some (_, v, false) => nEnd .ok [v] (nPut t a (atomicNew q.req v) b)
  | _ =>
    let r := struckRead t u a b
    let x :=
      if r.1.ecc = .bad then nEnd .poison [r.1.data] r.2
      else nMore { q with atomic := some (t, r.1.data, schedWrite (t - 1) (fun x => x == a) b) } r.2
    { x with ecc := some (r.1, a) }

/-- Whether a port N cycle would be a merge that must wait for a scheduled write of the two preceding fc (R164). -/
def mergeWaits (t : Nat) (q : NReq) (b : Block) : Bool :=
  q.req.op == .write && isRam b (firstWord q.req + q.done) && byteEnables q.req q.done != 0xFF &&
    schedWrite (t - 2) (fun _ => true) b

/-- One port N cycle for the request at the head (R162, R178). -/
def nStep (t : Nat) (u : WordUpset) (n : Nat) (q : NReq) (b : Block) : NStep :=
  match (if q.done = 0 then formCheck b q.req else none) with
  | some st => nEnd st [] b
  | none =>
    if isRam b (firstWord q.req) then
      match q.req.op with
      | .read => nRead t u q b
      | .write => nWrite t u q b
      | _ => nAtomic t u q b
    else if q.req.op = .write then nEnqueue t q b
    else nDequeue t u n q b

/-- MEM_CSEL_SRC of counter k of a sector (Table MEM-6). -/
def cselOf (s : State) (sector k : Nat) : Nat :=
  match Tab.get none s.mem.csel (64 * sector + k) with
  | some b => b.toNat
  | none => k

/-- The conflict counters of a sector that select a source count one (R160, R166, R167). -/
def countConflict (sector src : Nat) (s : State) : State :=
  let ks := (List.range 64).filter (fun k => cselOf s sector k == src)
  { s with mem := { s.mem with
      ccnt := ks.foldl (fun c k => Tab.upd 0 c (64 * sector + k) (fun n => satAdd n 1)) s.mem.ccnt } }

/-- Why a request that has reached a block is not served, if the block has become unavailable since (R165). -/
def nRefusal (s : State) (g : Nat) : Status :=
  if domCut s (sectorDom (sectorOf g)) then .domainOff else if blockRetired s g then .retired else .busy

/-- PORT_N_CYCLE (R160): the request at the head takes one port N cycle of the block in the present fc, or is deferred
and counted. While the fabric clock is stopped it waits (R596). -/
def execPortNCycle (block : Fin 1152) (u : WordUpset) (s : State) : Host.Outcome State Fault Refusal :=
  let g := block.val
  let t := s.clk.fc
  let b := blockNow s g
  if !fabricClock s || b.nAt == some t || s.dsp.groupQ.any (fun x => x.block == g && decide (0 < x.done)) then .next s
  else
    match b.nq with
    | [] => .next s
    | q :: _ =>
      let b1 := { b with nAt := some t }
      if unavailable s g then
        .next (respond q.req (nRefusal s g) [] (updBlock g (fun _ => { b1 with nq := b1.nq.drop 1 }) s))
      else if b.abAt = some t ∨ mergeWaits t q b = true then
        .next (countConflict (sectorOf g) q.req.src.toNat (updBlock g (fun _ => b1) s))
      else
        let x := nStep t u s.free q b1
        let s1 := noteEcc g 2 q.req.src.toNat x.ecc (updBlock g (fun _ => x.block) (useFree 1 s))
        match x.rsp with
        | some (st, d) => .next (respond q.req st d s1)
        | none => .next s1

/-- Why a sector endpoint answers a request itself, if it does (R152, R165, R363, R385, R596, R598, R599). -/
def sectorRefusal (s : State) (g : Nat) (q : NocReq) : Option Status :=
  if s.mem.clearing.contains (sectorOf g) then some .busy
  else if targetShut s q.addr.toNat then some .domainOff
  else if protDenied s q.src.toNat q.addr.toNat then some .denied
  else if !fabricClock s then some .busy
  else if blockRetired s g then some .retired
  else if (blockOf s g).initBusy then some .busy
  else formCheck (blockOf s g) q

/-- NOC_BLOCK_REQUEST (R596): the request is passed to its block, or answered by the endpoint. -/
def execNocBlockRequest (src : BitVec 8) (tag : BitVec 12) (s : State) : Host.Outcome State Fault Refusal :=
  match meshReq s src tag with
  | none => .next s
  | some q =>
    match destOf s q.addr.toNat with
    | .sector g =>
      match sectorRefusal s g q with
      | some st => .next (answerMesh q st [] s)
      | none =>
        let n : NReq := { req := q, done := 0, data := [], poison := false, held := [], atomic := none }
        .next (updBlock g (fun b => { b with nq := b.nq ++ [n] }) (dropMesh q s))
    | _ => .next s

/-! ## Patrol and column repair -/

/-- PATROL_READ (R173, R174): the next word is read in an idle port N cycle, at most once per 256 fc. A word of the
queue area is checked and nothing of the queue changes. -/
def execPatrolRead (block : Fin 1152) (u : WordUpset) (s : State) : Host.Outcome State Fault Refusal :=
  let g := block.val
  let t := s.clk.fc
  let b := blockNow s g
  let early := match b.patrolAt with | some p => decide (t < p + 256) | none => false
  if !fabricClock s || !b.patrolEn || unavailable s g || b.abAt == some t || b.nAt == some t || !b.nq.isEmpty || early then
    .next s
  else
    let a := b.patrol.toNat
    let r := if isRam b a then struckRead t u a b else (strike u {}, b)
    let fix := match r.1.ecc with | .single _ => isRam b a | _ => false
    let b' := { r.2 with patrol := b.patrol + 1, patrolAt := some t, nAt := some t,
                         patrolFix := if fix then some (a, t) else none }
    .next (noteEcc g 2 0xFF (some (r.1, a)) (updBlock g (fun _ => b') s))

/-- PATROL_WRITEBACK (R174): 2 fc after the read the corrected word is written, unless a port presented a write to it in
the fc of the read or the next. -/
def execPatrolWriteback (block : Fin 1152) (s : State) : Host.Outcome State Fault Refusal :=
  let g := block.val
  let t := s.clk.fc
  let b := blockNow s g
  match b.patrolFix with
  | none => .next s
  | some (a, p) =>
    if !fabricClock s || unavailable s g || t != p + 2 then .next s
    else
      let b1 := { b with patrolFix := none }
      let met := b.writes.any (fun w => w.addr == a && (w.at_ == p || w.at_ == p + 1))
      .next (updBlock g (fun _ => if met then b1 else nPut t a (seenWord p b a).data b1) s)

/-- The spare columns of a group in use, counting field repair entries that wait for the next start (R186, R187). -/
def spareInUse (s : State) (g group spare : Nat) : Bool :=
  (blockOf s g).spareUsed.getLsbD (2 * group + spare) ||
    (recordNow s).cols.any (fun e =>
      Nat.testBit e.toNat 31 && field e.toNat 0 11 == g && field e.toNat 11 4 == group && field e.toNat 21 1 == spare)

/-- A column repair entry found in service (Table MEM-9). -/
def colEntry (g group column spare : Nat) : W64 :=
  BitVec.ofNat 64 (fieldsWord [(0, g), (11, group), (15, column), (21, spare), (30, 1), (31, 1)])

/-- MEM_COLUMN (R187): at 16 corrections attributed to a column, once between starts. -/
def execMemColumn (block : Fin 1152) (group : Fin 9) (column : Fin 64) (s : State) :
    Host.Outcome State Fault Refusal :=
  let g := block.val
  let k := 576 * g + 64 * group.val + column.val
  if Tab.get 0 s.mem.colErrs k < 16 ∨ s.mem.colDone.contains k = true then .next s
  else
    let s1 := { s with mem := { s.mem with colDone := s.mem.colDone ++ [k] } }
    let data := fun (noSpare : Bool) => [(16, g), (8, group.val), (8, column.val), (8, bit noSpare)]
    match (List.range 2).find? (fun i => !spareInUse s g group.val i) with
    | none => .next (raise .memColumn (data true) s1)
    | some i =>
      let s2 :=
        if (recordNow s1).cols.length < 512 then
          writeRecord (fun x => { x with cols := x.cols ++ [colEntry g group.val column.val i] }) s1
        else s1
      .next (raise .memColumn (data false) s2)

/-! ## Clearing, modes and initialisation -/

/-- A block as its sector's power-on leaves it; what counts since RESET_N stays (R152, R184). -/
def clearedBlock (b : Block) : Block :=
  { ce := b.ce, ue := b.ue, ueWord := b.ueWord, ueValid := b.ueValid, spareUsed := b.spareUsed, nq := b.nq }

/-- The blocks of a sector (R148). -/
def sectorBlocks (k : Nat) : List Nat := (List.range 1152).filter (fun g => sectorOf g == k)

/-- A block that is bound as a dispatcher source leaves FIFO mode: the source is disabled and EV_DSP_SOURCE is raised
(R395). -/
def leaveFifo (g : Nat) (s : State) : State :=
  forEach (List.range 64) (fun k s =>
    let x := Tab.get {} s.dsp.sources k
    if x.bound && x.en && x.block == g then
      raise .dspSource [(8, k), (16, g)]
        { s with dsp := { s.dsp with sources := Tab.set {} s.dsp.sources k { x with en := false } } }
    else s) s

/-- SECTOR_CLEAR_DONE (R152). -/
def execSectorClearDone (sector : Fin 8) (s : State) : Host.Outcome State Fault Refusal :=
  if s.mem.clearing.contains sector.val then
    let s1 := { s with mem := { s.mem with clearing := s.mem.clearing.filter (fun k => k != sector.val) } }
    .next (forEach (sectorBlocks sector.val) (fun g s => leaveFifo g (updBlock g clearedBlock s)) s1)
  else .next s

/-- The stored words once a queue has used the area below CAP: FREE VALUES, since the places of its entries are not
given (R175, R183; log 16). -/
def freedWords (n : Nat) (b : Block) : Tab MWord :=
  (List.range b.cap).foldl
    (fun m i => Tab.set {} m i { data := (Config.freeValue (n + i)).extractLsb' 0 64 }) b.words

/-- Sets a block's mode, capacity and credits: the queue is empty and the credit count is QCTL_CREDIT_INIT (R183). -/
def setMode (g : Nat) (mode : QMode) (capLog2 creditInit : Nat) (patrolEn : Bool) (s : State) : State :=
  let b := blockNow s g
  let b' := { b with
    words := if b.dirty then freedWords s.free b else b.words
    mode := mode, capLog2 := capLog2, creditInit := creditInit, credits := creditInit, credPend := 0,
    patrolEn := patrolEn, entries := [], inb := [], outb := [], closed := none, dirty := false, occStart := 0, enqFc := 0 }
  let s1 := updBlock g (fun _ => b') (useFree (if b.dirty then b.cap else 0) s)
  if mode = .fifo then s1 else leaveFifo g s1

/-- Whether QCTL_MODE, QCTL_CAP_LOG2 and QCTL_CREDIT_INIT values are legal (Table MEM-8). -/
def legalMode (mode capLog2 creditInit : Nat) : Option QMode :=
  match QMode.ofCode mode with
  | none => none
  | some m =>
    if 4 ≤ capLog2 ∧ capLog2 ≤ 13 ∧ (m = .mail → capLog2 = 4) ∧ creditInit ≤ 2 ^ capLog2 then some m else none

/-- CFG.MEM_MODE (R183, R192, Table MEM-11). -/
def bodyCfgMemMode (block mode capLog2 creditInit : Nat) (patrolEn : Bool) (_org : Origin) (s : State) : Ans :=
  match legalMode mode capLog2 creditInit with
  | none => refuse s .badArg
  | some m =>
    if 1152 ≤ block then refuse s .badArg
    else if blockRetired s block then refuse s .retired
    else if domCut s (sectorDom (sectorOf block)) then refuse s .domainOff
    else if blockInUse s block then refuse s .state
    else done (setMode block m capLog2 creditInit patrolEn s)

/-- CFG_MEM_MODE (R183). -/
def execCfgMemMode (r : Req) (block : BitVec 11) (mode : BitVec 3) (capLog2 : BitVec 4) (creditInit : BitVec 14)
    (patrolEn : Bool) (s : State) : Host.Outcome State Fault Refusal :=
  .next (serve r 0x0221
    (packFields [(11, block.toNat), (3, mode.toNat), (4, capLog2.toNat), (14, creditInit.toNat), (1, bit patrolEn)])
    (bodyCfgMemMode block.toNat mode.toNat capLog2.toNat creditInit.toNat patrolEn) s)

/-- CFG.MEM_STATUS (R184). -/
def bodyCfgMemStatus (block : Nat) (_org : Origin) (s : State) : Ans :=
  if 1152 ≤ block then refuse s .badArg
  else done s (packFields ((qctlWords s block (unavailable s block)).map (fun w => (32, w))))

/-- CFG_MEM_STATUS (R184). -/
def execCfgMemStatus (r : Req) (block : BitVec 11) (s : State) : Host.Outcome State Fault Refusal :=
  .next (serve r 0x0222 (packFields [(11, block.toNat)]) (bodyCfgMemStatus block.toNat) s)

/-- The blocks that an initialisation image names. -/
def initBlocks (l : List BlockEntry) : List Nat := l.map (fun e => e.block.toNat)

/-- Begins a memory-layer initialisation: the listed blocks are unavailable (R191). -/
def startInit (org : Option Origin) (index : Nat) (entries : List BlockEntry) (s : State) : State :=
  forEach (initBlocks entries) (fun g => updBlock g (fun b => { b with initBusy := true }))
    { s with mem := { s.mem with init := some { org := org, index := index, entries := entries } } }

/-- CFG.MEM_INIT (R191, R192, Table MEM-11). -/
def bodyCfgMemInit (image : Nat) (org : Origin) (s : State) : Ans :=
  match (if image < 256 then Tab.get none s.load.inits image else none) with
  | none => refuse s .badArg
  | some i =>
    let l := initBlocks i.entries
    if domCut s 49 || l.any (fun g => domCut s (sectorDom (sectorOf g))) then refuse s .domainOff
    else if l.any (blockInUse s) then refuse s .state
    else if s.mem.init.isSome then refuse s .busy
    else { state := startInit (some org) image i.entries s, status := .pending }

/-- CFG_MEM_INIT (R191). -/
def execCfgMemInit (r : Req) (image : BitVec 16) (s : State) : Host.Outcome State Fault Refusal :=
  .next (serve r 0x0220 (packFields [(16, image.toNat)]) (bodyCfgMemInit image.toNat) s)

/-- The words that a block entry writes, by address (R189, R190). -/
def entryWords (e : BlockEntry) : List (Nat × W64) :=
  if e.flags.getLsbD 1 then []
  else
    (List.range e.wordCount.toNat).map (fun i =>
      (e.startWord.toNat + i, if e.flags.getLsbD 0 then e.data.getD 0 0 else e.data.getD i 0))

/-- Writes words into a block, over writes still in flight. -/
def pokeWords (l : List (Nat × W64)) (b : Block) : Block :=
  { b with words := l.foldl (fun m x => Tab.set {} m x.1 { data := x.2 }) b.words,
           writes := b.writes.filter (fun w => !l.any (fun x => x.1 == w.addr)) }

/-- Applies one block entry: its words, then its mode (R190). The patrol reader's enable is not part of an entry. -/
def applyEntry (s : State) (e : BlockEntry) : State :=
  let g := e.block.toNat
  let s1 := updBlock g (pokeWords (entryWords e)) s
  match QMode.ofCode e.mode.toNat with
  | some m => setMode g m e.capLog2.toNat e.creditInit.toNat (blockOf s g).patrolEn s1
  | none => s1

/-- Ends a memory-layer initialisation: every entry applied, or those reached before it failed with the first words of
the next (R190 to R192). -/
def endInit (j : InitJob) (crcOk : Bool) (reached words : Nat) (s : State) : State :=
  let s1 :=
    if crcOk then j.entries.foldl applyEntry s
    else
      let s2 := (j.entries.take reached).foldl applyEntry s
      match j.entries[reached]? with
      | some e => updBlock e.block.toNat (pokeWords ((entryWords e).take words)) s2
      | none => s2
  forEach (initBlocks j.entries) (fun g => updBlock g (fun b => { b with initBusy := false }))
    { s1 with mem := { s1.mem with init := none } }

/-! ## Registers -/

/-- Answers the write that brought a register row's value, when the row's master made it over the NoC: the oldest one in
the mesh that covers the address. -/
def answerWrite (src : BitVec 8) (addr : Nat) (st : Status) (s : State) : State :=
  match s.noc.mesh.find? (fun q => q.src == src && q.op == .write &&
      decide (q.addr.toNat ≤ addr ∧ addr < q.addr.toNat + 8 * (q.len.val + 1))) with
  | some q => answerMesh q st [] s
  | none => s

/-- The address of block g's QCTL registers (R184). -/
def qctlAddr (g : Nat) : Nat := 0x082001000000 + g * 0x40

/-- The address of sector k's conflict-counter registers (R166). -/
def conflictAddr (k : Nat) : Nat := 0x082001020000 + k * 0x400

/-- A write to QCTL_CREDIT_ADD: no effect outside credit queue mode (R179). -/
def addCreditWrite (g v : Nat) (s : State) : State :=
  updBlock g (fun _ =>
    let b := blockNow s g
    if b.mode = .credit then { b with credPend := b.credPend + v % 2 ^ 14 } else b) s

/-- QCTL_CREDIT_RETURN_WRITE (R179, R184). -/
def execQctlCreditReturnWrite (src : BitVec 8) (block : Fin 1152) (value : BitVec 32) (s : State) :
    Host.Outcome State Fault Refusal :=
  let a := qctlAddr block.val + 0xC
  if protDenied s src.toNat a then .next (answerWrite src a .denied s)
  else .next (answerWrite src a .ok (addCreditWrite block.val value.toNat s))

/-- Sets MEM_CSEL_k, and counter k to 0 (R167). -/
def setCsel (k i : Nat) (v : Byte) (s : State) : State :=
  { s with mem := { s.mem with
      csel := Tab.set none s.mem.csel (64 * k + i) (if v.toNat = i then none else some v)
      ccnt := Tab.set 0 s.mem.ccnt (64 * k + i) 0 } }

/-- Sets the 64 conflict counters of a sector to 0 (R192). -/
def clearConflicts (k : Nat) (s : State) : State :=
  { s with mem := { s.mem with ccnt := s.mem.ccnt.filter (fun e => e.1 / 64 != k) } }

/-- MEM_CSEL_WRITE (R166, R167): only Barista writes the register. -/
def execMemCselWrite (src : BitVec 8) (sector : Fin 8) (k : Fin 64) (value : BitVec 32) (s : State) :
    Host.Outcome State Fault Refusal :=
  let a := conflictAddr sector.val + 4 * k.val
  if src = 72 then .next (answerWrite src a .ok (setCsel sector.val k.val (value.extractLsb' 0 8) s))
  else .next (answerWrite src a .denied s)

/-- MEM_CCTL_CLEAR (R166). -/
def execMemCctlClear (src : BitVec 8) (sector : Fin 8) (value : BitVec 32) (s : State) :
    Host.Outcome State Fault Refusal :=
  let a := conflictAddr sector.val + 0x200
  if src = 72 then
    .next (answerWrite src a .ok (if value.getLsbD 0 then clearConflicts sector.val s else s))
  else .next (answerWrite src a .denied s)

/-- LOG.MEM_CONFLICT (R192). -/
def bodyLogMemConflict (sector : Nat) (clear : Bool) (_org : Origin) (s : State) : Ans :=
  let data := packFields (((List.range 64).map (fun k => (8, cselOf s sector k))) ++
    (List.range 64).map (fun k => (32, (Tab.get 0 s.mem.ccnt (64 * sector + k)).toNat)))
  done (if clear then clearConflicts sector s else s) data

/-- LOG_MEM_CONFLICT (R192). -/
def execLogMemConflict (r : Req) (sector : BitVec 3) (clear : Bool) (s : State) : Host.Outcome State Fault Refusal :=
  .next (serve r 0x1120 (packFields [(3, sector.toNat), (1, bit clear)]) (bodyLogMemConflict sector.toNat clear) s)

end Sys2Proof.Machine
end

