-- ==== Sys2Proof/Machine/Contexts.lean ====
section
/-! DEFINITION. Contexts: switching through REGION_CTL and by mailbox, staging, and the CTX commands (chapter 04, checks 6
to 8 of Table SCH-13). -/

namespace Sys2Proof.Machine

/-! ## REGION_CTL -/

/-- Performs the pending switch of a region that is due: planes switch, routing registers inside the region take 0, and
the banks are evaluated again (R128, Table SCH-8, R219). -/
def switchNow (r : Nat) (s : State) : State :=
  let g := regionOf s r
  match g.pendSw with
  | some w =>
    if w.at_ + 4 ≤ s.clk.fc ∧ g.st = .running then
      let s1 := updRegion r (fun g =>
        { (if w.init then g.updSlot w.slot.val (fun q => { q with regs := initRegs q }) else g) with
          present := some w.slot, pendSw := none, effectAt := some s.clk.fc }) s
      finishOpt w.org .ctxDone r .ok (releaseBanks r (zeroRouting r s1))
    else s
  | none => s

/-- Whether a slot of a region is verified and its sectors let it run (R126, R144). -/
def runnable (s : State) (r k : Nat) : Bool := verified s r k && slotRunnable s ((regionOf s r).slot k)

/-- Presents SW_ACK in the next fc (Table CTX-5). -/
def ackSwitch (r : Nat) (v : BitVec 2) (s : State) : State :=
  updRegion r (fun g => { g with swAck := v, swAckAt := s.clk.fc + 1 }) s

/-- REGION_CTL_SWITCH_REQUEST (R126 to R128): busy is judged first, then the target slot. -/
def execRegionCtlSwitchRequest (region : Fin 32) (slot : Fin 4) (init : Bool) (s : State) :
    Host.Outcome State Fault Refusal :=
  let r := region.val
  let s1 := switchNow r s
  let g := regionOf s1 r
  let mark := updRegion r (fun g => { g with fabReqAt := some s.clk.fc })
  if g.st ≠ .running then .next s1
  else if g.pendSw.isSome then .next (mark (ackSwitch r 2 s1))
  else if runnable s1 r slot.val = false then .next (ackSwitch r 3 s1)
  else
    .next (mark (ackSwitch r 1 (updRegion r (fun g =>
      { g with pendSw := some { slot := slot, init := init, at_ := s.clk.fc, org := none } }) s1)))

/-- REGION_CTL_SWITCH_EFFECT (R128). -/
def execRegionCtlSwitchEffect (region : Fin 32) (s : State) : Host.Outcome State Fault Refusal :=
  .next (switchNow region.val s)

/-- REGION_RESET_END (R116): UPSET shows the first running fc after a reset by the scrubber (Table CTX-5). -/
def execRegionResetEnd (region : Fin 32) (s : State) : Host.Outcome State Fault Refusal :=
  let r := region.val
  let g := regionOf s r
  match g.resetEnd, g.present with
  | some (e, byScrub), some k =>
    if e ≤ s.clk.fc ∧ g.st = .held then
      let s1 := enterRunning r k false s
      .next (if byScrub then updRegion r (fun g => { g with upsetAt := some s.clk.fc }) s1 else s1)
    else .next s
  | _, _ => .next s

/-! ## Switch windows -/

/-- A CTX.SWITCH at its boundary: it enters REGION_CTL, or loses to the fabric or to the state of the region (R132). -/
def windowSwitch (a : Armed) (s : State) : State :=
  let s1 := switchNow a.region s
  let g := regionOf s1 a.region
  let n := s.clk.fc
  if g.st ≠ .running ∨ runnable s1 a.region a.slot.val = false ∨ g.pendSw.isSome ∨ g.fabReqAt = some n ∨
      g.effectAt = some n then
    finishOpt a.org .ctxDone a.region .state s1
  else
    updRegion a.region (fun g =>
      { g with pendSw := some { slot := a.slot, init := a.init, at_ := n, org := a.org } }) s1

/-- A HELD region is stopped at once (Table CTX-2). -/
def heldToReady (r : Nat) (s : State) : State :=
  updRegion r (fun g => { g with st := .ready, resetEnd := none, swapHeld := false }) s

/-- Another armed command at the start of fc b + 4, where Table CTX-2 allows it (R133, R144). A region in retention does
not run (DEDUCED, log 26). -/
def windowAct (a : Armed) (s : State) : Status × State :=
  let r := a.region
  let g := regionOf s r
  match a.kind with
  | .switch => (.state, s)
  | .start =>
    if (g.st = .ready ∨ g.st = .faulted) ∧ g.retention = false ∧ runnable s r a.slot.val = true then
      (.ok, enterRunning r a.slot a.init s)
    else (.state, s)
  | .hold => if g.st = .running then (.ok, leaveRunning r .held 1 s) else (.state, s)
  | .resume =>
    match g.present with
    | some k =>
      if g.st = .held ∧ g.retention = false ∧ slotRunnable s (g.slot k.val) = true then (.ok, enterRunning r k false s)
      else (.state, s)
    | none => (.state, s)
  | .stop =>
    if g.st = .running then (.ok, leaveRunning r .ready 1 s)
    else if g.st = .held then (.ok, heldToReady r s)
    else (.state, s)
  | .reset => if g.st = .running then (.ok, startReset r false s) else (.state, s)

/-- Whether an armed command is due now: a switch at its boundary, any other 4 fc later (R132, R133). -/
def armedDue (t : Nat) (a : Armed) : Bool :=
  if a.kind = .switch then decide (a.b.toNat ≤ t) else decide (a.b.toNat + 4 ≤ t)

/-- Reports an armed command's outcome; a start by the boot load that fails is the boot load's failure (R133, R218). -/
def endArmed (a : Armed) (st : Status) (s : State) : State :=
  match a.org with
  | some o => finish o .ctxDone a.region st s
  | none =>
    if st = .ok then s
    else
      let f : LoadFail := { status := st, check := 0, region := BitVec.ofNat 8 a.region, tile := 0xFFFF, frame := 0xFFFF }
      { s with load := { s.load with bootFault := some f } }

/-- WINDOW_BOUNDARY (R131 to R134). -/
def execWindowBoundary (s : State) : Host.Outcome State Fault Refusal :=
  let t := s.clk.time.toNat
  let due := s.ctx.armed.filter (armedDue t)
  let s1 := { s with ctx := { s.ctx with armed := s.ctx.armed.filter (fun a => !armedDue t a) } }
  .next (due.foldl (fun s a =>
    if a.kind = .switch then windowSwitch a s
    else
      let x := windowAct a s
      endArmed a x.1 x.2) s1)

/-- The boundary that a command is armed for: the chain time AT, or the first one at least 256 fc ahead; the status
where it cannot be armed (R131). -/
def armTime (s : State) (at_ : Nat) : Except Status Nat :=
  let w := 2 ^ s.ctx.p.toNat
  let t := s.clk.time.toNat
  if at_ % w ≠ 0 then .error .badArg
  else if s.clk.unsync then .error .state
  else if at_ = 0 then .ok ((t + 256 + w - 1) / w * w)
  else if at_ < t + 256 then .error .state
  else .ok at_

/-- Arms a command for every region of a mask (R131, R134); `now` are regions already stopped at once. -/
def armAll (kind : ArmKind) (rs now : List Nat) (slot : Fin 4) (init : Bool) (at_ : Nat) (org : Origin) (s : State) : Ans :=
  match armTime s at_ with
  | .error st => refuse s st
  | .ok b =>
    let new := rs.map (fun r =>
      ({ org := some org, kind := kind, region := r, slot := slot, init := init, b := BitVec.ofNat 64 b } : Armed))
    { state := forEach now heldToReady { s with ctx := { s.ctx with armed := s.ctx.armed ++ new } },
      status := .pending, units := rs.length + now.length,
      after := forEach now (fun r => finish org .ctxDone r .ok) }

/-- The regions of a REGION_MASK (R145). -/
def maskRegions (mask : Nat) : List Nat := bitsOf (BitVec.ofNat 32 mask)

/-- A slot number of two bits. -/
def slotFin (n : Nat) : Fin 4 := Fin.ofNat 4 n

/-- CTX.SWITCH, CTX.START, CTX.HOLD, CTX.RESUME and CTX.RESET (R131, R146). -/
def bodyCtxArm (kind : ArmKind) (mask slot : Nat) (init : Bool) (at_ : Nat) (org : Origin) (s : State) : Ans :=
  if maskRegions mask = [] then refuse s .badArg
  else armAll kind (maskRegions mask) [] (slotFin slot) init at_ org s

/-- CTX.STOP: HELD regions stop at once, the others at the window; ST_OK where every named region is HELD (R133, Table
CTX-9). -/
def bodyCtxStop (mask at_ : Nat) (org : Origin) (s : State) : Ans :=
  let rs := maskRegions mask
  let now := rs.filter (fun r => regionIs s r .held)
  let later := rs.filter (fun r => !regionIs s r .held)
  if rs = [] then refuse s .badArg
  else if later = [] then done (forEach now heldToReady s)
  else armAll .stop later now 0 false at_ org s

/-- CTX_SWITCH (R132). -/
def execCtxSwitch (r : Req) (mask : BitVec 32) (slot : BitVec 2) (init : Bool) (at_ : W64) (s : State) :
    Host.Outcome State Fault Refusal :=
  .next (serve r 0x0302 (packFields [(32, mask.toNat), (2, slot.toNat), (1, bit init), (64, at_.toNat)])
    (bodyCtxArm .switch mask.toNat slot.toNat init at_.toNat) s)

/-- CTX_START (R133). -/
def execCtxStart (r : Req) (mask : BitVec 32) (slot : BitVec 2) (init : Bool) (at_ : W64) (s : State) :
    Host.Outcome State Fault Refusal :=
  .next (serve r 0x0303 (packFields [(32, mask.toNat), (2, slot.toNat), (1, bit init), (64, at_.toNat)])
    (bodyCtxArm .start mask.toNat slot.toNat init at_.toNat) s)

/-- CTX_HOLD (R133). -/
def execCtxHold (r : Req) (mask : BitVec 32) (at_ : W64) (s : State) : Host.Outcome State Fault Refusal :=
  .next (serve r 0x0304 (packFields [(32, mask.toNat), (64, at_.toNat)]) (bodyCtxArm .hold mask.toNat 0 false at_.toNat) s)

/-- CTX_RESUME (R133). -/
def execCtxResume (r : Req) (mask : BitVec 32) (at_ : W64) (s : State) : Host.Outcome State Fault Refusal :=
  .next (serve r 0x0305 (packFields [(32, mask.toNat), (64, at_.toNat)])
    (bodyCtxArm .resume mask.toNat 0 false at_.toNat) s)

/-- CTX_STOP (R133). -/
def execCtxStop (r : Req) (mask : BitVec 32) (at_ : W64) (s : State) : Host.Outcome State Fault Refusal :=
  .next (serve r 0x0306 (packFields [(32, mask.toNat), (64, at_.toNat)]) (bodyCtxStop mask.toNat at_.toNat) s)

/-- CTX_RESET (R133). -/
def execCtxReset (r : Req) (mask : BitVec 32) (at_ : W64) (s : State) : Host.Outcome State Fault Refusal :=
  .next (serve r 0x0307 (packFields [(32, mask.toNat), (64, at_.toNat)])
    (bodyCtxArm .reset mask.toNat 0 false at_.toNat) s)

/-! ## Staging -/

/-- Whether the loader's current load writes a context (R222). -/
def loadingContext (s : State) (r c : Nat) : Bool :=
  match s.load.job with
  | some j =>
    match j.hdr with
    | some h => h.imageType.toNat != 3 && h.context.toNat == c && h.regionMask.getLsbD r
    | none => false
  | none => false

/-- Why a region refuses a staging, if it does (R138, R222). -/
def stageRefusal (s : State) (r ctx slot : Nat) : Option Status :=
  let g := regionOf s r
  if g.st = .off ∨ g.st = .retired ∨ g.bistBusy = true ∨ alignBusyFor s r = true ∨ runsOrHolds g slot = true ∨
      loadingContext s r ctx = true then some .state
  else if Tab.get none s.load.store (16 * r + ctx) = none then some .badArg
  else none

/-- Stagings queued and not yet granted a share (R137). -/
def waitingStages (s : State) : Nat := (s.ctx.queue.filter (fun j => !j.granted)).length

/-- CTX.STAGE: a command of which no region can be staged is refused in its response; otherwise each region reports its
own status (R137, R138, R146; DEDUCED, log 27). -/
def bodyCtxStage (mask ctx slot : Nat) (fast : Bool) (org : Origin) (s : State) : Ans :=
  let rs := maskRegions mask
  let good := rs.filter (fun r => (stageRefusal s r ctx slot).isNone)
  let bad := rs.filterMap (fun r => (stageRefusal s r ctx slot).map (fun st => (r, st)))
  if rs = [] then refuse s .badArg
  else if domCut s 49 then refuse s .domainOff
  else if s.load.lost then refuse s .state
  else if good = [] then refuse s (match bad with | (_, st) :: _ => st | [] => .state)
  else if 64 < waitingStages s + good.length then refuse s .busy
  else
    let new := good.map (fun r =>
      ({ org := some org, region := r, slot := slotFin slot, ctx := BitVec.ofNat 4 ctx, fast := fast, granted := false } : StageJob))
    { state := { s with ctx := { s.ctx with queue := s.ctx.queue ++ new } }, status := .pending, units := rs.length,
      after := fun s => bad.foldl (fun a x => finish org .ctxDone x.1 x.2 a) s }

/-- CTX_STAGE (R138). -/
def execCtxStage (r : Req) (mask : BitVec 32) (context : BitVec 4) (slot : BitVec 2) (fast : Bool) (s : State) :
    Host.Outcome State Fault Refusal :=
  .next (serve r 0x0301 (packFields [(32, mask.toNat), (4, context.toNat), (2, slot.toNat), (1, bit fast)])
    (bodyCtxStage mask.toNat context.toNat slot.toNat fast) s)

/-- Whether a footprint entry lists a crossing whose recorded latency differs, or that failed (check 6 of Table SCH-13). -/
def crossingBad (s : State) (f : FpEntry) : Bool :=
  s.align.record.any (fun c => c.kind == f.kind && c.column.val == f.column.toNat && c.row.val == f.row.toNat &&
    c.layer == f.layer && c.index == f.index)

/-- The tile that a footprint entry lies on, in the coding of LR_TILE: a block at its L2 tile, a pin at its site tile
(Table CFG-16; the block's is DEDUCED, log 30). -/
def fpTile (f : FpEntry) : BitVec 16 :=
  if f.kind = 3 then BitVec.ofNat 16 (tileCode false f.column.toNat (f.index.toNat / 2))
  else if f.kind = 1 then BitVec.ofNat 16 (tileCode true f.column.toNat f.row.toNat)
  else BitVec.ofNat 16 (tileCode f.layer f.column.toNat f.row.toNat)

/-- The status and the number of checks 6 and 7 where a footprint fails, with the entry (Table SCH-13). -/
def footprintCheck (s : State) (fp : List FpEntry) : Option (Status × Byte × FpEntry) :=
  match fp.find? (crossingBad s) with
  | some f => some (.retired, 6, f)
  | none => (fpRetired s fp).map (fun f => (.retired, 7, f))

/-- The frame duration at the narrowest floor of a route in ns: 20, 40 or 80 (R271). -/
def periodNs (d : ChanDesc) : Nat :=
  if d.floors.any (fun f => f.toNat == 1) then 80 else if d.floors.any (fun f => f.toNat == 2) then 40 else 20

/-- F: the period in fc at the present fabric frequency, rounded up (R100, R271). -/
def periodFc (s : State) (d : ChanDesc) : Nat := (periodNs d * s.clk.m.toNat + 39) / 40

/-- Check 8a (R100). -/
def chanCapacity (s : State) (d : ChanDesc) : Bool := decide ((d.width.toNat + 1) * periodFc s d ≤ 240 * d.slots.toNat)

/-- Check 8b (R99). -/
def chanLatency (d : ChanDesc) (n : Nat) : Bool := decide (n ≤ d.latency.toNat ∧ d.latency.toNat ≤ n + 2048)

/-- Slots of a port that may be reserved (R268). -/
def slotLimit (p : Port) : Nat := if p.encrypted then 56 else 60

/-- Whether k slots of a port are free for a reservation. -/
def slotsFree (p : Port) (k : Nat) : Bool := decide (p.slots.length + k ≤ slotLimit p)

/-- The slots of a port that a reservation takes: the k lowest free ones, without the tag slots of an encrypted link
(R268, R297; R269 leaves the choice to each device: DESIGN CHOICE, log 28). -/
def freeSlots (k : Nat) (p : Port) : List Nat :=
  ((List.range 64).filter (fun i => (Tab.get none p.slots i).isNone && !(p.encrypted && i % 16 == 15))).take k

/-- Reserves transmit slots of a port for a channel with a width floor (R268, R269). -/
def reserveSlots (n : BitVec 16) (l : List Nat) (floor : BitVec 2) (p : Port) : Port :=
  { p with slots := l.foldl (fun t i => Tab.set none t i (some n)) p.slots, floors := Tab.set 0 p.floors n.toNat floor }

/-- The payload of a reservation message as the model lays it out: channel number, slots of the link it travels, and the
width floors from that link on (R269 gives no layout: DESIGN CHOICE, log 51). -/
def reservePayload (n : BitVec 16) (slots : List Nat) (floors : List (BitVec 2)) : List Byte :=
  bytesLE 2 n.toNat ++ [BitVec.ofNat 8 slots.length] ++ slots.map (BitVec.ofNat 8) ++
    floors.map (fun f => f.zeroExtend 8)

/-- The status and LR_CHECK of check 8 and of the reservations for the channels that a context is the first to use (Table
SCH-13, R269), from what the links and the far ends show. A reservation that is refused names no check. -/
def channelCheck (s : State) (l : List (ChanDesc × ChanObs)) : Option (Status × Byte) :=
  if l.any (fun x => !chanCapacity s x.1) then some (.badArg, 0x8A)
  else if l.any (fun x => !chanLatency x.1 x.2.natural.toNat) then some (.noResource, 0x8B)
  else if l.any (fun x => !x.2.widthOk) then some (.state, 0x8C)
  else if l.any (fun x => !x.2.farAgrees) then some (.badArg, 0x8D)
  else if l.any (fun x => !x.2.slotsFree || (!x.1.dest && !slotsFree (portOf s x.2.outPort.val) x.1.slots.toNat)) then
    some (.noResource, 0)
  else none

/-- Brings a channel into use: the source reserves its slots here and sends the reservation along the route (R269). -/
def useChannel (x : ChanDesc × ChanObs) (s : State) : State :=
  let d := x.1
  let p := x.2.outPort.val
  let use : ChanUse := { desc := d, natural := x.2.natural.toNat, port := p, first := 0 }
  let s1 := { s with lnk := { s.lnk with chans := Tab.set none s.lnk.chans d.number.toNat (some use) } }
  if d.dest then s1
  else
    match d.route with
    | [] => s1
    | w :: ws =>
      let l := freeSlots d.slots.toNat (portOf s p)
      sendMgmt { kind := .reserve, route := w, routeExt := ws, ret := 6, retWords := [], hop := 0, handle := 0,
                 header := [], payload := reservePayload d.number l d.floors }
        (updPort p (reserveSlots d.number l (d.floors.headD 0)) s1)

/-- A staging ends without success: its slot is empty, and its status is reported (R109, R140). -/
def failStage (j : StageJob) (st : Status) (check : Byte) (tile : BitVec 16) (s : State) : State :=
  let s1 := { s with ctx := { s.ctx with queue := s.ctx.queue.erase j } }
  endStage j st check tile (if j.granted then emptySlot j.region j.slot.val s1 else s1)

/-- Whether a staging borrows the scrubber's share: FAST is ignored during a throttle, and at a boot load during a
rate-of-rise warning too (R136, R511, R517). -/
def effFast (s : State) (j : StageJob) : Bool :=
  j.fast && !s.thm.throttle && !(j.org.isNone && s.thm.sensors.any (fun e => e.2.ror))

/-- The next staging to receive a share: the first whose region stages no other slot, while a share is free. Three
stagings run at once, one fewer during a memory-layer initialisation, one more with FAST, and one alone during a throttle
(R135 to R137, R191, R511). -/
def nextStage (s : State) : Option StageJob :=
  let busy := s.ctx.queue.filter (fun j => j.granted)
  match s.ctx.queue.find? (fun j => !j.granted && !busy.any (fun b => b.region == j.region)) with
  | none => none
  | some j =>
    let room := if s.thm.throttle then 1 else (if s.mem.init.isSome then 2 else 3) + bit (effFast s j)
    if busy.length < room then some j else none

/-- A share is granted to the next staging: steps 2 and 3 of Table CTX-7 (R139). -/
def grantShare (chans : List ChanObs) (s : State) : State :=
  match nextStage s with
  | none => s
  | some j =>
    let r := j.region
    let k := j.slot.val
    let g := regionOf s r
    let pend := match g.pendSw with | some w => w.slot == j.slot | none => false
    match Tab.get none s.load.store (16 * r + j.ctx.toNat) with
    | none => failStage j .badArg 0 0xFFFF s
    | some c =>
      let fresh := c.chans.filter (fun d => (Tab.get none s.lnk.chans d.number.toNat).isNone)
      let seen := fresh.filterMap (fun d => (chans.find? (fun o => o.number == d.number)).map (fun o => (d, o)))
      if pend || runsOrHolds g k then failStage j .state 0 0xFFFF s
      else if seen.length ≠ fresh.length then s
      else
        let j' := { j with granted := true, fast := effFast s j }
        let s1 := emptySlot r k { s with ctx := { s.ctx with queue := s.ctx.queue.map (fun x => if x = j then j' else x) } }
        let s2 := updRegion r (fun g => g.updSlot k (fun _ => { st := .staging, ctx := j.ctx, chans := c.chans })) s1
        match footprintCheck s c.desc.footprint with
        | some (st, n, f) => failStage j' st n (fpTile f) s2
        | none =>
          match channelCheck s seen with
          | some (st, n) => failStage j' st n 0xFFFF s2
          | none => seen.foldl (fun a x => useChannel x a) s2

/-- A slot becomes verified: BLANK becomes READY, and the slot presents where none does and none has run (R116, R120,
Table CTX-7 steps 6 and 7). -/
def verifySlot (r : Nat) (k : Fin 4) (ctx : BitVec 4) (c : Stored) (s : State) : State :=
  let q : Slot := { st := .verified, ctx := ctx, desc := some c.desc, chans := c.chans, plane := c.frames }
  let s1 := updRegion r (fun g => { g.updSlot k.val (fun _ => { q with regs := initRegs q }) with
    st := if g.st = .blank then .ready else g.st }) s
  let g := regionOf s1 r
  if g.present.isNone && !g.ran then presentBorders r (updRegion r (fun g => { g with present := some k }) s1) else s1

/-- Whether staging and scrubbing of a region pause for a TSV swap of the frame bus at one of its positions (Table
BRG-6). -/
def framePaused (s : State) (r : Nat) : Bool :=
  s.start.tsvSwap.any (fun g => g.bundle == .l3l4 && regionAt (decide (16 ≤ r)) g.column.val g.row.val == r)

/-- A staging that has its share ends: steps 4 to 7 of Table CTX-7. A frame marked damaged fails check 2 (R139, R140,
R196). -/
def finishStaging (r : Nat) (obs : StageObs) (s : State) : State :=
  match s.ctx.queue.find? (fun j => j.granted && j.region == r && !framePaused s r) with
  | none => s
  | some j =>
    match Tab.get none s.load.store (16 * j.region + j.ctx.toNat) with
    | none => failStage j .crc 2 0xFFFF s
    | some c =>
      if !obs.crcOk || !obs.storeOk || !obs.readbackOk || !c.damaged.isEmpty then failStage j .crc 2 0xFFFF s
      else
        let s1 := { s with ctx := { s.ctx with queue := s.ctx.queue.erase j } }
        endStage j .ok 0 0xFFFF (verifySlot j.region j.slot j.ctx c s1)

/-! ## CTX commands that act at once -/

/-- A region whose slots are cleared is BLANK (Table CTX-2). -/
def clearRegion (r : Nat) (s : State) : State :=
  updRegion r (fun g => { g with st := .blank, resetEnd := none, swapHeld := false }) (emptyAll r s)

/-- Whether a staging of a region is queued or in progress. -/
def stagingOf (s : State) (r : Nat) : Bool := s.ctx.queue.any (fun j => j.region == r)

/-- CTX.CLEAR: one region that may not be cleared refuses the command (Table CTX-9; DEDUCED, log 29). -/
def bodyCtxClear (mask : Nat) (_org : Origin) (s : State) : Ans :=
  let rs := maskRegions mask
  let ok := fun r => (regionIs s r .ready || regionIs s r .held || regionIs s r .faulted) && !stagingOf s r
  if rs = [] then refuse s .badArg
  else if rs.all ok then done (forEach rs clearRegion s)
  else refuse s .state

/-- CTX_CLEAR (R116). -/
def execCtxClear (r : Req) (mask : BitVec 32) (s : State) : Host.Outcome State Fault Refusal :=
  .next (serve r 0x0308 (packFields [(32, mask.toNat)]) (bodyCtxClear mask.toNat) s)

/-- Empties a verified slot of a region; READY with no verified slot becomes BLANK (Table CTX-2, R607). -/
def evictSlot (k r : Nat) (s : State) : State :=
  updRegion r (fun g => if g.st = .ready ∧ anyVerified g = false then { g with st := .blank, ran := false, present := none } else g)
    (emptySlot r k s)

/-- CTX.EVICT: a slot that is not verified, or runs or is held, refuses the command; a pending switch to the slot, or one
that takes effect now, keeps the eviction from that region only (R607, Table CTX-9; DEDUCED, log 29). -/
def bodyCtxEvict (mask slot : Nat) (_org : Origin) (s : State) : Ans :=
  let rs := maskRegions mask
  let pend := fun r =>
    (match (regionOf s r).pendSw with | some w => w.slot.val == slot | none => false) ||
      ((regionOf s r).effectAt == some s.clk.fc && runsOrHolds (regionOf s r) slot)
  let ok := fun r => verified s r slot && (pend r || !runsOrHolds (regionOf s r) slot)
  if rs = [] then refuse s .badArg
  else if !rs.all ok then refuse s .state
  else
    let s1 := forEach (rs.filter (fun r => !pend r)) (evictSlot slot) s
    { state := s1, status := if rs.any pend then .state else .ok }

/-- CTX_EVICT (R607). -/
def execCtxEvict (r : Req) (mask : BitVec 32) (slot : BitVec 2) (s : State) : Host.Outcome State Fault Refusal :=
  .next (serve r 0x0309 (packFields [(32, mask.toNat), (2, slot.toNat)]) (bodyCtxEvict mask.toNat slot.toNat) s)

/-- CTX.STATUS (R118). -/
def bodyCtxStatus (mask : Nat) (_org : Origin) (s : State) : Ans :=
  let rs := maskRegions mask
  if rs = [] then refuse s .badArg
  else done s (packFields (rs.map (fun r => (64, regionStatus s r))))

/-- CTX_STATUS (R118). -/
def execCtxStatus (r : Req) (mask : BitVec 32) (s : State) : Host.Outcome State Fault Refusal :=
  .next (serve r 0x030A (packFields [(32, mask.toNat)]) (bodyCtxStatus mask.toNat) s)

/-- CTX.WINDOW (R130). -/
def bodyCtxWindow (p : Nat) (_org : Origin) (s : State) : Ans :=
  if p < 10 ∨ 20 < p then refuse s .badArg
  else if s.ctx.armed ≠ [] then refuse s .busy
  else done { s with ctx := { s.ctx with p := BitVec.ofNat 5 p } }

/-- CTX_WINDOW (R130). -/
def execCtxWindow (r : Req) (p : BitVec 5) (s : State) : Host.Outcome State Fault Refusal :=
  .next (serve r 0x030B (packFields [(5, p.toNat)]) (bodyCtxWindow p.toNat) s)

end Sys2Proof.Machine
end

