-- ==== Sys2Proof/Machine/Loader.lean ====
section
/-! DEFINITION. The loader: images and their checks, the boot load, the workspace ring and CFG_STREAM, readback, and the
CFG commands (chapter 06, checks 1 to 7 of Table SCH-13). -/

namespace Sys2Proof.Machine

/-! ## Checks -/

/-- Check 1 at the header: SIGNER_KEY is an enrolled owner key of the life-cycle state, SIGNATURE verifies, and the key
slot of an encrypted image holds a key (R198, R199, Table SEC-2). -/
def headerAuth (s : State) (h : ImgHeader) : Bool :=
  (s.sec.life == 2 || s.sec.life == 3) &&
    (List.range 8).any (fun i =>
      let o := Tab.get {} s.sec.owners i
      o.written && !o.revoked && o.digest == Config.sha384 h.signerKey) &&
    Config.ecdsaVerify h.signerKey (Config.sha384 h.signedBytes) h.signature &&
    (!h.flags.getLsbD 0 ||
      (let k := Tab.get {} s.sec.keys h.keySlot.toNat
       decide (h.keySlot.toNat < 4) && k.written && !k.revoked))

/-- Check 4 of a header: magic, version, type, reserved bits and the fields that a type leaves 0 (Tables CFG-2 and
CFG-3, R199). -/
def headerForm (h : ImgHeader) : Bool :=
  h.magic == 0x4D49414B && h.hdrVersion == 1 && (h.imageType == 1 || h.imageType == 2) && decide (h.flags.toNat < 16) &&
    decide (1 ≤ h.sectionCount.toNat ∧ h.sectionCount.toNat ≤ 1024) && h.sectionTableOffset == 512 && h.reservedZero &&
    decide (h.context.toNat < 16) && decide (h.keySlot.toNat < 4) && decide (h.initIndex.toNat < 256) &&
    (if h.imageType = 1 then h.initIndex == 0 else h.regionMask == 0 && h.context == 0) &&
    (h.flags.getLsbD 0 || (h.gcmIv == 0 && h.gcmTag == 0))

/-- A failure with no place. -/
def plainFail (st : Status) (check : Byte) : LoadFail :=
  { status := st, check := check, region := 0xFF, tile := 0xFFFF, frame := 0xFFFF }

/-- Every select of a list has exactly one bit set (R66, R68). -/
def oneHot {α : Type} (l : List (List α)) : Bool := l.all (fun x => x.length == 1)

/-- Check 3 of a frame: one-hot selects (R68). -/
def frameOneHot (p : FramePart) : Bool :=
  match p with
  | .luts _ => true
  | .xbar c => c.a.all oneHot && oneHot c.dx && oneHot c.dy && oneHot c.ce && oneHot c.sr && oneHot c.msel && oneHot [c.cin]
  | .switch c => oneHot c.segs && oneHot c.vx && oneHot c.vm && oneHot [c.coIn] && oneHot [c.coCe]
  | .regs c => oneHot (c.ffa.map (fun f => f.input)) && oneHot (c.ffb.map (fun f => f.input)) && oneHot [c.carryIn]

/-- Check 4 of a frame: it decodes as its position says, and no border value code is 0b11 (R119, Table CFG-5). -/
def frameForm (kind : Nat) (p : FramePart) : Bool :=
  let ok := fun (l : List (BitVec 2)) => l.all (fun c => c != 3)
  match p with
  | .luts _ => kind == 0
  | .xbar _ => kind == 1
  | .switch _ => kind == 2
  | .regs c => kind == 3 && ok c.borderSegs && ok [c.borderCarry] && ok c.borderVx && ok c.borderVm && ok c.borderFace

/-- The frame address word (Table CFG-6). -/
def frameAddr (r tile frame : Nat) : Nat :=
  fieldsWord [(0, frame), (10, tileRow r tile), (15, tileColumn r tile), (20, r / 16)]

/-- The CRC of a frame at its place (R204). -/
def frameCrc (r tile frame : Nat) (data : BitVec 1024) : BitVec 32 :=
  crc32c (bytesLE 128 data.toNat ++ bytesLE 4 (frameAddr r tile frame))

/-- LR_TILE of a tile of a region (Table CFG-16). -/
def regionTileCode (r tile : Nat) : Nat := tileCode (decide (16 ≤ r)) (tileColumn r tile) (tileRow r tile)

/-- Checks 2, 3 and 4 of a frame at its place in the stream (Table SCH-13). -/
def frameCheck (r tile frame : Nat) (data : BitVec 1024) (crc : BitVec 32) : Option (Status × Byte) :=
  let p := Config.decodeFrame (Fin.ofNat 4 frame) data
  if crc ≠ frameCrc r tile frame data then some (.crc, 2)
  else if !frameOneHot p then some (.badArg, 3)
  else if !frameForm (frame % 4) p then some (.badArg, 4)
  else none

/-- Whether a footprint entry holds no reserved encoding (Table CFG-8). -/
def fpForm (f : FpEntry) : Bool :=
  let k := f.kind.toNat
  let i := f.index.toNat
  decide (k ≤ 7 ∧ f.column.toNat < 24 ∧ f.row.toNat < 24) &&
    (k != 1 || i ≤ 1) && (k != 2 || i ≤ 2) && (k != 3 || (i < 48 && f.row == 0)) && (k != 4 || i ≤ 2)

/-- Whether a section table has the form of R200 and R201 for a header. -/
def sectionsForm (h : ImgHeader) (t : List SectionEntry) : Bool :=
  let regions := bitsOf h.regionMask
  let count := fun (ty : Nat) (r : Nat) => (t.filter (fun e => e.secType.toNat == ty && e.region.toNat == r)).length
  let ordered := (t.zip (t.drop 1)).all (fun p => decide (p.1.offset.toNat + p.1.length.toNat ≤ p.2.offset.toNat))
  t.length == h.sectionCount.toNat && ordered &&
    t.all (fun e => e.reservedZero && e.offset.toNat % 8 == 0 &&
      decide (512 + 32 * t.length ≤ e.offset.toNat ∧ e.offset.toNat + e.length.toNat ≤ h.imageLen.toNat) &&
      decide (1 ≤ e.secType.toNat ∧ e.secType.toNat ≤ 5) && (e.secType.toNat < 4 || e.region == 0)) &&
    (if h.imageType = 1 then
      t.all (fun e => e.secType.toNat == 4 || (e.secType.toNat < 4 && regions.contains e.region.toNat)) &&
      t.all (fun e => e.secType.toNat != 1 || e.length.toNat == 4866048) &&
      regions.all (fun r => count 1 r == 1 && count 3 r == 1 && count 2 r == bit (h.flags.getLsbD 2)) &&
      decide (count 4 0 ≤ 1)
    else t.length == 1 && count 5 0 == 1)

/-- Whether a run list is well formed: ascending, not overlapping, within the frame (R208). -/
def runsForm (l : List (Nat × Nat)) : Bool :=
  l.all (fun x => decide (x.1 < 1024 ∧ 1 ≤ x.2 ∧ x.1 + x.2 ≤ 1024)) &&
    (l.zip (l.drop 1)).all (fun p => decide (p.1.1 + p.1.2 ≤ p.2.1))

/-- Whether a tile map is well formed (R207, R208, Table CFG-10). -/
def mapForm (m : TileMap) : Bool :=
  decide (m.flags.toNat < 3) &&
    m.frames.all (fun f => decide (f.1 < 1024) && (match f.2 with | .runs l => runsForm l | _ => true))

/-- Whether a channel descriptor is well formed: its route has one selector for each link and then selector 6, in as many
words as that takes, and a floor for each link (R206, Table CFG-9). -/
def chanForm (d : ChanDesc) : Bool :=
  let h := d.floors.length
  let sels := d.route.flatMap (fun w => (List.range 21).map (routeSel w))
  decide (8 ≤ d.width.toNat ∧ d.width.toNat ≤ 64 ∧ 1 ≤ h) && d.route.length == (h + 21) / 21 &&
    (sels.take h).all (fun x => decide (x < 6)) && sels.getD h 0 == 6 && d.floors.all (fun f => f != 0)

/-- Whether a block entry is well formed (Table MEM-10). -/
def entryForm (e : BlockEntry) : Bool :=
  decide (e.block.toNat < 1152) && (legalMode e.mode.toNat e.capLog2.toNat e.creditInit.toNat).isSome &&
    decide (e.flags.toNat < 4 ∧ e.wordCount.toNat ≤ 8192 ∧ e.startWord.toNat + e.wordCount.toNat ≤ 8192)

/-! ## The load in progress -/

/-- Changes the load in progress. -/
def updJob (f : LoadJob → LoadJob) (s : State) : State :=
  match s.load.job with
  | some j => { s with load := { s.load with job := some (f j) } }
  | none => s

/-- The first failure of a load stands (R225). -/
def failJob (x : LoadFail) (s : State) : State :=
  updJob (fun j => match j.fail with | some _ => j | none => { j with fail := some x }) s

/-- The result record of a load that ends (R225, Table CFG-16). -/
def setResult (j : LoadJob) (x : LoadFail) (s : State) : State :=
  let id := match j.hdr with | some h => h.buildId | none => 0
  { s with load := { s.load with result :=
      { status := x.status, check := x.check, source := j.source.zeroExtend 8, region := x.region, tile := x.tile,
        frame := x.frame, bytes := BitVec.ofNat 64 j.bytes, buildId := id } } }

/-- A load that succeeds has no failure to report. -/
def noFail : LoadFail := plainFail .ok 0

/-- Makes a region BLANK with its slots empty, where it is not OFF or RETIRED (R218). -/
def blankRegion (r : Nat) (s : State) : State :=
  if regionIs s r .off ∨ regionIs s r .retired then s
  else clearRegion r (endStagings r .state (if regionIs s r .running then leaveRunning r .ready 1 s else s))

/-- The boot load fails as a whole: what it wrote becomes absent, every region is BLANK, ERROR_N asserts, and the command
that began it completes (R107, R218). -/
def bootFail (x : LoadFail) (s : State) : State :=
  let l := s.load
  let l1 := { l with
    store := l.store.filter (fun e => !l.wrote.contains e.1), inits := l.inits.filter (fun e => !l.wroteInits.contains e.1),
    job := none, boot := .failed, wrote := [], wroteInits := [], flagged := [], toApply := [], bootFault := none,
    bootOrg := none, result := { l.result with status := x.status, check := x.check, region := x.region, tile := x.tile,
                                               frame := x.frame } }
  let armed := s.ctx.armed.filter (fun a => a.org.isSome)
  let s1 := { s with load := l1, ctx := { s.ctx with armed := armed, queue := s.ctx.queue.filter (fun j => j.org.isSome) } }
  finishOpt l.bootOrg .cfgDone noUnit x.status (assertError (forEach (List.range 32) blankRegion s1))

/-- Ends the load in progress with a failure: a boot load fails as a whole, a load in service completes its command and
leaves the store as it was (R108, R218). -/
def endFailed (x : LoadFail) (s : State) : State :=
  match s.load.job with
  | none => s
  | some j =>
    let s1 := setResult j x { s with load := { s.load with job := none } }
    if j.boot then bootFail x s1 else finishOpt j.org .cfgDone noUnit x.status s1

/-- A job for an image of a source. -/
def newJob (org : Option Origin) (source : BitVec 2) (boot : Bool) (images : List (W64 × BitVec 32)) : LoadJob :=
  { org := org, source := source, boot := boot, images := images, hdr := none, sections := [], built := [], entries := [],
    descs := [], fail := none, bytes := 0, nextFrame := [] }

/-- Begins a load: LR_STATUS is ST_PENDING, and a load from the ring sets both pointers to 0 (R214, R225). -/
def startLoad (org : Option Origin) (source : BitVec 2) (boot : Bool) (images : List (W64 × BitVec 32)) (s : State) : State :=
  let l := s.load
  { s with load := { l with
      job := some (newJob org source boot images)
      result := { status := .pending, source := source.zeroExtend 8 }
      wptr := if source = 1 then 0 else l.wptr, rptr := if source = 1 then 0 else l.rptr
      jtagBits := if source = 2 then [] else l.jtagBits, jtagBytes := if source = 2 then [] else l.jtagBytes
      boot := if boot then .loading else l.boot
      bootOrg := if boot then org else l.bootOrg, bootFault := if boot then none else l.bootFault
      wrote := if boot then [] else l.wrote, wroteInits := if boot then [] else l.wroteInits
      flagged := if boot then [] else l.flagged, toApply := if boot then [] else l.toApply } }

/-! ## The boot load -/

/-- The first switch window boundary after now. -/
def nextBoundary (s : State) : Nat := (s.clk.time.toNat / 2 ^ s.ctx.p.toNat + 1) * 2 ^ s.ctx.p.toNat

/-- The place of a region in the order in which a command's stagings are served (R137). -/
def bootStages (l : List (Nat × BitVec 4)) : List StageJob :=
  ((List.range 32).flatMap (fun r => l.filter (fun x => x.1 == r))).map (fun x =>
    { org := none, region := x.1, slot := 0, ctx := x.2, fast := true, granted := false })

/-- Moves the boot load on where it can: initialisation images one after the other, then the stagings of the flagged
regions, then their start at the next boundary; a failure on the way fails it as a whole (Table CFG-15 steps 5 to 7,
R218). -/
def bootCheck (s : State) : State :=
  match s.load.bootFault, s.load.boot with
  | some x, .applying => bootFail x s
  | some x, .staging => bootFail x s
  | some x, .starting => bootFail x s
  | none, .applying =>
    if s.mem.init.isSome then s
    else
      match s.load.toApply with
      | i :: rest =>
        let entries := match Tab.get none s.load.inits i with | some x => x.entries | none => []
        startInit none i entries { s with load := { s.load with toApply := rest } }
      | [] =>
        let fl := s.load.flagged
        match fl.findSome? (fun x => (stageRefusal s x.1 x.2.toNat 0).map (fun st => (x.1, st))) with
        | some (r, st) => bootFail { plainFail st 0 with region := BitVec.ofNat 8 r } s
        | none =>
          { s with load := { s.load with boot := if fl = [] then .starting else .staging }
                   ctx := { s.ctx with queue := s.ctx.queue ++ bootStages fl } }
  | none, .staging =>
    if s.load.flagged.all (fun x => verified s x.1 0 && !stagingOf s x.1) then
      let b := nextBoundary s
      let new := s.load.flagged.map (fun x =>
        ({ org := none, kind := .start, region := x.1, slot := 0, init := true, b := BitVec.ofNat 64 b } : Armed))
      { s with load := { s.load with boot := .starting }, ctx := { s.ctx with armed := s.ctx.armed ++ new } }
    else s
  | _, _ => s

/-- BOOT_LOAD_START (R210, R212, R217, R444): once alignment is complete and firmware runs the boot source is opened. JTAG loads only by a
CFG.LOAD or CFG_STREAM of its own, and a reserved MODE asserts ERROR_N. -/
def execBootLoadStart (dir : BootDir) (s : State) : Host.Outcome State Fault Refusal :=
  if s.load.boot ≠ .waiting ∨ s.load.job.isSome = true ∨ s.align.busy = true ∨ s.start.bistDone = false ∨ s.start.held = true ∨
      s.start.nocFailed = true ∨ s.start.storeFailed = true ∨ domCut s 49 = true ∨ s.mbx.fw = none then .next s
  else
    match s.ext.mode.toNat with
    | 0 =>
      let s1 := startLoad none 0 true dir.entries s
      if dir.magic = 0x4442414B ∧ dir.version = 1 ∧ 1 ≤ dir.entryCount.toNat ∧ dir.entryCount.toNat ≤ 32 ∧
          dir.entries.length = dir.entryCount.toNat then .next s1
      else .next (endFailed (plainFail .badArg 0) s1)
    | 1 => .next (startLoad none 1 true [] s)
    | 2 => .next (startLoad none 1 true [] s)
    | 3 => .next (startLoad none 2 true [] s)
    | _ => .next (assertError s)

/-- BOOT_LOAD_COMPLETE (R217 step 9, R218): DONE is released, and ERROR_N with it. -/
def execBootLoadComplete (s : State) : Host.Outcome State Fault Refusal :=
  if s.load.boot = .starting ∧ s.load.bootFault = none ∧ s.load.flagged.all (fun x => regionIs s x.1 .running) = true then
    let o := s.load.bootOrg
    .next (finishOpt o .cfgDone noUnit .ok
      { s with load := { s.load with boot := .complete, bootOrg := none, result := { s.load.result with status := .ok } }
               ext := { s.ext with done := true, error := false } })
  else .next s

/-! ## Receiving an image -/

/-- Context areas of a region that are free (R194, R222; row 16 of Table BRG-3 withdraws areas). -/
def freeAreas (s : State) (r : Nat) : Nat :=
  16 - ((List.range 16).filter (fun c => (Tab.get none s.load.store (16 * r + c)).isSome)).length -
    Tab.get 0 s.start.withdrawn r

/-- Whether a slot of a region holds a context, or a staging of it is queued or in progress (R114, R222). -/
def contextUsed (s : State) (r c : Nat) : Bool :=
  (List.range 4).any (fun k =>
    let q := (regionOf s r).slot k
    !(q.st == .empty) && q.ctx.toNat == c) ||
    s.ctx.queue.any (fun j => j.region == r && j.ctx.toNat == c)

/-- Bytes that the initialisation images take (Table CFG-1). -/
def initBytes (s : State) : Nat := s.load.inits.foldl (fun n e => match e.2 with | some i => n + i.bytes | none => n) 0

/-- Why a load in service is refused once its header names what it would write, if it is: judged when the header arrives,
which is when this model's loader reads it (R222, R223; log 32). A boot load needs the free area as well. -/
def loadRefusal (s : State) (j : LoadJob) (h : ImgHeader) : Option Status :=
  if h.imageType = 1 then
    let rs := bitsOf h.regionMask
    if !j.boot && rs.any (fun r => contextUsed s r h.context.toNat) then some .state
    else if rs.any (fun r => freeAreas s r == 0) then some .noResource
    else none
  else
    if !j.boot && (match s.mem.init with | some i => i.index == h.initIndex.toNat | none => false) then some .state
    else if 2 ^ 29 < initBytes s + h.imageLen.toNat then some .noResource
    else none

/-- Bytes that the ring holds for the loader, for a load from the ring (R213). -/
def ringHas (s : State) (j : LoadJob) (n : Nat) : Bool := j.source != 1 || decide (s.load.rptr.toNat + n ≤ s.load.wptr.toNat)

/-- The loader consumes n bytes of its source (R213, R215, R225). -/
def consume (n : Nat) (s : State) : State :=
  match s.load.job with
  | none => s
  | some j =>
    let l := { s.load with job := some { j with bytes := j.bytes + n } }
    { s with load :=
        if j.source = 1 then { l with rptr := l.rptr + BitVec.ofNat 64 n }
        else if j.source = 2 then { l with jtagBytes := l.jtagBytes.drop n }
        else l }

/-- LOAD_IMAGE_HEADER (R197 to R199, R220, R222): check 1 on the header ends the load at once; checks 4 and 5, and a region
flagged twice, let it be consumed to its end. -/
def execLoadImageHeader (h : ImgHeader) (s : State) : Host.Outcome State Fault Refusal :=
  match s.load.job with
  | none => .next s
  | some j =>
    if j.hdr.isSome ∨ ringHas s j 512 = false then .next s
    else
      let s1 := consume 512 (updJob (fun j => { j with hdr := some h }) s)
      let starts := h.flags.getLsbD 1 && h.imageType == 1
      let wrongLen := match j.images with | (_, n) :: _ => n.toNat != 0 && n.toNat != h.imageLen.toNat | [] => false
      if !headerAuth s h then .next (endFailed (plainFail .auth 1) s1)
      else if !headerForm h || wrongLen then .next (failJob (plainFail .badArg 4) s1)
      else if h.contractRev ≠ 1 then .next (failJob (plainFail .badArg 5) s1)
      else if j.boot && starts && s.load.flagged.any (fun x => h.regionMask.getLsbD x.1) then
        .next (failJob (plainFail .badArg 0) s1)
      else
        match loadRefusal s j h with
        | some st => .next (endFailed (plainFail st 0) s1)
        | none => .next s1

/-- Bytes of an element of the image stream as the image stores it (Tables CFG-4 to CFG-11, MEM-10). -/
def itemBytes (x : LoadItem) : Nat :=
  match x with
  | .sections t => 32 * t.length
  | .frame _ _ _ _ _ => 132
  | .descriptor d _ => 16 + 8 * d.footprint.length
  | .tileMap _ _ m =>
    if m.flags ≠ 0 then 8
    else
      alignUp (m.frames.foldl (fun n f => match f.2 with
        | .literal _ => n + 128
        | .runs l => n + alignUp (2 + 4 * l.length) 4
        | _ => n) 2056) 8
  | .channels l _ =>
    l.foldl (fun n d => n + 32 + 8 * (d.route.length - 1) + 8 * ((d.floors.length - 32 + 31) / 32)) 0
  | .blockEntry e => 16 + (if e.flags.getLsbD 1 then 0 else if e.flags.getLsbD 0 then 8 else 8 * e.wordCount.toNat)

/-- The context of a region as the load builds it. -/
def builtOf (h : ImgHeader) (j : LoadJob) (r : Nat) : Stored :=
  (Tab.get none j.built r).getD
    { frames := [], desc := { region := Fin.ofNat 32 r, action := 0, footprint := [] }, mapPresent := h.flags.getLsbD 2,
      maps := [], chans := [], buildId := h.buildId, encrypted := h.flags.getLsbD 0, damaged := [], fallback := [] }

/-- Changes the context of a region as the load builds it. -/
def updBuilt (h : ImgHeader) (r : Nat) (f : Stored → Stored) (j : LoadJob) : LoadJob :=
  { j with built := Tab.set none j.built r (some (f (builtOf h j r))) }

/-- Applies checks 2 to 7 to one element and stores it (R204, R225, Table SCH-13). -/
def takeItem (s : State) (h : ImgHeader) (j : LoadJob) (x : LoadItem) : LoadJob :=
  let fail := fun (y : LoadFail) => { j with fail := some y }
  let inMask := fun (r : Fin 32) => h.imageType == 1 && h.regionMask.getLsbD r.val
  match x with
  | .sections t => if sectionsForm h t then { j with sections := t } else fail (plainFail .badArg 4)
  | .frame r tile f data crc =>
    let at_ := 1024 * tile.val + f.val
    let bad := fun (st : Status) (n : Byte) =>
      fail { status := st, check := n, region := BitVec.ofNat 8 r.val, tile := BitVec.ofNat 16 (regionTileCode r.val tile.val),
             frame := BitVec.ofNat 16 f.val }
    if !inMask r then fail (plainFail .badArg 4)
    else if Tab.get 0 j.nextFrame r.val ≠ at_ then bad .crc 2
    else
      match frameCheck r.val tile.val f.val data crc with
      | some (st, n) => bad st n
      | none =>
        updBuilt h r.val (fun c => { c with frames := Tab.set 0 c.frames at_ data })
          { j with nextFrame := Tab.set 0 j.nextFrame r.val (at_ + 1) }
  | .descriptor d z =>
    if !inMask d.region || !z || d.action == 3 || !d.footprint.all fpForm then fail (plainFail .badArg 4)
    else
      match footprintCheck s d.footprint with
      | some (st, n, f) =>
        fail { status := st, check := n, region := BitVec.ofNat 8 d.region.val, tile := fpTile f, frame := 0xFFFF }
      | none => updBuilt h d.region.val (fun c => { c with desc := d }) { j with descs := j.descs ++ [d.region.val] }
  | .tileMap r tile m =>
    if !inMask r || !h.flags.getLsbD 2 || !mapForm m then
      fail { status := .badArg, check := 4, region := BitVec.ofNat 8 r.val,
             tile := BitVec.ofNat 16 (regionTileCode r.val tile.val), frame := 0xFFFF }
    else updBuilt h r.val (fun c => { c with maps := Tab.set none c.maps tile.val (some m) }) j
  | .channels l z =>
    if h.imageType ≠ 1 ∨ !z ∨ l = [] ∨ 64 < l.length ∨ !l.all chanForm then fail (plainFail .badArg 4)
    else
      (bitsOf h.regionMask).foldl (fun j r =>
        updBuilt h r (fun c => { c with chans := l.filter (fun d => portRegion d.nocPort.val == r) }) j) j
  | .blockEntry e =>
    if h.imageType ≠ 2 ∨ !entryForm e then fail (plainFail .badArg 4) else { j with entries := j.entries ++ [e] }

/-- LOAD_FRAME_RECEIVED (R204, R225): after a failure the rest of the image is consumed and nothing is written. -/
def execLoadFrameReceived (x : LoadItem) (s : State) : Host.Outcome State Fault Refusal :=
  match s.load.job with
  | none => .next s
  | some j =>
    match j.hdr with
    | none => .next s
    | some h =>
      if ringHas s j (itemBytes x) = false then .next s
      else .next (consume (itemBytes x) (updJob (fun j => if j.fail.isSome then j else takeItem s h j x) s))

/-- Whether every frame, descriptor and map of an image has arrived (R200, R201). -/
def imageWhole (h : ImgHeader) (j : LoadJob) : Bool :=
  !j.sections.isEmpty &&
    (if h.imageType = 1 then
      (bitsOf h.regionMask).all (fun r => Tab.get 0 j.nextFrame r == 36864 && j.descs.contains r &&
        (!h.flags.getLsbD 2 || (List.range 36).all (fun t => (Tab.get none (builtOf h j r).maps t).isSome)))
    else true)

/-- Commits an image to the directories (R194, R217 step 4). -/
def commitImage (h : ImgHeader) (j : LoadJob) (s : State) : State :=
  let l := s.load
  if h.imageType = 1 then
    let rs := bitsOf h.regionMask
    let key := fun r => 16 * r + h.context.toNat
    { s with load := { l with
        store := rs.foldl (fun t r => Tab.set none t (key r) (some (builtOf h j r))) l.store
        lost := false
        wrote := if j.boot then l.wrote ++ rs.map key else l.wrote
        flagged := if j.boot && h.flags.getLsbD 1 then l.flagged ++ rs.map (fun r => (r, h.context.extractLsb' 0 4))
                   else l.flagged } }
  else
    let i := h.initIndex.toNat
    let img : InitImage := { entries := j.entries, apply := h.flags.getLsbD 3, bytes := h.imageLen.toNat, buildId := h.buildId }
    { s with load := { l with
        inits := Tab.set none l.inits i (some img)
        wroteInits := if j.boot then l.wroteInits ++ [i] else l.wroteInits
        toApply := if j.boot && img.apply then l.toApply ++ [i] else l.toApply } }

/-- After an image that passed: the next image of the directory, the later steps of the boot load, or the end of a load in
service (R212, R217, R221). -/
def afterImage (j : LoadJob) (s : State) : State :=
  match (if j.boot then j.images.drop 1 else []) with
  | x :: rest => { s with load := { s.load with job := some { newJob j.org j.source true (x :: rest) with bytes := 0 } } }
  | [] =>
    let s1 := { s with load := { s.load with job := none } }
    if j.boot then
      bootCheck { s1 with load := { s1.load with boot := .applying, result := { s1.load.result with status := .pending } } }
    else finishOpt j.org .cfgDone noUnit .ok s1

/-- LOAD_IMAGE_END (R198, R199, R225): the digest and the tag complete check 1, which is reported before any other
failure; an image that passes is committed. -/
def execLoadImageEnd (digest : BitVec 384) (tagOk : Bool) (s : State) : Host.Outcome State Fault Refusal :=
  match s.load.job with
  | none => .next s
  | some j =>
    match j.hdr with
    | none => .next s
    | some h =>
      let left := h.imageLen.toNat - j.bytes
      if ringHas s j left = false then .next s
      else
        let s1 := consume left s
        let j1 := { j with bytes := j.bytes + left }
        if digest ≠ h.payloadDigest ∨ (h.flags.getLsbD 0 = true ∧ tagOk = false) then .next (endFailed (plainFail .auth 1) s1)
        else
          match j.fail with
          | some x => .next (endFailed x s1)
          | none =>
            if !imageWhole h j then .next (endFailed (plainFail .badArg 4) s1)
            else .next (afterImage j1 (setResult j1 noFail (commitImage h j1 s1)))

/-- STAGING_SHARE_GRANT (R139). -/
def execStagingShareGrant (chans : List ChanObs) (s : State) : Host.Outcome State Fault Refusal :=
  .next (bootCheck (grantShare chans s))

/-- STAGING_DONE (R139). -/
def execStagingDone (region : Fin 32) (obs : StageObs) (s : State) : Host.Outcome State Fault Refusal :=
  .next (bootCheck (finishStaging region.val obs s))

/-- MEM_INIT_DONE (R192): EV_MEM_INIT_DONE ends a CFG.MEM_INIT; a failure in the boot load fails it (R218). -/
def execMemInitDone (crcOk : Bool) (reached words : Nat) (s : State) : Host.Outcome State Fault Refusal :=
  match s.mem.init with
  | none => .next s
  | some j =>
    let st := if crcOk then Status.ok else Status.crc
    let s1 := endInit j crcOk reached words s
    match j.org with
    | some o => .next (finish o .memInitDone noUnit st s1)
    | none =>
      .next (bootCheck (if crcOk then s1 else { s1 with load := { s1.load with bootFault := some (plainFail .crc 2) } }))

/-! ## The workspace ring and CFG_STREAM -/

/-- The address of CFG_WS_WPTR (Table CFG-14). -/
def wptrAddr : Nat := 0x082002000000

/-- Whether a master may write the workspace window and CFG_WS_WPTR: PCIe PF1, Barista, and TXN transactions from the
upstream port (R213). -/
def wsWriter (s : State) (src : Nat) : Bool :=
  src == 70 || src == 72 || (match s.lnk.upstream with | some p => src == 64 + p | none => false)

/-- A write to CFG_WS_WPTR (R214). -/
def setWptr (v : W64) (s : State) : State :=
  if v.toNat < s.load.wptr.toNat ∨ s.load.rptr.toNat + 2 ^ 27 < v.toNat then
    { s with load := { s.load with ptrErr := true } }
  else { s with load := { s.load with wptr := v } }

/-- CFG_WS_WPTR_WRITE (R213, R214). -/
def execCfgWsWptrWrite (src : BitVec 8) (value : W64) (s : State) : Host.Outcome State Fault Refusal :=
  if protDenied s src.toNat wptrAddr ∨ wsWriter s src.toNat = false then .next (answerWrite src wptrAddr .denied s)
  else .next (answerWrite src wptrAddr .ok (setWptr value s))

/-- The whole bytes at the front of a bit stream, least significant bit first, and the bits left (R215). -/
def bytesOfBits : Nat → List Bool → List Byte × List Bool
  | 0, l => ([], l)
  | n + 1, l =>
    if l.length < 8 then ([], l)
    else
      let b := BitVec.ofNat 8 (fieldsWord ((l.take 8).zipIdx.map (fun x => (x.2, bit x.1))))
      (b :: (bytesOfBits n (l.drop 8)).1, (bytesOfBits n (l.drop 8)).2)

/-- JTAG_CFG_STREAM (R215): a load from CFG_STREAM takes the bits; without one they are discarded. A load of that source
that has already failed takes no more, and check 2 fails. -/
def execJtagCfgStream (bits : List Bool) (s : State) : Host.Outcome State Fault Refusal :=
  match s.load.job with
  | none => .next s
  | some j =>
    if j.source ≠ 2 then .next s
    else
      let r := bytesOfBits (bits.length + s.load.jtagBits.length) (s.load.jtagBits ++ bits)
      .next { s with load := { s.load with jtagBits := r.2, jtagBytes := s.load.jtagBytes ++ r.1 } }

/-! ## Commands -/

/-- CFG.LOAD: the first load after RESET_N, and one after a failed boot load, is a boot load (R216 to R218, R221, R224). -/
def bodyCfgLoad (source offset : Nat) (org : Origin) (s : State) : Ans :=
  let running := s.load.job.isSome || s.load.boot == .applying || s.load.boot == .staging || s.load.boot == .starting
  let boot := s.load.boot == .waiting || s.load.boot == .failed
  if source = 3 then refuse s .badArg
  else if domCut s 49 then refuse s .domainOff
  else if running then refuse s .busy
  else
    { state := startLoad (some org) (BitVec.ofNat 2 source) boot (if source = 0 then [(BitVec.ofNat 64 offset, 0)] else []) s,
      status := .pending }

/-- CFG_LOAD (R221). -/
def execCfgLoad (r : Req) (source : BitVec 2) (offset : BitVec 32) (s : State) : Host.Outcome State Fault Refusal :=
  .next (serve r 0x0201 (packFields [(2, source.toNat), (32, offset.toNat)]) (bodyCfgLoad source.toNat offset.toNat) s)

/-- CFG.STATUS: the load result record (Table CFG-16). -/
def bodyCfgStatus (_org : Origin) (s : State) : Ans :=
  let x := s.load.result
  done s (packFields [(8, x.status.code), (8, x.check.toNat), (8, x.source.toNat), (8, x.region.toNat), (16, x.tile.toNat),
    (16, x.frame.toNat), (64, x.bytes.toNat), (128, x.buildId.toNat)])

/-- CFG_STATUS (R225). -/
def execCfgStatus (r : Req) (s : State) : Host.Outcome State Fault Refusal :=
  .next (serve r 0x0202 [] bodyCfgStatus s)

/-- CFG.LIST: the present mask and the BUILD_ID of each present context (R237). -/
def bodyCfgList (region : Nat) (_org : Origin) (s : State) : Ans :=
  let here := (List.range 16).filterMap (fun c => (Tab.get none s.load.store (16 * region + c)).map (fun x => (c, x)))
  done s (packFields ((16, here.foldl (fun n x => n + 2 ^ x.1) 0) :: here.map (fun x => (128, x.2.buildId.toNat))))

/-- CFG_LIST (R237). -/
def execCfgList (r : Req) (region : BitVec 5) (s : State) : Host.Outcome State Fault Refusal :=
  .next (serve r 0x0203 (packFields [(5, region.toNat)]) (bodyCfgList region.toNat) s)

/-- CFG.DELETE: an empty mask, or a region without the context, is ST_BAD_ARG (R114, R237; DEDUCED, log 33). -/
def bodyCfgDelete (mask ctx : Nat) (_org : Origin) (s : State) : Ans :=
  let rs := maskRegions mask
  if rs = [] ∨ rs.any (fun r => (Tab.get none s.load.store (16 * r + ctx)).isNone) then refuse s .badArg
  else if rs.any (fun r => contextUsed s r ctx || loadingContext s r ctx) then refuse s .state
  else done { s with load := { s.load with store := rs.foldl (fun t r => Tab.set none t (16 * r + ctx) none) s.load.store } }

/-- CFG_DELETE (R237). -/
def execCfgDelete (r : Req) (mask : BitVec 32) (context : BitVec 4) (s : State) : Host.Outcome State Fault Refusal :=
  .next (serve r 0x0204 (packFields [(32, mask.toNat), (4, context.toNat)]) (bodyCfgDelete mask.toNat context.toNat) s)

/-- The tile of a region that an LR_TILE code names, if it lies in the region (Table CFG-16). -/
def tileOfCode (r code : Nat) : Option Nat := (List.range 36).find? (fun t => regionTileCode r t == code)

/-- Whether the stored context behind a readback came from an encrypted image (R227). -/
def readEncrypted (s : State) (r source number : Nat) : Bool :=
  let c := if source = 0 then number else ((regionOf s r).slot number).ctx.toNat
  match Tab.get none s.load.store (16 * r + c) with
  | some x => x.encrypted
  | none => false

/-- CFG.READBACK (R226, R227, Table CFG-18). -/
def bodyCfgReadback (region source number tile frame count wsOffset : Nat) (org : Origin) (s : State) : Ans :=
  let limit := if source = 2 then 8 else 1024
  let k := (regionOf s region).slot number
  if source = 3 ∨ (source ≠ 0 ∧ 4 ≤ number) ∨ tileOfCode region tile = none ∨ count = 0 ∨ limit < frame + count ∨
      2 ^ 27 < wsOffset + 132 * count then refuse s .badArg
  else if domCut s 49 then refuse s .domainOff
  else if source = 0 ∧ Tab.get none s.load.store (16 * region + number) = none then refuse s .badArg
  else if s.sec.life = 3 ∨ s.sec.life = 4 ∨ readEncrypted s region source number = true then refuse s .denied
  else if source ≠ 0 ∧ k.st = .empty then refuse s .state
  else if source = 2 ∧ (k.st = .staging ∨ (regionIs s region .running = true ∧ runsOrHolds (regionOf s region) number = true)) then
    refuse s .state
  else
    let j : ReadJob := { org := org, region := region, source := BitVec.ofNat 2 source, number := BitVec.ofNat 4 number,
                         tile := BitVec.ofNat 11 tile, frame := BitVec.ofNat 10 frame, count := BitVec.ofNat 11 count,
                         wsOffset := BitVec.ofNat 27 wsOffset }
    { state := { s with ctx := { s.ctx with reads := s.ctx.reads ++ [j] } }, status := .pending }

/-- CFG_READBACK (R226). -/
def execCfgReadback (r : Req) (region : BitVec 5) (source : BitVec 2) (number : BitVec 4) (tile : BitVec 11)
    (frame : BitVec 10) (count : BitVec 11) (wsOffset : BitVec 27) (s : State) : Host.Outcome State Fault Refusal :=
  .next (serve r 0x0205
    (packFields [(5, region.toNat), (2, source.toNat), (4, number.toNat), (11, tile.toNat), (10, frame.toNat),
      (11, count.toNat), (27, wsOffset.toNat)])
    (bodyCfgReadback region.toNat source.toNat number.toNat tile.toNat frame.toNat count.toNat wsOffset.toNat) s)

/-- Record i of a readback: 1,024 bits of configuration, or the registers of clusters 32 i to 32 i + 31 (R226). -/
def readRecord (s : State) (j : ReadJob) (t i : Nat) : BitVec 1024 :=
  let k := (regionOf s j.region).slot j.number.toNat
  match j.source.toNat with
  | 0 =>
    match Tab.get none s.load.store (16 * j.region + j.number.toNat) with
    | some c => Tab.get 0 c.frames (1024 * t + i)
    | none => 0
  | 1 => k.frame t i
  | _ =>
    BitVec.ofNat 1024 (fieldsWord ((List.range 32).map (fun n => (32 * n, (Tab.get 0 k.regs (256 * t + 32 * i + n)).toNat))))

/-- READBACK_DONE (R226): the oldest readback is written into the workspace as records of R202. -/
def execReadbackDone (s : State) : Host.Outcome State Fault Refusal :=
  match s.ctx.reads with
  | [] => .next s
  | j :: rest =>
    let t := (tileOfCode j.region j.tile.toNat).getD 0
    let bytes := (List.range j.count.toNat).flatMap (fun i =>
      let f := j.frame.toNat + i
      let d := readRecord s j t f
      bytesLE 128 d.toNat ++ bytesLE 4 (frameCrc j.region t f d).toNat)
    .next (finish j.org .cfgDone noUnit .ok
      { s with ctx := { s.ctx with reads := rest }, load := { s.load with ws := putBytes s.load.ws j.wsOffset.toNat bytes } })

end Sys2Proof.Machine
end

