-- ==== Sys2Proof/Machine/Scrub.lean ====
section
/-! DEFINITION. The scrubber and the store patrol (R196, R228 to R236). -/

namespace Sys2Proof.Machine

/-! ## The place of the pass -/

/-- Frames of a plane: 36 tiles of 1,024 (R202). -/
def planeFrames : Nat := 36864

/-- Whether the scrubber skips a region: OFF or in retention (R228). -/
def scrubSkips (g : Region) : Bool := g.st == .off || g.retention

/-- Whether a memory block stands at a tile position of a region. -/
def blockOver (r g : Nat) : Bool := regionAt (decide (16 ≤ r)) (g / 2 % 24) (g / 2 / 24) == r

/-- Whether the frame bus of a region is in use by a staging, by the readback in progress or by a memory-layer
initialisation of a block over it, or paused for a TSV swap (R229, Table BRG-6). -/
def busBusy (s : State) (r : Nat) : Bool :=
  framePaused s r || s.ctx.queue.any (fun j => j.granted && j.region == r) ||
    (match s.ctx.reads with | j :: _ => j.region == r && j.source != 0 | [] => false) ||
    (match s.mem.init with | some i => i.entries.any (fun e => blockOver r e.block.toNat) | none => false)

/-- Whether the scrubber's share is lent to a FAST staging (R136, R229). -/
def shareLent (s : State) : Bool := s.ctx.queue.any (fun j => j.granted && j.fast)

/-- Ends the present region of the pass: back to the place that a woken region interrupted, or on to the next region;
after region 31 the deferred regions follow (R228, R229, Table CTX-8). -/
def scrubNextRegion (c : Scrub) : Scrub :=
  match c.back with
  | (r, k, f) :: b => { c with region := r, slot := k, frame := f, back := b }
  | [] =>
    let r := if c.late then 32 else c.region + 1
    { c with region := r, slot := 0, frame := 0, late := decide (32 ≤ r) }

/-- Steps the place of the pass over regions and slots that are skipped or deferred, until it stands on a verified plane
or no plane can be checked now. -/
def scrubSettle (s : State) : Nat → Scrub → Scrub
  | 0, c => c
  | n + 1, c =>
    if 32 ≤ c.region then
      match c.deferred.find? (fun r => !busBusy s r) with
      | some r => scrubSettle s n { c with region := r, slot := 0, frame := 0, deferred := c.deferred.erase r, late := true }
      | none => c
    else if scrubSkips (regionOf s c.region) ∨ 4 ≤ c.slot then scrubSettle s n (scrubNextRegion c)
    else if busBusy s c.region then
      scrubSettle s n (scrubNextRegion { c with deferred := c.deferred ++ [c.region] })
    else if verified s c.region c.slot then c
    else scrubSettle s n { c with slot := c.slot + 1, frame := 0 }

/-- The place of the pass in this state. -/
def scrubPlace (s : State) : Scrub := scrubSettle s (600 + 10 * s.scrub.back.length) s.scrub

/-- Whether the place of a pass is a plane, and not its end. -/
def onPlane (c : Scrub) : Bool := decide (c.region < 32)

/-- The place after a frame has been checked. -/
def scrubAdvance (c : Scrub) : Scrub :=
  if c.frame + 1 < planeFrames then { c with frame := c.frame + 1 } else { c with slot := c.slot + 1, frame := 0 }

/-- The scrubber runs while its domain and the context store are up and no pass has stalled (R228, R235, Table STK-4). -/
def scrubRuns (s : State) : Bool := domOn s 49 && !s.load.lost && !s.scrub.stalled

/-! ## One frame -/

/-- The essential bits of a frame by the map of its stored context: all of them with no map or a map in fallback (R207 to
R209, R234). -/
def essentialBits (c : Stored) (tile frame : Nat) : BitVec 1024 :=
  if !c.mapPresent || c.fallback.contains tile then BitVec.allOnes 1024
  else
    match Tab.get none c.maps tile with
    | none => BitVec.allOnes 1024
    | some m =>
      if m.flags.getLsbD 0 then BitVec.allOnes 1024
      else if m.flags.getLsbD 1 then 0
      else
        match m.frames.find? (fun f => f.1 == frame) with
        | none => 0
        | some (_, .none) => 0
        | some (_, .all) => BitVec.allOnes 1024
        | some (_, .literal b) => b
        | some (_, .runs l) => l.foldl (fun a x => a ||| ((BitVec.ofNat 1024 (2 ^ x.2 - 1)) <<< x.1)) 0

/-- Changes a stored context. -/
def updStored (key : Nat) (f : Stored → Stored) (s : State) : State :=
  match Tab.get none s.load.store key with
  | some c => { s with load := { s.load with store := Tab.set none s.load.store key (some (f c)) } }
  | none => s

/-- Changes the scrub counters. -/
def updScrub (f : Scrub → Scrub) (s : State) : State := { s with scrub := f s.scrub }

/-- The tile code of a frame of a region (Table CFG-16). -/
def frameTile (r f : Nat) : Nat := tileCode (decide (16 ≤ r)) (tileColumn r (f / 1024)) (tileRow r (f / 1024))

/-- A map with an uncorrectable error falls back, once per tile and context (R234). -/
def mapFails (r key : Nat) (c : Stored) (tile f : Nat) (s : State) : State :=
  if !c.mapPresent || c.fallback.contains tile then s
  else
    raise .scrubMapFallback [(8, r), (8, key % 16), (16, frameTile r f)]
      (updScrub (fun x => { x with mapFallback := satAdd x.mapFallback 1 })
        (updStored key (fun c => { c with fallback := c.fallback ++ [tile] }) s))

/-- Rewrites a frame of a plane from its golden copy. -/
def correctFrame (r k f : Nat) (golden : BitVec 1024) (s : State) : State :=
  updRegion r (fun g => g.updSlot k (fun q => { q with plane := Tab.set 0 q.plane f golden })) s

/-- An essential upset of the running plane: the event, the count, and the upset action taken once (R230, R231, Table
CTX-8). -/
def upsetAction (r k f count : Nat) (s : State) : State :=
  let act := match ((regionOf s r).slot k).desc with | some d => d.action.toNat | none => 0
  let s1 := raise .upsetEssential [(8, r), (8, k), (8, act), (16, count), (16, frameTile r f), (16, f % 1024)]
    (updRegion r (fun g => { g with upsets := satAdd g.upsets 1 }) s)
  match act with
  | 0 => updRegion r (fun g => { g with upsetAt := some s.clk.fc }) s1
  | 1 => leaveRunning r .held 2 s1
  | 2 => startReset r true s1
  | _ => s1

/-- A golden frame with an uncorrectable error is not used; where it holds an essential bit the slot is lost (R233). -/
def goldenFails (r k f key : Nat) (c : Stored) (s : State) : State :=
  let s1 := raise .ctxDamaged [(8, r), (8, key % 16), (8, 1), (16, frameTile r f), (16, f % 1024)]
    (updScrub (fun x => { x with goldenUe := satAdd x.goldenUe 1 })
      (updStored key (fun c => { c with damaged := c.damaged ++ [f] }) s))
  if essentialBits c (f / 1024) (f % 1024) = 0 then s1 else loseSlot r k 8 s1

/-- Compares a frame with its golden copy and corrects it (R230, R231). -/
def compareFrame (r k f : Nat) (c : Stored) (s : State) : State :=
  let golden := Tab.get 0 c.frames f
  let diff := Tab.get 0 ((regionOf s r).slot k).plane f ^^^ golden
  if diff = 0 then s
  else
    let ess := diff &&& essentialBits c (f / 1024) (f % 1024)
    let n := (bitsOf ess).length
    let m := (bitsOf diff).length - n
    let running := regionIs s r .running && runsOrHolds (regionOf s r) k
    let s1 := correctFrame r k f golden (updScrub (fun x =>
      { x with corrNon := satAdd x.corrNon m
               corrRun := if running then satAdd x.corrRun n else x.corrRun
               corrOther := if running then x.corrOther else satAdd x.corrOther n }) s)
    if running && n != 0 then upsetAction r k f n s1 else s1

/-- SCRUB_FRAME_CHECK (R228 to R235): the scrubber checks the frame at its place, given what the store ECC finds in the
golden frame and in the tile map, and whether one copy of its control state disagreed. -/
def execScrubFrameCheck (goldenUe mapUe vote : Bool) (s : State) : Host.Outcome State Fault Refusal :=
  if scrubRuns s = false ∨ shareLent s = true then .next s
  else
    let c := scrubPlace s
    let s1 := { s with scrub := if vote then { c with votes := satAdd c.votes 1 } else c }
    if onPlane c then
      let key := 16 * c.region + ((regionOf s c.region).slot c.slot).ctx.toNat
      let s2 := updScrub scrubAdvance s1
      match Tab.get none s.load.store key with
      | none => .next s2
      | some x =>
        if x.damaged.contains c.frame then .next s2
        else
          let s3 := if mapUe then mapFails c.region key x (c.frame / 1024) c.frame s2 else s2
          let x3 := (Tab.get none s3.load.store key).getD x
          if goldenUe then .next (goldenFails c.region c.slot c.frame key x3 s3)
          else .next (compareFrame c.region c.slot c.frame x3 s3)
    else .next s1

/-- SCRUB_PASS_END (R228, R229, R236): every verified plane has been visited, and the next pass begins. -/
def execScrubPassEnd (us : BitVec 32) (s : State) : Host.Outcome State Fault Refusal :=
  let c := scrubPlace s
  if scrubRuns s = true ∧ onPlane c = false ∧ c.deferred = [] ∧
      (List.range 32).any (fun r => anyVerified (regionOf s r)) = true then
    .next { s with scrub := { c with region := 0, slot := 0, frame := 0, back := [], late := false,
                                     passes := satAdd c.passes 1, lastUs := us } }
  else .next s

/-- SCRUB_STALL_TIMEOUT (R235): EV_SCRUB_STALLED, and the scrubber stands until its domain is powered off and on. -/
def execScrubStallTimeout (s : State) : Host.Outcome State Fault Refusal :=
  if scrubRuns s then
    let c := scrubPlace s
    .next (raise .scrubStalled [(8, c.region), (8, c.slot), (64, c.passes.toNat)]
      { s with scrub := { s.scrub with stalled := true } })
  else .next s

/-- STORE_PATROL_READ (R196): the patrol reads a frame of a stored context that no scrub pass reads; an uncorrectable error
marks the frame damaged. -/
def execStorePatrolRead (region : Fin 32) (context : Fin 16) (tile : Fin 36) (frame : Fin 1024)
    (corrected uncorrectable : Bool) (s : State) : Host.Outcome State Fault Refusal :=
  let key := 16 * region.val + context.val
  let f := 1024 * tile.val + frame.val
  match Tab.get none s.load.store key with
  | none => .next s
  | some c =>
    let scrubbed := (List.range 4).any (fun k =>
      verified s region.val k && ((regionOf s region.val).slot k).ctx.toNat == context.val)
    if domOn s 48 = false ∨ c.damaged.contains f = true ∨ scrubbed = true then .next s
    else if uncorrectable then
      .next (raise .ctxDamaged [(8, region.val), (8, context.val), (8, 0), (16, frameTile region.val f), (16, frame.val)]
        (updScrub (fun x => { x with storeUe := satAdd x.storeUe 1 })
          (updStored key (fun c => { c with damaged := c.damaged ++ [f] }) s)))
    else if corrected then .next (updScrub (fun x => { x with storeCe := satAdd x.storeCe 1 }) s)
    else .next s

/-! ## Status -/

/-- CFG.SCRUB_STATUS (R236, Table CFG-17). -/
def bodyCfgScrubStatus (_org : Origin) (s : State) : Ans :=
  let c := s.scrub
  done s (packFields [(64, c.passes.toNat), (32, c.lastUs.toNat), (32, c.votes.toNat), (64, c.corrNon.toNat),
    (64, c.corrRun.toNat), (64, c.corrOther.toNat), (32, c.goldenUe.toNat), (32, c.mapFallback.toNat),
    (32, c.storeCe.toNat), (32, c.storeUe.toNat)])

/-- CFG_SCRUB_STATUS (R236). -/
def execCfgScrubStatus (r : Req) (s : State) : Host.Outcome State Fault Refusal :=
  .next (serve r 0x0206 [] bodyCfgScrubStatus s)

end Sys2Proof.Machine
end

