-- ==== Sys2Proof/Machine/Repair.lean ====
section
/-! DEFINITION. Self-test rounds, vertical alignment, spares and the TST and RPR commands (R86 to R88, R524 to R545). -/

namespace Sys2Proof.Machine

/-! ## Test failures (Table BRG-3) -/

/-- The UNIT of a tile, and of a block, a pin or any other unit as the observation gives it (Table MBX-16a). -/
def failUnit (f : BistFail) : Nat :=
  if f.row = 11 ∨ f.row = 12 then tileCode f.layer f.column.val f.trow.val else f.unit.toNat

/-- Raises EV_BIST_FAIL (R528). -/
def raiseFail (row cause unit entry : Nat) (s : State) : State :=
  raise .bistFail [(8, row), (8, cause), (16, unit), (64, entry)] s

/-- Retires a resource at a start: its map entry and EV_BIST_FAIL (R528). -/
def failRetire (f : BistFail) (cause : Nat) (e : W64) (s : State) : State :=
  raiseFail f.row.val cause (failUnit f) ((reported s e).getD 0).toNat (addMap e f.row.val (failUnit f) s)

/-- The block of a failing memory column: at the tile position given, block, group and column in the index as block + 2 ×
group + 32 × column. -/
def failBlock (f : BistFail) : Nat := 2 * (24 * f.trow.val + f.column.val) + f.index.toNat % 2

/-- A failing column at a start: a free spare of its group is taken, with a repair entry that applies at once; otherwise
the block is retired (rows 14 and 15, R185, R188). -/
def failColumn (f : BistFail) (s : State) : State :=
  let g := failBlock f
  let group := f.index.toNat / 2 % 16
  let column := f.index.toNat / 32
  match (List.range 2).find? (fun i => !spareInUse s g group i) with
  | some i =>
    if (recordNow s).cols.length < 512 then
      let e := BitVec.ofNat 64 ((colEntry g group column i).toNat - 2 ^ 30)
      raiseFail 14 1 g 0 (updBlock g (fun b => { b with spareUsed := b.spareUsed ||| (1#18 <<< (2 * group + i)) })
        (writeRecord (fun x => { x with cols := x.cols ++ [e] }) s))
    else failRetire { f with row := 15, unit := BitVec.ofNat 16 g } 5 (blockEntryOf s g 5) s
  | none => failRetire { f with row := 15, unit := BitVec.ofNat 16 g } 5 (blockEntryOf s g 5) s

/-- Changes the start-up record. -/
def updStart (f : Start → Start) (s : State) : State := { s with start := f s.start }

/-- The outcome of a test of a start that fails (Table BRG-3). A reference pair is reported, and the circuit that it
serves fails in its own row. -/
def bistFailed (f : BistFail) (s : State) : State :=
  let ev := raiseFail f.row.val 1 (failUnit f) 0
  match f.row.val with
  | 4 => raise .nocRouterFailed [(8, f.unit.toNat)] (ev (assertError (updStart (fun x => { x with nocFailed := true }) s)))
  | 5 => ev (updStart (fun x => { x with engineFailed := true }) s)
  | 6 => ev s
  | 7 => ev (updStart (fun x => { x with pcieLanes := x.pcieLanes ++ [f.unit.toNat] }) s)
  | 8 => ev (updStart (fun x => { x with badLanes := x.badLanes ++ [f.unit.toNat] }) s)
  | 9 => failRetire f 1 (mapEntry 3 (f.unit.toNat / 48) 0 false (f.unit.toNat % 48) 0 1 false) s
  | 10 => ev s
  | 11 => failRetire f 1 (tileEntry s f.layer f.column.val f.trow.val 1) s
  | 12 => failRetire f 1 (mapEntry 0 0 f.trow.val f.layer 0 (skipOf s f.layer) 1 false) s
  | 13 => failRetire f 1 (mapEntry 8 0 0 false f.unit.toNat 0 1 false) s
  | 14 => failColumn f s
  | 15 => failRetire f 5 (blockEntryOf s (failBlock f) 5) s
  | 16 => ev (updStart (fun x => { x with withdrawn := Tab.upd 0 x.withdrawn f.unit.toNat (fun n => n + 1) }) s)
  | 17 => ev (assertError (updStart (fun x => { x with storeFailed := true }) s))
  | 18 => ev (updStart (fun x => { x with bistFailed := true }) s)
  | _ => s

/-- Reports a failing test and counts it in FAILS. -/
def noteFail (f : BistFail) (s : State) : State := updStart (fun x => { x with fails := satAdd x.fails 1 }) (bistFailed f s)

/-! ## Rounds of start-up BIST (R524 to R526) -/

/-- Whether a sensor is in rate-of-rise warning. -/
def anyRor (s : State) : Bool := s.thm.sensors.any (fun e => e.2.ror)

/-- A region leaves its start-up test: BLANK, or RETIRED where the map retires it (R524, R528, Table CTX-2). -/
def testedRegion (r : Nat) (s : State) : State :=
  if s.start.map.any (fun e => rmKind e == 8 && rmIndex e == r) then
    updRegion r (fun g => { g with bistBusy := false }) (regionRetire r 0xA s)
  else updRegion r (fun g => { g with st := .blank, bistBusy := false }) s

/-- Powers a region's domain on for its test, unless it is TRIPPED. -/
def powerRegion (r : Nat) (s : State) : State :=
  updDom (regionDom r) (fun d =>
    if d.st = .tripped ∨ d.st = .on then d else { d with st := .on, onCount := satAdd d.onCount 1 }) s

/-- RESULT of a region in TST.STATUS. -/
def setTest (r : Nat) (v : Byte) (s : State) : State := updStart (fun x => { x with results := Tab.set 0 x.results r v }) s

/-- The automatic choice of a layer's skip position (R534). -/
def autoSkip (layer : Bool) (s : State) : State :=
  let cols := (s.start.map.filter (fun e => rmKind e == 0 && rmLayer e == layer)).map rmPhys
  match cols with
  | [] => s
  | p :: rest =>
    if (recordNow s).autoSkip ∧ rest.all (fun x => x == p) ∧ p ≠ skipOf s layer ∧ s.start.bistFailed = false then
      let s1 := writeRecord (fun x =>
        if layer then { x with skip2 := BitVec.ofNat 5 p } else { x with skip1 := BitVec.ofNat 5 p }) s
      finish { cmd := 0x0E03, seq := 0, channel := 0xFF, via := none } .rprDone (if layer then 2 else 1) .ok s1
    else s

/-- Step 9 of Table BRG-1: start-up BIST has completed. -/
def finishBist (s : State) : State :=
  let s1 := if s.start.bistFailed then
      forEach s.start.toTest (fun r s => testedRegion r (powerRegion r s)) s else s
  autoSkip true (autoSkip false (updStart (fun x => { x with toTest := [], again := [], bistDone := true, step := 9 }) s1))

/-- Begins the next round of RR_BIST_PARALLEL regions once the fabric clock runs, unless a rate-of-rise warning or a
throttle holds it; after the last round the tests without a result are repeated once, and then start-up BIST ends (R524,
R526, R517, row 18 of Table BRG-3). -/
def startRound (s : State) : State :=
  if s.start.bistDone ∨ s.start.step < 7 ∨ s.start.held ∨ s.start.round ≠ [] ∨ fabricClock s = false ∨ anyRor s ∨
      s.thm.throttle then s
  else
    let rep := s.start.repeating || s.start.toTest.isEmpty
    let todo := if s.start.toTest.isEmpty && !s.start.repeating then s.start.again else s.start.toTest
    if todo = [] ∨ s.start.bistFailed then finishBist s
    else
      let now := todo.take s.start.rr.bistParallel.toNat
      let s1 := updStart (fun x =>
        { x with step := 8, repeating := rep, round := now, toTest := todo.drop now.length,
                 again := if s.start.toTest.isEmpty && !s.start.repeating then [] else x.again,
                 rounds := satAdd x.rounds 1 }) s
      forEach now (fun r s =>
        setTest r 4 (zeroCarryOver r (updRegion r (fun g => { g with bistBusy := true, slots := [] }) (powerRegion r s)))) s1

/-- The end of one region's test in a round: no result after a trip of the region, or after a supply excursion, which is
repeated once and then retires the region with cause 0x6 (R518, R526, R528). -/
def endRegionTest (fails : List BistFail) (excursion : BitVec 32) (r : Nat) (s : State) : State :=
  let mine := fails.filter (fun f => (f.row == 11 && regionAt f.layer f.column.val f.trow.val == r) ||
    (f.row == 13 && f.unit.toNat == r))
  if domOn s (regionDom r) = false then
    setTest r 3 (updRegion r (fun g => { g with bistBusy := false }) s)
  else if excursion.getLsbD r then
    if s.start.repeating then
      let s1 := addMap (mapEntry 8 0 0 false r 0 6 false) 13 r s
      setTest r 3 (testedRegion r s1)
    else
      setTest r 3 (updStart (fun x => { x with again := x.again ++ [r] }) (updRegion r (fun g => { g with bistBusy := false }) s))
  else
    let s1 := mine.foldl (fun a f => noteFail f a) s
    setTest r (if mine = [] then 1 else 2) (testedRegion r s1)

/-- BIST_ROUND_DONE (R524 to R528, R534). -/
def execBistRoundDone (fails : List BistFail) (excursion : BitVec 32) (s : State) : Host.Outcome State Fault Refusal :=
  if s.start.round = [] ∨ fabricClock s = false then .next s
  else
    let others := fails.filter (fun f => f.row == 12 || f.row == 9 || f.row == 14 || f.row == 15 || f.row == 16 ||
      f.row == 17 || f.row == 18)
    let s1 := forEach s.start.round (endRegionTest fails excursion) (others.foldl (fun a f => noteFail f a) s)
    .next (startRound (updStart (fun x => { x with round := [] }) s1))

/-! ## Vertical alignment -/

/-- VALIGN_START (R86, Table SCH-5 step 1): the registers of the crossings between the layers are forced to 0. -/
def execValignStart (s : State) : Host.Outcome State Fault Refusal :=
  if fabricClock s = false ∨ s.start.bistDone = false ∨ (s.lnk.member = true ∧ s.clk.timeLocked = false) ∨
      s.align.busy = false ∨ s.align.running = true then .next s
  else
    .next { s with align := { s.align with running := true },
                   fab := { s.fab with vx := [], vm1 := [], vm2 := [] },
                   start := { s.start with tsvUsed := [] } }

/-- The latency that Table SCH-1 states for a crossing: VX 1 fc, VM 2 fc from L2 and 3 fc from L1. For an L0–L1 crossing,
whose own latency no table states, the observation gives 1 where it is as designed (log 34). -/
def statedLatency (c : CrossObs) : BitVec 8 :=
  if c.kind = 6 then (if c.layer then 2 else 3) else 1

/-- The bundle of a crossing. -/
def crossBundle (c : CrossObs) : Bundle := if c.kind = 5 then .l1l2 else if c.kind = 6 then .l2l3 else .l0l1

/-- The TSV group that carries a crossing. -/
def crossGroup (c : CrossObs) : TsvGroup := { bundle := crossBundle c, column := c.column, row := c.row, group := c.group }

/-- The number of a bundle in EV_TSV_SPARED and the layer bit of its tile (Table MBX-16a). -/
def bundleCode : Bundle → Nat
  | .l0l1 => 0
  | .l2l3 => 1
  | .l3l4 => 2
  | .l1l2 => 3

/-- Takes the spare of a group into use (R17). -/
def useSpare (g : TsvGroup) (signal : Nat) (s : State) : State :=
  raise .tsvSpared [(8, bundleCode g.bundle), (16, tileCode (g.bundle == .l2l3) g.column.val g.row.val),
      (8, g.group.toNat), (16, signal)]
    (updStart (fun x => { x with tsvUsed := x.tsvUsed ++ [g] }) s)

/-- A crossing found by the walking pattern: a spare is brought in where its group has one left; a crossing that differs
from its stated latency, or finds no spare, is a failed vertical connection with no spare left (R16 to R18, R21, R541).
The block that one L2–L3 connection serves is not stated, so both blocks of the position retire (log 35). -/
def takeCrossing (c : CrossObs) (s : State) : State :=
  let g := crossGroup c
  let bad := fun (s : State) =>
    retireVertical g.bundle c.column.val c.row.val 2 { s with align := { s.align with record := s.align.record ++ [c] } }
  if c.latency ≠ statedLatency c then bad s
  else if c.spared then
    if g.bundle = .l1l2 ∨ s.start.tsvUsed.contains g = true then bad s else useSpare g c.index.toNat s
  else s

/-- Whether a phase in 1/32 fc lies between 3/8 fc and 5/8 fc (R77). -/
def phaseOk (p : BitVec 6) : Bool := decide (12 ≤ p.toNat ∧ p.toNat ≤ 20)

/-- VALIGN_DONE (R86, R77, R21): latencies are recorded and failed crossings entered; a CLK.FABRIC that waited for the
alignment completes (Table PWR-15). -/
def execValignDone (crossings : List CrossObs) (phi phi2 : BitVec 6) (s : State) : Host.Outcome State Fault Refusal :=
  if s.align.running = false ∨ fabricClock s = false ∨ phaseOk phi = false ∨ phaseOk phi2 = false then .next s
  else
    let s1 := { s with align := { s.align with record := [] } }
    let s2 := crossings.foldl (fun a c => takeCrossing c a) s1
    let s3 := { s2 with align := { s2.align with
      busy := false, running := false, phi := phi, phi2 := phi2, stepAt := none, stepAt2 := none } }
    .next (finishOpt s3.clk.fabricCmd .clkDone noUnit .ok { s3 with clk := { s3.clk with fabricCmd := none } })

/-- One tracking step of a phase. -/
def stepPhase (up : Bool) (p : BitVec 6) : BitVec 6 := if up then p + 1 else p - 1

/-- Whether the last step lies 1,024 fc or more back. -/
def mayStep (t : Nat) (at_ : Option Nat) : Bool :=
  match at_ with
  | none => true
  | some a => decide (a + 1024 ≤ t)

/-- VALIGN_TRACK_STEP (R87). -/
def execValignTrackStep (upper up : Bool) (s : State) : Host.Outcome State Fault Refusal :=
  let a := s.align
  if a.busy ∨ (pllOf s 0).locked = false then .next s
  else if upper then
    if mayStep s.clk.fc a.stepAt2 then
      .next { s with align := { a with phi2 := stepPhase up a.phi2, stepAt2 := some s.clk.fc } }
    else .next s
  else if mayStep s.clk.fc a.stepAt then
    .next { s with align := { a with phi := stepPhase up a.phi, stepAt := some s.clk.fc } }
  else .next s

/-- VALIGN_LOST (R88, Table CTX-2): the RUNNING regions of the two layers are HELD. The phase is in 1/32 fc. -/
def execValignLost (upper : Bool) (phase : BitVec 8) (s : State) : Host.Outcome State Fault Refusal :=
  if s.align.busy = true ∨ (8 ≤ phase.toNat ∧ phase.toNat ≤ 24) then .next s
  else
    let rs := if upper then (List.range 16).map (fun i => 16 + i) else List.range 32
    let s1 := forEach rs (fun r s => if regionIs s r .running then leaveRunning r .held 6 s else s) s
    let a := if upper then { s1.align with phi2 := phase.setWidth 6 } else { s1.align with phi := phase.setWidth 6 }
    .next (raise .valignLost [(8, if upper then 2 else 1), (8, phase.toNat)] { s1 with align := a })

/-! ## TSVs in service (R537, R538) -/

/-- The region that owns a bundle, if one does (R537). -/
def tsvOwner (g : TsvGroup) : Option Nat :=
  match g.bundle with
  | .l0l1 => some (regionAt false g.column.val g.row.val)
  | .l2l3 => some (regionAt true g.column.val g.row.val)
  | _ => none

/-- TSV_GROUP_SUSPECT (R538): the owning region is HELD, and staging and scrubbing of a frame-bus position pause. -/
def execTsvGroupSuspect (g : TsvGroup) (s : State) : Host.Outcome State Fault Refusal :=
  if g.bundle = .l1l2 ∨ s.start.tsvSwap.contains g = true then .next s
  else
    let s1 := updStart (fun x => { x with tsvSwap := x.tsvSwap ++ [g] }) s
    match tsvOwner g with
    | none => .next s1
    | some r =>
      if regionIs s1 r .running then .next (updRegion r (fun x => { x with swapHeld := true }) (leaveRunning r .held 4 s1))
      else .next s1

/-- What the walk test of a group finds: a failed TSV moves onto the spare, or has no spare left (R17, R18, R541). -/
def walkTested (g : TsvGroup) (signal : Nat) (s : State) : State :=
  if s.start.tsvUsed.contains g then retireVertical g.bundle g.column.val g.row.val 2 s else useSpare g signal s

/-- A region held by a TSV swap runs again once no swap of its bundles is left (Table CTX-2, Table BRG-6 step 5). -/
def endSwapHold (r : Nat) (s : State) : State :=
  let x := regionOf s r
  if x.st = .held ∧ x.swapHeld = true ∧ s.start.tsvSwap.all (fun h => tsvOwner h != some r) = true then
    match x.present with
    | some k => enterRunning r k false s
    | none => s
  else s

/-- TSV_SWAP_DONE (R538, Table BRG-6): with no failed TSV the event is counted as a bond-pad failure would be. -/
def execTsvSwapDone (g : TsvGroup) (failed : Option (BitVec 16)) (s : State) : Host.Outcome State Fault Refusal :=
  if s.start.tsvSwap.contains g then
    let s1 := updStart (fun x => { x with tsvSwap := x.tsvSwap.erase g }) s
    let s2 := match failed with
      | none => { s1 with mbx := { s1.mbx with bondPadFails := satAdd s1.mbx.bondPadFails 1 } }
      | some k => walkTested g k.toNat s1
    match tsvOwner g with
    | some r => .next (endSwapHold r s2)
    | none => .next s2
  else .next s

/-- TSV_WALK_TEST (R537): a group whose spare is in use, while its owning region is not RUNNING. -/
def execTsvWalkTest (g : TsvGroup) (failed : Option (BitVec 16)) (s : State) : Host.Outcome State Fault Refusal :=
  let runs := match tsvOwner g with | some r => regionIs s r .running | none => false
  match failed with
  | some k => if s.start.tsvUsed.contains g ∧ runs = false then .next (walkTested g k.toNat s) else .next s
  | none => .next s

/-! ## In-service tests (R529 to R531, R545) -/

/-- Starts the region tests that may run now, in order: at most PARALLEL at once (R529, Table BRG-4 step 2). -/
def startTestsGo : List RegionTest → List RegionTest → State → State
  | acc, [], s => updStart (fun x => { x with tests := acc }) s
  | acc, t :: ts, s =>
    if t.running then startTestsGo (acc ++ [t]) ts s
    else if ((acc ++ ts).filter (fun x => x.running)).length < t.parallel then
      startTestsGo (acc ++ [{ t with running := true }]) ts
        (zeroCarryOver t.region (updRegion t.region (fun g => { g with slots := [] }) s))
    else updStart (fun x => { x with tests := acc ++ t :: ts }) s

/-- Starts the region tests that may run now. -/
def startTests (s : State) : State := startTestsGo [] s.start.tests s

/-- Ends the in-service test of a region without its outcome (R531). -/
def abortTest (r : Nat) (st : Status) (s : State) : State :=
  match s.start.tests.find? (fun t => t.region == r) with
  | none => s
  | some t =>
    let s1 := updStart (fun x => { x with tests := x.tests.erase t }) s
    let s2 := setTest r 3 (updRegion r (fun g => { g with bistBusy := false }) s1)
    startTests (finish t.org .tstDone r st s2)

/-- TST.REGION: with no region that can be tested the command is refused; otherwise each region reports its own status
(R529, R530, R545; DEDUCED, log 27). -/
def bodyTstRegion (mask parallel : Nat) (org : Origin) (s : State) : Ans :=
  let rs := maskRegions mask
  let ok := fun r => regionIs s r .blank && !(regionOf s r).bistBusy
  if rs = [] ∨ parallel = 0 ∨ 4 < parallel then refuse s .badArg
  else if s.thm.throttle then refuse s .thermal
  else if domOn s 94 = false then refuse s .domainOff
  else if s.start.bistFailed then refuse s .retired
  else if s.pwr.vccFabOk = false ∨ rs.any ok = false then refuse s .state
  else
    let new := (rs.filter ok).map (fun r => ({ org := org, region := r, parallel := parallel, running := false } : RegionTest))
    let s1 := forEach (rs.filter ok) (fun r s => setTest r 4 (updRegion r (fun g => { g with bistBusy := true }) s)) s
    { state := startTests (updStart (fun x => { x with tests := x.tests ++ new }) s1), status := .pending, units := rs.length,
      after := forEach (rs.filter (fun r => !ok r)) (fun r => finish org .tstDone r .state) }

/-- TST_REGION (R529). -/
def execTstRegion (r : Req) (mask : BitVec 32) (parallel : BitVec 3) (s : State) : Host.Outcome State Fault Refusal :=
  .next (serve r 0x0D02 (packFields [(32, mask.toNat), (3, parallel.toNat)]) (bodyTstRegion mask.toNat parallel.toNat) s)

/-- The map entry of a failing test in service, cause 0x2 (Table BRG-4 step 4). -/
def serviceEntry (s : State) (f : BistFail) : W64 :=
  if f.row = 13 then mapEntry 8 0 0 false f.unit.toNat 0 2 false else tileEntry s f.layer f.column.val f.trow.val 2

/-- REGION_TEST_DONE (R530, R531, Table BRG-4 step 4). -/
def execRegionTestDone (region : Fin 32) (fails : List BistFail) (excursion : Bool) (s : State) :
    Host.Outcome State Fault Refusal :=
  let r := region.val
  match s.start.tests.find? (fun t => t.region == r && t.running) with
  | none => .next s
  | some t =>
    if excursion then .next (abortTest r .state s)
    else
      let mine := fails.filter (fun f => (f.row == 11 && regionAt f.layer f.column.val f.trow.val == r) ||
        (f.row == 13 && f.unit.toNat == r))
      let s1 := updStart (fun x => { x with tests := x.tests.erase t }) s
      let s2 := setTest r (if mine = [] then 1 else 2) (updRegion r (fun g => { g with bistBusy := false }) s1)
      if mine = [] then .next (startTests (finish t.org .tstDone r .ok s2))
      else
        let s3 := mine.foldl (fun a f =>
          let e := serviceEntry a f
          let a1 := addMap e f.row.val (failUnit f) a
          raiseFail f.row.val 2 (failUnit f) ((reported a1 (persistentEntry e)).getD 0).toNat
            (applyRetire e (updStart (fun x => { x with fails := satAdd x.fails 1 }) a1))) s2
        .next (startTests (finish t.org .tstDone r .retired (regionRetire r 0xA s3)))

/-- Whether a block is bound to an engine or a source of the dispatcher (Table BRG-11). -/
def dspBound (s : State) (g : Nat) : Bool :=
  s.dsp.engines.any (fun e => e.2.bound && e.2.block == g) || s.dsp.sources.any (fun e => e.2.bound && e.2.block == g)

/-- TST.MEMORY (R545, Table BRG-11). -/
def bodyTstMemory (block count : Nat) (org : Origin) (s : State) : Ans :=
  let bs := (List.range count).map (fun i => block + i)
  if count = 0 ∨ 1152 < block + count then refuse s .badArg
  else if bs.any (fun g => !domOn s (sectorDom (sectorOf g))) then refuse s .domainOff
  else if s.start.memTest.isSome ∨ bs.any (fun g => blockInUse s g || dspBound s g || (blockOf s g).initBusy ||
      s.mem.clearing.contains (sectorOf g)) then refuse s .state
  else
    { state := updStart (fun x => { x with memTest := some (org, block, count) })
        (forEach bs (fun g => updBlock g (fun b => { b with initBusy := true })) s),
      status := .pending }

/-- TST_MEMORY (R545). -/
def execTstMemory (r : Req) (block count : BitVec 11) (s : State) : Host.Outcome State Fault Refusal :=
  .next (serve r 0x0D03 (packFields [(11, block.toNat), (11, count.toNat)]) (bodyTstMemory block.toNat count.toNat) s)

/-- MEMORY_TEST_DONE (R545, R152): the blocks are left cleared. A failing block is reported, and the map does not gain it,
since it is no case of R539 (DEDUCED, log 36). -/
def execMemoryTestDone (fails : List (Fin 1152)) (s : State) : Host.Outcome State Fault Refusal :=
  match s.start.memTest with
  | none => .next s
  | some (org, block, count) =>
    let bad := fails.filter (fun g => decide (block ≤ g.val ∧ g.val < block + count))
    let s1 := forEach ((List.range count).map (fun i => block + i)) (fun g => updBlock g clearedBlock)
      (updStart (fun x => { x with memTest := none }) s)
    let s2 := bad.foldl (fun a g => raiseFail 15 2 g.val 0 (updStart (fun x => { x with fails := satAdd x.fails 1 }) a)) s1
    .next (finish org .tstDone noUnit (if bad = [] then .ok else .retired) s2)

/-- Whether the unit of a TST.ANALOG may be tested; none where UNIT and INDEX name no unit (Table BRG-11). -/
def analogAllowed (s : State) (unit index : Nat) : Option Bool :=
  match unit with
  | 0 =>
    let p := portOf s index
    if index < 6 then some (!p.enabled || p.st == .disabled || p.st == .test) else none
  | 1 => if index < 8 then some (domOn s (7 + index) && !s.dram.list.contains index) else none
  | 2 =>
    if index < 24 then some (domOn s (24 + index) && (Tab.get none s.load.released index).isNone) else none
  | _ => some true

/-- TST.ANALOG (R545). -/
def bodyTstAnalog (unit index : Nat) (org : Origin) (s : State) : Ans :=
  match analogAllowed s unit index with
  | none => refuse s .badArg
  | some ok =>
    if !ok || s.start.anaTest.isSome then refuse s .state
    else { state := updStart (fun x => { x with anaTest := some (some org, unit, index) }) s, status := .pending }

/-- TST_ANALOG (R545). -/
def execTstAnalog (r : Req) (unit : BitVec 2) (index : BitVec 5) (s : State) : Host.Outcome State Fault Refusal :=
  .next (serve r 0x0D04 (packFields [(2, unit.toNat), (5, index.toNat)]) (bodyTstAnalog unit.toNat index.toNat) s)

/-- ANALOG_TEST_DONE (R545). -/
def execAnalogTestDone (ok : Bool) (s : State) : Host.Outcome State Fault Refusal :=
  match s.start.anaTest with
  | none => .next s
  | some (org, _, _) =>
    .next (finishOpt org .tstDone noUnit (if ok then .ok else .retired) (updStart (fun x => { x with anaTest := none }) s))

/-- TST.STATUS (R545, Table BRG-11): START_MS counts time, which this model does not, and is a FREE VALUE (log 4). -/
def bodyTstStatus (_org : Origin) (s : State) : Ans :=
  done (useFree 1 s) (packFields ((List.range 32).map (fun r => (8, (Tab.get 0 s.start.results r).toNat)) ++
    [(32, (freeNow s).toNat), (8, s.start.rounds.toNat), (16, s.start.fails.toNat)]))

/-- TST_STATUS (R545). -/
def execTstStatus (r : Req) (s : State) : Host.Outcome State Fault Refusal := .next (serve r 0x0D01 [] bodyTstStatus s)

/-! ## RPR commands -/

/-- The map as it is reported (R533). -/
def reportedMap (s : State) : List W64 := s.start.map.filterMap (reported s)

/-- RPR.STATUS (R545). -/
def bodyRprStatus (_org : Origin) (s : State) : Ans :=
  let x := recordNow s
  done s (packFields [(8, s.start.skip1.toNat), (8, s.start.skip2.toNat), (8, x.skip1.toNat), (8, x.skip2.toNat),
    (16, (reportedMap s).length), (16, x.cols.length),
    (16, (x.ppr.filter (fun e => field e.toNat 32 2 == 1)).length), (16, s.start.tsvUsed.length),
    (8, s.start.lanesSpared.toNat)])

/-- RPR_STATUS (R545). -/
def execRprStatus (r : Req) (s : State) : Host.Outcome State Fault Refusal := .next (serve r 0x0E01 [] bodyRprStatus s)

/-- RPR.MAP (R533, R545). -/
def bodyRprMap (first count : Nat) (_org : Origin) (s : State) : Ans :=
  let m := reportedMap s
  if count = 0 ∨ 32 < count then refuse s .badArg
  else done s (packFields ((16, m.length) :: ((m.drop first).take count).map (fun e => (64, e.toNat))))

/-- RPR_MAP (R545). -/
def execRprMap (r : Req) (first : BitVec 12) (count : BitVec 8) (s : State) : Host.Outcome State Fault Refusal :=
  .next (serve r 0x0E02 (packFields [(12, first.toNat), (8, count.toNat)]) (bodyRprMap first.toNat count.toNat) s)

/-- Whether a maintenance window of a layer exists (R535). -/
def maintenance (s : State) (layer : Bool) : Bool :=
  (List.range 32).all (fun r => decide (16 ≤ r) != layer ||
    ((regionIs s r .off || regionIs s r .blank || regionIs s r .retired) && !(regionOf s r).bistBusy &&
      !s.ctx.queue.any (fun j => j.region == r) && !s.ctx.reads.any (fun j => j.region == r)))

/-- Records a layer's skip position for later starts. -/
def recordSkip (layer : Bool) (p : Nat) (s : State) : State :=
  writeRecord (fun x => if layer then { x with skip2 := BitVec.ofNat 5 p } else { x with skip1 := BitVec.ofNat 5 p }) s

/-- Every carry-over register and border register of a layer takes 0, those of the faces toward L0 among them (R121,
R536). -/
def zeroLayer (layer : Bool) (s : State) : State :=
  let other := fun (k : Nat) => (placeOf k).layer != layer
  let s1 := { s with fab := { s.fab with
    borders := s.fab.borders.filter (fun e => other e.1), carryBorder := s.fab.carryBorder.filter (fun e => other e.1),
    vx := s.fab.vx.filter (fun e => other e.1), vm1 := s.fab.vm1.filter (fun e => other e.1),
    co := s.fab.co.filter (fun e => decide (576 ≤ e.1) != layer), coPar := s.fab.coPar.filter (fun e => decide (576 ≤ e.1) != layer) } }
  if layer then s1
  else
    forEach (List.range 1152) (fun n => updPin n (fun p => { p with outD := false, outOe := false, outOfs := 0 })) s1

/-- RPR.SKIP (R535, R536). -/
def bodyRprSkip (layer : Bool) (p : Nat) (when_ : Bool) (org : Origin) (s : State) : Ans :=
  if 24 < p then refuse s .badArg
  else if when_ = false then done (recordSkip layer p s)
  else if maintenance s layer = false ∨ s.start.skipCmd.isSome ∨ s.align.busy then refuse s .state
  else
    { state := updStart (fun x =>
        if layer then { x with skip2 := BitVec.ofNat 5 p, skipCmd := some (some org, layer) }
        else { x with skip1 := BitVec.ofNat 5 p, skipCmd := some (some org, layer) }) (zeroLayer layer s),
      status := .pending }

/-- RPR_SKIP (R535). -/
def execRprSkip (r : Req) (layer : Bool) (s_ : BitVec 5) (when_ : Bool) (s : State) : Host.Outcome State Fault Refusal :=
  .next (serve r 0x0E03 (packFields [(1, bit layer), (5, s_.toNat), (1, bit when_)]) (bodyRprSkip layer s_.toNat when_) s)

/-- Whether a crossing joins a layer: VX both, VM L2, L0–L1 L1. -/
def crossOf (layer : Bool) (c : CrossObs) : Bool :=
  if c.kind = 5 then true else if c.kind = 6 then layer else !layer

/-- SKIP_CHANGE_DONE (R536): the layer's crossings are measured again, and the position is recorded for later starts. -/
def execSkipChangeDone (crossings : List CrossObs) (s : State) : Host.Outcome State Fault Refusal :=
  match s.start.skipCmd with
  | none => .next s
  | some (org, layer) =>
    let s1 := { s with align := { s.align with record := s.align.record.filter (fun c => !crossOf layer c) },
                       start := { s.start with skipCmd := none } }
    let s2 := (crossings.filter (crossOf layer)).foldl (fun a c => takeCrossing c a) s1
    .next (finishOpt org .rprDone noUnit .ok (recordSkip layer (skipOf s2 layer) s2))

/-- The entry of a RPR.RETIRE as the map holds it, or none where it names no resource that can be retired (Table BRG-7,
Table BRG-11). -/
def namedEntry (s : State) (e : W64) : Option W64 :=
  let col := rmColumn e
  let row := rmRow e
  let idx := rmIndex e
  match rmKind e with
  | 0 => if col < 24 ∧ row < 24 then some (tileEntry s (rmLayer e) col row 4) else none
  | 1 => if col < 24 ∧ row < 24 ∧ idx < 2 then some (blockEntryOf s (2 * (24 * row + col) + idx) 4) else none
  | 3 => if col < 24 ∧ idx < 48 then some (mapEntry 3 col 0 false idx 0 4 false) else none
  | 8 => if idx < 32 then some (mapEntry 8 0 0 false idx 0 4 false) else none
  | _ => none

/-- RPR.RETIRE: ACTION 0 retires at once with the outcome of Tables CTX-2 and CTX-8, ACTION 1 takes a persistent entry
out of the record for the next start (R540, R541, R545, R531). -/
def bodyRprRetire (entry : W64) (action : Bool) (_org : Origin) (s : State) : Ans :=
  match namedEntry s entry with
  | none => refuse s .badArg
  | some e =>
    if action then
      if (recordNow s).map.any (sameResource e) then
        done (writeRecord (fun x => { x with map := x.map.filter (fun y => !sameResource e y) }) s)
      else refuse s .state
    else
      let r := rmIndex e
      if rmKind e = 8 ∧ regionIs s r .running then refuse s .state
      else if (recordNow s).map.any (sameResource e) then done s
      else if 256 ≤ (recordNow s).map.length then refuse s .noResource
      else
        let s1 := updStart (fun x => { x with map := x.map.filter (fun y => !sameResource e y) }) s
        let s2 := addMap e 0 0 s1
        if rmKind e = 8 then done (regionRetire r 0xB (abortTest r .state s2))
        else done (applyRetire e s2)

/-- RPR_RETIRE (R540). -/
def execRprRetire (r : Req) (entry : W64) (action : Bool) (s : State) : Host.Outcome State Fault Refusal :=
  .next (serve r 0x0E04 (packFields [(64, entry.toNat), (1, bit action)]) (bodyRprRetire entry action) s)

/-- The 64 bytes of a header copy of the repair record (Table BRG-9). -/
def recordHeader (x : RepairRec) : List Byte :=
  let b := bytesLE 4 0x5252414B ++ bytesLE 2 1 ++ bytesLE 1 x.skip1.toNat ++ bytesLE 1 x.skip2.toNat ++
    bytesLE 1 (bit x.autoSkip) ++ bytesLE 1 x.bistParallel.toNat ++ [x.exclude, 0] ++ bytesLE 2 x.prtCap.toNat ++
    bytesLE 2 x.cols.length ++ bytesLE 2 x.map.length ++ bytesLE 2 x.ppr.length ++ bytesLE 4 x.gen.toNat ++
    List.replicate 36 0
  b ++ bytesLE 4 (crc32c b).toNat

/-- Entries of the repair record, each n bytes long, padded to 2,048 bytes. -/
def recordEntries (n : Nat) (l : List W64) : List Byte :=
  (l.flatMap (fun (e : W64) => bytesLE n e.toNat) ++ List.replicate 2048 0).take 2048

/-- The bytes of the repair record (Table BRG-9): header copy A is the one in use where RR_GEN is even, copy B where it is
odd (DESIGN CHOICE, log 37). -/
def recordBytes (x : RepairRec) (prev : Option RepairRec) : List Byte :=
  let h := recordHeader x
  let p := match prev with | some y => recordHeader y | none => List.replicate 64 0
  (if x.gen.getLsbD 0 then p ++ h else h ++ p) ++ recordEntries 4 x.cols ++
    recordEntries 8 x.map ++ recordEntries 8 x.ppr

/-- RPR.RECORD (R544, R545). -/
def bodyRprRecord (action value offset : Nat) (_org : Origin) (s : State) : Ans :=
  match action with
  | 0 =>
    if 6272 ≤ offset then refuse s .badArg
    else done s (((recordBytes s.start.rr s.start.rrPrev).drop offset).take 4096)
  | 1 =>
    if 1 ≤ value ∧ value ≤ 8 then done (writeRecord (fun x => { x with bistParallel := BitVec.ofNat 4 value }) s)
    else refuse s .badArg
  | 2 =>
    if value ≤ 1 then done (writeRecord (fun x => { x with autoSkip := value == 1 }) s) else refuse s .badArg
  | _ => refuse s .badArg

/-- RPR_RECORD (R545). -/
def execRprRecord (r : Req) (action : BitVec 2) (value : BitVec 8) (offset : BitVec 13) (s : State) :
    Host.Outcome State Fault Refusal :=
  .next (serve r 0x0E05 (packFields [(2, action.toNat), (8, value.toNat), (13, offset.toNat)])
    (bodyRprRecord action.toNat value.toNat offset.toNat) s)

/-- REPAIR_RECORD_WRITE (R544, KL-07): a deferred write is made once the temperature allows. -/
def execRepairRecordWrite (s : State) : Host.Outcome State Fault Refusal :=
  match s.start.deferred with
  | some _ => if tooHot s then .next s else .next (writeRecord id s)
  | none => .next s

end Sys2Proof.Machine
end

