-- ==== Sys2Proof/Machine/Dram.lean ====
section
/-! DEFINITION. The DRAM channels: address interleaving, requests, service, training, repair and the DRM commands (R305 to
R340). -/

namespace Sys2Proof.Machine

/-! ## Places (R311, R312) -/

/-- The DIMM whose SPD gives a channel's geometry. -/
def channelDimm (s : State) (c : Nat) : Dimm := ((dchanOf s c).dimms.findSome? id).getD default

/-- DIMMs of a channel. -/
def dimmCount (s : State) (c : Nat) : Nat := ((dchanOf s c).dimms.filter (fun d => d.isSome)).length

/-- Channel, sub-channel and sub-channel line of window line l (R311). -/
def lineChan (s : State) (l : Nat) : Nat × Bool × Nat :=
  let c := s.dram.list.length
  let q := l / 4
  let loc := q / c * 4 + l % 4
  (s.dram.list.getD (q % c) 0, loc % 2 == 1, loc / 2)

/-- The fields of a sub-channel line (Table DRM-3, R312). -/
def lineLoc (s : State) (c : Nat) (sub : Bool) (lp : Nat) : DramLoc :=
  let d := channelDimm s c
  let colW := if d.x8 then 6 else 7
  let rankW := bit d.ranks2
  let dimmW := if 2 ≤ dimmCount s c then 1 else 0
  let cidW := d.stackLog2.toNat
  let row := lp / 2 ^ (colW + 5 + rankW + dimmW + cidW)
  { sub := sub, col := field lp 0 colW, bg := field lp colW 3 ^^^ row % 8, ba := field lp (colW + 3) 2,
    rank := field lp (colW + 5) rankW, dimm := field lp (colW + 5 + rankW) dimmW,
    cid := field lp (colW + 5 + rankW + dimmW) cidW, row := row }

/-- The number of a bank within a sub-channel. -/
def DramLoc.bank (x : DramLoc) : Nat := (((x.dimm * 2 + x.rank) * 8 + x.cid) * 8 + x.bg) * 4 + x.ba

/-- The number of a bank group within a channel. -/
def DramLoc.group (x : DramLoc) : Nat := ((((bit x.sub * 2 + x.dimm) * 2 + x.rank) * 8 + x.cid) * 8) + x.bg

/-- The number of a row within a channel. -/
def DramLoc.rowKey (x : DramLoc) : Nat := (x.bank * 2 + bit x.sub) * 2 ^ 18 + x.row

/-- The row of a place. -/
def DramLoc.rowOnly (x : DramLoc) : DramLoc := { x with col := 0 }

/-- Sub-channel of a channel. -/
def subOf (s : State) (c : Nat) (sub : Bool) : SubChan := Tab.get {} (dchanOf s c).subs (bit sub)

/-- Changes a sub-channel. -/
def updSub (c : Nat) (sub : Bool) (f : SubChan → SubChan) (s : State) : State :=
  updDchan c (fun x => { x with subs := Tab.upd {} x.subs (bit sub) f }) s

/-! ## Repair candidates and soft repair (R331, R332) -/

/-- A place as EV_DRAM_PPR and EV_DRAM_UNCORRECTABLE name it (Table MBX-16a). -/
def locData (c : Nat) (x : DramLoc) : List (Nat × Nat) :=
  [(8, c), (8, bit x.sub), (8, x.dimm), (8, x.rank), (8, x.cid), (8, x.bg), (8, x.ba), (32, x.row)]

/-- A DRAM repair entry with PPR_STATE (Table BRG-10). -/
def pprEntry (c : Nat) (x : DramLoc) (state : Nat) : W64 :=
  BitVec.ofNat 64 (fieldsWord [(0, c), (3, bit x.sub), (4, x.dimm % 2), (5, x.rank % 2), (6, x.cid % 8), (9, x.bg % 8),
    (12, x.ba % 4), (14, x.row % 2 ^ 18), (32, state)])

/-- Holds the bank of the soft repair in progress. -/
def holdBank (c : Nat) (s : State) : State :=
  match (dchanOf s c).repair with
  | (x, _) :: _ => updSub c x.sub (fun y => { y with heldBank := some x.bank }) s
  | [] => s

/-- Asks for a soft repair of a row, for a command or by itself. -/
def askRepair (c : Nat) (x : DramLoc) (org : Option Origin) (s : State) : State :=
  holdBank c (updDchan c (fun y =>
    { y with repair := y.repair ++ [(x.rowOnly, org)],
             cands := y.cands.map (fun k => if k.1 = x.rowOnly then (k.1, true) else k) }) s)

/-- A row becomes a repair candidate, once between starts; with DRM_PPR_AUTO it is repaired at once (R331). -/
def candidate (c : Nat) (x : DramLoc) (s : State) : State :=
  if (dchanOf s c).cands.any (fun k => k.1 == x.rowOnly) then s
  else
    let s1 := raise .dramPpr (locData c x ++ [(8, 1)]) (updDchan c (fun y => { y with cands := y.cands ++ [(x.rowOnly, false)] }) s)
    if (dchanOf s c).pprAuto && !(dchanOf s c).noSpare.contains x.group then askRepair c x none s1 else s1

/-- Counts a corrected error of a row: a candidate at 8 since the last start (R318, R331). -/
def dramCorrected (c : Nat) (x : DramLoc) (s : State) : State :=
  let n := Tab.get 0 (dchanOf s c).rowErrs x.rowKey + 1
  let s1 := updDchan c (fun y =>
    { y with ce := satAdd y.ce 1, rowErrs := Tab.set 0 y.rowErrs x.rowKey n, errLog := lastN 32 (y.errLog ++ [(x, false)]) }) s
  if 8 ≤ n then candidate c x s1 else s1

/-- Counts an uncorrectable error (R318, R331). -/
def dramUncorrectable (c : Nat) (x : DramLoc) (s : State) : State :=
  candidate c x (raise .dramUncorrectable (locData c x)
    (updDchan c (fun y => { y with ue := satAdd y.ue 1, errLog := lastN 32 (y.errLog ++ [(x, true)]) }) s))

/-! ## Requests (R310, R313, R317, R351, Table PRT-4) -/

/-- Words of a request to DRAM. -/
def dramWords (q : NocReq) : Nat := if isAtomic q.op then 1 else q.len.val + 1

/-- Window lines of a request. -/
def dramLines (q : NocReq) : List Nat :=
  let a := q.addr.toNat
  let first := a / 64
  let last := (a + 8 * dramWords q - 1) / 64
  (List.range (last + 1 - first)).map (fun i => first + i)

/-- Whether a write covers the whole of a line (R317). -/
def coversLine (q : NocReq) (l : Nat) : Bool :=
  let w := q.addr.toNat / 8
  q.op == .write && decide (w ≤ 8 * l ∧ 8 * l + 8 ≤ w + dramWords q) &&
    (List.range 8).all (fun i => byteEnables q (8 * l + i - w) == 0xFF)

/-- Whether a source is a privileged master: Barista, and those that PRT.PRIV names (R361). -/
def privMaster (s : State) (src : Nat) : Bool := src == 72 || s.prt.priv.getLsbD src

/-- Whether the data line, its MAC block, its counter block or an uncached tree node lies on a FAILED channel (Table
PRT-4). -/
def metaFailed (s : State) (l : Nat) : Bool :=
  let bad := fun (x : Nat) => (dchanOf s (lineChan s x).1).st == .failed
  let p := l / 64
  let nodes := (fillPath s p 12 0).filter (fun e => e.1 != 0)
  bad l || ((irOfPage s p).isSome &&
    (bad (macAddr s l / 64) || bad (ctrAddr s p / 64) || nodes.any (fun e => bad (nodeAddr s e.1 e.2 / 64))))

/-- The engine's judgement of one line of a request: the status with which the line fails, or none where it goes to DRAM
(Table PRT-4). `find` is what the checks find. -/
def judgeLine (q : NocReq) (find : EngineFind) (l : Nat) (s : State) : Option Status × State :=
  let p := l / 64
  if metaFailed s l then (some .retired, s)
  else
    match irOfPage s p with
    | none => (none, s)
    | some i =>
      let full := coversLine q l
      if pageBusy s p then (some .busy, s)
      else if (poisonOf s p).isSome then (some .integrity, s)
      else
        let (bad, s1) := engineFind i l full find s
        if bad then (some .integrity, s1)
        else if Tab.get false s1.prt.mbPoison l && !(full && q.reinit && privMaster s1 q.src.toNat) then (some .integrity, s1)
        else (none, touchCache p (q.op != .read) s1)

/-- The status of a request after one more of its lines: the first failure, and a failure without data before one with
data. -/
def worseStatus (a b : Status) : Status :=
  if a = .ok then b else if b = .ok then a else if a = .poison ∨ a = .integrity then (if b = .poison then a else b) else a

/-- What judging the lines of a request leaves. -/
structure Judged where
  left : List Nat
  status : Status
  state : State

/-- Judges the lines of a request in order; the finding given is met at its first line. -/
def judgeLines (q : NocReq) : EngineFind → List Nat → State → Judged
  | _, [], s => { left := [], status := .ok, state := s }
  | f, l :: ls, s =>
    let r := judgeLine q f l s
    let rest := judgeLines q .ok ls r.2
    match r.1 with
    | none => { rest with left := l :: rest.left }
    | some st => { rest with status := worseStatus st rest.status }

/-- The data words of a finished request: those of a read, or the old value of an atomic (R372). -/
def jobData (j : DramJob) : List W64 :=
  let w := j.req.addr.toNat / 8
  if j.req.op = .write then []
  else if j.status = .ok ∨ (j.req.op = .read ∧ (j.status = .poison ∨ j.status = .integrity)) then
    (List.range (dramWords j.req)).map (fun i => (Tab.get 0 j.got ((w + i) / 8)).extractLsb' (64 * ((w + i) % 8)) 64)
  else []

/-- Answers a request at the DRAM side and removes it. -/
def endJob (j : DramJob) (s : State) : State :=
  respond j.req j.status (jobData j) { s with dram := { s.dram with jobs := s.dram.jobs.filter (fun x => x.id != j.id) } }

/-- DRAM_REQUEST (R313, R351, R360): the request leaves the mesh once every sub-channel it needs has room in its queue of
128. -/
def execDramRequest (src : BitVec 8) (tag : BitVec 12) (find : EngineFind) (s : State) : Host.Outcome State Fault Refusal :=
  match meshReq s src tag with
  | none => .next s
  | some q =>
    let a := q.addr.toNat
    if destOf s a ≠ .dram then .next s
    else if targetShut s a then .next (answerMesh q .domainOff [] s)
    else if protDenied s src.toNat a then .next (answerMesh q .denied [] s)
    else if s.start.engineFailed then .next (answerMesh q .retired [] s)
    else if s.prt.key = false ∨ domCut s 2 = true then .next (answerMesh q .domainOff [] s)
    else if inCarve s a (8 * dramWords q) then .next (answerMesh q .denied [] s)
    else
      let r := judgeLines q find (dramLines q) s
      let ops := r.left.map (fun l =>
        let x := lineChan s l
        (x.1, ({ job := s.dram.next, line := l, loc := lineLoc s x.1 x.2.1 x.2.2, cls := q.cls, promoted := false } : LineOp)))
      let fits := ops.all (fun o => decide ((subOf s o.1 o.2.loc.sub).queue.length +
        (ops.filter (fun p => p.1 == o.1 && p.2.loc.sub == o.2.loc.sub)).length ≤ 128))
      if fits = false then .next s
      else
        let j : DramJob := { id := s.dram.next, req := q, left := r.left, got := [], status := r.status }
        let s1 := dropMesh q r.state
        let s2 := { s1 with dram := { s1.dram with jobs := s1.dram.jobs ++ [j], next := s1.dram.next + 1 } }
        let s3 := ops.foldl (fun t o => updSub o.1 o.2.loc.sub (fun y => { y with queue := y.queue ++ [o.2] }) t) s2
        .next (if r.left = [] then endJob j s3 else s3)

/-! ## Service (R313, R316 to R320) -/

/-- The job of a line request. -/
def jobById (s : State) (n : Nat) : Option DramJob := s.dram.jobs.find? (fun j => j.id == n)

/-- Whether an earlier request of the same source and stream is still at the DRAM side (R313). -/
def jobBlocked (s : State) (j : DramJob) : Bool :=
  s.dram.jobs.any (fun k => decide (k.id < j.id) && k.req.src == j.req.src && k.req.stream == j.req.stream)

/-- Whether a write of a line must wait for the conversion of its region (R358). -/
def counterWaits (s : State) (q : NocReq) (l : Nat) : Bool :=
  q.op != .read &&
    (match irOfPage s (l / 64) with
     | some i => (match raiseCounter i l s with | .waits => true | _ => false)
     | none => false)

/-- Whether a line request may be served now: in the order of its source and stream, on a bank not held for a repair. -/
def servable (s : State) (y : SubChan) (o : LineOp) : Bool :=
  (match jobById s o.job with
   | some j => !jobBlocked s j && !counterWaits s j.req o.line
   | none => true) && y.heldBank != some o.loc.bank

/-- The line request that a sub-channel serves next (Table DRM-4): the oldest promoted one, else the lowest class, a hit
on an open row before another, else the oldest. -/
def pickOp (s : State) (y : SubChan) : Option LineOp :=
  let l := y.queue.filter (servable s y)
  match l.find? (fun o => o.promoted) with
  | some o => some o
  | none =>
    let cls := l.foldl (fun a o => min a o.cls.toNat) 4
    let row := l.filter (fun o => o.cls.toNat == cls)
    match row.find? (fun o => Tab.get none y.openRows o.loc.bank == some o.loc.row) with
    | some o => some o
    | none => row.head?

/-- A line with the words of a write or atomic merged into it. -/
def mergeLine (q : NocReq) (l : Nat) (old : BitVec 512) : BitVec 512 :=
  let w := q.addr.toNat / 8
  BitVec.ofNat 512 (fieldsWord ((List.range 8).map (fun k =>
    let i := 8 * l + k - w
    let o : W64 := old.extractLsb' (64 * k) 64
    let v : W64 :=
      if w ≤ 8 * l + k ∧ 8 * l + k < w + dramWords q then
        (if isAtomic q.op then atomicNew q o else mergeWord (byteEnables q i) o (q.data.getD i 0))
      else o
    (64 * k, v.toNat))))

/-- The upset strikes the stored line just before it is served (R307). -/
def strikeLine (u : LineUpset) (l : Nat) (s : State) : State :=
  match u with
  | .multi d => lineStore l d true s
  | _ => s

/-- Writes a line in the data area: its counter is raised in an integrity region, and the poison of a reinitialising write
clears (R350, Table PRT-4). -/
def writeLine (l : Nat) (d : BitVec 512) (s : State) : Status × State :=
  match irOfPage s (l / 64) with
  | none => (.ok, lineStore l d false s)
  | some i =>
    match raiseCounter i l s with
    | .done s1 => (.ok, updPrt (fun x => { x with mbPoison := Tab.set false x.mbPoison l false }) (lineStore l d false s1))
    | _ => (.noResource, s)

/-- Performs one line of a request: its status, the line as read, and the state (R316 to R318). -/
def performLine (c : Nat) (o : LineOp) (q : NocReq) (u : LineUpset) (s : State) : Status × BitVec 512 × State :=
  if coversLine q o.line then
    let r := writeLine o.line (mergeLine q o.line 0) s
    (r.1, 0, r.2)
  else
    let s0 := strikeLine u o.line s
    let ((d, bad), s1) := lineRead o.line s0
    if bad then
      let s2 := dramUncorrectable c o.loc s1
      match irOfPage s2 (o.line / 64) with
      | some i => (.integrity, 0, lineFails i o.line s2)
      | none => (.poison, d, s2)
    else
      let s2 := if u = .corrected then dramCorrected c o.loc s1 else s1
      if q.op = .read then (.ok, d, s2)
      else
        let r := writeLine o.line (mergeLine q o.line d) s2
        (r.1, d, r.2)

/-- Serves one line request of a sub-channel. -/
def serveOp (c : Nat) (sub : Bool) (o : LineOp) (u : LineUpset) (nrr : Bool) (s : State) : State :=
  let hit := Tab.get none (subOf s c sub).openRows o.loc.bank == some o.loc.row
  let s1 := updSub c sub (fun y =>
    { y with queue := y.queue.erase o, openRows := Tab.set none y.openRows o.loc.bank (some o.loc.row) }) s
  let s2 := if !hit && nrr then updDchan c (fun y => { y with nrr := y.nrr + 1 }) s1 else s1
  match jobById s2 o.job with
  | none => s2
  | some j =>
    let (st, d, s3) := performLine c o j.req u s2
    let j' := { j with left := j.left.erase o.line, got := Tab.set 0 j.got o.line d, status := worseStatus j.status st }
    let s4 := { s3 with dram := { s3.dram with jobs := s3.dram.jobs.map (fun x => if x.id = j.id then j' else x) } }
    if j'.left = [] then endJob j' s4 else s4

/-- DRAM_SERVE (R320, R323, R324): the random decision at an activate is an operand. -/
def execDramServe (channel : Fin 8) (sub : Bool) (u : LineUpset) (nrr : Bool) (s : State) :
    Host.Outcome State Fault Refusal :=
  let c := channel.val
  if (dchanOf s c).st ≠ .inService ∨ domCut s (7 + c) = true then .next s
  else
    match pickOp s (subOf s c sub) with
    | none => .next s
    | some o => .next (serveOp c sub o u nrr s)

/-- Promotes a request, with the earlier requests of its source and stream in the sub-channel (R321). -/
def promote (s : State) (o : LineOp) : List LineOp → List LineOp
  | [] => []
  | x :: xs =>
    let same := match jobById s x.job, jobById s o.job with
      | some a, some b => a.req.src == b.req.src && a.req.stream == b.req.stream
      | _, _ => false
    if x = o then { x with promoted := true } :: xs
    else (if same then { x with promoted := true } else x) :: promote s o xs

/-- AGE_PROMOTION (R321). -/
def execAgePromotion (channel : Fin 8) (sub : Bool) (pick : Nat) (s : State) : Host.Outcome State Fault Refusal :=
  match (subOf s channel.val sub).queue[pick]? with
  | none => .next s
  | some o => .next (updSub channel.val sub (fun y => { y with queue := promote s o y.queue }) s)

/-- REFRESH_TIMER (R322): an all-bank refresh leaves every bank precharged. -/
def execRefreshTimer (channel : Fin 8) (sub : Bool) (s : State) : Host.Outcome State Fault Refusal :=
  if (dchanOf s channel.val).st = .inService then
    .next (updSub channel.val sub (fun y => { y with openRows := [] }) s)
  else .next s

/-! ## Failure (R334) -/

/-- Drops the line requests of requests that are no longer at the DRAM side. -/
def dropOps (ids : List Nat) (s : State) : State :=
  forEach (List.range 8) (fun c s =>
    [false, true].foldl (fun a b =>
      updSub c b (fun y => { y with queue := y.queue.filter (fun o => !ids.contains o.job) }) a) s) s

/-- Requests in flight to a channel complete with a status. -/
def endChannelJobs (c : Nat) (st : Status) (s : State) : State :=
  let js := s.dram.jobs.filter (fun j => j.left.any (fun l => (lineChan s l).1 == c))
  js.foldl (fun a j => endJob { j with status := st } a) (dropOps (js.map (fun j => j.id)) s)

/-- Ends a set point switch on one channel, and the command with the last (R328, R329). -/
def switchStep (c : Nat) (failed : Bool) (s : State) : State :=
  match s.dram.switch with
  | none => s
  | some (org, sp, left, f) =>
    if left.contains c then
      let left' := left.erase c
      if left' = [] then
        finish org .drmDone noUnit (if f || failed then .internal else .ok) { s with dram := { s.dram with switch := none } }
      else { s with dram := { s.dram with switch := some (org, sp, left', f || failed) } }
    else s

/-- A channel fails in service: FAILED, its requests complete with ST_RETIRED, and commands that need it end (R334). -/
def failChannel (c cause : Nat) (s : State) : State :=
  let rep := (dchanOf s c).repair
  let s1 := updDchan c (fun y => { y with st := .failed, subs := y.subs.map (fun e => (e.1, { e.2 with openRows := [], heldBank := none })),
                                          repair := [], gathering := false }) s
  let s2 := raise .dramChannelFailed [(8, c), (8, cause)] (endChannelJobs c .retired s1)
  switchStep c true (rep.foldl (fun a x => finishOpt x.2 .drmDone noUnit .state a) s2)

/-- DRAM_CHANNEL_FAILED (R334). -/
def execDramChannelFailed (channel : Fin 8) (cause : BitVec 8) (s : State) : Host.Outcome State Fault Refusal :=
  let c := channel.val
  let st := (dchanOf s c).st
  if st = .inService ∨ st = .switching then .next (failChannel c cause.toNat s) else .next s

/-! ## Training and set points (R325 to R330) -/

/-- The training results that a channel stores for a set point now: what training measures is a FREE VALUE. -/
def storeResults (c sp : Nat) (s : State) : State :=
  useFree 1 (updDchan c (fun y => { y with results := Tab.set none y.results sp (some (Config.trainingRecord c sp s.free)) }) s)

/-- PERIODIC_RETRAIN (R327, R334). -/
def execPeriodicRetrain (channel : Fin 8) (ok : Bool) (s : State) : Host.Outcome State Fault Refusal :=
  let c := channel.val
  if (dchanOf s c).st ≠ .inService then .next s
  else if ok then .next (storeResults c (dchanOf s c).setpoint.toNat s)
  else .next (failChannel c 3 s)

/-- Channels in service. -/
def inServiceChans (s : State) : List Nat := (List.range 8).filter (fun c => (dchanOf s c).st == .inService)

/-- Starts a set point switch on every channel in service (Table DRM-5 step 1). -/
def startSwitch (org : Origin) (sp : BitVec 2) (s : State) : State :=
  let cs := inServiceChans s
  if cs = [] then finish org .drmDone noUnit .ok s
  else
    forEach cs (fun c => updDchan c (fun y => { y with st := .switching }))
      { s with dram := { s.dram with switch := some (org, sp, cs, false) } }

/-- Whether training data are being gathered on some channel, or a switch is in progress (R328). -/
def gatheringAny (s : State) : Bool :=
  s.dram.switch.isSome || (List.range 8).any (fun c => (dchanOf s c).gathering)

/-- SETPOINT_SWITCH_START (R328). -/
def execSetpointSwitchStart (s : State) : Host.Outcome State Fault Refusal :=
  match s.dram.queued with
  | none => .next s
  | some (org, sp) =>
    if gatheringAny s then .next s
    else .next (startSwitch org sp { s with dram := { s.dram with queued := none } })

/-- The speed of a set point. -/
def spSpeed (s : State) (sp : Nat) : BitVec 3 := Tab.get 0 s.dram.speeds sp

/-- SETPOINT_SWITCH_DONE (R328, R329). -/
def execSetpointSwitchDone (channel : Fin 8) (ok : Bool) (s : State) : Host.Outcome State Fault Refusal :=
  let c := channel.val
  match s.dram.switch with
  | none => .next s
  | some (_, sp, left, _) =>
    if left.contains c = false then .next s
    else if ok then
      .next (switchStep c false (storeResults c sp.toNat (updDchan c (fun y =>
        { y with st := .inService, setpoint := sp, speed := spSpeed s sp.toNat }) s)))
    else .next (failChannel c 3 s)

/-- The highest speed of a channel's population: 0 for DDR5-4800 to 4 for DDR5-6400 (Table DRM-2). -/
def topSpeed (s : State) (c : Nat) : Nat :=
  match (channelDimm s c).threeDs, decide (2 ≤ dimmCount s c) with
  | false, false => 4
  | true, false => 3
  | false, true => 2
  | true, true => 0

/-- The highest speed that every channel of the interleave list supports. -/
def topSpeedAll (s : State) : Nat := s.dram.list.foldl (fun a c => min a (topSpeed s c)) 4

/-- Whether a set point is in use, or about to be. -/
def spInUse (s : State) (sp : Nat) : Bool :=
  (List.range 8).any (fun c => (dchanOf s c).inList && (dchanOf s c).setpoint.toNat == sp) ||
    (match s.dram.switch with | some (_, x, _, _) => x.toNat == sp | none => false)

/-- DRM.SETPOINT (R328): a second one replaces the one that is queued. -/
def bodyDrmSetpoint (sp : Nat) (org : Origin) (s : State) : Ans :=
  if inServiceChans s = [] ∧ s.dram.switch = none then refuse s .state
  else if topSpeedAll s < (spSpeed s sp).toNat then refuse s .badArg
  else if gatheringAny s then
    let s1 := match s.dram.queued with | some (o, _) => finish o .drmDone noUnit .state s | none => s
    { state := { s1 with dram := { s1.dram with queued := some (org, BitVec.ofNat 2 sp) } }, status := .pending }
  else { state := startSwitch org (BitVec.ofNat 2 sp) s, status := .pending }

/-- DRM_SETPOINT (R328). -/
def execDrmSetpoint (r : Req) (setpoint : BitVec 2) (s : State) : Host.Outcome State Fault Refusal :=
  .next (serve r 0x0702 (packFields [(2, setpoint.toNat)]) (bodyDrmSetpoint setpoint.toNat) s)

/-- DRM.SETPOINT_CFG (R308, R325). -/
def bodyDrmSetpointCfg (sp speed : Nat) (_org : Origin) (s : State) : Ans :=
  if 4 < speed ∨ topSpeedAll s < speed then refuse s .badArg
  else if spInUse s sp then refuse s .state
  else
    done (forEach (List.range 8) (fun c => updDchan c (fun y => { y with results := Tab.set none y.results sp none }))
      { s with dram := { s.dram with speeds := Tab.set 0 s.dram.speeds sp (BitVec.ofNat 3 speed) } })

/-- DRM_SETPOINT_CFG (R325). -/
def execDrmSetpointCfg (r : Req) (setpoint : BitVec 2) (speed : BitVec 3) (s : State) : Host.Outcome State Fault Refusal :=
  .next (serve r 0x0703 (packFields [(2, setpoint.toNat), (3, speed.toNat)]) (bodyDrmSetpointCfg setpoint.toNat speed.toNat) s)

/-- DRM.QOS (R321). -/
def bodyDrmQos (cls age : Nat) (_org : Origin) (s : State) : Ans :=
  if age < 50 then refuse s .badArg
  else done { s with dram := { s.dram with ages := Tab.set none s.dram.ages cls (some (BitVec.ofNat 16 age)) } }

/-- DRM_QOS (R321). -/
def execDrmQos (r : Req) (cls : BitVec 2) (ageNs : BitVec 16) (s : State) : Host.Outcome State Fault Refusal :=
  .next (serve r 0x0704 (packFields [(2, cls.toNat), (16, ageNs.toNat)]) (bodyDrmQos cls.toNat ageNs.toNat) s)

/-- Channels of a CH_MASK. -/
def maskChans (mask : Nat) : List Nat := bitsOf (BitVec.ofNat 8 mask)

/-- DRM.NRR (R323). -/
def bodyDrmNrr (mask exp : Nat) (_org : Origin) (s : State) : Ans :=
  if 9 ≤ exp ∧ exp ≤ 16 then done (forEach (maskChans mask) (fun c => updDchan c (fun y => { y with nrrExp := BitVec.ofNat 5 exp })) s)
  else refuse s .badArg

/-- DRM_NRR (R323). -/
def execDrmNrr (r : Req) (mask : BitVec 8) (exp : BitVec 5) (s : State) : Host.Outcome State Fault Refusal :=
  .next (serve r 0x0705 (packFields [(8, mask.toNat), (5, exp.toNat)]) (bodyDrmNrr mask.toNat exp.toNat) s)

/-! ## Repair commands (R331 to R333) -/

/-- Whether a channel's population has a row. -/
def rowExists (s : State) (c : Nat) (x : DramLoc) : Bool :=
  let d := channelDimm s c
  decide (x.dimm < max 1 (dimmCount s c)) && (x.rank == 0 || d.ranks2) && decide (x.cid < 2 ^ d.stackLog2.toNat)

/-- DRM.PPR (R333): what keeps the repair from being made is reported in the final event, as Table DRM-7 has it. -/
def bodyDrmPpr (c : Nat) (x : DramLoc) (org : Origin) (s : State) : Ans :=
  if (dchanOf s c).st ≠ .inService ∨ rowExists s c x = false then
    { state := s, status := .pending, after := finish org .drmDone noUnit .state }
  else if (dchanOf s c).noSpare.contains x.group then
    { state := s, status := .pending, after := finish org .drmDone noUnit .noResource }
  else { state := askRepair c x (some org) s, status := .pending }

/-- DRM_PPR (R333). -/
def execDrmPpr (r : Req) (channel : BitVec 3) (sub dimm rank : Bool) (cid bg : BitVec 3) (ba : BitVec 2) (row : BitVec 18)
    (s : State) : Host.Outcome State Fault Refusal :=
  .next (serve r 0x0706
    (packFields [(3, channel.toNat), (1, bit sub), (1, bit dimm), (1, bit rank), (3, cid.toNat), (3, bg.toNat), (2, ba.toNat),
      (18, row.toNat)])
    (bodyDrmPpr channel.toNat
      { sub := sub, dimm := bit dimm, rank := bit rank, cid := cid.toNat, bg := bg.toNat, ba := ba.toNat,
        row := row.toNat, col := 0 }) s)

/-- SOFT_REPAIR_DONE (R332): traffic to the bank resumes, and the repair record gains a pending hard repair. -/
def execSoftRepairDone (channel : Fin 8) (s : State) : Host.Outcome State Fault Refusal :=
  let c := channel.val
  match (dchanOf s c).repair with
  | [] => .next s
  | (x, org) :: rest =>
    let s1 := updSub c x.sub (fun y => { y with heldBank := none })
      (updDchan c (fun y => { y with repair := rest, rowErrs := Tab.set 0 y.rowErrs x.rowKey 0 }) s)
    let s2 :=
      if (recordNow s1).ppr.length < 256 then writeRecord (fun y => { y with ppr := y.ppr ++ [pprEntry c x 1] }) s1 else s1
    .next (finishOpt org .drmDone noUnit .ok (raise .dramPpr (locData c x ++ [(8, 4)]) (holdBank c s2)))

/-- Asks for the repair of every candidate row not yet repaired, where its bank group has a spare row. -/
def repairCandidates (c : Nat) (s : State) : State :=
  ((dchanOf s c).cands.filter (fun k => !k.2 && !(dchanOf s c).noSpare.contains k.1.group)).foldl
    (fun a k => askRepair c k.1 none a) s

/-- DRM.PPR_AUTO (R331): enabling it repairs the rows that are candidates already. -/
def bodyDrmPprAuto (mask : Nat) (enable : Bool) (_org : Origin) (s : State) : Ans :=
  done (forEach (maskChans mask) (fun c s =>
    let s1 := updDchan c (fun y => { y with pprAuto := enable }) s
    if enable then repairCandidates c s1 else s1) s)

/-- DRM_PPR_AUTO (R331). -/
def execDrmPprAuto (r : Req) (mask : BitVec 8) (enable : Bool) (s : State) : Host.Outcome State Fault Refusal :=
  .next (serve r 0x0707 (packFields [(8, mask.toNat), (1, bit enable)]) (bodyDrmPprAuto mask.toNat enable) s)

/-- DRM.EXCLUDE (R336). -/
def bodyDrmExclude (mask : Nat) (_org : Origin) (s : State) : Ans :=
  done (writeRecord (fun x => { x with exclude := x.exclude ||| BitVec.ofNat 8 mask }) s)

/-- DRM_EXCLUDE (R336). -/
def execDrmExclude (r : Req) (mask : BitVec 8) (s : State) : Host.Outcome State Fault Refusal :=
  .next (serve r 0x0708 (packFields [(8, mask.toNat)]) (bodyDrmExclude mask.toNat) s)

/-- DRM.INCLUDE (R336). -/
def bodyDrmInclude (mask : Nat) (_org : Origin) (s : State) : Ans :=
  done (writeRecord (fun x => { x with exclude := x.exclude &&& ~~~(BitVec.ofNat 8 mask) }) s)

/-- DRM_INCLUDE (R336). -/
def execDrmInclude (r : Req) (mask : BitVec 8) (s : State) : Host.Outcome State Fault Refusal :=
  .next (serve r 0x0709 (packFields [(8, mask.toNat)]) (bodyDrmInclude mask.toNat) s)

/-- DRM.TRAIN_EXPORT (R330). -/
def bodyDrmTrainExport (c sp : Nat) (_org : Origin) (s : State) : Ans :=
  match Tab.get none (dchanOf s c).results sp with
  | some x => done s x
  | none => refuse s .state

/-- DRM_TRAIN_EXPORT (R330). -/
def execDrmTrainExport (r : Req) (channel : BitVec 3) (setpoint : BitVec 2) (s : State) : Host.Outcome State Fault Refusal :=
  .next (serve r 0x070A (packFields [(3, channel.toNat), (2, setpoint.toNat)])
    (bodyDrmTrainExport channel.toNat setpoint.toNat) s)

/-- DRM.TRAIN_IMPORT (R330). -/
def bodyDrmTrainImport (c sp : Nat) (record : List Byte) (_org : Origin) (s : State) : Ans :=
  let known := (dchanOf s c).dimms.any (fun d => match d with | some x => x.serial == Config.recordSerial record | none => false)
  if Config.recordCrcOk record = false ∨ known = false then refuse s .badArg
  else if spInUse s sp then refuse s .state
  else done (updDchan c (fun y => { y with results := Tab.set none y.results sp (some record) }) s)

/-- DRM_TRAIN_IMPORT (R330). -/
def execDrmTrainImport (r : Req) (channel : BitVec 3) (setpoint : BitVec 2) (record : List Byte) (s : State) :
    Host.Outcome State Fault Refusal :=
  .next (serve r 0x070B (packRecord [(3, channel.toNat), (2, setpoint.toNat)] record)
    (bodyDrmTrainImport channel.toNat setpoint.toNat record) s)

/-! ## DMA and status (R338 to R340, R605) -/

/-- DRM.DMA_STOP (R340). -/
def bodyDrmDmaStop (mask : Nat) (org : Origin) (s : State) : Ans :=
  { state := { s with dram := { s.dram with
      dmaStopped := s.dram.dmaStopped ||| BitVec.ofNat 16 mask, dmaCmds := s.dram.dmaCmds ++ [org] } }, status := .pending }

/-- DRM_DMA_STOP (R340). -/
def execDrmDmaStop (r : Req) (mask : BitVec 16) (s : State) : Host.Outcome State Fault Refusal :=
  .next (serve r 0x070C (packFields [(16, mask.toNat)]) (bodyDrmDmaStop mask.toNat) s)

/-- DMA_STOP_DONE (R340): no request of PF1 is outstanding. Which DMA channel a request of PF1 comes from is not part of a
packet (Table NOC-4), so all of them must be answered (DEDUCED, log 41). -/
def execDmaStopDone (s : State) : Host.Outcome State Fault Refusal :=
  if s.dram.dmaCmds = [] ∨ s.noc.out.any (fun q => q.src == 70) = true then .next s
  else
    .next (s.dram.dmaCmds.foldl (fun a o => finish o .drmDone noUnit .ok a) { s with dram := { s.dram with dmaCmds := [] } })

/-- DRM_CH_STATE code (Table DRM-6). -/
def DramSt.code : DramSt → Nat
  | .absent => 0 | .training => 1 | .inService => 2 | .switching => 3 | .selfRefresh => 4 | .failed => 5 | .failedTrain => 6
  | .excluded => 7

/-- DRM_CH_STATUS, DRM_CH_NRR and DRM_CH_ERR of a channel (Table DRM-6). -/
def dramRegs (s : State) (c : Nat) : List Nat :=
  let x := dchanOf s c
  [ fieldsWord [(0, x.st.code), (3, x.setpoint.toNat), (5, x.speed.toNat), (8, bit x.inList), (9, x.index.toNat),
      (12, x.capGb.toNat)],
    fieldsWord [(0, x.nrrExp.toNat), (5, bit x.nrrMode), (6, bit x.pprAuto)],
    fieldsWord [(0, x.ce.toNat), (32, x.ue.toNat), (48, x.nrr.toNat)] ]

/-- Fields 4 to 12 of a channel record for one slot (Table DRM-9). -/
def dimmFields (d : Option Dimm) : List (Nat × Nat) :=
  match d with
  | none => [(8, 0), (8, 0), (16, 0), (16, 0), (32, 0), (240, 0), (16, 0), (16, 0), (16, 0)]
  | some x =>
    [(8, 1), (8, x.moduleType.toNat), (16, x.mfr.toNat), (16, x.capacityGb.toNat), (32, x.serial.toNat), (240, x.part.toNat),
     (16, x.hubTemp.toNat), (16, x.ts0Temp.toNat), (16, x.ts1Temp.toNat)]

/-- DRM.STATUS (R605). -/
def bodyDrmStatus (mask : Nat) (_org : Origin) (s : State) : Ans :=
  done s (packFields ((maskChans mask).flatMap (fun c =>
    (dramRegs s c).map (fun v => (64, v)) ++ dimmFields ((dchanOf s c).dimms.getD 0 none) ++
      dimmFields ((dchanOf s c).dimms.getD 1 none))))

/-- DRM_STATUS (R605). -/
def execDrmStatus (r : Req) (mask : BitVec 8) (s : State) : Host.Outcome State Fault Refusal :=
  .next (serve r 0x0701 (packFields [(8, mask.toNat)]) (bodyDrmStatus mask.toNat) s)

/-- DRM.ERRLOG (R339): two counts, the error locations in the layout of Table BRG-10 with bit 32 set for an uncorrectable
error, oldest first, and the channel's repair entries; the table gives no layout (DESIGN CHOICE, log 39). -/
def bodyDrmErrlog (c : Nat) (_org : Origin) (s : State) : Ans :=
  let es := (dchanOf s c).errLog.map (fun e => (pprEntry c e.1 (bit e.2)).toNat)
  let ps := ((recordNow s).ppr.filter (fun e => field e.toNat 0 3 == c)).map (fun e => e.toNat)
  done s (packFields ([(8, es.length), (16, ps.length)] ++ (es ++ ps).map (fun v => (64, v))))

/-- DRM_ERRLOG (R339). -/
def execDrmErrlog (r : Req) (channel : BitVec 3) (s : State) : Host.Outcome State Fault Refusal :=
  .next (serve r 0x070D (packFields [(3, channel.toNat)]) (bodyDrmErrlog channel.toNat) s)

end Sys2Proof.Machine
end

