-- ==== Sys2Proof/Machine/Links.lean ====
section
/-! DEFINITION. The operations of the chain link: codes and the port status word (R303), stopping and resuming scheduled
traffic (R102, R103), links that go down (R246, R250), lane widths and maps (R239, R253), and TXN packets: their flits,
credits and routes (R267, R281 to R288). -/

namespace Sys2Proof.Machine

/-! ## Codes -/

/-- LNK_STATE code (Table LNK-12); codes 1 to 9 are also the training steps of Table LNK-2. -/
def LnkSt.code : LnkSt → Nat
  | .disabled => 0 | .detect => 1 | .clock => 2 | .lanes => 3 | .equalise => 4 | .frame => 5 | .exchange => 6
  | .measure => 7 | .key => 8 | .up => 9 | .swapped => 10 | .test => 11

/-- LNK_PORT_STATUS (Table LNK-12). -/
def portWord (s : State) (p : Nat) : Nat :=
  let x := portOf s p
  fieldsWord [(0, x.st.code), (4, x.txWidth.toNat), (6, x.rxWidth.toNat), (8, bit x.txSpare), (9, bit x.rxSpare),
    (10, x.role.toNat), (12, bit x.encrypted), (13, bit x.poisoned), (14, bit x.rxReversed), (15, bit x.clkInverted),
    (16, x.rxInverted.toNat), (25, x.rxFailed.toNat), (34, x.txFailed.toNat), (43, bit (!x.stopped.isEmpty)),
    (44, x.downCause.toNat), (48, x.upCount.toNat)]

/-- The power domain of a port (Table PWR-1). -/
def portDom (p : Nat) : Nat := 15 + p

/-- Lanes of a FH_WIDTH code (Table LNK-5). -/
def widthLanes (c : BitVec 2) : Nat := if c = 0 then 0 else 2 ^ c.toNat

/-- The widest width code that a number of good lanes allows, 0 below two (R253, R264). -/
def widthFor (good : Nat) : BitVec 2 := if 8 ≤ good then 3 else if 4 ≤ good then 2 else if 2 ≤ good then 1 else 0

/-- The lane map and spare use of a direction with the good lanes given, in the sender's numbering: lanes 0 to 7 in
order with lane 8 in the place of a bad one at width 8, the lowest good lanes at narrower widths (R239, R253; the choice
of lanes at widths 4 and 2 is a DESIGN CHOICE, log 52). -/
def laneMap (good : BitVec 9) : BitVec 2 × List Nat × Bool :=
  let g := bitsOf good
  let w := widthFor g.length
  if w = 3 then
    let bad := (List.range 8).any (fun k => !good.getLsbD k)
    (3, (List.range 8).map (fun k => if good.getLsbD k then k else 8), bad)
  else (w, g.take (widthLanes w), false)

/-- The mask of lanes with the order of the lanes reversed (R252). -/
def reverseLanes (m : BitVec 9) : BitVec 9 := BitVec.ofNat 9 (fieldsWord ((bitsOf m).map (fun k => (8 - k, 1))))

/-! ## Scheduled traffic of a link -/

/-- The channels that a link carries, each with the width floor of its direction and whether it is the transmit
direction: by the slots reserved there (R268, R269). -/
def linkChans (x : Port) : List (BitVec 16 × Bool) :=
  ((x.slots.filterMap (fun e => e.2)).eraseDups.map (fun n => (n, true))) ++
    ((x.inSlots.filterMap (fun e => e.2)).eraseDups.map (fun n => (n, false)))

/-- Whether a channel's direction of a link is below its width floor, or the link is not up (R102). -/
def belowFloor (x : Port) (n : BitVec 16) (tx : Bool) : Bool :=
  !(x.st == .up) ||
    (if tx then decide (x.txWidth < Tab.get 0 x.floors n.toNat)
     else decide (x.rxWidth < Tab.get 0 x.floors (65536 + n.toNat)))

/-- Raises EV_SCHED_STOPPED or EV_SCHED_RESUMED for a port, 16 channels at a time (Table MBX-16a). -/
def raiseSched (ev : Ev) (p : Nat) : Nat → List (BitVec 16) → State → State
  | 0, _, s => s
  | n + 1, l, s =>
    if l.isEmpty then s
    else
      let now := l.take 16
      raiseSched ev p n (l.drop 16)
        (raise ev ([(8, p), (8, now.length)] ++ now.map (fun c => (16, c.toNat))) s)

/-- A channel resumes with the first word launched from now on (R103). -/
def resumeChan (s : State) (n : BitVec 16) : State :=
  match Tab.get none s.lnk.chans n.toNat with
  | some c =>
    let c' : ChanUse := { c with first := s.clk.time.toNat }
    { s with lnk := { s.lnk with chans := Tab.set none s.lnk.chans n.toNat (some c') } }
  | none => s

/-- Stops the channels of a link that are below their floor and resumes those that have come back to it (R102, R103). -/
def checkFloors (p : Nat) (s : State) : State :=
  let x := portOf s p
  let below := (((linkChans x).filter (fun c => belowFloor x c.1 c.2)).map (fun c => c.1)).eraseDups
  let fresh := below.filter (fun n => !x.stopped.contains n)
  let back := x.stopped.filter (fun n => !below.contains n)
  let s1 := back.foldl resumeChan (updPort p (fun x => { x with stopped := below }) s)
  raiseSched .schedResumed p back.length back (raiseSched .schedStopped p fresh.length fresh s1)

/-! ## Links that go down -/

/-- The port is the upstream port no more. -/
def dropUpstream (p : Nat) (s : State) : State :=
  if s.lnk.upstream = some p then { s with lnk := { s.lnk with upstream := none } } else s

/-- What a port forgets when its training or its link ends: widths, role, peer, keys and steps, and the packets in
parts (R250, R257). -/
def Port.clearLink (x : Port) : Port :=
  { x with txWidth := 0, rxWidth := 0, txSpare := false, rxSpare := false, role := 0, encrypted := false,
           poisoned := false, rxCut := false, ready := false, peer := none, rxMap := [], txMap := [], rxStep := none, txStep := none,
           spareBad := false, rxTxn := some [], rxMgmt := some [], txnWait := [], mgmtWait := [], credBack := [],
           fecInject := none, errs := [], rxWire := 0, txWire := 0, flight8 := 0, flight4 := 0, flight2 := 0,
           beacon := none, cmdReset := none, cmdWiden := none }

/-- A training step fails: the port returns to step 1 after 100 ms, with EV_LINK_DOWN (R250). -/
def failStep (p : Nat) (cause : Nat) (s : State) : State :=
  let step := (portOf s p).st.code
  let s1 := dropUpstream p (updPort p (fun x =>
    { x.clearLink with st := .detect, retry := true, downCause := BitVec.ofNat 4 cause }) s)
  raise .linkDown [(8, p), (8, cause), (8, step)] s1

/-- The NOC_PORTs that end a channel on a link. -/
def linkEnds (s : State) (p : Nat) : List Nat :=
  s.lnk.chans.filterMap (fun e =>
    match e.2 with
    | some c => if c.desc.dest && c.port == p then some c.desc.nocPort.val else none
    | none => none)

/-- Changes the SCHED faces of some NOC_PORTs. -/
def updFaces (l : List Nat) (f : Face → Face) (s : State) : State :=
  { s with lnk := { s.lnk with faces := l.foldl (fun t n => Tab.upd {} t n f) s.lnk.faces } }

/-- POISON returns to 0 at the faces of the channels of a link that is no longer poisoned (R299). -/
def faceClear (p : Nat) (s : State) : State :=
  updFaces (linkEnds s p) (fun f => { f with poison := false }) s

/-- A link that is up goes down, or a port that trains stops training: the port takes state `dest`, its scheduled channels
stop, and its LNK.RESET and LNK.WIDEN end with ST_AUTH and ST_STATE (R102, R246, R264, R275). -/
def linkFall (p : Nat) (dest : LnkSt) (cause : Nat) (s : State) : State :=
  let x := portOf s p
  let s1 := dropUpstream p (updPort p (fun x => { x.clearLink with st := dest, downCause := BitVec.ofNat 4 cause }) s)
  let s2 := checkFloors p (faceClear p (raise .linkDown [(8, p), (8, cause), (8, x.st.code)] s1))
  finishOpt x.cmdWiden .lnkDone p .state (finishOpt x.cmdReset .lnkDone p .auth s2)

/-- Whether a port trains or is up. -/
def linkActive (x : Port) : Bool :=
  match x.st with
  | .disabled | .detect | .swapped | .test => false
  | _ => true

/-- Takes every link and every training down, to DETECT (R246, R503). -/
def allLinksFall (cause : Nat) (s : State) : State :=
  forEach (List.range 6) (fun p s => if linkActive (portOf s p) then linkFall p .detect cause s else s) s

/-- The fabric clock stops: PLL group 0 is unlocked, every RUNNING region goes to HELD and presents its border values,
chain time is lost, vertical alignment has to run again, and EV_CLOCK_LOST is raised (R23, Table STK-4, R246, R503). -/
def loseFabricClock (cause port : Nat) (s : State) : State :=
  if (pllOf s 0).locked = false then s
  else
    let s1 := forEach (runningRegions s) (fun r s => leaveRunning r .held 5 s) s
    let s2 := updPll 0 (fun x => { x with locked := false }) s1
    raise .clockLost [(8, cause), (8, if cause = 1 then 0xFF else 0), (8, port)]
      { s2 with
        clk := { s2.clk with timeLocked := false, unsync := true }
        align := { s2.align with busy := true, running := false }
        lnk := { s2.lnk with slip := false } }

/-- A member loses the forwarded clock of its upstream port: its fabric clock stops, it takes every link down, its PLL
groups 1 to 3 hold their frequency or take REFCLK, and 100 µs pass before it trains again (R246, R500). -/
def loseUpstream (s : State) : State :=
  match s.lnk.upstream with
  | none => s
  | some p =>
    let s1 := allLinksFall 2 (loseFabricClock 1 p s)
    let ref : PllRef := if s1.lnk.refclk then .refclk else .holdover
    let s2 := forEach [1, 2, 3] (fun g s => updPll g (fun x => { x with ref := ref }) s) s1
    { s2 with lnk := { s2.lnk with lossWait := true } }

/-- The link is poisoned: later flits of the direction are discarded, the peer is told, and the faces of the channels that
end on the link present POISON with VALID 0 and data 0 (R104, R298). -/
def poisonLink (p : Nat) (s : State) : State :=
  let s1 := updPort p (fun x =>
    { x with poisoned := true, rxCut := true, rxTxn := some [], rxMgmt := some [], ctrlOut := x.ctrlOut ++ [(6, 1)] }) s
  raise .linkPoisoned [(8, p)] (updFaces (linkEnds s p) (fun f =>
    { f with poison := true, rdata := 0, rvalid := false, padding := [] }) s1)

/-! ## TXN packets (R286 to R288) -/

/-- The requests that a TX_OP names (Table LNK-11). -/
def txnOp (n : Nat) : Option NocOp :=
  match n with
  | 1 => some .read | 2 => some .write | 3 => some .fetchAdd | 4 => some .swap | 5 => some .compareSwap | _ => none

/-- TX_OP of a request. -/
def txnCode : NocOp → Nat
  | .read => 1 | .write => 2 | .fetchAdd => 3 | .swap => 4 | .compareSwap => 5

/-- Whether a route word ends its route: its first selector above 5 is a 6 (R282). -/
def wordEnds (w : W64) : Bool :=
  match (List.range 21).find? (fun i => 6 ≤ routeSel w i) with
  | some i => routeSel w i == 6
  | none => false

/-- Words of the extension flits, 3 to a flit: the flits that hold the rest of a route, up to the word that ends it
(R286). -/
def routeFlits : List (BitVec 240) → List W64 × List (BitVec 240)
  | [] => ([], [])
  | f :: fs =>
    let ws := (List.range 3).map (fun i => f.extractLsb' (64 * i) 64)
    match ws.findIdx? wordEnds with
    | some i => (ws.take (i + 1), fs)
    | none => (ws ++ (routeFlits fs).1, (routeFlits fs).2)

/-- Data words of n bytes in data flits of 30 bytes each (R286). -/
def flitWords (fs : List (BitVec 240)) (n : Nat) : List W64 :=
  wordsOfBytes ((fs.flatMap (fun f => bytesLE 30 f.toNat)).take n)

/-- Data words that a packet carries: those of a write or an atomic, of a read's response with ST_OK, ST_POISON or
ST_INTEGRITY, and the old value of an atomic (R288, R289). -/
def txnDataWords (op len status : Nat) : Nat :=
  match op with
  | 2 => len + 1 | 3 => 1 | 4 => 1 | 5 => 2
  | 0x81 => if status = 0 ∨ status = 0x40 ∨ status = 0x41 then len + 1 else 0
  | 0x83 | 0x84 | 0x85 => if status = 0 ∨ status = 0x40 ∨ status = 0x41 then 1 else 0
  | _ => 0

/-- The packet that the flits' payloads spell: a header flit, extension flits with the route's words first, and data flits
(R286; the order of the extension words is a DESIGN CHOICE, log 53). -/
def parseTxn (l : List (BitVec 240)) : Option TxnPkt :=
  match l with
  | [] => none
  | h :: fs =>
    let v := h.toNat
    let op := field v 176 8
    let len := field v 184 8
    let n := txnDataWords op len (field v 208 8)
    let dataFlits := (8 * n + 29) / 30
    let ext := fs.take (fs.length - dataFlits)
    let (route, rest) := if Nat.testBit v 221 then routeFlits ext else ([], ext)
    let rets := if Nat.testBit v 222 then
      (rest.flatMap (fun f => (List.range 3).map (fun i => f.extractLsb' (64 * i) 64))).filter (fun w => !(w == 0)) else []
    if 32 ≤ len then none
    else some { route := BitVec.ofNat 64 v, routeExt := route, ret := BitVec.ofNat 64 (field v 64 64), retWords := rets,
                addr := BitVec.ofNat 48 (field v 128 48), op := BitVec.ofNat 8 op, len := Fin.ofNat 32 len,
                tag := BitVec.ofNat 12 (field v 192 12), status := BitVec.ofNat 8 (field v 208 8),
                hop := BitVec.ofNat 5 (field v 216 5), data := flitWords (fs.drop (fs.length - dataFlits)) (8 * n) }

/-- Whether a packet is a response. -/
def isRsp (k : TxnPkt) : Bool := k.op.getLsbD 7

/-- Flits of a packet (R286). -/
def txnFlits (k : TxnPkt) : Nat :=
  1 + (k.routeExt.length + 2) / 3 + (k.retWords.length + 2) / 3 + (8 * k.data.length + 29) / 30

/-- Pushes the port of arrival on a return word; a full word joins the return words first (R287). -/
def pushReturn (p : Nat) (ret : W64) (words : List W64) : W64 × List W64 :=
  if ret.toNat / 2 ^ 60 = 0 then (BitVec.ofNat 64 (ret.toNat * 8 + p), words)
  else (BitVec.ofNat 64 (6 * 8 + p), words ++ [ret])

/-- Gives the packets that wait to the transmit side, responses before requests, each class in order against its credits
(R267, R272). -/
def drainTxn : Nat → Port → Port
  | 0, x => x
  | n + 1, x =>
    match x.txnWait.find? isRsp with
    | some k =>
      if txnFlits k ≤ x.credRsp then
        drainTxn n { x with credRsp := x.credRsp - txnFlits k, txnWait := x.txnWait.erase k, txnOut := x.txnOut ++ [k] }
      else drainReq n x
    | none => drainReq n x
where
  /-- The requests, in order. -/
  drainReq : Nat → Port → Port
    | 0, x => x
    | n + 1, x =>
      match x.txnWait.find? (fun k => !isRsp k) with
      | some k =>
        if txnFlits k ≤ x.credReq then
          drainReq n { x with credReq := x.credReq - txnFlits k, txnWait := x.txnWait.erase k, txnOut := x.txnOut ++ [k] }
        else x
      | none => x

/-- Gives a packet to the transmit side of a port, behind the packets of its class that wait for credits. -/
def giveTxn (p : Nat) (k : TxnPkt) (s : State) : State :=
  updPort p (fun x => drainTxn (x.txnWait.length + 1) { x with txnWait := x.txnWait ++ [k] }) s

/-- MGMT messages that the credits now allow go out, in order (R267). -/
def drainMgmt (p : Nat) : Nat → State → State
  | 0, s => s
  | n + 1, s =>
    match (portOf s p).mgmtWait with
    | [] => s
    | m :: ms =>
      if mgmtFlits m ≤ (portOf s p).credMgmt then
        drainMgmt p n (updPort p (fun x => { x with mgmtWait := ms, credMgmt := x.credMgmt - mgmtFlits m })
          { s with mbx := { s.mbx with mgmtOut := s.mbx.mgmtOut ++ [(p, m)] } })
      else s

/-- A response to a request packet, along its return route (R287, R289). -/
def txnReply (k : TxnPkt) (st : Status) (data : List W64) : TxnPkt :=
  { route := k.ret, routeExt := k.retWords.reverse, ret := 6, retWords := [], addr := k.addr, op := k.op ||| 0x80,
    len := k.len, tag := k.tag, status := BitVec.ofNat 8 st.code, hop := 0, data := data }

/-- Sends a packet of this device, or one that passes through it, by the port its route names; none where the route
leads to a link that is down (R273, R282, R283). A packet that has arrived is for port `from_`. -/
def moveTxn (from_ : Nat) (k : TxnPkt) (s : State) : Option State :=
  match routeStep k.route k.routeExt k.hop.toNat with
  | (.here, w, ext, hop) =>
    let k' := { k with route := w, routeExt := ext, hop := BitVec.ofNat 5 hop }
    some (updPort from_ (fun x => { x with txnIn := x.txnIn ++ [(isRsp k, k')] }) s)
  | (.port p, w, ext, hop) =>
    if linkUpAt s p then some (giveTxn p { k with route := w, routeExt := ext, hop := BitVec.ofNat 5 hop } s) else none
  | (.dead, _, _, _) => none

/-- Sends a response on its way; a route to a link that is down discards it (R283). -/
def sendRsp (from_ : Nat) (k : TxnPkt) (s : State) : State := (moveTxn from_ k s).getD s

/-- A TXN packet arrives whole at a port: its return word is pushed, and it is performed here, passed through, or answered
with ST_NO_RESOURCE where a request's route ends at a link that is down (R273, R282, R283, R287). -/
def arriveTxn (p : Nat) (k : TxnPkt) (s : State) : State :=
  let r := pushReturn p k.ret k.retWords
  let k1 := { k with ret := r.1, retWords := r.2 }
  match moveTxn p k1 s with
  | some s1 => s1
  | none => if isRsp k1 then s else sendRsp p (txnReply k1 .noResource []) s

/-! ## MGMT messages (R269, R270, R294) -/

/-- A device on the route of a reservation takes slots of its own on the outgoing link; with too few free it refuses, and
sends the release back along the return route (R269). -/
def passReserve (q : Nat) (m : MgmtMsg) (s : State) : State × Option MgmtMsg :=
  let n := BitVec.ofNat 16 (natLE (m.payload.take 2))
  let k := (m.payload.getD 2 0).toNat
  let floors := (m.payload.drop (3 + k)).map (fun b => b.setWidth 2)
  if slotsFree (portOf s q) k then
    let l := freeSlots k (portOf s q)
    (updPort q (reserveSlots n l (floors.getD 1 0)) s, some { m with payload := reservePayload n l (floors.drop 1) })
  else (sendMgmt (replyMgmt m .release [] (bytesLE 2 n.toNat)) s, none)

/-- The receive side of a port learns the slots and the floor of a channel (R269). -/
def learnSlots (p : Nat) (m : MgmtMsg) (s : State) : State :=
  let n := BitVec.ofNat 16 (natLE (m.payload.take 2))
  let k := (m.payload.getD 2 0).toNat
  let l := ((m.payload.drop 3).take k).map (fun b => b.toNat % 64)
  updPort p (fun x => { x with
    inSlots := l.foldl (fun t i => Tab.set none t i (some n)) x.inSlots,
    floors := Tab.set 0 x.floors (65536 + n.toNat) ((m.payload.getD (3 + k) 0).setWidth 2) }) s

/-- A release that passes by or arrives: the channel's slots of the links it names are free again (R269, R270). -/
def learnRelease (p : Nat) (m : MgmtMsg) (s : State) : State :=
  let n := BitVec.ofNat 16 (natLE (m.payload.take 2))
  updPort p (fun x => releaseTx n (releaseRx n x)) s

/-- A MGMT message arrives whole at a port: the return word is pushed, reservations act at every device on the route, and
it is received here or passed on; a route to a link that is down discards it (R269, R270, R282, R283, R287, R294). -/
def arriveMgmt (p : Nat) (m : MgmtMsg) (s : State) : State :=
  let r := pushReturn p m.ret m.retWords
  let m1 := { m with ret := r.1, retWords := r.2 }
  let s1 := match m.kind with
    | .reserve => learnSlots p m1 s
    | .release => learnRelease p m1 s
    | _ => s
  match routeStep m1.route m1.routeExt m1.hop.toNat with
  | (.here, _, _, _) =>
    match m.kind with
    | .reserve => s1
    | .release => s1
    | _ => updPort p (fun x => { x with mgmtIn := x.mgmtIn ++ [m1] }) s1
  | (.port q, w, ext, hop) =>
    let m2 := { m1 with route := w, routeExt := ext, hop := BitVec.ofNat 5 hop }
    match m.kind with
    | .reserve =>
      match passReserve q m1 s1 with
      | (s2, some m3) =>
        if linkUpAt s2 q then giveMgmt q { m3 with route := w, routeExt := ext, hop := BitVec.ofNat 5 hop } s2 else s2
      | (s2, none) => s2
    | .release =>
      let s2 := learnRelease q m1 s1
      if linkUpAt s2 q then giveMgmt q m2 s2 else s2
    | _ => if linkUpAt s1 q then giveMgmt q m2 s1 else s1
  | (.dead, _, _, _) => s1

end Sys2Proof.Machine
end

