-- ==== Sys2Proof/Machine/Pins.lean ====
section
/-! DEFINITION. User pins and pin timing: banks, pin states, edges, events, compare windows, faults, probes and the PIN
commands (chapter 12). -/

namespace Sys2Proof.Machine

/-! ## Banks and pin states -/

/-- The level of a measurement (Table PIN-1). -/
def levelOf (mv : Nat) : BitVec 3 :=
  if mv < 500 then 0
  else if 1140 ≤ mv ∧ mv ≤ 1260 then 1
  else if 1425 ≤ mv ∧ mv ≤ 1575 then 2
  else if 1710 ≤ mv ∧ mv ≤ 1890 then 3
  else if 2375 ≤ mv ∧ mv ≤ 2625 then 4
  else if 3135 ≤ mv ∧ mv ≤ 3465 then 5
  else 6

/-- Whether a level is one of the five of Table PIN-1. -/
def levelKnown (l : BitVec 3) : Bool := decide (1 ≤ l.toNat ∧ l.toNat ≤ 5)

/-- The nominal level in mV. -/
def nominalMv (l : BitVec 3) : Nat :=
  match l.toNat with
  | 1 => 1200 | 2 => 1500 | 3 => 1800 | 4 => 2500 | _ => 3300

/-- The top of the threshold range in 10 mV; the widest range where the level is not known (Table PIN-3, R421). -/
def vthTop (l : BitVec 3) : Nat :=
  match l.toNat with
  | 1 => 130 | 2 => 160 | 3 => 190 | 4 => 260 | _ => 340

/-- The bank of a pin. -/
def pinBank (p : Nat) : Nat := p / 48

/-- The driving region of a pin (R415). -/
def pinRegion (p : Nat) : Nat := 4 * (p % 48 / 12) + p / 48 / 6

/-- The power domain of a bank. -/
def bankDom (nn : Nat) : Nat := 24 + nn

/-- Whether a bank has been released and its drivers follow the fabric (R219). -/
def bankReleased (s : State) (nn : Nat) : Bool :=
  match Tab.get none s.load.released nn with
  | some f => decide (f ≤ s.clk.fc)
  | none => false

/-- Whether a pin is high-impedance by the first row of Table PIN-2, or in scan mode (R561). -/
def pinUnpowered (s : State) (p : Nat) : Bool :=
  let b := bankOf s (pinBank p)
  !s.ext.pwrGood || !s.ext.resetReleased || s.start.scanBase || b.lost || !levelKnown b.level || !domOn s (bankDom (pinBank p))

/-- Whether a pin is part of the probe in progress. -/
def pinProbed (s : State) (p : Nat) : Bool :=
  match s.pins.probe with
  | some j => j.all.contains p
  | none => false

/-- PIN_STATE (Table PIN-2). -/
def pinState (s : State) (p : Nat) : Nat :=
  if pinUnpowered s p then (if (bankOf s (pinBank p)).lost then 6 else 0)
  else if pinProbed s p then 5
  else if (pinOf s p).safe = 1 then 3
  else if (pinOf s p).safe = 2 then 4
  else if !bankReleased s (pinBank p) then 0
  else if !regionIs s (pinRegion p) .running then 2
  else 1

/-- What a pin drives, where it drives: in open-drain mode only a low (R419). -/
def pinDrives (s : State) (p : Nat) : Option Bool :=
  let q := pinOf s p
  let on := (pinState s p == 1 || pinState s p == 2) && q.drvOe
  if on && q.mode == 1 then (if q.drvD then none else some false)
  else if on then some q.drvD
  else none

/-- Whether the receiver and PINTU of a pin work: in reset, with the bank domain off and during a loss of bank power they
do not (R414, R418). -/
def pinSenses (s : State) (p : Nat) : Bool :=
  s.ext.pwrGood && s.ext.resetReleased && domOn s (bankDom (pinBank p)) && !(bankOf s (pinBank p)).lost

/-! ## Records and windows (R428 to R432) -/

/-- fc that the glitch filter adds: ceil(PIN_GLITCH / 16). -/
def glitchFc (q : Pin) : Nat := (q.glitch.toNat + 15) / 16

/-- The fc of WIN_DONE, in chain time (R432). -/
def windowDone (q : Pin) (w : Window) : Nat := w.e / 16 + 6 + glitchFc q

/-- A window takes an edge into account: COIN at its ends, and a record that lies in it. -/
def Window.see (tick : Int) (rise coin record : Bool) (w : Window) : Window :=
  let w1 := { w with coinS := w.coinS || (coin && tick == (w.s : Int)), coinE := w.coinE || (coin && tick == (w.e : Int)) }
  if record && decide ((w.s : Int) ≤ tick ∧ tick < (w.e : Int)) then
    { w1 with firstRise := if w1.count = 0 then rise else w1.firstRise, count := w1.count + 1 }
  else w1

/-- Notes an edge in the open window, and among the edges ahead. -/
def Pin.see (time : Nat) (tick : Int) (rise coin record : Bool) (q : Pin) : Pin :=
  let lim : Int := 16 * ((time : Int) + 3)
  let old := q.ahead.filter (fun e => decide (lim ≤ e.1))
  { q with win := q.win.map (Window.see tick rise coin record),
           ahead := if lim ≤ tick then old ++ [(tick, rise, coin, record)] else old }

/-- An edge of an enabled direction is recorded, at uncorrected tick τ of chain time, seen in fc u: it joins the previous
record when it follows the previous edge by less than 2 ticks, makes a record, or is discarded at a full FIFO (R430). -/
def Pin.commit (time u : Nat) (tau : Int) (rise coin unsync : Bool) (q : Pin) : Pin :=
  if (if rise then q.evRise else q.evFall) = false then q
  else
    let tick := tau - q.deskew.toInt
    match q.lastEdge with
    | some (t, lost) =>
      if tick - t < 2 then
        let q1 := q.see time tick rise coin false
        { q1 with lastEdge := some (tick, lost),
                  fifo := if lost then q1.fifo
                          else match q1.fifo.reverse with
                               | r :: rs => (({ r with merged := true } : PinRec) :: rs).reverse
                               | [] => [] }
      else fresh tick
    | none => fresh tick
where
  /-- A new record. -/
  fresh (tick : Int) : Pin :=
    let q1 := { q.see time tick rise coin true with total := satAdd q.total 1 }
    let r : PinRec :=
      { time := BitVec.ofInt 64 (tick / 16), tick := BitVec.ofInt 4 (tick % 16), rise := rise, coin := coin, merged := false,
        ovf := false, unsync := unsync, from_ := u + 4 + glitchFc q }
    if q1.fifo.length < 16 then { q1 with fifo := q1.fifo ++ [r], lastEdge := some (tick, false) }
    else { q1 with lost := satAdd q1.lost 1, ovfDue := true, lastEdge := some (tick, true) }

/-- fc in which an edge at tick τ of chain time was seen. -/
def seenFc (s : State) (tau : Int) : Nat := ((s.clk.fc : Int) - ((s.clk.time.toNat : Int) - tau / 16)).toNat

/-- Records the held edge once PIN_GLITCH ticks have passed since it (R430). -/
def settleEdge (s : State) (q : Pin) : Pin :=
  match q.held with
  | some (tau, rise, coin) =>
    if tau + q.glitch.toNat ≤ 16 * (s.clk.time.toNat : Int) then
      { q with held := none }.commit s.clk.time.toNat (seenFc s tau) tau rise coin s.clk.unsync
    else q
  | none => q

/-- The result of a window (R432), with the fc in which WIN_DONE is 1. -/
def winResult (s : State) (q : Pin) (w : Window) : WinResult :=
  { at_ := s.clk.fc - (s.clk.time.toNat - windowDone q w), count := BitVec.ofNat 4 (min 15 w.count),
    flags := BitVec.ofNat 5 (bit w.firstRise + 2 * bit w.coinS + 4 * bit w.coinE + 8 * bit (w.lost || q.winLost) +
      16 * bit w.unsync) }

/-- A window whose WIN_DONE has been reached gives its result. -/
def settleWin (s : State) (q : Pin) : Pin :=
  match q.win with
  | some w =>
    if windowDone q w ≤ s.clk.time.toNat then { q with win := none, winLost := false, result := some (winResult s q w) } else q
  | none => q

/-- A pin brought to the present fc. -/
def pinNow (s : State) (p : Nat) : Pin := settleWin s (settleEdge s (pinOf s p))

/-- A received edge: with no filter it is recorded, and with PIN_GLITCH G it is held until G ticks have passed; an edge that
follows the held one by less removes both and is counted (R430). -/
def Pin.edge (s : State) (tau : Int) (rise coin : Bool) (q : Pin) : Pin :=
  let t := s.clk.time.toNat
  if q.glitch.toNat < 2 then q.commit t s.clk.fc tau rise coin s.clk.unsync
  else
    match q.held with
    | some (h, r, c) =>
      if tau - h < q.glitch.toNat then { q with held := none, glitches := satAdd q.glitches 1 }
      else { { q with held := none }.commit t (seenFc s h) h r c s.clk.unsync with held := some (tau, rise, coin) }
    | none => { q with held := some (tau, rise, coin) }

/-- PIN_EDGE (R425, R428 to R430): the received level changes in a tick of the present fc. With the fabric clock stopped
there is no fabric time, and no record. -/
def execPinEdge (pin : Fin 1152) (rise : Bool) (tick : Fin 16) (coin : Bool) (s : State) : Host.Outcome State Fault Refusal :=
  let p := pin.val
  let q := pinNow s p
  if pinSenses s p = false ∨ q.level = rise then .next s
  else
    let q1 := { q with level := rise, inQ := ((s.clk.fc + 4, rise) :: q.inQ).take 8 }
    .next (updPin p (fun _ =>
      if fabricClock s then q1.edge s (16 * (s.clk.time.toNat : Int) + tick.val) rise coin else q1) s)

/-- PIN_OUTPUT_LAUNCH (R425, R426): the face registers of a RUNNING region's pin take OUT_D, OUT_OE and OUT_OFS. -/
def execPinOutputLaunch (pin : Fin 1152) (d oe : Bool) (ofs : BitVec 4) (s : State) : Host.Outcome State Fault Refusal :=
  if regionIs s (pinRegion pin.val) .running ∧ fabricClock s = true then
    .next (updPin pin.val (launchPin s.clk.time.toNat d oe ofs) s)
  else .next s

/-- PIN_EVENT_POP (R429, R430): the oldest available record, or EV_VALID 0, is held from 5 fc later. The first record popped
after discards carries OVF. -/
def execPinEventPop (pin : Fin 1152) (s : State) : Host.Outcome State Fault Refusal :=
  let p := pin.val
  let t := s.clk.fc
  let q := pinNow s p
  if regionIs s (pinRegion p) .running = false ∨ fabricClock s = false ∨ q.pops.any (fun x => x.1 == t + 5) then .next s
  else
    match q.fifo with
    | r :: rs =>
      if r.from_ ≤ t then
        .next (updPin p (fun _ =>
          { q with fifo := rs, ovfDue := false, pops := ((t + 5, some { r with ovf := q.ovfDue }) :: q.pops).take 8 }) s)
      else .next (updPin p (fun _ => { q with pops := ((t + 5, none) :: q.pops).take 8 }) s)
    | [] => .next (updPin p (fun _ => { q with pops := ((t + 5, none) :: q.pops).take 8 }) s)

/-- PIN_WINDOW_OPEN (R431): WIN_SET opens a window from 3 fc after its face register; an open one is abandoned. With WIN_LEN
0 nothing happens (DEDUCED, log 49). -/
def execPinWindowOpen (pin : Fin 1152) (start len : BitVec 20) (s : State) : Host.Outcome State Fault Refusal :=
  let p := pin.val
  let q := pinNow s p
  if regionIs s (pinRegion p) .running = false ∨ fabricClock s = false ∨ len = 0 ∨
      domOn s (bankDom (pinBank p)) = false then .next s
  else
    let lo := 16 * (s.clk.time.toNat + 3) + start.toNat
    let w0 : Window := { s := lo, e := lo + len.toNat, count := 0, firstRise := false, coinS := false, coinE := false,
                         lost := (bankOf s (pinBank p)).lost, unsync := false }
    let w := q.ahead.foldl (fun w e => w.see e.1 e.2.1 e.2.2.1 e.2.2.2) w0
    .next (updPin p (fun _ => { q with win := some w, winLost := q.winLost || q.win.isSome }) s)

/-- PIN_WINDOW_RESULT (R432). -/
def execPinWindowResult (pin : Fin 1152) (s : State) : Host.Outcome State Fault Refusal :=
  .next (updPin pin.val (fun _ => pinNow s pin.val) s)

/-! ## Bank power (R412 to R414) -/

/-- Changes every pin of a bank. -/
def updBankPins (nn : Nat) (f : Nat → Pin → Pin) (s : State) : State :=
  forEach ((List.range 48).map (fun m => 48 * nn + m)) (fun p => updPin p (f p)) s

/-- A level is measured for the first time since RESET_N: the thresholds of pins that no PIN.CONFIG has set (R413). -/
def firstLevel (l : BitVec 3) (q : Pin) : Pin :=
  if q.vthSet then q
  else { q with vthHi := BitVec.ofNat 9 (nominalMv l * 60 / 1000), vthLo := BitVec.ofNat 9 (nominalMv l * 40 / 1000) }

/-- Thresholds above a level's range are lowered to its top (R413). -/
def clampVth (l : BitVec 3) (q : Pin) : Pin :=
  { q with vthHi := BitVec.ofNat 9 (min q.vthHi.toNat (vthTop l)), vthLo := BitVec.ofNat 9 (min q.vthLo.toNat (vthTop l)) }

/-- A released bank loses its power: the capture registers present 0, and an open window is marked (R414). -/
def losePower (s : State) (q : Pin) : Pin :=
  { q with level := false, inQ := ((s.clk.fc + 4, false) :: q.inQ).take 8, held := none, lastEdge := none,
           win := q.win.map (fun w => { w with lost := true }) }

/-- BANK_LEVEL_MEASURE (R412 to R414): VCCIO_Bnn is measured while the bank domain is on. -/
def execBankLevelMeasure (bank : Fin 24) (mv : BitVec 12) (s : State) : Host.Outcome State Fault Refusal :=
  let nn := bank.val
  if s.ext.resetReleased = false ∨ domOn s (bankDom nn) = false then .next s
  else
    let b := bankOf s nn
    let l := levelOf mv.toNat
    let s1 := updBank nn (fun b => { b with mv := mv, level := l, measured := b.measured || levelKnown l }) s
    let s2 := if levelKnown l ∧ b.measured = false then updBankPins nn (fun _ => firstLevel l) s1 else s1
    let s3 := if levelKnown l ∧ (levelKnown b.level = false ∨ b.measured = false) then updBankPins nn (fun _ => clampVth l) s2 else s2
    if b.original.isSome ∧ b.original ≠ some l ∧ b.lost = false then
      .next (raise .pinBankPower [(8, nn), (8, l.toNat), (16, mv.toNat)]
        (updBank nn (fun b => { b with lost := true }) (updBankPins nn (fun p _ => losePower s (pinNow s p)) s3)))
    else .next s3

/-- BANK_POWER_RECOVER (R414): the pins return, each with the level it finds, and no edge is recorded. -/
def execBankPowerRecover (bank : Fin 24) (levels : BitVec 48) (s : State) : Host.Outcome State Fault Refusal :=
  let nn := bank.val
  let b := bankOf s nn
  if b.lost ∧ b.original = some b.level ∧ domOn s (bankDom nn) = true then
    .next (updBank nn (fun b => { b with lost := false }) (updBankPins nn (fun p q =>
      let v := levels.getLsbD (p % 48)
      { q with level := v, inQ := ((s.clk.fc + 4, v) :: q.inQ).take 8, held := none, lastEdge := none }) s))
  else .next s

/-- The bank domain powers off: event FIFOs and open windows are lost (R418). -/
def pinBankOff (nn : Nat) (s : State) : State :=
  updBankPins nn (fun _ q =>
    { q with level := false, inQ := [], fifo := [], ovfDue := false, lastEdge := none, held := none, ahead := [], pops := [],
             win := none, winLost := false, result := none }) s

/-! ## Faults, probes and polarity (R433 to R435) -/

/-- PIN_SHORT (R433): a pin that drives against the received level is made safe. -/
def execPinShort (pin : Fin 1152) (level : Bool) (s : State) : Host.Outcome State Fault Refusal :=
  let p := pin.val
  match pinDrives s p with
  | none => .next s
  | some d =>
    if d = level then .next s
    else
      .next (raise .pinShort [(16, p), (8, 0), (8, bit d), (8, bit level)]
        (updPin p (fun q => { q with safe := 1, shortFlag := true }) s))

/-- PIN_OVERVOLTAGE (R433): a pin of a powered bank above its supply is made safe. -/
def execPinOvervoltage (pin : Fin 1152) (level : Bool) (s : State) : Host.Outcome State Fault Refusal :=
  let p := pin.val
  if pinSenses s p = false ∨ (pinOf s p).safe = 2 then .next s
  else
    .next (raise .pinShort [(16, p), (8, 1), (8, 0xFF), (8, bit level)]
      (updPin p (fun q => { q with safe := 2, ovFlag := true }) s))

/-- The class of a probed pin (Table PIN-6): whether each phase read above 90 % and below 10 %. -/
def probeClass (up down : Bool × Bool) : BitVec 3 :=
  if up.1 && down.2 then 1 else if up.1 && down.1 then 2 else if up.2 && down.2 then 3 else 4

/-- PIN_PROBE_PHASE (R434): a phase of the pin under examination ends. After its down phase it is classified, and the next
pin follows; after the last one the command ends. -/
def execPinProbePhase (above90 below10 : Bool) (s : State) : Host.Outcome State Fault Refusal :=
  match s.pins.probe with
  | none => .next s
  | some j =>
    match j.pins with
    | [] => .next s
    | p :: ps =>
      match j.up with
      | none => .next { s with pins := { s.pins with probe := some { j with up := some (above90, below10) } } }
      | some up =>
        let c := probeClass up (above90, below10)
        let s1 := updPin p (fun q => { q with probe := c }) s
        let s2 := if j.expect ∧ c = 1 then raise .pinOpen [(16, p)] s1 else s1
        let s3 := { s2 with pins := { s2.pins with probe := if ps.isEmpty then none else some { j with pins := ps, up := none } } }
        .next (if ps.isEmpty then finish j.org .pinDone noUnit .ok s3 else s3)

/-- Takes the first check of a pin out of those in progress. -/
def takeCheck (p : Nat) : List (Nat × Option Origin × Bool) → Option ((Option Origin × Bool) × List (Nat × Option Origin × Bool))
  | [] => none
  | x :: xs =>
    if x.1 = p then some (x.2, xs)
    else (takeCheck p xs).map (fun r => (r.1, x :: r.2))

/-- PIN_POLARITY_CHECK (R435): a steady level opposite to PIN_DIFF_IDLE inverts the receiver; a level that toggles makes the
command fail. A command ends with its last check. -/
def execPinPolarityCheck (pin : Fin 1152) (steady level : Bool) (s : State) : Host.Outcome State Fault Refusal :=
  let p := pin.val
  match takeCheck p s.pins.polarity with
  | none => .next s
  | some ((org, failed), rest) =>
    let bad := failed || !steady
    let mine := rest.any (fun x => x.2.1 == org)
    let rest' := rest.map (fun x => if x.2.1 = org ∧ org.isSome then (x.1, x.2.1, x.2.2 || bad) else x)
    let s1 := { s with pins := { s.pins with polarity := rest' } }
    let s2 :=
      if steady && level != (pinOf s p).diffIdle then
        raise .pinPolarity [(16, p), (8, 1)] (updPin p (fun q => { q with rxInv := true }) s1)
      else s1
    .next (match org with
      | some o => if mine then s2 else finish o .pinDone noUnit (if bad then .state else .ok) s2
      | none => s2)

/-! ## Registers (Tables PIN-7 and PIN-8) -/

/-- PIN_CFG. -/
def pinCfgWord (q : Pin) : Nat :=
  fieldsWord [(0, q.drive.toNat), (3, q.mode.toNat), (5, q.vthHi.toNat), (14, q.vthLo.toNat), (23, bit q.evRise),
    (24, bit q.evFall), (25, bit q.polAuto), (26, bit q.diffIdle), (27, bit q.txInv), (28, q.glitch.toNat),
    (36, q.shortFilt.toNat), (44, q.deskew.toNat)]

/-- PIN_STATUS. -/
def pinStatusWord (s : State) (p : Nat) : Nat :=
  let q := pinNow s p
  fieldsWord [(0, pinState s p), (3, bit q.level), (4, bit q.rxInv), (5, bit q.limit), (6, q.probe.toNat),
    (9, q.fifo.length), (14, bit q.shortFlag), (15, bit q.ovFlag)]

/-- PIN_COUNT. -/
def pinCountWord (s : State) (p : Nat) : Nat :=
  let q := pinNow s p
  fieldsWord [(0, q.total.toNat), (32, q.lost.toNat), (48, q.glitches.toNat)]

/-- PIN_BANK_STATUS. -/
def bankWord (s : State) (nn : Nat) : Nat :=
  let b := bankOf s nn
  fieldsWord [(0, b.level.toNat), (3, bit (Tab.get none s.load.released nn).isSome), (4, bit (domOn s (bankDom nn))),
    (16, b.mv.toNat)]

/-- The pin register at an address of the control space, if one is there (R436). -/
def pinReg (s : State) (a : Nat) : Option Nat :=
  if 0x082008000000 ≤ a ∧ a < 0x082008000000 + 1152 * 64 then
    let p := (a - 0x082008000000) / 64
    match (a - 0x082008000000) % 64 with
    | 0 => some (pinCfgWord (pinOf s p))
    | 8 => some (pinStatusWord s p)
    | 16 => some (pinCountWord s p)
    | _ => none
  else if 0x082008100000 ≤ a ∧ a < 0x082008100000 + 24 * 256 then
    if (a - 0x082008100000) % 256 = 0 then some (bankWord s ((a - 0x082008100000) / 256)) else none
  else none

/-! ## Commands (Table PIN-9) -/

/-- The pins of a bank that a mask names. -/
def maskPins (nn mask : Nat) : List Nat := ((List.range 48).filter (fun m => Nat.testBit mask m)).map (fun m => 48 * nn + m)

/-- Whether a configuration may be set for pins of a bank (R419, R421, R423, Table PIN-7). -/
def cfgLegal (s : State) (nn mask cfg : Nat) : Bool :=
  let l := (bankOf s nn).level
  let mode := field cfg 3 2
  let hi := field cfg 5 9
  let lo := field cfg 14 9
  decide (mode ≠ 3 ∧ lo ≤ hi ∧ hi ≤ vthTop l ∧ field cfg 28 8 ≠ 1 ∧ field cfg 36 8 ≠ 0) &&
    (mode != 2 || ((l == 3 || l == 4) && (maskPins nn mask).all (fun p => p % 2 == 0)))

/-- The pin as a PIN.CONFIG leaves it; the reserved bits of CFG are ignored (R12). -/
def configPin (cfg : Nat) (q : Pin) : Pin :=
  { q with
    drive := BitVec.ofNat 3 (field cfg 0 3), mode := BitVec.ofNat 2 (field cfg 3 2), vthHi := BitVec.ofNat 9 (field cfg 5 9),
    vthLo := BitVec.ofNat 9 (field cfg 14 9), vthSet := true, evRise := Nat.testBit cfg 23, evFall := Nat.testBit cfg 24,
    polAuto := Nat.testBit cfg 25, diffIdle := Nat.testBit cfg 26, txInv := Nat.testBit cfg 27,
    glitch := BitVec.ofNat 8 (field cfg 28 8), shortFilt := BitVec.ofNat 8 (field cfg 36 8),
    deskew := BitVec.ofNat 8 (field cfg 44 8) }

/-- PIN.CONFIG (R419, R421, R423, R424). -/
def bodyPinConfig (nn mask cfg : Nat) (_org : Origin) (s : State) : Ans :=
  if 24 ≤ nn ∨ cfgLegal s nn mask cfg = false then refuse s .badArg
  else done (forEach (maskPins nn mask) (fun p => updPin p (fun _ => configPin cfg (pinNow s p))) s)

/-- PIN_CONFIG (R421). -/
def execPinConfig (r : Req) (bank : BitVec 5) (mask : BitVec 48) (cfg : W64) (s : State) : Host.Outcome State Fault Refusal :=
  .next (serve r 0x0A01 (packFields [(5, bank.toNat), (48, mask.toNat), (64, cfg.toNat)])
    (bodyPinConfig bank.toNat mask.toNat cfg.toNat) s)

/-- PIN.STATUS (R437). -/
def bodyPinStatus (nn mask clear : Nat) (_org : Origin) (s : State) : Ans :=
  if 24 ≤ nn then refuse s .badArg
  else
    let ps := maskPins nn mask
    let data := packFields (ps.flatMap (fun p => [(64, pinStatusWord s p), (64, pinCountWord s p)]) ++ [(64, bankWord s nn)])
    let s1 := if clear = 1 then
        forEach ps (fun p => updPin p (fun _ =>
          { pinNow s p with total := 0, lost := 0, glitches := 0, shortFlag := false, ovFlag := false })) s
      else s
    done s1 data

/-- PIN_STATUS (R437). -/
def execPinStatus (r : Req) (bank : BitVec 5) (mask : BitVec 48) (clear : Bool) (s : State) : Host.Outcome State Fault Refusal :=
  .next (serve r 0x0A02 (packFields [(5, bank.toNat), (48, mask.toNat), (1, bit clear)])
    (bodyPinStatus bank.toNat mask.toNat (bit clear)) s)

/-- PIN.CLEAR (R433). -/
def bodyPinClear (nn mask : Nat) (_org : Origin) (s : State) : Ans :=
  if 24 ≤ nn then refuse s .badArg
  else done (forEach (maskPins nn mask) (fun p => updPin p (fun q => { q with safe := 0 })) s)

/-- PIN_CLEAR (R433). -/
def execPinClear (r : Req) (bank : BitVec 5) (mask : BitVec 48) (s : State) : Host.Outcome State Fault Refusal :=
  .next (serve r 0x0A03 (packFields [(5, bank.toNat), (48, mask.toNat)]) (bodyPinClear bank.toNat mask.toNat) s)

/-- Whether a probe skips a pin: it follows the fabric, or its bank has no power (R434). -/
def probeSkips (s : State) (p : Nat) : Bool :=
  pinState s p == 1 || !domOn s (bankDom (pinBank p)) || !levelKnown (bankOf s (pinBank p)).level

/-- PIN.PROBE (R434): skipped pins keep the result 0b000. -/
def bodyPinProbe (set us expect : Nat) (org : Origin) (s : State) : Ans :=
  if us = 0 then refuse s .badArg
  else if s.pins.probe.isSome then refuse s .busy
  else
    let named := (List.range 1152).filter (fun p => Nat.testBit set p)
    let pins := named.filter (fun p => !probeSkips s p)
    let s1 := forEach named (fun p => updPin p (fun q => { q with probe := 0 })) s
    if pins.isEmpty then { state := s1, status := .pending, after := finish org .pinDone noUnit .ok }
    else
      let j : ProbeJob := { org := org, pins := pins, all := pins, us := BitVec.ofNat 8 us, expect := expect == 1, up := none }
      { state := { s1 with pins := { s1.pins with probe := some j } }, status := .pending }

/-- PIN_PROBE (R434). -/
def execPinProbe (r : Req) (pinSet : BitVec 1152) (phaseUs : BitVec 8) (expect : Bool) (s : State) :
    Host.Outcome State Fault Refusal :=
  .next (serve r 0x0A04 (packFields [(1152, pinSet.toNat), (8, phaseUs.toNat), (1, bit expect)])
    (bodyPinProbe pinSet.toNat phaseUs.toNat (bit expect)) s)

/-- PIN.POLARITY (R435): pairs with PIN_POL_AUTO 0 are not checked. -/
def bodyPinPolarity (nn mask : Nat) (org : Origin) (s : State) : Ans :=
  let ps := maskPins nn mask
  if 24 ≤ nn ∨ ps.any (fun p => p % 2 == 1 || (pinOf s p).mode != 2) then refuse s .badArg
  else
    let go := ps.filter (fun p => (pinOf s p).polAuto)
    if go.isEmpty then { state := s, status := .pending, after := finish org .pinDone noUnit .ok }
    else
      { state := { s with pins := { s.pins with polarity := s.pins.polarity ++ go.map (fun p => (p, some org, false)) } },
        status := .pending }

/-- PIN_POLARITY (R435). -/
def execPinPolarity (r : Req) (bank : BitVec 5) (mask : BitVec 48) (s : State) : Host.Outcome State Fault Refusal :=
  .next (serve r 0x0A05 (packFields [(5, bank.toNat), (48, mask.toNat)]) (bodyPinPolarity bank.toNat mask.toNat) s)

/-- PIN.BANK (R437). -/
def bodyPinBank (nn : Nat) (_org : Origin) (s : State) : Ans :=
  if 24 ≤ nn then refuse s .badArg else done s (packFields [(64, bankWord s nn)])

/-- PIN_BANK (R437). -/
def execPinBank (r : Req) (bank : BitVec 5) (s : State) : Host.Outcome State Fault Refusal :=
  .next (serve r 0x0A06 (packFields [(5, bank.toNat)]) (bodyPinBank bank.toNat) s)

end Sys2Proof.Machine
end

