-- ==== Sys2Proof/Machine/Protect.lean ====
section
/-! DEFINITION. Memory encryption and integrity: the conversion of a region, the ends of creation, deletion and zero-fill,
the PRT registers and the PRT commands (R346 to R348, R355 to R366). -/

namespace Sys2Proof.Machine

/-! ## Registers (Table PRT-5) -/

/-- PRT_IR_STATE code. -/
def IrSt.code : IrSt → Nat
  | .off => 0 | .changing => 1 | .inService => 2 | .converting => 3

/-- The four registers of integrity region i. -/
def irWords (s : State) (i : Nat) : List Nat :=
  let x := irOf s i
  [ fieldsWord [(0, bit x.en), (1, x.sizeLog2.toNat), (5, x.baseGib.toNat), (15, x.st.code)],
    x.epoch.toNat, x.conv.toNat,
    fieldsWord [(0, x.macFail.toNat), (32, x.nodeFail.toNat), (48, x.advances.toNat)] ]

/-- The two registers of protected range m. -/
def rangeWords (s : State) (m : Nat) : List Nat :=
  let x := Tab.get {} s.prt.ranges m
  [ fieldsWord [(12, x.base.toNat)], fieldsWord [(12, x.limit.toNat), (62, bit x.en), (63, bit x.lock)] ]

/-- The PRT registers in order of address. -/
def prtWords (s : State) : List Nat :=
  [s.prt.capGib, s.prt.carve] ++ (List.range 8).flatMap (irWords s) ++ (List.range 16).flatMap (rangeWords s)

/-- The PRT register at an offset, if one is there. -/
def prtReg (s : State) (off : Nat) : Option Nat :=
  if off = 0 then some s.prt.capGib
  else if off = 8 then some s.prt.carve
  else if 0x100 ≤ off ∧ off < 0x200 then (irWords s ((off - 0x100) / 32))[(off - 0x100) % 32 / 8]?
  else if 0x400 ≤ off ∧ off < 0x500 then (rangeWords s ((off - 0x400) / 16))[(off - 0x400) % 16 / 8]?
  else none

/-! ## The converter -/

/-- The last page of region i has been reached by the conversion pointer. -/
def convAtEnd (x : IntRegion) : Bool := decide (x.firstPage + x.numPages ≤ x.conv.toNat / 4096)

/-- CONVERSION_PAGE (R355, R356, R362): the page at the pointer is rewritten under the new epoch, or skipped where it is
so already or lies under a poison list entry. After the last page the region is in service. -/
def execConversionPage (ir : Fin 8) (s : State) : Host.Outcome State Fault Refusal :=
  let i := ir.val
  let x := irOf s i
  if s.prt.key = false ∨ x.st ≠ .converting ∨ x.reinit ≠ none then .next s
  else
    let p := x.conv.toNat / 4096
    let s1 := if pageCurrent s i p ∨ (poisonOf s p).isSome then s else convertPage i p s
    let s2 := updIr i (fun y => { y with conv := y.conv + 4096 }) s1
    .next (if convAtEnd (irOf s2 i) then endConversion i s2 else s2)

/-! ## Zero-fills -/

/-- Removes the counters of pages in a range. -/
def dropPages (first count : Nat) (s : State) : State :=
  updPrt (fun x => { x with
    pages := Tab.keep (fun p => !decide (first ≤ p ∧ p < first + count)) x.pages
    mbPoison := Tab.keep (fun l => !decide (64 * first ≤ l ∧ l < 64 * (first + count))) x.mbPoison }) s

/-- IR_SET_DONE (R347, R348): the zero-fill of a creation leaves the region in service with all counters 0; that of a
deletion leaves its lines in the confidentiality area. -/
def execIrSetDone (ir : Fin 8) (s : State) : Host.Outcome State Fault Refusal :=
  let i := ir.val
  let x := irOf s i
  match x.cmd with
  | none => .next s
  | some org =>
    if s.prt.key = false ∨ x.st ≠ .changing then .next s
    else
      let s1 := dropPages x.firstPage x.numPages (zeroLines (64 * x.firstPage) (64 * x.numPages) s)
      .next (finish org .prtDone noUnit .ok (updIr i (fun y =>
        if y.deleting then { y with en := false, st := .off, cmd := none, deleting := false }
        else { y with st := .inService, cmd := none }) s1))

/-- The pages that a poison list entry covers: the first and the number. -/
def poisonPages (x : Poison) : Nat × Nat := (x.index * 8 ^ x.level, 8 ^ x.level)

/-- Whether a page range covers an entry's range as far as its region goes. -/
def coversPoison (s : State) (first count : Nat) (x : Poison) : Bool :=
  let q := irOf s x.ir
  let lo := max (poisonPages x).1 q.firstPage
  let hi := min ((poisonPages x).1 + (poisonPages x).2) (q.firstPage + q.numPages)
  decide (first ≤ lo ∧ hi ≤ first + count)

/-- Whether a page range and an entry's range share a page. -/
def meetsPoison (s : State) (first count : Nat) (x : Poison) : Bool :=
  let q := irOf s x.ir
  let lo := max (poisonPages x).1 q.firstPage
  let hi := min ((poisonPages x).1 + (poisonPages x).2) (q.firstPage + q.numPages)
  decide (max first lo < min (first + count) hi)

/-- The counters of pages written under a new epoch: 0, with its least significant bit (Table PRT-3). -/
def newPages (lsb : Bool) (first count : Nat) (t : Tab Page) : Tab Page :=
  if lsb then Tab.fill {} t ((List.range count).map (fun k => first + k)) { lsb := true } else t

/-- REINIT_ZERO_FILL_DONE (R362, R366, Table PRT-3 step 1). -/
def execReinitZeroFillDone (ir : Fin 8) (s : State) : Host.Outcome State Fault Refusal :=
  let i := ir.val
  let x := irOf s i
  match x.reinit with
  | none => .next s
  | some (org, first, count) =>
    if s.prt.key = false then .next s
    else
      let s1 := dropPages first count (zeroLines (64 * first) (64 * count) s)
      let s2 := updPrt (fun y => { y with
        pages := newPages (x.epoch.getLsbD 0) first count y.pages
        poison := y.poison.filter (fun e => !(e.ir == i && coversPoison s first count e)) }) s1
      .next (finish org .prtDone noUnit .ok (updIr i (fun y => { y with reinit := none }) s2))

/-! ## Commands (Table PRT-6) -/

/-- PRT.STATUS (R366): the PRT registers, then the poison list; the table gives no layout for the list (DESIGN CHOICE,
log 42). -/
def bodyPrtStatus (_org : Origin) (s : State) : Ans :=
  done s (packFields ((prtWords s).map (fun w => (64, w)) ++
    s.prt.poison.flatMap (fun e => [(8, e.ir), (8, e.level), (64, e.index)])))

/-- PRT_STATUS (R366). -/
def execPrtStatus (r : Req) (s : State) : Host.Outcome State Fault Refusal := .next (serve r 0x0801 [] bodyPrtStatus s)

/-- Whether a number is 0 or a power of two from 1 to 1,024 (R346). -/
def capacityOk (p : Nat) : Bool := p == 0 || (List.range 11).any (fun k => p == 2 ^ k)

/-- PRT.CAPACITY (R346): kept in the repair record for the next start. -/
def bodyPrtCapacity (p : Nat) (_org : Origin) (s : State) : Ans :=
  if capacityOk p then done (writeRecord (fun x => { x with prtCap := BitVec.ofNat 16 p }) s) else refuse s .badArg

/-- PRT_CAPACITY (R346). -/
def execPrtCapacity (r : Req) (pGib : BitVec 11) (s : State) : Host.Outcome State Fault Refusal :=
  .next (serve r 0x0802 (packFields [(11, pGib.toNat)]) (bodyPrtCapacity pGib.toNat) s)

/-- Whether a base and size may be an integrity region: inside the window, aligned and clear of the other regions
(R347). -/
def irFits (s : State) (i base k : Nat) : Bool :=
  decide (k ≤ 10 ∧ base % 2 ^ k = 0 ∧ base + 2 ^ k ≤ s.prt.capGib) &&
    (List.range 8).all (fun j =>
      let y := irOf s j
      j == i || !y.en || decide (base + 2 ^ k ≤ y.baseGib.toNat ∨ y.baseGib.toNat + 2 ^ y.sizeLog2.toNat ≤ base))

/-- PRT.IR_SET (R347, R348). With ENABLE 0, BASE_GIB and SIZE_LOG2 have no effect; a setting that is in force already
completes at once (DEDUCED, log 43). -/
def bodyPrtIrSet (i en base k : Nat) (org : Origin) (s : State) : Ans :=
  let x := irOf s i
  let now : Ans := { state := s, status := .pending, after := finish org .prtDone noUnit .ok }
  if s.prt.key = false ∨ x.st = .changing ∨ x.st = .converting then refuse s .state
  else if en = 0 then
    if x.en then
      { state := updIr i (fun y => { y with st := .changing, cmd := some org, deleting := true }) s, status := .pending }
    else now
  else if x.en ∧ ¬(x.baseGib.toNat = base ∧ x.sizeLog2.toNat = k) then refuse s .state
  else if irFits s i base k = false then refuse s .badArg
  else if x.en then now
  else
    { state := updIr i (fun _ => { en := true, sizeLog2 := BitVec.ofNat 4 k, baseGib := BitVec.ofNat 10 base,
                                   st := .changing, cmd := some org, deleting := false,
                                   macFail := x.macFail, nodeFail := x.nodeFail }) s,
      status := .pending }

/-- PRT_IR_SET (R348). -/
def execPrtIrSet (r : Req) (ir : BitVec 3) (enable : Bool) (baseGib : BitVec 10) (sizeLog2 : BitVec 4) (s : State) :
    Host.Outcome State Fault Refusal :=
  .next (serve r 0x0803
    (packFields [(3, ir.toNat), (1, bit enable), (10, baseGib.toNat), (4, sizeLog2.toNat)])
    (bodyPrtIrSet ir.toNat (bit enable) baseGib.toNat sizeLog2.toNat) s)

/-- PRT.REINIT (R355, R359, R362). During a conversion it is queued; a region at its last epoch answers ST_NO_RESOURCE in
the final event. -/
def bodyPrtReinit (i first count : Nat) (org : Origin) (s : State) : Ans :=
  let x := irOf s i
  if x.en = false ∨ s.prt.key = false ∨ ¬(x.st = .inService ∨ x.st = .converting) then refuse s .badArg
  else if count = 0 ∨ first < x.firstPage ∨ x.firstPage + x.numPages < first + count then refuse s .badArg
  else if s.prt.poison.any (fun e => e.ir == i && meetsPoison s first count e && !coversPoison s first count e) then
    refuse s .badArg
  else if x.epoch = BitVec.allOnes 32 then
    { state := s, status := .pending, after := finish org .prtDone noUnit .noResource }
  else if x.st = .converting then
    { state := updIr i (fun y => { y with queued := y.queued ++ [some (org, first, count)] }) s, status := .pending }
  else
    { state := updIr i (fun y => { y with reinit := some (org, first, count) }) (beginAdvance i s), status := .pending }

/-- PRT_REINIT (R362). -/
def execPrtReinit (r : Req) (ir : BitVec 3) (base pages : BitVec 36) (s : State) : Host.Outcome State Fault Refusal :=
  .next (serve r 0x0804 (packFields [(3, ir.toNat), (36, base.toNat), (36, pages.toNat)])
    (bodyPrtReinit ir.toNat base.toNat pages.toNat) s)

/-- PRT.RANGE_SET (R363, R364): a range whose limit is below its base is ST_BAD_ARG. -/
def bodyPrtRangeSet (m base limit en lock : Nat) (_org : Origin) (s : State) : Ans :=
  if (Tab.get {} s.prt.ranges m).lock then refuse s .state
  else if limit < base then refuse s .badArg
  else
    let y : ProtRange := { base := BitVec.ofNat 36 base, limit := BitVec.ofNat 36 limit, en := en == 1, lock := lock == 1 }
    done (updPrt (fun x => { x with ranges := Tab.set {} x.ranges m y }) s)

/-- PRT_RANGE_SET (R364). -/
def execPrtRangeSet (r : Req) (range : BitVec 4) (base limit : BitVec 36) (enable lock : Bool) (s : State) :
    Host.Outcome State Fault Refusal :=
  .next (serve r 0x0805
    (packFields [(4, range.toNat), (36, base.toNat), (36, limit.toNat), (1, bit enable), (1, bit lock)])
    (bodyPrtRangeSet range.toNat base.toNat limit.toNat (bit enable) (bit lock)) s)

/-- PRT.PRIV (R361): PCIe PF1 and the JTAG debug master are never privileged. -/
def bodyPrtPriv (mask : Nat) (_org : Origin) (s : State) : Ans :=
  if Nat.testBit mask 70 ∨ Nat.testBit mask 71 then refuse s .badArg
  else done (updPrt (fun x => { x with priv := BitVec.ofNat 256 mask }) s)

/-- PRT_PRIV (R361). -/
def execPrtPriv (r : Req) (mask : BitVec 256) (s : State) : Host.Outcome State Fault Refusal :=
  .next (serve r 0x0806 (packFields [(256, mask.toNat)]) (bodyPrtPriv mask.toNat) s)

end Sys2Proof.Machine
end

