-- ==== Sys2Proof/Machine/Tasks.lean ====
section
/-! DEFINITION. The task dispatcher: tokens, the matching store and the flow table, dispatch, the writing of dispatch groups
and the DSP commands (chapter 11). -/

namespace Sys2Proof.Machine

/-- Changes the dispatcher. -/
def updDsp (f : Dsp → Dsp) (s : State) : State := { s with dsp := f s.dsp }

/-- Engine e. -/
def dspEng (s : State) (e : Nat) : Engine := Tab.get {} s.dsp.engines e

/-- Source k. -/
def dspSrc (s : State) (k : Nat) : DspSource := Tab.get {} s.dsp.sources k

/-- Changes source k. -/
def updDspSrc (k : Nat) (f : DspSource → DspSource) (s : State) : State :=
  updDsp (fun d => { d with sources := Tab.upd {} d.sources k f }) s

/-- Whether the dispatcher acts: its domain is on. -/
def dspUp (s : State) : Bool := !domCut s 23

/-! ## Tokens (Table DSP-2) -/

/-- TK_KIND. -/
def tkKind (t : Token) : Nat := field t.1.toNat 0 2
/-- TK_SLOT. -/
def tkSlot (t : Token) : Nat := field t.1.toNat 2 2
/-- TK_SLOTS. -/
def tkSlots (t : Token) : Nat := field t.1.toNat 4 4
/-- TK_CLASS. -/
def tkClass (t : Token) : Nat := field t.1.toNat 8 2
/-- TK_TAG. -/
def tkTag (t : Token) : BitVec 32 := BitVec.ofNat 32 (field t.1.toNat 32 32)
/-- TK_FLOW. -/
def tkFlow (t : Token) : BitVec 32 := BitVec.ofNat 32 (field t.2.toNat 0 32)
/-- TK_ARG. -/
def tkArg (t : Token) : BitVec 32 := BitVec.ofNat 32 (field t.2.toNat 32 32)

/-- Reserved kind or non-zero reserved field; the fields that a kind holds at 0 count as reserved (DEDUCED, log 46). -/
def tkMalformed (t : Token) : Bool :=
  let w := t.1.toNat
  field w 10 22 != 0 ||
    (match tkKind t with
     | 0 => true
     | 1 => tkSlot t != 0
     | 2 => tkSlots t != 0 || tkClass t != 0
     | _ => tkSlot t != 0 || tkSlots t != 0 || tkClass t != 0 || tkArg t != 0)

/-- Whether port k takes only DONE tokens: a completion source or DSP_DONE (R394, R395). -/
def doneOnly (s : State) (k : Nat) : Bool := k == 65 || (decide (k < 64) && (dspSrc s k).role)

/-! ## The store and the flow table -/

/-- The flow of a key, if it is in the table. -/
def flowOf (s : State) (key : BitVec 32) : Option FlowEnt := s.dsp.flows.find? (fun f => f.key == key)

/-- Changes the flow of a key. -/
def updFlow (key : BitVec 32) (f : FlowEnt → FlowEnt) (s : State) : State :=
  updDsp (fun d => { d with flows := d.flows.map (fun x => if x.key = key then f x else x) }) s

/-- The item of a tag, if it is in the store. -/
def itemOf (s : State) (tag : BitVec 32) : Option Item := s.dsp.items.find? (fun x => x.tag == tag)

/-- Changes the item of a tag. -/
def updItem (tag : BitVec 32) (f : Item → Item) (s : State) : State :=
  updDsp (fun d => { d with items := d.items.map (fun x => if x.tag = tag then f x else x) }) s

/-- Items and flows each have 65,536 entries (R399, R400). -/
def dspMax : Nat := 65536

/-- The earliest ready item of a list. -/
def earliest : List Item → Option Item
  | [] => none
  | x :: xs =>
    match x.ready, earliest xs with
    | none, r => r
    | some _, none => some x
    | some a, some y => if a ≤ y.ready.getD 0 then some x else some y

/-- The item of a flow that became ready first is eligible once the flow is not in service (R401); it enters its class
then (R404). -/
def makeEligible (key : BitVec 32) (s : State) : State :=
  match flowOf s key with
  | some { tag := none, .. } =>
    match earliest (s.dsp.items.filter (fun x => x.flow == key)) with
    | none => s
    | some x =>
      if x.eligible ≠ none then s
      else
        let n := s.dsp.next
        updItem x.tag (fun y => { y with eligible := some n, entered := n }) (updDsp (fun d => { d with next := n + 1 }) s)
  | _ => s

/-- An unpinned flow with no item in the store and none in service is freed (R400). -/
def freeFlow (key : BitVec 32) (s : State) : State :=
  match flowOf s key with
  | some f =>
    if !f.pinned && f.tag.isNone && !s.dsp.items.any (fun x => x.flow == key) then
      updDsp (fun d => { d with flows := d.flows.filter (fun x => x.key != key), flowFull := false }) s
    else s
  | none => s

/-- Takes a flow out of service (R401). -/
def endService (key : BitVec 32) (s : State) : State :=
  freeFlow key (makeEligible key (updFlow key (fun f => { f with tag := none }) s))

/-- An item becomes ready (R399). -/
def makeReady (tag key : BitVec 32) (s : State) : State :=
  let n := s.dsp.next
  makeEligible key (updItem tag (fun y => { y with ready := some n }) (updDsp (fun d => { d with next := n + 1 }) s))

/-! ## Token outcomes (Table DSP-3) -/

/-- fc in one millisecond: 25 MHz × M (R501). -/
def msFc (s : State) : Nat := 25000 * s.clk.m.toNat

/-- Discards a token of port k: the count of its cause, and EV_DSP_TOKEN at most once per cause in each millisecond
(R398). -/
def discard (k cause : Nat) (t : Token) (s : State) : State :=
  let s1 := updDsp (fun d => { d with errs := Tab.upd 0 d.errs cause (fun c => satAdd c 1) }) s
  let due := match Tab.get none s.dsp.evAt cause with
    | none => true
    | some a => decide (a + msFc s ≤ s.clk.fc)
  if due then
    raise .dspToken [(8, cause), (8, k), (32, (tkTag t).toNat)]
      (updDsp (fun d => { d with evAt := Tab.set none d.evAt cause (some s.clk.fc) }) s1)
  else s1

/-- Whether a CREATE finds its entries: a free store entry, and its flow or a free flow entry. A CREATE whose tag is in the
store needs none, since it is discarded (DEDUCED, log 46). -/
def createFits (s : State) (t : Token) : Bool :=
  (itemOf s (tkTag t)).isSome ||
    (decide (s.dsp.items.length < dspMax) && ((flowOf s (tkFlow t)).isSome || decide (s.dsp.flows.length < dspMax)))

/-- A CREATE from port k. -/
def createTok (k : Nat) (t : Token) (s : State) : State :=
  if (itemOf s (tkTag t)).isSome then discard k 1 t s
  else
    let key := tkFlow t
    let s1 :=
      if (flowOf s key).isSome then s
      else updDsp (fun d => { d with flows := d.flows ++
        [{ key := key, group := d.defGroup.toNat, last := none, pinned := false, tag := none }] }) s
    let x : Item :=
      { tag := tkTag t, flow := key, classIn := tkClass t, cls := tkClass t, slots := BitVec.ofNat 4 (tkSlots t),
        filled := 0, arg := tkArg t, values := [], bypass := 0, ready := none, eligible := none, entered := 0 }
    let s2 := updDsp (fun d => { d with items := d.items ++ [x] }) s1
    if tkSlots t = 0 then makeReady x.tag key s2 else s2

/-- An OPERAND from port k. -/
def operandTok (k : Nat) (t : Token) (s : State) : State :=
  match itemOf s (tkTag t) with
  | none => discard k 2 t s
  | some x =>
    let j := tkSlot t
    if x.slots.getLsbD j = false ∨ x.filled.getLsbD j = true then discard k 3 t s
    else
      let f := x.filled ||| (1#4 <<< j)
      let s1 := updItem x.tag (fun y => { y with filled := f, values := Tab.set 0 y.values j t.2 }) s
      if f = x.slots then makeReady x.tag x.flow s1 else s1

/-- A DONE from port k. -/
def doneTok (k : Nat) (t : Token) (s : State) : State :=
  match flowOf s (tkFlow t) with
  | some f => if f.tag = some (tkTag t) then endService f.key s else discard k 4 t s
  | none => discard k 4 t s

/-! ## Taking tokens in rotation (R397, R408) -/

/-- The token at the head of port k: a source, the token port or the DONE port. -/
def headTok (s : State) (k : Nat) : Option Token :=
  if k < 64 then (dspSrc s k).head
  else if k = 64 then (s.dsp.tokenQ.head?).bind (fun w => w.tokens.head?)
  else (s.dsp.doneQ.head?).bind (fun w => w.tokens.head?)

/-- Whether the head token of port k is held by back-pressure already. -/
def tokHeld (s : State) (k : Nat) : Bool := if k < 64 then (dspSrc s k).stalled else k == 64 && s.dsp.tokenHeld

/-- Whether a token is a CREATE that must be held: it is well formed, at a port that takes it, and finds no entry. -/
def mustHold (s : State) (k : Nat) (t : Token) : Bool :=
  tkKind t == 1 && !tkMalformed t && !doneOnly s k && !createFits s t

/-- The port whose token the dispatcher takes next, in rotation: held tokens are passed over until they fit. -/
def nextTok (s : State) : Option (Nat × Token) :=
  (List.range 66).findSome? (fun i =>
    let k := (s.dsp.rot + 1 + i) % 66
    match headTok s k with
    | none => none
    | some t => if tokHeld s k && mustHold s k t then none else some (k, t))

/-- Takes one token off a queue of writes: a write whose tokens are all done is answered with ST_OK (R394). -/
def popWrite : List TokenWrite → List TokenWrite × Option TokenWrite
  | [] => ([], none)
  | w :: ws =>
    if w.tokens.length ≤ 1 then (ws, some w) else ({ w with tokens := w.tokens.drop 1 } :: ws, none)

/-- Answers a write of tokens. -/
def answerTokens (w : TokenWrite) (s : State) : State :=
  if rspLost s w.src.toNat 0x082007000000 then s
  else { s with noc := { s.noc with rsps := s.noc.rsps ++ [{ src := w.src, tag := w.tag, status := .ok, data := [] }] } }

/-- The head token of port k has been processed or discarded. -/
def popTok (k : Nat) (s : State) : State :=
  if k < 64 then updDspSrc k (fun x => { x with head := none, stalled := false }) s
  else if k = 64 then
    let r := popWrite s.dsp.tokenQ
    let s1 := updDsp (fun d => { d with tokenQ := r.1, tokenHeld := false }) s
    match r.2 with | some w => answerTokens w s1 | none => s1
  else
    let r := popWrite s.dsp.doneQ
    let s1 := updDsp (fun d => { d with doneQ := r.1 }) s
    match r.2 with | some w => answerTokens w s1 | none => s1

/-- Holds a CREATE at the head of port k, and sets the flags of what is full: EV_DSP_FULL is raised when a flag is first
set (R408). -/
def holdTok (k : Nat) (t : Token) (s : State) : State :=
  let s1 := if k < 64 then updDspSrc k (fun x => { x with stalled := true }) s else updDsp (fun d => { d with tokenHeld := true }) s
  let sf := s.dsp.storeFull || decide (dspMax ≤ s.dsp.items.length)
  let ff := s.dsp.flowFull || ((flowOf s (tkFlow t)).isNone && decide (dspMax ≤ s.dsp.flows.length))
  let s2 := updDsp (fun d => { d with storeFull := sf, flowFull := ff }) s1
  if (sf && !s.dsp.storeFull) || (ff && !s.dsp.flowFull) then raise .dspFull [(8, bit sf + 2 * bit ff)] s2 else s2

/-- The dispatcher takes its next token when it is of a kind that `mine` names: an outcome of Table DSP-3 by `act`, a hold,
or a discard with cause 5. -/
def takeTok (mine : Nat → Bool) (act : Nat → Token → State → State) (s : State) : State :=
  if dspUp s = false then s
  else
    match nextTok s with
    | none => s
    | some (k, t) =>
      if mine (tkKind t) = false then s
      else
        let s0 := updDsp (fun d => { d with rot := k }) s
        if tkMalformed t || (doneOnly s k && tkKind t != 3) then popTok k (discard k 5 t s0)
        else if mustHold s k t then holdTok k t s0
        else popTok k (act k t s0)

/-- DSP_CREATE (R398): the next token is a CREATE; one of reserved kind is discarded here too. -/
def execDspCreate (s : State) : Host.Outcome State Fault Refusal :=
  .next (takeTok (fun k => k == 1 || k == 0) createTok s)

/-- DSP_OPERAND (R398). -/
def execDspOperand (s : State) : Host.Outcome State Fault Refusal := .next (takeTok (fun k => k == 2) operandTok s)

/-- DSP_DONE (R398). -/
def execDspDone (s : State) : Host.Outcome State Fault Refusal := .next (takeTok (fun k => k == 3) doneTok s)

/-! ## Arrival of tokens -/

/-- The tokens of words. -/
def tokensOf : List W64 → List Token
  | a :: b :: ws => (a, b) :: tokensOf ws
  | _ => []

/-- Whether a write carries whole tokens with all byte enables set (R394). -/
def tokenForm (q : NocReq) : Bool :=
  q.op == .write && q.len.val % 2 == 1 && allEnabled q && q.addr.toNat % 16 == 0

/-- A NoC write of tokens at the dispatcher's endpoint: refused, or placed in arrival order by `put`. While the head token
of the token port is held, writes wait in the mesh (R394, R408). -/
def tokenWrite (lo hi : Nat) (put : TokenWrite → Dsp → Dsp) (src : BitVec 8) (tag : BitVec 12) (s : State) : State :=
  match meshReq s src tag with
  | none => s
  | some q =>
    let a := q.addr.toNat
    if a < lo ∨ hi < a ∨ q.op ≠ .write then s
    else if targetShut s a then answerMesh q .domainOff [] s
    else if protDenied s q.src.toNat a then answerMesh q .denied [] s
    else if s.dsp.tokenHeld then s
    else if tokenForm q = false ∨ hi < a + 8 * q.len.val then answerMesh q .badArg [] s
    else
      updDsp (put { src := q.src, tag := q.tag, stream := q.stream, tokens := tokensOf (q.data.take (q.len.val + 1)) })
        (dropMesh q s)

/-- DSP_TOKEN_WRITE (R394). -/
def execDspTokenWrite (src : BitVec 8) (tag : BitVec 12) (s : State) : Host.Outcome State Fault Refusal :=
  .next (tokenWrite 0x082007000000 0x0820070000FF (fun w d => { d with tokenQ := d.tokenQ ++ [w] }) src tag s)

/-- DSP_DONE_WRITE (R394). -/
def execDspDoneWrite (src : BitVec 8) (tag : BitVec 12) (s : State) : Host.Outcome State Fault Refusal :=
  .next (tokenWrite 0x082007001000 0x0820070010FF (fun w d => { d with doneQ := d.doneQ ++ [w] }) src tag s)

/-- Whether a unit of several port N cycles is in progress at a block, so that no other may begin (R178, R597). -/
def nUnit (b : Block) : Bool :=
  match b.nq with
  | q :: _ => decide (0 < q.done) || q.atomic.isSome
  | [] => false

/-- The two head entries of a FIFO, when both are visible. -/
def twoHeads (b : Block) : Option (QEnt × QEnt × List QEnt) :=
  match b.entries with
  | x :: y :: r => if b.mode = .fifo ∧ x.vis ∧ y.vis then some (x, y, r) else none
  | _ => none

/-- Whether a source can give a token now: enabled, empty-handed, its block available with two visible words. -/
def srcReady (s : State) (k : Nat) : Bool :=
  let x := dspSrc s k
  x.bound && x.en && x.head.isNone && !unavailable s x.block && (twoHeads (blockNow s x.block)).isSome

/-- DSP_SOURCE_DEQUEUE (R178, R395, R397): the next source in rotation gives two words through port N, or the cycle is
deferred and counted as source 73 (R160, R391). -/
def execDspSourceDequeue (s : State) : Host.Outcome State Fault Refusal :=
  if dspUp s = false ∨ fabricClock s = false then .next s
  else
    match (List.range 64).findSome? (fun i =>
        let k := (s.dsp.rot + 1 + i) % 64
        if srcReady s k then some k else none) with
    | none => .next s
    | some k =>
      let g := (dspSrc s k).block
      let b := blockNow s g
      let t := s.clk.fc
      if b.nAt = some t ∨ nUnit b then .next s
      else
        let b1 := { b with nAt := some t }
        if b.abAt = some t then .next (countConflict (sectorOf g) 73 (updBlock g (fun _ => b1) s))
        else
          match twoHeads b with
          | none => .next s
          | some (x, y, r) =>
            let s1 := updBlock g (fun _ => { b1 with entries := r }) (useFree 2 s)
            let s2 := noteEcc g 2 73 (some (y.word, entryAddr (s.free + 1) b y))
              (noteEcc g 2 73 (some (x.word, entryAddr s.free b x)) s1)
            .next (updDspSrc k (fun z => { z with head := some (x.word.data, y.word.data) }) s2)

/-! ## Dispatch (R402 to R407) -/

/-- The words of groups that wait to be written into a block. -/
def wordsDue (s : State) (g : Nat) : Nat :=
  (s.dsp.groupQ.filter (fun x => x.block == g && x.done == 0)).foldl (fun a x => a + x.words.length) 0

/-- DSP_ENG_FREE: whether an engine is free (R402). Its COUNT takes in the groups that wait to be written (DEDUCED, log
44). -/
def engFree (s : State) (e : Nat) : Bool :=
  let x := dspEng s e
  let b := blockNow s x.block
  let n := b.entries.length + wordsDue s x.block
  x.bound && x.en && b.mode == .inbox && !unavailable s x.block && decide (n ≤ x.thresh ∧ n + 6 ≤ b.cap)

/-- Whether engine e is in engine group g. -/
def inGroup (s : State) (g e : Nat) : Bool := (Tab.get 0 s.dsp.groups g).getLsbD e

/-- The engine for an item of a flow: its last one where that is free and in the group, else the first free one after
rr(g), with DG_AFFINE (R405). -/
def pickEngine (s : State) (f : FlowEnt) : Option (Nat × Bool) :=
  let g := f.group
  let seek := (List.range 256).findSome? (fun i =>
    let e := (Tab.get 0 s.dsp.rr g + 1 + i) % 256
    if inGroup s g e && engFree s e then some (e, f.last == some e) else none)
  match f.last with
  | some e => if inGroup s g e && engFree s e then some (e, true) else seek
  | none => seek

/-- Puts an item into a list in order of entry. -/
def insertEntered (x : Item) : List Item → List Item
  | [] => [x]
  | y :: ys => if x.entered ≤ y.entered then x :: y :: ys else y :: insertEntered x ys

/-- The eligible items in the order of the choice: class 3 down to 0, each class in entry order (R404, R405). -/
def eligibleItems (s : State) : List Item :=
  [3, 2, 1, 0].flatMap (fun c =>
    (s.dsp.items.filter (fun x => x.eligible.isSome && x.cls == c)).foldr insertEntered [])

/-- DSP_BYPASS_T of a class. -/
def bypassT (s : State) (c : Nat) : Nat :=
  match c with
  | 0 => s.dsp.t0.toNat
  | 1 => s.dsp.t1.toNat
  | _ => s.dsp.t2.toNat

/-- bypass(x) (R406): an item moved to the next class enters it with number n. -/
def bypassItem (s : State) (n : Nat) (x : Item) : Item :=
  if 3 ≤ x.cls then x
  else if bypassT s x.cls ≤ x.bypass + 1 then { x with cls := x.cls + 1, bypass := 0, entered := n }
  else { x with bypass := x.bypass + 1 }

/-- Puts an item into a list in order of eligibility. -/
def insertEligible (x : Item) : List Item → List Item
  | [] => [x]
  | y :: ys => if x.eligible.getD 0 ≤ y.eligible.getD 0 then x :: y :: ys else y :: insertEligible x ys

/-- The items that became eligible before an item are overtaken, in the order in which they became eligible (R405, R406;
the order is DEDUCED, log 45). -/
def overtake (x : Item) (s : State) : State :=
  let ahead := (s.dsp.items.filter (fun y =>
    y.tag != x.tag && (match y.eligible, x.eligible with | some a, some b => decide (a < b) | _, _ => false))).foldr
      insertEligible []
  ahead.foldl (fun a y =>
    updItem y.tag (bypassItem a a.dsp.next) (updDsp (fun d => { d with next := d.next + 1 }) a)) s

/-- The words of a dispatch group (Table DSP-4). -/
def groupWords (x : Item) (e : Nat) (affine : Bool) : List W64 :=
  let slots := (List.range 4).filter (fun j => x.slots.getLsbD j)
  [ BitVec.ofNat 64 (fieldsWord [(0, x.tag.toNat), (32, x.flow.toNat)]),
    BitVec.ofNat 64 (fieldsWord [(0, x.arg.toNat), (32, x.slots.toNat), (36, x.classIn), (38, x.cls), (40, bit affine),
      (41, e)]) ] ++ slots.map (fun j => Tab.get 0 x.values j)

/-- Dispatches an item to an engine (R403, R405). -/
def dispatchTo (x : Item) (g e : Nat) (affine : Bool) (s : State) : State :=
  let w : Group := { engine := e, block := (dspEng s e).block, group := g, words := groupWords x e affine, done := 0 }
  let s1 := overtake x s
  updFlow x.flow (fun f => { f with last := some e, tag := some x.tag })
    (updDsp (fun d => { d with
      items := d.items.filter (fun y => y.tag != x.tag), groupQ := d.groupQ ++ [w], rr := Tab.set 0 d.rr g e,
      dispatches := satAdd d.dispatches 1, storeFull := false }) s1)

/-- Whether some engine of a group exists and is enabled (R407). -/
def groupAlive (s : State) (g : Nat) : Bool :=
  (List.range 256).any (fun e => inGroup s g e && (dspEng s e).bound && (dspEng s e).en)

/-- EV_DSP_ENGINE, once for each group of an eligible item that has no enabled engine (R407). -/
def noteDeadGroups (s : State) : State :=
  (eligibleItems s).foldl (fun a x =>
    match flowOf a x.flow with
    | none => a
    | some f =>
      if groupAlive a f.group || a.dsp.engineEv.contains f.group then a
      else raise .dspEngine [(8, f.group), (8, 0xFF), (8, 1)] (updDsp (fun d => { d with engineEv := d.engineEv ++ [f.group] }) a)) s

/-- An uncorrectable error in a store entry discards the item, and one in a flow entry the flow and its items, with
EV_DSP_ITEM_LOST (Table DSP-5). -/
def loseEntry (bad : Option (Bool × BitVec 32)) (s : State) : State :=
  match bad with
  | none => s
  | some (false, tag) =>
    match itemOf s tag with
    | none => s
    | some x =>
      freeFlow x.flow (makeEligible x.flow (raise .dspItemLost [(8, 0), (32, tag.toNat), (32, x.flow.toNat)]
        (updDsp (fun d => { d with items := d.items.filter (fun y => y.tag != tag), storeFull := false }) s)))
  | some (true, key) =>
    if (flowOf s key).isNone then s
    else
      raise .dspItemLost [(8, 1), (32, 0), (32, key.toNat)]
        (updDsp (fun d => { d with
          items := d.items.filter (fun y => y.flow != key), flows := d.flows.filter (fun f => f.key != key),
          storeFull := d.storeFull && !d.items.any (fun y => y.flow == key), flowFull := false }) s)

/-- DSP_DISPATCH (R404 to R407): at most one item is dispatched, and none while 16 groups wait to be written. -/
def execDspDispatch (bad : Option (Bool × BitVec 32)) (s : State) : Host.Outcome State Fault Refusal :=
  if dspUp s = false then .next s
  else
    let s0 := noteDeadGroups (loseEntry bad s)
    if 16 ≤ s.dsp.groupQ.length then .next s0
    else
      match (eligibleItems s0).findSome? (fun x =>
          match flowOf s0 x.flow with
          | none => none
          | some f => (pickEngine s0 f).map (fun p => (x, f.group, p.1, p.2))) with
      | none => .next s0
      | some (x, g, e, a) => .next (dispatchTo x g e a s0)

/-! ## Writing a group (R403, R407, Table DSP-5) -/

/-- Replaces or drops the first waiting group of an engine. -/
def setGroup (e : Nat) (g : Option Group) : List Group → List Group
  | [] => []
  | x :: xs => if x.engine = e then g.toList ++ xs else x :: setGroup e g xs

/-- The entries of a group: all but their visibility are there at once (R177, R403). -/
def groupEntries (ws : List W64) : List QEnt :=
  ws.map (fun w => { word := { data := w }, level := 0, due := notWritten, vis := false })

/-- The entries of a group become visible together. -/
def showGroup (due : Nat) (l : List QEnt) : List QEnt := l.map (fun e => if e.due = notWritten then { e with due := due } else e)

/-- DSP_GROUP_WRITE (R182, R403): one port N cycle of the oldest group of the engine; after the last word the group becomes
visible 4 fc later. A block that is retired, off or no longer an inbox loses the group; one under initialisation delays
it. -/
def execDspGroupWrite (engine : Fin 256) (s : State) : Host.Outcome State Fault Refusal :=
  let e := engine.val
  match s.dsp.groupQ.find? (fun x => x.engine == e) with
  | none => .next s
  | some w =>
    let g := w.block
    let b := blockNow s g
    let t := s.clk.fc
    if dspUp s = false ∨ fabricClock s = false then .next s
    else if domCut s (sectorDom (sectorOf g)) || blockRetired s g || b.mode != .inbox then
      .next (raise .dspEngine [(8, w.group), (8, e), (8, 2)] (updDsp (fun d => { d with groupQ := setGroup e none d.groupQ }) s))
    else if unavailable s g ∨ b.nAt = some t ∨ nUnit b then .next s
    else
      let b1 := { b with nAt := some t }
      if b.abAt = some t then .next (countConflict (sectorOf g) 73 (updBlock g (fun _ => b1) s))
      else
        let b2 := if w.done = 0 then { b1 with entries := b1.entries ++ groupEntries w.words, dirty := true } else b1
        if w.done + 1 < w.words.length then
          .next (updDsp (fun d => { d with groupQ := setGroup e (some { w with done := w.done + 1 }) d.groupQ })
            (updBlock g (fun _ => b2) s))
        else
          .next (updDsp (fun d => { d with groupQ := setGroup e none d.groupQ })
            (updBlock g (fun _ => { b2 with entries := showGroup (t + 4) b2.entries }) s))

/-! ## Power and reset (Table DSP-5) -/

/-- Empties the store and the flow table. -/
def emptyStore (s : State) : State :=
  updDsp (fun d => { d with items := [], flows := [], storeFull := false, flowFull := false }) s

/-- A base warm reset: the store and flow table are emptied, and what was under way is lost; the configuration stays. -/
def dspWarmReset (s : State) : State :=
  updDsp (fun d => { d with
    tokenQ := [], doneQ := [], tokenHeld := false, groupQ := [], sources := d.sources.map (fun e =>
      (e.1, { e.2 with head := none, stalled := false })) }) (emptyStore s)

/-- The dispatcher's domain goes off: everything is lost and every bound inbox is emptied (R183). -/
def dspOff (s : State) : State :=
  let boxes := (s.dsp.engines.filter (fun e => e.2.bound)).map (fun e => e.2.block)
  let s1 := { s with dsp := {} }
  forEach boxes (fun g s =>
    let b := blockOf s g
    if b.mode = .inbox then setMode g .inbox b.capLog2 b.creditInit b.patrolEn s else s) s1

/-! ## Registers (Table DSP-6) -/

/-- DSP_CFG to DSP_ERR. -/
def dspCfgWords (s : State) : List Nat :=
  let d := s.dsp
  [ fieldsWord [(0, d.t0.toNat), (8, d.t1.toNat), (16, d.t2.toNat), (24, d.defGroup.toNat)],
    fieldsWord [(0, d.items.length), (17, d.flows.length), (34, bit d.storeFull), (35, bit d.flowFull)],
    d.dispatches.toNat,
    fieldsWord ((List.range 5).map (fun c => (12 * c, (Tab.get 0 d.errs (c + 1)).toNat))) ]

/-- DSP_ENG_e. -/
def engWord (s : State) (e : Nat) : Nat :=
  let x := dspEng s e
  fieldsWord [(0, x.block), (11, x.thresh), (24, bit x.en), (25, bit (engFree s e))]

/-- DSP_SRC_s. -/
def srcWord (s : State) (k : Nat) : Nat :=
  let x := dspSrc s k
  fieldsWord [(0, x.block), (11, bit x.role), (12, bit x.en), (13, bit x.stalled)]

/-- The dispatcher register at an address of the control space, if one is there (Table DSP-1). -/
def dspReg (s : State) (a : Nat) : Option Nat :=
  if 0x082007010000 ≤ a ∧ a < 0x082007010020 then (dspCfgWords s)[(a - 0x082007010000) / 8]?
  else if 0x082007020000 ≤ a ∧ a < 0x082007020800 then some (engWord s ((a - 0x082007020000) / 8))
  else if 0x082007030000 ≤ a ∧ a < 0x082007030200 then some (srcWord s ((a - 0x082007030000) / 8))
  else if 0x082007040000 ≤ a ∧ a < 0x082007040400 then
    let o := (a - 0x082007040000) / 8
    some (field (Tab.get 0 s.dsp.groups (o / 4)).toNat (64 * (o % 4)) 64)
  else none

/-! ## Commands (Table DSP-7) -/

/-- Answers ST_DOMAIN_OFF where the dispatcher's domain is off, and the command otherwise: its registers are lost then
(R409). -/
def withDsp (s : State) (a : Ans) : Ans := if dspUp s then a else refuse s .domainOff

/-- DSP.STATUS (R410). -/
def bodyDspStatus (_org : Origin) (s : State) : Ans :=
  withDsp s (done s (packFields ((dspCfgWords s ++ (List.range 256).map (engWord s) ++ (List.range 64).map (srcWord s)).map
    (fun w => (64, w)))))

/-- DSP_STATUS (R410). -/
def execDspStatus (r : Req) (s : State) : Host.Outcome State Fault Refusal := .next (serve r 0x0B01 [] bodyDspStatus s)

/-- DSP.CONFIG: a threshold of 0 is reserved. -/
def bodyDspConfig (t0 t1 t2 g : Nat) (_org : Origin) (s : State) : Ans :=
  if t0 = 0 ∨ t1 = 0 ∨ t2 = 0 then refuse s .badArg
  else withDsp s (done (updDsp (fun d => { d with
    t0 := BitVec.ofNat 8 t0, t1 := BitVec.ofNat 8 t1, t2 := BitVec.ofNat 8 t2, defGroup := BitVec.ofNat 5 g }) s))

/-- DSP_CONFIG (R410). -/
def execDspConfig (r : Req) (t0 t1 t2 : BitVec 8) (defaultGroup : BitVec 5) (s : State) : Host.Outcome State Fault Refusal :=
  .next (serve r 0x0B02 (packFields [(8, t0.toNat), (8, t1.toNat), (8, t2.toNat), (5, defaultGroup.toNat)])
    (bodyDspConfig t0.toNat t1.toNat t2.toNat defaultGroup.toNat) s)

/-- Whether a block is bound to another engine than e, or to another source than k. -/
def boundElse (s : State) (e k : Option Nat) (g : Nat) : Bool :=
  s.dsp.engines.any (fun x => x.2.bound && x.2.block == g && e != some x.1) ||
    s.dsp.sources.any (fun x => x.2.bound && x.2.block == g && k != some x.1)

/-- DSP.ENGINE_SET (R402). -/
def bodyDspEngineSet (e g thresh en : Nat) (_org : Origin) (s : State) : Ans :=
  if 1152 ≤ g ∨ (blockOf s g).cap < thresh + 6 then refuse s .badArg
  else if blockRetired s g then refuse s .retired
  else if (blockOf s g).mode ≠ .inbox ∨ boundElse s (some e) none g then refuse s .state
  else
    let y : Engine := { block := g, thresh := thresh, en := en == 1, bound := true }
    withDsp s (done (updDsp (fun d => { d with engines := Tab.set {} d.engines e y }) s))

/-- DSP_ENGINE_SET (R402). -/
def execDspEngineSet (r : Req) (engine : BitVec 8) (block : BitVec 11) (thresh : BitVec 13) (enable : Bool) (s : State) :
    Host.Outcome State Fault Refusal :=
  .next (serve r 0x0B03 (packFields [(8, engine.toNat), (11, block.toNat), (13, thresh.toNat), (1, bit enable)])
    (bodyDspEngineSet engine.toNat block.toNat thresh.toNat (bit enable)) s)

/-- DSP.GROUP_SET (R410). -/
def bodyDspGroupSet (g mask : Nat) (_org : Origin) (s : State) : Ans :=
  withDsp s (done (updDsp (fun d => { d with groups := Tab.set 0 d.groups g (BitVec.ofNat 256 mask) }) s))

/-- DSP_GROUP_SET (R410). -/
def execDspGroupSet (r : Req) (group : BitVec 5) (mask : BitVec 256) (s : State) : Host.Outcome State Fault Refusal :=
  .next (serve r 0x0B04 (packFields [(5, group.toNat), (256, mask.toNat)]) (bodyDspGroupSet group.toNat mask.toNat) s)

/-- DSP.SOURCE_SET (R395): a token held or dequeued at the source stays with it. -/
def bodyDspSourceSet (k g role en : Nat) (_org : Origin) (s : State) : Ans :=
  if 1152 ≤ g then refuse s .badArg
  else if (blockOf s g).mode ≠ .fifo ∨ boundElse s none (some k) g then refuse s .state
  else
    withDsp s (done (updDspSrc k (fun x => { x with block := g, role := role == 1, en := en == 1, bound := true }) s))

/-- DSP_SOURCE_SET (R395). -/
def execDspSourceSet (r : Req) (source : BitVec 6) (block : BitVec 11) (role enable : Bool) (s : State) :
    Host.Outcome State Fault Refusal :=
  .next (serve r 0x0B05 (packFields [(6, source.toNat), (11, block.toNat), (1, bit role), (1, bit enable)])
    (bodyDspSourceSet source.toNat block.toNat (bit role) (bit enable)) s)

/-- DSP.FLOW_SET (R400): a flow that exists takes the group and is pinned from then on (DEDUCED, log 47). -/
def bodyDspFlowSet (flow g : Nat) (_org : Origin) (s : State) : Ans :=
  let key := BitVec.ofNat 32 flow
  if (flowOf s key).isSome then withDsp s (done (updFlow key (fun f => { f with group := g, pinned := true }) s))
  else if dspMax ≤ s.dsp.flows.length then withDsp s (refuse s .noResource)
  else
    withDsp s (done (updDsp (fun d => { d with flows := d.flows ++
      [{ key := key, group := g, last := none, pinned := true, tag := none }] }) s))

/-- DSP_FLOW_SET (R400). -/
def execDspFlowSet (r : Req) (flow : BitVec 32) (group : BitVec 5) (s : State) : Host.Outcome State Fault Refusal :=
  .next (serve r 0x0B06 (packFields [(32, flow.toNat), (5, group.toNat)]) (bodyDspFlowSet flow.toNat group.toNat) s)

/-- DSP.FLOW_GET (R410): the table names the results and not their widths (DESIGN CHOICE, log 42). -/
def bodyDspFlowGet (flow : Nat) (_org : Origin) (s : State) : Ans :=
  match flowOf s (BitVec.ofNat 32 flow) with
  | none => withDsp s (refuse s .badArg)
  | some f =>
    withDsp s (done s (packFields [(8, f.group), (16, f.last.getD 0xFFFF), (8, bit f.pinned), (8, bit f.tag.isSome),
      (32, (f.tag.getD 0).toNat), (32, (s.dsp.items.filter (fun x => x.flow == f.key)).length)]))

/-- DSP_FLOW_GET (R410). -/
def execDspFlowGet (r : Req) (flow : BitVec 32) (s : State) : Host.Outcome State Fault Refusal :=
  .next (serve r 0x0B07 (packFields [(32, flow.toNat)]) (bodyDspFlowGet flow.toNat) s)

/-- DSP.FLOW_RELEASE (R401). -/
def bodyDspFlowRelease (flow : Nat) (_org : Origin) (s : State) : Ans :=
  match flowOf s (BitVec.ofNat 32 flow) with
  | some f => if f.tag.isSome then withDsp s (done (endService f.key s)) else withDsp s (refuse s .state)
  | none => withDsp s (refuse s .state)

/-- DSP_FLOW_RELEASE (R401). -/
def execDspFlowRelease (r : Req) (flow : BitVec 32) (s : State) : Host.Outcome State Fault Refusal :=
  .next (serve r 0x0B08 (packFields [(32, flow.toNat)]) (bodyDspFlowRelease flow.toNat) s)

/-- DSP.FLOW_CLEAR (R400): a flow that is absent is free already (DEDUCED, log 47). -/
def bodyDspFlowClear (flow : Nat) (_org : Origin) (s : State) : Ans :=
  let key := BitVec.ofNat 32 flow
  match flowOf s key with
  | none => withDsp s (done s)
  | some f =>
    if f.tag.isSome || s.dsp.items.any (fun x => x.flow == key) then withDsp s (refuse s .state)
    else withDsp s (done (updDsp (fun d => { d with flows := d.flows.filter (fun x => x.key != key), flowFull := false }) s))

/-- DSP_FLOW_CLEAR (R400). -/
def execDspFlowClear (r : Req) (flow : BitVec 32) (s : State) : Host.Outcome State Fault Refusal :=
  .next (serve r 0x0B09 (packFields [(32, flow.toNat)]) (bodyDspFlowClear flow.toNat) s)

/-- DSP.FLUSH (R410). -/
def bodyDspFlush (_org : Origin) (s : State) : Ans := withDsp s (done (emptyStore s))

/-- DSP_FLUSH (R410). -/
def execDspFlush (r : Req) (s : State) : Host.Outcome State Fault Refusal := .next (serve r 0x0B0A [] bodyDspFlush s)

end Sys2Proof.Machine
end

