-- ==== Sys2Proof/Machine/Registers.lean ====
section
/-! DEFINITION. The control space as it is read (R600): the register blocks of every chapter by address, and the workspace
window. -/

namespace Sys2Proof.Machine

/-- Two 32-bit registers as one 64-bit word. -/
def pair32 (lo hi : Nat) : Nat := lo + 2 ^ 32 * hi

/-- The word at an offset of block g's QCTL registers; offsets from 0x1C read as 0 (Table MEM-8). -/
def qctlReg (s : State) (g off : Nat) : Nat :=
  let l := qctlWords s g (unavailable s g)
  pair32 (l.getD (off / 4) 0) (l.getD (off / 4 + 1) 0)

/-- The word at an offset of a sector's conflict-counter registers, if one is there (Table MEM-6). -/
def conflictReg (s : State) (k off : Nat) : Option Nat :=
  if off < 0x100 then some (pair32 (cselOf s k (off / 4)) (cselOf s k (off / 4 + 1)))
  else if off < 0x200 then
    let v := fun i => (Tab.get 0 s.mem.ccnt (64 * k + i)).toNat
    some (pair32 (v ((off - 0x100) / 4)) (v ((off - 0x100) / 4 + 1)))
  else if off = 0x200 then some 0
  else none

/-- The workspace ring registers (Table CFG-14). -/
def wsReg (s : State) (off : Nat) : Option Nat :=
  match off with
  | 0 => some s.load.wptr.toNat
  | 8 => some s.load.rptr.toNat
  | 16 => some (fieldsWord [(0, bit (match s.load.job with | some j => j.source == 1 | none => false)),
      (1, bit s.load.ptrErr)])
  | _ => none

/-- LNK_CWIN_j (Table LNK-12a). -/
def cwinWord (s : State) (j : Nat) : Nat :=
  let w := Tab.get {} s.lnk.cwins j
  fieldsWord [(0, w.handle.toNat), (12, w.base.toNat), (24, bit w.writeEn), (25, bit w.atomicEn)]

/-- NOC_SRC_CFG of a source (Table NOC-8). -/
def srcCfgWord (s : State) (k : Nat) : Nat := (Tab.get 0x186A0 s.noc.timeout k).toNat

/-- NOC_SRC_STAT of a source (Table NOC-8). -/
def srcStatWord (s : State) (k : Nat) : Nat :=
  fieldsWord [(0, (Tab.get 0 s.noc.timeouts k).toNat), (32, (Tab.get 0 s.noc.late k).toNat)]

/-- The NOC register at an offset, if one is there (R389). -/
def nocReg (s : State) (off : Nat) : Option Nat :=
  if off < 0x800 then some (srcCfgWord s (off / 8))
  else if off < 0x1000 then some (srcStatWord s ((off - 0x800) / 8))
  else if off < 0x1200 then some (routerWord s ((off - 0x1000) / 8))
  else none

/-- THM_LIMIT (Table PWR-14). -/
def thmLimitWord (s : State) : Nat := fieldsWord [(0, s.thm.warnC.toNat), (8, s.thm.throttleC.toNat)]

/-- The 64-bit word that a read of an 8-byte aligned address of the control space finds; none where no register, window or
buffer lies there (R600). -/
def ctlWord (s : State) (a : Nat) : Option Nat :=
  let at_ := fun (base n : Nat) => decide (base ≤ a ∧ a < base + n)
  if at_ 0x082001000000 (1152 * 0x40) then
    some (qctlReg s ((a - 0x082001000000) / 0x40) ((a - 0x082001000000) % 0x40))
  else if at_ 0x082001020000 (8 * 0x400) then conflictReg s ((a - 0x082001020000) / 0x400) ((a - 0x082001020000) % 0x400)
  else if at_ 0x082002000000 0x1000 then wsReg s (a - 0x082002000000)
  else if at_ 0x082003000000 0x6000 then
    if (a - 0x082003000000) % 0x1000 = 0 then some (portWord s ((a - 0x082003000000) / 0x1000)) else none
  else if at_ 0x082003100000 (256 * 8) then some (cwinWord s ((a - 0x082003100000) / 8))
  else if at_ 0x082004000000 0x8000 then
    (dramRegs s ((a - 0x082004000000) / 0x1000))[(a - 0x082004000000) % 0x1000 / 8]?
  else if at_ 0x082005000000 0x1000 then prtReg s (a - 0x082005000000)
  else if at_ 0x082006000000 0x1200 then nocReg s (a - 0x082006000000)
  else if at_ 0x082008000000 0x200000 then pinReg s a
  else if at_ 0x082009000000 (96 * 8) then some (domStatus s ((a - 0x082009000000) / 8))
  else if at_ 0x08200A000000 (72 * 8) then some (sensorWord s ((a - 0x08200A000000) / 8))
  else if a = 0x08200A000400 then some (thmLimitWord s)
  else if at_ 0x082010000000 (2 ^ 27) then some (natLE (tabBytes s.load.ws (a - 0x082010000000) 8))
  else none

/-- Whether an address lies in the workspace window (R213). -/
def inWorkspace (a : Nat) : Bool := decide (0x082010000000 ≤ a ∧ a < 0x082018000000)

/-- The words that a read finds, or none where one of its addresses holds nothing (R600). -/
def readWords (rd : Nat → Option Nat) (a : Nat) : Nat → Option (List W64)
  | 0 => some []
  | n + 1 =>
    match rd a, readWords rd (a + 8) n with
    | some w, some ws => some (BitVec.ofNat 64 w :: ws)
    | _, _ => none

end Sys2Proof.Machine
end

