-- ==== Sys2Proof/Machine/Issue.lean ====
section
/-! DEFINITION. The initiators' side of the NoC: the checks and the decoding of a request (R370 to R372), targets that answer
at once, accesses to chain windows (R292, R293), the completion of a request at its initiator (R380 to R382, R289), and
the queues of a NOC_PORT (R378 to R380). -/

namespace Sys2Proof.Machine

/-! ## Completion at the initiator -/

/-- Whether a request is the one of a source and tag. -/
def isReq (src : BitVec 8) (tag : BitVec 12) (q : NocReq) : Bool := q.src == src && q.tag == tag

/-- The status word of a NOC_PORT response (R380). -/
def statusWord (st : Status) (o : PortOrd) : W64 :=
  BitVec.ofNat 64 (fieldsWord [(0, st.code), (8, o.len.toNat), (13, o.op.toNat), (16, o.stream.toNat)])

/-- Sets the result of a NOC_PORT's request in the mesh. -/
def setOrd (tag : BitVec 12) (r : Status × List W64) : List PortOrd → List PortOrd
  | [] => []
  | o :: os => if o.inMesh && o.tag == tag && o.rsp.isNone then { o with rsp := some r, inMesh := false } :: os
               else o :: setOrd tag r os

/-- A request performed for a Golular port is answered along the chain (R289). -/
def answerTxn (x : Served) (st : Status) (data : List W64) (s : State) : State :=
  sendRsp x.port (txnReply x.pkt st data) { s with lnk := { s.lnk with served := s.lnk.served.erase x } }

/-- Completes a request at its initiator: in the order of a NOC_PORT's stream, as a TXN response, or among the completed
requests of another initiator (R289, R372, R380); one of PF1 from before its function-level reset is discarded (R594). -/
def completeReq (q : NocReq) (st : Status) (data : List W64) (s : State) : State :=
  let s1 := { s with noc := { s.noc with out := s.noc.out.filter (fun x => !isReq q.src q.tag x) } }
  if q.src.toNat < 64 then updNport q.src.toNat (fun p => { p with ord := setOrd q.tag (st, data) p.ord }) s1
  else
    match s1.lnk.served.find? (fun x => x.port + 64 == q.src.toNat && x.tag == q.tag) with
    | some x => answerTxn x st data s1
    | none =>
      let r : NocRsp := { src := q.src, tag := q.tag, status := st, data := data }
      if q.src = 70 ∧ s1.noc.pf1Drop.contains q.tag then
        { s1 with noc := { s1.noc with pf1Drop := s1.noc.pf1Drop.erase q.tag } }
      else { s1 with noc := { s1.noc with done := s1.noc.done ++ [r] } }

/-! ## Targets that answer at once -/

/-- Bytes of a request from its address on. -/
def reqBytes (q : NocReq) : Nat := if isAtomic q.op then q.data.length * 8 else 8 * (q.len.val + 1)

/-- The bytes that a write stores: address and value of each byte whose enable is 1 (R371). -/
def writeBytes (q : NocReq) : List (Nat × Byte) :=
  (List.range (q.len.val + 1)).flatMap (fun i =>
    (List.range 8).filterMap (fun j =>
      if (byteEnables q i).getLsbD j then
        some (q.addr.toNat + 8 * i + j, BitVec.ofNat 8 (field (q.data.getD i 0).toNat (8 * j) 8))
      else none))

/-- A read of control space or of the dispatcher's registers (R392, R600). -/
def readCtl (s : State) (q : NocReq) : Status × List W64 :=
  let rd := if destOf s q.addr.toNat = .dispatcher then dspReg s else ctlWord s
  match readWords rd (q.addr.toNat / 8 * 8) (q.len.val + 1) with
  | some ws => (.ok, ws)
  | none => (.badArg, [])

/-- A write to the workspace window (R213). -/
def writeWs (s : State) (q : NocReq) : Status × State :=
  if wsWriter s q.src.toNat = false then (.denied, s)
  else
    (.ok, { s with load := { s.load with
      ws := (writeBytes q).foldl (fun t b => Tab.set 0 t (b.1 - 0x082010000000) b.2) s.load.ws } })

/-- The host address that the outbound window shows at a NoC address (the spec gives no translation: DESIGN CHOICE,
log 54). -/
def hostAddr (a : Nat) : Nat := a - 0x0C0000000000

/-- A byte of host memory. -/
def hostRead (s : State) (a : Nat) : Byte := (Tab.get none s.evt.hostMem a).getD (Config.hostByte a)

/-- An access to host memory through the outbound window (Table NOC-3). -/
def accessHost (s : State) (q : NocReq) : Status × List W64 × State :=
  match q.op with
  | .read =>
    (.ok, wordsOfBytes ((List.range (8 * (q.len.val + 1))).map (fun i => hostRead s (hostAddr q.addr.toNat + i))), s)
  | .write =>
    (.ok, [], { s with evt := { s.evt with
      hostMem := (writeBytes q).foldl (fun t b => Tab.set none t (hostAddr b.1) (some b.2)) s.evt.hostMem } })
  | _ => (.badArg, [], s)

/-! ## Chain windows (R292, R293) -/

/-- The lowest number below n that no element of a list carries. -/
def lowestFree (used : List Nat) (n : Nat) : Option Nat := (List.range n).find? (fun i => !used.contains i)

/-- Why the local port refuses an access to a chain window, if it does (R293). A write with partial byte enables has no TXN
form (DESIGN CHOICE, log 50). -/
def cwinRefusal (s : State) (j : Nat) (q : NocReq) : Option Status :=
  let w := Tab.get {} s.lnk.cwins j
  if w.handle = 0 ∨ (q.op = .write ∧ w.writeEn = false) ∨ (isAtomic q.op = true ∧ w.atomicEn = false) then some .denied
  else if protDenied s q.src.toNat q.addr.toNat then some .denied
  else if 2 ^ 36 < q.addr.toNat % 2 ^ 36 + reqBytes q ∨ (q.op = .write ∧ allEnabled q = false) then some .badArg
  else none

/-- An access to a chain window leaves as a TXN request along the window's handle, or is answered by the local port
(R283, R292, R293). -/
def accessChain (j : Nat) (q : NocReq) (s : State) : State :=
  let w := Tab.get {} s.lnk.cwins j
  match cwinRefusal s j q with
  | some st => respond q st [] s
  | none =>
    match routeOf s w.handle.toNat, lowestFree (s.lnk.remote.map (fun x => x.txTag.toNat)) 4096 with
    | some (r, ext), some t =>
      let k : TxnPkt :=
        { route := r, routeExt := ext, ret := 6, retWords := [],
          addr := BitVec.ofNat 48 (w.base.toNat * 2 ^ 36 + q.addr.toNat % 2 ^ 36), op := BitVec.ofNat 8 (txnCode q.op),
          len := q.len, tag := BitVec.ofNat 12 t, status := 0, hop := 0, data := q.data }
      match firstHop s r ext with
      | none => respond q .noResource [] s
      | some p =>
        let x : Remote :=
          { txTag := BitVec.ofNat 12 t, src := q.src, tag := q.tag, port := p, op := q.op, len := q.len.val }
        (moveTxn p k { s with lnk := { s.lnk with remote := s.lnk.remote ++ [x] } }).getD s
    | _, _ => respond q .noResource [] s

/-! ## Issue (R370 to R372) -/

/-- Why the initiator completes a request itself, if it does: an address that names nothing, a request that crosses 4 KiB,
an atomic of the wrong size or alignment (R370, R372), a DRAM request after the inline engine failed its test (row 5 of
Table BRG-3), a request of the JTAG debug master in LOCKED or RETIRED (R560). -/
def initiatorRefusal (s : State) (q : NocReq) : Option Status :=
  let a := q.addr.toNat
  if q.src = 71 ∧ (s.sec.life = 3 ∨ s.sec.life = 4) then some .denied
  else if s.start.engineFailed ∧ a < 0x040000000000 then some .retired
  else if destOf s a = .nowhere ∨ 4096 < a % 4096 + reqBytes q then some .badArg
  else if isAtomic q.op ∧ (a % 8 ≠ 0 ∨ q.len.val ≠ (if q.op = .compareSwap then 1 else 0)) then some .badArg
  else none

/-- A request reaches its destination, where that has no row of its own for it; every other request waits in the mesh for
its target's row. -/
def reachTarget (q : NocReq) (s : State) : State :=
  let a := q.addr.toNat
  let wait := { s with noc := { s.noc with mesh := s.noc.mesh ++ [q] } }
  let now := fun (r : Status × List W64) => respond q r.1 r.2 s
  if targetShut s a then
    match destOf s a with
    | .pcie | .dispatcher | .chain _ => now (.domainOff, [])
    | _ => wait
  else
    match destOf s a with
    | .control =>
      if isAtomic q.op then now (.badArg, [])
      else if protDenied s q.src.toNat a then now (.denied, [])
      else if q.op = .read then now (readCtl s q)
      else if inWorkspace a then respond q (writeWs s q).1 [] (writeWs s q).2
      else wait
    | .dispatcher =>
      if isAtomic q.op then now (.badArg, [])
      else if protDenied s q.src.toNat a then now (.denied, [])
      else if q.op = .read then now (readCtl s q)
      else wait
    | .pcie =>
      if protDenied s q.src.toNat a then now (.denied, [])
      else respond q (accessHost s q).1 (accessHost s q).2.1 (accessHost s q).2.2
    | .chain j => accessChain j q s
    | .vault => if isAtomic q.op then now (.badArg, []) else wait
    | _ => wait

/-- Issues a request with its tag: the initiator checks it, a closed fence or an off quadrant on its path answers
ST_DOMAIN_OFF, and otherwise it enters the mesh (R370, R372, R385, R387). -/
def issueReq (q : NocReq) (s : State) : State :=
  match initiatorRefusal s q with
  | some st => completeReq q st [] s
  | none =>
    if pathShut s q.src.toNat q.addr.toNat then completeReq q .domainOff [] s
    else reachTarget q { s with noc := { s.noc with out := s.noc.out ++ [q] } }

/-- Whether a tag of a source is in use, outstanding or timed out (R382). -/
def tagBusy (s : State) (src : BitVec 8) (t : Nat) : Bool :=
  s.noc.out.any (fun x => x.src == src && x.tag.toNat == t) ||
    s.noc.lateTags.any (fun x => x.1 == src && x.2.toNat == t)

/-- The lowest tag of a source that is free (DESIGN CHOICE, log 17). -/
def freeTag (s : State) (src : BitVec 8) : Option (BitVec 12) :=
  ((List.range 4096).find? (fun t => !tagBusy s src t)).map (BitVec.ofNat 12)

/-! ## NOC_PORT (R378 to R380) -/

/-- The first response of a NOC_PORT that no earlier request of its stream holds back (R380). -/
def readyOrd : List PortOrd → List PortOrd → Option (PortOrd × Status × List W64)
  | _, [] => none
  | before, o :: os =>
    match o.rsp with
    | some r => if before.any (fun b => b.stream == o.stream) then readyOrd (before ++ [o]) os else some (o, r.1, r.2)
    | none => readyOrd (before ++ [o]) os

/-- Moves completed responses into the response queue while they fit (R380, R381). -/
def fillRsp : Nat → NPort → NPort
  | 0, p => p
  | n + 1, p =>
    match readyOrd [] p.ord with
    | some (o, st, data) =>
      if p.rspQ.length + 1 + data.length ≤ 64 then
        let ws := statusWord st o :: data
        fillRsp n { p with ord := p.ord.erase o,
                           rspQ := p.rspQ ++ ws.dropLast.map (fun w => (w, false)) ++
                             (ws.drop (ws.length - 1)).map (fun w => (w, true)) }
      else p
    | none => p

/-- Marks the first request not yet issued as in the mesh with its tag. -/
def markIssued (tag : BitVec 12) : List PortOrd → List PortOrd
  | [] => []
  | o :: os => if !o.inMesh && o.rsp.isNone then { o with inMesh := true, tag := tag } :: os else o :: markIssued tag os

/-- Requests of a NOC_PORT outstanding in the mesh. -/
def portOutstanding (p : NPort) : Nat := (p.ord.filter (fun o => o.inMesh)).length

/-- Issues the waiting requests of a NOC_PORT in order while fewer than 32 are outstanding and the NoC is not in a base warm
reset, and moves responses into its queue (R378, R388). -/
def settlePort (n : Nat) : Nat → State → State
  | 0, s => s
  | k + 1, s =>
    let s1 := updNport n (fun p => fillRsp p.ord.length p) s
    let p := nportOf s1 n
    if s1.pwr.baseReset ∨ 32 ≤ portOutstanding p then s1
    else
      match p.waiting, freeTag s1 (BitVec.ofNat 8 n) with
      | q :: qs, some t =>
        let s2 := updNport n (fun p => { p with waiting := qs, ord := markIssued t p.ord }) s1
        settlePort n k (issueReq { q with tag := t } s2)
      | _, _ => s1

/-- Settles a NOC_PORT until nothing more can move. -/
def settle (n : Nat) (s : State) : State := settlePort n ((nportOf s n).waiting.length + 1) s

/-- OP code of a NOC_PORT command word (R379). -/
def opCode : NocOp → BitVec 3
  | .read => 0 | .write => 1 | .fetchAdd => 2 | .swap => 3 | .compareSwap => 4

/-- Queues a complete request of a NOC_PORT in the order of its issue. -/
def queueReq (q : NocReq) (s : State) : State :=
  let o : PortOrd :=
    { tag := 0, len := BitVec.ofNat 5 q.len.val, op := opCode q.op, stream := q.stream, inMesh := false, rsp := none }
  settle q.src.toNat (updNport q.src.toNat (fun p => { p with waiting := p.waiting ++ [q], ord := p.ord ++ [o] }) s)

end Sys2Proof.Machine
end

