-- ==== Sys2Proof/Machine/Noc.lean ====
section
/-! DEFINITION. The rows of the on-chip network (chapter 10): issue, delivery and timeout of requests, the fabric faces of
the NOC_PORTs with their SCHED faces, router reconfiguration and failure, and the NOC commands. -/

namespace Sys2Proof.Machine

/-! ## Requests -/

/-- NOC_REQUEST_ISSUE (R370, R372): a request of an initiator with its tag; a NOC_PORT gives its requests tags of its own.
Nothing is issued from a reserved source, under a tag in use (R382), or while the NoC is in a base warm reset. -/
def execNocRequestIssue (q : NocReq) (s : State) : Host.Outcome State Fault Refusal :=
  if 74 ≤ q.src.toNat ∨ s.pwr.baseReset then .next s
  else if q.src.toNat < 64 then
    if 64 < (nportCounts (nportOf s q.src.toNat)).1 + 1 + q.data.length then .next s else .next (queueReq q s)
  else if tagBusy s q.src q.tag.toNat then .next s
  else .next (issueReq q s)

/-- Takes a response out of the mesh. -/
def dropRsp (r : NocRsp) (s : State) : State := { s with noc := { s.noc with rsps := s.noc.rsps.erase r } }

/-- Whether a NOC_PORT can take a response now: no earlier request of its stream is unanswered, and the response queue has
room (R377, R380). -/
def portTakes (p : NPort) (r : NocRsp) : Bool :=
  let before := p.ord.takeWhile (fun o => !(o.inMesh && o.tag == r.tag))
  let o := (p.ord.find? (fun o => o.inMesh && o.tag == r.tag)).map (fun o => o.stream)
  !before.any (fun b => some b.stream == o) && decide (p.rspQ.length + 1 + r.data.length ≤ 64)

/-- NOC_RESPONSE_DELIVERED (R377, R380, R382): a late response is discarded and counted; one that meets an isolated
initiator or an off quadrant is discarded (R387, Table NOC-7); one whose NOC_PORT has no room, or whose stream still waits
for an earlier response, waits at its destination router; any other completes its request. -/
def execNocResponseDelivered (src : BitVec 8) (tag : BitVec 12) (s : State) : Host.Outcome State Fault Refusal :=
  match s.noc.rsps.find? (fun r => r.src == src && r.tag == tag) with
  | none => .next s
  | some r =>
    let s1 := dropRsp r s
    if s.noc.lateTags.contains (src, tag) then
      .next { s1 with noc := { s1.noc with
        lateTags := s1.noc.lateTags.erase (src, tag)
        late := Tab.upd 0 s1.noc.late src.toNat (fun c => satAdd c 1) } }
    else
      match s.noc.out.find? (isReq src tag) with
      | none => .next s1
      | some q =>
        if rspLost s src.toNat q.addr.toNat then .next s1
        else if src.toNat < 64 then
          if portTakes (nportOf s src.toNat) r then .next (settle src.toNat (completeReq q r.status r.data s1)) else .next s
        else .next (completeReq q r.status r.data s1)

/-- NOC_REQUEST_TIMEOUT (R381, R382): the initiator completes the request with ST_TIMEOUT, and its tag waits for the late
response. -/
def execNocRequestTimeout (src : BitVec 8) (tag : BitVec 12) (s : State) : Host.Outcome State Fault Refusal :=
  match s.noc.out.find? (isReq src tag) with
  | none => .next s
  | some q =>
    let s1 := completeReq q .timeout [] s
    let s2 := { s1 with noc := { s1.noc with
      lateTags := s1.noc.lateTags ++ [(src, tag)]
      timeouts := Tab.upd 0 s1.noc.timeouts src.toNat (fun c => satAdd c 1) } }
    .next (if src.toNat < 64 then settle src.toNat s2 else s2)

/-- TIMED_OUT_TAG_FREE (R382): 1 s after the timeout the tag may be used again. -/
def execTimedOutTagFree (src : BitVec 8) (tag : BitVec 12) (s : State) : Host.Outcome State Fault Refusal :=
  let s1 := { s with
    noc := { s.noc with lateTags := s.noc.lateTags.filter (fun x => !(x == (src, tag))) }
    lnk := { s.lnk with remote :=
      if s.noc.lateTags.contains (src, tag) then s.lnk.remote.filter (fun x => !(x.src == src && x.tag == tag))
      else s.lnk.remote } }
  .next (if src.toNat < 64 then settle src.toNat s1 else s1)

/-! ## The fabric face of a NOC_PORT -/

/-- Whether the fabric reaches the face of a NOC_PORT in this fc: the fabric clock runs and the region of its site is
RUNNING. -/
def faceLive (s : State) (n : Nat) : Bool := fabricClock s && regionIs s (portRegion n) .running

/-- The operation of a command word's OP (R379). -/
def portOp (c : W64) : Option NocOp :=
  match field c.toNat 59 3 with
  | 0 => some .read | 1 => some .write | 2 => some .fetchAdd | 3 => some .swap | 4 => some .compareSwap | _ => none

/-- The request that a NOC_PORT's words spell; none where it is malformed (R379). -/
def portRequest (n : Nat) (ws : List W64) : Option NocReq :=
  let c := ws.headD 0
  let len := field c.toNat 48 5
  match portOp c with
  | none => none
  | some op =>
    let words := match op with | .read => 1 | .write => len + 2 | .compareSwap => 3 | _ => 2
    let lenOk := match op with | .fetchAdd | .swap => len == 0 | .compareSwap => len == 1 | _ => true
    if Nat.testBit c.toNat 63 ∨ c.toNat % 8 ≠ 0 ∨ lenOk = false ∨ ws.length ≠ words then none
    else some { src := BitVec.ofNat 8 n, tag := 0, stream := BitVec.ofNat 4 (field c.toNat 55 4),
                cls := BitVec.ofNat 2 (field c.toNat 53 2), op := op, addr := BitVec.ofNat 48 c.toNat,
                len := Fin.ofNat 32 len, beFirst := 0xFF, beLast := 0xFF, reinit := Nat.testBit c.toNat 62,
                data := ws.drop 1 }

/-- A malformed request of a NOC_PORT is answered with ST_BAD_ARG in its stream's order (R379). -/
def refusePortReq (n : Nat) (c : W64) (s : State) : State :=
  let o : PortOrd :=
    { tag := 0, len := BitVec.ofNat 5 (field c.toNat 48 5), op := BitVec.ofNat 3 (field c.toNat 59 3),
      stream := BitVec.ofNat 4 (field c.toNat 55 4), inMesh := false, rsp := some (.badArg, []) }
  settle n (updNport n (fun p => { p with ord := p.ord ++ [o] }) s)

/-- NOC_PORT_REQ_PUSH (R378, R379): one word in one fc. A word at a full queue is refused with ACCEPT 0, and with it the
words of its request; the last word completes the request. -/
def execNocPortReqPush (port : Fin 64) (word : W64) (last : Bool) (s : State) : Host.Outcome State Fault Refusal :=
  let n := port.val
  let p := nportOf s n
  let t := s.clk.fc + 4
  if faceLive s n = false ∨ p.accepts.any (fun a => a.1 == t) then .next s
  else if 64 ≤ (nportCounts p).1 then
    .next (updNport n (fun p => { p with words := [], accepts := ((t, false) :: p.accepts).take 5 }) s)
  else
    let ws := p.words ++ [word]
    let s1 := updNport n (fun p => { p with words := if last then [] else ws, accepts := ((t, true) :: p.accepts).take 5 }) s
    if last then
      match portRequest n ws with
      | some q => .next (queueReq q s1)
      | none => .next (refusePortReq n (ws.headD 0) s1)
    else .next s1

/-- NOC_PORT_RSP_POP (R94, R378): one pop in one fc. -/
def execNocPortRspPop (port : Fin 64) (s : State) : Host.Outcome State Fault Refusal :=
  let n := port.val
  let p := nportOf s n
  let t := s.clk.fc + 4
  if faceLive s n = false ∨ p.pops.any (fun a => a.1 == t) then .next s
  else
    match p.rspQ with
    | [] => .next (updNport n (fun p => { p with pops := ((t, 0, false, false) :: p.pops).take 5 }) s)
    | (w, l) :: rest =>
      .next (settle n (updNport n (fun p => { p with rspQ := rest, pops := ((t, w, true, l) :: p.pops).take 5 }) s))

/-! ## SCHED faces (R97 to R104) -/

/-- Changes the SCHED face of a NOC_PORT. -/
def updFace (n : Nat) (f : Face → Face) (s : State) : State := updFaces [n] f s

/-- The channel whose source (false) or destination (true) end is at a NOC_PORT. -/
def chanAt (s : State) (n : Nat) (dest : Bool) : Option ChanUse :=
  (s.lnk.chans.find? (fun e =>
    match e.2 with | some c => c.desc.dest == dest && c.desc.nocPort.val == n | none => false)).bind (fun e => e.2)

/-- Whether a channel is stopped on the link by which it enters or leaves this device (R102). -/
def chanStopped (s : State) (c : ChanUse) : Bool := (portOf s c.port).stopped.contains c.desc.number

/-- SCHED_WORD_SEND (R97, R271): the word of this fc is packed as the VALID bit and the low w bits; a word launched while
the link is stopped is not sent (R103). -/
def execSchedWordSend (port : Fin 64) (word : W64) (valid : Bool) (s : State) : Host.Outcome State Fault Refusal :=
  match chanAt s port.val false with
  | none => .next s
  | some c =>
    if fabricClock s = false ∨ chanStopped s c ∨
        (Tab.get {} s.lnk.faces port.val).sent.any (fun x => x.1 == s.clk.time) then .next s
    else
      let w := BitVec.ofNat 64 (word.toNat % 2 ^ c.desc.width.toNat)
      .next (updFace port.val (fun f => { f with sent := lastN 512 (f.sent ++ [(s.clk.time, valid, w)]) }) s)

/-- SCHED_WORD_DELIVER (R97, R99, R101, R102, R104): the word due in this fc of chain time is presented; where it was lost,
or the link is stopped or poisoned, VALID 0 and data 0. -/
def execSchedWordDeliver (port : Fin 64) (s : State) : Host.Outcome State Fault Refusal :=
  match chanAt s port.val true with
  | none => .next s
  | some c =>
    if fabricClock s = false then .next s
    else
      let t := s.clk.time.toNat
      let face := Tab.get {} s.lnk.faces port.val
      let due := face.padding.find? (fun x => x.1.toNat == t)
      let cut := chanStopped s c || (portOf s c.port).rxCut
      .next (updFace port.val (fun f =>
        { f with
          padding := f.padding.filter (fun x => decide (t < x.1.toNat))
          rvalid := match due with | some x => !cut && x.2.1 | none => false
          rdata := match due with | some x => if cut then 0 else x.2.2 | none => 0 }) s)

/-! ## Routers -/

/-- ROUTER_RECONFIG_DONE (R383, R384): the new weights apply once the router is empty; otherwise the old ones stay and the
command completes with ST_BUSY. -/
def execRouterReconfigDone (router : Fin 64) (empty : Bool) (s : State) : Host.Outcome State Fault Refusal :=
  match (routerOf s router.val).reconfig with
  | none => .next s
  | some (org, w) =>
    .next (finish org .nocDone noUnit (if empty then .ok else .busy)
      (updRouter router.val (fun r => { r with w := if empty then w else r.w, reconfig := none }) s))

/-- NOC_ROUTER_FAILED (R23, R389): fatal. -/
def execNocRouterFailed (router : Fin 64) (s : State) : Host.Outcome State Fault Refusal :=
  if (routerOf s router.val).failed then .next s
  else
    .next (raise .nocRouterFailed [(8, router.val)]
      (assertError (updRouter router.val (fun r => { r with failed := true }) s)))

/-! ## Base warm reset (R388, R601) -/

/-- The NoC's part of a base warm reset: every packet is discarded; each NOC_PORT, Golular port, Barista and the JTAG debug
master complete their outstanding requests with ST_BASE_RESET, and those of PCIe PF1 and the dispatcher are lost. -/
def nocWarmReset (s : State) : State :=
  let left := s.noc.out.filter (fun q => !(q.src == 70 || q.src == 73))
  let s1 := { s with noc := { s.noc with mesh := [], rsps := [], out := left, pf1Drop := [] } }
  let s2 := s1.noc.out.foldl (fun a q => completeReq q .baseReset [] a) s1
  forEach (s2.noc.ports.map (fun e => e.1)) settle s2

/-! ## Commands (Table NOC-9) -/

/-- NOC.STATUS (R606). -/
def bodyNocStatus (_org : Origin) (s : State) : Ans :=
  done s (packFields (((List.range 74).flatMap (fun k => [(64, srcCfgWord s k), (64, srcStatWord s k)])) ++
    ((List.range 64).map (fun r => (64, routerWord s r)))))

/-- NOC_STATUS (R606). -/
def execNocStatus (r : Req) (s : State) : Host.Outcome State Fault Refusal := .next (serve r 0x0C01 [] bodyNocStatus s)

/-- NOC.TIMEOUT: from 10 µs to 1,000,000 µs, for a defined source (R369, R381). -/
def bodyNocTimeout (k us : Nat) (_org : Origin) (s : State) : Ans :=
  if 74 ≤ k ∨ us < 10 ∨ 1000000 < us then refuse s .badArg
  else done { s with noc := { s.noc with timeout := Tab.set 0x186A0 s.noc.timeout k (BitVec.ofNat 20 us) } }

/-- NOC_TIMEOUT (R381). -/
def execNocTimeout (r : Req) (source : BitVec 8) (us : BitVec 20) (s : State) : Host.Outcome State Fault Refusal :=
  .next (serve r 0x0C02 (packFields [(8, source.toNat), (20, us.toNat)]) (bodyNocTimeout source.toNat us.toNat) s)

/-- NOC.ROUTER_CFG: a weight of 0 is reserved (R383, Table NOC-8). -/
def bodyNocRouterCfg (n rt hi norm bulk : Nat) (org : Origin) (s : State) : Ans :=
  let r := routerOf s n
  if rt = 0 ∨ hi = 0 ∨ norm = 0 ∨ bulk = 0 then refuse s .badArg
  else if r.reconfig.isSome ∨ Nat.testBit (routerWord s n) 17 then refuse s .state
  else
    let w : Weights := { rt := BitVec.ofNat 4 rt, hi := BitVec.ofNat 4 hi, norm := BitVec.ofNat 4 norm,
                         bulk := BitVec.ofNat 4 bulk }
    { state := updRouter n (fun r => { r with reconfig := some (org, w) }) s, status := .pending }

/-- NOC_ROUTER_CFG (R383). -/
def execNocRouterCfg (r : Req) (router : BitVec 6) (rt hi norm bulk : BitVec 4) (s : State) :
    Host.Outcome State Fault Refusal :=
  .next (serve r 0x0C03 (packFields [(6, router.toNat), (4, rt.toNat), (4, hi.toNat), (4, norm.toNat), (4, bulk.toNat)])
    (bodyNocRouterCfg router.toNat rt.toNat hi.toNat norm.toNat bulk.toNat) s)

/-- NOC.COUNTERS: the counters of a source, which CLEAR 1 then clears (R390). -/
def bodyNocCounters (k : Nat) (clear : Bool) (_org : Origin) (s : State) : Ans :=
  if 74 ≤ k then refuse s .badArg
  else
    let data := packFields [(64, srcStatWord s k)]
    done (if clear then
      { s with noc := { s.noc with timeouts := Tab.del s.noc.timeouts k, late := Tab.del s.noc.late k } } else s) data

/-- NOC_COUNTERS (R390). -/
def execNocCounters (r : Req) (source : BitVec 8) (clear : Bool) (s : State) : Host.Outcome State Fault Refusal :=
  .next (serve r 0x0C04 (packFields [(8, source.toNat), (1, bit clear)]) (bodyNocCounters source.toNat clear) s)

end Sys2Proof.Machine
end

