-- ==== Sys2Proof/Machine/LinkData.lean ====
section
/-! DEFINITION. The rows of traffic on the chain link: a frame with its flits (R255 to R259, R267 to R273, R297, R298),
transactions (R286 to R291), and MGMT messages (R294, R466 to R469, R478). -/

namespace Sys2Proof.Machine

/-! ## Frames -/

/-- The lane and codeword of symbol s of a frame on W lanes: symbols go to lanes in turn, and the two codewords of a lane
alternate within each 208 symbols (R256, Table LNK-4). -/
def symbolPlace (lanes sym : Nat) : Nat × Nat :=
  let i := sym / lanes
  (sym % lanes, 2 * (i / 208) + i % 2)

/-- Whether an uncorrectable codeword spoils flit f of a frame (R257). -/
def spoiled (lanes : Nat) (bad : List (Nat × Nat)) (f : Nat) : Bool :=
  let first := 256 * f / 10
  let last := (256 * f + 255) / 10
  (List.range (last + 1 - first)).any (fun i => bad.contains (symbolPlace lanes (first + i)))

/-- Counts the corrected symbols and the uncorrectable codewords of a frame against their physical lanes (R257, R260,
R604). -/
def countLanes (bad : List (Nat × Nat)) (corrected : List Nat) (x : Port) : Port :=
  let phys := fun l => x.rxMap.getD l 0
  let x1 := (List.range corrected.length).foldl (fun x l =>
    let n := corrected.getD l 0
    { x with corrected := Tab.upd 0 x.corrected (phys l) (fun c => satAdd c n),
             errs := Tab.upd 0 x.errs (phys l) (fun c => c + n) }) x
  bad.eraseDups.foldl (fun x b =>
    { x with uncorrectable := Tab.upd 0 x.uncorrectable (phys b.1) (fun c => satAdd c 1) }) x1

/-- Credits that a flit returns (Table LNK-7). -/
def takeCredit (f : Flit) (x : Port) : Port :=
  match f.creditClass with
  | 0 => { x with credReq := x.credReq + f.credit.toNat }
  | 1 => { x with credRsp := x.credRsp + f.credit.toNat }
  | 2 => { x with credMgmt := x.credMgmt + f.credit.toNat }
  | _ => x

/-- The flits of one virtual channel that make up a packet: the buffer after a flit, and the payloads of a packet that the
flit completes. A lost flit, or one without its packet's start, discards the packet (R257). -/
def assemble (buf : Option (List (BitVec 240))) (f : Flit) (lost : Bool) :
    Option (List (BitVec 240)) × Option (List (BitVec 240)) :=
  if lost then (none, none)
  else
    let b := if f.sop then some [f.payload] else
      match buf with
      | some [] => none
      | some l => some (l ++ [f.payload])
      | none => none
    match b with
    | some l => if f.eop then (some [], some l) else (some l, none)
    | none => (if f.eop then some [] else none, none)

/-- A TXN or MGMT flit of a frame; a packet or message that is complete arrives (R286, R294). Its credit goes back to the
peer as the flit is taken (the spec names no moment: DESIGN CHOICE, log 59). -/
def takeFlit (p : Nat) (f : Flit) (lost : Bool) (s : State) : State :=
  let x := portOf s p
  if f.vc = 1 then
    let r := assemble x.rxTxn f lost
    let back := if lost then x.credBack else Tab.upd 0 x.credBack (bit f.rsp) (fun c => c + 1)
    let s1 := updPort p (fun x => { x with rxTxn := r.1, credBack := back }) s
    match r.2 with
    | some l => (match parseTxn l with | some k => arriveTxn p k s1 | none => s1)
    | none => s1
  else if f.vc = 2 then
    let r := assemble x.rxMgmt f lost
    let back := if lost then x.credBack else Tab.upd 0 x.credBack 2 (fun c => c + 1)
    let s1 := updPort p (fun x => { x with rxMgmt := r.1, credBack := back }) s
    match r.2 with
    | some l => arriveMgmt p (Config.decodeMgmt l) s1
    | none => s1
  else s

/-- The slots of a port's receive direction that carry a channel, ascending. -/
def slotsOf (t : Tab (Option (BitVec 16))) (n : BitVec 16) : List Nat :=
  (t.filter (fun e => e.2 == some n)).map (fun e => e.1)

/-- The period of a channel in 1/40 of (ns × M): the frame duration at the narrowest floor of its route (R271). -/
def periodUnits (s : State) (d : ChanDesc) : Nat :=
  let floor := d.floors.foldl (fun a f => if f < a then f else a) 3
  160 / widthLanes floor * s.clk.m.toNat

/-- The first fc of chain time of period j (R271). -/
def periodStart (units j : Nat) : Nat := (j * units + 39) / 40

/-- The period whose records a frame brings that is received at chain time t: the first one that starts at or after t − N,
since N bounds the arrival of a period's first word (R98, R271; DEDUCED, log 60). -/
def periodOf (units natural t : Nat) : Nat :=
  let t0 := t - natural
  let j := t0 * 40 / units
  if t0 ≤ periodStart units j then j else j + 1

/-- The records of a period in the slots of a channel: its VALID bit and w data bits for each fc, without those that a
spoiled slot held a bit of (R257, R271). -/
def periodRecords (w : Nat) (payloads : List (Option (BitVec 240))) (first count : Nat) : List (Nat × Bool × W64) :=
  let all := fieldsWord (payloads.zipIdx.map (fun p => (240 * p.2, match p.1 with | some b => b.toNat | none => 0)))
  (List.range count).filterMap (fun i =>
    let lo := i * (w + 1) / 240
    let hi := ((i + 1) * (w + 1) - 1) / 240
    if (List.range (hi + 1 - lo)).all (fun k => (payloads.getD (lo + k) none).isSome) then
      let r := field all (i * (w + 1)) (w + 1)
      some (first + i, r % 2 == 1, BitVec.ofNat 64 (r / 2))
    else none)

/-- Scheduled data that ends here: each record waits in the padding buffer until fc c + D (R97, R99). -/
def deliverSched (c : ChanUse) (payloads : List (Option (BitVec 240))) (s : State) : State :=
  let units := periodUnits s c.desc
  let j := periodOf units c.natural s.clk.time.toNat
  let first := periodStart units j
  let recs := periodRecords c.desc.width.toNat payloads first (periodStart units (j + 1) - first)
  let due := (recs.filter (fun r => decide (c.first ≤ r.1))).map (fun r =>
    (BitVec.ofNat 64 (r.1 + c.desc.latency.toNat), r.2))
  updFace c.desc.nocPort.val (fun f => { f with padding := f.padding ++ due }) s

/-- The port whose transmit slots carry a channel that passes through. -/
def passPort (s : State) (p : Nat) (n : BitVec 16) : Option Nat :=
  (List.range 6).find? (fun q => q != p && (portOf s q).slots.any (fun e => e.2 == some n))

/-- The slots of one channel in a frame: a frame that carries no SCHED flit in them is not the first of a period (R271). -/
def takeSched (p : Nat) (flits : List (Option Flit)) (n : BitVec 16) (s : State) : State :=
  let x := portOf s p
  let slots := slotsOf x.inSlots n
  let got := slots.map (fun j => match flits.getD j none with
    | some f => if f.vc = 0 then some f.payload else none
    | none => none)
  if x.stopped.contains n ∨ got.all (fun g => g.isNone) then s
  else
    match Tab.get none s.lnk.chans n.toNat with
    | some c => if c.desc.dest ∧ c.port = p then deliverSched c got s else s
    | none =>
      match passPort s p n with
      | some q =>
        let out := slotsOf (portOf s q).slots n
        let sent := (out.zip got).filterMap (fun e => e.2.map (fun b => (e.1, b)))
        if linkUpAt s q ∧ !(portOf s q).stopped.contains n then
          updPort q (fun y => { y with schedOut := lastN 64 (y.schedOut ++ sent) }) s
        else s
      | none => s

/-- Whether slot j of a frame carries a tag rather than a flit: slots 16i + 15 of an encrypted link (R297). -/
def tagSlot (x : Port) (j : Nat) : Bool := x.encrypted && j % 16 == 15

/-- LINK_FRAME_RECEIVED (R255 to R259, R263, R273, R297, R298): corrections are counted, the flits that an uncorrectable
codeword spoils are discarded, and the others return credits, carry scheduled data, or complete packets. A poisoned
direction discards every flit. A tag that fails poisons the link after the flits of this frame (DEDUCED, log 61). -/
def execLinkFrameReceived (port : Fin 6) (hdr : FrameHdr) (flits : List Flit) (bad : List (Nat × Nat))
    (corrected : List Nat) (tagFail : Bool) (s : State) : Host.Outcome State Fault Refusal :=
  let p := port.val
  let x := portOf s p
  if x.st ≠ .up then .next s
  else
    let lanes := widthLanes x.rxWidth
    let s1 := updPort p (fun x =>
      let y := countLanes bad corrected x
      if spoiled lanes bad 0 then y else { y with rxFrame := hdr.frame }) s
    if x.rxCut then .next s1
    else
      let good := (flits.take 64).zipIdx.map (fun e =>
        if spoiled lanes bad (e.2 + 1) || tagSlot x e.2 then none else some e.1)
      let s2 := updPort p (fun y => good.foldl (fun y f => match f with | some f => takeCredit f y | none => y) y) s1
      let s3 := ((linkChans x).filter (fun c => !c.2)).foldl (fun a c => takeSched p good c.1 a) s2
      let s4 := ((flits.take 64).zipIdx.filter (fun e => !tagSlot x e.2)).foldl (fun a e =>
        takeFlit p e.1 (spoiled lanes bad (e.2 + 1) || x.rxStep.isSome) a) s3
      let s5 := updPort p (fun y => drainTxn (y.txnWait.length + 1) y) s4
      let s6 := drainMgmt p ((portOf s5 p).mgmtWait.length) s5
      .next (if tagFail && x.encrypted then poisonLink p s6 else s6)

/-! ## Transactions (R286 to R291) -/

/-- Whether a TXN request breaks the rules of size, alignment and boundary (R288). -/
def txnIllegal (op : NocOp) (k : TxnPkt) : Bool :=
  let a := k.addr.toNat
  let bytes := if isAtomic op then 8 else 8 * (k.len.val + 1)
  decide (4096 < a % 4096 + bytes) ||
    (isAtomic op && (decide (a % 8 ≠ 0) || k.len.val != (if op = .compareSwap then 1 else 0)))

/-- Whether the device's atomic unit is busy (R290). -/
def atomicBusy (s : State) : Bool := s.lnk.served.any (fun x => 3 ≤ x.pkt.op.toNat)

/-- TXN_REQUEST_RECEIVED (R288 to R290): the oldest request received by a port is performed as a NoC access of master
"Golular port n"; atomics one at a time. -/
def execTxnRequestReceived (port : Fin 6) (s : State) : Host.Outcome State Fault Refusal :=
  let p := port.val
  match (portOf s p).txnIn.find? (fun e => !e.1) with
  | none => .next s
  | some e =>
    let k := e.2
    let s1 := updPort p (fun x => { x with txnIn := x.txnIn.erase e }) s
    match txnOp k.op.toNat with
    | none => .next (sendRsp p (txnReply k .badArg []) s1)
    | some op =>
      if txnIllegal op k then .next (sendRsp p (txnReply k .badArg []) s1)
      else if s.pwr.baseReset ∨ (isAtomic op ∧ atomicBusy s) then .next s
      else
        let src := BitVec.ofNat 8 (64 + p)
        match freeTag s src with
        | none => .next s
        | some t =>
          let q : NocReq :=
            { src := src, tag := t, stream := 0, cls := 2, op := op, addr := k.addr, len := k.len, beFirst := 0xFF,
              beLast := 0xFF, reinit := false, data := k.data }
          let v : Served := { port := p, pkt := k, tag := t }
          .next (issueReq q { s1 with lnk := { s1.lnk with served := s1.lnk.served ++ [v] } })

/-- TXN_RESPONSE_RECEIVED (R291): the oldest response received by a port returns to the master of its request through the
mesh; one that matches no request is discarded. -/
def execTxnResponseReceived (port : Fin 6) (s : State) : Host.Outcome State Fault Refusal :=
  let p := port.val
  match (portOf s p).txnIn.find? (fun e => e.1) with
  | none => .next s
  | some e =>
    let k := e.2
    let s1 := updPort p (fun x => { x with txnIn := x.txnIn.erase e }) s
    match s.lnk.remote.find? (fun x => x.txTag == k.tag) with
    | none => .next s1
    | some x =>
      let s2 := { s1 with lnk := { s1.lnk with remote := s1.lnk.remote.erase x } }
      let r : NocRsp := { src := x.src, tag := x.tag, status := Status.ofCode k.status.toNat, data := k.data }
      let back := { s2 with noc := { s2.noc with rsps := s2.noc.rsps ++ [r] } }
      match s.noc.out.find? (isReq x.src x.tag) with
      | some q => .next (respond q r.status r.data s2)
      | none => .next (if s.noc.lateTags.contains (x.src, x.tag) then back else s2)

/-! ## MGMT messages -/

/-- The oldest message of a kind received by a port. -/
def mgmtHead (s : State) (p : Nat) (kind : MgmtKind) : Option MgmtMsg :=
  (portOf s p).mgmtIn.find? (fun m => m.kind == kind)

/-- Takes a message from those a port has received. -/
def takeMgmt (p : Nat) (m : MgmtMsg) (s : State) : State :=
  updPort p (fun x => { x with mgmtIn := x.mgmtIn.erase m }) s

/-- MGMT_MESSAGE_RECEIVED (R294, R445, R457, R467): a request message joins channel 14 when it arrived on the upstream port,
and channel 15 otherwise; with 8 messages held it is answered with ST_BUSY. -/
def execMgmtMessageReceived (port : Fin 6) (s : State) : Host.Outcome State Fault Refusal :=
  match mgmtHead s port.val .request with
  | none => .next s
  | some m =>
    let s1 := takeMgmt port.val m s
    let c := if s.lnk.upstream = some port.val then 14 else 15
    let q := msgRequest c m
    if s.mbx.barista = .inReset then .next s1
    else if (chanOf s c).enable = false then .next (answerHw q .denied s1)
    else if s.mbx.barista = .restarting ∨ 8 ≤ (chanOf s c).msgs.length then .next (answerHw q .busy s1)
    else
      .next (updChan c (fun ch => { ch with msgs := ch.msgs ++ [m] })
        (pushOrder c s1))

/-- CMD and SEQ in a response header or in the data of a final event. -/
def cmdSeq (b : List Byte) : Nat × Nat := (natLE (b.take 2), natLE ((b.drop 2).take 2))

/-- The response header with FORWARDED set (Table MBX-7). -/
def markForwarded (h : List Byte) : List Byte := h.set 8 ((h.getD 8 0) ||| BitVec.ofNat 8 flagForwarded)

/-- MGMT_RESPONSE_RECEIVED (R468, R469): the response to a forwarded command goes to the host's channel with FORWARDED set;
ST_PENDING keeps a pending record; a late response is discarded. -/
def execMgmtResponseReceived (port : Fin 6) (s : State) : Host.Outcome State Fault Refusal :=
  match mgmtHead s port.val .response with
  | none => .next s
  | some m =>
    if serving s = false then .next s
    else
      let s1 := takeMgmt port.val m s
      let k := cmdSeq m.header
      match s.mbx.fwd.find? (fun f => f.handle == m.handle && (f.org.cmd.toNat, f.org.seq.toNat) == k) with
      | none => .next s1
      | some f =>
        let pend : Pend := { org := f.org, units := f.units, remote := true, handle := f.handle }
        let keep := (m.header.getD 6 0).toNat = 2 ∧ s.mbx.pend.length < 64
        let s2 := { s1 with mbx := { s1.mbx with
          fwd := s1.mbx.fwd.erase f, pend := if keep then s1.mbx.pend ++ [pend] else s1.mbx.pend } }
        .next (if f.drop then s2 else deliverRaw f.org.channel.toNat none f.more (markForwarded m.header) m.payload s2)

/-- Takes one unit off the first forwarded pending record of a handle, CMD and SEQ, and answers the record. -/
def closeRemote (handle : BitVec 12) (k : Nat × Nat) : List Pend → Option Pend × List Pend
  | [] => (none, [])
  | p :: ps =>
    if p.remote && p.handle == handle && (p.org.cmd.toNat, p.org.seq.toNat) == k then
      (some p, if p.units ≤ 1 then ps else { p with units := p.units - 1 } :: ps)
    else ((closeRemote handle k ps).1, p :: (closeRemote handle k ps).2)

/-- MGMT_EVENT_MESSAGE (R469, R474, R478): a forwarded event is posted with the forwarded flag and its own number, time and
origin; a final event of a forwarded command carries the CHANNEL of the host's request, or 0xFF without a pending
record. Only running firmware posts it. -/
def execMgmtEventMessage (port : Fin 6) (s : State) : Host.Outcome State Fault Refusal :=
  match mgmtHead s port.val .event with
  | none => .next s
  | some m =>
    if serving s = false then .next s
    else
      let e := evOfBytes m.payload
      let e1 := { e with flags := e.flags ||| 1 }
      let s1 := postOverflow (takeMgmt port.val m s)
      if m.handle = 0 then .next { s1 with evt := postRec e1 s1.evt }
      else
        let r := closeRemote m.handle (cmdSeq e.data) s1.mbx.pend
        let chan : Byte := match r.1 with | some p => p.org.channel | none => 0xFF
        let s2 := { s1 with mbx := { s1.mbx with pend := r.2 } }
        .next { s2 with evt := postRec { e1 with data := e1.data.set 4 chan } s2.evt }

/-- FORWARD_TIMEOUT (R468): the command forwarded first is answered with ST_TIMEOUT. -/
def execForwardTimeout (s : State) : Host.Outcome State Fault Refusal :=
  match s.mbx.fwd with
  | [] => .next s
  | f :: fs =>
    if serving s = false then .next s
    else
      let s1 := { s with mbx := { s.mbx with fwd := fs, fwdTimeouts := satAdd s.mbx.fwdTimeouts 1 } }
      let q : Request :=
        { channel := f.org.channel.toNat, cmd := f.org.cmd, seq := f.org.seq, len := 0, flags := 0, target := 0, args := [],
          via := none }
      .next (if f.drop then s1 else answer q .timeout [] s1)

end Sys2Proof.Machine
end

