-- ==== Sys2Proof/Machine/Startup.lean ====
section
/-! DEFINITION. Step 7 of a start (R522, R533): repairs of the repair record, the boot key, the DRAM channels and the
integrity capacity, the tests, and the first round of start-up BIST. -/

namespace Sys2Proof.Machine

/-- Changes the security record. -/
def updSec (f : Sec → Sec) (s : State) : State := { s with sec := f s.sec }

/-- Draws a boot key; without TRNG output, or with the security core off, the engine is left without one (R341, R547). -/
def drawBootKey (s : State) : State :=
  if s.sec.trngStopped ∨ domOn s 2 = false then s else drawKey (updSec (fun x => { x with drbg := x.drbg + 1 }) s)

/-- A start powers a domain on, unless a latched trip keeps it off (R513). -/
def startDom (d : Nat) (s : State) : State :=
  updDom d (fun x => if x.st = .tripped ∨ x.st = .on then x else { x with st := .on, onCount := satAdd x.onCount 1 }) s

/-! ## Column repairs (R185 to R187) -/

/-- Applies the field column repairs of the repair record; a pending entry is pending no more. -/
def applyColumns (s : State) : State :=
  let used := s.start.rr.cols.filter (fun e => Nat.testBit e.toNat 31)
  let s1 := used.foldl (fun a e =>
    updBlock (field e.toNat 0 11) (fun b =>
      { b with spareUsed := b.spareUsed ||| (1#18 <<< (2 * field e.toNat 11 4 + field e.toNat 21 1)) }) a) s
  if used.any (fun e => Nat.testBit e.toNat 30) then
    writeRecord (fun x => { x with cols := x.cols.map (fun e =>
      if Nat.testBit e.toNat 30 then BitVec.ofNat 64 (e.toNat - 2 ^ 30) else e) }) s1
  else s1

/-! ## DRAM at a start (R306, R309, R325, R326, R333, R336) -/

/-- The DIMM that a start finds in a slot, numbered 2 × channel + slot. -/
def foundDimm (o : StartObs) (k : Nat) : Option Dimm := (o.dimms.find? (fun e => e.1 == k)).map (fun e => e.2)

/-- Whether two DIMMs of a channel are alike (R306). -/
def alikeDimms (a b : Dimm) : Bool :=
  a.moduleType == b.moduleType && a.threeDs == b.threeDs && a.x8 == b.x8 && a.density == b.density &&
    a.ranks2 == b.ranks2 && a.stackLog2 == b.stackLog2

/-- The cause for which a population is excluded: 1 outside Table DRM-1, 2 unlike DIMMs, 0 for none (R306). -/
def populationCause (l : List Dimm) : Nat :=
  if l.any (fun d => !d.supported) then 1
  else match l with
    | [a, b] => if alikeDimms a b then 0 else 2
    | _ => 0

/-- Whether the PHY test or the training of a channel fails (row 6 of Table BRG-3). -/
def trainFails (o : StartObs) (c : Nat) : Bool :=
  o.trainFail.getLsbD c || o.fails.any (fun f => f.row == 6 && f.unit.toNat == c)

/-- The place of a DRAM repair entry (Table BRG-10). -/
def pprLoc (e : W64) : DramLoc :=
  let v := e.toNat
  { sub := Nat.testBit v 3, dimm := field v 4 1, rank := field v 5 1, cid := field v 6 3, bg := field v 9 3, ba := field v 12 2,
    row := field v 14 18, col := 0 }

/-- Performs the pending hard repairs of a channel: each is done, or refused with EV_DRAM_PPR (R333). -/
def hardRepairs (o : StartObs) (c : Nat) (s : State) : State :=
  let mine := s.start.rr.ppr.filter (fun e => field e.toNat 0 3 == c && field e.toNat 32 2 == 1)
  let no (e : W64) : Bool := o.refused.any (fun x => field x.toNat 0 32 == field e.toNat 0 32)
  let s1 :=
    if mine = [] then s
    else
      writeRecord (fun x => { x with ppr := x.ppr.map (fun e =>
        if mine.contains e then BitVec.ofNat 64 (field e.toNat 0 32 + 2 ^ 32 * (if no e then 3 else 2)) else e) }) s
  (mine.filter no).foldl (fun a e =>
    raise .dramPpr (locData c (pprLoc e) ++ [(8, 2)])
      (updDchan c (fun y => { y with noSpare := y.noSpare ++ [(pprLoc e).group] }) a)) s1

/-- A channel at a start, before training: absent without a DIMM, excluded by its population or by command, or failed in
service before; otherwise its pending hard repairs are performed and it trains. -/
def findChannel (o : StartObs) (c : Nat) (s : State) : State :=
  let slots := [foundDimm o (2 * c), foundDimm o (2 * c + 1)]
  let l := slots.filterMap id
  let cause := populationCause l
  let set (st : DramSt) (s : State) : State := updDchan c (fun y => { y with st := st, dimms := slots }) s
  if l = [] then s
  else
    let s0 := startDom (7 + c) s
    if s.start.engineFailed then set .absent s0
    else if cause ≠ 0 then raise .dramPopulation [(8, c), (8, cause), (16, 0)] (set .excluded s0)
    else if s.start.rr.exclude.getLsbD c then set .excluded s0
    else if (dchanOf s c).failedPrev then set .failed s0
    else if domOn s0 (7 + c) = false then set .failedTrain s0
    else
      let s1 := hardRepairs o c (set .training s0)
      if trainFails o c then
        noteFail { row := 6, unit := BitVec.ofNat 16 c, layer := false, column := 0, trow := 0, index := 0 } (set .failedTrain s1)
      else set .inService s1

/-- Capacity in GB that a channel's DIMMs hold. -/
def channelGb (s : State) (c : Nat) : Nat :=
  ((dchanOf s c).dimms.filterMap id).foldl (fun a d => a + d.capacityGb.toNat) 0

/-- The speed of set point k: the highest of the population minus k steps of 400 MT/s (R325). -/
def startSpeed (s : State) (k : Nat) : BitVec 3 := BitVec.ofNat 3 (topSpeedAll s - k)

/-- Enters a trained channel in the interleave list at its position, at set point 0, with its training results. -/
def listChannel (c i : Nat) (s : State) : State :=
  let y := channelGb s c
  let s1 := storeResults c 0 (updDchan c (fun x =>
    { x with
      inList := true, index := BitVec.ofNat 3 i, capGb := BitVec.ofNat 10 s.dram.k, setpoint := 0, speed := spSpeed s 0
      nrrMode := ((x.dimms.filterMap id).all (fun d => d.drfm)) }) s)
  if s.dram.k < y then raise .dramPopulation [(8, c), (8, 3), (16, y - s.dram.k)] s1 else s1

/-- The interleave list, K and the speeds of the set points (R309, R325). -/
def listDram (s : State) : State :=
  let l := inServiceChans s
  let caps := l.map (channelGb s)
  let s1 := { s with dram := { s.dram with list := l, k := caps.foldl min (caps.headD 0) } }
  let s2 := { s1 with dram := { s1.dram with
    speeds := (List.range 4).foldl (fun t k => Tab.set 0 t k (startSpeed s1 k)) s1.dram.speeds } }
  (l.zip (List.range l.length)).foldl (fun a e => listChannel e.1 e.2 a) s2

/-! ## Integrity capacity (R346) -/

/-- Bytes of the DRAM window. -/
def windowBytes (s : State) : Nat := s.dram.list.length * s.dram.k * 2 ^ 30

/-- The state with a capacity of P GiB, its carve-out at the end of the window (R346, R351). -/
def withCapacity (p : Nat) (s : State) : State :=
  let s1 := { s with prt := { s.prt with capGib := p } }
  { s1 with prt := { s1.prt with carve := if p = 0 then windowBytes s else macBase (windowBytes s) p (treeTop s1) } }

/-- Whether the window of P GiB, its carve-out and 1 GiB of further data area fit. -/
def capacityFits (s : State) (p : Nat) : Bool :=
  p == 0 || (let c := (withCapacity p s).prt.carve; decide (0 < c ∧ (p + 1) * 2 ^ 30 ≤ c))

/-- The greatest capacity that fits, halving from P. -/
def fitCapacity (s : State) : Nat → Nat → Nat
  | 0, _ => 0
  | n + 1, p => if capacityFits s p then p else fitCapacity s n (p / 2)

/-- The integrity capacity of a start, with EV_PRT_CAPACITY where it was halved. -/
def startCapacity (s : State) : State :=
  let want := s.start.rr.prtCap.toNat
  let p := fitCapacity s 12 want
  let s1 := withCapacity p s
  if p = want then s1 else raise .prtCapacity [(16, p), (16, want)] s1

/-! ## Step 7 (Table BRG-1) -/

/-- Rows of Table BRG-3 whose tests run in step 7 beside those of the DRAM channels. -/
def rowOfSeven (f : BistFail) : Bool := f.row == 9 || f.row == 10 || (14 ≤ f.row && f.row ≤ 18)

/-- The domains that step 7 tests. -/
def sevenDoms : List Nat := [23, 48, 49, 94] ++ (List.range 24).map (fun k => 24 + k) ++ (List.range 8).map (fun k => 50 + k)

/-- The start goes on at step 7 once firmware runs: skip positions and column repairs apply, the map is rebuilt from the
persistent entries, the boot key is drawn, DRAM comes into service, the tests of the step are done, and the rounds begin
(R522, R533, R539). -/
def stepSeven (s : State) : State :=
  match s.start.obs, s.mbx.fw with
  | some o, some _ =>
    let s1 := updStart (fun x => { x with
      step := 7, obs := none, skip1 := x.rr.skip1, skip2 := x.rr.skip2, map := x.rr.map, toTest := List.range 32 }) s
    let s2 := drawBootKey (applyColumns (forEach sevenDoms startDom s1))
    let s3 := startCapacity (listDram (forEach (List.range 8) (findChannel o) s2))
    startRound ((o.fails.filter rowOfSeven).foldl (fun a f => noteFail f a) s3)
  | _, _ => s

end Sys2Proof.Machine
end

