-- ==== Sys2Proof/Machine/Firmware.lean ====
section
/-! DEFINITION. Barista's firmware (R440 to R447): slots and their validity, the start of the firmware, the lockstep restart,
trials, and the SYS and LOG commands of Table MBX-17. -/

namespace Sys2Proof.Machine

/-- Changes the mailbox record. -/
def updMbx (f : Mbx → Mbx) (s : State) : State := { s with mbx := f s.mbx }

/-! ## Slots (R440, R441) -/

/-- FW_MAGIC: the ASCII bytes K, A, F, W. -/
def fwMagic : BitVec 32 := 0x5746414B

/-- Bytes 0 to 79 of a slot header whose reserved bytes are 0 (Table MBX-1). -/
def fwHeader (f : FwImage) : List Byte :=
  bytesLE 4 f.magic.toNat ++ bytesLE 4 f.version.toNat ++ bytesLE 2 f.ifRev.toNat ++ bytesLE 2 f.svn.toNat ++
    bytesLE 4 f.length.toNat ++ List.replicate 16 0 ++ bytesLE 48 f.digest.toNat

/-- Whether a slot image is valid (R441). -/
def fwValid (s : State) (f : FwImage) : Bool :=
  f.magic == fwMagic && f.reservedZero && decide (1 ≤ f.length.toNat ∧ f.length.toNat ≤ 523776) &&
    f.code.length == f.length.toNat && decide (s.sec.minSvn.toNat ≤ f.svn.toNat) && Config.sha384 f.code == f.digest &&
    Config.ecdsaVerify Config.firmwareKey (Config.sha384 (fwHeader f)) f.signature

/-- The image that bytes spell: the header of Table MBX-1 and the code after it. -/
def parseFw (b : List Byte) : Option FwImage :=
  let at_ := fun (o n : Nat) => (b.drop o).take n
  let len := natLE (at_ 12 4)
  if b.length < 512 ∨ b.length < 512 + len then none
  else
    some { magic := BitVec.ofNat 32 (natLE (at_ 0 4)), version := BitVec.ofNat 32 (natLE (at_ 4 4)),
           ifRev := BitVec.ofNat 16 (natLE (at_ 8 2)), svn := BitVec.ofNat 16 (natLE (at_ 10 2)),
           length := BitVec.ofNat 32 len, digest := BitVec.ofNat 384 (natLE (at_ 32 48)), signature := at_ 80 96,
           reservedZero := allZero (at_ 16 16 ++ at_ 176 336), code := at_ 512 len }

/-- The image in slot A (false) or B (true). -/
def slotImg (s : State) (b : Bool) : Option FwImage := if b then s.mbx.slotB else s.mbx.slotA

/-- Puts an image into a slot. -/
def putSlot (b : Bool) (f : Option FwImage) (s : State) : State :=
  updMbx (fun m => if b then { m with slotB := f } else { m with slotA := f }) s

/-- Whether a slot is valid. -/
def slotValid (s : State) (b : Bool) : Bool := match slotImg s b with | some f => fwValid s f | none => false

/-! ## Start of the firmware (R442 to R444) -/

/-- Firmware serves. -/
def runImage (f : FwImage) (slot : Option Bool) (trial : Bool) (s : State) : State :=
  setBarista .serving (updMbx (fun m =>
    { m with fw := some { version := f.version, ifRev := f.ifRev, svn := f.svn, slot := slot, trial := trial } }) s)

/-- Barista enters ROM mode. -/
def enterRom (s : State) : State := setBarista .rom (updMbx (fun m => { m with fw := none }) s)

/-- Starts a slot, or ROM mode where it holds nothing. -/
def bootSlot (b trial : Bool) (s : State) : State :=
  match slotImg s b with
  | some f => runImage f (some b) trial s
  | none => enterRom s

/-- The other slot starts in place of one that failed, with EV_FW_FALLBACK; a trial gives up its selection (R443). -/
def fallBack (failed : Bool) (cause : Nat) (s : State) : State :=
  if slotValid s (!failed) then
    let s1 := updMbx (fun m => { m with
      fallback := true
      selected := if m.selTrial then some (!failed) else m.selected
      selTrial := false }) s
    raise .fwFallback [(8, bit failed), (8, bit (!failed)), (8, cause)] (bootSlot (!failed) false s1)
  else enterRom s

/-- The ROM starts the firmware: the selected slot, else the other; without a selection slot A is tried first (R442; the
order without a selection is a DESIGN CHOICE, log 67). -/
def startFirmware (s : State) : State :=
  match s.mbx.selected with
  | some b => if slotValid s b then bootSlot b s.mbx.selTrial s else fallBack b 1 s
  | none => if slotValid s false then bootSlot false false s else if slotValid s true then bootSlot true false s else enterRom s

/-- Posts the events of the hardware queue where firmware serves (R474). -/
def drainServing (s : State) : State := if serving s then drainHw s else s

/-! ## Lockstep restart (R445 to R447) -/

/-- Commands whose operation hardware carries (Table MBX-3). -/
def hwCarried (cmd : Nat) : Bool :=
  [0x0201, 0x0205, 0x0220, 0x0301, 0x0302, 0x0303, 0x0304, 0x0305, 0x0306, 0x0307, 0x0702, 0x0706, 0x070C, 0x0803, 0x0804,
    0x0902, 0x0908, 0x0909, 0x0C03, 0x0D02, 0x0D03].contains cmd

/-- Ends a command that a restart abandons: its final event with ST_INTERNAL is due at step 4 (Table MBX-3). -/
def abandon (org : Origin) (unit : Nat) (s : State) : State :=
  let s1 := updMbx (fun m => { m with pend := closeUnit org m.pend }) s
  let ev : Ev :=
    match org.cmd.toNat / 256 with
    | 1 => .sysDone | 4 => .pwrDone | 5 => .clkDone | 0xA => .pinDone | 0xD => .tstDone | 0xE => .rprDone | 0xF => .secDone
    | _ => .tagDone
  queueHw (newRec ev (finalData org unit .internal) false s1) (some org) s1

/-- Ends every command that waits on a power domain. -/
def abandonDom (d : Nat) (s : State) : State :=
  let x := domOf s d
  let orgs := x.waitOn ++ x.waitOff.toList ++ x.waitTamp ++ x.waitRetain
  if orgs = [] then s
  else orgs.foldl (fun a o => abandon o d a)
    (updDom d (fun x => { x with waitOn := [], waitOff := none, waitTamp := [], waitRetain := [] }) s)

/-- Ends commands that have no unit. -/
def abandonEach (l : List Origin) (s : State) : State := l.foldl (fun a o => abandon o noUnit a) s

/-- Ends CLK.FABRIC. -/
def abandonClk (s : State) : State :=
  abandonEach s.clk.fabricCmd.toList { s with clk := { s.clk with fabricCmd := none } }

/-- Ends PIN.PROBE, then PIN.POLARITY. -/
def abandonPins (s : State) : State :=
  let probe := match s.pins.probe with | some j => [j.org] | none => []
  let checks := (s.pins.polarity.filterMap (fun c => c.2.1)).eraseDups
  abandonEach (probe ++ checks)
    { s with pins := { s.pins with probe := none, polarity := s.pins.polarity.map (fun c => (c.1, none, c.2.2)) } }

/-- Ends TST.ANALOG, then RPR.SKIP. -/
def abandonTests (s : State) : State :=
  let ana := match s.start.anaTest with | some (some o, _) => [o] | _ => []
  let skip := match s.start.skipCmd with | some (some o, _) => [o] | _ => []
  abandonEach (ana ++ skip)
    { s with start := { s.start with anaTest := none, skipCmd := s.start.skipCmd.map (fun x => (none, x.2)) } }

/-- Ends SEC.LIFECYCLE, then TAG.WRITE. -/
def abandonWrites (s : State) : State :=
  let life := match s.sec.pending with | some (some o, _) => [o] | _ => []
  let tag := match s.tag.job with | some { org := some o, .. } => [o] | _ => []
  abandonEach (life ++ tag)
    { s with sec := { s.sec with pending := s.sec.pending.map (fun x => (none, x.2)) }
             tag := { s.tag with job := s.tag.job.map (fun j => { j with org := none }) } }

/-- Ends SYS.FW_UPDATE. -/
def abandonUpdate (s : State) : State :=
  match s.mbx.fwUpdate with
  | some (o, _) => abandon o noUnit (updMbx (fun m => { m with fwUpdate := none }) s)
  | none => s

/-- Ends the pending commands that no hardware carries (Table MBX-3): what hardware has begun for them runs on, and a domain
that waits to be switched on stays as it is. -/
def abandonAll (s : State) : State :=
  let s1 := forEach (List.range 96) abandonDom { s with pwr := { s.pwr with onQueue := [] } }
  abandonUpdate (abandonWrites (abandonTests (abandonPins (abandonClk s1))))

/-- Answers a request that a restart interrupts (Table MBX-3). -/
def interruptReq (org : Origin) (s : State) : State :=
  answerWith { channel := org.channel.toNat, cmd := org.cmd, seq := org.seq, len := 0, flags := 0, target := 0, args := [],
               via := org.via } .busy flagInterrupted [] s

/-- Ends what is being executed, forwarded or waiting as a request when a restart begins (Table MBX-3). -/
def interruptAll (s : State) : State :=
  let s1 := (s.mbx.fwd.filter (fun f => !f.drop)).foldl (fun a f => interruptReq f.org a) (updMbx (fun m => { m with fwd := [] }) s)
  let s2 := (s1.sec.waiting.toList.filter (fun w => !w.drop)).foldl (fun a w => interruptReq w.org a) { s1 with sec := { s1.sec with waiting := none } }
  let s3 := s2.mbx.order.foldl (fun a c => match takeReq c a with | some (q, _, a1) => answerHw q .busy a1 | none => a) s2
  forEach (List.range 16) (fun c => updChan c Chan.noParts)
    (updMbx (fun m => { m with order := [] }) s3)

/-- A restart begins (Table MBX-2, steps 1 to 3): both cores halt and the mailbox hardware takes every channel. -/
def beginRestart (reload : Bool) (s : State) : State :=
  abandonAll (interruptAll (setBarista .restarting (updMbx (fun m => { m with reload := reload }) s)))

/-- LOCKSTEP_MISMATCH (R445, R447). -/
def execLockstepMismatch (s : State) : Host.Outcome State Fault Refusal :=
  if s.mbx.barista = .serving ∨ s.mbx.barista = .rom then
    .next (beginRestart false (updMbx (fun m => { m with restarts := satAdd m.restarts 1, logRestarts := satAdd m.logRestarts 1 }) s))
  else .next s

/-- The firmware that a restart ends with, with the flags of EV_BARISTA_RESTART: the code in working memory where its
digest holds, else the selected slot from flash; a third restart within 10 s, and one without firmware, leave ROM mode
(R443, R446). -/
def restartFirmware (codeOk third : Bool) (flashA flashB : Option FwImage) (s : State) : State × Nat :=
  match s.mbx.fw with
  | none => (enterRom s, 2)
  | some f =>
    if third then (enterRom s, 2)
    else if f.trial then
      let s1 := fallBack (f.slot.getD false) 3 (updMbx (fun m => { m with slotA := flashA, slotB := flashB }) s)
      (s1, if s1.mbx.fw = none then 3 else 1)
    else if codeOk ∧ s.mbx.reload = false then (setBarista .serving s, 0)
    else
      let s1 := startFirmware (updMbx (fun m => { m with slotA := flashA, slotB := flashB }) s)
      (s1, if s1.mbx.fw = none then 3 else 1)

/-- LOCKSTEP_RESTART_DONE (R445, R446): step 4 of Table MBX-2. -/
def execLockstepRestartDone (codeOk : Bool) (third : Bool) (flashA flashB : Option FwImage) (s : State) :
    Host.Outcome State Fault Refusal :=
  if s.mbx.barista ≠ .restarting then .next s
  else
    let r := restartFirmware codeOk third flashA flashB s
    let s1 := updMbx (fun m => { m with reload := false }) r.1
    .next (drainServing (raise .baristaRestart [(8, r.2), (16, s1.mbx.restarts.toNat)] s1))

/-- FW_TRIAL_TIMEOUT (R443): the trial fails. -/
def execFwTrialTimeout (s : State) : Host.Outcome State Fault Refusal :=
  match s.mbx.barista, s.mbx.fw with
  | .serving, some f => if f.trial then .next (fallBack (f.slot.getD false) 2 s) else .next s
  | _, _ => .next s

/-! ## Code and images that Barista reads -/

/-- A byte of the memory layer, where its block answers. -/
def layerByte (s : State) (a : Nat) : Option Byte :=
  let g := a / 65536
  if 1152 ≤ g ∨ domOn s (sectorDom (sectorOf g)) = false ∨ unavailable s g ∨ blockRetired s g then none
  else
    let w := seenWord s.clk.fc (blockNow s g) (a % 65536 / 8)
    if w.ecc = .bad then none else some (BitVec.ofNat 8 (field w.data.toNat (8 * (a % 8)) 8))

/-- Bytes at an address of the memory layer or of host memory through the outbound window; none elsewhere, or where a
byte does not answer (Table MBX-17). -/
def readBytes (s : State) (a n : Nat) : Option (List Byte) :=
  if 0x080000000000 ≤ a ∧ a + n ≤ 0x080004800000 then
    (List.range n).mapM (fun i => layerByte s (a - 0x080000000000 + i))
  else if destOf s a = .pcie ∧ destOf s (a + n - 1) = .pcie ∧ domOn s 22 then
    some ((List.range n).map (fun i => hostRead s (hostAddr a + i)))
  else none

/-- The image at an address, or the status that refuses it: ST_BAD_ARG for its form, ST_AUTH for its digest, its signature
or its security version (R441). -/
def readImage (s : State) (a n : Nat) : Except Status FwImage :=
  match (readBytes s a n).bind parseFw with
  | none => .error .badArg
  | some f =>
    if f.magic ≠ fwMagic ∨ f.reservedZero = false ∨ f.length.toNat < 1 ∨ 523776 < f.length.toNat then .error .badArg
    else if fwValid s f then .ok f
    else .error .auth

/-! ## SYS commands (Table MBX-17) -/

/-- Highest interface revision served; the ROM serves revision 1. -/
def revMax (s : State) : Nat := match s.mbx.fw with | some f => min 255 f.ifRev.toNat | none => 1

/-- FW_VERSION of the serving firmware; 0 when none serves (R471). -/
def fwVersion (s : State) : Nat := match s.mbx.fw with | some f => f.version.toNat | none => 0

/-- SYS.HELLO (R470, R479). -/
def bodySysHello (rev : Nat) (org : Origin) (s : State) : Ans :=
  if rev = 0 then refuse s .badArg
  else
    let used := min rev (revMax s)
    done (updChan org.channel.toNat (fun ch => { ch with ifRev := BitVec.ofNat 8 used }) s)
      (packFields [(8, used), (8, revMax s), (8, if Config.grade2C then 2 else 1), (8, org.channel.toNat), (32, fwVersion s),
        (64, Config.serial.toNat), (8, bit s.lnk.member)])

/-- SYS_HELLO (R470). -/
def execSysHello (r : Req) (rev : BitVec 8) (s : State) : Host.Outcome State Fault Refusal :=
  .next (serve r 0x0101 (packFields [(8, rev.toNat)]) (bodySysHello rev.toNat) s)

/-- SYS.VERSION (R479). -/
def bodySysVersion (_org : Origin) (s : State) : Ans :=
  let x := match s.mbx.fw with | some f => (f.svn.toNat, bit (f.slot.getD false)) | none => (0, 0)
  done s (packFields [(32, fwVersion s), (16, x.1), (8, x.2), (32, Config.romVersion.toNat), (8, revMax s)])

/-- SYS_VERSION (R479). -/
def execSysVersion (r : Req) (s : State) : Host.Outcome State Fault Refusal := .next (serve r 0x0102 [] bodySysVersion s)

/-- SYS.FW_LOAD (R444): the code is placed in working memory, serves, posts what the hardware queue holds,
and a start that waited for firmware goes on at step 7. -/
def bodySysFwLoad (a n : Nat) (org : Origin) (s : State) : Ans :=
  if s.mbx.barista ≠ .rom then refuse s .state
  else
    let after := fun t => match readImage t a n with
      | .ok f => finish org .sysDone noUnit .ok (stepSeven (drainServing (runImage f none false t)))
      | .error st => finish org .sysDone noUnit st t
    { state := s, status := .pending, after := after }

/-- SYS_FW_LOAD (R444). -/
def execSysFwLoad (r : Req) (addr : BitVec 48) (length : BitVec 20) (s : State) : Host.Outcome State Fault Refusal :=
  .next (serve r 0x0103 (packFields [(48, addr.toNat), (20, length.toNat)]) (bodySysFwLoad addr.toNat length.toNat) s)

/-- SYS.FW_UPDATE (R479): the image is checked, and its flash write begins. -/
def bodySysFwUpdate (a n : Nat) (org : Origin) (s : State) : Ans :=
  if s.mbx.barista ≠ .serving ∨ s.mbx.fwUpdate ≠ none then refuse s .state
  else
    match readImage s a n with
    | .ok f => { state := updMbx (fun m => { m with fwUpdate := some (org, f) }) s, status := .pending }
    | .error st => { state := s, status := .pending, after := finish org .sysDone noUnit st }

/-- SYS_FW_UPDATE (R479). -/
def execSysFwUpdate (r : Req) (addr : BitVec 48) (length : BitVec 20) (s : State) : Host.Outcome State Fault Refusal :=
  .next (serve r 0x0104 (packFields [(48, addr.toNat), (20, length.toNat)]) (bodySysFwUpdate addr.toNat length.toNat) s)

/-- The slot not in use: the one the serving firmware was not loaded from, else the one not selected (R479). -/
def spareSlot (s : State) : Bool :=
  match s.mbx.fw.bind (fun f => f.slot) with
  | some b => !b
  | none => match s.mbx.selected with | some b => !b | none => false

/-- FW_UPDATE_DONE (R479): a write that fails leaves no image in the slot. -/
def execFwUpdateDone (ok : Bool) (s : State) : Host.Outcome State Fault Refusal :=
  match s.mbx.fwUpdate with
  | none => .next s
  | some (org, f) =>
    .next (finish org .sysDone noUnit (if ok then .ok else .internal)
      (putSlot (spareSlot s) (if ok then some f else none) (updMbx (fun m => { m with fwUpdate := none }) s)))

/-- SYS.FW_ACTIVATE (R443): selects a valid slot as a trial; above 95 °C the tag NVM is not written (KL-07). -/
def bodySysFwActivate (b : Bool) (_org : Origin) (s : State) : Ans :=
  if slotValid s b = false then refuse s .state
  else if tooHot s then refuse s .thermal
  else done (updMbx (fun m => { m with selected := some b, selTrial := true }) s)

/-- SYS_FW_ACTIVATE (R443). -/
def execSysFwActivate (r : Req) (slot : Bool) (s : State) : Host.Outcome State Fault Refusal :=
  .next (serve r 0x0105 (packFields [(1, bit slot)]) (bodySysFwActivate slot) s)

/-- SYS.FW_STATUS (R479): per slot VALID, FW_VERSION and FW_SVN, then SELECTED (0xFF with none), TRIAL and FALLBACK. -/
def bodySysFwStatus (_org : Origin) (s : State) : Ans :=
  let one := fun b => match slotImg s b with
    | some f => [(8, bit (fwValid s f)), (32, f.version.toNat), (16, f.svn.toNat)]
    | none => [(8, 0), (32, 0), (16, 0)]
  done s (packFields (one false ++ one true ++
    [(8, match s.mbx.selected with | some b => bit b | none => 0xFF), (8, bit s.mbx.selTrial), (8, bit s.mbx.fallback)]))

/-- SYS_FW_STATUS (R479). -/
def execSysFwStatus (r : Req) (s : State) : Host.Outcome State Fault Refusal := .next (serve r 0x0106 [] bodySysFwStatus s)

/-- SYS.RESTART (R479): ST_OK is sent, and then Barista restarts. -/
def bodySysRestart (_org : Origin) (s : State) : Ans := { state := s, status := .ok, after := beginRestart true }

/-- SYS_RESTART (R479). -/
def execSysRestart (r : Req) (s : State) : Host.Outcome State Fault Refusal := .next (serve r 0x0107 [] bodySysRestart s)

/-- SYS.CHANNEL_POLICY (R451, Table MBX-17). -/
def bodySysChannelPolicy (c mask : Nat) (org : Origin) (s : State) : Ans :=
  if isRegChan org.channel.toNat = false ∨ org.channel.toNat = c then refuse s .denied
  else done (updMbx (fun m => { m with groupMask := Tab.set 0x0003FFFE#32 m.groupMask c (BitVec.ofNat 32 mask) }) s)

/-- SYS_CHANNEL_POLICY (R451). -/
def execSysChannelPolicy (r : Req) (channel : BitVec 4) (mask : BitVec 32) (s : State) : Host.Outcome State Fault Refusal :=
  .next (serve r 0x0108 (packFields [(4, channel.toNat), (32, mask.toNat)]) (bodySysChannelPolicy channel.toNat mask.toNat) s)

/-- SYS.FWD_TIMEOUT (R468): 1 ms to 10,000 ms. -/
def bodySysFwdTimeout (ms : Nat) (_org : Origin) (s : State) : Ans :=
  if ms < 1 ∨ 10000 < ms then refuse s .badArg else done (updMbx (fun m => { m with fwdMs := BitVec.ofNat 14 ms }) s)

/-- SYS_FWD_TIMEOUT (R468). -/
def execSysFwdTimeout (r : Req) (ms : BitVec 14) (s : State) : Host.Outcome State Fault Refusal :=
  .next (serve r 0x0109 (packFields [(14, ms.toNat)]) (bodySysFwdTimeout ms.toNat) s)

/-! ## LOG commands (Table MBX-17) -/

/-- LOG.EVENTS (R602). -/
def bodyLogEvents (from_ count : Nat) (_org : Origin) (s : State) : Ans :=
  if count < 1 ∨ 63 < count then refuse s .badArg
  else
    let f : BitVec 32 := if from_ = 0 then 1 else BitVec.ofNat 32 from_
    if later f s.evt.post then done s (packRecord [(32, f.toNat), (8, 0), (8, 0)] [])
    else
      let oldest := match s.evt.log with | e :: _ => e.1 | [] => s.evt.post + 1
      let gap := later oldest f
      let l := (s.evt.log.filter (fun e => !later f e.1)).take count
      done s (packRecord [(32, (if gap then oldest else f).toNat), (8, l.length), (8, bit gap)] (l.flatMap (fun e => evBytes e.2)))

/-- LOG_EVENTS (R602). -/
def execLogEvents (r : Req) (from_ : BitVec 32) (count : BitVec 8) (s : State) : Host.Outcome State Fault Refusal :=
  .next (serve r 0x1101 (packFields [(32, from_.toNat), (8, count.toNat)]) (bodyLogEvents from_.toNat count.toNat) s)

/-- Changes the event record. -/
def updEvt (f : Evt → Evt) (s : State) : State := { s with evt := f s.evt }

/-- LOG.ALERT_ACK (R477). -/
def bodyLogAlertAck (n : Nat) (_org : Origin) (s : State) : Ans :=
  done (updEvt (fun e => updAlert { e with alertAck := BitVec.ofNat 32 n }) s)

/-- LOG_ALERT_ACK (R477). -/
def execLogAlertAck (r : Req) (number : BitVec 32) (s : State) : Host.Outcome State Fault Refusal :=
  .next (serve r 0x1102 (packFields [(32, number.toNat)]) (bodyLogAlertAck number.toNat) s)

/-- LOG.ALERT_LEVEL (R477, R479): a severity of Table MBX-13. -/
def bodyLogAlertLevel (level : Nat) (_org : Origin) (s : State) : Ans :=
  if 4 < level then refuse s .badArg else done (updEvt (fun e => updAlert { e with alertLevel := BitVec.ofNat 3 level }) s)

/-- LOG_ALERT_LEVEL (R479). -/
def execLogAlertLevel (r : Req) (level : BitVec 3) (s : State) : Host.Outcome State Fault Refusal :=
  .next (serve r 0x1103 (packFields [(3, level.toNat)]) (bodyLogAlertLevel level.toNat) s)

/-- LOG.EVENT_ROUTE (R478): a handle that the route table holds, or 0, and a severity. -/
def bodyLogEventRoute (h sev : Nat) (_org : Origin) (s : State) : Ans :=
  if 4 < sev ∨ (h ≠ 0 ∧ routeOf s h = none) then refuse s .badArg
  else done (updMbx (fun m => { m with routeHandle := BitVec.ofNat 12 h, routeMin := BitVec.ofNat 3 sev }) s)

/-- LOG_EVENT_ROUTE (R478). -/
def execLogEventRoute (r : Req) (handle : BitVec 12) (minSeverity : BitVec 3) (s : State) : Host.Outcome State Fault Refusal :=
  .next (serve r 0x1104 (packFields [(12, handle.toNat), (3, minSeverity.toNat)])
    (bodyLogEventRoute handle.toNat minSeverity.toNat) s)

/-- LOG.COUNTERS (R479). -/
def bodyLogCounters (clear : Bool) (_org : Origin) (s : State) : Ans :=
  let m := s.mbx
  let out := packFields [(32, m.bondPadFails.toNat), (16, m.logRestarts.toNat), (32, m.hwLostTotal.toNat), (32, m.fwdTimeouts.toNat)]
  done (if clear then updMbx (fun m => { m with bondPadFails := 0, logRestarts := 0, hwLostTotal := 0, fwdTimeouts := 0 }) s else s)
    out

/-- LOG_COUNTERS (R479). -/
def execLogCounters (r : Req) (clear : Bool) (s : State) : Host.Outcome State Fault Refusal :=
  .next (serve r 0x1105 (packFields [(1, bit clear)]) (bodyLogCounters clear) s)

end Sys2Proof.Machine
end

