-- ==== Sys2Proof/Machine/LinkTrain.lean ====
section
/-! DEFINITION. The rows of link training (R250 to R254), of the capability exchange and the roles (R240 to R245), of lanes and
widths (R260 to R266), of delay measurement, of poison notices, and of chain time and frequency lock (R246, R276 to
R280). -/

namespace Sys2Proof.Machine

/-! ## Training -/

/-- Whether a port can train: enabled, outside scan mode (R561), its domain and the pass-through path on, the transmit clock locked, and on a member a
reference present or taken before (R243, R246, R250). -/
def canTrain (s : State) (p : Nat) : Bool :=
  (portOf s p).enabled && !s.start.scanBase && domOn s (portDom p) && domOn s 21 && (pllOf s 3).locked && !s.lnk.lossWait &&
    (!s.lnk.member || s.lnk.refclk || s.lnk.refTaken)

/-- EV_LINK_REVERSED (Table LNK-3). -/
def raiseReversed (p cause lane : Nat) (s : State) : State := raise .linkReversed [(8, p), (8, cause), (8, lane)] s

/-- LINK_DETECT_STEP (R251, Table LNK-3): transmitters on at least 6 of the 10 TX lanes mean swapped cables, a mix of
receivers and transmitters is miswiring, and receivers on the clock lane and on two data lanes start step 2. -/
def execLinkDetectStep (port : Fin 6) (clk : DetectFind) (lanes : List DetectFind) (s : State) :
    Host.Outcome State Fault Refusal :=
  let p := port.val
  let x := portOf s p
  let all := clk :: lanes.take 9
  let tx := (all.filter (fun f => f == .transmitter)).length
  let rx := (all.filter (fun f => f == .receiver)).length
  if canTrain s p = false ∨ x.retry ∨ !(x.st == .detect || x.st == .swapped) then .next s
  else if 6 ≤ tx then
    if x.st = .swapped then .next s
    else .next (raiseReversed p 4 0xFF (updPort p (fun x => { x with st := .swapped, downCause := 3 }) s))
  else if 0 < tx ∧ 0 < rx then
    .next (failStep p 4 (raiseReversed p 5 0xFF (updPort p (fun x => { x with st := .detect }) s)))
  else if clk = .receiver ∧ 3 ≤ rx then .next (updPort p (fun x => { x with st := .clock }) s)
  else .next (updPort p (fun x => { x with st := .detect }) s)

/-- The receive lanes of a port that its loopback test counted bad (row 8 of Table BRG-3). -/
def testedBad (s : State) (p : Nat) : BitVec 9 :=
  BitVec.ofNat 9 (fieldsWord (((List.range 9).filter (fun k => s.start.badLanes.contains (16 * p + k))).map (fun k => (k, 1))))

/-- Lanes 0 to 8 as physical lanes of the receiver when the order is reversed (R252). -/
def physLane (reversed : Bool) (k : Nat) : Nat := if reversed then 8 - k else k

/-- Step 5 chooses the width and the lane map of each direction (R239, R253). -/
def trainWidths (s : State) (p : Nat) (o : TrainObs) (x : Port) : Port :=
  let good := o.goodLanes &&& ~~~testedBad s p
  let r := laneMap (if x.rxReversed then reverseLanes good else good)
  let t := laneMap o.txGood
  { x with rxWidth := r.1, rxMap := r.2.1.map (physLane x.rxReversed), rxSpare := r.2.2, rxFailed := ~~~good,
           txWidth := t.1, txMap := t.2.1, txSpare := t.2.2, txFailed := ~~~o.txGood }

/-- A delay in ps with a trim added, at least 0. -/
def trimPs (d : BitVec 32) (trim : Int) : BitVec 32 := BitVec.ofNat 32 ((d.toNat : Int) + trim).toNat

/-- Step 7 records the wire delays with the trim of R279, and the flight times of the widths from the chosen one down (R254, R604). -/
def trainDelays (o : TrainObs) (x : Port) : Port :=
  { x with rxWire := trimPs o.rxWirePs (x.asym.toInt / 2), txWire := trimPs o.txWirePs (-(x.asym.toInt / 2)), flight8 := if x.rxWidth = 3 then o.flight8 else 0,
           flight4 := if x.rxWidth = 3 ∨ x.rxWidth = 2 then o.flight4 else 0, flight2 := o.flight2 }

/-- LNK.RESET's key agreement ends: the poison is cleared and the channels of the link resume, or the link goes down with
encryption refused (R295, R299). -/
def endReset (p : Nat) (org : Origin) (ok : Bool) (s : State) : State :=
  if ok then
    let x := portOf s p
    let chans := ((linkChans x).map (fun c => c.1)).eraseDups.filter (fun n => !x.stopped.contains n)
    let s1 := updPort p (fun x => { x with poisoned := false, rxCut := false, keys := x.keys + 1, cmdReset := none,
                                           ctrlOut := if x.poisoned then x.ctrlOut ++ [(6, 0)] else x.ctrlOut }) s
    let s2 := faceClear p s1
    let s3 := if x.poisoned then raiseSched .schedResumed p chans.length chans (chans.foldl resumeChan s2) else s2
    finish org .lnkDone p .ok s3
  else linkFall p .detect 9 s

/-- Whether the link is encrypted: either end requires it (R295). -/
def wantsKey (x : Port) : Bool := x.encReq || (match x.peer with | some c => c.encrypt | none => false)

/-- LINK_TRAINING_STEP_DONE (R250, Table LNK-2, Table LNK-3): the step in progress ends with what it finds. On a link that
is up, the step is step 8 of an LNK.RESET (R299). -/
def execLinkTrainingStepDone (port : Fin 6) (obs : TrainObs) (s : State) : Host.Outcome State Fault Refusal :=
  let p := port.val
  let x := portOf s p
  match x.st with
  | .clock =>
    let s1 := updPort p (fun x => { x with st := .lanes, clkInverted := obs.clkInverted }) s
    .next (if obs.clkInverted then raiseReversed p 3 0xFF s1 else s1)
  | .lanes =>
    if obs.miswired then .next (failStep p 4 (raiseReversed p 5 0xFF s))
    else
      let s1 := updPort p (fun x =>
        { x with st := .equalise, rxInverted := obs.laneInverted, rxReversed := obs.reversed }) s
      let s2 := forEach (bitsOf obs.laneInverted) (raiseReversed p 1) s1
      .next (if obs.reversed then raiseReversed p 2 0xFF s2 else s2)
  | .equalise => .next (updPort p (fun x => { x with st := .frame }) s)
  | .frame =>
    let y := trainWidths s p obs x
    if y.rxWidth = 0 ∨ y.txWidth = 0 then .next (failStep p 5 s)
    else .next (updPort p (fun _ => { y with st := .exchange, peer := none, role := 0 }) s)
  | .exchange =>
    if x.role = 0 then .next s else .next (updPort p (fun x => { x with st := .measure }) s)
  | .measure =>
    if x.ready then .next s
    else .next (updPort p (fun x =>
      let y := trainDelays obs x
      if wantsKey y then { y with st := .key } else { y with ready := true }) s)
  | .key =>
    if x.ready then .next s
    else if obs.keyOk then
      .next (updPort p (fun x => { x with encrypted := true, keys := x.keys + 1, ready := true }) s)
    else .next (failStep p 9 s)
  | .up =>
    match x.cmdReset with
    | some org => .next (endReset p org obs.keyOk s)
    | none => .next s
  | _ => .next s

/-- LINK_STEP_TIMEOUT (R250): a step from 2 to 8 exceeds 10 ms; in step 8 the other end has not completed the key agreement
(R295, R299). -/
def execLinkStepTimeout (port : Fin 6) (s : State) : Host.Outcome State Fault Refusal :=
  let p := port.val
  let x := portOf s p
  match x.st with
  | .clock | .lanes | .equalise | .frame | .exchange | .measure => .next (failStep p 6 s)
  | .key => .next (failStep p (if x.ready then 6 else 9) s)
  | .up => if x.cmdReset.isSome then .next (linkFall p .detect 9 s) else .next s
  | _ => .next s

/-- LINK_RETRY_TIMER (R250): 100 ms after a failure the port starts again at step 1. -/
def execLinkRetryTimer (port : Fin 6) (s : State) : Host.Outcome State Fault Refusal :=
  .next (updPort port.val (fun x => { x with retry := false }) s)

/-! ## Roles -/

/-- Whether the peer of a port offers an upstream: it is locked and this link is not its own upstream (R242). -/
def offersUpstream (c : Capability) : Bool := c.locked && !c.upstreamFlag

/-- The upstream port that a member selects now: the lowest-numbered port in step 6 whose peer offers an upstream (R242). -/
def selectUpstream (s : State) : Option Nat :=
  if s.lnk.member ∧ s.lnk.upstream = none ∧ s.clk.timeLocked = false then
    (List.range 6).find? (fun p => (portOf s p).st == .exchange &&
      (match (portOf s p).peer with | some c => offersUpstream c | none => false))
  else none

/-- The role of a port at the end of step 6: 1 this device's upstream, 2 downstream, 3 lateral, 0 not resolved (R242,
R244). -/
def resolveRole (s : State) (p : Nat) (c : Capability) : BitVec 2 :=
  if s.lnk.upstream = some p then 1
  else if c.upstreamFlag then 2
  else if s.clk.timeLocked ∧ c.locked ∧ c.chainId = s.clk.chainId then 3
  else 0

/-- A forwarded clock above the grade maximum leaves the fabric clock stopped (R4). -/
def checkGrade (p : Nat) (m : Byte) (s : State) : State :=
  if Config.mMax < m.toNat then
    raise .clockGrade [(8, m.toNat), (8, Config.mMax), (8, p)] { s with clk := { s.clk with gradeStop := true } }
  else { s with clk := { s.clk with gradeStop := false } }

/-- CAPABILITY_WORD (R240 to R245, R250): the peer's announcement in step 6 resolves the role of the link. -/
def execCapabilityWord (port : Fin 6) (c : Capability) (s : State) : Host.Outcome State Fault Refusal :=
  let p := port.val
  if (portOf s p).st ≠ .exchange then .next s
  else
    let s1 := updPort p (fun x => { x with peer := some c }) s
    if !s.lnk.member && c.root then .next (failStep p 7 s1)
    else if s.clk.timeLocked ∧ c.locked ∧ c.chainId ≠ s.clk.chainId then .next (failStep p 8 s1)
    else
      let s2 := match selectUpstream s1 with
        | some q => { s1 with lnk := { s1.lnk with upstream := some q } }
        | none => s1
      let s3 := if s2.lnk.upstream = some p then checkGrade p c.m s2 else s2
      .next (updPort p (fun x => { x with role := resolveRole s3 p c }) s3)

/-- The upstream link is up: the fabric clock and every transmit clock come from it (R242, R277, R500). -/
def takeUpstream (p : Nat) (c : Capability) (s : State) : State :=
  if s.lnk.upstream = some p then
    let s1 := forEach [1, 2, 3] (fun g s => updPll g (fun x => { x with ref := .forwarded }) s) s
    { s1 with clk := { s1.clk with m := BitVec.ofNat 7 c.m.toNat }, lnk := { s1.lnk with refTaken := true } }
  else s

/-- LINK_UP (R250, step 9): MGMT and TXN open with the peer's credits, TIME opens on an upstream link, and existing
channels go on in their reserved slots. -/
def execLinkUp (port : Fin 6) (s : State) : Host.Outcome State Fault Refusal :=
  let p := port.val
  let x := portOf s p
  match x.peer with
  | none => .next s
  | some c =>
    if x.ready = false ∨ x.st = .up then .next s
    else
      let s1 := updPort p (fun x =>
        { x with
          st := .up, downCause := 0, upCount := satAdd x.upCount 1, ready := false, rxFrame := 0
          credReq := c.txnReqCredits.toNat, credRsp := c.txnRspCredits.toNat, credMgmt := c.mgmtCredits.toNat
          rxTxn := some [], rxMgmt := some [], errs := [] }) s
      let s2 := raise .linkUp [(8, p), (8, x.role.toNat), (8, x.txWidth.toNat), (8, x.rxWidth.toNat)] (takeUpstream p c s1)
      .next (checkFloors p s2)

/-! ## Lanes and widths -/

/-- The good receive lanes of a port, without a spare marked bad (R253, R266). -/
def goodRx (x : Port) : BitVec 9 :=
  let spare : BitVec 9 := if x.spareBad then 1#9 <<< physLane x.rxReversed 8 else 0
  ~~~x.rxFailed &&& ~~~spare

/-- A width step of the receive direction with the good lanes given (R253, R261). -/
def widthStep (x : Port) (good : BitVec 9) (lane : Nat) (widen : Bool) : LaneStep :=
  let r := laneMap (if x.rxReversed then reverseLanes good else good)
  { width := r.1, map := r.2.1.map (physLane x.rxReversed), spare := r.2.2, lane := BitVec.ofNat 8 lane, widen := widen,
    switch := none }

/-- FH_CTRL_DATA of a width request: the width code and the mask of good lanes in the sender's order (Table LNK-6). -/
def widthRequestData (x : Port) (w : BitVec 2) (good : BitVec 9) : BitVec 48 :=
  BitVec.ofNat 48 (w.toNat + 256 * (if x.rxReversed then reverseLanes good else good).toNat)

/-- Starts a spare switch or width step of the receive direction: its request goes out on the opposite direction, and the
packets in parts are lost (R262, R263). -/
def startStep (p : Nat) (st : LaneStep) (code : Byte) (data : BitVec 48) (s : State) : State :=
  updPort p (fun x => { x with rxStep := some st, rxTxn := none, rxMgmt := none, ctrlOut := x.ctrlOut ++ [(code, data)] }) s

/-- LANE_FAILED (R260 to R264): at width 8 a failed lane is replaced with a free spare; otherwise the link steps to the
widest width that its good lanes allow. With fewer than 2 good lanes, or with the opposite direction in a step of its own,
the link goes down. -/
def execLaneFailed (port : Fin 6) (lane : Fin 9) (s : State) : Host.Outcome State Fault Refusal :=
  let p := port.val
  let x := portOf s p
  if x.st ≠ .up then .next s
  else
    let y := { x with rxFailed := x.rxFailed ||| (1#9 <<< lane.val) }
    let s1 := updPort p (fun _ => y) s
    let good := goodRx y
    let spare := physLane x.rxReversed 8
    if !x.rxMap.contains lane.val then .next s1
    else if x.txStep.isSome ∨ widthFor (bitsOf good).length = 0 then .next (linkFall p .detect 5 s1)
    else if x.rxWidth = 3 ∧ x.rxSpare = false ∧ good.getLsbD spare then
      let st : LaneStep := { width := 3, map := x.rxMap.map (fun k => if k = lane.val then spare else k), spare := true,
                             lane := BitVec.ofNat 8 lane.val, widen := false, switch := none }
      .next (startStep p st 1 (BitVec.ofNat 48 (physLane x.rxReversed lane.val)) s1)
    else
      let st := widthStep y good lane.val false
      .next (startStep p st 2 (widthRequestData x st.width good) s1)

/-- The frame that the transmitter names for a switch, at least 16 frames ahead: its frame count is not part of the model,
so the number is a free value (R262, log 56). -/
def switchFrame (s : State) : BitVec 32 := (freeNow s).extractLsb' 0 32

/-- Starts a step of the transmit direction and acknowledges it (step 3 of Table LNK-8). -/
def acknowledge (p : Nat) (st : LaneStep) (failed : BitVec 9) (s : State) : State :=
  let f := switchFrame s
  updPort p (fun x => { x with txStep := some { st with switch := some f }, txFailed := failed,
                               ctrlOut := x.ctrlOut ++ [(3, f.zeroExtend 48)] }) (useFree 1 s)

/-- SPARE_REQUEST (R262). -/
def execSpareRequest (port : Fin 6) (lane : Fin 9) (s : State) : Host.Outcome State Fault Refusal :=
  let p := port.val
  let x := portOf s p
  if x.st ≠ .up ∨ x.txStep.isSome ∨ x.txSpare ∨ !x.txMap.contains lane.val then .next s
  else
    let st : LaneStep := { width := x.txWidth, map := x.txMap.map (fun k => if k = lane.val then 8 else k), spare := true,
                           lane := BitVec.ofNat 8 lane.val, widen := false, switch := none }
    .next (acknowledge p st (x.txFailed ||| (1#9 <<< lane.val)) s)

/-- WIDTH_REQUEST (R262). -/
def execWidthRequest (port : Fin 6) (code : BitVec 2) (mask : BitVec 9) (s : State) : Host.Outcome State Fault Refusal :=
  let p := port.val
  let x := portOf s p
  if x.st ≠ .up ∨ x.txStep.isSome ∨ code = 0 then .next s
  else
    let r := laneMap mask
    let st : LaneStep := { width := code, map := r.2.1.take (widthLanes code), spare := r.2.2 && code == 3, lane := 0xFF,
                           widen := decide (x.txWidth < code), switch := none }
    .next (acknowledge p st (~~~mask) s)

/-- LINK_ACKNOWLEDGE (R262): the frame at which the receive direction's step takes effect. -/
def execLinkAcknowledge (port : Fin 6) (frame : BitVec 32) (s : State) : Host.Outcome State Fault Refusal :=
  .next (updPort port.val (fun x =>
    match x.rxStep with
    | some st => { x with rxStep := some { st with switch := some frame } }
    | none => x) s)

/-- The receive direction's step takes effect: steps 4 and 5 of Table LNK-8 with the receiver's event. -/
def switchRx (p : Nat) (st : LaneStep) (s : State) : State :=
  let x := portOf s p
  let s1 := updPort p (fun x => { x with rxWidth := st.width, rxMap := st.map, rxSpare := st.spare, rxStep := none,
                                         rxTxn := some [], rxMgmt := some [], cmdWiden := none }) s
  let spared := st.width = x.rxWidth ∧ st.spare = true ∧ st.widen = false
  let s2 := if spared then
      raise .laneSpared [(8, p), (8, st.lane.toNat), (8, 0)]
        { s1 with start := { s1.start with lanesSpared := satAdd s1.start.lanesSpared 1 } }
    else raise .linkWidth [(8, p), (8, 0), (8, st.width.toNat), (16, (goodRx x).toNat)] s1
  let s3 := checkFloors p s2
  if st.widen then finishOpt x.cmdWiden .lnkDone p .ok s3 else finishOpt x.cmdWiden .lnkDone p .state s3

/-- The transmit direction's step takes effect. -/
def switchTx (p : Nat) (st : LaneStep) (s : State) : State :=
  let x := portOf s p
  let s1 := updPort p (fun x => { x with txWidth := st.width, txMap := st.map, txSpare := st.spare, txStep := none }) s
  let s2 := if st.width = x.txWidth then s1
    else raise .linkWidth [(8, p), (8, 1), (8, st.width.toNat), (16, (~~~x.txFailed).toNat)] s1
  checkFloors p s2

/-- LANE_MAP_SWITCH (R262): at the switch frame named. -/
def execLaneMapSwitch (port : Fin 6) (rx : Bool) (s : State) : Host.Outcome State Fault Refusal :=
  let x := portOf s port.val
  match (if rx then x.rxStep else x.txStep) with
  | some st =>
    if st.switch.isNone then .next s
    else .next (if rx then switchRx port.val st s else switchTx port.val st s)
  | none => .next s

/-- SPARE_LANE_CHECK (R266): more than 16 bit errors in a beacon period mark the unused spare bad; during a throttle the
check is stopped (R511). -/
def execSpareLaneCheck (port : Fin 6) (errors : BitVec 32) (s : State) : Host.Outcome State Fault Refusal :=
  let p := port.val
  let x := portOf s p
  if x.st ≠ .up ∨ x.rxSpare ∨ x.spareBad ∨ s.thm.throttle ∨ errors.toNat ≤ 16 then .next s
  else
    .next (raise .laneSpared [(8, p), (8, physLane x.rxReversed 8), (8, 1)]
      (updPort p (fun x => { x with spareBad := true }) s))

/-- WIDEN_PRBS_CHECK_DONE (R265): with the lanes of the check that are good, the link widens, or LNK.WIDEN ends with
ST_STATE where no wider width is possible. -/
def execWidenPrbsCheckDone (port : Fin 6) (good : BitVec 9) (s : State) : Host.Outcome State Fault Refusal :=
  let p := port.val
  let x := portOf s p
  match x.cmdWiden with
  | none => .next s
  | some org =>
    if x.rxStep.isSome then .next s
    else
      let inUse := BitVec.ofNat 9 (fieldsWord (x.rxMap.map (fun k => (k, 1))))
      let all := good ||| inUse
      let st := widthStep x all 0xFF true
      if st.width ≤ x.rxWidth ∨ x.txStep.isSome then
        .next (finish org .lnkDone p .state (updPort p (fun x => { x with cmdWiden := none }) s))
      else
        .next (startStep p st 2 (widthRequestData x st.width all)
          (updPort p (fun x => { x with rxFailed := ~~~all, spareBad := false }) s))

/-! ## Delay measurement and poison notices -/

/-- DELAY_MEASUREMENT_REQUEST (R254, Table LNK-6): echoed with the turnaround. -/
def execDelayMeasurementRequest (port : Fin 6) (stamp turnaround : BitVec 48) (s : State) :
    Host.Outcome State Fault Refusal :=
  let x := portOf s port.val
  if x.st = .measure ∨ x.st = .up then
    .next (updPort port.val (fun x => { x with ctrlOut := x.ctrlOut ++ [(5, stamp + turnaround)] }) s)
  else .next s

/-- DELAY_MEASUREMENT_REPLY (R254, R279): half the round trip in ps, with half the trim added to the receive and taken from
the transmit direction (DEDUCED, log 57). -/
def execDelayMeasurementReply (port : Fin 6) (stamp now : BitVec 48) (s : State) : Host.Outcome State Fault Refusal :=
  let x := portOf s port.val
  if x.st = .measure ∨ x.st = .up then
    let half := BitVec.ofNat 32 ((now - stamp).toNat / 2)
    let trim := x.asym.toInt / 2
    .next (updPort port.val (fun x => { x with rxWire := trimPs half trim, txWire := trimPs half (-trim) }) s)
  else .next s

/-- POISON_NOTICE (R298): the peer's receive direction is poisoned, or cleared. -/
def execPoisonNotice (port : Fin 6) (poisoned : Bool) (s : State) : Host.Outcome State Fault Refusal :=
  if (portOf s port.val).st = .up then
    .next (updPort port.val (fun x => { x with poisoned := poisoned || x.rxCut }) s)
  else .next s

/-! ## Clock loss and chain time -/

/-- UPSTREAM_CLOCK_LOST (R23, R246). -/
def execUpstreamClockLost (s : State) : Host.Outcome State Fault Refusal :=
  match s.lnk.upstream with
  | some p => if linkUpAt s p then .next (loseUpstream s) else .next s
  | none => .next s

/-- CLOCK_LOSS_RETRAIN (R246): 100 µs after the loss the member trains its ports again. -/
def execClockLossRetrain (s : State) : Host.Outcome State Fault Refusal :=
  .next { s with lnk := { s.lnk with lossWait := false } }

/-- FABRIC_CLOCK_LOST (R23). -/
def execFabricClockLost (cause : BitVec 8) (s : State) : Host.Outcome State Fault Refusal :=
  .next (loseFabricClock cause.toNat (match s.lnk.upstream with | some p => p | none => 0xFF) s)

/-- A frame's duration in fc at a width and the present fabric frequency, rounded up (R255, R271). -/
def frameFc (s : State) (w : BitVec 2) : Nat := (160 / widthLanes w * s.clk.m.toNat + 39) / 40

/-- A beacon of a port: it lies in the first frame that leaves in or after this fc, at a place that the frame sequence
fixes and the model does not hold; the fc and its fraction are free values within one frame (R276, log 58). -/
def sendBeacon (p : Nat) (s : State) : State :=
  let x := portOf s p
  if x.st = .up ∧ s.lnk.upstream ≠ some p then
    let v := freeNow s
    let d := (v.extractLsb' 8 32).toNat % frameFc s x.txWidth
    updPort p (fun x => { x with beacon := some (s.clk.time + BitVec.ofNat 64 d, v.extractLsb' 0 8) }) (useFree 1 s)
  else s

/-- BEACON_SEND (R276): at a chain time that is a multiple of 2^20 a device locked to a chain sends a beacon on every port
that is not its upstream, once. A beacon period ends for the lane error counts (R260). -/
def execBeaconSend (s : State) : Host.Outcome State Fault Refusal :=
  if s.clk.timeLocked ∧ s.clk.time.toNat % 2 ^ 20 = 0 ∧ s.lnk.beaconAt ≠ some s.clk.time then
    let s1 := forEach (List.range 6) (fun p s => updPort p (fun x => { x with errs := [] }) (sendBeacon p s)) s
    .next { s1 with lnk := { s1.lnk with beaconAt := some s.clk.time } }
  else .next s

/-- The wire delay of the receive direction in 1/256 fc at the present fabric frequency (R278, R501). -/
def wireFrac (s : State) (x : Port) : Nat := x.rxWire.toNat * s.clk.m.toNat * 256 / 40000

/-- The nearest whole fc to a time in 1/256 fc. -/
def nearestFc (d : Int) : Int := (d + 128) / 256

/-- BEACON_RECEIVED (R244, R278, R279): on the upstream port, the first beacon after the fabric PLL locks sets chain time,
and each later one tracks the phase, slips the count, or counts as loss of the upstream clock. -/
def execBeaconReceived (port : Fin 6) (time : W64) (frac : Byte) (arriveFrac : Int) (s : State) :
    Host.Outcome State Fault Refusal :=
  let x := portOf s port.val
  if s.lnk.upstream ≠ some port.val ∨ x.st ≠ .up ∨ x.rxCut ∨ (pllOf s 0).locked = false then .next s
  else
    let due : Int := (256 * time.toNat + frac.toNat + wireFrac s x : Nat)
    if s.clk.timeLocked = false then
      .next { s with
        clk := { s.clk with time := BitVec.ofInt 64 (due / 256), phase := 0, unsync := false, timeLocked := true,
                            chainId := match x.peer with | some c => c.chainId | none => 0 }
        lnk := { s.lnk with slip := false } }
    else
      let d : Int := (256 * s.clk.time.toNat : Nat) + arriveFrac - due
      let n := nearestFc d
      let φ := d - 256 * n
      let s1 := { s with clk := { s.clk with phase := s.clk.phase - φ } }
      if 64 < φ.natAbs then .next (loseUpstream s)
      else if n = 0 ∧ φ.natAbs ≤ 16 then
        .next { s1 with clk := { s1.clk with unsync := s1.clk.unsync && !s.lnk.slip }, lnk := { s1.lnk with slip := false } }
      else
        let s2 := { s1 with clk := { s1.clk with time := s1.clk.time - BitVec.ofInt 64 n, unsync := true }
                            lnk := { s1.lnk with slip := true } }
        .next (raise .timeSlip [(8, port.val), (16, (BitVec.ofInt 16 φ).toNat), (64, (BitVec.ofInt 64 n).toNat)] s2)

end Sys2Proof.Machine
end

