-- ==== Sys2Proof/Machine/Security.lean ====
section
/-! DEFINITION. The security core, the vault, the life cycle and the tag NVM (chapter 16): random numbers, tampers, the SEC and
TAG commands, and the JTAG instructions of R560, R561 and R563. -/

namespace Sys2Proof.Machine

/-! ## Random numbers (R546, R547) -/

/-- Draws a new NONCE from the DRBG (R546, R554): a free value. -/
def drawNonce (s : State) : State :=
  useFree 1 (updSec (fun x => { x with nonce := (freeNow s).extractLsb' 0 384, drbg := x.drbg + 1 }) s)

/-- Answers the SEC command that waits for TRNG output; after a reset of its channel the response is discarded (R460). -/
def answerWaiting (w : SecWait) (s : State) : State :=
  let q : Request :=
    { channel := if w.drop then 0xFF else w.org.channel.toNat, cmd := w.org.cmd, seq := w.org.seq, len := 0, flags := 0, target := w.target, args := [],
      via := if w.drop then none else w.org.via }
  let p : Pend := { org := w.org, units := 1, remote := false, handle := 0 }
  let s1 := updSec (fun x => { x with waiting := none }) s
  answer q w.status w.data (if w.status = .pending then updMbx (fun m => { m with pend := m.pend ++ [p] }) s1 else s1)

/-- TRNG output resumes: a command that waits for its NONCE is answered (R547). -/
def resumeTrng (s : State) : State :=
  let s1 := updSec (fun x => { x with trngStopped := false }) s
  match s1.sec.waiting with
  | some w => answerWaiting w (drawNonce s1)
  | none => s1

/-- DRBG_RESEED (R546). -/
def execDrbgReseed (s : State) : Host.Outcome State Fault Refusal :=
  if 2 ^ 20 ≤ s.sec.drbg ∧ s.sec.trngStopped = false then .next (updSec (fun x => { x with drbg := 0 }) s) else .next s

/-! ## Wipes and tampers (R557, R559) -/

/-- Zeroises the boot key and begins a vault wipe; a wipe in progress is not repeated, and a vault that is off holds nothing
(R555, R557, R559). -/
def beginWipe (s : State) : State :=
  let s1 := zeroiseKey s
  if domOn s 2 then updSec (fun x => { x with vault := [], wiping := true }) s1 else s1

/-- A tamper may cut off a life-cycle transition, which leaves the old state or runs on to the new one, and a tag page write,
which leaves the old or the new content: FREE VALUES (R555, R565). A command cut off ends with ST_INTERNAL. -/
def cutOff (s : State) : State :=
  let v := freeNow s
  let s0 := useFree 1 s
  let s1 := match s0.sec.pending with
    | some (org, _, _) =>
      if v.getLsbD 0 then s0 else finishOpt org .secDone noUnit .internal (updSec (fun x => { x with pending := none }) s0)
    | none => s0
  match s1.tag.job with
  | some j => if v.getLsbD 1 then s1 else finishOpt j.org .tagDone noUnit .internal { s1 with tag := { s1.tag with job := none } }
  | none => s1

/-- A tamper (R559): the boot key is zeroised, the vault is wiped, a new boot key is due, and EV_TAMPER is raised. -/
def takeTamper (cause : Byte) (ongoing : Bool) (s : State) : State :=
  let s1 := updSec (fun x =>
    { x with tampers := satAdd x.tampers 1, lastCause := cause, redraw := true, tamper := x.tamper || ongoing }) s
  let s2 := if s.sec.wiping ∨ s.sec.pending ≠ none then zeroiseKey s1 else beginWipe s1
  raise .tamper [(8, cause.toNat)] (cutOff s2)

/-- TAMPER (R559, Table SEC-4): causes 0x1 and 0x2; the others have rows of their own. -/
def execTamper (cause : BitVec 8) (ongoing : Bool) (s : State) : Host.Outcome State Fault Refusal :=
  if cause = 1 ∨ cause = 2 then .next (takeTamper cause ongoing s) else .next s

/-- BOOT_KEY_REDRAW (R559): the last tamper condition has ended 1 ms ago, TRNG output has resumed, and a new boot key is
drawn. -/
def execBootKeyRedraw (s : State) : Host.Outcome State Fault Refusal :=
  if s.sec.redraw = false ∨ s.sec.wiping then .next s
  else .next (drawBootKey (resumeTrng (updSec (fun x => { x with redraw := false, tamper := false }) s)))

/-- TRNG_HEALTH_FAIL (R547): output stops, and the failure is a tamper of cause 0x3. -/
def execTrngHealthFail (s : State) : Host.Outcome State Fault Refusal :=
  .next (takeTamper 3 false (updSec (fun x => { x with trngStopped := true }) s))

/-- TRNG_OUTPUT_TIMEOUT (R547): a SEC command that waits completes with ST_INTERNAL, its transition goes on without it, and
a boot key that was due is not drawn. -/
def execTrngOutputTimeout (s : State) : Host.Outcome State Fault Refusal :=
  if s.sec.trngStopped = false then .next s
  else
    let s1 := updSec (fun x => { x with redraw := false }) s
    match s1.sec.waiting with
    | some w =>
      let s2 := updSec (fun x => { x with pending :=
        match x.pending with
        | some (some o, t) => if o = w.org then some (none, t) else some (some o, t)
        | p => p }) s1
      .next (answerWaiting { w with status := .internal, data := [] } s2)
    | none => .next s1

/-- VAULT_WIPE_DONE (R555, R557): requests are served again; after the wipe of a life-cycle transition a new boot key is
drawn. -/
def execVaultWipeDone (s : State) : Host.Outcome State Fault Refusal :=
  if s.sec.wiping = false then .next s
  else
    let s1 := updSec (fun x => { x with wiping := false }) s
    if s.sec.pending ≠ none ∧ s.sec.redraw = false then .next (drawBootKey s1) else .next s1

/-! ## The vault (R557, R558) -/

/-- First address of the vault. -/
def vaultBase : Nat := 0x081000000000

/-- Whether a master may reach the vault (R558). -/
def vaultAllows (s : State) (src : Nat) : Bool :=
  (s.sec.life == 2 || s.sec.life == 3) &&
    (decide (src < 64) || src == 72 || (decide (64 ≤ src ∧ src < 70) && (portOf s (src - 64)).encrypted))

/-- A request that the vault serves. -/
def serveVault (q : NocReq) (s : State) : State :=
  match q.op with
  | .read =>
    let at_ := q.addr.toNat / 8 * 8 - vaultBase
    answerMesh q .ok (wordsOfBytes (tabBytes s.sec.vault at_ (8 * (q.len.val + 1)))) s
  | .write =>
    answerMesh q .ok [] (updSec (fun x => { x with
      vault := (writeBytes q).foldl (fun t b => Tab.set 0 t (b.1 - vaultBase) b.2) x.vault }) s)
  | _ => answerMesh q .badArg [] s

/-- VAULT_ACCESS (R557, R558). -/
def execVaultAccess (src : BitVec 8) (tag : BitVec 12) (s : State) : Host.Outcome State Fault Refusal :=
  match meshReq s src tag with
  | none => .next s
  | some q =>
    if destOf s q.addr.toNat ≠ .vault then .next s
    else if targetShut s q.addr.toNat then .next (answerMesh q .domainOff [] s)
    else if vaultAllows s src.toNat = false then .next (answerMesh q .denied [] s)
    else if s.sec.wiping then .next (answerMesh q .busy [] s)
    else .next (serveVault q s)

/-! ## Signed commands (R554) -/

/-- Owner key slot i. -/
def ownerSlot (s : State) (i : Nat) : OwnerSlot := Tab.get {} s.sec.owners i

/-- User image key slot i. -/
def keySlot (s : State) (i : Nat) : KeySlot := Tab.get {} s.sec.keys i

/-- Whether SIG verifies: over the command, its arguments without SIG, the serial number and the NONCE, with the public key
presented, whose digest the slot KEY_INDEX holds (R554). -/
def sigOk (s : State) (cmd : Nat) (args : List Byte) (keyIndex sig : Nat) (key : List Byte) : Bool :=
  let o := ownerSlot s keyIndex
  key.length == 97 && o.written && !o.revoked && Config.sha384 key == o.digest &&
    Config.ecdsaVerify key
      (Config.sha384 (bytesLE 2 cmd ++ args ++ bytesLE 8 Config.serial.toNat ++ bytesLE 48 s.sec.nonce.toNat)) (bytesLE 96 sig)

/-- A command that carries SIG is followed by a new NONCE; without TRNG output its answer waits (R547, R554). -/
def afterSig (a : Ans) : Ans :=
  if a.state.sec.trngStopped then { a with wait := true } else { a with state := drawNonce a.state }

/-! ## SEC commands (Table SEC-6) -/

/-- SEC.STATUS (R567). -/
def bodySecStatus (_org : Origin) (s : State) : Ans :=
  let x := s.sec
  let owners := fieldsWord ((List.range 8).flatMap (fun i =>
    [(2 * i, bit (ownerSlot s i).written), (2 * i + 1, bit (ownerSlot s i).revoked)]))
  let keys := fieldsWord ((List.range 4).flatMap (fun i =>
    [(2 * i, bit (keySlot s i).written), (2 * i + 1, bit (keySlot s i).revoked)]))
  done s (packFields ([(8, x.life.toNat), (384, x.nonce.toNat), (8, x.minSvn.toNat), (16, owners), (8, keys)] ++
    (List.range 8).map (fun i => (384, (ownerSlot s i).digest.toNat)) ++ [(16, x.tampers.toNat), (8, x.lastCause.toNat)]))

/-- SEC_STATUS (R567). -/
def execSecStatus (r : Req) (s : State) : Host.Outcome State Fault Refusal := .next (serve r 0x0F01 [] bodySecStatus s)

/-- What the attestation of SEC.CERT signs (R551). -/
def attestBytes (s : State) (nonce : Nat) : List Byte :=
  let fw := match s.mbx.fw with | some f => (f.version.toNat, f.svn.toNat) | none => (0, 0)
  bytesLE 48 nonce ++ bytesLE 8 Config.serial.toNat ++ [s.sec.life.zeroExtend 8] ++ bytesLE 4 fw.1 ++ bytesLE 2 fw.2 ++
    [s.sec.minSvn.zeroExtend 8] ++
    (List.range 8).flatMap (fun i => bytesLE 48 (ownerSlot s i).digest.toNat ++ bytesLE 1 (bit (ownerSlot s i).revoked))

/-- SEC.CERT (R551): the certificate, then the attestation. -/
def bodySecCert (nonce : Nat) (_org : Origin) (s : State) : Ans :=
  done s (Config.certificate ++ Config.attest (Config.sha384 (attestBytes s nonce)))

/-- SEC_CERT (R551). -/
def execSecCert (r : Req) (nonce : BitVec 384) (s : State) : Host.Outcome State Fault Refusal :=
  .next (serve r 0x0F02 (packFields [(384, nonce.toNat)]) (bodySecCert nonce.toNat) s)

/-- The arguments of SEC.KEY_SET without SIG. -/
def keySetArgs (slot action keyIndex : Nat) (record : List Byte) : List Byte :=
  packRecord [(2, slot), (1, action), (3, keyIndex)] record

/-- SEC.KEY_SET before its NONCE is renewed: a write carries the 157 bytes of R550 and then the public key of R554, a
revocation the public key alone. -/
def keySet (slot action keyIndex sig : Nat) (record : List Byte) (s : State) : Ans :=
  let key := if action = 1 then record else record.drop 157
  let x := keySlot s slot
  if record.length ≠ (if action = 1 then 97 else 254) then refuse s .badArg
  else if s.sec.life ≠ 2 then refuse s .state
  else if sigOk s 0x0F03 (keySetArgs slot action keyIndex record) keyIndex sig key = false then refuse s .auth
  else if x.revoked ∨ (action = 0 ∧ x.written) then refuse s .state
  else if tooHot s then refuse s .thermal
  else if action = 1 then done (updSec (fun c => { c with keys := Tab.set {} c.keys slot { x with revoked := true } }) s)
  else
    match Config.unwrapKey slot (record.take 157) with
    | none => refuse s .auth
    | some k => done (updSec (fun c => { c with keys := Tab.set {} c.keys slot { x with key := k, written := true } }) s)

/-- SEC.KEY_SET (R549, R550, R554). -/
def bodySecKeySet (slot action keyIndex sig : Nat) (record : List Byte) (_org : Origin) (s : State) : Ans :=
  afterSig (keySet slot action keyIndex sig record s)

/-- SEC_KEY_SET (R550). -/
def execSecKeySet (r : Req) (slot : BitVec 2) (action : Bool) (keyIndex : BitVec 3) (sig : BitVec 768) (record : List Byte)
    (s : State) : Host.Outcome State Fault Refusal :=
  .next (serve r 0x0F03 (packRecord [(2, slot.toNat), (1, bit action), (3, keyIndex.toNat), (768, sig.toNat)] record)
    (bodySecKeySet slot.toNat (bit action) keyIndex.toNat sig.toNat record) s)

/-- Starts a life-cycle transition: the boot key is zeroised and the vault wiped (R555). -/
def beginTransition (org : Option Origin) (new : BitVec 3) (s : State) : State :=
  beginWipe (updSec (fun x => { x with pending := some (org, x.life, new) }) s)

/-- Writes a digest into an owner slot. -/
def writeOwner (slot digest : Nat) (s : State) : State :=
  updSec (fun c => { c with
    owners :=
    Tab.upd {} c.owners slot (fun o => { o with digest := BitVec.ofNat 384 digest, written := true }) }) s

/-- SEC.OWNER in BLANK (Tables SEC-3 and SEC-6): the slot is written and the transition to OWNED begins. -/
def ownerBlank (slot action keyIndex digest sig : Nat) (org : Origin) (s : State) : Ans :=
  if isRegChan org.channel.toNat = false then refuse s .denied
  else if (List.range 8).all (fun i => (ownerSlot s i).written) then refuse s .noResource
  else if action ≠ 0 ∨ keyIndex ≠ 0 ∨ sig ≠ 0 ∨ s.sec.pending ≠ none ∨ (ownerSlot s slot).written ∨ (ownerSlot s slot).revoked then
    refuse s .state
  else if tooHot s then refuse s .thermal
  else done (beginTransition none 2 (writeOwner slot digest s))

/-- SEC.OWNER in OWNED (R549, R553, R554). -/
def ownerOwned (slot action keyIndex digest sig : Nat) (record : List Byte) (s : State) : Ans :=
  let x := ownerSlot s slot
  let left := (List.range 8).any (fun i => i != slot && (ownerSlot s i).written && !(ownerSlot s i).revoked)
  if record.length ≠ 97 ∨ (action = 1 ∧ digest ≠ 0) then refuse s .badArg
  else if sigOk s 0x0F04 (packRecord [(3, slot), (1, action), (3, keyIndex), (384, digest)] record) keyIndex sig record = false then
    refuse s .auth
  else if x.revoked ∨ (action = 0 ∧ x.written) ∨ (action = 1 ∧ left = false) then refuse s .state
  else if tooHot s then refuse s .thermal
  else if action = 1 then done (updSec (fun c => { c with owners := Tab.set {} c.owners slot { x with revoked := true } }) s)
  else done (writeOwner slot digest s)

/-- SEC.OWNER (R549, R553). -/
def bodySecOwner (slot action keyIndex digest sig : Nat) (record : List Byte) (org : Origin) (s : State) : Ans :=
  afterSig (if s.sec.life = 1 then ownerBlank slot action keyIndex digest sig org s
    else if s.sec.life = 2 then ownerOwned slot action keyIndex digest sig record s
    else refuse s .state)

/-- SEC_OWNER (R553). -/
def execSecOwner (r : Req) (slot : BitVec 3) (action : Bool) (keyIndex : BitVec 3) (digest : BitVec 384) (sig : BitVec 768)
    (record : List Byte) (s : State) : Host.Outcome State Fault Refusal :=
  .next (serve r 0x0F04
    (packRecord [(3, slot.toNat), (1, bit action), (3, keyIndex.toNat), (384, digest.toNat), (768, sig.toNat)] record)
    (bodySecOwner slot.toNat (bit action) keyIndex.toNat digest.toNat sig.toNat record) s)

/-- Whether Table SEC-3 has a transition by SEC.LIFECYCLE. -/
def lifeStep (old new : Nat) : Bool :=
  (old == 2 && (new == 3 || new == 1)) || ((old == 1 || old == 2 || old == 3) && new == 4)

/-- SEC.LIFECYCLE before its NONCE is renewed (R553 to R555). -/
def lifecycle (target keyIndex sig : Nat) (record : List Byte) (org : Origin) (s : State) : Ans :=
  if lifeStep s.sec.life.toNat target = false then refuse s .denied
  else if (List.range 32).any (fun r => regionIs s r .running || regionIs s r .held) ∨ s.sec.pending ≠ none then refuse s .state
  else if s.load.job ≠ none then refuse s .busy
  else if tooHot s then refuse s .thermal
  else if s.sec.life ≠ 1 ∧
      sigOk s 0x0F05 (packRecord [(3, target), (3, keyIndex)] record) keyIndex sig record = false then refuse s .auth
  else { state := beginTransition (some org) (BitVec.ofNat 3 target) s, status := .pending }

/-- SEC.LIFECYCLE (R553 to R555). -/
def bodySecLifecycle (target keyIndex sig : Nat) (record : List Byte) (org : Origin) (s : State) : Ans :=
  afterSig (lifecycle target keyIndex sig record org s)

/-- SEC_LIFECYCLE (R555). -/
def execSecLifecycle (r : Req) (target keyIndex : BitVec 3) (sig : BitVec 768) (record : List Byte) (s : State) :
    Host.Outcome State Fault Refusal :=
  .next (serve r 0x0F05 (packRecord [(3, target.toNat), (3, keyIndex.toNat), (768, sig.toNat)] record)
    (bodySecLifecycle target.toNat keyIndex.toNat sig.toNat record) s)

/-- Revokes the owner and user slots that a condition names (Table SEC-3). -/
def revokeSlots (all : Bool) (x : Sec) : Sec :=
  { x with
    owners := (List.range 8).foldl (fun t i => Tab.upd {} t i (fun o => { o with revoked := o.revoked || all || o.written })) x.owners
    keys := (List.range 4).foldl (fun t i => Tab.upd {} t i (fun k => { k with revoked := k.revoked || all || k.written })) x.keys }

/-- The further effects of a transition (Table SEC-3): leaving OWNED for BLANK revokes the slots in use and empties the
directories; RETIRED revokes every slot, empties the directories and locks the tag area. -/
def transitionEffects (old new : BitVec 3) (s : State) : State :=
  if new = 4 then
    { updSec (revokeSlots true) s with load := { s.load with store := [], inits := [] }, tag := { s.tag with lock := 0xFF } }
  else if old = 2 ∧ new = 1 then
    { updSec (revokeSlots false) s with load := { s.load with store := [], inits := [] } }
  else s

/-- LIFECYCLE_DONE (R555): the next transition group is written, the state is the new one, EV_LIFECYCLE is raised, and
SEC.LIFECYCLE completes. -/
def execLifecycleDone (s : State) : Host.Outcome State Fault Refusal :=
  match s.sec.pending with
  | none => .next s
  | some (org, old, new) =>
    if s.sec.wiping then .next s
    else
      let s1 := updSec (fun x => { x with life := new, groups := x.groups ++ [new], pending := none }) s
      .next (finishOpt org .secDone noUnit .ok (raise .lifecycle [(8, old.toNat), (8, new.toNat)] (transitionEffects old new s1)))

/-- SEC.ZEROISE (R559): answered, and then a tamper of cause 0x4. -/
def bodySecZeroise (_org : Origin) (s : State) : Ans := { state := s, status := .ok, after := takeTamper 4 false }

/-- SEC_ZEROISE (R559). -/
def execSecZeroise (r : Req) (s : State) : Host.Outcome State Fault Refusal := .next (serve r 0x0F06 [] bodySecZeroise s)

/-! ## The tag NVM (R562 to R566) -/

/-- Bytes 0 to 251 of the factory identity record (Table SEC-5). -/
def identityBody : List Byte :=
  bytesLE 4 0x4449414B ++ bytesLE 2 1 ++ bytesLE 1 (if Config.grade2C then 2 else 1) ++ bytesLE 1 Config.stepping.toNat ++
    bytesLE 8 Config.serial.toNat ++ (List.range 3).map (fun i => Config.identityByte (16 + i)) ++ List.replicate 13 0 ++
    (List.range 5).flatMap (fun k =>
      (List.range 9).map (fun i => Config.identityByte (32 + 16 * k + i)) ++ bytesLE 1 k ++
        (List.range 4).map (fun i => Config.identityByte (42 + 16 * k + i)) ++ [0, 0]) ++
    bytesLE 48 (Config.sha384 Config.certificate).toNat ++ List.replicate 92 0

/-- The factory identity record (R562). -/
def identityRecord : List Byte := identityBody ++ bytesLE 4 (crc32c identityBody).toNat

/-- What a TAG_ACCESS address reads as: bit 63 and the data of the user tag area or of the identity record (R563). -/
def tagWord (s : State) (a : Nat) : W64 :=
  if a % 4 ≠ 0 then 0
  else if a < 0x2000 then
    if 5 ≤ s.start.step then BitVec.ofNat 64 (2 ^ 63 + natLE (tabBytes s.tag.bytes a 4)) else 0
  else if a < 0x2100 then BitVec.ofNat 64 (2 ^ 63 + natLE ((identityRecord.drop (a - 0x2000)).take 4))
  else 0

/-- JTAG_TAG_ACCESS (R563): Capture-DR loads what the previous address reads as, and the shift gives the next address; a
shift with bit 62 at 1 is ignored. -/
def execJtagTagAccess (dr : W64) (s : State) : Host.Outcome State Fault Refusal :=
  if dr.getLsbD 62 then .next s
  else
    .next { s with tag := { s.tag with jtagDr := tagWord s s.tag.jtagAddr.toNat, jtagAddr := dr.extractLsb' 32 14 } }

/-- TAG.READ (R566): the bytes, then the write count of each page read. -/
def bodyTagRead (offset length : Nat) (_org : Origin) (s : State) : Ans :=
  if length < 1 ∨ 4096 < length ∨ 8192 < offset + length then refuse s .badArg
  else
    let pages := (List.range 128).filter (fun p => decide (offset / 64 ≤ p ∧ p ≤ (offset + length - 1) / 64))
    done s (packFields ((tabBytes s.tag.bytes offset length).map (fun b => (8, b.toNat)) ++
      pages.map (fun p => (32, (Tab.get 0 s.tag.counts p).toNat))))

/-- TAG_READ (R567). -/
def execTagRead (r : Req) (offset length : BitVec 13) (s : State) : Host.Outcome State Fault Refusal :=
  .next (serve r 0x1001 (packFields [(13, offset.toNat), (13, length.toNat)]) (bodyTagRead offset.toNat length.toNat) s)

/-- TAG.WRITE (R565). -/
def bodyTagWrite (offset : Nat) (record : List Byte) (org : Origin) (s : State) : Ans :=
  if record.length < 1 ∨ 64 < record.length ∨ 64 < offset % 64 + record.length then refuse s .badArg
  else if s.tag.lock.getLsbD (offset / 1024) then refuse s .denied
  else if s.sec.life = 4 then refuse s .state
  else if tooHot s then refuse s .thermal
  else if domOn s 2 = false then refuse s .domainOff
  else if s.tag.job ≠ none then refuse s .busy
  else
    { state := { s with tag := { s.tag with job := some { org := some org, offset := offset, data := record } } },
      status := .pending }

/-- TAG_WRITE (R565). -/
def execTagWrite (r : Req) (offset : BitVec 13) (record : List Byte) (s : State) : Host.Outcome State Fault Refusal :=
  .next (serve r 0x1002 (packRecord [(13, offset.toNat)] record) (bodyTagWrite offset.toNat record) s)

/-- The page of the write in progress takes its new content, and its count rises (R565, R566). -/
def applyTag (j : TagJob) (s : State) : State :=
  { s with tag := { s.tag with
      bytes := putBytes s.tag.bytes j.offset j.data
      counts := Tab.upd 0 s.tag.counts (j.offset / 64) (fun c => satAdd c 1)
      job := none } }

/-- TAG_WRITE_DONE (R565). -/
def execTagWriteDone (s : State) : Host.Outcome State Fault Refusal :=
  match s.tag.job with
  | none => .next s
  | some j => .next (finishOpt j.org .tagDone noUnit .ok (applyTag j s))

/-- TAG.LOCK (R564, R565). -/
def bodyTagLock (mask : Nat) (_org : Origin) (s : State) : Ans :=
  if tooHot s then refuse s .thermal
  else if (match s.tag.job with | some j => Nat.testBit mask (j.offset / 1024) | none => false) then refuse s .busy
  else done { s with tag := { s.tag with lock := s.tag.lock ||| BitVec.ofNat 8 mask } }

/-- TAG_LOCK (R564). -/
def execTagLock (r : Req) (mask : BitVec 8) (s : State) : Host.Outcome State Fault Refusal :=
  .next (serve r 0x1003 (packFields [(8, mask.toNat)]) (bodyTagLock mask.toNat) s)

/-- TAG.IDENTITY (R562). -/
def bodyTagIdentity (_org : Origin) (s : State) : Ans := done s identityRecord

/-- TAG_IDENTITY (R567). -/
def execTagIdentity (r : Req) (s : State) : Host.Outcome State Fault Refusal := .next (serve r 0x1004 [] bodyTagIdentity s)

/-! ## Scan and boundary scan (R560, R561) -/

/-- The security core's own state, outside its fuses and the boot key (R561). -/
def clearCore (x : Sec) : Sec := { x with nonce := 0, waiting := none, drbg := 0, trngStopped := false, redraw := false }

/-- Every link goes down: a port that trains or is up falls, and the others stay where they are (R561). -/
def allLinksDown (s : State) : State :=
  forEach (List.range 6) (fun p s => if linkActive (portOf s p) then linkFall p .detect 1 s else s) s

/-- JTAG_SCAN_BASE (R561): the four steps, after which the scan chains of the base die are open; BYPASS in LOCKED and
RETIRED. -/
def execJtagScanBase (s : State) : Host.Outcome State Fault Refusal :=
  if s.sec.life = 3 ∨ s.sec.life = 4 then .next { s with start := { s.start with jtag := .bypass } }
  else
    let s1 := updPrt (fun x => { x with cache := [] }) (zeroiseKey s)
    let s2 := updSec (fun x => { clearCore x with vault := [], wiping := false }) s1
    let s3 := allLinksDown (cutOff s2)
    .next { s3 with ext := { s3.ext with error := true, done := false }, start := { s3.start with scanBase := true } }

/-- JTAG_BOUNDARY_SCAN (R560): EXTEST and the IEEE 1149.6 instructions act as BYPASS while a bank is released or a link is
up. -/
def execJtagBoundaryScan (inst : JtagInst) (s : State) : Host.Outcome State Fault Refusal :=
  let closed := (List.range 24).any (bankReleased s) || (List.range 6).any (linkUpAt s)
  let i : JtagInst := if inst = .bypass ∨ inst = .samplePreload ∨ closed = false then inst else .bypass
  .next { s with start := { s.start with jtag := i } }

end Sys2Proof.Machine
end

