-- ==== Sys2Proof/Machine/Power.lean ====
section
/-! DEFINITION. Power domains (R481 to R492): what each needs, its tamp, shutting down and powering up, retention, and the
PWR commands that act on domains. -/

namespace Sys2Proof.Machine

/-- Changes the power record. -/
def updPwr (f : Pwr → Pwr) (s : State) : State := { s with pwr := f s.pwr }

/-! ## Table PWR-1 -/

/-- The domains that must be on while domain d is on (Table PWR-1). -/
def needsOf (d : Nat) : List Nat :=
  if d = 0 then []
  else if d = 1 ∨ d = 21 ∨ d = 48 ∨ (90 ≤ d ∧ d ≤ 93) then [0]
  else if d = 2 then [0, 91]
  else if d ≤ 6 then [91]
  else if d ≤ 14 then [3 + quadOf (dramRouter (d - 7)), 92]
  else if d ≤ 20 then [21, 93]
  else if d = 22 then [3, 93]
  else if d = 23 then [6, 91]
  else if d = 49 then [48, 91]
  else if d = 94 then [91]
  else [90]

/-- The sensors that trip domain d; the privileged group trips by its comparator (Table PWR-1, R512). -/
def tripSensors (d : Nat) : List Nat :=
  if d = 2 ∨ d = 94 ∨ d = 95 then [19]
  else if 3 ≤ d ∧ d ≤ 20 then [d - 3]
  else if d = 22 then [18]
  else if d = 23 then [60, 61, 62, 63]
  else if 24 ≤ d ∧ d ≤ 35 then [0, 2]
  else if 36 ≤ d ∧ d ≤ 47 then [1, 3]
  else if d = 48 ∨ d = 49 then [64, 65, 66, 67, 68, 69, 70, 71]
  else if 50 ≤ d ∧ d ≤ 57 then [d + 2]
  else if 58 ≤ d ∧ d ≤ 89 then [d - 38]
  else []

/-- Domains with NoC endpoints, NoC quadrants and regions: a tamp closes their fence (Table PWR-2 step 2). -/
def hasFence (d : Nat) : Bool :=
  d == 2 || (3 ≤ d && d ≤ 20) || d == 22 || d == 23 || (50 ≤ d && d ≤ 89)

/-- Whether d is the domain of a region. -/
def isRegionDom (d : Nat) : Bool := 58 ≤ d && d ≤ 89

/-- A domain that is on or on its way up, or in retention (R484). -/
def domLive (s : State) (d : Nat) : Bool :=
  let st := (domOf s d).st
  st == .on || st == .poweringUp || st == .retention

/-- A domain that is neither OFF nor TRIPPED. -/
def domUp (s : State) (d : Nat) : Bool :=
  let st := (domOf s d).st
  !(st == .off || st == .tripped)

/-- The domains with an endpoint in quadrant q (R367, R387, Table NOC-1). -/
def quadEndpoints (q : Nat) : List Nat :=
  ((List.range 64).filter (fun n => quadOf (srcRouter n) == q)).map (fun n => regionDom (portRegion n)) ++
    ((List.range 8).filter (fun k => quadOf (2 * (k % 4) + 1, 4 * (k / 4) + 1) == q)).map sectorDom ++
    ((List.range 8).filter (fun c => quadOf (dramRouter c) == q)).map (fun c => 7 + c) ++
    ((List.range 6).filter (fun p => quadOf (p + 1, 7) == q)).map portDom ++
    (if q = 0 then [22] else if q = 1 then [2] else if q = 3 then [23] else [])

/-! ## Trip conditions (R507, R509, Table PWR-10) -/

/-- Reading k samples ago is present and lies at least n above the one m samples before it, in 0.125 °C. -/
def rises (h : List Int) (k m : Nat) (n : Int) : Bool :=
  match h[k]?, h[k + m]? with
  | some a, some b => decide (n ≤ a - b)
  | _, _ => false

/-- The rate-of-rise warning condition (R509). -/
def rorWarn (h : List Int) : Bool := (List.range 5).all (fun j => rises h (4 * j) 4 8)

/-- The rate-of-rise trip condition (R509). -/
def rorTrip (h : List Int) : Bool := (List.range 4).all (fun j => rises h (2 * j) 2 12)

/-- The 110 °C condition in two consecutive samples (Table PWR-10). -/
def hotTrip (h : List Int) : Bool :=
  match h with
  | a :: b :: _ => decide (880 ≤ a ∧ 880 ≤ b)
  | _ => false

/-- Whether a sensor meets the trip condition now. -/
def sensorTrips (s : State) (n : Nat) : Bool := hotTrip (sensorOf s n).hist || rorTrip (sensorOf s n).hist

/-- Whether one of a domain's trip sensors meets the trip condition now (R512). -/
def tripNow (s : State) (d : Nat) : Bool := (tripSensors d).any (sensorTrips s)

/-! ## Powering up (R483, R485, R487 to R489) -/

/-- Whether a domain that is off cannot be powered on for temperature (R512, R513). -/
def thermalBar (s : State) (d : Nat) : Bool := (domOf s d).st == .tripped || ((domOf s d).st == .off && tripNow s d)

/-- The domains that domain d needs, directly or through others. -/
def needsAll (d : Nat) : List Nat :=
  let l1 := needsOf d
  let l2 := l1.flatMap needsOf
  (l1 ++ l2 ++ l2.flatMap needsOf).eraseDups

/-- Ends every PWR command that waits on a domain (R491). -/
def endWaits (d : Nat) (st : Status) (s : State) : State :=
  let x := domOf s d
  let s1 := updDom d (fun x => { x with waitOn := [], waitOff := none, waitTamp := [], waitRetain := [] }) s
  (x.waitOff.toList ++ x.waitTamp ++ x.waitRetain ++ x.waitOn).foldl (fun a o => finish o .pwrDone d st a) s1

/-- Domains that are powering up. -/
def switching (s : State) : Nat := ((List.range 96).filter (fun d => (domOf s d).st == .poweringUp)).length

/-- Begins the power-up of a domain; a sector that powers on is cleared (R152). -/
def beginUp (d : Nat) (s : State) : State :=
  let s1 := updDom d (fun x => { x with st := .poweringUp, isolated := false }) s
  { s1 with
    pwr := { s1.pwr with onQueue := s1.pwr.onQueue.erase d }
    mem := { s1.mem with clearing := if 50 ≤ d ∧ d ≤ 57 then (d - 50) :: s1.mem.clearing.erase (d - 50) else s1.mem.clearing } }

/-- A waiting domain cannot power up any more: it, or a domain it needs, is barred, or what it needs went off. -/
def upBarred (s : State) (d : Nat) : Bool :=
  thermalBar s d || (needsAll d).any (fun n => thermalBar s n || (!domUp s n && !s.pwr.onQueue.contains n))

/-- Powers up the waiting domains whose needs are on, at most 8 at once (R483); one that cannot power up any more ends its
commands with ST_THERMAL. -/
def pump (s : State) : State :=
  forEach s.pwr.onQueue (fun d s =>
    if upBarred s d then
      endWaits d .thermal (updPwr (fun p => { p with onQueue := p.onQueue.erase d }) s)
    else if (needsOf d).all (domOn s) ∧ switching s < 8 then beginUp d s
    else s) s

/-- A DRAM channel whose domain powers on resumes with the stored results of its set point, or trains in full, which is an
observation: FREE VALUE (Table PWR-1, R330). -/
def dramUp (c : Nat) (s : State) : State :=
  let y := dchanOf s c
  let stored := (Tab.get none y.results y.setpoint.toNat).isSome
  if y.st = .selfRefresh ∧ stored then updDchan c (fun y => { y with st := .inService }) s
  else if y.st = .selfRefresh ∨ y.st = .failedTrain then
    if (freeNow s).getLsbD 0 then storeResults c y.setpoint.toNat (updDchan c (fun y => { y with st := .inService }) (useFree 1 s))
    else useFree 1 (updDchan c (fun y => { y with st := .failedTrain }) s)
  else s

/-- A region whose domain is on: BLANK from OFF, or awake from retention with its planes scrubbed first (Tables CTX-2 and
CTX-8). -/
def regionUp (r : Nat) (s : State) : State :=
  let g := regionOf s r
  let s1 := forEach (mbxIn r) (fun c => updChan c (fun ch => { ch with closed := false })) s
  if g.retention then
    let c := s1.scrub
    { updRegion r (fun g => { g with retention := false }) s1 with
      scrub := { c with region := r, slot := 0, frame := 0, back := (c.region, c.slot, c.frame) :: c.back } }
  else if g.st = .off then updRegion r (fun g => { g with st := .blank }) s1
  else s1

/-- What powering on a domain brings (Table PWR-1, R485). -/
def upEffects (d : Nat) (s : State) : State :=
  if d = 2 then
    if s.sec.tamper ∨ s.sec.wiping then updSec (fun x => { x with redraw := true }) s
    else drawBootKey (updSec (fun x => { x with redraw := false }) s)
  else if 7 ≤ d ∧ d ≤ 14 then dramUp (d - 7) s
  else if d = 49 then updScrub (fun c => { c with stalled := false }) s
  else if isRegionDom d then regionUp (d - 58) s
  else s

/-- A domain is ON: its fence opens (R386). -/
def setOn (d : Nat) (s : State) : State :=
  updDom d (fun x =>
    { x with st := .on, fenced := false, isolated := false, tamped := false, onCount := satAdd x.onCount 1, waitOn := [] }) s

/-- Whether a domain that powers up can be ON: a sector once it is cleared, a PLL group once it has locked (Table PWR-1). -/
def upReady (s : State) (d : Nat) : Bool :=
  !(50 ≤ d && d ≤ 57 && s.mem.clearing.contains (d - 50)) && !(90 ≤ d && d ≤ 93 && !(pllOf s (d - 90)).locked)

/-- DOMAIN_POWER_UP_DONE (R483). -/
def execDomainPowerUpDone (domain : Fin 96) (s : State) : Host.Outcome State Fault Refusal :=
  let d := domain.val
  let x := domOf s d
  if x.st ≠ .poweringUp ∨ upReady s d = false then .next s
  else .next (pump (x.waitOn.foldl (fun a o => finish o .pwrDone d .ok a) (upEffects d (setOn d s))))

/-! ## What a domain loses -/

/-- A sector's blocks lose their contents, modes and queues, and the requests inside (R151). -/
def sectorOff (k : Nat) (s : State) : State :=
  forEach (sectorBlocks k) (fun g s => leaveFifo g (updBlock g (fun b => { clearedBlock b with nq := [] }) s))
    { s with mem := { s.mem with clearing := s.mem.clearing.erase k } }

/-- A PLL group stops (Table PWR-1): with group 0 the fabric clock and chain time stop and alignment has to run again. -/
def pllOff (g : Nat) (s : State) : State :=
  let s1 := updPll g (fun x => { x with locked := false }) s
  if g = 0 then
    { s1 with
      clk := { s1.clk with timeLocked := false, unsync := true }
      align := { s1.align with busy := true, running := false }
      lnk := { s1.lnk with slip := false } }
  else s1

/-- The context store is lost (Table STK-4). -/
def storeOff (s : State) : State := { s with load := { s.load with store := [], inits := [], lost := true } }

/-- The DIMMs of a channel go into self-refresh: a repair or a switch in progress on it ends (R337). -/
def dramRest (c : Nat) (s : State) : State :=
  let y := dchanOf s c
  if y.st = .inService ∨ y.st = .switching ∨ y.st = .training then
    let s1 := updDchan c (fun y => { y with st := .selfRefresh, subs := [], repair := [], gathering := false }) s
    switchStep c true (y.repair.foldl (fun a x => finishOpt x.2 .drmDone noUnit .state a) s1)
  else s

/-- What the power-down of a domain loses (Table PWR-1), with the down cause of a port that trains. -/
def dropEffects (d cause : Nat) (s : State) : State :=
  if d = 2 then updSec (fun x => { x with vault := [], wiping := false, redraw := false }) (zeroiseKey s)
  else if 15 ≤ d ∧ d ≤ 20 then if linkActive (portOf s (d - 15)) then linkFall (d - 15) .detect cause s else s
  else if d = 23 then dspOff s
  else if 24 ≤ d ∧ d ≤ 47 then pinBankOff (d - 24) s
  else if d = 48 then storeOff s
  else if 50 ≤ d ∧ d ≤ 57 then sectorOff (d - 50) s
  else if 90 ≤ d ∧ d ≤ 93 then pllOff (d - 90) s
  else if d = 94 then
    s.start.tests.foldl (fun a t => abortTest t.region (if cause = 0xA then .thermal else .state) a) s
  else s

/-! ## Shutting down (Table PWR-2) -/

/-- A region's domain is isolated: OFF unless RETIRED, with its planes and the queues of its sites lost (R121, R465). -/
def regionDark (r cause : Nat) (s : State) : State :=
  darkSites r (if regionIs s r .retired then s else regionOff r (BitVec.ofNat 4 cause) s)

/-- Steps 3 and 4: DIMMs into self-refresh, then the isolation clamps. -/
def isolate (d : Nat) (s : State) : State :=
  let s1 := if 7 ≤ d ∧ d ≤ 14 then dramRest (d - 7) s else if isRegionDom d then regionDark (d - 58) 1 s else s
  updDom d (fun x => { x with st := .isolated, isolated := true }) s1

/-- Whether a request of a master outside or inside still lies in the domain, or one that left it is unanswered (R386,
Table PWR-2 step 2). -/
def tampClear (s : State) (d : Nat) : Bool :=
  let left := s.noc.out.any (fun q => srcDom q.src.toNat == some d)
  let inside :=
    if 3 ≤ d ∧ d ≤ 6 then
      let through := fun src a => (pathQuads (srcRouter src) (targetRouter s a)).contains (d - 3)
      s.noc.mesh.any (fun q => through q.src.toNat q.addr.toNat)
    else if 7 ≤ d ∧ d ≤ 14 then s.dram.jobs.any (fun j => j.left.any (fun l => (lineChan s l).1 == d - 7))
    else if 15 ≤ d ∧ d ≤ 20 then s.lnk.remote.any (fun x => x.port == d - 15 && s.noc.out.any (isReq x.src x.tag))
    else if d = 23 then !(s.dsp.tokenQ.isEmpty && s.dsp.doneQ.isEmpty)
    else if 50 ≤ d ∧ d ≤ 57 then (sectorBlocks (d - 50)).any (fun g => !(blockOf s g).nq.isEmpty)
    else if isRegionDom d then
      let cs := mbxIn (d - 58)
      s.mbx.fwd.any (fun f => cs.contains f.org.channel.toNat) ||
        s.sec.waiting.toList.any (fun w => cs.contains w.org.channel.toNat)
    else false
  !left && !inside

/-- The site of a region that shuts down takes no further word, and its complete requests are discarded (R465). -/
def closeSite (d : Nat) (s : State) : State :=
  if isRegionDom d then
    let cs := mbxIn (d - 58)
    let s1 := forEach cs (fun c => updChan c (fun ch => { ch with closed := true, reqQ := [], rspWait := none })) s
    { s1 with mbx := { s1.mbx with order := s1.mbx.order.filter (fun c => !cs.contains c) } }
  else s

/-- Closes the fence of a domain (R385). -/
def closeFence (d : Nat) (s : State) : State := updDom d (fun x => { x with fenced := true, tamped := false }) s

/-- TAMP_COMPLETE (R386, R486, R487): the PWR.TAMP commands of the domain complete, and a shut-down goes on. -/
def execTampComplete (domain : Fin 96) (s : State) : Host.Outcome State Fault Refusal :=
  let d := domain.val
  let x := domOf s d
  if x.fenced = false ∨ x.tamped ∨ !(x.st == .on || x.st == .stopping) ∨ tampClear s d = false then .next s
  else
    let s1 := updDom d (fun x => { x with tamped := true, waitTamp := [] }) s
    let s2 := x.waitTamp.foldl (fun a o => finish o .pwrDone d .ok a) s1
    .next (if x.st = .stopping then isolate d s2 else s2)

/-- DOMAIN_POWER_DOWN_DONE (R486, R489): the domain is OFF, and powers up again where a PWR.ON waits. -/
def execDomainPowerDownDone (domain : Fin 96) (s : State) : Host.Outcome State Fault Refusal :=
  let d := domain.val
  let x := domOf s d
  if x.st ≠ .isolated then .next s
  else
    let s1 := updDom d (fun x => { x with st := .off, waitOff := none }) (dropEffects d 1 s)
    let s2 := finishOpt x.waitOff .pwrDone d .ok s1
    .next (pump (if x.waitOn = [] then s2 else updPwr (fun p => { p with onQueue := p.onQueue ++ [d] }) s2))

/-! ## Commands over domains (Table PWR-15) -/

/-- The domains of a DOMAIN_MASK. -/
def maskDoms (mask : Nat) : List Nat := bitsOf (BitVec.ofNat 96 mask)

/-- Answers a PWR command from what it comes to for each domain it acts on: a status at once, or none while it goes on. With
one status at once for all, that status is the answer; otherwise ST_PENDING, and each domain has its EV_PWR_DONE (R521;
DEDUCED, log 69). -/
def pwrAnswer (org : Origin) (outs : List (Nat × Option Status)) (s : State) : Ans :=
  match outs.head? with
  | none => refuse s .badArg
  | some (_, st) =>
    if st.isSome ∧ outs.all (fun o => o.2 == st) then { state := s, status := st.getD .ok }
    else
      { state := s, status := .pending, units := outs.length,
        after := fun t => pump (outs.foldl (fun a o => match o.2 with | some st => finish org .pwrDone o.1 st a | none => a) t) }

/-- A base warm reset is in progress, from its beginning on (R497). -/
def inBaseReset (s : State) : Bool := s.pwr.baseReset

/-- PWR.STATUS (R521). -/
def bodyPwrStatus (mask : Nat) (_org : Origin) (s : State) : Ans :=
  done s (packFields ((maskDoms mask).map (fun d => (64, domStatus s d))))

/-- PWR_STATUS (R521). -/
def execPwrStatus (r : Req) (mask : BitVec 96) (s : State) : Host.Outcome State Fault Refusal :=
  .next (serve r 0x0401 (packFields [(96, mask.toNat)]) (bodyPwrStatus mask.toNat) s)

/-- PWR.ON opens a closed fence at once: a PWR.TAMP not yet complete ends with ST_STATE (R487). -/
def openFence (d : Nat) (s : State) : State :=
  let x := domOf s d
  x.waitTamp.foldl (fun a o => finish o .pwrDone d .state a)
    (updDom d (fun x => { x with fenced := false, tamped := false, waitTamp := [] }) s)

/-- PWR.ON aborts a shut-down: the fence opens, the domain is ON, and the PWR.OFF ends with ST_STATE (R488). -/
def abortStop (d : Nat) (s : State) : State :=
  let x := domOf s d
  let s1 := openFence d (updDom d (fun x => { x with st := .on, waitOff := none }) s)
  let s2 := if isRegionDom d then forEach (mbxIn (d - 58)) (fun c => updChan c (fun ch => { ch with closed := false })) s1 else s1
  finishOpt x.waitOff .pwrDone d .state s2

/-- PWR.ON of one domain: its status at once, or none while it powers up, and the state (R483, R487 to R489, R512,
R513). -/
def onDomain (org : Origin) (d : Nat) (s : State) : Option Status × State :=
  let wait := updDom d (fun x => { x with waitOn := x.waitOn ++ [org] }) s
  let queue := updPwr (fun p => { p with onQueue := if p.onQueue.contains d then p.onQueue else p.onQueue ++ [d] }) wait
  match (domOf s d).st with
  | .on => (some .ok, openFence d s)
  | .stopping => (some .ok, abortStop d s)
  | .isolated | .poweringUp => (none, wait)
  | .tripped => (some .thermal, s)
  | .off => if tripNow s d ∨ (needsAll d).any (thermalBar s) then (some .thermal, s) else (none, queue)
  | .retention => if (needsAll d).any (thermalBar s) then (some .thermal, s) else (none, queue)

/-- The domains, not named, that a list of domains needs and that are not on yet, in ascending order. -/
def extraNeeds (s : State) (named : List Nat) : List Nat :=
  let ds := named.filter (fun d => !domOn s d && !thermalBar s d && !(needsAll d).any (thermalBar s))
  (List.range 96).filter (fun n =>
    !named.contains n && ds.any (fun d => (needsAll d).contains n) && !s.pwr.onQueue.contains n &&
      ((domOf s n).st == .off || (domOf s n).st == .stopping || (domOf s n).st == .isolated || (domOf s n).st == .retention))

/-- Runs a per-domain action over domains in order. -/
def overDoms (f : Nat → State → Option Status × State) : List Nat → State → List (Nat × Option Status) × State
  | [], s => ([], s)
  | d :: ds, s =>
    let x := f d s
    let rest := overDoms f ds x.2
    ((d, x.1) :: rest.1, rest.2)

/-- PWR.ON (R483, R487 to R489). -/
def bodyPwrOn (mask : Nat) (org : Origin) (s : State) : Ans :=
  if inBaseReset s then refuse s .busy
  else
    let named := maskDoms mask
    let all := (List.range 96).filter (fun d => named.contains d || (extraNeeds s named).contains d)
    let r := overDoms (onDomain org) all s
    pwrAnswer org r.1 r.2

/-- PWR_ON (R483). -/
def execPwrOn (r : Req) (mask : BitVec 96) (s : State) : Host.Outcome State Fault Refusal :=
  .next (serve r 0x0402 (packFields [(96, mask.toNat)]) (bodyPwrOn mask.toNat) s)

/-- Whether powering off domain d is refused with ST_STATE (R117, R275, R387, R484). -/
def offRefused (s : State) (d : Nat) : Bool :=
  let r := d - 58
  (List.range 96).any (fun e => (needsOf e).contains d && (domLive s e || s.pwr.onQueue.contains e)) ||
    (isRegionDom d && (regionIs s r .running || stagingOf s r || (regionOf s r).bistBusy)) ||
    (15 ≤ d && d ≤ 20 && linkUpAt s (d - 15)) ||
    (d == 3 || d == 4 || ((d == 5 || d == 6) && (quadEndpoints (d - 3)).any (domUp s))) ||
    (d == 2 && (List.range 8).any (fun c => (domOf s (7 + c)).st != .off)) ||
    (d == 90 && !s.lnk.member && (List.range 6).any (fun p => (portOf s p).role == 2 && linkUpAt s p)) ||
    (50 ≤ d && d ≤ 57 && (sectorBlocks (d - 50)).any (blockInUse s))

/-- PWR.OFF of one domain (R484, R486, R490, R521). -/
def offDomain (org : Origin) (d : Nat) (s : State) : Option Status × State :=
  match (domOf s d).st with
  | .poweringUp | .stopping | .isolated => (some .busy, s)
  | .off | .tripped => (some .ok, s)
  | .on | .retention =>
    if d = 0 ∨ d = 1 ∨ d = 21 then (some .denied, s)
    else if offRefused s d then (some .state, s)
    else
      let s1 := updDom d (fun x => { x with st := .stopping, waitOff := some org }) s
      if hasFence d then
        if (domOf s d).tamped then (none, isolate d (closeSite d s1)) else (none, closeFence d (closeSite d s1))
      else (none, isolate d s1)

/-- PWR.OFF (R486). -/
def bodyPwrOff (mask : Nat) (org : Origin) (s : State) : Ans :=
  if inBaseReset s then refuse s .busy
  else
    let r := overDoms (offDomain org) (maskDoms mask) s
    pwrAnswer org r.1 r.2

/-- PWR_OFF (R486). -/
def execPwrOff (r : Req) (mask : BitVec 96) (s : State) : Host.Outcome State Fault Refusal :=
  .next (serve r 0x0403 (packFields [(96, mask.toNat)]) (bodyPwrOff mask.toNat) s)

/-- PWR.TAMP of one domain (R487): a domain without a fence, or already tamped, has nothing to wait for. -/
def tampDomain (org : Origin) (d : Nat) (s : State) : Option Status × State :=
  let x := domOf s d
  if d = 0 ∨ d = 1 ∨ d = 21 then (some .denied, s)
  else if x.st ≠ .on then (some .state, s)
  else if hasFence d = false ∨ x.tamped then (some .ok, s)
  else
    let s1 := if x.fenced then s else closeFence d s
    (none, updDom d (fun x => { x with waitTamp := x.waitTamp ++ [org] }) s1)

/-- PWR.TAMP (R487). -/
def bodyPwrTamp (mask : Nat) (org : Origin) (s : State) : Ans :=
  if inBaseReset s then refuse s .busy
  else
    let r := overDoms (tampDomain org) (maskDoms mask) s
    pwrAnswer org r.1 r.2

/-- PWR_TAMP (R487). -/
def execPwrTamp (r : Req) (mask : BitVec 96) (s : State) : Host.Outcome State Fault Refusal :=
  .next (serve r 0x0404 (packFields [(96, mask.toNat)]) (bodyPwrTamp mask.toNat) s)

/-- PWR.RETAIN of one region's domain (R492). -/
def retainDomain (org : Origin) (d : Nat) (s : State) : Option Status × State :=
  let st := (regionOf s (d - 58)).st
  if st ≠ .ready ∧ st ≠ .held ∧ st ≠ .faulted then (some .state, s)
  else
    match (domOf s d).st with
    | .on => (none, updDom d (fun x => { x with waitRetain := x.waitRetain ++ [org] }) s)
    | .retention => (some .ok, s)
    | _ => (some .state, s)

/-- PWR.RETAIN (R492). -/
def bodyPwrRetain (mask : Nat) (org : Origin) (s : State) : Ans :=
  if inBaseReset s then refuse s .busy
  else if (maskDoms mask).any (fun d => !isRegionDom d) then refuse s .badArg
  else
    let r := overDoms (retainDomain org) (maskDoms mask) s
    pwrAnswer org r.1 r.2

/-- PWR_RETAIN (R492). -/
def execPwrRetain (r : Req) (mask : BitVec 96) (s : State) : Host.Outcome State Fault Refusal :=
  .next (serve r 0x0405 (packFields [(96, mask.toNat)]) (bodyPwrRetain mask.toNat) s)

/-- REGION_RETENTION_ENTERED (R492): a region that has left READY, HELD and FAULTED meanwhile stays on, and its command ends
with ST_STATE. -/
def execRegionRetentionEntered (region : Fin 32) (s : State) : Host.Outcome State Fault Refusal :=
  let r := region.val
  let d := regionDom r
  let x := domOf s d
  let st := (regionOf s r).st
  if x.waitRetain = [] ∨ x.st ≠ .on then .next s
  else
    let ok := st == .ready || st == .held || st == .faulted
    let s1 := updDom d (fun x => { x with waitRetain := [], st := if ok then .retention else x.st }) s
    let s2 := if ok then updRegion r (fun g => { g with retention := true }) s1 else s1
    .next (x.waitRetain.foldl (fun a o => finish o .pwrDone d (if ok then .ok else .state) a) s2)

end Sys2Proof.Machine
end

