-- ==== Sys2Proof/Machine/Thermal.lean ====
section
/-! DEFINITION. Thermal management (R506 to R519): samples, warnings, throttle, rate of rise, trips, the privileged trip and
its restart, temperature compensation, and the THM commands. -/

namespace Sys2Proof.Machine

/-- Changes the thermal record. -/
def updThm (f : Thm → Thm) (s : State) : State := { s with thm := f s.thm }

/-! ## Sensors (R506, R507, Table PWR-9) -/

/-- The sensors of the layer of sensor n. -/
def layerSensors (n : Nat) : List Nat :=
  if n < 20 then List.range 20
  else if n < 36 then (List.range 16).map (fun k => 20 + k)
  else if n < 52 then (List.range 16).map (fun k => 36 + k)
  else if n < 64 then (List.range 12).map (fun k => 52 + k)
  else (List.range 8).map (fun k => 64 + k)

/-- A conversion that succeeded, with a reading from −40 °C to 150 °C, in 0.125 °C (R507). -/
def validReading (l : List (Option Int)) (n : Nat) : Option Int :=
  match l.getD n none with
  | some t => if -320 ≤ t ∧ t ≤ 1200 then some t else none
  | none => none

/-- The greatest of a list of readings. -/
def greatest : List Int → Option Int
  | [] => none
  | t :: ts => match greatest ts with | some u => some (max t u) | none => some t

/-- The highest reading among the other sensors of a faulted sensor's layer (R507). -/
def peerReading (l : List (Option Int)) (n : Nat) : Option Int :=
  greatest (((layerSensors n).filter (fun k => k != n)).filterMap (validReading l))

/-- The last 21 readings with a new one in front; without one they are lost. -/
def pushReading (t : Option Int) (h : List Int) : List Int :=
  match t with
  | some v => (v :: h).take 21
  | none => []

/-- Whether the rate-of-rise warning of a sensor lasts: it begins by R509 and ends at a rise below 0.5 °C in four
samples. -/
def rorNow (was : Bool) (h : List Int) : Bool := rorWarn h || (was && rises h 0 4 4)

/-- A sensor after one conversion (R507 to R509, Table PWR-14). -/
def sampled (warnC throttleC : Byte) (l : List (Option Int)) (n : Nat) (x : Sensor) : Sensor :=
  match validReading l n with
  | some t =>
    let h := pushReading (some t) x.hist
    { temp := BitVec.ofInt 12 t, max := BitVec.ofInt 12 (max x.max.toInt t), ror := rorNow x.ror h,
      warn := decide (8 * (warnC.toNat : Int) ≤ t), throttle := decide (8 * (throttleC.toNat : Int) ≤ t), fault := false,
      hist := h }
  | none =>
    { x with ror := false, warn := false, throttle := false, fault := true, hist := pushReading (peerReading l n) x.hist }

/-- TEMP of an event: the last reading of a sensor, signed in 16 bits (Table MBX-16a). -/
def tempField (s : State) (n : Nat) : Nat := ((sensorOf s n).temp.signExtend 16).toNat

/-- One sensor's conversion, with EV_THERMAL_WARN at the start of a fault and EV_THERMAL_ROR at the start of a
rate-of-rise warning (R507, R510). -/
def sampleOne (l : List (Option Int)) (n : Nat) (s : State) : State :=
  let old := sensorOf s n
  let s1 := updSensor n (sampled s.thm.warnC s.thm.throttleC l n) s
  let new := sensorOf s1 n
  let s2 := if new.fault ∧ old.fault = false then raise .thermalWarn [(8, n), (8, 1), (16, tempField s1 n)] s1 else s1
  if new.ror ∧ old.ror = false then raise .thermalRor [(8, n), (16, tempField s2 n)] s2 else s2

/-- The lowest sensor that a condition names. -/
def firstSensor (s : State) (p : Sensor → Bool) : Option Nat := (List.range 72).find? (fun n => p (sensorOf s n))

/-- The device's warning and throttle begin at the first sample that meets them, each with its event (R508, R510, R511). -/
def deviceLimits (s : State) : State :=
  let s1 := match firstSensor s (fun x => x.warn) with
    | some n =>
      if s.thm.warning then s
      else raise .thermalWarn [(8, n), (8, 0), (16, tempField s n)] (updThm (fun t => { t with warning := true }) s)
    | none => s
  match firstSensor s1 (fun x => x.throttle) with
  | some n =>
    if s1.thm.throttle then s1
    else raise .thermalThrottle [(8, n), (16, tempField s1 n)] (updThm (fun t => { t with throttle := true }) s1)
  | none => s1

/-! ## Trips (R512, R513) -/

/-- Requests in the mesh whose path crosses a quadrant are lost with it. -/
def dropThrough (q : Nat) (s : State) : State :=
  { s with noc := { s.noc with mesh := s.noc.mesh.filter (fun x =>
      !(pathQuads (srcRouter x.src.toNat) (targetRouter s x.addr.toNat)).contains q) } }

/-- What a trip switches off in its domain, with no tamp: requests inside receive no response (R513). -/
def tripEffects (d : Nat) (s : State) : State :=
  let s1 :=
    if isRegionDom d then regionDark (d - 58) 9 (abortTest (d - 58) .thermal (endStagings (d - 58) .thermal s))
    else if 7 ≤ d ∧ d ≤ 14 then
      let st := (dchanOf s (d - 7)).st
      if st = .inService ∨ st = .switching then failChannel (d - 7) 4 s else s
    else if 3 ≤ d ∧ d ≤ 6 then dropThrough (d - 3) s
    else s
  dropEffects d 0xA s1

/-- Trips a domain: isolated and off at once, latched, and its commands end with ST_THERMAL (R491, R513). -/
def tripDomain (n : Nat) (ror : Bool) (d : Nat) (s : State) : State :=
  let s1 := updDom d (fun x =>
    { x with st := .tripped, isolated := true, fenced := x.fenced || hasFence d, tamped := false, latched := true,
             tripRor := ror, tripSensor := BitVec.ofNat 7 n }) (tripEffects d s)
  endWaits d .thermal (updPwr (fun p => { p with onQueue := p.onQueue.erase d, thermtrip := true }) s1)

/-- Whether a domain trips now by sensor n (R512). -/
def tripsBy (s : State) (n d : Nat) : Bool :=
  (tripSensors d).contains n && domUp s d && !privileged s d

/-- DOMAINS of EV_THERMAL_TRIP and LATCHED of EV_THERMAL_RESTART. -/
def domMask (l : List Nat) : Nat := fieldsWord (l.map (fun d => (d, 1)))

/-- The trip of every domain that sensor n trips, with one EV_THERMAL_TRIP (R512, R513). -/
def tripSensor (s : State) (n : Nat) : State :=
  let h := (sensorOf s n).hist
  let ds := (List.range 96).filter (tripsBy s n)
  if (hotTrip h || rorTrip h) = false ∨ ds = [] then s
  else
    let ror := !hotTrip h
    let s1 := forEach ds (tripDomain n ror) s
    raise .thermalTrip [(8, n), (8, bit ror), (16, tempField s1 n), (96, domMask ds)] s1

/-- SENSOR_SAMPLE (R507 to R513, R517): in trip retention the drip clock is stopped, and nothing is converted. -/
def execSensorSample (readings : List (Option Int)) (s : State) : Host.Outcome State Fault Refusal :=
  if s.ext.pwrGood = false ∨ s.pwr.tripRetention then .next s
  else
    let s1 := deviceLimits (forEach (List.range 72) (sampleOne readings) s)
    .next (startRound (bootCheck (pump ((List.range 72).foldl tripSensor s1))))

/-- Every sensor that is not ignored has last read at least 3 °C below a threshold in °C (R508). -/
def belowBy3 (s : State) (c : Byte) : Bool :=
  (List.range 72).all (fun n =>
    (sensorOf s n).fault || decide ((sensorOf s n).temp.toInt ≤ 8 * (c.toNat : Int) - 24))

/-- THERMAL_CLEAR (R508, R517): a warning or a throttle ends. -/
def execThermalClear (throttle : Bool) (s : State) : Host.Outcome State Fault Refusal :=
  if throttle then
    if belowBy3 s s.thm.throttleC then .next (startRound (updThm (fun t => { t with throttle := false }) s)) else .next s
  else if belowBy3 s s.thm.warnC then .next (updThm (fun t => { t with warning := false }) s)
  else .next s

/-! ## Writes that a loss of power cuts off -/

/-- A life-cycle transition cut off leaves the old state or the new one: a FREE VALUE (R555). -/
def cutTransition (done : Bool) (s : State) : State :=
  match s.sec.pending with
  | some (_, old, new) =>
    if done then
      transitionEffects old new
        (updSec (fun x => { x with life := new, groups := x.groups ++ [new], pending := none }) s)
    else updSec (fun x => { x with pending := none }) s
  | none => s

/-- A tag page write cut off leaves the old content or the new: a FREE VALUE (R565). -/
def cutTag (done : Bool) (s : State) : State :=
  match s.tag.job with
  | some j => if done then applyTag j s else { s with tag := { s.tag with job := none } }
  | none => s

/-- A life-cycle transition, a tag page write and a firmware slot write are cut off; the slot holds no image. Nothing
reports it. -/
def cutWrites (s : State) : State :=
  let v := freeNow s
  let s' := cutTag (v.getLsbD 1) (cutTransition (v.getLsbD 0) (useFree 1 s))
  if s'.mbx.fwUpdate.isSome then putSlot (spareSlot s') none (updMbx (fun m => { m with fwUpdate := none }) s') else s'

/-! ## The privileged trip (R514) -/

/-- Every region goes dark; RETIRED regions stay RETIRED. -/
def regionsDark (s : State) : State :=
  let s1 := { s with ctx := { s.ctx with armed := [], queue := [], reads := [] } }
  let s2 := forEach (List.range 32) (fun r s => updRegion r (fun g => { g with pendSw := none }) s) s1
  forEach ((List.range 32).filter (fun r => !(regionIs s r .off))) (fun r s => regionDark r 9 s) s2

/-- Tests, repairs and rounds in progress are lost, and start-up BIST does not run again (R516). -/
def dropTests (s : State) : State :=
  updStart (fun x => { x with
    tests := [], round := [], toTest := [], again := [], repeating := false, memTest := none, anaTest := none,
    skipCmd := none, tsvSwap := [], deferred := none, bistDone := true }) s

/-- The store, the workspace and the load in progress are lost, and no boot load runs (R516). -/
def dropStore (s : State) : State :=
  storeOff { s with load := { s.load with
    job := none, ws := [], wptr := 0, rptr := 0, ptrErr := false, jtagBits := [], jtagBytes := [], flagged := [], toApply := [],
    bootOrg := none, bootFault := none, wrote := [], wroteInits := [],
    boot := if s.load.boot = .complete then .complete else .failed } }

/-- DRAM contents and the boot key are lost; the stored training results and the list stay (R514, R516). -/
def dropDram (s : State) : State :=
  let s1 := forEach (List.range 8) (fun c s => updDchan c (fun y =>
    let live := y.st = .inService ∨ y.st = .switching ∨ y.st = .training
    { y with st := if live then .selfRefresh else y.st, subs := [], repair := [], gathering := false }) s) s
  { s1 with
    dram := { s1.dram with lines := [], fills := [], jobs := [], switch := none, queued := none, dmaCmds := [] }
    prt := { s1.prt with key := false, cache := [] } }

/-- A port whose domain loses power with everything else; an enabled one trains again after the restart (R515). -/
def Port.dark (cause : BitVec 4) (x : Port) : Port :=
  { ({} : Port) with
    enabled := x.enabled, st := if x.enabled then .detect else .disabled, encReq := x.encReq, asym := x.asym,
    laneLimit := x.laneLimit, upCount := x.upCount, keys := x.keys, corrected := x.corrected,
    uncorrectable := x.uncorrectable, downCause := if linkActive x then cause else x.downCause }

/-- Links, routes and scheduled channels are lost (R439, R516). -/
def dropLinks (s : State) : State :=
  let s1 := forEach (List.range 6) (fun p s => updPort p (Port.dark 0xA) s) s
  { s1 with lnk := { s1.lnk with
    upstream := none, routes := [], cwins := [], chans := [], faces := [], remote := [], served := [], lossWait := false,
    slip := false, beaconAt := none } }

/-- Barista's working memory and retained area are lost (R439, R516); the hardware event queue, the numbers of events and the
flash stay. -/
def dropBarista (s : State) : State :=
  let m := s.mbx
  let s1 := setBarista .inReset { s with mbx := { m with
    chans := [], groupMask := ({} : Mbx).groupMask, order := [], pend := [], fwd := [], fwdMs := 50, routeHandle := 0,
    routeMin := 0, mgmtOut := [], fw := none, reload := false } }
  { s1 with evt := updAlert { s1.evt with log := [], ringEn := false } }

/-- Every clock but those of the thermal-safety core stops, and chain time is lost (R514). -/
def dropClocks (s : State) : State :=
  let s1 := forEach [0, 1, 2, 3] (fun g s => updPll g (fun x => { x with locked := false }) s) s
  { s1 with
    clk := { s1.clk with time := 0, unsync := true, timeLocked := false, fabricCmd := none, gradeStop := false,
                         aux := s1.clk.aux.map (fun e => (e.1, { e.2 with en := false })) }
    align := { s1.align with busy := true, running := false } }

/-- Requests and tokens under way are lost with the NoC, the dispatcher and the memory layer. -/
def dropTraffic (s : State) : State :=
  let s1 := forEach ((List.range 8).filter (fun k => domUp s (50 + k))) sectorOff (if domUp s 23 then dspOff s else s)
  { s1 with
    mem := { s1.mem with init := none }
    noc := { s1.noc with mesh := [], out := [], rsps := [], lateTags := [], done := [], ports := [], pf1Drop := [],
                         routers := s1.noc.routers.map (fun e => (e.1, { e.2 with reconfig := none })) } }

/-- The vault and the security core's own memory are lost. -/
def dropCore (s : State) : State :=
  updSec (fun x => { clearCore x with vault := [], wiping := false }) (cutWrites s)

/-- Every domain but AON goes off; domains tripped by their own sensors stay latched (R514). -/
def domainsOff (s : State) : State :=
  let s1 := forEach ((List.range 96).filter (fun d => d != 0)) (fun d s => updDom d (fun x =>
    { x with st := if x.st = .tripped then .tripped else .off, fenced := x.st = .tripped && x.fenced,
             isolated := x.st = .tripped, tamped := false, waitOn := [], waitOff := none, waitTamp := [], waitRetain := [] }) s) s
  updDom 0 (fun x => { x with st := .retention }) s1

/-- The pins of every bank lose their supply domain: queued events and windows are lost, the PIN registers stay (R514). -/
def banksOff (s : State) : State :=
  let s1 := forEach (List.range 24) (fun b s => if domUp s (24 + b) then pinBankOff b s else s) s
  { s1 with pins := { s1.pins with probe := none, polarity := [] } }

/-- The ports that are enabled, as a mask. -/
def enabledPorts (s : State) : BitVec 6 :=
  BitVec.ofNat 6 (domMask ((List.range 6).filter (fun p => (portOf s p).enabled)))

/-- PRIVILEGED_TRIP (R512, R514, R516): every domain but AON is switched off, AON enters trip retention, THERMTRIP_N asserts,
and the hardware event queue holds one EV_THERMAL_TRIP. Commands in progress are lost with Barista's retained area. -/
def execPrivilegedTrip (sensor : Fin 20) (temp : Int) (s : State) : Host.Outcome State Fault Refusal :=
  if s.ext.pwrGood = false ∨ s.pwr.tripRetention ∨ temp < 920 then .next s
  else
    let off := (List.range 96).filter (fun d => d != 0 && domUp s d)
    let ports := enabledPorts s
    let ev := newRec .thermalTrip
      (packFields [(8, sensor.val), (8, 2), (16, (BitVec.ofInt 16 temp).toNat), (96, domMask off)]) true s
    let s1 := dropLinks (dropDram (dropStore (dropTests (regionsDark s))))
    let s2 := dropBarista (dropCore (dropTraffic (banksOff s1)))
    let s3 := domainsOff (dropClocks s2)
    .next (queueHw ev none { s3 with pwr := { s3.pwr with
      onQueue := [], thermtrip := true, deepIdle := false, waking := false, baseDue := false, baseReset := false,
      tripRetention := true, tripSensor := BitVec.ofNat 7 sensor.val, portsBefore := ports } })

/-- Powers a domain of the privileged group on. -/
def privOn (d : Nat) (s : State) : State := if (domOf s d).st = .tripped then s else setOn d s

/-- The latched domains. -/
def latchedDoms (s : State) : List Nat := (List.range 96).filter (fun d => (domOf s d).latched)

/-- PRIVILEGED_RESTART (R515, R516, Table PWR-11): AON leaves trip retention, firmware starts and posts the queued events,
and the PLL groups, the pass-through path and the ports enabled before the trip are on. No start-up BIST and no boot load
runs. The locks of the PLL groups are commands of their own. -/
def execPrivilegedRestart (s : State) : Host.Outcome State Fault Refusal :=
  if s.pwr.tripRetention = false then .next s
  else
    let latched := latchedDoms s
    let s1 := updPwr (fun p => { p with tripRetention := false, thermtrip := latched != [] })
      (updDom 0 (fun x => { x with st := .on }) s)
    let s2 := updThm (fun t => { t with
      restarted := true, sensors := t.sensors.map (fun e => (e.1, { e.2 with hist := [] })) }) s1
    let s3 := drainServing (startFirmware (privOn 1 s2))
    let s4 := forEach ([21, 90, 91, 92, 93] ++ (bitsOf s.pwr.portsBefore).map portDom) privOn s3
    .next (raise .thermalRestart [(8, s.pwr.tripSensor.toNat), (96, domMask latched)] s4)

/-! ## Temperature compensation (R519) -/

/-- The number of a compensated item: drip clock 0, PLL band 1, bandgap 2, then the threshold DACs and the delay lines of
the banks. -/
def compNumber : CompItem → Nat
  | .dripClock => 0
  | .pllBand => 1
  | .bandgap => 2
  | .pinDac b => 8 + b.val
  | .pintuDelay b => 40 + b.val

/-- An edge is being placed or converted at a pin of a bank (Table PWR-13). -/
def bankEdges (s : State) (nn : Nat) : Bool :=
  (List.range 48).any (fun m =>
    let q := pinNow s (48 * nn + m)
    q.held.isSome || q.ahead.any (fun e => decide (16 * (s.clk.time.toNat : Int) ≤ e.1)) || decide (16 * s.clk.fc < q.edgeAt))

/-- Whether an item may be stepped now: the PLL band at a lock only, a delay line never while an edge is placed or
converted, and nothing in trip retention (Table PWR-13). -/
def compAllowed (s : State) : CompItem → Bool
  | .pllBand => false
  | .pintuDelay b => !bankEdges s b.val
  | _ => true

/-- COMPENSATION_STEP (R519): the trim changes, and no latency. -/
def execCompensationStep (item : CompItem) (s : State) : Host.Outcome State Fault Refusal :=
  if s.pwr.tripRetention ∨ compAllowed s item = false then .next s
  else .next { s with clk := { s.clk with comp := Tab.upd 0 s.clk.comp (compNumber item) (fun n => n + 1) } }

/-! ## Commands (Table PWR-15) -/

/-- The sensor that reads highest, the lowest number among equals, and its reading. -/
def hottest (s : State) : Nat × Int :=
  ((List.range 72).filter (fun n => !(sensorOf s n).fault)).foldl (fun b n =>
    if b.1 = 72 ∨ b.2 < (sensorOf s n).temp.toInt then (n, (sensorOf s n).temp.toInt) else b) (72, 0)

/-- THM.STATUS (R521). -/
def bodyThmStatus (_org : Origin) (s : State) : Ans :=
  let h := hottest s
  let flags := bit s.thm.warning + 2 * bit s.thm.throttle + 4 * bit (anyRor s) + 8 * bit s.thm.restarted
  let tripped := domMask ((List.range 96).filter (fun d => (domOf s d).st == .tripped))
  done s (packFields [(16, (BitVec.ofInt 16 h.2).toNat), (8, if h.1 = 72 then 0xFF else h.1), (8, flags), (96, tripped),
    (8, s.thm.warnC.toNat), (8, s.thm.throttleC.toNat)])

/-- THM_STATUS (R521). -/
def execThmStatus (r : Req) (s : State) : Host.Outcome State Fault Refusal := .next (serve r 0x0601 [] bodyThmStatus s)

/-- THM.SENSORS (R521). -/
def bodyThmSensors (first count : Nat) (_org : Origin) (s : State) : Ans :=
  if count = 0 ∨ 72 < first + count then refuse s .badArg
  else done s (packFields ((List.range count).map (fun k => (64, sensorWord s (first + k)))))

/-- THM_SENSORS (R521). -/
def execThmSensors (r : Req) (first : BitVec 7) (count : BitVec 7) (s : State) : Host.Outcome State Fault Refusal :=
  .next (serve r 0x0602 (packFields [(7, first.toNat), (7, count.toNat)]) (bodyThmSensors first.toNat count.toNat) s)

/-- THM.LIMITS (R508, R521). -/
def bodyThmLimits (warn throttle : Nat) (_org : Origin) (s : State) : Ans :=
  if 60 ≤ warn ∧ warn ≤ throttle ∧ warn ≤ 95 ∧ throttle ≤ 100 then
    done (updThm (fun t => { t with warnC := BitVec.ofNat 8 warn, throttleC := BitVec.ofNat 8 throttle }) s)
  else refuse s .badArg

/-- THM_LIMITS (R508). -/
def execThmLimits (r : Req) (warn : BitVec 8) (throttle : BitVec 8) (s : State) : Host.Outcome State Fault Refusal :=
  .next (serve r 0x0603 (packFields [(8, warn.toNat), (8, throttle.toNat)]) (bodyThmLimits warn.toNat throttle.toNat) s)

end Sys2Proof.Machine
end

