-- ==== Sys2Proof/Machine/Clocks.lean ====
section
/-! DEFINITION. Clocks (R498 to R505), the reference monitor, deep idle and wake (R493 to R495), the base warm reset and the
function-level resets (R496, R497, R460, R594), and the CLK and PWR commands on them. -/

namespace Sys2Proof.Machine

/-- Changes the clock record. -/
def updClk (f : Clk → Clk) (s : State) : State := { s with clk := f s.clk }

/-! ## PLL groups (Table PWR-7) -/

/-- The upstream port whose link is up. -/
def upstreamUp (s : State) : Bool := match s.lnk.upstream with | some p => linkUpAt s p | none => false

/-- Whether a PLL group may take a reference (R499, R500): a root and the groups 1 to 3 of a member REFCLK, a member's groups
the forwarded clock of its upstream port; group 0 of a member no other. -/
def refAllowed (s : State) (g : Nat) (ref : PllRef) : Bool :=
  match ref with
  | .refclk => s.lnk.refclk && !s.clk.refLost && (!s.lnk.member || g != 0)
  | .forwarded => s.lnk.member && upstreamUp s
  | .holdover => false

/-- What the lock of the fabric PLL brings: on a root a new chain epoch begins; a member waits for a beacon (R276, R278). -/
def fabricLock (s : State) : State :=
  if s.lnk.member then updClk (fun c => { c with sinceLock := 0, unsync := true, timeLocked := false }) s
  else
    { updClk (fun c => { c with sinceLock := 0, time := 0, unsync := false, timeLocked := true, chainId := Config.serial }) s with
      lnk := { s.lnk with beaconAt := none } }

/-- PLL_LOCK (R499, R500, R276, R519): a lock to an allowed reference, with the VCO band of the present temperature. A group
of a member whose references differ by more than 300 ppm keeps its own, with EV_CLOCK_LOST. -/
def execPllLock (group : Fin 4) (ref : PllRef) (mismatch : Bool) (s : State) : Host.Outcome State Fault Refusal :=
  let g := group.val
  let d := (domOf s (90 + g)).st
  if !(d == .on || d == .poweringUp) ∨ s.pwr.deepIdle ∨ s.pwr.tripRetention ∨ refAllowed s g ref = false then .next s
  else if mismatch ∧ s.lnk.member ∧ g ≠ 0 then
    .next (raise .clockLost [(8, 3), (8, g), (8, s.lnk.upstream.getD 0xFF)] s)
  else if (pllOf s g).locked then .next (if g = 0 then s else updPll g (fun x => { x with ref := ref }) s)
  else
    let s1 := updClk (fun c => { c with comp := Tab.upd 0 c.comp 1 (fun n => n + 1) })
      (updPll g (fun x => { x with locked := true, ref := ref }) s)
    .next (startRound (if g = 0 then fabricLock s1 else s1))

/-! ## The reference monitor (R503, R580) -/

/-- A reference of the groups 1 to 3 that is lost: they hold their frequency (R500). -/
def holdRefclk (s : State) : State :=
  forEach [1, 2, 3] (fun g s => updPll g (fun x => if x.ref = .refclk then { x with ref := .holdover } else x) s) s

/-- REFCLK is back: groups in holdover take it. -/
def takeRefclk (s : State) : State :=
  forEach [1, 2, 3] (fun g s => updPll g (fun x => if x.ref = .holdover then { x with ref := .refclk } else x) s) s

/-- A loss of reference: on a root groups 0 and 3 stop and the links with them; on a member groups that run on REFCLK hold
their frequency (R500, R503, R580). -/
def loseRef (s : State) : State :=
  let s1 := { updClk (fun c => { c with refLost := true }) s with lnk := { s.lnk with refclk := false } }
  if s.lnk.member then
    if [1, 2, 3].any (fun g => (pllOf s g).ref == .refclk) then
      raise .clockLost [(8, 2), (8, 0xFF), (8, 0xFF)] (holdRefclk s1)
    else s1
  else allLinksFall 2 (holdRefclk (updPll 3 (fun x => { x with locked := false }) (loseFabricClock 2 0xFF s1)))

/-- REF_MONITOR_WINDOW (R503, R580): two bad windows in a row are a loss of reference, and two good ones end it. -/
def execRefMonitorWindow (edges : BitVec 12) (s : State) : Host.Outcome State Fault Refusal :=
  let bad := decide (edges.toNat < 950) || decide (1050 < edges.toNat)
  let s1 := updClk (fun c => { c with refBad := bad, refGood := !bad && c.refLost }) s
  if s.pwr.tripRetention ∨ s.pwr.deepIdle then .next s
  else if bad then .next (if s.clk.refBad ∧ s.clk.refLost = false then loseRef s1 else s1)
  else if s.clk.refLost ∧ s.clk.refGood then
    .next (takeRefclk { updClk (fun c => { c with refLost := false, refGood := false }) s1 with lnk := { s1.lnk with refclk := true } })
  else .next s1

/-! ## CLK commands (Table PWR-15) -/

/-- FREQ_KHZ and LOCKED of a clock domain (Table PWR-6): a clock that is stopped reads 0. The frequency on the TCK pin is a
FREE VALUE (log 70). -/
def clockState (s : State) (tck : Nat) (k : Nat) : Nat × Bool :=
  let on (g : Nat) (f : Nat) : Nat × Bool := if (pllOf s g).locked then (f, true) else (0, false)
  let fab := 25000 * s.clk.m.toNat
  if k = 0 then (4000, true)
  else if k = 1 then (800000, true)
  else if k = 2 then on 1 1000000
  else if k = 3 then on 1 1600000
  else if k = 4 then on 1 2000000
  else if k ≤ 12 then
    let y := dchanOf s (k - 5)
    if y.st = .inService ∨ y.st = .switching then on 2 (2400000 + 200000 * y.speed.toNat) else (0, false)
  else if k ≤ 18 then if linkUpAt s (k - 13) then (14000000, true) else (0, false)
  else if k = 19 then on 3 14000000
  else if k = 20 then on 3 1000000
  else if k ≤ 22 then on 1 1000000
  else if k ≤ 37 then if fabricClock s then (fab, true) else (0, false)
  else if k = 38 then (tck, false)
  else if k = 39 then on 1 50000
  else
    let a := Tab.get {} s.clk.aux (k - 40)
    if a.en ∧ fabricClock s ∧ a.n ≠ 0 then (fab / a.n.toNat, true) else (0, false)

/-- REF of a PLL group. -/
def PllRef.code : PllRef → Nat
  | .refclk => 0 | .forwarded => 1 | .holdover => 2

/-- CLK.STATUS (R521). -/
def bodyClkStatus (_org : Origin) (s : State) : Ans :=
  let tck := ((freeNow s).extractLsb' 0 32).toNat
  let clocks := (List.range 48).flatMap (fun k => [(32, (clockState s tck k).1), (8, bit (clockState s tck k).2)])
  done (useFree 1 s) (packFields (clocks ++ [(8, s.clk.m.toNat)] ++
    (List.range 4).map (fun g => (8, PllRef.code (pllOf s g).ref))))

/-- CLK_STATUS (R521). -/
def execClkStatus (r : Req) (s : State) : Host.Outcome State Fault Refusal := .next (serve r 0x0501 [] bodyClkStatus s)

/-- Whether every region is OFF, BLANK or RETIRED (R80). -/
def fabricIdle (s : State) : Bool :=
  (List.range 32).all (fun r => regionIs s r .off || regionIs s r .blank || regionIs s r .retired)

/-- The multiplier changes: PLL group 0 relocks, alignment runs again, every AUXCLK output is disabled, and each downstream
link is taken down and trains again (R502). -/
def changeM (m : Nat) (s : State) : State :=
  let s1 := pllOff 0 (updClk (fun c =>
    { c with m := BitVec.ofNat 7 m, aux := c.aux.map (fun e => (e.1, { e.2 with en := false })) }) s)
  forEach ((List.range 6).filter (fun p => (portOf s p).role == 2 && linkUpAt s p)) (fun p s => linkFall p .detect 2 s) s1

/-- CLK.FABRIC (R3, R80, R497, R501, R502); with M as it is there is nothing to wait for. -/
def bodyClkFabric (m : Nat) (org : Origin) (s : State) : Ans :=
  if inBaseReset s then refuse s .busy
  else if m < 16 ∨ Config.mMax < m then refuse s .badArg
  else if s.lnk.member ∨ fabricIdle s = false ∨ s.clk.fabricCmd.isSome then refuse s .state
  else if m = s.clk.m.toNat then { state := s, status := .pending, after := finish org .clkDone noUnit .ok }
  else { state := changeM m (updClk (fun c => { c with fabricCmd := some org }) s), status := .pending }

/-- CLK_FABRIC (R502). -/
def execClkFabric (r : Req) (m : BitVec 7) (s : State) : Host.Outcome State Fault Refusal :=
  .next (serve r 0x0502 (packFields [(7, m.toNat)]) (bodyClkFabric m.toNat) s)

/-- CLK.AUX (R505). -/
def bodyClkAux (output n start : Nat) (enable : Bool) (_org : Origin) (s : State) : Ans :=
  if inBaseReset s then refuse s .busy
  else if n < 2 ∨ 4096 < n then refuse s .badArg
  else if domOn s 95 = false then refuse s .state
  else
    done (updClk (fun c =>
      { c with aux := Tab.set {} c.aux output { n := BitVec.ofNat 13 n, start := BitVec.ofNat 64 start, en := enable } }) s)

/-- CLK_AUX (R505). -/
def execClkAux (r : Req) (output : BitVec 3) (n : BitVec 13) (start : W64) (enable : Bool) (s : State) :
    Host.Outcome State Fault Refusal :=
  .next (serve r 0x0503 (packFields [(3, output.toNat), (13, n.toNat), (64, start.toNat), (1, bit enable)])
    (bodyClkAux output.toNat n.toNat start.toNat enable) s)

/-- The level of an auxiliary output in the present fc, or none while it is high-impedance: high from the start of each
cycle of N fc from START, low from its middle (R505). -/
def auxLevel (s : State) (k : Nat) : Option Bool :=
  let a := Tab.get {} s.clk.aux k
  let t := s.clk.time.toNat
  if a.en = false ∨ domOn s 95 = false ∨ fabricClock s = false ∨ t < a.start.toNat ∨ a.n = 0 then none
  else some (decide ((t - a.start.toNat) % a.n.toNat < a.n.toNat / 2))

/-! ## Deep idle and wake (R493 to R495) -/

/-- PWR.WAKE_CFG (R493, R494, R497). -/
def bodyPwrWakeCfg (sources ports : Nat) (deep : Bool) (set pins : Nat) (_org : Origin) (s : State) : Ans :=
  done (updPwr (fun p => { p with
    wakeSources := BitVec.ofNat 3 sources, wakePorts := BitVec.ofNat 6 ports, deepEn := deep,
    wakeSet := BitVec.ofNat 96 set, wakePins := BitVec.ofNat 1152 pins }) s)

/-- PWR_WAKE_CFG (R494). -/
def execPwrWakeCfg (r : Req) (sources : BitVec 3) (portMask : BitVec 6) (deepEn : Bool) (wakeSet : BitVec 96)
    (pinSet : BitVec 1152) (s : State) : Host.Outcome State Fault Refusal :=
  .next (serve r 0x0406
    (packFields [(3, sources.toNat), (6, portMask.toNat), (1, bit deepEn), (96, wakeSet.toNat), (1152, pinSet.toNat)])
    (bodyPwrWakeCfg sources.toNat portMask.toNat deepEn wakeSet.toNat pinSet.toNat) s)

/-- A domain that may stay on in deep idle, or is off, or is a region's in retention (R493). -/
def idleDom (s : State) (d : Nat) : Bool :=
  d == 0 || d == 1 || d == 21 || d == 48 || (90 ≤ d && d ≤ 93) || (domOf s d).st == .off ||
    (isRegionDom d && (domOf s d).st == .retention)

/-- Whether no command is executing or pending (R493). -/
def commandsIdle (s : State) : Bool :=
  s.mbx.pend.isEmpty && s.mbx.order.isEmpty && s.mbx.fwd.isEmpty && s.ctx.armed.isEmpty && s.sec.waiting.isNone &&
    s.pwr.onQueue.isEmpty

/-- DEEP_IDLE_ENTER (R493). -/
def execDeepIdleEnter (s : State) : Host.Outcome State Fault Refusal :=
  if s.pwr.deepEn = false ∨ s.pwr.deepIdle ∨ s.pwr.waking ∨ s.pwr.tripRetention ∨ s.mbx.barista ≠ .serving ∨
      (List.range 96).all (idleDom s) = false ∨ (List.range 6).any (linkUpAt s) = true ∨ commandsIdle s = false then .next s
  else
    let s1 := forEach [0, 1, 2, 3] (fun g s => pllOff g (updDom (90 + g) (fun x => { x with st := .off }) s)) s
    .next (updPwr (fun p => { p with deepIdle := true }) (updDom 1 (fun x => { x with st := .retention }) s1))

/-- Whether a wake source is enabled and its condition holds (Table PWR-3). -/
def wakes (s : State) : WakeSrc → Bool
  | .wakePin => s.pwr.wakeSources.getLsbD 0
  | .mailbox c => (c.val == 12 || c.val == 13) && s.mbx.order.contains c.val
  | .userPin p => s.pwr.wakeSources.getLsbD 1 && s.pwr.wakePins.getLsbD p.val && levelKnown (bankOf s (pinBank p.val)).level
  | .golular p => s.pwr.wakeSources.getLsbD 2 && s.pwr.wakePorts.getLsbD p.val

/-- The domains that a wake powers on: WAKE_SET and what it needs (Table PWR-4). -/
def wakeDoms (s : State) : List Nat :=
  let named := bitsOf s.pwr.wakeSet
  (List.range 96).filter (fun d =>
    (named.contains d || named.any (fun n => (needsAll n).contains d)) &&
      ((domOf s d).st == .off || (domOf s d).st == .retention))

/-- WAKE_EVENT (R494, R495): the Barista island leaves retention, and the domains of WAKE_SET power on. -/
def execWakeEvent (src : WakeSrc) (s : State) : Host.Outcome State Fault Refusal :=
  if s.pwr.deepIdle = false ∨ wakes s src = false then .next s
  else
    let s1 := drainServing (updPwr (fun p => { p with deepIdle := false, waking := true }) (setOn 1 s))
    let ds := (wakeDoms s1).filter (fun d => !s1.pwr.onQueue.contains d)
    .next (pump (updPwr (fun p => { p with onQueue := p.onQueue ++ ds }) s1))

/-- The command that EV_PWR_DONE of a wake names (Table PWR-4 step 6). -/
def wakeOrigin : Origin := { cmd := 0x0406, seq := 0, channel := 0xFF, via := none }

/-- Nothing of WAKE_SET powers up any more, and alignment is complete where the fabric clock runs. -/
def wakeOver (s : State) : Bool :=
  (bitsOf s.pwr.wakeSet).all (fun d => !((domOf s d).st == .poweringUp || s.pwr.onQueue.contains d)) &&
    !(domOn s 90 && s.align.busy)

/-- WAKE_DONE (R495, Table PWR-4 step 6). -/
def execWakeDone (s : State) : Host.Outcome State Fault Refusal :=
  if s.pwr.waking = false ∨ wakeOver s = false then .next s
  else .next (finish wakeOrigin .pwrDone noUnit .ok (updPwr (fun p => { p with waking := false }) s))

/-! ## Resets of parts of the device (R460, R496, R497, R594) -/

/-- Channels 0 to 7 return to IDLE and EVT_RING_EN to 0; a command that executes completes, and its response is discarded
(R460). -/
def resetHostChans (s : State) : State :=
  let s1 := forEach (List.range 8) (fun c => updChan c (fun ch => { ch with st := .idle, parts := none, rest := none })) s
  { s1 with
    mbx := { s1.mbx with
      order := s1.mbx.order.filter (fun c => decide (8 ≤ c))
      fwd := s1.mbx.fwd.map (fun f => if f.org.channel < 8 then { f with drop := true } else f) }
    evt := { s1.evt with ringEn := false }
    sec := { s1.sec with waiting := s1.sec.waiting.map (fun w => if w.org.channel < 8 then { w with drop := true } else w) } }

/-- PF0_FUNCTION_RESET (R460). -/
def execPf0FunctionReset (s : State) : Host.Outcome State Fault Refusal := .next (resetHostChans s)

/-- PF1_FUNCTION_RESET (R594): the requests of descriptors already fetched are performed, and their completions are
discarded. -/
def execPf1FunctionReset (s : State) : Host.Outcome State Fault Refusal :=
  let tags := (s.noc.out.filter (fun q => q.src == 70)).map (fun q => q.tag)
  .next { s with noc := { s.noc with
    pf1Drop := s.noc.pf1Drop ++ tags.filter (fun t => !s.noc.pf1Drop.contains t)
    done := s.noc.done.filter (fun r => !(r.src == 70)) } }

/-- Armed CTX commands complete with ST_BASE_RESET (Table PWR-5 step 1). -/
def warmArmed (s : State) : State :=
  let mine := s.ctx.armed.filter (fun a => a.org.isSome)
  mine.foldl (fun a x => finishOpt x.org .ctxDone x.region .baseReset a)
    { s with ctx := { s.ctx with armed := s.ctx.armed.filter (fun a => a.org.isNone) } }

/-- A set point switch in progress is abandoned: the channels resume at the previous set point (R497). -/
def warmSwitch (s : State) : State :=
  match s.dram.switch with
  | none => s
  | some (org, _, left, _) =>
    let old := (dchanOf s (left.headD 0)).setpoint
    let s1 := forEach (List.range 8) (fun c => updDchan c (fun y =>
      if y.st = .inService ∨ y.st = .switching then { y with setpoint := old, speed := spSpeed s old.toNat } else y)) s
    finish org .drmDone noUnit .baseReset { s1 with dram := { s1.dram with switch := none } }

/-- The DIMMs enter self-refresh and the controllers are reset: requests in flight are discarded, repairs end, and the
neighbour refresh settings return to their reset values (R25, R337, R343, Table DRM-6). -/
def warmDram (s : State) : State :=
  let s0 := warmSwitch s
  let orgs := (List.range 8).flatMap (fun c => (dchanOf s0 c).repair.filterMap (fun x => x.2))
  let s1 := forEach (List.range 8) (fun c => updDchan c (fun y =>
    { y with
      st := if y.st = .inService ∨ y.st = .switching ∨ y.st = .training then .selfRefresh else y.st
      subs := [], repair := [], gathering := false, nrrExp := 11, pprAuto := true, nrr := 0 })) s0
  orgs.foldl (fun a o => finish o .drmDone noUnit .state a) { s1 with dram := { s1.dram with jobs := [] } }

/-- Port N requests that have not begun in their block are discarded, and one that has begun completes (R388). -/
def warmBlocks (s : State) : State :=
  let begun (q : NReq) : Bool := decide (q.done ≠ 0) || !q.held.isEmpty || q.atomic.isSome
  { s with mem := { s.mem with blocks := s.mem.blocks.map (fun e => (e.1, { e.2 with nq := e.2.nq.filter begun })) } }

/-- A base warm reset begins (R25, R496, R497, Table PWR-5). -/
def warmReset (s : State) : State :=
  let s1 := nocWarmReset (updPwr (fun p => { p with baseReset := true, baseDue := false }) s)
  resetHostChans (dspWarmReset (warmBlocks (warmDram (warmArmed s1))))

/-- PWR.BASE_RESET (R496, R497). -/
def bodyPwrBaseReset (_org : Origin) (s : State) : Ans :=
  if inBaseReset s then refuse s .busy else done (updPwr (fun p => { p with baseDue := true }) s)

/-- PWR_BASE_RESET (R496). -/
def execPwrBaseReset (r : Req) (s : State) : Host.Outcome State Fault Refusal := .next (serve r 0x0407 [] bodyPwrBaseReset s)

/-- BASE_WARM_RESET (R496, R497): 100 µs after PWR.BASE_RESET; a second trigger has no further effect. -/
def execBaseWarmReset (s : State) : Host.Outcome State Fault Refusal :=
  if s.pwr.baseDue = false then .next s
  else if s.pwr.baseReset then .next (updPwr (fun p => { p with baseDue := false }) s)
  else .next (warmReset s)

/-- PCIE_HOT_RESET (R496, R497). -/
def execPcieHotReset (s : State) : Host.Outcome State Fault Refusal :=
  if domOn s 22 = false ∨ s.pwr.baseReset then .next s else .next (warmReset s)

/-- BASE_WARM_RESET_DONE (R388, R496): the DRAM channels leave self-refresh with their stored results, and the requests that
wait in the NOC_PORTs enter the mesh. -/
def execBaseWarmResetDone (s : State) : Host.Outcome State Fault Refusal :=
  if s.pwr.baseReset = false then .next s
  else
    let s1 := forEach (List.range 8) (fun c s =>
      if (dchanOf s c).st = .selfRefresh ∧ domOn s (7 + c) = true then
        updDchan c (fun y => { y with st := .inService }) s else s) (updPwr (fun p => { p with baseReset := false }) s)
    .next (forEach (s1.noc.ports.map (fun e => e.1)) settle s1)

end Sys2Proof.Machine
end

