-- ==== Sys2Proof/Machine/LinkCmds.lean ====
section
/-! DEFINITION. The LNK commands (Tables LNK-14 and LNK-16). -/

namespace Sys2Proof.Machine

/-- The ports that a PORT_MASK names (R304). -/
def maskPorts (mask : Nat) : List Nat := (List.range 6).filter (fun p => Nat.testBit mask p)

/-- The fields of a port record (Table LNK-16): for a link that is not up only the status word and the lane counters. -/
def portRecord (s : State) (p : Nat) : List (Nat × Nat) :=
  let x := portOf s p
  let up := x.st == .up
  let v := fun (b : BitVec 32) => (32, if up then b.toNat else 0)
  [(64, portWord s p), v x.rxWire, v x.txWire, v x.flight8, v x.flight4, v x.flight2] ++
    (List.range 9).map (fun k => (32, (Tab.get 0 x.corrected k).toNat)) ++
    (List.range 9).map (fun k => (32, (Tab.get 0 x.uncorrectable k).toNat))

/-- LNK.STATUS (R604). -/
def bodyLnkStatus (mask : Nat) (_org : Origin) (s : State) : Ans :=
  done s (packFields ((maskPorts mask).flatMap (portRecord s)))

/-- LNK_STATUS (R604). -/
def execLnkStatus (r : Req) (mask : BitVec 6) (s : State) : Host.Outcome State Fault Refusal :=
  .next (serve r 0x0901 (packFields [(6, mask.toNat)]) (bodyLnkStatus mask.toNat) s)

/-- Whether LNK.UP and LNK.TEST may act on a port: disabled or in TEST (Table LNK-14). -/
def portIdle (s : State) (p : Nat) : Bool := (portOf s p).st == .disabled || (portOf s p).st == .test

/-- LNK.UP: enables each port that is disabled or in TEST, with its encryption setting until RESET_N; the final event of a
port tells whether it was enabled (R250, R295, R304; DEDUCED, log 63). -/
def bodyLnkUp (mask : Nat) (encrypt : Bool) (org : Origin) (s : State) : Ans :=
  let l := maskPorts mask
  if l.isEmpty then refuse s .badArg
  else
    let ok := l.filter (portIdle s)
    let s1 := forEach ok (fun p => updPort p (fun x =>
      { x with enabled := true, st := .detect, retry := false, test := none, encReq := x.encReq || encrypt })) s
    { state := s1, status := .pending, units := l.length,
      after := forEach l (fun p => finish org .lnkDone p (if ok.contains p then .ok else .state)) }

/-- LNK_UP (R250). -/
def execLnkUp (r : Req) (mask : BitVec 6) (encrypt : Bool) (s : State) : Host.Outcome State Fault Refusal :=
  .next (serve r 0x0902 (packFields [(6, mask.toNat), (1, bit encrypt)]) (bodyLnkUp mask.toNat encrypt) s)

/-- Whether a region is RUNNING or HELD. -/
def regionsBusy (s : State) : Bool := (List.range 32).any (fun r => regionIs s r .running || regionIs s r .held)

/-- LNK.DOWN: refused with a slot reserved on a named port, or for the upstream port while a region is RUNNING or HELD
(Table LNK-14). -/
def bodyLnkDown (mask : Nat) (_org : Origin) (s : State) : Ans :=
  let l := maskPorts mask
  if l.any (fun p => !(portOf s p).slots.isEmpty || (s.lnk.upstream == some p && regionsBusy s)) then refuse s .state
  else
    done (forEach l (fun p s =>
      if (portOf s p).st = .disabled then s
      else
        let s1 := if s.lnk.upstream = some p ∧ linkUpAt s p then loseUpstream s else s
        updPort p (fun x => { x with enabled := false, retry := false, test := none }) (linkFall p .disabled 1 s1)) s)

/-- LNK_DOWN (R250). -/
def execLnkDown (r : Req) (mask : BitVec 6) (s : State) : Host.Outcome State Fault Refusal :=
  .next (serve r 0x0903 (packFields [(6, mask.toNat)]) (bodyLnkDown mask.toNat) s)

/-- A change of role: every link trains again under the new role, and PLL group 0 takes the new role's reference (Table
PWR-7; R240 says no more: DEDUCED, log 64). -/
def changeRole (member : Bool) (s : State) : State :=
  let s1 := updPll 0 (fun x => { x with locked := false }) (allLinksFall 2 s)
  { s1 with
    lnk := { s1.lnk with member := member, upstream := none, slip := false }
    clk := { s1.clk with timeLocked := false, unsync := true }
    align := { s1.align with busy := true, running := false } }

/-- LNK.ROLE (R240). -/
def bodyLnkRole (member : Bool) (_org : Origin) (s : State) : Ans :=
  if (List.range 32).any (fun r => !(regionIs s r .off || regionIs s r .blank || regionIs s r .retired)) then refuse s .state
  else done (if s.lnk.member = member then s else changeRole member s)

/-- LNK_ROLE (R240). -/
def execLnkRole (r : Req) (member : Bool) (s : State) : Host.Outcome State Fault Refusal :=
  .next (serve r 0x0904 (packFields [(1, bit member)]) (bodyLnkRole member) s)

/-- Whether a route word uses selector 7: before any selector 6, after which selectors are ignored (R282, R284). -/
def usesNext (w : W64) : Bool :=
  match (List.range 21).find? (fun i => 6 ≤ routeSel w i) with
  | some i => routeSel w i == 7
  | none => false

/-- Whether following NEXT from a handle reaches handle h (R284). -/
def reaches (s : State) (h : Nat) : Nat → Nat → Bool
  | 0, _ => false
  | n + 1, k => k != 0 && (k == h || reaches s h n (Tab.get {} s.lnk.routes k).next.toNat)

/-- LNK.ROUTE_SET (R281, R284). -/
def bodyLnkRouteSet (h route next : Nat) (_org : Origin) (s : State) : Ans :=
  let w := BitVec.ofNat 64 route
  if h = 0 ∨ 2 ^ 63 ≤ route ∨ (usesNext w = true ∧ next = 0) ∨ reaches s h 4096 next then refuse s .badArg
  else
    let e : RouteEnt := { route := w, next := BitVec.ofNat 12 next, present := true }
    done { s with lnk := { s.lnk with routes := Tab.set {} s.lnk.routes h e } }

/-- LNK_ROUTE_SET (R284). -/
def execLnkRouteSet (r : Req) (handle : BitVec 12) (route : W64) (next : BitVec 12) (s : State) :
    Host.Outcome State Fault Refusal :=
  .next (serve r 0x0905 (packFields [(12, handle.toNat), (64, route.toNat), (12, next.toNat)])
    (bodyLnkRouteSet handle.toNat route.toNat next.toNat) s)

/-- LNK.ROUTE_GET: an absent entry reads as 0 (DEDUCED, log 65). -/
def bodyLnkRouteGet (h : Nat) (_org : Origin) (s : State) : Ans :=
  let e := Tab.get {} s.lnk.routes h
  done s (packFields [(64, e.route.toNat), (12, e.next.toNat)])

/-- LNK_ROUTE_GET (R284). -/
def execLnkRouteGet (r : Req) (handle : BitVec 12) (s : State) : Host.Outcome State Fault Refusal :=
  .next (serve r 0x0906 (packFields [(12, handle.toNat)]) (bodyLnkRouteGet handle.toNat) s)

/-- LNK.CWIN_SET (R292): handle 0 disables the window; an absent handle is refused. -/
def bodyLnkCwinSet (j h base : Nat) (writeEn atomicEn : Bool) (_org : Origin) (s : State) : Ans :=
  if h ≠ 0 ∧ (Tab.get {} s.lnk.routes h).present = false then refuse s .badArg
  else
    let w : Cwin := { handle := BitVec.ofNat 12 h, base := BitVec.ofNat 12 base, writeEn := writeEn, atomicEn := atomicEn }
    done { s with lnk := { s.lnk with cwins := Tab.set {} s.lnk.cwins j w } }

/-- LNK_CWIN_SET (R292). -/
def execLnkCwinSet (r : Req) (window : BitVec 8) (handle base : BitVec 12) (writeEn atomicEn : Bool) (s : State) :
    Host.Outcome State Fault Refusal :=
  .next (serve r 0x0907
    (packFields [(8, window.toNat), (12, handle.toNat), (12, base.toNat), (1, bit writeEn), (1, bit atomicEn)])
    (bodyLnkCwinSet window.toNat handle.toNat base.toNat writeEn atomicEn) s)

/-- LNK.RESET (R299): key agreement on links that are up. -/
def bodyLnkReset (mask : Nat) (org : Origin) (s : State) : Ans :=
  let l := maskPorts mask
  if l.isEmpty then refuse s .badArg
  else if l.any (fun p => !linkUpAt s p || (portOf s p).cmdReset.isSome) then refuse s .state
  else
    { state := forEach l (fun p => updPort p (fun x => { x with cmdReset := some org })) s, status := .pending,
      units := l.length }

/-- LNK_RESET (R299). -/
def execLnkReset (r : Req) (mask : BitVec 6) (s : State) : Host.Outcome State Fault Refusal :=
  .next (serve r 0x0908 (packFields [(6, mask.toNat)]) (bodyLnkReset mask.toNat) s)

/-- LNK.WIDEN (R265): the PRBS31 check of the lanes not in use starts on links that are up. -/
def bodyLnkWiden (mask : Nat) (org : Origin) (s : State) : Ans :=
  let l := maskPorts mask
  if l.isEmpty then refuse s .badArg
  else if l.any (fun p => !linkUpAt s p || (portOf s p).cmdWiden.isSome) then refuse s .state
  else
    { state := forEach l (fun p => updPort p (fun x => { x with cmdWiden := some org })) s, status := .pending,
      units := l.length }

/-- LNK_WIDEN (R265). -/
def execLnkWiden (r : Req) (mask : BitVec 6) (s : State) : Host.Outcome State Fault Refusal :=
  .next (serve r 0x0909 (packFields [(6, mask.toNat)]) (bodyLnkWiden mask.toNat) s)

/-- Whether the arguments of LNK.TEST are legal: a pattern of Table LNK-13; INJECT_MODE 0 none, 1 single with E from 10 to
40, 2 burst with B from 1 to 64 (R301; the codes of INJECT_MODE are a DESIGN CHOICE, log 62). -/
def testLegal (port pattern inject e b : Nat) : Bool :=
  decide (port < 6 ∧ pattern ≠ 7 ∧ inject ≠ 3) && (inject != 1 || decide (10 ≤ e ∧ e ≤ 40)) &&
    (inject != 2 || decide (1 ≤ b ∧ b ≤ 64))

/-- LNK.TEST (R300, R301). -/
def bodyLnkTest (port mask pattern : Nat) (pam2 : Bool) (user inject e b : Nat) (_org : Origin) (s : State) : Ans :=
  if testLegal port pattern inject e b = false then refuse s .badArg
  else if portIdle s port = false then refuse s .state
  else
    let t : TestCfg := { mask := BitVec.ofNat 10 mask, pattern := BitVec.ofNat 3 pattern, pam2 := pam2,
                         user := BitVec.ofNat 160 user, inject := BitVec.ofNat 2 inject, e := BitVec.ofNat 6 e,
                         b := BitVec.ofNat 7 b }
    done (updPort port (fun x => { x with st := .test, test := some t }) s)

/-- LNK_TEST (R300). -/
def execLnkTest (r : Req) (port : BitVec 3) (laneMask : BitVec 10) (pattern : BitVec 3) (pam2 : Bool)
    (user : BitVec 160) (injectMode : BitVec 2) (e : BitVec 6) (b : BitVec 7) (s : State) :
    Host.Outcome State Fault Refusal :=
  .next (serve r 0x090A
    (packFields [(3, port.toNat), (10, laneMask.toNat), (3, pattern.toNat), (1, bit pam2), (160, user.toNat),
      (2, injectMode.toNat), (6, e.toNat), (7, b.toNat)])
    (bodyLnkTest port.toNat laneMask.toNat pattern.toNat pam2 user.toNat injectMode.toNat e.toNat b.toNat) s)

/-- LNK.TEST_RESULT (R300, R301): bits compared, bit errors and the lock state of each of the ten lanes; the checkers' counts
are free values (the table gives no widths or order: DESIGN CHOICE, log 42). -/
def bodyLnkTestResult (port : Nat) (_org : Origin) (s : State) : Ans :=
  if 6 ≤ port then refuse s .badArg
  else
    match (portOf s port).test with
    | none => refuse s .state
    | some t =>
      let n := s.free
      let lane := fun k =>
        if t.mask.getLsbD k then
          let c := Config.testCounters (n + k)
          [(48, c.1.toNat), (48, c.2.toNat), (8, bit ((Config.freeValue (n + k)).getLsbD 0))]
        else [(48, 0), (48, 0), (8, 0)]
      done (useFree 10 (updPort port (fun x => { x with testReads := x.testReads + 1 }) s))
        (packFields ((List.range 10).flatMap lane))

/-- LNK_TEST_RESULT (R301). -/
def execLnkTestResult (r : Req) (port : BitVec 3) (s : State) : Host.Outcome State Fault Refusal :=
  .next (serve r 0x090B (packFields [(3, port.toNat)]) (bodyLnkTestResult port.toNat) s)

/-- LNK.TIME (R604). -/
def bodyLnkTime (_org : Origin) (s : State) : Ans :=
  done s (packFields [(64, (evTime s).toNat), (8, bit s.clk.unsync), (8, bit s.lnk.member),
    (8, match s.lnk.upstream with | some p => p | none => 0xFF),
    (64, if s.clk.timeLocked then s.clk.chainId.toNat else 0)])

/-- LNK_TIME (R604). -/
def execLnkTime (r : Req) (s : State) : Host.Outcome State Fault Refusal := .next (serve r 0x090C [] bodyLnkTime s)

/-- LNK.TIME_TRIM (R279): from −5,000 ps to +5,000 ps. On a link that is up it applies to the delays measured. -/
def bodyLnkTimeTrim (port ps : Nat) (_org : Origin) (s : State) : Ans :=
  let v := BitVec.ofNat 16 ps
  if 6 ≤ port ∨ 5000 < v.toInt.natAbs then refuse s .badArg
  else
    done (updPort port (fun x =>
      let d := v.toInt / 2 - x.asym.toInt / 2
      if x.st = .up then
        { x with asym := v, rxWire := trimPs x.rxWire d, txWire := trimPs x.txWire (-d) }
      else { x with asym := v }) s)

/-- LNK_TIME_TRIM (R279). -/
def execLnkTimeTrim (r : Req) (port : BitVec 3) (asymPs : BitVec 16) (s : State) : Host.Outcome State Fault Refusal :=
  .next (serve r 0x090D (packFields [(3, port.toNat), (16, asymPs.toNat)]) (bodyLnkTimeTrim port.toNat asymPs.toNat) s)

/-- LNK.SLOTS (R604). -/
def bodyLnkSlots (port : Nat) (_org : Origin) (s : State) : Ans :=
  if 6 ≤ port then refuse s .badArg
  else
    let t := (portOf s port).slots
    let chan := fun j => match Tab.get none t j with | some n => n.toNat | none => 0
    done s (packFields ((64, fieldsWord (t.map (fun e => (e.1, 1)))) :: (List.range 64).map (fun j => (16, chan j))))

/-- LNK_SLOTS (R604). -/
def execLnkSlots (r : Req) (port : BitVec 3) (s : State) : Host.Outcome State Fault Refusal :=
  .next (serve r 0x090E (packFields [(3, port.toNat)]) (bodyLnkSlots port.toNat) s)

/-- LNK.FEC_INJECT (R302): S from 1 to 8, M from 1, a logical lane of the width in use. -/
def bodyLnkFecInject (port lane n m : Nat) (_org : Origin) (s : State) : Ans :=
  if 6 ≤ port ∨ n = 0 ∨ 8 < n ∨ m = 0 then refuse s .badArg
  else if linkUpAt s port = false then refuse s .state
  else if widthLanes (portOf s port).txWidth ≤ lane then refuse s .badArg
  else done (updPort port (fun x =>
    { x with fecInject := some (BitVec.ofNat 3 lane, BitVec.ofNat 4 n, BitVec.ofNat 16 m) }) s)

/-- LNK_FEC_INJECT (R302). -/
def execLnkFecInject (r : Req) (port lane : BitVec 3) (s_ : BitVec 4) (m : BitVec 16) (s : State) :
    Host.Outcome State Fault Refusal :=
  .next (serve r 0x090F (packFields [(3, port.toNat), (3, lane.toNat), (4, s_.toNat), (16, m.toNat)])
    (bodyLnkFecInject port.toNat lane.toNat s_.toNat m.toNat) s)

/-- LNK.LANE_LIMIT (R260): a limit of 0 is refused (the table gives ST_BAD_ARG and no range: DEDUCED, log 66). -/
def bodyLnkLaneLimit (mask limit : Nat) (_org : Origin) (s : State) : Ans :=
  if limit = 0 then refuse s .badArg
  else done (forEach (maskPorts mask) (fun p => updPort p (fun x => { x with laneLimit := BitVec.ofNat 16 limit })) s)

/-- LNK_LANE_LIMIT (R260). -/
def execLnkLaneLimit (r : Req) (mask : BitVec 6) (limit : BitVec 16) (s : State) : Host.Outcome State Fault Refusal :=
  .next (serve r 0x0910 (packFields [(6, mask.toNat), (16, limit.toNat)]) (bodyLnkLaneLimit mask.toNat limit.toNat) s)

end Sys2Proof.Machine
end

