-- ==== Sys2Proof/Machine/Reset.lean ====
section
/-! DEFINITION. Power-on, power cycle, RESET_N and the start-up sequence (R522, R523, R570, R571). -/

namespace Sys2Proof.Machine

/-! ## What a reset keeps -/

/-- The training results that RESET_N keeps: those of set points whose speed is the one they have after RESET_N (R325,
R330). -/
def keptResults (s : State) (c : Nat) : Tab (Option (List Byte)) :=
  (dchanOf s c).results.filter (fun e => s.dram.list.isEmpty || spSpeed s e.1 == startSpeed s e.1)

/-- The DRAM channels after RESET_N: nothing but the stored training results in AON and the mark of a failure (R330,
R336). -/
def keptChans (s : State) : Tab Chan8 :=
  (List.range 8).foldl (fun t c =>
    let y := dchanOf s c
    Tab.upd {} t c (fun z => { z with results := keptResults s c, failedPrev := y.failedPrev || y.st == .failed })) []

/-- The power domains after RESET_N: latched trips and the counts of power-ons stay (R513, Table PWR-8). -/
def keptDoms (s : State) : Tab Domain :=
  (List.range 96).foldl (fun t d =>
    let x := domOf s d
    let st : PwrState := if d = 0 ∨ d = 1 ∨ d = 21 then .on else if x.latched then .tripped else .off
    Tab.upd {} t d (fun y =>
      { y with st := st, isolated := x.latched, fenced := x.latched && hasFence d, latched := x.latched, tripRor := x.tripRor,
               tripSensor := x.tripSensor, onCount := x.onCount })) []

/-- What survives everything: eFuses, tag NVM and flash, host memory, observations of the board, and the model's own
counters and queue. -/
def lasting (s : State) : State :=
  let r := ({} : State)
  { r with
    start := { r.start with rr := s.start.rr, rrPrev := s.start.rrPrev }
    mbx := { r.mbx with slotA := s.mbx.slotA, slotB := s.mbx.slotB, selected := s.mbx.selected, selTrial := s.mbx.selTrial }
    sec := { r.sec with groups := s.sec.groups, life := s.sec.life, owners := s.sec.owners, keys := s.sec.keys,
                        minSvn := s.sec.minSvn }
    tag := { r.tag with bytes := s.tag.bytes, counts := s.tag.counts, lock := s.tag.lock }
    evt := { r.evt with hostMem := s.evt.hostMem }
    prt := { r.prt with gen := s.prt.gen }
    lnk := { r.lnk with refclk := s.lnk.refclk }
    pwr := { r.pwr with vccFabOk := s.pwr.vccFabOk }
    free := s.free
    pending := s.pending }

/-- The device without power: every domain is off, every latch is cleared, and the control pins are high-impedance (step 1
of Table BRG-1, R513, R570). -/
def powerLost (s : State) : State :=
  let r := lasting (cutWrites s)
  { r with
    ext := { r.ext with pwrGood := false, resetReleased := false, done := true, error := false }
    pwr := { r.pwr with doms := [] }
    start := { r.start with step := 1 } }

/-- The device under RESET_N (step 2 of Table BRG-1): AON keeps the trip latches and the training results. -/
def fullReset (s : State) : State :=
  let c := cutWrites s
  let r := lasting c
  { r with
    pwr := { r.pwr with doms := keptDoms c, thermtrip := latchedDoms c != [] }
    dram := { r.dram with chans := keptChans c } }

/-! ## Rows -/

/-- PWR_GOOD_RISE (R570, Table BRG-1 step 2): AON is on, and DONE is driven low. -/
def execPwrGoodRise (s : State) : Host.Outcome State Fault Refusal :=
  if s.ext.pwrGood then .next s
  else .next { lasting s with ext := { ({} : Ext) with pwrGood := true } }

/-- POWER_CYCLE (R513, R570). -/
def execPowerCycle (s : State) : Host.Outcome State Fault Refusal :=
  if s.ext.pwrGood then .next (powerLost s) else .next s

/-- SUPPLY_OUT_OF_TOLERANCE (R571): all state is lost except eFuse, tag NVM and flash contents. -/
def execSupplyOutOfTolerance (s : State) : Host.Outcome State Fault Refusal :=
  if s.ext.pwrGood then .next (powerLost s) else .next s

/-- RESET_N_ASSERT (R570): the whole device is reset. -/
def execResetNAssert (s : State) : Host.Outcome State Fault Refusal :=
  if s.ext.pwrGood ∧ s.ext.resetReleased then .next (fullReset s) else .next s

/-- Rows of Table BRG-3 whose tests run in steps 3 and 4: a failure is fatal (R523). -/
def rowFatal (f : BistFail) : Bool := f.row == 1 || f.row == 2 || f.row == 3

/-- Rows of Table BRG-3 whose tests run in steps 4 and 5. -/
def rowOfFour (f : BistFail) : Bool := f.row == 4 || f.row == 5 || f.row == 7 || f.row == 8

/-- Step 3: MODE[2:0] is sampled, which fixes the boot source and the chain role; what the start meets is kept for the
steps that meet it (R210, R240). -/
def sampleMode (mode : BitVec 3) (flashA flashB : Option FwImage) (s : State) : State :=
  { s with
    ext := { s.ext with resetReleased := true, mode := mode }
    lnk := { s.lnk with member := mode == 2 }
    mbx := { s.mbx with slotA := flashA, slotB := flashB } }

/-- The device stays in reset with ERROR_N asserted (R523). -/
def stayInReset (fails : List BistFail) (s : State) : State :=
  assertError (fails.foldl (fun a f =>
    raiseFail f.row.val 1 0 0 (updStart (fun x => { x with held := true, fails := satAdd x.fails 1 }) a)) s)

/-- Steps 4 and 5: the security core starts with an empty vault and a new NONCE, and the base die, the NoC, PCIe, the PLL
groups and the ports are on (R554, Table BRG-1). -/
def stepsFourFive (fails : List BistFail) (s : State) : State :=
  let s1 := drawNonce (updSec (fun x => { x with vault := [], wiping := false }) (startDom 2 s))
  let s2 := forEach ([3, 4, 5, 6, 22, 90, 91, 92, 93] ++ (List.range 6).map portDom) startDom s1
  (fails.filter rowOfFour).foldl (fun a f => noteFail f a) (updStart (fun x => { x with step := 5 }) s2)

/-- RESET_N_RELEASE (R522, R523, R528): steps 3 to 6 of Table BRG-1, then step 7 where firmware runs. The locks of the PLL
groups and the rounds of start-up BIST are commands of their own. -/
def execResetNRelease (mode : BitVec 3) (fails : List BistFail) (flashA flashB : Option FwImage) (dimms : List (Nat × Dimm))
    (trainFail : BitVec 8) (pprRefused : List (BitVec 64)) (s : State) : Host.Outcome State Fault Refusal :=
  if s.ext.pwrGood = false ∨ s.ext.resetReleased then .next s
  else
    let s1 := updStart (fun x => { x with step := 3 }) (sampleMode mode flashA flashB s)
    let bad := fails.filter rowFatal
    if bad ≠ [] then .next (stayInReset bad s1)
    else
      let s2 := stepsFourFive fails s1
      let o : StartObs := { fails := fails, dimms := dimms, trainFail := trainFail, refused := pprRefused }
      let s3 := updStart (fun x => { x with step := 6, obs := some o }) s2
      .next (stepSeven (drainServing (startFirmware s3)))

end Sys2Proof.Machine
end

