-- ==== Sys2Proof/Machine/Mailbox.lean ====
section
/-! DEFINITION. The registers of the mailbox as the host sees them: channel registers and buffers (Tables MBX-8 and MBX-9),
identity registers (Table MBX-11), event and interrupt registers (Table MBX-15), the register images of JTAG and SMBus
(R461, R462), the word queues of the fabric mailboxes (R463 to R465), and register writes over the NoC (R11, R12, R600). -/

namespace Sys2Proof.Machine

/-! ## Identity registers (R471) -/

/-- ID_BARISTA (Table MBX-11). -/
def BaristaState.code : BaristaState → Nat
  | .inReset => 0 | .rom => 1 | .serving => 2 | .restarting => 3

/-- ID_INFO (Table MBX-11). -/
def idInfo (s : State) : Nat :=
  fieldsWord [(0, if Config.grade2C then 2 else 1), (4, Config.stepping.toNat), (8, s.ext.mode.toNat), (11, bit s.ext.done),
    (12, bit s.ext.error), (13, s.mbx.barista.code), (15, s.sec.life.toNat)]

/-- ID_IF (Table MBX-11). -/
def idIf (s : State) : Nat :=
  match s.mbx.barista, s.mbx.fw with
  | .serving, some f =>
    fieldsWord [(0, 1), (8, min 255 f.ifRev.toNat), (16, bit (f.slot.getD false)), (17, bit f.trial), (18, bit s.mbx.fallback)]
  | _, _ => fieldsWord [(18, bit s.mbx.fallback)]

/-- The identity register at an offset; 0 at a reserved one. -/
def idReg (s : State) (off : Nat) : Nat :=
  match off with
  | 0x00 => 0x96244B52
  | 0x04 => idInfo s
  | 0x08 => field Config.serial.toNat 0 32
  | 0x0C => field Config.serial.toNat 32 32
  | 0x10 => if s.mbx.barista = .serving then fwVersion s else 0
  | 0x14 => idIf s
  | 0x18 => s.mbx.restarts.toNat
  | _ => 0

/-! ## Channel registers (R457 to R459) -/

/-- MBX_STATE (Table MBX-9). -/
def ChanState.code : ChanState → Nat
  | .idle => 0 | .busy => 1 | .response => 2 | .part => 3

/-- MBX_STATUS (Table MBX-9). -/
def chanStatus (s : State) (c : Nat) : Nat :=
  let ch := chanOf s c
  fieldsWord [(0, ch.st.code), (2, bit (s.mbx.barista == .serving)), (3, bit (s.mbx.barista == .rom)), (4, bit ch.overrun),
    (5, bit ch.writeIgnored), (8, ch.ifRev.toNat), (16, ch.lastSeq.toNat)]

/-- The 32-bit register or buffer word at an offset of a channel (Tables MBX-8 and MBX-9). -/
def chanReg (s : State) (c off : Nat) : Nat :=
  let ch := chanOf s c
  if off = 0x000 then bit ch.enable
  else if off = 0x004 then chanStatus s c
  else if off = 0x00C then bit ch.irqMask
  else if 0x010 ≤ off ∧ off < 0x020 then field ch.reqHdr.toNat (8 * (off - 0x010)) 32
  else if 0x020 ≤ off ∧ off < 0x030 then field ch.rspHdr.toNat (8 * (off - 0x020)) 32
  else if 0x100 ≤ off ∧ off < 0x200 then natLE (tabBytes ch.reqBuf (off - 0x100) 4)
  else if 0x200 ≤ off ∧ off < 0x300 then natLE (tabBytes ch.rspBuf (off - 0x200) 4)
  else 0

/-- MBX_CLEAR: a channel in RESPONSE or PART returns to IDLE without its parts; in BUSY it is ignored (Table MBX-9). -/
def clearChan (c : Nat) (s : State) : State :=
  updChan c (fun ch =>
    if ch.st = .response ∨ ch.st = .part then { ch with st := .idle, parts := none, rest := none } else ch) s

/-- MBX_ACK: RESPONSE to IDLE (Table MBX-9). -/
def ackChan (c : Nat) (s : State) : State :=
  updChan c (fun ch => if ch.st = .response then { ch with st := .idle } else ch) s

/-- Places 4 bytes in a 128-bit header at a byte offset. -/
def putHdr (h : BitVec 128) (k v : Nat) : BitVec 128 :=
  BitVec.ofNat 128 (natLE (((bytesLE 16 h.toNat).take k) ++ bytesLE 4 v ++ (bytesLE 16 h.toNat).drop (k + 4)))

/-- A 32-bit write to a channel's registers or buffers by their access codes (R11, R457, R459). -/
def chanWrite (c off v : Nat) (s : State) : State :=
  let busy := (chanOf s c).st = .busy
  let ignored := updChan c (fun ch => { ch with writeIgnored := true }) s
  if off = 0x000 then
    let s1 := updChan c (fun ch => { ch with enable := Nat.testBit v 0 }) s
    if Nat.testBit v 1 then clearChan c s1 else s1
  else if off = 0x004 then
    updChan c (fun ch =>
      { ch with overrun := ch.overrun && !Nat.testBit v 4, writeIgnored := ch.writeIgnored && !Nat.testBit v 5 }) s
  else if off = 0x008 then
    let s1 := if Nat.testBit v 1 then ackChan c s else s
    if Nat.testBit v 0 then ringChan c s1 else s1
  else if off = 0x00C then updChan c (fun ch => { ch with irqMask := Nat.testBit v 0 }) s
  else if 0x010 ≤ off ∧ off < 0x020 then
    if busy then ignored else updChan c (fun ch => { ch with reqHdr := putHdr ch.reqHdr (off - 0x010) v }) s
  else if 0x100 ≤ off ∧ off < 0x200 then
    if busy then ignored else updChan c (fun ch => { ch with reqBuf := putBytes ch.reqBuf (off - 0x100) (bytesLE 4 v) }) s
  else s

/-! ## Event and interrupt registers (R475 to R477) -/

/-- The register at an offset of the event and interrupt registers (Table MBX-15). -/
def evtReg (s : State) (off : Nat) : Nat :=
  let e := s.evt
  match off with
  | 0x00 => field e.ringBase.toNat 0 32
  | 0x04 => field e.ringBase.toNat 32 32
  | 0x08 => fieldsWord [(0, e.ringLog2.toNat), (5, bit e.ringEn)]
  | 0x0C => e.head.toNat
  | 0x10 => e.tail.toNat
  | 0x14 => e.lost.toNat
  | 0x18 => e.alertLevel.toNat
  | 0x1C => e.alertAck.toNat
  | 0x20 => fieldsWord [(0, e.irqRsp.toNat), (8, e.irqEvt.toNat)]
  | 0x24 => fieldsWord [(8, e.irqMask.toNat)]
  | 0x28 => e.last.toNat
  | _ => 0

/-- A write to EVT_RING_CFG: a size outside 6 to 16 leaves EVT_RING_LOG2, and a change of EVT_RING_EN from 0 to 1 sets head
and tail to 0 (R10, R475). -/
def setRingCfg (v : BitVec 32) (e : Evt) : Evt :=
  let n := v.extractLsb' 0 5
  let en := v.getLsbD 5
  let e1 := { e with ringLog2 := if 6 ≤ n.toNat ∧ n.toNat ≤ 16 then n else e.ringLog2, ringEn := en }
  if en ∧ e.ringEn = false then { e1 with head := 0, tail := 0 } else e1

/-- A write to EVT_RING_TAIL: one above the head, or more than the ring size below it, is ignored (R475). -/
def setRingTail (v : BitVec 32) (e : Evt) : Evt :=
  if (e.head - v).toNat ≤ ringSize e then { e with tail := v } else e

/-- A write to EVT_ALERT_ACK (R477). -/
def setAlertAck (v : BitVec 32) (e : Evt) : Evt := updAlert { e with alertAck := v }

/-- A write to EVT_ALERT; a reserved severity leaves the level (R10, R477). -/
def setAlertLevel (n : Nat) (e : Evt) : Evt := if 4 < n then e else updAlert { e with alertLevel := BitVec.ofNat 3 n }

/-- A 32-bit write to the event and interrupt registers by their access codes (R11, Table MBX-15). -/
def evtWrite (off : Nat) (v : BitVec 32) (e : Evt) : Evt :=
  match off with
  | 0x00 => { e with ringBase := e.ringBase.extractLsb' 32 32 ++ (v.extractLsb' 12 20 ++ (0 : BitVec 12)) }
  | 0x04 => { e with ringBase := v ++ e.ringBase.extractLsb' 0 32 }
  | 0x08 => setRingCfg v e
  | 0x10 => setRingTail v e
  | 0x18 => setAlertLevel (v.extractLsb' 0 3).toNat e
  | 0x1C => setAlertAck v e
  | 0x20 => { e with irqRsp := e.irqRsp &&& ~~~(v.extractLsb' 0 8), irqEvt := e.irqEvt &&& ~~~(v.extractLsb' 8 3) }
  | 0x24 => { e with irqMask := v.extractLsb' 8 3 }
  | _ => e

/-- A change of the event registers, after which a ring that has room again first takes EV_RING_OVERFLOW (R475). -/
def hostEvt (f : Evt → Evt) (s : State) : State :=
  let s1 := updEvt f s
  if serving s1 then postOverflow s1 else s1

/-! ## BAR0 and the register images (R457, R461, R462) -/

/-- The 32-bit register of BAR0 at an offset (Table MBX-8). -/
def bar0Reg (s : State) (off : Nat) : Nat :=
  if off < 0x8000 then chanReg s (off / 0x1000) (off % 0x1000)
  else if off < 0x9000 then evtReg s (off - 0x8000)
  else if off < 0xA000 then idReg s (off - 0x9000)
  else 0

/-- A 32-bit write to BAR0; writes to reserved and read-only offsets are ignored (R11, R457). -/
def bar0Write (off : Nat) (v : BitVec 32) (s : State) : State :=
  if off % 4 ≠ 0 then s
  else if off < 0x8000 then chanWrite (off / 0x1000) (off % 0x1000) v.toNat s
  else if off < 0x9000 then hostEvt (evtWrite (off - 0x8000) v) s
  else s

/-- The 32-bit register of channel c's register image at a 4-byte-aligned offset: its channel registers, and the identity
registers at 0x8000 to 0x9FFF; 0 elsewhere (R461). -/
def imageReg (s : State) (c off : Nat) : Nat :=
  if off % 4 ≠ 0 then 0
  else if off < 0x1000 then chanReg s c off
  else if 0x8000 ≤ off ∧ off < 0xA000 then idReg s (off % 0x1000)
  else 0

/-- A 32-bit write to channel c's register image. -/
def imageWrite (c off v : Nat) (s : State) : State :=
  if off % 4 = 0 ∧ off < 0x1000 then chanWrite c off v s else s

/-- Whether the block's registers take writes: RESET_N holds them at their reset values. -/
def regsLive (s : State) : Bool := s.ext.resetReleased

/-- Whether PF0 reaches BAR0. -/
def hostLive (s : State) : Bool := regsLive s && domOn s 22 && !s.pwr.baseReset

/-- JTAG_MBX_ACCESS (R461): a write goes to the image of channel 12; a read loads the data of the next Capture-DR. -/
def execJtagMbxAccess (dr : W64) (s : State) : Host.Outcome State Fault Refusal :=
  let off := (dr.extractLsb' 32 16).toNat
  let load := fun t => updMbx (fun m => { m with jtagMbx := BitVec.ofNat 32 (imageReg t 12 off) }) t
  if dr.getLsbD 63 then .next (if regsLive s then imageWrite 12 off (dr.extractLsb' 0 32).toNat s else s)
  else .next (load s)

/-- Whether a channel number of a doorbell row has registers, reached by its sender now. -/
def doorLive (s : State) (c : Nat) : Bool := isRegChan c && (if c < 8 then hostLive s else regsLive s)

/-- MBX_RING (R458, R459). -/
def execMbxRing (channel : Fin 16) (s : State) : Host.Outcome State Fault Refusal :=
  .next (if doorLive s channel.val then chanWrite channel.val 0x008 1 s else s)

/-- MBX_ACK (R458). -/
def execMbxAck (channel : Fin 16) (s : State) : Host.Outcome State Fault Refusal :=
  .next (if doorLive s channel.val then chanWrite channel.val 0x008 2 s else s)

/-- MBX_CLEAR (R457): the write of 1 to MBX_CLEAR keeps MBX_ENABLE. -/
def execMbxClear (channel : Fin 16) (s : State) : Host.Outcome State Fault Refusal :=
  .next (if doorLive s channel.val then clearChan channel.val s else s)

/-- EVT_RING_ENABLE (R475): a write to EVT_RING_CFG. -/
def execEvtRingEnable (value : BitVec 32) (s : State) : Host.Outcome State Fault Refusal :=
  .next (if hostLive s then hostEvt (setRingCfg value) s else s)

/-- EVT_RING_TAIL_WRITE (R475). -/
def execEvtRingTailWrite (value : BitVec 32) (s : State) : Host.Outcome State Fault Refusal :=
  .next (if hostLive s then hostEvt (setRingTail value) s else s)

/-- EVT_ALERT_ACK_WRITE (R477). -/
def execEvtAlertAckWrite (value : BitVec 32) (s : State) : Host.Outcome State Fault Refusal :=
  .next (if hostLive s then hostEvt (setAlertAck value) s else s)

/-! ## SMBus (R462) -/

/-- The byte of channel 13's register image at an address. -/
def imageByte (s : State) (a : Nat) : Byte := BitVec.ofNat 8 (field (imageReg s 13 (a / 4 * 4)) (8 * (a % 4)) 8)

/-- Writes the bytes of a block, address and value, that lie in the 4-byte word at an offset: buffers and headers keep
their other bytes, and a register is written where its lowest byte is. -/
def smbusWord (bytes : List (Nat × Byte)) (off : Nat) (s : State) : State :=
  let at_ := fun k => (bytes.find? (fun b => b.1 == off + k)).map (fun b => b.2)
  let get := fun k => (at_ k).getD (if off < 0x10 then 0 else imageByte s (off + k))
  if off < 0x10 ∧ at_ 0 = none then s else imageWrite 13 off (natLE [get 0, get 1, get 2, get 3]) s

/-- SMBUS_POINTER_WRITE (R462). -/
def execSmbusPointerWrite (value : BitVec 16) (pecOk : Bool) (s : State) : Host.Outcome State Fault Refusal :=
  .next (if regsLive s ∧ pecOk then updMbx (fun m => { m with smbPtr := value }) s else s)

/-- SMBUS_BLOCK_WRITE (R462): 1 to 32 bytes at the pointer, which advances past them. -/
def execSmbusBlockWrite (bytes : List Byte) (pecOk : Bool) (s : State) : Host.Outcome State Fault Refusal :=
  if regsLive s = false ∨ pecOk = false ∨ bytes = [] ∨ 32 < bytes.length then .next s
  else
    let p := s.mbx.smbPtr.toNat
    let l := bytes.zipIdx.map (fun x => ((p + x.2) % 65536, x.1))
    let words := (l.map (fun x => x.1 / 4 * 4)).eraseDups
    .next (updMbx (fun m => { m with smbPtr := m.smbPtr + BitVec.ofNat 16 bytes.length }) (forEach words (smbusWord l) s))

/-- SMBUS_BLOCK_READ (R462): 32 bytes at the pointer, which advances past them. -/
def execSmbusBlockRead (s : State) : Host.Outcome State Fault Refusal :=
  let p := s.mbx.smbPtr.toNat
  let out := (List.range 32).map (fun i => imageByte s ((p + i) % 65536))
  .next (if regsLive s then updMbx (fun m => { m with smbOut := out, smbPtr := m.smbPtr + 32 }) s else s)

/-- SMBUS_ARP (R462): an address is assigned, or the unique device identifier is returned. -/
def execSmbusArp (assign : Option (BitVec 7)) (s : State) : Host.Outcome State Fault Refusal :=
  if regsLive s = false then .next s
  else
    match assign with
    | some a => .next (updMbx (fun m => { m with smbAddr := a }) s)
    | none => .next (updMbx (fun m => { m with smbOut := (bytesLE 16 Config.smbusUdid.toNat).reverse }) s)

/-! ## Fabric mailboxes (R94, R95, R463 to R465) -/

/-- A complete request of a fabric mailbox is taken: Barista's order holds it, or the mailbox hardware answers it while
Barista restarts (R445, R465). -/
def takeFabRequest (c : Nat) (s : State) : State :=
  if s.mbx.barista = .restarting then
    match takeReq c s with
    | some (q, _, s1) => answerHw q .busy s1
    | none => s
  else if s.mbx.barista = .inReset then s
  else pushOrder c s

/-- MBX_REQ_PUSH (R95, R465): one word in one fc; a full queue and a closed site refuse it. -/
def execMbxReqPush (channel : Fin 4) (word : W64) (last : Bool) (s : State) : Host.Outcome State Fault Refusal :=
  let c := 8 + channel.val
  let ch := chanOf s c
  let t := s.clk.fc + 4
  if chanReach s c = false ∨ ch.accepts.any (fun a => a.1 == t) then .next s
  else
    let ok := !ch.closed && decide (ch.reqQ.length < 64)
    let s1 := updChan c (fun ch =>
      { ch with accepts := ((t, ok) :: ch.accepts).take 5, reqQ := if ok then ch.reqQ ++ [(word, last)] else ch.reqQ }) s
    .next (if ok ∧ last then takeFabRequest c s1 else s1)

/-- A response that waits moves into the response queue once it fits (R465). -/
def fillMbx (ch : Chan) : Chan :=
  match ch.rspWait with
  | some ws => if ch.rspQ.length + ws.length ≤ 64 then { ch with rspQ := ch.rspQ ++ ws, rspWait := none } else ch
  | none => ch

/-- MBX_RSP_POP (R94, R465): one pop in one fc. -/
def execMbxRspPop (channel : Fin 4) (s : State) : Host.Outcome State Fault Refusal :=
  let c := 8 + channel.val
  let t := s.clk.fc + 4
  if chanReach s c = false ∨ (chanOf s c).pops.any (fun a => a.1 == t) then .next s
  else
    .next (updChan c (fun ch =>
      match ch.rspQ with
      | [] => { ch with pops := ((t, 0, false, false) :: ch.pops).take 5 }
      | (w, l) :: rest => fillMbx { ch with rspQ := rest, pops := ((t, w, true, l) :: ch.pops).take 5 }) s)

/-! ## Register writes over the NoC (R11, R12, R184, R600) -/

/-- The 8-byte aligned words of a write to the control space: address, byte enables, data. -/
def ctlWrites (q : NocReq) : List (Nat × BitVec 8 × W64) :=
  (List.range (q.len.val + 1)).map (fun i => (q.addr.toNat / 8 * 8 + 8 * i, byteEnables q i, q.data.getD i 0))

/-- Whether an address lies in the QCTL registers. -/
def inQctl (a : Nat) : Bool := decide (0x082001000000 ≤ a ∧ a < 0x082001000000 + 1152 * 0x40)

/-- Whether an address lies in the conflict-counter registers. -/
def inConflict (a : Nat) : Bool := decide (0x082001020000 ≤ a ∧ a < 0x082001020000 + 8 * 0x400)

/-- Whether an address lies in the workspace ring registers. -/
def inWsRegs (a : Nat) : Bool := decide (0x082002000000 ≤ a ∧ a < 0x082002001000)

/-- Whether byte enables cover a byte of the low or the high half of a word. -/
def halfOn (be : BitVec 8) (high : Bool) : Bool := (be.extractLsb' (if high then 4 else 0) 4) != 0

/-- Why the control space refuses a write to one word, if it does: no register there, or a register that this master does
not write (R166, R184, R213, R303, R338, R365, R389, R392, R436, R520, R600). -/
def ctlRefusal (s : State) (src : Nat) (w : Nat × BitVec 8 × W64) : Option Status :=
  let a := w.1
  if destOf s a = .dispatcher then some .denied
  else if ctlWord s a = none then some .badArg
  else if inQctl a then
    if (a % 0x40 = 0 ∨ a % 0x40 = 8) ∧ halfOn w.2.1 false then some .denied else none
  else if inConflict a then (if src = 72 then none else some .denied)
  else if inWsRegs a ∨ inWorkspace a then (if wsWriter s src then none else some .denied)
  else some .denied

/-- A 32-bit write to a register of block g at an offset, by its access codes (Table MEM-8). -/
def qctlWrite (g off v : Nat) (s : State) : State :=
  if off = 0x04 ∧ Nat.testBit v 19 then updBlock g (fun _ => { blockNow s g with ovf := false }) s
  else if off = 0x0C then addCreditWrite g v s
  else if off = 0x14 ∧ Nat.testBit v 15 then updBlock g (fun _ => { blockNow s g with ueValid := false }) s
  else s

/-- A 32-bit write to a conflict-counter register of a sector (Table MEM-6). -/
def conflictWrite (k off v : Nat) (s : State) : State :=
  if off < 0x100 then setCsel k (off / 4) (BitVec.ofNat 8 v) s
  else if off = 0x200 ∧ Nat.testBit v 0 then clearConflicts k s
  else s

/-- A write to one word of the control space that nothing refuses (R11). -/
def ctlWrite1 (s : State) (w : Nat × BitVec 8 × W64) : State :=
  let a := w.1
  let v := (mergeWord w.2.1 0 w.2.2).toNat
  let lo := field v 0 32
  let hi := field v 32 32
  if inQctl a then
    let g := (a - 0x082001000000) / 0x40
    let s1 := if halfOn w.2.1 false then qctlWrite g (a % 0x40) lo s else s
    if halfOn w.2.1 true then qctlWrite g (a % 0x40 + 4) hi s1 else s1
  else if inConflict a then
    let k := (a - 0x082001020000) / 0x400
    let s1 := if w.2.1.getLsbD 0 then conflictWrite k (a % 0x400) lo s else s
    if w.2.1.getLsbD 4 then conflictWrite k (a % 0x400 + 4) hi s1 else s1
  else if a = 0x082002000000 then setWptr (mergeWord w.2.1 s.load.wptr w.2.2) s
  else if a = 0x082002000010 then
    { s with load := { s.load with ptrErr := s.load.ptrErr && !Nat.testBit v 1 } }
  else s

/-- A write to the control space: a protected range, or a refused word, refuses it whole (R363, R600). -/
def ctlWrite (q : NocReq) (s : State) : Status × State :=
  if protDenied s q.src.toNat q.addr.toNat then (.denied, s)
  else
    match (ctlWrites q).findSome? (ctlRefusal s q.src.toNat) with
    | some st => (st, s)
    | none => if inWorkspace q.addr.toNat then writeWs s q else (.ok, (ctlWrites q).foldl ctlWrite1 s)

/-- Whether an address lies in DSP_TOKEN or DSP_DONE (Table DSP-1). -/
def isDspPort (a : Nat) : Bool :=
  decide (0x082007000000 ≤ a ∧ a < 0x082007000100) || decide (0x082007001000 ≤ a ∧ a < 0x082007001100)

/-- Whether an address is that of a register or of the dispatcher's registers, DSP_TOKEN and DSP_DONE excepted. -/
def isRegister (s : State) (a : Nat) : Bool :=
  destOf s a == .control || (destOf s a == .dispatcher && !isDspPort a)

/-- A register write over the NoC: the write of this source and tag in the mesh is performed and answered; a write that
the mesh does not hold is performed as one word. -/
def nocRegWrite (src : BitVec 8) (tag : BitVec 12) (addr : BitVec 48) (value : W64) (s : State) : State :=
  match meshReq s src tag with
  | some q =>
    if q.op = .write ∧ isRegister s q.addr.toNat = true then
      answerMesh q (ctlWrite q s).1 [] (ctlWrite q s).2
    else s
  | none =>
    if isRegister s addr.toNat then
      let high := decide (addr.toNat % 8 = 4)
      let q : NocReq :=
        { src := src, tag := tag, stream := 0, cls := 0, op := .write, addr := BitVec.ofNat 48 (addr.toNat / 8 * 8), len := 0,
          beFirst := if high then 0xF0 else 0xFF, beLast := 0xFF, reinit := false,
          data := [if high then value <<< 32 else value] }
      (ctlWrite q s).2
    else s

/-- REGISTER_WRITE (R11, R12, R600): by PF0 in BAR0, by JTAG or SMBus in the image of channel 12 or 13, or over the NoC. -/
def execRegisterWrite (w : Writer) (addr : BitVec 48) (value : W64) (s : State) : Host.Outcome State Fault Refusal :=
  match w with
  | .bar0 => .next (if hostLive s then bar0Write addr.toNat (value.extractLsb' 0 32) s else s)
  | .jtag => .next (if regsLive s then imageWrite 12 addr.toNat (value.extractLsb' 0 32).toNat s else s)
  | .smbus => .next (if regsLive s then imageWrite 13 addr.toNat (value.extractLsb' 0 32).toNat s else s)
  | .noc src tag => .next (nocRegWrite src tag addr value s)

end Sys2Proof.Machine
end

