-- ==== Sys2Proof/Machine/Commands.lean ====
section
/-! DEFINITION. The command index (Table MBX-18) with each command's argument widths, and BARISTA_EXECUTE: parts, forwarding
and the execution of the oldest complete request (R449 to R456, R465 to R470, R480). -/

namespace Sys2Proof.Machine

/-- A mailbox command: its argument widths, whether a record trails them, and its body over the argument values. -/
structure Cmd where
  widths : List Nat
  record : Bool := false
  body : List Nat → List Byte → Origin → State → Ans

/-- Argument i. -/
def arg (a : List Nat) (i : Nat) : Nat := a.getD i 0

/-- Argument i of width 1. -/
def flag (a : List Nat) (i : Nat) : Bool := a.getD i 0 == 1

/-- The SYS commands by verb (Table MBX-18). -/
def sysCmd : Nat → Option Cmd
  | 0x01 => some { widths := [8], body := fun a _ => bodySysHello (arg a 0) }
  | 0x02 => some { widths := [], body := fun _ _ => bodySysVersion }
  | 0x03 => some { widths := [48, 20], body := fun a _ => bodySysFwLoad (arg a 0) (arg a 1) }
  | 0x04 => some { widths := [48, 20], body := fun a _ => bodySysFwUpdate (arg a 0) (arg a 1) }
  | 0x05 => some { widths := [1], body := fun a _ => bodySysFwActivate (flag a 0) }
  | 0x06 => some { widths := [], body := fun _ _ => bodySysFwStatus }
  | 0x07 => some { widths := [], body := fun _ _ => bodySysRestart }
  | 0x08 => some { widths := [4, 32], body := fun a _ => bodySysChannelPolicy (arg a 0) (arg a 1) }
  | 0x09 => some { widths := [14], body := fun a _ => bodySysFwdTimeout (arg a 0) }
  | _ => none

/-- The CFG commands by verb (Table MBX-18). -/
def cfgCmd : Nat → Option Cmd
  | 0x01 => some { widths := [2, 32], body := fun a _ => bodyCfgLoad (arg a 0) (arg a 1) }
  | 0x02 => some { widths := [], body := fun _ _ => bodyCfgStatus }
  | 0x03 => some { widths := [5], body := fun a _ => bodyCfgList (arg a 0) }
  | 0x04 => some { widths := [32, 4], body := fun a _ => bodyCfgDelete (arg a 0) (arg a 1) }
  | 0x05 => some
    { widths := [5, 2, 4, 11, 10, 11, 27], body := fun a _ =>
        bodyCfgReadback (arg a 0) (arg a 1) (arg a 2) (arg a 3) (arg a 4) (arg a 5) (arg a 6) }
  | 0x06 => some { widths := [], body := fun _ _ => bodyCfgScrubStatus }
  | 0x20 => some { widths := [16], body := fun a _ => bodyCfgMemInit (arg a 0) }
  | 0x21 => some
    { widths := [11, 3, 4, 14, 1], body := fun a _ =>
        bodyCfgMemMode (arg a 0) (arg a 1) (arg a 2) (arg a 3) (flag a 4) }
  | 0x22 => some { widths := [11], body := fun a _ => bodyCfgMemStatus (arg a 0) }
  | _ => none

/-- The CTX commands by verb (Table MBX-18). -/
def ctxCmd : Nat → Option Cmd
  | 0x01 => some { widths := [32, 4, 2, 1], body := fun a _ => bodyCtxStage (arg a 0) (arg a 1) (arg a 2) (flag a 3) }
  | 0x02 => some
    { widths := [32, 2, 1, 64], body := fun a _ =>
        bodyCtxArm .switch (arg a 0) (arg a 1) (flag a 2) (arg a 3) }
  | 0x03 => some { widths := [32, 2, 1, 64], body := fun a _ => bodyCtxArm .start (arg a 0) (arg a 1) (flag a 2) (arg a 3) }
  | 0x04 => some { widths := [32, 64], body := fun a _ => bodyCtxArm .hold (arg a 0) 0 false (arg a 1) }
  | 0x05 => some { widths := [32, 64], body := fun a _ => bodyCtxArm .resume (arg a 0) 0 false (arg a 1) }
  | 0x06 => some { widths := [32, 64], body := fun a _ => bodyCtxStop (arg a 0) (arg a 1) }
  | 0x07 => some { widths := [32, 64], body := fun a _ => bodyCtxArm .reset (arg a 0) 0 false (arg a 1) }
  | 0x08 => some { widths := [32], body := fun a _ => bodyCtxClear (arg a 0) }
  | 0x09 => some { widths := [32, 2], body := fun a _ => bodyCtxEvict (arg a 0) (arg a 1) }
  | 0x0A => some { widths := [32], body := fun a _ => bodyCtxStatus (arg a 0) }
  | 0x0B => some { widths := [5], body := fun a _ => bodyCtxWindow (arg a 0) }
  | _ => none

/-- The PWR commands by verb (Table MBX-18). -/
def pwrCmd : Nat → Option Cmd
  | 0x01 => some { widths := [96], body := fun a _ => bodyPwrStatus (arg a 0) }
  | 0x02 => some { widths := [96], body := fun a _ => bodyPwrOn (arg a 0) }
  | 0x03 => some { widths := [96], body := fun a _ => bodyPwrOff (arg a 0) }
  | 0x04 => some { widths := [96], body := fun a _ => bodyPwrTamp (arg a 0) }
  | 0x05 => some { widths := [96], body := fun a _ => bodyPwrRetain (arg a 0) }
  | 0x06 => some
    { widths := [3, 6, 1, 96, 1152], body := fun a _ =>
        bodyPwrWakeCfg (arg a 0) (arg a 1) (flag a 2) (arg a 3) (arg a 4) }
  | 0x07 => some { widths := [], body := fun _ _ => bodyPwrBaseReset }
  | _ => none

/-- The CLK commands by verb (Table MBX-18). -/
def clkCmd : Nat → Option Cmd
  | 0x01 => some { widths := [], body := fun _ _ => bodyClkStatus }
  | 0x02 => some { widths := [7], body := fun a _ => bodyClkFabric (arg a 0) }
  | 0x03 => some { widths := [3, 13, 64, 1], body := fun a _ => bodyClkAux (arg a 0) (arg a 1) (arg a 2) (flag a 3) }
  | _ => none

/-- The THM commands by verb (Table MBX-18). -/
def thmCmd : Nat → Option Cmd
  | 0x01 => some { widths := [], body := fun _ _ => bodyThmStatus }
  | 0x02 => some { widths := [7, 7], body := fun a _ => bodyThmSensors (arg a 0) (arg a 1) }
  | 0x03 => some { widths := [8, 8], body := fun a _ => bodyThmLimits (arg a 0) (arg a 1) }
  | _ => none

/-- The DRM commands by verb (Table MBX-18). -/
def drmCmd : Nat → Option Cmd
  | 0x01 => some { widths := [8], body := fun a _ => bodyDrmStatus (arg a 0) }
  | 0x02 => some { widths := [2], body := fun a _ => bodyDrmSetpoint (arg a 0) }
  | 0x03 => some { widths := [2, 3], body := fun a _ => bodyDrmSetpointCfg (arg a 0) (arg a 1) }
  | 0x04 => some { widths := [2, 16], body := fun a _ => bodyDrmQos (arg a 0) (arg a 1) }
  | 0x05 => some { widths := [8, 5], body := fun a _ => bodyDrmNrr (arg a 0) (arg a 1) }
  | 0x06 => some
    { widths := [3, 1, 1, 1, 3, 3, 2, 18], body := fun a _ =>
        bodyDrmPpr (arg a 0)
          { sub := flag a 1, dimm := arg a 2, rank := arg a 3, cid := arg a 4, bg := arg a 5, ba := arg a 6, row := arg a 7, col := 0 } }
  | 0x07 => some { widths := [8, 1], body := fun a _ => bodyDrmPprAuto (arg a 0) (flag a 1) }
  | 0x08 => some { widths := [8], body := fun a _ => bodyDrmExclude (arg a 0) }
  | 0x09 => some { widths := [8], body := fun a _ => bodyDrmInclude (arg a 0) }
  | 0x0A => some { widths := [3, 2], body := fun a _ => bodyDrmTrainExport (arg a 0) (arg a 1) }
  | 0x0B => some { widths := [3, 2], record := true, body := fun a r => bodyDrmTrainImport (arg a 0) (arg a 1) r }
  | 0x0C => some { widths := [16], body := fun a _ => bodyDrmDmaStop (arg a 0) }
  | 0x0D => some { widths := [3], body := fun a _ => bodyDrmErrlog (arg a 0) }
  | _ => none

/-- The PRT commands by verb (Table MBX-18). -/
def prtCmd : Nat → Option Cmd
  | 0x01 => some { widths := [], body := fun _ _ => bodyPrtStatus }
  | 0x02 => some { widths := [11], body := fun a _ => bodyPrtCapacity (arg a 0) }
  | 0x03 => some { widths := [3, 1, 10, 4], body := fun a _ => bodyPrtIrSet (arg a 0) (arg a 1) (arg a 2) (arg a 3) }
  | 0x04 => some { widths := [3, 36, 36], body := fun a _ => bodyPrtReinit (arg a 0) (arg a 1) (arg a 2) }
  | 0x05 => some
    { widths := [4, 36, 36, 1, 1], body := fun a _ =>
        bodyPrtRangeSet (arg a 0) (arg a 1) (arg a 2) (arg a 3) (arg a 4) }
  | 0x06 => some { widths := [256], body := fun a _ => bodyPrtPriv (arg a 0) }
  | _ => none

/-- The LNK commands by verb (Table MBX-18). -/
def lnkCmd : Nat → Option Cmd
  | 0x01 => some { widths := [6], body := fun a _ => bodyLnkStatus (arg a 0) }
  | 0x02 => some { widths := [6, 1], body := fun a _ => bodyLnkUp (arg a 0) (flag a 1) }
  | 0x03 => some { widths := [6], body := fun a _ => bodyLnkDown (arg a 0) }
  | 0x04 => some { widths := [1], body := fun a _ => bodyLnkRole (flag a 0) }
  | 0x05 => some { widths := [12, 64, 12], body := fun a _ => bodyLnkRouteSet (arg a 0) (arg a 1) (arg a 2) }
  | 0x06 => some { widths := [12], body := fun a _ => bodyLnkRouteGet (arg a 0) }
  | 0x07 => some
    { widths := [8, 12, 12, 1, 1], body := fun a _ =>
        bodyLnkCwinSet (arg a 0) (arg a 1) (arg a 2) (flag a 3) (flag a 4) }
  | 0x08 => some { widths := [6], body := fun a _ => bodyLnkReset (arg a 0) }
  | 0x09 => some { widths := [6], body := fun a _ => bodyLnkWiden (arg a 0) }
  | 0x0A => some
    { widths := [3, 10, 3, 1, 160, 2, 6, 7], body := fun a _ =>
        bodyLnkTest (arg a 0) (arg a 1) (arg a 2) (flag a 3) (arg a 4) (arg a 5) (arg a 6) (arg a 7) }
  | 0x0B => some { widths := [3], body := fun a _ => bodyLnkTestResult (arg a 0) }
  | 0x0C => some { widths := [], body := fun _ _ => bodyLnkTime }
  | 0x0D => some { widths := [3, 16], body := fun a _ => bodyLnkTimeTrim (arg a 0) (arg a 1) }
  | 0x0E => some { widths := [3], body := fun a _ => bodyLnkSlots (arg a 0) }
  | 0x0F => some { widths := [3, 3, 4, 16], body := fun a _ => bodyLnkFecInject (arg a 0) (arg a 1) (arg a 2) (arg a 3) }
  | 0x10 => some { widths := [6, 16], body := fun a _ => bodyLnkLaneLimit (arg a 0) (arg a 1) }
  | _ => none

/-- The PIN commands by verb (Table MBX-18). -/
def pinCmd : Nat → Option Cmd
  | 0x01 => some { widths := [5, 48, 64], body := fun a _ => bodyPinConfig (arg a 0) (arg a 1) (arg a 2) }
  | 0x02 => some { widths := [5, 48, 1], body := fun a _ => bodyPinStatus (arg a 0) (arg a 1) (arg a 2) }
  | 0x03 => some { widths := [5, 48], body := fun a _ => bodyPinClear (arg a 0) (arg a 1) }
  | 0x04 => some { widths := [1152, 8, 1], body := fun a _ => bodyPinProbe (arg a 0) (arg a 1) (arg a 2) }
  | 0x05 => some { widths := [5, 48], body := fun a _ => bodyPinPolarity (arg a 0) (arg a 1) }
  | 0x06 => some { widths := [5], body := fun a _ => bodyPinBank (arg a 0) }
  | _ => none

/-- The DSP commands by verb (Table MBX-18). -/
def dspCmd : Nat → Option Cmd
  | 0x01 => some { widths := [], body := fun _ _ => bodyDspStatus }
  | 0x02 => some { widths := [8, 8, 8, 5], body := fun a _ => bodyDspConfig (arg a 0) (arg a 1) (arg a 2) (arg a 3) }
  | 0x03 => some { widths := [8, 11, 13, 1], body := fun a _ => bodyDspEngineSet (arg a 0) (arg a 1) (arg a 2) (arg a 3) }
  | 0x04 => some { widths := [5, 256], body := fun a _ => bodyDspGroupSet (arg a 0) (arg a 1) }
  | 0x05 => some { widths := [6, 11, 1, 1], body := fun a _ => bodyDspSourceSet (arg a 0) (arg a 1) (arg a 2) (arg a 3) }
  | 0x06 => some { widths := [32, 5], body := fun a _ => bodyDspFlowSet (arg a 0) (arg a 1) }
  | 0x07 => some { widths := [32], body := fun a _ => bodyDspFlowGet (arg a 0) }
  | 0x08 => some { widths := [32], body := fun a _ => bodyDspFlowRelease (arg a 0) }
  | 0x09 => some { widths := [32], body := fun a _ => bodyDspFlowClear (arg a 0) }
  | 0x0A => some { widths := [], body := fun _ _ => bodyDspFlush }
  | _ => none

/-- The NOC commands by verb (Table MBX-18). -/
def nocCmd : Nat → Option Cmd
  | 0x01 => some { widths := [], body := fun _ _ => bodyNocStatus }
  | 0x02 => some { widths := [8, 20], body := fun a _ => bodyNocTimeout (arg a 0) (arg a 1) }
  | 0x03 => some
    { widths := [6, 4, 4, 4, 4], body := fun a _ =>
        bodyNocRouterCfg (arg a 0) (arg a 1) (arg a 2) (arg a 3) (arg a 4) }
  | 0x04 => some { widths := [8, 1], body := fun a _ => bodyNocCounters (arg a 0) (flag a 1) }
  | _ => none

/-- The TST commands by verb (Table MBX-18). -/
def tstCmd : Nat → Option Cmd
  | 0x01 => some { widths := [], body := fun _ _ => bodyTstStatus }
  | 0x02 => some { widths := [32, 3], body := fun a _ => bodyTstRegion (arg a 0) (arg a 1) }
  | 0x03 => some { widths := [11, 11], body := fun a _ => bodyTstMemory (arg a 0) (arg a 1) }
  | 0x04 => some { widths := [2, 5], body := fun a _ => bodyTstAnalog (arg a 0) (arg a 1) }
  | _ => none

/-- The RPR commands by verb (Table MBX-18). -/
def rprCmd : Nat → Option Cmd
  | 0x01 => some { widths := [], body := fun _ _ => bodyRprStatus }
  | 0x02 => some { widths := [12, 8], body := fun a _ => bodyRprMap (arg a 0) (arg a 1) }
  | 0x03 => some { widths := [1, 5, 1], body := fun a _ => bodyRprSkip (flag a 0) (arg a 1) (flag a 2) }
  | 0x04 => some { widths := [64, 1], body := fun a _ => bodyRprRetire (BitVec.ofNat 64 (arg a 0)) (flag a 1) }
  | 0x05 => some { widths := [2, 8, 13], body := fun a _ => bodyRprRecord (arg a 0) (arg a 1) (arg a 2) }
  | _ => none

/-- The SEC commands by verb (Table MBX-18). -/
def secCmd : Nat → Option Cmd
  | 0x01 => some { widths := [], body := fun _ _ => bodySecStatus }
  | 0x02 => some { widths := [384], body := fun a _ => bodySecCert (arg a 0) }
  | 0x03 => some
    { widths := [2, 1, 3, 768], record := true, body := fun a r =>
        bodySecKeySet (arg a 0) (arg a 1) (arg a 2) (arg a 3) r }
  | 0x04 => some
    { widths := [3, 1, 3, 384, 768], record := true, body := fun a r =>
        bodySecOwner (arg a 0) (arg a 1) (arg a 2) (arg a 3) (arg a 4) r }
  | 0x05 => some
    { widths := [3, 3, 768], record := true, body := fun a r =>
        bodySecLifecycle (arg a 0) (arg a 1) (arg a 2) r }
  | 0x06 => some { widths := [], body := fun _ _ => bodySecZeroise }
  | _ => none

/-- The TAG commands by verb (Table MBX-18). -/
def tagCmd : Nat → Option Cmd
  | 0x01 => some { widths := [13, 13], body := fun a _ => bodyTagRead (arg a 0) (arg a 1) }
  | 0x02 => some { widths := [13], record := true, body := fun a r => bodyTagWrite (arg a 0) r }
  | 0x03 => some { widths := [8], body := fun a _ => bodyTagLock (arg a 0) }
  | 0x04 => some { widths := [], body := fun _ _ => bodyTagIdentity }
  | _ => none

/-- The LOG commands by verb (Table MBX-18). -/
def logCmd : Nat → Option Cmd
  | 0x01 => some { widths := [32, 8], body := fun a _ => bodyLogEvents (arg a 0) (arg a 1) }
  | 0x02 => some { widths := [32], body := fun a _ => bodyLogAlertAck (arg a 0) }
  | 0x03 => some { widths := [3], body := fun a _ => bodyLogAlertLevel (arg a 0) }
  | 0x04 => some { widths := [12, 3], body := fun a _ => bodyLogEventRoute (arg a 0) (arg a 1) }
  | 0x05 => some { widths := [1], body := fun a _ => bodyLogCounters (flag a 0) }
  | 0x20 => some { widths := [3, 1], body := fun a _ => bodyLogMemConflict (arg a 0) (flag a 1) }
  | _ => none

/-- The command of a code (Table MBX-18); none where revision 1 defines none. -/
def cmdOf (code : Nat) : Option Cmd :=
  let v := code % 256
  match code / 256 with
  | 0x01 => sysCmd v | 0x02 => cfgCmd v | 0x03 => ctxCmd v | 0x04 => pwrCmd v | 0x05 => clkCmd v | 0x06 => thmCmd v
  | 0x07 => drmCmd v | 0x08 => prtCmd v | 0x09 => lnkCmd v | 0x0A => pinCmd v | 0x0B => dspCmd v | 0x0C => nocCmd v
  | 0x0D => tstCmd v | 0x0E => rprCmd v | 0x0F => secCmd v | 0x10 => tagCmd v | 0x11 => logCmd v
  | _ => none

/-- The body of a command for packed argument bytes; ST_BAD_ARG where they are not its arguments (R453, R454). -/
def bodyOf (k : Cmd) (data : List Byte) : Origin → State → Ans :=
  match unpackArgs k.widths k.record data with
  | some (a, r) => k.body a r
  | none => fun _ s => refuse s .badArg

/-! ## Forwarding (R466, R468) -/

/-- Final events that the mask of a command with one event per unit asks for: regions, domains or ports. The forwarding
Barista keeps its pending record for as many (R469; DEDUCED, log 71). -/
def forwardUnits (q : Request) : Nat :=
  let mask := fun (n : Nat) => max 1 (bitsOf (BitVec.ofNat 96 (natLE (q.args.take n)))).length
  match q.cmd.toNat with
  | 0x0301 | 0x0302 | 0x0303 | 0x0304 | 0x0305 | 0x0306 | 0x0307 | 0x0308 | 0x0D02 => mask 4
  | 0x0402 | 0x0403 | 0x0404 | 0x0405 => mask 12
  | 0x0902 | 0x0908 | 0x0909 => mask 1
  | _ => 1

/-- Sends a request with TARGET along its handle as a MGMT message with TARGET 0; an absent handle, a first hop whose link is
down, and ROM mode refuse it (R444, R466). -/
def forwardReq (q : Request) (s : State) : State :=
  if s.mbx.barista = .rom then answer q .state [] s
  else
    match (if q.target.toNat < 4096 then routeOf s q.target.toNat else none) with
    | none => answer q .badArg [] s
    | some (w, ext) =>
      match firstHop s w ext with
      | none => answer q .noResource [] s
      | some _ =>
        let h := BitVec.ofNat 12 q.target.toNat
        let m : MgmtMsg :=
          { kind := .request, route := w, routeExt := ext, ret := 6, retWords := [], hop := 0, handle := h,
            header := bytesLE 16 (reqHeader q.cmd q.seq q.len q.flags.toNat 0).toNat, payload := q.args }
        let f : Fwd :=
          { org := q.origin, handle := h, units := forwardUnits q, more := q.flags.getLsbD 0, drop := false }
        sendMgmt m { s with mbx := { s.mbx with fwd := s.mbx.fwd ++ [f] } }

/-! ## Parts (R455, R456) -/

/-- Answers a request part that others follow: ST_OK with LEN 0 and its PART number (R455). -/
def answerPart (q : Request) (n : Nat) (s : State) : State :=
  deliver q.channel q.via true
    { cmd := q.cmd, seq := q.seq, status := BitVec.ofNat 8 Status.ok.code, part := n, flags := 0, total := 0, data := [] } s

/-- Returns the next part of a response (R456). -/
def answerRest (q : Request) (r : PartRsp) (s : State) : State :=
  let more := 256 < r.rest.length
  let p : Rsp := { cmd := r.cmd, seq := r.seq, status := r.status, part := r.next,
                   flags := if more then r.flags.toNat + flagMore else r.flags.toNat, total := r.total, data := r.rest.take 256 }
  updChan q.channel (fun ch =>
    { ch with rest := if more then some { r with next := r.next + 1, rest := r.rest.drop 256 } else none })
    (deliver q.channel q.via false p s)

/-- Whether a request asks for the next part of a response (R456). -/
def asksRest (q : Request) (r : PartRsp) : Bool := q.cmd == r.cmd && q.seq == r.seq && q.len == 0 && !q.flags.getLsbD 0

/-! ## Execution (R449) -/

/-- The parts received, with this one, of a request; none where it belongs to another (R455). -/
def joinParts (q : Request) (parts : Option PartReq) : Option PartReq :=
  match parts with
  | none => some { cmd := q.cmd, seq := q.seq, target := q.target, count := 1, args := q.args }
  | some p =>
    if p.cmd = q.cmd ∧ p.seq = q.seq ∧ p.target = q.target then
      some { p with count := p.count + 1, args := p.args ++ q.args }
    else none

/-- Executes a request for this device: its parts, its code, then its policy, arguments and body (R449 to R456). -/
def performLocal (q : Request) (p : PartReq) (s : State) : State :=
  if 16 < p.count ∨ 4096 < p.args.length then answer q .badArg [] s
  else if q.flags.getLsbD 0 then
    answerPart q (p.count - 1) (updChan q.channel (fun ch => { ch with parts := some p }) s)
  else
    match cmdOf q.cmd.toNat with
    | none => answer q .badCmd [] s
    | some k => perform q (bodyOf k p.args) s

/-- Executes, forwards or refuses a request that has been taken, whose form is given (R454 to R456, R465 to R467). -/
def performReq (q : Request) (form : Bool) (s : State) : State :=
  let ch := chanOf s q.channel
  let s1 := updChan q.channel Chan.noParts s
  if form = false ∨ 4 ≤ q.flags.toNat ∨ (q.target ≠ 0 ∧ 14 ≤ q.channel) then answer q .badArg [] s1
  else
    match joinParts q ch.parts with
    | none => answer q .badArg [] s1
    | some p =>
      if q.target ≠ 0 then forwardReq q s1
      else if 256 < q.len then answer q .badArg [] s1
      else if q.flags.getLsbD 1 then
        match ch.rest with
        | some r => if asksRest q r then answerRest q r s1 else answer q .badArg [] s1
        | none => answer q .badArg [] s1
      else performLocal q p s1

/-- BARISTA_EXECUTE (R449): the first complete request whose channel can be served. -/
def execBaristaExecute (s : State) : Host.Outcome State Fault Refusal :=
  if s.mbx.barista = .serving ∨ s.mbx.barista = .rom then
    match s.mbx.order.find? (canExecute s) with
    | none => .next s
    | some c =>
      match takeReq c s with
      | some (q, form, s1) => .next (performReq q form (dropOrder c s1))
      | none => .next (dropOrder c s)
  else .next s

end Sys2Proof.Machine
end

