-- ==== Sys2Proof/Machine/Dispatch.lean ====
section
/-! DEFINITION. The meaning of every command: one arm per constructor of Instr. -/

namespace Sys2Proof.Machine

/-- The effect of a command on everything but the queue. -/
def exec (i : Instr) (s : State) : Host.Outcome State Fault Refusal :=
  match i with
  | .pwrGoodRise => Sys2Proof.Machine.execPwrGoodRise s
  | .powerCycle => Sys2Proof.Machine.execPowerCycle s
  | .resetNAssert => Sys2Proof.Machine.execResetNAssert s
  | .resetNRelease mode fails flashA flashB dimms trainFail pprRefused => Sys2Proof.Machine.execResetNRelease mode fails flashA flashB dimms trainFail pprRefused s
  | .pllLock group ref mismatch => Sys2Proof.Machine.execPllLock group ref mismatch s
  | .refMonitorWindow edges => Sys2Proof.Machine.execRefMonitorWindow edges s
  | .bistRoundDone fails excursion => Sys2Proof.Machine.execBistRoundDone fails excursion s
  | .valignStart => Sys2Proof.Machine.execValignStart s
  | .valignDone crossings phi phi2 => Sys2Proof.Machine.execValignDone crossings phi phi2 s
  | .valignTrackStep upper up => Sys2Proof.Machine.execValignTrackStep upper up s
  | .valignLost upper phase => Sys2Proof.Machine.execValignLost upper phase s
  | .fabricClockLost cause => Sys2Proof.Machine.execFabricClockLost cause s
  | .bootLoadStart dir => Sys2Proof.Machine.execBootLoadStart dir s
  | .loadImageHeader h => Sys2Proof.Machine.execLoadImageHeader h s
  | .loadFrameReceived x => Sys2Proof.Machine.execLoadFrameReceived x s
  | .loadImageEnd digest tagOk => Sys2Proof.Machine.execLoadImageEnd digest tagOk s
  | .bootLoadComplete => Sys2Proof.Machine.execBootLoadComplete s
  | .cfgWsWptrWrite src value => Sys2Proof.Machine.execCfgWsWptrWrite src value s
  | .jtagCfgStream bits => Sys2Proof.Machine.execJtagCfgStream bits s
  | .jtagMbxAccess dr => Sys2Proof.Machine.execJtagMbxAccess dr s
  | .jtagTagAccess dr => Sys2Proof.Machine.execJtagTagAccess dr s
  | .jtagScanBase => Sys2Proof.Machine.execJtagScanBase s
  | .jtagBoundaryScan inst => Sys2Proof.Machine.execJtagBoundaryScan inst s
  | .stagingShareGrant chans => Sys2Proof.Machine.execStagingShareGrant chans s
  | .stagingDone region obs => Sys2Proof.Machine.execStagingDone region obs s
  | .readbackDone => Sys2Proof.Machine.execReadbackDone s
  | .scrubFrameCheck goldenUe mapUe vote => Sys2Proof.Machine.execScrubFrameCheck goldenUe mapUe vote s
  | .scrubPassEnd us => Sys2Proof.Machine.execScrubPassEnd us s
  | .scrubStallTimeout => Sys2Proof.Machine.execScrubStallTimeout s
  | .storePatrolRead region context tile frame corrected uncorrectable => Sys2Proof.Machine.execStorePatrolRead region context tile frame corrected uncorrectable s
  | .regionResetEnd region => Sys2Proof.Machine.execRegionResetEnd region s
  | .regionCtlSwitchRequest region slot init => Sys2Proof.Machine.execRegionCtlSwitchRequest region slot init s
  | .regionCtlSwitchEffect region => Sys2Proof.Machine.execRegionCtlSwitchEffect region s
  | .windowBoundary => Sys2Proof.Machine.execWindowBoundary s
  | .carryoverParity layer column row group upset => Sys2Proof.Machine.execCarryoverParity layer column row group upset s
  | .tsvGroupSuspect g => Sys2Proof.Machine.execTsvGroupSuspect g s
  | .tsvSwapDone g failed => Sys2Proof.Machine.execTsvSwapDone g failed s
  | .tsvWalkTest g failed => Sys2Proof.Machine.execTsvWalkTest g failed s
  | .portNop p block => Sys2Proof.Machine.execPortNop p block s
  | .portRead p block addr u => Sys2Proof.Machine.execPortRead p block addr u s
  | .portWrite p block addr data => Sys2Proof.Machine.execPortWrite p block addr data s
  | .portEnq p block data arg => Sys2Proof.Machine.execPortEnq p block data arg s
  | .portDeq p block u => Sys2Proof.Machine.execPortDeq p block u s
  | .portPeek p block u => Sys2Proof.Machine.execPortPeek p block u s
  | .portReturn p block arg => Sys2Proof.Machine.execPortReturn p block arg s
  | .queueEntryVisible block => Sys2Proof.Machine.execQueueEntryVisible block s
  | .nocBlockRequest src tag => Sys2Proof.Machine.execNocBlockRequest src tag s
  | .portNCycle block u => Sys2Proof.Machine.execPortNCycle block u s
  | .patrolRead block u => Sys2Proof.Machine.execPatrolRead block u s
  | .patrolWriteback block => Sys2Proof.Machine.execPatrolWriteback block s
  | .memColumn block group column => Sys2Proof.Machine.execMemColumn block group column s
  | .sectorClearDone sector => Sys2Proof.Machine.execSectorClearDone sector s
  | .memInitDone crcOk reached words => Sys2Proof.Machine.execMemInitDone crcOk reached words s
  | .qctlCreditReturnWrite src block value => Sys2Proof.Machine.execQctlCreditReturnWrite src block value s
  | .memCselWrite src sector k value => Sys2Proof.Machine.execMemCselWrite src sector k value s
  | .memCctlClear src sector value => Sys2Proof.Machine.execMemCctlClear src sector value s
  | .registerWrite w addr value => Sys2Proof.Machine.execRegisterWrite w addr value s
  | .nocRequestIssue q => Sys2Proof.Machine.execNocRequestIssue q s
  | .nocResponseDelivered src tag => Sys2Proof.Machine.execNocResponseDelivered src tag s
  | .nocRequestTimeout src tag => Sys2Proof.Machine.execNocRequestTimeout src tag s
  | .nocPortReqPush port word last => Sys2Proof.Machine.execNocPortReqPush port word last s
  | .nocPortRspPop port => Sys2Proof.Machine.execNocPortRspPop port s
  | .schedWordSend port word valid => Sys2Proof.Machine.execSchedWordSend port word valid s
  | .schedWordDeliver port => Sys2Proof.Machine.execSchedWordDeliver port s
  | .routerReconfigDone router empty => Sys2Proof.Machine.execRouterReconfigDone router empty s
  | .nocRouterFailed router => Sys2Proof.Machine.execNocRouterFailed router s
  | .tampComplete domain => Sys2Proof.Machine.execTampComplete domain s
  | .domainPowerUpDone domain => Sys2Proof.Machine.execDomainPowerUpDone domain s
  | .domainPowerDownDone domain => Sys2Proof.Machine.execDomainPowerDownDone domain s
  | .baseWarmReset => Sys2Proof.Machine.execBaseWarmReset s
  | .pcieHotReset => Sys2Proof.Machine.execPcieHotReset s
  | .pf0FunctionReset => Sys2Proof.Machine.execPf0FunctionReset s
  | .pf1FunctionReset => Sys2Proof.Machine.execPf1FunctionReset s
  | .deepIdleEnter => Sys2Proof.Machine.execDeepIdleEnter s
  | .wakeEvent src => Sys2Proof.Machine.execWakeEvent src s
  | .wakeDone => Sys2Proof.Machine.execWakeDone s
  | .sensorSample readings => Sys2Proof.Machine.execSensorSample readings s
  | .thermalClear throttle => Sys2Proof.Machine.execThermalClear throttle s
  | .privilegedTrip sensor temp => Sys2Proof.Machine.execPrivilegedTrip sensor temp s
  | .privilegedRestart => Sys2Proof.Machine.execPrivilegedRestart s
  | .compensationStep item => Sys2Proof.Machine.execCompensationStep item s
  | .tamper cause ongoing => Sys2Proof.Machine.execTamper cause ongoing s
  | .bootKeyRedraw => Sys2Proof.Machine.execBootKeyRedraw s
  | .trngHealthFail => Sys2Proof.Machine.execTrngHealthFail s
  | .trngOutputTimeout => Sys2Proof.Machine.execTrngOutputTimeout s
  | .drbgReseed => Sys2Proof.Machine.execDrbgReseed s
  | .vaultAccess src tag => Sys2Proof.Machine.execVaultAccess src tag s
  | .vaultWipeDone => Sys2Proof.Machine.execVaultWipeDone s
  | .dramRequest src tag find => Sys2Proof.Machine.execDramRequest src tag find s
  | .conversionPage ir => Sys2Proof.Machine.execConversionPage ir s
  | .irSetDone ir => Sys2Proof.Machine.execIrSetDone ir s
  | .dramServe channel sub u nrr => Sys2Proof.Machine.execDramServe channel sub u nrr s
  | .agePromotion channel sub pick => Sys2Proof.Machine.execAgePromotion channel sub pick s
  | .refreshTimer channel sub => Sys2Proof.Machine.execRefreshTimer channel sub s
  | .periodicRetrain channel ok => Sys2Proof.Machine.execPeriodicRetrain channel ok s
  | .setpointSwitchStart => Sys2Proof.Machine.execSetpointSwitchStart s
  | .setpointSwitchDone channel ok => Sys2Proof.Machine.execSetpointSwitchDone channel ok s
  | .softRepairDone channel => Sys2Proof.Machine.execSoftRepairDone channel s
  | .dramChannelFailed channel cause => Sys2Proof.Machine.execDramChannelFailed channel cause s
  | .dmaStopDone => Sys2Proof.Machine.execDmaStopDone s
  | .linkDetectStep port clk lanes => Sys2Proof.Machine.execLinkDetectStep port clk lanes s
  | .linkTrainingStepDone port obs => Sys2Proof.Machine.execLinkTrainingStepDone port obs s
  | .linkStepTimeout port => Sys2Proof.Machine.execLinkStepTimeout port s
  | .linkRetryTimer port => Sys2Proof.Machine.execLinkRetryTimer port s
  | .linkUp port => Sys2Proof.Machine.execLinkUp port s
  | .linkFrameReceived port hdr flits bad corrected tagFail => Sys2Proof.Machine.execLinkFrameReceived port hdr flits bad corrected tagFail s
  | .beaconSend => Sys2Proof.Machine.execBeaconSend s
  | .beaconReceived port time frac arriveFrac => Sys2Proof.Machine.execBeaconReceived port time frac arriveFrac s
  | .spareRequest port lane => Sys2Proof.Machine.execSpareRequest port lane s
  | .widthRequest port code mask => Sys2Proof.Machine.execWidthRequest port code mask s
  | .linkAcknowledge port frame => Sys2Proof.Machine.execLinkAcknowledge port frame s
  | .delayMeasurementRequest port stamp turnaround => Sys2Proof.Machine.execDelayMeasurementRequest port stamp turnaround s
  | .delayMeasurementReply port stamp now => Sys2Proof.Machine.execDelayMeasurementReply port stamp now s
  | .poisonNotice port poisoned => Sys2Proof.Machine.execPoisonNotice port poisoned s
  | .capabilityWord port c => Sys2Proof.Machine.execCapabilityWord port c s
  | .laneFailed port lane => Sys2Proof.Machine.execLaneFailed port lane s
  | .laneMapSwitch port rx => Sys2Proof.Machine.execLaneMapSwitch port rx s
  | .spareLaneCheck port errors => Sys2Proof.Machine.execSpareLaneCheck port errors s
  | .upstreamClockLost => Sys2Proof.Machine.execUpstreamClockLost s
  | .clockLossRetrain => Sys2Proof.Machine.execClockLossRetrain s
  | .txnRequestReceived port => Sys2Proof.Machine.execTxnRequestReceived port s
  | .txnResponseReceived port => Sys2Proof.Machine.execTxnResponseReceived port s
  | .mgmtMessageReceived port => Sys2Proof.Machine.execMgmtMessageReceived port s
  | .mgmtEventMessage port => Sys2Proof.Machine.execMgmtEventMessage port s
  | .forwardTimeout => Sys2Proof.Machine.execForwardTimeout s
  | .dspTokenWrite src tag => Sys2Proof.Machine.execDspTokenWrite src tag s
  | .dspDoneWrite src tag => Sys2Proof.Machine.execDspDoneWrite src tag s
  | .dspSourceDequeue => Sys2Proof.Machine.execDspSourceDequeue s
  | .dspCreate => Sys2Proof.Machine.execDspCreate s
  | .dspOperand => Sys2Proof.Machine.execDspOperand s
  | .dspDone => Sys2Proof.Machine.execDspDone s
  | .dspDispatch bad => Sys2Proof.Machine.execDspDispatch bad s
  | .dspGroupWrite engine => Sys2Proof.Machine.execDspGroupWrite engine s
  | .pinEdge pin rise tick coin => Sys2Proof.Machine.execPinEdge pin rise tick coin s
  | .pinOutputLaunch pin d oe ofs => Sys2Proof.Machine.execPinOutputLaunch pin d oe ofs s
  | .pinEventPop pin => Sys2Proof.Machine.execPinEventPop pin s
  | .pinWindowOpen pin start len => Sys2Proof.Machine.execPinWindowOpen pin start len s
  | .pinWindowResult pin => Sys2Proof.Machine.execPinWindowResult pin s
  | .bankLevelMeasure bank mv => Sys2Proof.Machine.execBankLevelMeasure bank mv s
  | .bankPowerRecover bank levels => Sys2Proof.Machine.execBankPowerRecover bank levels s
  | .pinShort pin level => Sys2Proof.Machine.execPinShort pin level s
  | .pinOvervoltage pin level => Sys2Proof.Machine.execPinOvervoltage pin level s
  | .pinProbePhase above90 below10 => Sys2Proof.Machine.execPinProbePhase above90 below10 s
  | .pinPolarityCheck pin steady level => Sys2Proof.Machine.execPinPolarityCheck pin steady level s
  | .mbxRing channel => Sys2Proof.Machine.execMbxRing channel s
  | .mbxAck channel => Sys2Proof.Machine.execMbxAck channel s
  | .mbxClear channel => Sys2Proof.Machine.execMbxClear channel s
  | .mbxReqPush channel word last => Sys2Proof.Machine.execMbxReqPush channel word last s
  | .mbxRspPop channel => Sys2Proof.Machine.execMbxRspPop channel s
  | .smbusPointerWrite value pecOk => Sys2Proof.Machine.execSmbusPointerWrite value pecOk s
  | .smbusBlockWrite bytes pecOk => Sys2Proof.Machine.execSmbusBlockWrite bytes pecOk s
  | .smbusBlockRead => Sys2Proof.Machine.execSmbusBlockRead s
  | .smbusArp assign => Sys2Proof.Machine.execSmbusArp assign s
  | .baristaExecute => Sys2Proof.Machine.execBaristaExecute s
  | .evtRingEnable value => Sys2Proof.Machine.execEvtRingEnable value s
  | .evtRingTailWrite value => Sys2Proof.Machine.execEvtRingTailWrite value s
  | .evtAlertAckWrite value => Sys2Proof.Machine.execEvtAlertAckWrite value s
  | .lockstepMismatch => Sys2Proof.Machine.execLockstepMismatch s
  | .lockstepRestartDone codeOk third flashA flashB => Sys2Proof.Machine.execLockstepRestartDone codeOk third flashA flashB s
  | .fwTrialTimeout => Sys2Proof.Machine.execFwTrialTimeout s
  | .regionTestDone region fails excursion => Sys2Proof.Machine.execRegionTestDone region fails excursion s
  | .memoryTestDone fails => Sys2Proof.Machine.execMemoryTestDone fails s
  | .analogTestDone ok => Sys2Proof.Machine.execAnalogTestDone ok s
  | .skipChangeDone crossings => Sys2Proof.Machine.execSkipChangeDone crossings s
  | .repairRecordWrite => Sys2Proof.Machine.execRepairRecordWrite s
  | .tagWriteDone => Sys2Proof.Machine.execTagWriteDone s
  | .lifecycleDone => Sys2Proof.Machine.execLifecycleDone s
  | .sysHello r rev => Sys2Proof.Machine.execSysHello r rev s
  | .sysVersion r => Sys2Proof.Machine.execSysVersion r s
  | .sysFwLoad r addr length => Sys2Proof.Machine.execSysFwLoad r addr length s
  | .sysFwUpdate r addr length => Sys2Proof.Machine.execSysFwUpdate r addr length s
  | .sysFwActivate r slot => Sys2Proof.Machine.execSysFwActivate r slot s
  | .sysFwStatus r => Sys2Proof.Machine.execSysFwStatus r s
  | .sysRestart r => Sys2Proof.Machine.execSysRestart r s
  | .sysChannelPolicy r channel mask => Sys2Proof.Machine.execSysChannelPolicy r channel mask s
  | .sysFwdTimeout r ms => Sys2Proof.Machine.execSysFwdTimeout r ms s
  | .cfgLoad r source offset => Sys2Proof.Machine.execCfgLoad r source offset s
  | .cfgStatus r => Sys2Proof.Machine.execCfgStatus r s
  | .cfgList r region => Sys2Proof.Machine.execCfgList r region s
  | .cfgDelete r mask context => Sys2Proof.Machine.execCfgDelete r mask context s
  | .cfgReadback r region source number tile frame count wsOffset => Sys2Proof.Machine.execCfgReadback r region source number tile frame count wsOffset s
  | .cfgScrubStatus r => Sys2Proof.Machine.execCfgScrubStatus r s
  | .cfgMemInit r image => Sys2Proof.Machine.execCfgMemInit r image s
  | .cfgMemMode r block mode capLog2 creditInit patrolEn => Sys2Proof.Machine.execCfgMemMode r block mode capLog2 creditInit patrolEn s
  | .cfgMemStatus r block => Sys2Proof.Machine.execCfgMemStatus r block s
  | .ctxStage r mask context slot fast => Sys2Proof.Machine.execCtxStage r mask context slot fast s
  | .ctxSwitch r mask slot init at_ => Sys2Proof.Machine.execCtxSwitch r mask slot init at_ s
  | .ctxStart r mask slot init at_ => Sys2Proof.Machine.execCtxStart r mask slot init at_ s
  | .ctxHold r mask at_ => Sys2Proof.Machine.execCtxHold r mask at_ s
  | .ctxResume r mask at_ => Sys2Proof.Machine.execCtxResume r mask at_ s
  | .ctxStop r mask at_ => Sys2Proof.Machine.execCtxStop r mask at_ s
  | .ctxReset r mask at_ => Sys2Proof.Machine.execCtxReset r mask at_ s
  | .ctxClear r mask => Sys2Proof.Machine.execCtxClear r mask s
  | .ctxEvict r mask slot => Sys2Proof.Machine.execCtxEvict r mask slot s
  | .ctxStatus r mask => Sys2Proof.Machine.execCtxStatus r mask s
  | .ctxWindow r p => Sys2Proof.Machine.execCtxWindow r p s
  | .pwrStatus r mask => Sys2Proof.Machine.execPwrStatus r mask s
  | .pwrOn r mask => Sys2Proof.Machine.execPwrOn r mask s
  | .pwrOff r mask => Sys2Proof.Machine.execPwrOff r mask s
  | .pwrTamp r mask => Sys2Proof.Machine.execPwrTamp r mask s
  | .pwrRetain r mask => Sys2Proof.Machine.execPwrRetain r mask s
  | .pwrWakeCfg r sources portMask deepEn wakeSet pinSet => Sys2Proof.Machine.execPwrWakeCfg r sources portMask deepEn wakeSet pinSet s
  | .pwrBaseReset r => Sys2Proof.Machine.execPwrBaseReset r s
  | .clkStatus r => Sys2Proof.Machine.execClkStatus r s
  | .clkFabric r m => Sys2Proof.Machine.execClkFabric r m s
  | .clkAux r output n start enable => Sys2Proof.Machine.execClkAux r output n start enable s
  | .thmStatus r => Sys2Proof.Machine.execThmStatus r s
  | .thmSensors r first count => Sys2Proof.Machine.execThmSensors r first count s
  | .thmLimits r warn throttle => Sys2Proof.Machine.execThmLimits r warn throttle s
  | .drmStatus r mask => Sys2Proof.Machine.execDrmStatus r mask s
  | .drmSetpoint r setpoint => Sys2Proof.Machine.execDrmSetpoint r setpoint s
  | .drmSetpointCfg r setpoint speed => Sys2Proof.Machine.execDrmSetpointCfg r setpoint speed s
  | .drmQos r cls ageNs => Sys2Proof.Machine.execDrmQos r cls ageNs s
  | .drmNrr r mask exp => Sys2Proof.Machine.execDrmNrr r mask exp s
  | .drmPpr r channel sub dimm rank cid bg ba row => Sys2Proof.Machine.execDrmPpr r channel sub dimm rank cid bg ba row s
  | .drmPprAuto r mask enable => Sys2Proof.Machine.execDrmPprAuto r mask enable s
  | .drmExclude r mask => Sys2Proof.Machine.execDrmExclude r mask s
  | .drmInclude r mask => Sys2Proof.Machine.execDrmInclude r mask s
  | .drmTrainExport r channel setpoint => Sys2Proof.Machine.execDrmTrainExport r channel setpoint s
  | .drmTrainImport r channel setpoint record => Sys2Proof.Machine.execDrmTrainImport r channel setpoint record s
  | .drmDmaStop r mask => Sys2Proof.Machine.execDrmDmaStop r mask s
  | .drmErrlog r channel => Sys2Proof.Machine.execDrmErrlog r channel s
  | .prtStatus r => Sys2Proof.Machine.execPrtStatus r s
  | .prtCapacity r pGib => Sys2Proof.Machine.execPrtCapacity r pGib s
  | .prtIrSet r ir enable baseGib sizeLog2 => Sys2Proof.Machine.execPrtIrSet r ir enable baseGib sizeLog2 s
  | .prtReinit r ir base pages => Sys2Proof.Machine.execPrtReinit r ir base pages s
  | .prtRangeSet r range base limit enable lock => Sys2Proof.Machine.execPrtRangeSet r range base limit enable lock s
  | .prtPriv r mask => Sys2Proof.Machine.execPrtPriv r mask s
  | .lnkStatus r mask => Sys2Proof.Machine.execLnkStatus r mask s
  | .lnkUp r mask encrypt => Sys2Proof.Machine.execLnkUp r mask encrypt s
  | .lnkDown r mask => Sys2Proof.Machine.execLnkDown r mask s
  | .lnkRole r member => Sys2Proof.Machine.execLnkRole r member s
  | .lnkRouteSet r handle route next => Sys2Proof.Machine.execLnkRouteSet r handle route next s
  | .lnkRouteGet r handle => Sys2Proof.Machine.execLnkRouteGet r handle s
  | .lnkCwinSet r window handle base writeEn atomicEn => Sys2Proof.Machine.execLnkCwinSet r window handle base writeEn atomicEn s
  | .lnkReset r mask => Sys2Proof.Machine.execLnkReset r mask s
  | .lnkWiden r mask => Sys2Proof.Machine.execLnkWiden r mask s
  | .lnkTest r port laneMask pattern pam2 user injectMode e b => Sys2Proof.Machine.execLnkTest r port laneMask pattern pam2 user injectMode e b s
  | .lnkTestResult r port => Sys2Proof.Machine.execLnkTestResult r port s
  | .lnkTime r => Sys2Proof.Machine.execLnkTime r s
  | .lnkTimeTrim r port asymPs => Sys2Proof.Machine.execLnkTimeTrim r port asymPs s
  | .lnkSlots r port => Sys2Proof.Machine.execLnkSlots r port s
  | .lnkFecInject r port lane s_ m => Sys2Proof.Machine.execLnkFecInject r port lane s_ m s
  | .lnkLaneLimit r mask limit => Sys2Proof.Machine.execLnkLaneLimit r mask limit s
  | .pinConfig r bank mask cfg => Sys2Proof.Machine.execPinConfig r bank mask cfg s
  | .pinStatus r bank mask clear => Sys2Proof.Machine.execPinStatus r bank mask clear s
  | .pinClear r bank mask => Sys2Proof.Machine.execPinClear r bank mask s
  | .pinProbe r pinSet phaseUs expect => Sys2Proof.Machine.execPinProbe r pinSet phaseUs expect s
  | .pinPolarity r bank mask => Sys2Proof.Machine.execPinPolarity r bank mask s
  | .pinBank r bank => Sys2Proof.Machine.execPinBank r bank s
  | .dspStatus r => Sys2Proof.Machine.execDspStatus r s
  | .dspConfig r t0 t1 t2 defaultGroup => Sys2Proof.Machine.execDspConfig r t0 t1 t2 defaultGroup s
  | .dspEngineSet r engine block thresh enable => Sys2Proof.Machine.execDspEngineSet r engine block thresh enable s
  | .dspGroupSet r group mask => Sys2Proof.Machine.execDspGroupSet r group mask s
  | .dspSourceSet r source block role enable => Sys2Proof.Machine.execDspSourceSet r source block role enable s
  | .dspFlowSet r flow group => Sys2Proof.Machine.execDspFlowSet r flow group s
  | .dspFlowGet r flow => Sys2Proof.Machine.execDspFlowGet r flow s
  | .dspFlowRelease r flow => Sys2Proof.Machine.execDspFlowRelease r flow s
  | .dspFlowClear r flow => Sys2Proof.Machine.execDspFlowClear r flow s
  | .dspFlush r => Sys2Proof.Machine.execDspFlush r s
  | .nocStatus r => Sys2Proof.Machine.execNocStatus r s
  | .nocTimeout r source us => Sys2Proof.Machine.execNocTimeout r source us s
  | .nocRouterCfg r router rt hi norm bulk => Sys2Proof.Machine.execNocRouterCfg r router rt hi norm bulk s
  | .nocCounters r source clear => Sys2Proof.Machine.execNocCounters r source clear s
  | .tstStatus r => Sys2Proof.Machine.execTstStatus r s
  | .tstRegion r mask parallel => Sys2Proof.Machine.execTstRegion r mask parallel s
  | .tstMemory r block count => Sys2Proof.Machine.execTstMemory r block count s
  | .tstAnalog r unit index => Sys2Proof.Machine.execTstAnalog r unit index s
  | .rprStatus r => Sys2Proof.Machine.execRprStatus r s
  | .rprMap r first count => Sys2Proof.Machine.execRprMap r first count s
  | .rprSkip r layer s_ when_ => Sys2Proof.Machine.execRprSkip r layer s_ when_ s
  | .rprRetire r entry action => Sys2Proof.Machine.execRprRetire r entry action s
  | .rprRecord r action value offset => Sys2Proof.Machine.execRprRecord r action value offset s
  | .secStatus r => Sys2Proof.Machine.execSecStatus r s
  | .secCert r nonce => Sys2Proof.Machine.execSecCert r nonce s
  | .secKeySet r slot action keyIndex sig record => Sys2Proof.Machine.execSecKeySet r slot action keyIndex sig record s
  | .secOwner r slot action keyIndex digest sig record => Sys2Proof.Machine.execSecOwner r slot action keyIndex digest sig record s
  | .secLifecycle r target keyIndex sig record => Sys2Proof.Machine.execSecLifecycle r target keyIndex sig record s
  | .secZeroise r => Sys2Proof.Machine.execSecZeroise r s
  | .tagRead r offset length => Sys2Proof.Machine.execTagRead r offset length s
  | .tagWrite r offset record => Sys2Proof.Machine.execTagWrite r offset record s
  | .tagLock r mask => Sys2Proof.Machine.execTagLock r mask s
  | .tagIdentity r => Sys2Proof.Machine.execTagIdentity r s
  | .logEvents r from_ count => Sys2Proof.Machine.execLogEvents r from_ count s
  | .logAlertAck r number => Sys2Proof.Machine.execLogAlertAck r number s
  | .logAlertLevel r level => Sys2Proof.Machine.execLogAlertLevel r level s
  | .logEventRoute r handle minSeverity => Sys2Proof.Machine.execLogEventRoute r handle minSeverity s
  | .logCounters r clear => Sys2Proof.Machine.execLogCounters r clear s
  | .logMemConflict r sector clear => Sys2Proof.Machine.execLogMemConflict r sector clear s
  | .fabricClockCycle => Sys2Proof.Machine.execFabricClockCycle s
  | .configurationUpset region slot tile frame bit => Sys2Proof.Machine.execConfigurationUpset region slot tile frame bit s
  | .bondPadFailure layer column row cluster wire => Sys2Proof.Machine.execBondPadFailure layer column row cluster wire s
  | .mgmtResponseReceived port => Sys2Proof.Machine.execMgmtResponseReceived port s
  | .timedOutTagFree src tag => Sys2Proof.Machine.execTimedOutTagFree src tag s
  | .baseWarmResetDone => Sys2Proof.Machine.execBaseWarmResetDone s
  | .widenPrbsCheckDone port good => Sys2Proof.Machine.execWidenPrbsCheckDone port good s
  | .reinitZeroFillDone ir => Sys2Proof.Machine.execReinitZeroFillDone ir s
  | .fwUpdateDone ok => Sys2Proof.Machine.execFwUpdateDone ok s
  | .regionRetentionEntered region => Sys2Proof.Machine.execRegionRetentionEntered region s
  | .supplyOutOfTolerance => Sys2Proof.Machine.execSupplyOutOfTolerance s

end Sys2Proof.Machine
end

