-- ==== Sys2Proof/Safety.lean ====
section
/-! DEFINITION. The terms in which claims are made: the parts of the state and which of them stay as they are, a requester
that is ready and a command that is answered, and the properties that every step keeps. -/

namespace Sys2Proof.Machine

/-! ## Life cycle (Table SEC-3) -/

/-- The transitions of Table SEC-3, by ID_LIFECYCLE code: BLANK to OWNED, OWNED to LOCKED or BLANK, and each of the three
to RETIRED. -/
def legalTransition (old new : BitVec 3) : Bool :=
  (old == 1 && new == 2) || (old == 2 && (new == 3 || new == 1)) || ((old == 1 || old == 2 || old == 3) && new == 4)

/-- A transition in progress is one of Table SEC-3 and starts from the present state. -/
def lifeInv (s : State) : Prop :=
  ∀ org old new, s.sec.pending = some (org, old, new) → old = s.sec.life ∧ legalTransition old new = true

/-! ## Parts and frames -/

/-- The addressed memories in canonical form, with their addresses strictly rising and no entry that an unlisted address
reads as: the configuration workspace, the vault, the tag NVM and the DRAM lines. -/
def memWf (s : State) : Prop :=
  Tab.wf 0 s.load.ws = true ∧ Tab.wf 0 s.sec.vault = true ∧ Tab.wf 0 s.tag.bytes = true ∧ Tab.wf none s.dram.lines = true

/-- The parts of the state. life and trans are the two fields of the security core that Table SEC-3 is about: the
life-cycle state and the transition in progress. chans is the mailbox channels, and barista what ID_BARISTA shows. locked is
the protected ranges whose PR_LOCK is set (R364), and canon the canonical form of the addressed memories, and inv the life-cycle invariant. -/
inductive Part where
  | ext | start | align | clk | pwr | thm | load | scrub | ctx | fab | mem | noc | dram | prt | locked | lnk | dsp | pins
  | mbx | chans | barista | evt | sec | life | trans | tag | free | canon | inv | pending
  deriving DecidableEq, Repr, Inhabited

/-- A part of s is kept in t: it is the same in both; for locked, each locked range is; for canon and inv, the
property holds in t where it holds in s. -/
def Same (s t : State) : Part → Prop
  | .ext => t.ext = s.ext
  | .start => t.start = s.start
  | .align => t.align = s.align
  | .clk => t.clk = s.clk
  | .pwr => t.pwr = s.pwr
  | .thm => t.thm = s.thm
  | .load => t.load = s.load
  | .scrub => t.scrub = s.scrub
  | .ctx => t.ctx = s.ctx
  | .fab => t.fab = s.fab
  | .mem => t.mem = s.mem
  | .noc => t.noc = s.noc
  | .dram => t.dram = s.dram
  | .prt => t.prt = s.prt
  | .locked => ∀ i, (Tab.get {} s.prt.ranges i).lock = true → Tab.get {} t.prt.ranges i = Tab.get {} s.prt.ranges i
  | .lnk => t.lnk = s.lnk
  | .dsp => t.dsp = s.dsp
  | .pins => t.pins = s.pins
  | .mbx => t.mbx = s.mbx
  | .chans => t.mbx.chans = s.mbx.chans
  | .barista => t.mbx.barista = s.mbx.barista
  | .evt => t.evt = s.evt
  | .sec => t.sec = s.sec
  | .life => t.sec.life = s.sec.life
  | .trans => t.sec.pending = s.sec.pending
  | .tag => t.tag = s.tag
  | .free => t.free = s.free
  | .canon => memWf s → memWf t
  | .inv => lifeInv s → lifeInv t
  | .pending => t.pending = s.pending

/-- Every part outside w is kept. -/
structure Frame (w : List Part) (s t : State) : Prop where
  /-- Each part outside w. -/
  same : ∀ p, w.contains p = false → Same s t p

/-! ## What a command may change -/

/-- The parts that a posted event may change: the event and mailbox state, and the messages that leave by a link. -/
def eventParts : List Part := [.lnk, .mbx, .evt]

/-- The parts that the answer to a mailbox command may change; sec for the minimum firmware version, which the first answer
of a firmware on trial may raise (R556). -/
def answerParts : List Part := [.lnk, .mbx, .chans, .evt, .sec]

/-- The parts that a command may change. -/
def writes : Instr → List Part
  | .pwrGoodRise => answerParts ++ [.ext, .start, .align, .clk, .pwr, .thm, .load, .scrub, .ctx, .fab, .mem, .noc, .dram, .prt, .locked, .dsp, .pins, .barista, .trans, .tag, .free]
  | .powerCycle => answerParts ++ [.ext, .start, .align, .clk, .pwr, .thm, .load, .scrub, .ctx, .fab, .mem, .noc, .dram, .prt, .locked, .dsp, .pins, .barista, .life, .trans, .tag, .free]
  | .resetNAssert => answerParts ++ [.ext, .start, .align, .clk, .pwr, .thm, .load, .scrub, .ctx, .fab, .mem, .noc, .dram, .prt, .locked, .dsp, .pins, .barista, .life, .trans, .tag, .free]
  | .resetNRelease _ _ _ _ _ _ _ => answerParts ++ [.ext, .start, .pwr, .load, .ctx, .fab, .mem, .noc, .dram, .prt, .barista, .free]
  | .pllLock _ _ _ => eventParts ++ [.start, .clk, .pwr, .load, .ctx, .fab, .noc, .chans]
  | .refMonitorWindow _ => eventParts ++ [.align, .clk, .ctx, .fab, .pins, .chans]
  | .bistRoundDone _ _ => eventParts ++ [.ext, .start, .pwr, .load, .ctx, .fab, .mem, .noc, .chans]
  | .valignStart => [.start, .align, .fab]
  | .valignDone _ _ _ => eventParts ++ [.start, .align, .clk, .ctx, .fab, .pins, .chans]
  | .valignTrackStep _ _ => [.align]
  | .valignLost _ _ => eventParts ++ [.align, .ctx, .fab, .pins, .chans]
  | .fabricClockLost _ => eventParts ++ [.align, .clk, .ctx, .fab, .pins, .chans]
  | .bootLoadStart _ => eventParts ++ [.ext, .load, .ctx, .fab, .pins, .chans]
  | .loadImageHeader _ => eventParts ++ [.ext, .load, .ctx, .fab, .pins, .chans]
  | .loadFrameReceived _ => [.load]
  | .loadImageEnd _ _ => eventParts ++ [.ext, .load, .ctx, .fab, .mem, .pins, .chans]
  | .bootLoadComplete => eventParts ++ [.ext, .load]
  | .cfgWsWptrWrite _ _ => [.load, .noc]
  | .jtagCfgStream _ => [.load]
  | .jtagMbxAccess _ => eventParts ++ [.chans]
  | .jtagTagAccess _ => [.tag]
  | .jtagScanBase => eventParts ++ [.ext, .start, .prt, .sec, .trans, .tag, .free]
  | .jtagBoundaryScan _ => [.start]
  | .stagingShareGrant _ => eventParts ++ [.ext, .load, .ctx, .fab, .mem, .pins, .chans]
  | .stagingDone _ _ => eventParts ++ [.ext, .load, .ctx, .fab, .mem, .pins, .chans]
  | .readbackDone => eventParts ++ [.load, .ctx]
  | .scrubFrameCheck _ _ _ => eventParts ++ [.load, .scrub, .ctx, .fab, .pins, .chans]
  | .scrubPassEnd _ => [.scrub]
  | .scrubStallTimeout => eventParts ++ [.scrub]
  | .storePatrolRead _ _ _ _ _ _ => eventParts ++ [.load, .scrub]
  | .regionResetEnd _ => [.load, .ctx, .pins]
  | .regionCtlSwitchRequest _ _ _ => eventParts ++ [.load, .ctx, .fab, .pins]
  | .regionCtlSwitchEffect _ => eventParts ++ [.load, .ctx, .fab, .pins]
  | .windowBoundary => eventParts ++ [.load, .ctx, .fab, .pins, .chans]
  | .carryoverParity _ _ _ _ _ => eventParts ++ [.fab]
  | .tsvGroupSuspect _ => eventParts ++ [.start, .ctx, .fab, .pins, .chans]
  | .tsvSwapDone _ _ => eventParts ++ [.start, .load, .ctx, .fab, .pins, .chans]
  | .tsvWalkTest _ _ => eventParts ++ [.start, .ctx, .fab, .pins, .chans]
  | .portNop _ _ => eventParts ++ [.mem]
  | .portRead _ _ _ _ => eventParts ++ [.mem]
  | .portWrite _ _ _ _ => eventParts ++ [.mem]
  | .portEnq _ _ _ _ => eventParts ++ [.mem]
  | .portDeq _ _ _ => eventParts ++ [.mem, .free]
  | .portPeek _ _ _ => eventParts ++ [.mem, .free]
  | .portReturn _ _ _ => eventParts ++ [.mem]
  | .queueEntryVisible _ => [.mem]
  | .nocBlockRequest _ _ => [.mem, .noc]
  | .portNCycle _ _ => eventParts ++ [.mem, .noc, .free]
  | .patrolRead _ _ => eventParts ++ [.mem]
  | .patrolWriteback _ => [.mem]
  | .memColumn _ _ _ => eventParts ++ [.start, .mem]
  | .sectorClearDone _ => eventParts ++ [.mem, .dsp]
  | .memInitDone _ _ _ => eventParts ++ [.ext, .load, .ctx, .fab, .mem, .dsp, .pins, .chans, .free]
  | .qctlCreditReturnWrite _ _ _ => [.mem, .noc]
  | .memCselWrite _ _ _ _ => [.mem, .noc]
  | .memCctlClear _ _ _ => [.mem, .noc]
  | .registerWrite _ _ _ => eventParts ++ [.load, .mem, .noc, .chans]
  | .nocRequestIssue _ => [.load, .noc, .lnk, .evt]
  | .nocResponseDelivered _ _ => [.load, .noc, .lnk, .evt]
  | .nocRequestTimeout _ _ => [.load, .noc, .lnk, .evt]
  | .nocPortReqPush _ _ _ => [.load, .noc, .lnk, .evt]
  | .nocPortRspPop _ => [.load, .noc, .lnk, .evt]
  | .schedWordSend _ _ _ => [.lnk]
  | .schedWordDeliver _ => [.lnk]
  | .routerReconfigDone _ _ => eventParts ++ [.noc]
  | .nocRouterFailed _ => eventParts ++ [.ext, .noc]
  | .tampComplete _ => eventParts ++ [.pwr, .ctx, .fab, .noc, .dram, .pins, .chans]
  | .domainPowerUpDone _ => answerParts ++ [.pwr, .scrub, .ctx, .mem, .dram, .prt, .free]
  | .domainPowerDownDone _ => eventParts ++ [.start, .align, .clk, .pwr, .load, .ctx, .fab, .mem, .prt, .dsp, .pins, .sec, .free]
  | .baseWarmReset => answerParts ++ [.pwr, .load, .ctx, .mem, .noc, .dram, .dsp]
  | .pcieHotReset => answerParts ++ [.pwr, .load, .ctx, .mem, .noc, .dram, .dsp]
  | .pf0FunctionReset => [.mbx, .chans, .evt, .sec]
  | .pf1FunctionReset => [.noc]
  | .deepIdleEnter => [.align, .clk, .pwr, .lnk]
  | .wakeEvent _ => eventParts ++ [.pwr, .mem]
  | .wakeDone => eventParts ++ [.pwr]
  | .sensorSample _ => answerParts ++ [.ext, .start, .align, .clk, .pwr, .thm, .load, .ctx, .fab, .mem, .noc, .dram, .prt, .dsp, .pins, .free]
  | .thermalClear _ => eventParts ++ [.start, .pwr, .thm, .load, .ctx, .fab, .noc, .chans]
  | .privilegedTrip _ _ => answerParts ++ [.start, .align, .clk, .pwr, .load, .ctx, .fab, .mem, .noc, .dram, .prt, .dsp, .pins, .barista, .life, .trans, .tag, .free]
  | .privilegedRestart => eventParts ++ [.pwr, .thm, .barista]
  | .compensationStep _ => [.clk]
  | .tamper _ _ => eventParts ++ [.prt, .sec, .trans, .tag, .free]
  | .bootKeyRedraw => answerParts ++ [.prt, .free]
  | .trngHealthFail => eventParts ++ [.prt, .sec, .trans, .tag, .free]
  | .trngOutputTimeout => answerParts ++ [.trans]
  | .drbgReseed => [.sec]
  | .vaultAccess _ _ => [.noc, .sec]
  | .vaultWipeDone => eventParts ++ [.prt, .sec]
  | .dramRequest _ _ _ => eventParts ++ [.noc, .dram, .prt]
  | .conversionPage _ => eventParts ++ [.prt]
  | .irSetDone _ => eventParts ++ [.dram, .prt]
  | .dramServe _ _ _ _ => eventParts ++ [.noc, .dram, .prt, .free]
  | .agePromotion _ _ _ => [.dram]
  | .refreshTimer _ _ => [.dram]
  | .periodicRetrain _ _ => eventParts ++ [.noc, .dram, .free]
  | .setpointSwitchStart => eventParts ++ [.dram]
  | .setpointSwitchDone _ _ => eventParts ++ [.noc, .dram, .free]
  | .softRepairDone _ => eventParts ++ [.start, .dram]
  | .dramChannelFailed _ _ => eventParts ++ [.noc, .dram]
  | .dmaStopDone => eventParts ++ [.dram]
  | .linkDetectStep _ _ _ => eventParts
  | .linkTrainingStepDone _ _ => eventParts
  | .linkStepTimeout _ => eventParts
  | .linkRetryTimer _ => [.lnk]
  | .linkUp _ => eventParts ++ [.clk]
  | .linkFrameReceived _ _ _ _ _ _ => eventParts
  | .beaconSend => [.lnk, .free]
  | .beaconReceived _ _ _ _ => eventParts ++ [.align, .clk, .ctx, .fab, .pins, .chans]
  | .spareRequest _ _ => [.lnk, .free]
  | .widthRequest _ _ _ => [.lnk, .free]
  | .linkAcknowledge _ _ => [.lnk]
  | .delayMeasurementRequest _ _ _ => [.lnk]
  | .delayMeasurementReply _ _ _ => [.lnk]
  | .poisonNotice _ _ => [.lnk]
  | .capabilityWord _ _ => eventParts ++ [.clk]
  | .laneFailed _ _ => eventParts
  | .laneMapSwitch _ _ => eventParts ++ [.start]
  | .spareLaneCheck _ _ => eventParts
  | .upstreamClockLost => eventParts ++ [.align, .clk, .ctx, .fab, .pins, .chans]
  | .clockLossRetrain => [.lnk]
  | .txnRequestReceived _ => [.load, .noc, .lnk, .evt]
  | .txnResponseReceived _ => [.noc, .lnk]
  | .mgmtMessageReceived _ => eventParts ++ [.chans]
  | .mgmtEventMessage _ => eventParts
  | .forwardTimeout => answerParts
  | .dspTokenWrite _ _ => [.noc, .dsp]
  | .dspDoneWrite _ _ => [.noc, .dsp]
  | .dspSourceDequeue => eventParts ++ [.mem, .dsp, .free]
  | .dspCreate => eventParts ++ [.noc, .dsp]
  | .dspOperand => eventParts ++ [.noc, .dsp]
  | .dspDone => eventParts ++ [.noc, .dsp]
  | .dspDispatch _ => eventParts ++ [.dsp]
  | .dspGroupWrite _ => eventParts ++ [.mem, .dsp]
  | .pinEdge _ _ _ _ => [.pins]
  | .pinOutputLaunch _ _ _ _ => [.pins]
  | .pinEventPop _ => [.pins]
  | .pinWindowOpen _ _ _ => [.pins]
  | .pinWindowResult _ => [.pins]
  | .bankLevelMeasure _ _ => eventParts ++ [.pins]
  | .bankPowerRecover _ _ => [.pins]
  | .pinShort _ _ => eventParts ++ [.pins]
  | .pinOvervoltage _ _ => eventParts ++ [.pins]
  | .pinProbePhase _ _ => eventParts ++ [.pins]
  | .pinPolarityCheck _ _ _ => eventParts ++ [.pins]
  | .mbxRing _ => eventParts ++ [.chans]
  | .mbxAck _ => eventParts ++ [.chans]
  | .mbxClear _ => [.mbx, .chans]
  | .mbxReqPush _ _ _ => eventParts ++ [.chans]
  | .mbxRspPop _ => [.mbx, .chans]
  | .smbusPointerWrite _ _ => [.mbx]
  | .smbusBlockWrite _ _ => eventParts ++ [.chans]
  | .smbusBlockRead => [.mbx]
  | .smbusArp _ => [.mbx]
  | .baristaExecute => answerParts ++ [.ext, .start, .align, .clk, .pwr, .thm, .load, .ctx, .fab, .mem, .noc, .dram, .prt, .dsp, .pins, .barista, .trans, .tag, .free]
  | .evtRingEnable _ => eventParts
  | .evtRingTailWrite _ => eventParts
  | .evtAlertAckWrite _ => eventParts
  | .lockstepMismatch => answerParts ++ [.start, .clk, .pwr, .pins, .barista, .trans, .tag]
  | .lockstepRestartDone _ _ _ _ => eventParts ++ [.barista]
  | .fwTrialTimeout => eventParts ++ [.barista]
  | .regionTestDone _ _ _ => eventParts ++ [.start, .pwr, .load, .ctx, .fab, .noc, .pins, .chans]
  | .memoryTestDone _ => eventParts ++ [.start, .mem]
  | .analogTestDone _ => eventParts ++ [.start]
  | .skipChangeDone _ => eventParts ++ [.start, .align, .ctx, .fab, .pins, .chans]
  | .repairRecordWrite => [.start]
  | .tagWriteDone => eventParts ++ [.tag]
  | .lifecycleDone => eventParts ++ [.load, .prt, .sec, .life, .trans, .tag]
  | .sysHello _ _ => answerParts
  | .sysVersion _ => answerParts
  | .sysFwLoad _ _ _ => answerParts ++ [.ext, .start, .pwr, .load, .ctx, .fab, .mem, .noc, .dram, .prt, .barista, .free]
  | .sysFwUpdate _ _ _ => answerParts
  | .sysFwActivate _ _ => answerParts
  | .sysFwStatus _ => answerParts
  | .sysRestart _ => answerParts ++ [.start, .clk, .pwr, .pins, .barista, .trans, .tag]
  | .sysChannelPolicy _ _ _ => answerParts
  | .sysFwdTimeout _ _ => answerParts
  | .cfgLoad _ _ _ => answerParts ++ [.load]
  | .cfgStatus _ => answerParts
  | .cfgList _ _ => answerParts
  | .cfgDelete _ _ _ => answerParts ++ [.load]
  | .cfgReadback _ _ _ _ _ _ _ _ => answerParts ++ [.ctx]
  | .cfgScrubStatus _ => answerParts
  | .cfgMemInit _ _ => answerParts ++ [.mem]
  | .cfgMemMode _ _ _ _ _ _ => answerParts ++ [.mem, .dsp, .free]
  | .cfgMemStatus _ _ => answerParts
  | .ctxStage _ _ _ _ _ => answerParts ++ [.ctx]
  | .ctxSwitch _ _ _ _ _ => answerParts ++ [.ctx]
  | .ctxStart _ _ _ _ _ => answerParts ++ [.ctx]
  | .ctxHold _ _ _ => answerParts ++ [.ctx]
  | .ctxResume _ _ _ => answerParts ++ [.ctx]
  | .ctxStop _ _ _ => answerParts ++ [.ctx]
  | .ctxReset _ _ _ => answerParts ++ [.ctx]
  | .ctxClear _ _ => answerParts ++ [.ctx]
  | .ctxEvict _ _ _ => answerParts ++ [.ctx]
  | .ctxStatus _ _ => answerParts
  | .ctxWindow _ _ => answerParts ++ [.ctx]
  | .pwrStatus _ _ => answerParts
  | .pwrOn _ _ => answerParts ++ [.pwr, .mem]
  | .pwrOff _ _ => answerParts ++ [.pwr, .ctx, .fab, .mem, .noc, .dram, .pins]
  | .pwrTamp _ _ => answerParts ++ [.pwr, .mem]
  | .pwrRetain _ _ => answerParts ++ [.pwr, .mem]
  | .pwrWakeCfg _ _ _ _ _ _ => answerParts ++ [.pwr]
  | .pwrBaseReset _ => answerParts ++ [.pwr]
  | .clkStatus _ => answerParts ++ [.free]
  | .clkFabric _ _ => answerParts ++ [.align, .clk]
  | .clkAux _ _ _ _ _ => answerParts ++ [.clk]
  | .thmStatus _ => answerParts
  | .thmSensors _ _ _ => answerParts
  | .thmLimits _ _ _ => answerParts ++ [.thm]
  | .drmStatus _ _ => answerParts
  | .drmSetpoint _ _ => answerParts ++ [.dram]
  | .drmSetpointCfg _ _ _ => answerParts ++ [.dram]
  | .drmQos _ _ _ => answerParts ++ [.dram]
  | .drmNrr _ _ _ => answerParts ++ [.dram]
  | .drmPpr _ _ _ _ _ _ _ _ _ => answerParts ++ [.dram]
  | .drmPprAuto _ _ _ => answerParts ++ [.dram]
  | .drmExclude _ _ => answerParts ++ [.start]
  | .drmInclude _ _ => answerParts ++ [.start]
  | .drmTrainExport _ _ _ => answerParts
  | .drmTrainImport _ _ _ _ => answerParts ++ [.dram]
  | .drmDmaStop _ _ => answerParts ++ [.dram]
  | .drmErrlog _ _ => answerParts
  | .prtStatus _ => answerParts
  | .prtCapacity _ _ => answerParts ++ [.start]
  | .prtIrSet _ _ _ _ _ => answerParts ++ [.prt]
  | .prtReinit _ _ _ _ => answerParts ++ [.prt]
  | .prtRangeSet _ _ _ _ _ _ => answerParts ++ [.prt]
  | .prtPriv _ _ => answerParts ++ [.prt]
  | .lnkStatus _ _ => answerParts
  | .lnkUp _ _ _ => answerParts
  | .lnkDown _ _ => answerParts ++ [.align, .clk, .ctx, .fab, .pins]
  | .lnkRole _ _ => answerParts ++ [.align, .clk]
  | .lnkRouteSet _ _ _ _ => answerParts
  | .lnkRouteGet _ _ => answerParts
  | .lnkCwinSet _ _ _ _ _ _ => answerParts
  | .lnkReset _ _ => answerParts
  | .lnkWiden _ _ => answerParts
  | .lnkTest _ _ _ _ _ _ _ _ _ => answerParts
  | .lnkTestResult _ _ => answerParts ++ [.free]
  | .lnkTime _ => answerParts
  | .lnkTimeTrim _ _ _ => answerParts
  | .lnkSlots _ _ => answerParts
  | .lnkFecInject _ _ _ _ _ => answerParts
  | .lnkLaneLimit _ _ _ => answerParts
  | .pinConfig _ _ _ _ => answerParts ++ [.pins]
  | .pinStatus _ _ _ _ => answerParts ++ [.pins]
  | .pinClear _ _ _ => answerParts ++ [.pins]
  | .pinProbe _ _ _ _ => answerParts ++ [.pins]
  | .pinPolarity _ _ _ => answerParts ++ [.pins]
  | .pinBank _ _ => answerParts
  | .dspStatus _ => answerParts
  | .dspConfig _ _ _ _ _ => answerParts ++ [.dsp]
  | .dspEngineSet _ _ _ _ _ => answerParts ++ [.dsp]
  | .dspGroupSet _ _ _ => answerParts ++ [.dsp]
  | .dspSourceSet _ _ _ _ _ => answerParts ++ [.dsp]
  | .dspFlowSet _ _ _ => answerParts ++ [.dsp]
  | .dspFlowGet _ _ => answerParts
  | .dspFlowRelease _ _ => answerParts ++ [.dsp]
  | .dspFlowClear _ _ => answerParts ++ [.dsp]
  | .dspFlush _ => answerParts ++ [.dsp]
  | .nocStatus _ => answerParts
  | .nocTimeout _ _ _ => answerParts ++ [.noc]
  | .nocRouterCfg _ _ _ _ _ _ => answerParts ++ [.noc]
  | .nocCounters _ _ _ => answerParts ++ [.noc]
  | .tstStatus _ => answerParts ++ [.free]
  | .tstRegion _ _ _ => answerParts ++ [.start, .ctx, .fab]
  | .tstMemory _ _ _ => answerParts ++ [.start, .mem]
  | .tstAnalog _ _ _ => answerParts ++ [.start]
  | .rprStatus _ => answerParts
  | .rprMap _ _ _ => answerParts
  | .rprSkip _ _ _ _ => answerParts ++ [.start, .fab, .pins]
  | .rprRetire _ _ _ => answerParts ++ [.start, .pwr, .load, .ctx, .fab, .noc, .pins]
  | .rprRecord _ _ _ _ => answerParts ++ [.start]
  | .secStatus _ => answerParts
  | .secCert _ _ => answerParts
  | .secKeySet _ _ _ _ _ _ => answerParts ++ [.free]
  | .secOwner _ _ _ _ _ _ _ => answerParts ++ [.prt, .trans, .free]
  | .secLifecycle _ _ _ _ _ => answerParts ++ [.prt, .trans, .free]
  | .secZeroise _ => answerParts ++ [.prt, .trans, .tag, .free]
  | .tagRead _ _ _ => answerParts
  | .tagWrite _ _ _ => answerParts ++ [.tag]
  | .tagLock _ _ => answerParts ++ [.tag]
  | .tagIdentity _ => answerParts
  | .logEvents _ _ _ => answerParts
  | .logAlertAck _ _ => answerParts
  | .logAlertLevel _ _ => answerParts
  | .logEventRoute _ _ _ => answerParts
  | .logCounters _ _ => answerParts
  | .logMemConflict _ _ _ => answerParts ++ [.mem]
  | .fabricClockCycle => [.clk, .ctx, .fab, .noc, .pins]
  | .configurationUpset _ _ _ _ _ => [.ctx]
  | .bondPadFailure _ _ _ _ _ => eventParts ++ [.start, .ctx, .fab, .pins, .chans]
  | .mgmtResponseReceived _ => eventParts ++ [.chans]
  | .timedOutTagFree _ _ => [.load, .noc, .lnk, .evt]
  | .baseWarmResetDone => [.pwr, .load, .noc, .dram, .lnk, .evt]
  | .widenPrbsCheckDone _ _ => eventParts
  | .reinitZeroFillDone _ => eventParts ++ [.dram, .prt]
  | .fwUpdateDone _ => eventParts
  | .regionRetentionEntered _ => eventParts ++ [.pwr, .ctx]
  | .supplyOutOfTolerance => answerParts ++ [.ext, .start, .align, .clk, .pwr, .thm, .load, .scrub, .ctx, .fab, .mem, .noc, .dram, .prt, .locked, .dsp, .pins, .barista, .life, .trans, .tag, .free]

/-! ## Mailbox commands that are served and answered -/

/-- A command on a register channel that Barista performs at once: its sender reaches the channel, which is enabled and not
BUSY; Barista serves the command, with no earlier request waiting and a pending record free; and the life-cycle state and the group
mask of the channel allow the command (R449 to R451, R457, R459, R560). -/
def ready (s : State) (r : Req) (cmd : Nat) : Bool :=
  let c := r.channel.val
  isRegChan c && chanReach s c && (chanOf s c).st != .busy && (chanOf s c).enable &&
    (s.mbx.barista == .serving || s.mbx.barista == .rom && romServes cmd) && s.mbx.order.isEmpty && canExecute s c &&
    decide (s.mbx.pend.length < 64) && (!lifeLimits s c || lifeAllowed cmd) &&
    maskAllows s c cmd

/-- Channel c of a state holds a response: its 16 header bytes and the first 256 bytes of the results (R456, R458,
Tables MBX-7 and MBX-9). -/
def answered (t : State) (r : Req) (cmd : Nat) (st : Status) (data : List Byte) : Prop :=
  let ch := chanOf t r.channel.val
  ch.st = .response ∧ ch.rspBuf = bytesTab (data.take 256) ∧
    ch.rspHdr = BitVec.ofNat 128 (natLE (rspBytes
      { cmd := BitVec.ofNat 16 cmd, seq := r.seq, status := BitVec.ofNat 8 st.code, part := 0,
        flags := if 256 < data.length then 1 else 0, total := data.length, data := data.take 256 }))

/-- t is u but for what an answer on channel c changes: that channel, the response interrupt (R458, R476), and the trial
selection with the minimum firmware version, which a first answer confirms (R443, R556). -/
def Beside (c : Nat) (u t : State) : Prop :=
  (∀ d, d ≠ c → chanOf t d = chanOf u d) ∧
    t = { u with
      mbx := { u.mbx with chans := t.mbx.chans, fw := t.mbx.fw, selTrial := t.mbx.selTrial }
      evt := { u.evt with irqRsp := t.evt.irqRsp, msix := t.evt.msix }
      sec := { u.sec with minSvn := t.sec.minSvn } }

/-- The command completes: a next state in which its channel holds the answer, and which is u beside that. -/
def Replies (o : Host.Outcome State Fault Refusal) (r : Req) (cmd : Nat) (st : Status) (data : List Byte)
    (u : State) : Prop :=
  ∃ t, o = .next t ∧ answered t r cmd st data ∧ Beside r.channel.val u t

/-- The origin of a command on a register channel, as its pending record and its final events name it (R450, R473). -/
def originOf (r : Req) (cmd : Nat) : Origin :=
  { cmd := BitVec.ofNat 16 cmd, seq := r.seq, channel := BitVec.ofNat 8 r.channel.val, via := none }

/-- A state with the pending record of a command that stays open, behind the earlier ones (R450, R469). -/
def withPend (r : Req) (cmd units : Nat) (s : State) : State :=
  { s with mbx := { s.mbx with
      pend := s.mbx.pend ++ [{ org := originOf r cmd, units := units, remote := false, handle := 0 }] } }

/-! ## Resets -/

/-- What outlives a loss of power: the eFuses, the tag NVM, the repair record and the firmware slots (R554, R564, R571). -/
def NvmKept (s t : State) : Prop :=
  t.sec.life = s.sec.life ∧ t.sec.groups = s.sec.groups ∧ t.sec.owners = s.sec.owners ∧ t.sec.keys = s.sec.keys ∧
    t.sec.minSvn = s.sec.minSvn ∧ t.tag.bytes = s.tag.bytes ∧ t.tag.counts = s.tag.counts ∧ t.tag.lock = s.tag.lock ∧
    t.start.rr = s.start.rr ∧ t.mbx.slotA = s.mbx.slotA ∧ t.mbx.slotB = s.mbx.slotB ∧ t.mbx.selected = s.mbx.selected

/-- No write to the eFuses, to the tag NVM or to a firmware slot is in progress. -/
def writesIdle (s : State) : Bool := s.sec.pending.isNone && s.tag.job.isNone && s.mbx.fwUpdate.isNone

/-- Contexts, fabric, memory layer, NoC, dispatcher, pins and clocks are as they are at reset. -/
def VolatileReset (t : State) : Prop :=
  t.ctx = State.reset.ctx ∧ t.load = State.reset.load ∧ t.scrub = State.reset.scrub ∧ t.fab = State.reset.fab ∧
    t.mem = State.reset.mem ∧ t.noc = State.reset.noc ∧ t.dsp = State.reset.dsp ∧ t.pins = State.reset.pins ∧
    t.clk = State.reset.clk ∧ t.thm = State.reset.thm ∧ t.align = State.reset.align

end Sys2Proof.Machine
end

