-- ==== Sys2Proof/Certificates/Slice0/Obligations.lean ====
section
/-! DEFINITION. The statements for the provers: what each command does, family by family, and what holds of every step. -/

open Sys2Proof Sys2Proof.Machine

/-- A step takes the command at the front of the queue and runs it with the rest of the queue. The queue is the model's (log
4). -/
def Obligations.StepRunsFrontCommand : Prop :=
  ∀ (s : State) (c : Instr) (rest : List Instr), s.pending = c :: rest → step s = exec c { s with pending := rest }

/-- With no command waiting the block idles: a DESIGN CHOICE of the model (log 4), since the spec's table has no row for a
tick that no command stands for. -/
def Obligations.EmptyQueueIdles : Prop := ∀ s : State, s.pending = [] → step s = .next s

/-- Every command of the table answers a next state in every state, and leaves the queue of waiting commands as it is: no
fault and no refusal. -/
def Obligations.CommandsAnswerNext : Prop := ∀ (c : Instr) (s : State), ∃ t, exec c s = .next t ∧ t.pending = s.pending

/-- As many steps as commands wait bring the block to an empty queue, in which it stays. -/
def Obligations.QueueDrains : Prop :=
  ∀ (s : State) (n : Nat), s.pending.length ≤ n →
    ∃ t, core.run n s = .next t ∧ t.pending = [] ∧ ∀ m, core.run m t = .next t

/-- What each command may change, for every command of the table: every part of the state that writes does not name for it
is as before. -/
def Obligations.CommandFrames : Prop := ∀ (c : Instr) (s t : State), exec c s = .next t → Frame (writes c) s t

/-- What is addressed, and nothing else of its kind: a row of one pin leaves every other pin as it is, a row of one memory
block every other block with all its words, a DRAM_SERVE every line but the one that its sub-channel picks, and the other
rows of a DRAM channel every line. -/
def Obligations.AddressedFrames : Prop :=
  (∀ (s t : State) (c : Instr) (p : Fin 1152),
      (∃ rise tick coin, c = .pinEdge p rise tick coin) ∨ (∃ d oe ofs, c = .pinOutputLaunch p d oe ofs) ∨ c = .pinEventPop p ∨
        (∃ a l, c = .pinWindowOpen p a l) ∨ c = .pinWindowResult p ∨ (∃ l, c = .pinShort p l) ∨ (∃ l, c = .pinOvervoltage p l) ∨
        (∃ st l, c = .pinPolarityCheck p st l) →
      exec c s = .next t → ∀ q, q ≠ p.val → pinOf t q = pinOf s q) ∧
  (∀ (s t : State) (c : Instr) (g : Fin 1152),
      (∃ p, c = .portNop p g) ∨ (∃ p a u, c = .portRead p g a u) ∨ (∃ p a d, c = .portWrite p g a d) ∨
        (∃ p d a, c = .portEnq p g d a) ∨ (∃ p u, c = .portDeq p g u) ∨ (∃ p u, c = .portPeek p g u) ∨
        (∃ p a, c = .portReturn p g a) ∨ c = .queueEntryVisible g ∨ (∃ u, c = .patrolRead g u) ∨ c = .patrolWriteback g →
      exec c s = .next t → ∀ k, k ≠ g.val → blockOf t k = blockOf s k) ∧
  (∀ (s t : State) (c : Fin 8) (sub nrr : Bool) (u : LineUpset), exec (.dramServe c sub u nrr) s = .next t →
      ∀ l, (∀ o, pickOp s (subOf s c.val sub) = some o → o.line ≠ l) →
        Tab.get none t.dram.lines l = Tab.get none s.dram.lines l) ∧
  (∀ (s t : State) (c : Instr) (k : Fin 8),
      (∃ sub pick, c = .agePromotion k sub pick) ∨ (∃ sub, c = .refreshTimer k sub) ∨ (∃ ok, c = .periodicRetrain k ok) ∨
        (∃ ok, c = .setpointSwitchDone k ok) ∨ c = .softRepairDone k ∨ (∃ b, c = .dramChannelFailed k b) →
      exec c s = .next t → t.dram.lines = s.dram.lines)

/-- In every state whose transition in progress is one of Table SEC-3 from the present life-cycle state, every step leaves
such a state, and the life-cycle state stays or moves by a transition of Table SEC-3; SEC.LIFECYCLE for any other transition
(BLANK to OWNED is SEC.OWNER's), and any SEC.LIFECYCLE in MANUFACTURE, is refused with ST_DENIED (R553), which renews the
NONCE. -/
def Obligations.LifeCycleMoves : Prop :=
  (∀ s t : State, lifeInv s → step s = .next t →
    lifeInv t ∧ (t.sec.life = s.sec.life ∨ legalTransition s.sec.life t.sec.life = true)) ∧
  (∀ (s : State) (r : Req) (target k : BitVec 3) (sig : BitVec 768) (rec : List Byte), ready s r 0x0F05 = true →
      s.sec.trngStopped = false → legalTransition s.sec.life target = false ∨ target = 2 ∨ s.sec.life = 0 →
    Replies (exec (.secLifecycle r target k sig rec) s) r 0x0F05 .denied []
      { s with
        sec := { s.sec with nonce := (freeNow s).extractLsb' 0 384, drbg := s.sec.drbg + 1 }
        free := s.free + 1 })

/-- The addressed memories keep their canonical form: a step from a state in which the workspace, the vault, the tag NVM and
the DRAM lines are listed at strictly rising addresses, with no entry that an unlisted address reads as, leaves such a
state. -/
def Obligations.MemoriesStayCanonical : Prop := ∀ s t : State, memWf s → step s = .next t → memWf t

/-- The state after reset meets both invariants, holds no waiting command, stands in the life-cycle state BLANK, as shipped,
and in reset (log 9). -/
def Obligations.ResetMeetsInvariants : Prop :=
  lifeInv State.reset ∧ memWf State.reset ∧ State.reset.pending = [] ∧ State.reset.sec.life = 1 ∧
    State.reset.ext.resetReleased = false

/-- A range with PR_LOCK set keeps its base, limit, enable and lock through every command but the assertion of RESET_N and
the loss and return of power, which assert it; PRT.RANGE_SET on such a range is refused with ST_STATE (R364). -/
def Obligations.LockedRangesStay : Prop :=
  (∀ (c : Instr) (s t : State) (m : Nat), c ≠ .resetNAssert → c ≠ .powerCycle → c ≠ .supplyOutOfTolerance →
      c ≠ .pwrGoodRise → exec c s = .next t → (Tab.get {} s.prt.ranges m).lock = true →
    Tab.get {} t.prt.ranges m = Tab.get {} s.prt.ranges m) ∧
  (∀ (s : State) (r : Req) (m : BitVec 4) (base limit : BitVec 36) (en lock : Bool), ready s r 0x0805 = true →
      (Tab.get {} s.prt.ranges m.toNat).lock = true →
    Replies (exec (.prtRangeSet r m base limit en lock) s) r 0x0805 .state [] s)

/-- Arguments packed by R453 are read back as they were: for every list of arguments, each within its width, and every
trailing record. -/
def Obligations.ArgumentsRoundTrip : Prop :=
  ∀ (l : List (Nat × Nat)) (rec : List Byte), (∀ f ∈ l, 1 ≤ f.1 ∧ f.2 < 2 ^ f.1) →
    unpackArgs (l.map (fun f => f.1)) true (packRecord l rec) = some (l.map (fun f => f.2), rec) ∧
    unpackArgs (l.map (fun f => f.1)) false (packFields l) = some (l.map (fun f => f.2), [])

/-- Where things lie: the physical column of a logical column, the number and sector of a block, and the driving region of a
pin (R71, R148, the second sentence of R415). -/
def Obligations.PlacesFollowTheRules : Prop :=
  (∀ s c : Nat, (c < s → physOf s c = c) ∧ (s ≤ c → physOf s c = c + 1)) ∧
  (∀ column row b : Nat, column < 24 → row < 24 → b < 2 →
    fpBlock { kind := 1, column := BitVec.ofNat 5 column, row := BitVec.ofNat 5 row, layer := true, index := BitVec.ofNat 12 b } =
      2 * (24 * row + column) + b ∧
    sectorOf (2 * (24 * row + column) + b) = 4 * (row / 12) + column / 6) ∧
  (∀ nn mm : Nat, nn < 24 → mm < 48 → pinRegion (48 * nn + mm) = 4 * (mm / 12) + nn / 6)

/-- A select with exactly one bit set passes that input, and any other select drives 0 (R67); a tree node passes the output
of its lower half where its select line is 0 and of its higher half where it is 1 (R38). -/
def Obligations.SelectsPassInputs : Prop :=
  (∀ (f : Src → Bool) (x : Src), mux f [x] = f x) ∧
  (∀ (f : Src → Bool) (l : Sel), l.length ≠ 1 → mux f l = false) ∧
  (∀ (o6 : List Bool) (line : Nat → Bool) (n k : Nat), n < 4 →
    muxTree o6 line (n + 1) k =
      if line ((if n = 0 then 0 else if n = 1 then 8 else if n = 2 then 12 else 14) + k) then muxTree o6 line n (2 * k + 1)
      else muxTree o6 line n (2 * k))

/-- While the fabric PLL is locked and the alignment complete, a tracking step moves its phase by 1/32 fc, up or down, where
the last step of that phase lies 1,024 fc or more back, and does nothing before; it changes no recorded latency (R87). -/
def Obligations.TrackingSteps : Prop :=
  ∀ (s : State) (up : Bool), s.align.busy = false → (pllOf s 0).locked = true →
    ((∀ a, s.align.stepAt = some a → a + 1024 ≤ s.clk.fc) →
      exec (.valignTrackStep false up) s = .next { s with align := { s.align with
        phi := if up then s.align.phi + 1 else s.align.phi - 1, stepAt := some s.clk.fc } }) ∧
    ((∀ a, s.align.stepAt2 = some a → a + 1024 ≤ s.clk.fc) →
      exec (.valignTrackStep true up) s = .next { s with align := { s.align with
        phi2 := if up then s.align.phi2 + 1 else s.align.phi2 - 1, stepAt2 := some s.clk.fc } }) ∧
    (∀ a, s.align.stepAt = some a → s.clk.fc < a + 1024 → exec (.valignTrackStep false up) s = .next s) ∧
    (∀ a, s.align.stepAt2 = some a → s.clk.fc < a + 1024 → exec (.valignTrackStep true up) s = .next s) ∧
    (∀ (upper : Bool) (t : State), exec (.valignTrackStep upper up) s = .next t → t.align.record = s.align.record)

/-- A loss of power by either row loses the volatile state, switches every domain off and clears its trip latch, and keeps
NVM; a rise of PWR_GOOD starts from the reset state; RESET_N keeps NVM and the trip latches (R513, R554, R564, R570, R571).
RESET_N_RELEASE: with a failing test of the AON domain, the Barista island or the security core the device stays in reset
with ERROR_N asserted (R523); with none, and no firmware in either slot, the start stands at step 6 with Barista in ROM mode
and MODE sampled (R210, R443, R522). -/
def Obligations.PowerResetAndStart : Prop :=
  ((∀ s : State, s.ext.pwrGood = true → writesIdle s = true →
    (∃ t, exec .powerCycle s = .next t ∧ VolatileReset t ∧ NvmKept s t ∧ t.ext.pwrGood = false ∧ ∀ d, domOf t d = {}) ∧
    (∃ t, exec .supplyOutOfTolerance s = .next t ∧ VolatileReset t ∧ NvmKept s t ∧ t.ext.pwrGood = false ∧
      ∀ d, domOf t d = {})) ∧
  (∀ s : State, s.ext.pwrGood = false →
    ∃ t, exec .pwrGoodRise s = .next t ∧ VolatileReset t ∧ NvmKept s t ∧ t.ext = State.reset.ext ∧
      ∀ d, domOf t d = domOf State.reset d) ∧
  (∀ s : State, s.ext.pwrGood = true → s.ext.resetReleased = true → writesIdle s = true →
    ∃ t, exec .resetNAssert s = .next t ∧ VolatileReset t ∧ NvmKept s t ∧ t.ext = State.reset.ext ∧
      ∀ d, d < 96 → (domOf t d).latched = (domOf s d).latched ∧
        ((domOf s d).latched = true → d ≠ 0 → d ≠ 1 → d ≠ 21 → (domOf t d).st = .tripped))) ∧
  ((∀ (s : State) (mode : BitVec 3) (fails : List BistFail) (a b : Option FwImage) (dimms : List (Nat × Dimm))
      (tf : BitVec 8) (pr : List (BitVec 64)), s.ext.pwrGood = true → s.ext.resetReleased = false →
      fails.any rowFatal = true →
    ∃ t, exec (.resetNRelease mode fails a b dimms tf pr) s = .next t ∧ t.start.held = true ∧ t.ext.error = true ∧
      t.start.step = 3) ∧
  (∀ (s : State) (mode : BitVec 3) (dimms : List (Nat × Dimm)) (tf : BitVec 8) (pr : List (BitVec 64)),
      s.ext.pwrGood = true → s.ext.resetReleased = false → s.mbx.selected = none →
    ∃ t, exec (.resetNRelease mode [] none none dimms tf pr) s = .next t ∧ t.start.step = 6 ∧ t.mbx.barista = .rom ∧
      t.ext.mode = mode ∧ t.ext.resetReleased = true ∧ t.sec.vault = [] ∧ t.start.obs.isSome = true))

/-- PLL_LOCK of a stopped group to an allowed reference locks it and, for the fabric PLL of a root, begins a new chain epoch
of the device's own (R276, R499, R500, R519). REF_MONITOR_WINDOW: a good window with no loss is only recorded; the second
bad one in a row is a loss of reference, and the second good one after a loss ends it (R503, R580). -/
def Obligations.PllAndReferenceRows : Prop :=
  (∀ (s : State) (g : Fin 4) (ref : PllRef), (domOf s (90 + g.val)).st = .on → s.pwr.deepIdle = false →
    s.pwr.tripRetention = false → refAllowed s g.val ref = true → (pllOf s g.val).locked = false →
    ∃ t, exec (.pllLock g ref false) s = .next t ∧ (pllOf t g.val).locked = true ∧ (pllOf t g.val).ref = ref ∧
      (g = 0 → s.lnk.member = false →
        t.clk.time = 0 ∧ t.clk.sinceLock = 0 ∧ t.clk.unsync = false ∧ t.clk.chainId = Config.serial)) ∧
  (∀ (s : State) (edges : BitVec 12), s.pwr.tripRetention = false → s.pwr.deepIdle = false →
    (950 ≤ edges.toNat → edges.toNat ≤ 1050 → s.clk.refLost = false →
      exec (.refMonitorWindow edges) s = .next { s with clk := { s.clk with refBad := false, refGood := false } }) ∧
    (edges.toNat < 950 ∨ 1050 < edges.toNat → s.clk.refBad = false →
      exec (.refMonitorWindow edges) s = .next { s with clk := { s.clk with refBad := true, refGood := false } }) ∧
    (edges.toNat < 950 ∨ 1050 < edges.toNat → s.clk.refBad = true → s.clk.refLost = false →
      ∃ t, exec (.refMonitorWindow edges) s = .next t ∧ t.clk.refLost = true) ∧
    (950 ≤ edges.toNat → edges.toNat ≤ 1050 → s.clk.refLost = true → s.clk.refGood = true →
      ∃ t, exec (.refMonitorWindow edges) s = .next t ∧ t.clk.refLost = false ∧ t.lnk.refclk = true))

/-- CLK commands: CLK.STATUS returns the frequencies; CLK.AUX sets an output where the auxiliary domain is on; CLK.FABRIC on
an idle root changes the multiplier, stops the fabric PLL, disables every auxiliary output and stays open (R502, R505,
R521). -/
def Obligations.ClkCommandsReply : Prop :=
  (∀ (s : State) (r : Req), ready s r 0x0501 = true →
    ∃ tck, Replies (exec (.clkStatus r) s) r 0x0501 .ok
      (packFields ((List.range 48).flatMap (fun k => [(32, (clockState s tck k).1), (8, bit (clockState s tck k).2)]) ++
        [(8, s.clk.m.toNat)] ++ (List.range 4).map (fun g => (8, PllRef.code (pllOf s g).ref))))
      { s with free := s.free + 1 }) ∧
  (∀ (s : State) (r : Req) (k : BitVec 3) (n : BitVec 13) (start : W64) (en : Bool), ready s r 0x0503 = true →
      s.pwr.baseReset = false → 2 ≤ n.toNat → n.toNat ≤ 4096 → domOn s 95 = true →
    Replies (exec (.clkAux r k n start en) s) r 0x0503 .ok []
      { s with clk := { s.clk with aux := Tab.set {} s.clk.aux k.toNat { n := n, start := start, en := en } } }) ∧
  (∀ (s : State) (r : Req) (m : BitVec 7), ready s r 0x0502 = true → s.pwr.baseReset = false → 16 ≤ m.toNat →
      m.toNat ≤ Config.mMax → s.lnk.member = false → fabricIdle s = true → s.clk.fabricCmd = none → m ≠ s.clk.m →
      (∀ p, linkUpAt s p = false) →
    ∃ t, Replies (exec (.clkFabric r m) s) r 0x0502 .pending [] (withPend r 0x0502 1 t) ∧ t.clk.m = m ∧
      (pllOf t 0).locked = false ∧ t.clk.fabricCmd = some (originOf r 0x0502) ∧ t.align.busy = true ∧
      ∀ k, (Tab.get {} t.clk.aux k).en = false)

/-- Deep idle and wake: where every condition of R493 holds the PLL groups and the Barista island go down; the wake pin
brings them back in the reverse order; WAKE_DONE ends the wake (R493 to R495). PWR.WAKE_CFG stores the wake settings (R494).
-/
def Obligations.DeepIdleAndWakeRows : Prop :=
  ((∀ s : State, s.pwr.deepEn = true → s.pwr.deepIdle = false → s.pwr.waking = false → s.pwr.tripRetention = false →
      s.mbx.barista = .serving → (∀ d, d < 96 → idleDom s d = true) → (∀ p, p < 6 → linkUpAt s p = false) →
      commandsIdle s = true →
    ∃ t, exec .deepIdleEnter s = .next t ∧ t.pwr.deepIdle = true ∧ (domOf t 1).st = .retention ∧
      ∀ g, g < 4 → (domOf t (90 + g)).st = .off ∧ (pllOf t g).locked = false) ∧
  (∀ s : State, s.pwr.deepIdle = true → s.pwr.wakeSources.getLsbD 0 = true → s.pwr.onQueue = [] → s.pwr.wakeSet = 0 →
    ∃ t, exec (.wakeEvent .wakePin) s = .next t ∧ t.pwr.deepIdle = false ∧ t.pwr.waking = true ∧
      (domOf t 1).st = .on) ∧
  (∀ s : State, s.pwr.waking = true → wakeOver s = true → ∃ t, exec .wakeDone s = .next t ∧ t.pwr.waking = false)) ∧
  (∀ (s : State) (r : Req) (src : BitVec 3) (ports : BitVec 6) (deep : Bool) (set : BitVec 96) (pins : BitVec 1152),
    ready s r 0x0406 = true →
    Replies (exec (.pwrWakeCfg r src ports deep set pins) s) r 0x0406 .ok []
      { s with pwr := { s.pwr with wakeSources := src, wakePorts := ports, deepEn := deep, wakeSet := set, wakePins := pins } })

/-- Resets of parts: PF0 leaves channels 0 to 7 IDLE with the ring disabled; PF1 discards completions of the PCIe port; a
warm reset by command or by PCIe begins once and its end clears it; PWR.BASE_RESET makes it due (R460, R496, R497, R594). -/
def Obligations.PartResets : Prop :=
  (∀ s : State, ∃ t, exec .pf0FunctionReset s = .next t ∧ (∀ c, c < 8 → (chanOf t c).st = .idle) ∧
    (∀ c, 8 ≤ c → chanOf t c = chanOf s c) ∧ t.evt.ringEn = false ∧ ∀ c ∈ t.mbx.order, 8 ≤ c) ∧
  (∀ s : State, ∃ t, exec .pf1FunctionReset s = .next t ∧ (∀ q ∈ s.noc.out, q.src = 70 → q.tag ∈ t.noc.pf1Drop) ∧
    ∀ d ∈ t.noc.done, d.src ≠ 70) ∧
  (∀ (s : State) (r : Req), ready s r 0x0407 = true → s.pwr.baseReset = false →
    Replies (exec (.pwrBaseReset r) s) r 0x0407 .ok [] { s with pwr := { s.pwr with baseDue := true } }) ∧
  (∀ s : State, s.pwr.baseDue = true → s.pwr.baseReset = false →
    ∃ t, exec .baseWarmReset s = .next t ∧ t.pwr.baseReset = true ∧ t.pwr.baseDue = false ∧
      ∀ c, c < 8 → (chanOf t c).st = .idle) ∧
  (∀ s : State, domOn s 22 = true → s.pwr.baseReset = false →
    ∃ t, exec .pcieHotReset s = .next t ∧ t.pwr.baseReset = true ∧ ∀ c, c < 8 → (chanOf t c).st = .idle) ∧
  (∀ s : State, s.pwr.baseReset = true → ∃ t, exec .baseWarmResetDone s = .next t ∧ t.pwr.baseReset = false)

/-- The doorbell, acknowledge and clear rows on a register channel whose sender reaches it: a doorbell in BUSY only sets
MBX_OVERRUN; one in another state on an enabled channel of a serving Barista leaves the channel BUSY with the request's SEQ
behind the earlier requests; one on a disabled channel is answered at once; MBX_ACK takes RESPONSE to IDLE; MBX_CLEAR takes
RESPONSE and PART to IDLE without the parts, and BUSY keeps its state (R457 to R459). REGISTER_WRITE by each of its writers:
the interrupt mask in BAR0, MBX_IRQ_MASK in the JTAG and the SMBus image, and the workspace write pointer over the NoC by a
writer of the ring (R11, R213, R457, R461, R462, R476, R600). -/
def Obligations.ChannelRows : Prop :=
  (∀ (s : State) (c : Fin 16), doorLive s c.val = true → s.mbx.barista = .serving →
    ((chanOf s c.val).st = .busy →
      exec (.mbxRing c) s = .next (updChan c.val (fun ch => { ch with overrun := true }) s) ∧
      exec (.mbxAck c) s = .next (updChan c.val id s) ∧ exec (.mbxClear c) s = .next (updChan c.val id s)) ∧
    ((chanOf s c.val).st ≠ .busy → (chanOf s c.val).enable = true →
      exec (.mbxRing c) s = .next { s with mbx := { s.mbx with
        chans := Tab.upd {} s.mbx.chans c.val (fun ch => { ch with st := .busy, lastSeq := ch.reqHdr.extractLsb' 16 16 })
        order := s.mbx.order ++ [c.val] } }) ∧
    ((chanOf s c.val).st ≠ .busy → (chanOf s c.val).enable = false →
      ∃ t, exec (.mbxRing c) s = .next t ∧ (chanOf t c.val).st = .response ∧ t.mbx.order = s.mbx.order) ∧
    ((chanOf s c.val).st = .response →
      exec (.mbxAck c) s = .next (updChan c.val (fun ch => { ch with st := .idle }) s)) ∧
    ((chanOf s c.val).st = .response ∨ (chanOf s c.val).st = .part →
      exec (.mbxClear c) s = .next (updChan c.val (fun ch => { ch with st := .idle, parts := none, rest := none }) s))) ∧
  ((∀ (s : State) (v : W64), hostLive s = true → s.evt.lostNew = 0 →
    exec (.registerWrite .bar0 0x8024#48 v) s = .next { s with evt := { s.evt with irqMask := v.extractLsb' 8 3 } }) ∧
  (∀ (s : State) (v : W64), regsLive s = true →
    exec (.registerWrite .jtag 0x00C#48 v) s = .next (updChan 12 (fun ch => { ch with irqMask := v.getLsbD 0 }) s) ∧
    exec (.registerWrite .smbus 0x00C#48 v) s = .next (updChan 13 (fun ch => { ch with irqMask := v.getLsbD 0 }) s)) ∧
  (∀ (s : State) (src : BitVec 8) (tag : BitVec 12) (v : W64), meshReq s src tag = none →
      protDenied s src.toNat 0x082002000000 = false → wsWriter s src.toNat = true →
    exec (.registerWrite (.noc src tag) 0x082002000000#48 v) s = .next (setWptr v s)))

/-- JTAG and SMBus on their register images: a JTAG read loads the register of channel 12 for the next Capture-DR; a JTAG
write of MBX_ENABLE and a 4-byte SMBus write to the request buffer of channel 13 take effect; the SMBus pointer is set and
advances past the bytes; a block read returns 32 bytes; ARP assigns the address (R461, R462). -/
def Obligations.ImageRows : Prop :=
  ∀ s : State, regsLive s = true →
    (∀ dr : W64, dr.getLsbD 63 = false → exec (.jtagMbxAccess dr) s =
      .next { s with mbx := { s.mbx with jtagMbx := BitVec.ofNat 32 (imageReg s 12 (dr.extractLsb' 32 16).toNat) } }) ∧
    (∀ dr : W64, dr.getLsbD 63 = true → (dr.extractLsb' 32 16).toNat = 0x00C →
      exec (.jtagMbxAccess dr) s = .next (updChan 12 (fun ch => { ch with irqMask := dr.getLsbD 0 }) s)) ∧
    (∀ v : BitVec 16, exec (.smbusPointerWrite v true) s = .next { s with mbx := { s.mbx with smbPtr := v } }) ∧
    (∀ (k : Fin 64) (a b c d : Byte), s.mbx.smbPtr = BitVec.ofNat 16 (0x100 + 4 * k.val) → (chanOf s 13).st ≠ .busy →
      ∃ t, exec (.smbusBlockWrite [a, b, c, d] true) s = .next t ∧
        (chanOf t 13).reqBuf = putBytes (chanOf s 13).reqBuf (4 * k.val) [a, b, c, d] ∧
        t.mbx.smbPtr = BitVec.ofNat 16 (0x104 + 4 * k.val)) ∧
    exec .smbusBlockRead s = .next { s with mbx := { s.mbx with
      smbOut := (List.range 32).map (fun i => imageByte s ((s.mbx.smbPtr.toNat + i) % 65536))
      smbPtr := s.mbx.smbPtr + 32 } } ∧
    (∀ a : BitVec 7, exec (.smbusArp (some a)) s = .next { s with mbx := { s.mbx with smbAddr := a } })

/-- The event ring rows by a host that reaches BAR0, with no record lost: enabling the ring sets head and tail to 0; a tail
that is not above the head is taken and another is ignored; an acknowledgement sets ALERT_N anew (R475, R477). A fabric
mailbox: a word is accepted into a request queue with room, its last word completes the request; a pop takes the first
response word; both are visible 4 fc later (R94, R95, R465). -/
def Obligations.RingAndFabricMailboxRows : Prop :=
  (∀ s : State, hostLive s = true → s.evt.lostNew = 0 →
    (∀ v : BitVec 32, v.getLsbD 5 = true → 6 ≤ (v.extractLsb' 0 5).toNat → (v.extractLsb' 0 5).toNat ≤ 16 →
        s.evt.ringEn = false →
      exec (.evtRingEnable v) s = .next { s with evt := { s.evt with
        ringLog2 := v.extractLsb' 0 5, ringEn := true, head := 0, tail := 0 } }) ∧
    (∀ v : BitVec 32, (s.evt.head - v).toNat ≤ 2 ^ s.evt.ringLog2.toNat →
      exec (.evtRingTailWrite v) s = .next { s with evt := { s.evt with tail := v } }) ∧
    (∀ v : BitVec 32, 2 ^ s.evt.ringLog2.toNat < (s.evt.head - v).toNat → exec (.evtRingTailWrite v) s = .next s) ∧
    (∀ v : BitVec 32, exec (.evtAlertAckWrite v) s = .next { s with evt := { s.evt with
      alertAck := v
      alert := s.evt.log.any (fun r => !r.2.flags.getLsbD 0 && decide (s.evt.alertLevel ≤ r.2.severity) &&
        later r.2.number v) } })) ∧
  (∀ (s : State) (k : Fin 4), chanReach s (8 + k.val) = true →
    (∀ w : W64, (∀ a ∈ (chanOf s (8 + k.val)).accepts, a.1 ≠ s.clk.fc + 4) → (chanOf s (8 + k.val)).closed = false →
        (chanOf s (8 + k.val)).reqQ.length < 64 →
      exec (.mbxReqPush k w false) s = .next (updChan (8 + k.val) (fun ch => { ch with
        accepts := ((s.clk.fc + 4, true) :: ch.accepts).take 5, reqQ := ch.reqQ ++ [(w, false)] }) s) ∧
      (s.mbx.barista = .serving → ∃ t, exec (.mbxReqPush k w true) s = .next t ∧ t.mbx.order = s.mbx.order ++ [8 + k.val] ∧
        (chanOf t (8 + k.val)).reqQ = (chanOf s (8 + k.val)).reqQ ++ [(w, true)])) ∧
    (∀ (w : W64) (l : Bool) (q : List (W64 × Bool)), (∀ a ∈ (chanOf s (8 + k.val)).pops, a.1 ≠ s.clk.fc + 4) →
        (chanOf s (8 + k.val)).rspQ = (w, l) :: q → (chanOf s (8 + k.val)).rspWait = none →
      exec (.mbxRspPop k) s = .next (updChan (8 + k.val) (fun ch => { ch with
        rspQ := q, pops := ((s.clk.fc + 4, w, true, l) :: ch.pops).take 5 }) s)))

/-- BARISTA_EXECUTE takes the first complete request of a register channel that can be served: a code that revision 1 does
not define is answered, and a defined one, with TARGET and FLAGS 0 and its arguments in one part, is performed by its body
(R449, R452, R454). -/
def Obligations.BaristaExecuteRow : Prop :=
  ∀ (s : State) (c : Nat) (rest : List Nat), s.mbx.barista = .serving → s.mbx.order = c :: rest → isRegChan c = true →
    canExecute s c = true → (chanOf s c).st = .busy → (chanOf s c).parts = none → (chanOf s c).rest = none →
    (regRequest s c).flags = 0 → (regRequest s c).target = 0 → (regRequest s c).len ≤ 256 →
    (cmdOf (regRequest s c).cmd.toNat = none →
      ∃ t, exec .baristaExecute s = .next t ∧ t.mbx.order = rest ∧ (chanOf t c).st = .response) ∧
    (∀ k, cmdOf (regRequest s c).cmd.toNat = some k →
      ∃ u, exec .baristaExecute s = .next (perform (regRequest s c) (bodyOf k (regRequest s c).args) u) ∧
        u.mbx.order = rest ∧ (∀ d, chanOf u d = chanOf s d) ∧
        u = { s with mbx := { s.mbx with order := u.mbx.order, chans := u.mbx.chans } })

/-- SYS commands that report: HELLO with the revision used, VERSION and FW_STATUS, in a serving Barista and in ROM mode
(R470, R479). SYS.CHANNEL_POLICY sets the group mask of another channel, and SYS.FWD_TIMEOUT the timeout (R451, R468). -/
def Obligations.SysCommandsReply : Prop :=
  ((∀ (s : State) (r : Req) (rev : BitVec 8), ready s r 0x0101 = true → rev ≠ 0 →
    Replies (exec (.sysHello r rev) s) r 0x0101 .ok (packFields [(8, min rev.toNat (revMax s)), (8, revMax s),
      (8, if Config.grade2C then 2 else 1), (8, r.channel.val), (32, fwVersion s), (64, Config.serial.toNat),
      (8, bit s.lnk.member)]) s) ∧
  (∀ (s : State) (r : Req), ready s r 0x0102 = true →
    Replies (exec (.sysVersion r) s) r 0x0102 .ok (packFields [(32, fwVersion s),
      (16, match s.mbx.fw with | some f => f.svn.toNat | none => 0),
      (8, match s.mbx.fw with | some f => bit (f.slot.getD false) | none => 0), (32, Config.romVersion.toNat),
      (8, revMax s)]) s) ∧
  (∀ (s : State) (r : Req), ready s r 0x0106 = true → s.mbx.slotA = none → s.mbx.slotB = none →
    Replies (exec (.sysFwStatus r) s) r 0x0106 .ok (packFields [(8, 0), (32, 0), (16, 0), (8, 0), (32, 0), (16, 0),
      (8, match s.mbx.selected with | some b => bit b | none => 0xFF), (8, bit s.mbx.selTrial),
      (8, bit s.mbx.fallback)]) s)) ∧
  ((∀ (s : State) (r : Req) (c : BitVec 4) (mask : BitVec 32), ready s r 0x0108 = true → r.channel.val ≠ c.toNat →
    Replies (exec (.sysChannelPolicy r c mask) s) r 0x0108 .ok []
      { s with mbx := { s.mbx with groupMask := Tab.set 0x0003FFFE#32 s.mbx.groupMask c.toNat mask } }) ∧
  (∀ (s : State) (r : Req) (mask : BitVec 32) (c : BitVec 4), ready s r 0x0108 = true → r.channel.val = c.toNat →
    Replies (exec (.sysChannelPolicy r c mask) s) r 0x0108 .denied [] s) ∧
  (∀ (s : State) (r : Req) (ms : BitVec 14), ready s r 0x0109 = true → 1 ≤ ms.toNat → ms.toNat ≤ 10000 →
    Replies (exec (.sysFwdTimeout r ms) s) r 0x0109 .ok [] { s with mbx := { s.mbx with fwdMs := ms } }))

/-- Firmware images: in ROM mode a valid image loads and serves; an update of a valid image stays open until its flash write
ends, which fills the slot not in use or leaves it empty; a valid slot can be activated as a trial below 95 °C (R441, R443,
R444, R479). Restarts: a command and a lockstep mismatch begin one, which leaves no request waiting; it ends with the code
in working memory where its digest holds, and in ROM mode where no slot is valid; a trial that times out falls back or
leaves ROM mode (R443, R445, R446, R479). -/
def Obligations.FirmwareRows : Prop :=
  ((∀ (s : State) (r : Req) (a : BitVec 48) (n : BitVec 20) (f : FwImage), ready s r 0x0103 = true → s.mbx.barista = .rom →
      s.mbx.fw = none → s.start.obs = none → readImage s a.toNat n.toNat = .ok f →
    ∃ t, exec (.sysFwLoad r a n) s = .next t ∧ t.mbx.barista = .serving ∧ answered t r 0x0103 .pending []) ∧
  (∀ (s : State) (r : Req) (a : BitVec 48) (n : BitVec 20) (f : FwImage), ready s r 0x0104 = true →
      s.mbx.barista = .serving → s.mbx.fwUpdate = none → readImage s a.toNat n.toNat = .ok f →
    Replies (exec (.sysFwUpdate r a n) s) r 0x0104 .pending []
      (withPend r 0x0104 1 { s with mbx := { s.mbx with fwUpdate := some (originOf r 0x0104, f) } })) ∧
  (∀ (s : State) (org : Origin) (f : FwImage) (ok : Bool), s.mbx.fwUpdate = some (org, f) →
    ∃ t, exec (.fwUpdateDone ok) s = .next t ∧ t.mbx.fwUpdate = none ∧
      slotImg t (spareSlot s) = (if ok then some f else none) ∧ slotImg t (!spareSlot s) = slotImg s (!spareSlot s)) ∧
  (∀ (s : State) (r : Req) (b : Bool), ready s r 0x0105 = true → slotValid s b = true → tooHot s = false →
    Replies (exec (.sysFwActivate r b) s) r 0x0105 .ok []
      { s with mbx := { s.mbx with selected := some b, selTrial := true } })) ∧
  ((∀ (s : State) (r : Req), ready s r 0x0107 = true →
    ∃ t, exec (.sysRestart r) s = .next t ∧ t.mbx.barista = .restarting) ∧
  (∀ s : State, s.mbx.barista = .serving ∨ s.mbx.barista = .rom →
    ∃ t, exec .lockstepMismatch s = .next t ∧ t.mbx.barista = .restarting) ∧
  (∀ (s : State) (f : FwRun) (a b : Option FwImage), s.mbx.barista = .restarting → s.mbx.fw = some f → f.trial = false →
      s.mbx.reload = false →
    ∃ t, exec (.lockstepRestartDone true false a b) s = .next t ∧ t.mbx.barista = .serving) ∧
  (∀ (s : State) (f : FwRun), s.mbx.barista = .restarting → s.mbx.fw = some f → f.trial = false →
    ∃ t, exec (.lockstepRestartDone false false none none) s = .next t ∧ t.mbx.barista = .rom) ∧
  (∀ (s : State) (f : FwRun), s.mbx.barista = .serving → s.mbx.fw = some f → f.trial = true →
    (slotValid s (!(f.slot.getD false)) = true →
      ∃ t, exec .fwTrialTimeout s = .next t ∧ t.mbx.barista = .serving ∧ t.mbx.fallback = true) ∧
    (slotValid s (!(f.slot.getD false)) = false →
      ∃ t, exec .fwTrialTimeout s = .next t ∧ t.mbx.barista = .rom ∧ t.mbx.fw = none)))

/-- LOG commands: records of the log from a number on, the acknowledgement, the level, the event route, and the counters,
which CLEAR sets to 0 (R477 to R479, R602). -/
def Obligations.LogCommandsReply : Prop :=
  (∀ (s : State) (r : Req) (n : BitVec 32) (count : BitVec 8), ready s r 0x1101 = true → 1 ≤ count.toNat →
      count.toNat ≤ 63 → n ≠ 0 → later n s.evt.post = true →
    Replies (exec (.logEvents r n count) s) r 0x1101 .ok (packRecord [(32, n.toNat), (8, 0), (8, 0)] []) s) ∧
  (∀ (s : State) (r : Req) (n : BitVec 32) (count : BitVec 8) (e : BitVec 32 × EvRec) (l : List (BitVec 32 × EvRec)),
      ready s r 0x1101 = true → 1 ≤ count.toNat → count.toNat ≤ 63 → n ≠ 0 → later n s.evt.post = false →
      s.evt.log = e :: l → later e.1 n = false →
    Replies (exec (.logEvents r n count) s) r 0x1101 .ok
      (packRecord [(32, n.toNat), (8, ((s.evt.log.filter (fun x => !later n x.1)).take count.toNat).length), (8, 0)]
        (((s.evt.log.filter (fun x => !later n x.1)).take count.toNat).flatMap (fun x => evBytes x.2))) s) ∧
  (∀ (s : State) (r : Req) (n : BitVec 32), ready s r 0x1102 = true →
    Replies (exec (.logAlertAck r n) s) r 0x1102 .ok [] { s with evt := updAlert { s.evt with alertAck := n } }) ∧
  (∀ (s : State) (r : Req) (n : BitVec 3), ready s r 0x1103 = true → n.toNat ≤ 4 →
    Replies (exec (.logAlertLevel r n) s) r 0x1103 .ok [] { s with evt := updAlert { s.evt with alertLevel := n } }) ∧
  (∀ (s : State) (r : Req) (h : BitVec 12) (n : BitVec 3), ready s r 0x1104 = true → n.toNat ≤ 4 →
      (h = 0 ∨ routeOf s h.toNat ≠ none) →
    Replies (exec (.logEventRoute r h n) s) r 0x1104 .ok []
      { s with mbx := { s.mbx with routeHandle := h, routeMin := n } }) ∧
  (∀ (s : State) (r : Req) (clear : Bool), ready s r 0x1105 = true →
    Replies (exec (.logCounters r clear) s) r 0x1105 .ok
      (packFields [(32, s.mbx.bondPadFails.toNat), (16, s.mbx.logRestarts.toNat), (32, s.mbx.hwLostTotal.toNat),
        (32, s.mbx.fwdTimeouts.toNat)])
      (if clear then { s with mbx := { s.mbx with bondPadFails := 0, logRestarts := 0, hwLostTotal := 0, fwdTimeouts := 0 } }
       else s))

/-- PWR commands over one domain: STATUS reports; ON of a domain that is off, with what it needs on, begins to power it up;
OFF of a fenced domain that nothing bars closes its fence; TAMP closes it and waits; RETAIN of a READY region waits; each of
the four stays open (R483, R486, R487, R492, R521). THM commands: STATUS, the words of the sensors asked for, and limits in
their bounds (R508, R521). -/
def Obligations.PwrThmCommandsReply : Prop :=
  ((∀ (s : State) (r : Req) (mask : BitVec 96), ready s r 0x0401 = true →
    Replies (exec (.pwrStatus r mask) s) r 0x0401 .ok (packFields ((bitsOf mask).map (fun d => (64, domStatus s d)))) s) ∧
  (∀ (s : State) (r : Req) (mask : BitVec 96) (d : Nat), ready s r 0x0402 = true → s.pwr.baseReset = false →
      bitsOf mask = [d] → (domOf s d).st = .off → (∀ n, tripNow s n = false) → (∀ n ∈ needsAll d, domOn s n = true) →
      (∀ n ∈ needsOf d, domOn s n = true) → s.pwr.onQueue = [] → switching s < 8 →
    ∃ t, exec (.pwrOn r mask) s = .next t ∧ answered t r 0x0402 .pending [] ∧ (domOf t d).st = .poweringUp ∧
      (domOf t d).waitOn = (domOf s d).waitOn ++ [originOf r 0x0402]) ∧
  (∀ (s : State) (r : Req) (mask : BitVec 96) (d : Nat), ready s r 0x0403 = true → s.pwr.baseReset = false →
      bitsOf mask = [d] → (domOf s d).st = .on → d ≠ 0 → d ≠ 1 → d ≠ 21 → hasFence d = true →
      (domOf s d).tamped = false → offRefused s d = false → s.pwr.onQueue = [] →
    ∃ t, exec (.pwrOff r mask) s = .next t ∧ answered t r 0x0403 .pending [] ∧ (domOf t d).st = .stopping ∧
      (domOf t d).fenced = true ∧ (domOf t d).waitOff = some (originOf r 0x0403)) ∧
  (∀ (s : State) (r : Req) (mask : BitVec 96) (d : Nat), ready s r 0x0404 = true → s.pwr.baseReset = false →
      bitsOf mask = [d] → (domOf s d).st = .on → d ≠ 0 → d ≠ 1 → d ≠ 21 → hasFence d = true →
      (domOf s d).tamped = false → s.pwr.onQueue = [] →
    ∃ t, exec (.pwrTamp r mask) s = .next t ∧ answered t r 0x0404 .pending [] ∧ (domOf t d).st = .on ∧
      (domOf t d).fenced = true ∧
      (domOf t d).waitTamp = (domOf s d).waitTamp ++ [originOf r 0x0404]) ∧
  (∀ (s : State) (r : Req) (mask : BitVec 96) (d : Nat), ready s r 0x0405 = true → s.pwr.baseReset = false →
      bitsOf mask = [d] → isRegionDom d = true → (domOf s d).st = .on → (regionOf s (d - 58)).st = .ready →
      s.pwr.onQueue = [] →
    ∃ t, exec (.pwrRetain r mask) s = .next t ∧ answered t r 0x0405 .pending [] ∧
      (domOf t d).waitRetain = (domOf s d).waitRetain ++ [originOf r 0x0405])) ∧
  ((∀ (s : State) (r : Req), ready s r 0x0601 = true →
    Replies (exec (.thmStatus r) s) r 0x0601 .ok (packFields [(16, (BitVec.ofInt 16 (hottest s).2).toNat),
      (8, if (hottest s).1 = 72 then 0xFF else (hottest s).1),
      (8, bit s.thm.warning + 2 * bit s.thm.throttle + 4 * bit (anyRor s) + 8 * bit s.thm.restarted),
      (96, domMask ((List.range 96).filter (fun d => (domOf s d).st == .tripped))), (8, s.thm.warnC.toNat),
      (8, s.thm.throttleC.toNat)]) s) ∧
  (∀ (s : State) (r : Req) (first count : BitVec 7), ready s r 0x0602 = true → 1 ≤ count.toNat →
      first.toNat + count.toNat ≤ 72 →
    Replies (exec (.thmSensors r first count) s) r 0x0602 .ok
      (packFields ((List.range count.toNat).map (fun k => (64, sensorWord s (first.toNat + k))))) s) ∧
  (∀ (s : State) (r : Req) (w h : BitVec 8), ready s r 0x0603 = true → 60 ≤ w.toNat → w.toNat ≤ h.toNat →
      w.toNat ≤ 95 → h.toNat ≤ 100 →
    Replies (exec (.thmLimits r w h) s) r 0x0603 .ok [] { s with thm := { s.thm with warnC := w, throttleC := h } }))

/-- The rows that end what those commands began: a domain that powers up is ON and its commands are ended, one that is
isolated is OFF, a clear tamp completes, and a READY region's domain enters retention (R386, R483, R486, R492). Thermal
rows: a sample records every valid reading; a warning or a throttle ends 3 °C below its limit; the privileged trip leaves
every domain but AON off or tripped and AON in trip retention, from which the restart returns; a compensation step changes
only its trim (R507, R508, R512, R514, R516, R519). -/
def Obligations.DomainAndThermalRows : Prop :=
  ((∀ (s : State) (d : Fin 96), (domOf s d.val).st = .poweringUp → upReady s d.val = true → s.pwr.onQueue = [] →
    ∃ t, exec (.domainPowerUpDone d) s = .next t ∧ (domOf t d.val).st = .on ∧ (domOf t d.val).fenced = false ∧
      (domOf t d.val).waitOn = [] ∧ (domOf t d.val).onCount = satAdd (domOf s d.val).onCount 1) ∧
  (∀ (s : State) (d : Fin 96), (domOf s d.val).st = .isolated → (domOf s d.val).waitOn = [] → s.pwr.onQueue = [] →
    ∃ t, exec (.domainPowerDownDone d) s = .next t ∧ (domOf t d.val).st = .off ∧ (domOf t d.val).waitOff = none) ∧
  (∀ (s : State) (d : Fin 96), (domOf s d.val).fenced = true → (domOf s d.val).tamped = false →
      (domOf s d.val).st = .on → tampClear s d.val = true →
    ∃ t, exec (.tampComplete d) s = .next t ∧ (domOf t d.val).tamped = true ∧ (domOf t d.val).waitTamp = []) ∧
  (∀ (s : State) (r : Fin 32), (domOf s (58 + r.val)).waitRetain ≠ [] → (domOf s (58 + r.val)).st = .on →
      (regionOf s r.val).st = .ready →
    ∃ t, exec (.regionRetentionEntered r) s = .next t ∧ (domOf t (58 + r.val)).st = .retention ∧
      (regionOf t r.val).retention = true ∧ (regionOf t r.val).st = .ready)) ∧
  ((∀ (s : State) (l : List (Option Int)) (n : Nat) (v : Int), s.ext.pwrGood = true → s.pwr.tripRetention = false →
      n < 72 → validReading l n = some v →
    ∃ t, exec (.sensorSample l) s = .next t ∧ (sensorOf t n).temp = BitVec.ofInt 12 v ∧ (sensorOf t n).fault = false) ∧
  (∀ s : State, belowBy3 s s.thm.throttleC = true →
    ∃ t, exec (.thermalClear true) s = .next t ∧ t.thm = { s.thm with throttle := false }) ∧
  (∀ s : State, belowBy3 s s.thm.warnC = true →
    exec (.thermalClear false) s = .next { s with thm := { s.thm with warning := false } }) ∧
  (∀ (s : State) (k : Fin 20) (temp : Int), s.ext.pwrGood = true → s.pwr.tripRetention = false → 920 ≤ temp →
    ∃ t, exec (.privilegedTrip k temp) s = .next t ∧ t.pwr.tripRetention = true ∧ t.pwr.thermtrip = true ∧
      (domOf t 0).st = .retention ∧
      ∀ d, 0 < d → d < 96 → (domOf t d).st = .off ∨ (domOf t d).st = .tripped) ∧
  (∀ s : State, s.pwr.tripRetention = true →
    ∃ t, exec .privilegedRestart s = .next t ∧ t.pwr.tripRetention = false ∧ (domOf t 0).st = .on ∧
      t.thm.restarted = true) ∧
  (∀ s : State, s.pwr.tripRetention = false →
    exec (.compensationStep .dripClock) s = .next { s with clk := { s.clk with comp := Tab.upd 0 s.clk.comp 0 (fun n => n + 1) } }))

/-- REGION_CTL and the reset of a region: a switch request to a slot that can run is accepted in the next fc and held until
its effect at n + 4; another while it is held is answered busy; one to a slot that cannot run is refused; the effect
presents the slot; a region reset ends RUNNING (R116, R126, R127, R128). A window boundary performs the armed commands that
are due: a switch enters REGION_CTL, and a hold that was armed for b leaves the region HELD at b + 4 (R131, R132, R133). -/
def Obligations.RegionSwitchRows : Prop :=
  ((∀ (s : State) (r : Fin 32) (k : Fin 4) (init : Bool), (regionOf s r.val).st = .running → (regionOf s r.val).pendSw = none →
      runnable s r.val k.val = true →
    ∃ t, exec (.regionCtlSwitchRequest r k init) s = .next t ∧
      (regionOf t r.val).pendSw = some { slot := k, init := init, at_ := s.clk.fc, org := none } ∧
      (regionOf t r.val).swAck = 1 ∧ (regionOf t r.val).swAckAt = s.clk.fc + 1 ∧ (regionOf t r.val).present = (regionOf s r.val).present) ∧
  (∀ (s : State) (r : Fin 32) (k : Fin 4) (init : Bool) (w : PendSw), (regionOf s r.val).st = .running →
      (regionOf s r.val).pendSw = some w → s.clk.fc < w.at_ + 4 →
    ∃ t, exec (.regionCtlSwitchRequest r k init) s = .next t ∧ (regionOf t r.val).pendSw = some w ∧ (regionOf t r.val).swAck = 2 ∧
      (regionOf t r.val).swAckAt = s.clk.fc + 1) ∧
  (∀ (s : State) (r : Fin 32) (k : Fin 4) (init : Bool), (regionOf s r.val).st = .running → (regionOf s r.val).pendSw = none →
      runnable s r.val k.val = false →
    ∃ t, exec (.regionCtlSwitchRequest r k init) s = .next t ∧ (regionOf t r.val).pendSw = none ∧ (regionOf t r.val).swAck = 3 ∧
      (regionOf t r.val).swAckAt = s.clk.fc + 1) ∧
  (∀ (s : State) (r : Fin 32) (w : PendSw), (regionOf s r.val).st = .running → (regionOf s r.val).pendSw = some w →
      w.at_ + 4 ≤ s.clk.fc →
    ∃ t, exec (.regionCtlSwitchEffect r) s = .next t ∧ (regionOf t r.val).present = some w.slot ∧ (regionOf t r.val).pendSw = none ∧
      (regionOf t r.val).effectAt = some s.clk.fc ∧ (regionOf t r.val).st = .running) ∧
  (∀ (s : State) (r : Fin 32) (k : Fin 4) (e : Nat) (b : Bool), (regionOf s r.val).resetEnd = some (e, b) →
      (regionOf s r.val).present = some k → e ≤ s.clk.fc → (regionOf s r.val).st = .held →
    ∃ t, exec (.regionResetEnd r) s = .next t ∧ (regionOf t r.val).st = .running ∧ (regionOf t r.val).resetEnd = none ∧
      (regionOf t r.val).present = some k)) ∧
  ((∀ (s : State) (a : Armed), s.ctx.armed = [a] → a.kind = .switch → a.b.toNat ≤ s.clk.time.toNat →
      (regionOf s a.region).st = .running → (regionOf s a.region).pendSw = none → runnable s a.region a.slot.val = true →
      (regionOf s a.region).fabReqAt ≠ some s.clk.fc → (regionOf s a.region).effectAt ≠ some s.clk.fc →
    ∃ t, exec .windowBoundary s = .next t ∧ t.ctx.armed = [] ∧
      (regionOf t a.region).pendSw = some { slot := a.slot, init := a.init, at_ := s.clk.fc, org := a.org }) ∧
  (∀ (s : State) (a : Armed), s.ctx.armed = [a] → a.kind = .hold → a.b.toNat + 4 ≤ s.clk.time.toNat →
      (regionOf s a.region).st = .running →
    ∃ t, exec .windowBoundary s = .next t ∧ t.ctx.armed = [] ∧ (regionOf t a.region).st = .held) ∧
  (∀ (s : State), (∀ a ∈ s.ctx.armed, armedDue s.clk.time.toNat a = false) → exec .windowBoundary s = .next s))

/-- Commands that are armed for a window boundary: each named region holds its armed command, and the command stays open
with one unit for each of them; CTX.STOP of HELD regions alone acts at once (R131, R132, R133, R134, R146). -/
def Obligations.ArmedCommandsReply : Prop :=
  (∀ (s : State) (r : Req) (mask : BitVec 32) (k : BitVec 2) (init : Bool) (at_ : W64) (b : Nat), ready s r 0x0302 = true →
      bitsOf mask ≠ [] → armTime s at_.toNat = .ok b →
    Replies (exec (.ctxSwitch r mask k init at_) s) r 0x0302 .pending [] (withPend r 0x0302 (bitsOf mask).length
      { s with ctx := { s.ctx with armed := s.ctx.armed ++ (bitsOf mask).map (fun n =>
        { org := some (originOf r 0x0302), kind := .switch, region := n, slot := slotFin k.toNat, init := init, b := BitVec.ofNat 64 b }) } })) ∧
  (∀ (s : State) (r : Req) (mask : BitVec 32) (k : BitVec 2) (init : Bool) (at_ : W64) (b : Nat), ready s r 0x0303 = true →
      bitsOf mask ≠ [] → armTime s at_.toNat = .ok b →
    Replies (exec (.ctxStart r mask k init at_) s) r 0x0303 .pending [] (withPend r 0x0303 (bitsOf mask).length
      { s with ctx := { s.ctx with armed := s.ctx.armed ++ (bitsOf mask).map (fun n =>
        { org := some (originOf r 0x0303), kind := .start, region := n, slot := slotFin k.toNat, init := init, b := BitVec.ofNat 64 b }) } })) ∧
  (∀ (s : State) (r : Req) (mask : BitVec 32) (at_ : W64) (b : Nat), ready s r 0x0304 = true →
      bitsOf mask ≠ [] → armTime s at_.toNat = .ok b →
    Replies (exec (.ctxHold r mask at_) s) r 0x0304 .pending [] (withPend r 0x0304 (bitsOf mask).length
      { s with ctx := { s.ctx with armed := s.ctx.armed ++ (bitsOf mask).map (fun n =>
        { org := some (originOf r 0x0304), kind := .hold, region := n, slot := 0, init := false, b := BitVec.ofNat 64 b }) } })) ∧
  (∀ (s : State) (r : Req) (mask : BitVec 32) (at_ : W64) (b : Nat), ready s r 0x0305 = true →
      bitsOf mask ≠ [] → armTime s at_.toNat = .ok b →
    Replies (exec (.ctxResume r mask at_) s) r 0x0305 .pending [] (withPend r 0x0305 (bitsOf mask).length
      { s with ctx := { s.ctx with armed := s.ctx.armed ++ (bitsOf mask).map (fun n =>
        { org := some (originOf r 0x0305), kind := .resume, region := n, slot := 0, init := false, b := BitVec.ofNat 64 b }) } })) ∧
  (∀ (s : State) (r : Req) (mask : BitVec 32) (at_ : W64) (b : Nat), ready s r 0x0307 = true →
      bitsOf mask ≠ [] → armTime s at_.toNat = .ok b →
    Replies (exec (.ctxReset r mask at_) s) r 0x0307 .pending [] (withPend r 0x0307 (bitsOf mask).length
      { s with ctx := { s.ctx with armed := s.ctx.armed ++ (bitsOf mask).map (fun n =>
        { org := some (originOf r 0x0307), kind := .reset, region := n, slot := 0, init := false, b := BitVec.ofNat 64 b }) } })) ∧
  (∀ (s : State) (r : Req) (mask : BitVec 32) (at_ : W64) (b : Nat), ready s r 0x0306 = true → bitsOf mask ≠ [] →
      (∀ n ∈ bitsOf mask, (regionOf s n).st ≠ .held) → armTime s at_.toNat = .ok b →
    Replies (exec (.ctxStop r mask at_) s) r 0x0306 .pending [] (withPend r 0x0306 (bitsOf mask).length
      { s with ctx := { s.ctx with armed := s.ctx.armed ++ (bitsOf mask).map (fun n =>
        { org := some (originOf r 0x0306), kind := .stop, region := n, slot := 0, init := false, b := BitVec.ofNat 64 b }) } })) ∧
  (∀ (s : State) (r : Req) (mask : BitVec 32) (at_ : W64), ready s r 0x0306 = true → bitsOf mask ≠ [] →
      (∀ n ∈ bitsOf mask, (regionOf s n).st = .held) →
    ∃ t, exec (.ctxStop r mask at_) s = .next t ∧ answered t r 0x0306 .ok [] ∧ ∀ n ∈ bitsOf mask, (regionOf t n).st = .ready)

/-- The other CTX commands: a staging joins the queue and stays open; a clear leaves the regions BLANK; an eviction leaves
the slot empty; STATUS reports; WINDOW sets p while nothing is armed (R116, R118, R130, R137, R138, R607). -/
def Obligations.ContextCommandsReply : Prop :=
  (∀ (s : State) (r : Req) (mask : BitVec 32) (n : Nat) (c : BitVec 4) (k : BitVec 2) (fast : Bool), ready s r 0x0301 = true →
      bitsOf mask = [n] → domCut s 49 = false → s.load.lost = false → stageRefusal s n c.toNat k.toNat = none →
      waitingStages s < 64 →
    Replies (exec (.ctxStage r mask c k fast) s) r 0x0301 .pending [] (withPend r 0x0301 1
      { s with ctx := { s.ctx with queue := s.ctx.queue ++
        [{ org := some (originOf r 0x0301), region := n, slot := slotFin k.toNat, ctx := c, fast := fast, granted := false }] } })) ∧
  (∀ (s : State) (r : Req) (mask : BitVec 32), ready s r 0x0308 = true → bitsOf mask ≠ [] →
      (∀ n ∈ bitsOf mask, ((regionOf s n).st = .ready ∨ (regionOf s n).st = .held ∨ (regionOf s n).st = .faulted) ∧
        stagingOf s n = false) →
    ∃ t, exec (.ctxClear r mask) s = .next t ∧ answered t r 0x0308 .ok [] ∧
      ∀ n ∈ bitsOf mask, (regionOf t n).st = .blank ∧ anyVerified (regionOf t n) = false) ∧
  (∀ (s : State) (r : Req) (mask : BitVec 32) (n : Nat) (k : BitVec 2), ready s r 0x0309 = true → bitsOf mask = [n] →
      verified s n k.toNat = true → (regionOf s n).pendSw = none → runsOrHolds (regionOf s n) k.toNat = false →
    ∃ t, exec (.ctxEvict r mask k) s = .next t ∧ answered t r 0x0309 .ok [] ∧ ((regionOf t n).slot k.toNat) = {}) ∧
  (∀ (s : State) (r : Req) (mask : BitVec 32), ready s r 0x030A = true → bitsOf mask ≠ [] →
    Replies (exec (.ctxStatus r mask) s) r 0x030A .ok (packFields ((bitsOf mask).map (fun n => (64, regionStatus s n)))) s) ∧
  (∀ (s : State) (r : Req) (p : BitVec 5), ready s r 0x030B = true → 10 ≤ p.toNat → p.toNat ≤ 20 → s.ctx.armed = [] →
    Replies (exec (.ctxWindow r p) s) r 0x030B .ok [] { s with ctx := { s.ctx with p := p } })

/-- Requests at the DRAM side: a request of one line that nothing bars enters the queue of its sub-channel as a job of its
own; the line that a sub-channel picks leaves its queue with its row open, a read outside every integrity region answers the
words read, and a whole-line write there stores the line under the present key; a promotion marks the request; a refresh
leaves every bank precharged (R311, R313, R317, R319, R320, R321, R322). -/
def Obligations.DramTrafficRows : Prop :=
  (∀ (s : State) (src : BitVec 8) (tag : BitVec 12) (find : EngineFind) (q : NocReq) (l : Nat), meshReq s src tag = some q →
      destOf s q.addr.toNat = .dram → targetShut s q.addr.toNat = false → protDenied s src.toNat q.addr.toNat = false →
      s.start.engineFailed = false → s.prt.key = true → domCut s 2 = false → inCarve s q.addr.toNat (8 * dramWords q) = false →
      dramLines q = [l] → metaFailed s l = false → irOfPage s (l / 64) = none →
      (subOf s (lineChan s l).1 (lineChan s l).2.1).queue.length < 128 →
    ∃ t, exec (.dramRequest src tag find) s = .next t ∧ t.noc.mesh = s.noc.mesh.erase q ∧
      t.dram.jobs = s.dram.jobs ++ [{ id := s.dram.next, req := q, left := [l], got := [], status := .ok }] ∧
      (subOf t (lineChan s l).1 (lineChan s l).2.1).queue = (subOf s (lineChan s l).1 (lineChan s l).2.1).queue ++
        [{ job := s.dram.next, line := l, loc := lineLoc s (lineChan s l).1 (lineChan s l).2.1 (lineChan s l).2.2, cls := q.cls, promoted := false }]) ∧
  (∀ (s : State) (c : Fin 8) (sub nrr : Bool) (o : LineOp) (j : DramJob), (dchanOf s c.val).st = .inService →
      domCut s (7 + c.val) = false → pickOp s (subOf s c.val sub) = some o → jobById s o.job = some j → j.left = [o.line] →
      j.req.op = .read → irOfPage s (o.line / 64) = none → (lineRead o.line s).1.2 = false → j.status = .ok →
      rspLost s j.req.src.toNat j.req.addr.toNat = false →
    ∃ t, exec (.dramServe c sub .none nrr) s = .next t ∧
      t.noc.rsps = s.noc.rsps ++ [{ src := j.req.src, tag := j.req.tag, status := .ok, data := jobData { j with left := [], got := Tab.set 0 j.got o.line (lineRead o.line s).1.1 } }] ∧
      (subOf t c.val sub).queue = (subOf s c.val sub).queue.erase o ∧
      Tab.get none (subOf t c.val sub).openRows o.loc.bank = some o.loc.row) ∧
  (∀ (s : State) (c : Fin 8) (sub nrr : Bool) (o : LineOp) (j : DramJob), (dchanOf s c.val).st = .inService →
      domCut s (7 + c.val) = false → pickOp s (subOf s c.val sub) = some o → jobById s o.job = some j →
      coversLine j.req o.line = true → irOfPage s (o.line / 64) = none →
    ∃ t, exec (.dramServe c sub .none nrr) s = .next t ∧
      Tab.get none t.dram.lines o.line = some { data := mergeLine j.req o.line 0, gen := s.prt.gen, bad := false }) ∧
  (∀ (s : State) (c : Fin 8) (sub : Bool) (pick : Nat) (o : LineOp), (subOf s c.val sub).queue[pick]? = some o →
    ∃ t, exec (.agePromotion c sub pick) s = .next t ∧ (subOf t c.val sub).queue = promote s o (subOf s c.val sub).queue ∧
      { o with promoted := true } ∈ (subOf t c.val sub).queue) ∧
  (∀ (s : State) (c : Fin 8) (sub : Bool), (dchanOf s c.val).st = .inService →
    ∃ t, exec (.refreshTimer c sub) s = .next t ∧ (subOf t c.val sub).openRows = [] ∧
      (subOf t c.val sub).queue = (subOf s c.val sub).queue) ∧
  (∀ s : State, s.dram.dmaCmds ≠ [] → (∀ q ∈ s.noc.out, q.src ≠ 70) →
    ∃ t, exec .dmaStopDone s = .next t ∧ t.dram = { s.dram with dmaCmds := [] })

/-- DRAM channels in service: a failure or a retraining that fails makes a channel FAILED; retraining stores new results; a
queued switch starts on every channel in service and ends each with the new set point in service; a soft repair lets traffic
to the bank resume and clears the row's count (R325, R327, R328, R332, R334). -/
def Obligations.DramChannelRows : Prop :=
  (∀ (s : State) (c : Fin 8) (cause : BitVec 8), (dchanOf s c.val).st = .inService ∨ (dchanOf s c.val).st = .switching →
    ∃ t, exec (.dramChannelFailed c cause) s = .next t ∧ (dchanOf t c.val).st = .failed) ∧
  (∀ (s : State) (c : Fin 8), (dchanOf s c.val).st = .inService →
    ∃ t, exec (.periodicRetrain c true) s = .next t ∧ (dchanOf t c.val).st = .inService ∧
      Tab.get none (dchanOf t c.val).results (dchanOf s c.val).setpoint.toNat =
        some (Config.trainingRecord c.val (dchanOf s c.val).setpoint.toNat s.free)) ∧
  (∀ (s : State) (c : Fin 8), (dchanOf s c.val).st = .inService →
    ∃ t, exec (.periodicRetrain c false) s = .next t ∧ (dchanOf t c.val).st = .failed) ∧
  (∀ (s : State) (org : Origin) (sp : BitVec 2), s.dram.queued = some (org, sp) → gatheringAny s = false → inServiceChans s ≠ [] →
    ∃ t, exec .setpointSwitchStart s = .next t ∧ t.dram.queued = none ∧ t.dram.switch = some (org, sp, inServiceChans s, false) ∧
      ∀ c ∈ inServiceChans s, (dchanOf t c).st = .switching) ∧
  (∀ (s : State) (c : Fin 8) (org : Origin) (sp : BitVec 2) (left : List Nat) (f : Bool), s.dram.switch = some (org, sp, left, f) →
      left.contains c.val = true →
    ∃ t, exec (.setpointSwitchDone c true) s = .next t ∧ (dchanOf t c.val).st = .inService ∧ (dchanOf t c.val).setpoint = sp ∧
      (dchanOf t c.val).speed = spSpeed s sp.toNat ∧
      t.dram.switch = if left.erase c.val = [] then none else some (org, sp, left.erase c.val, f)) ∧
  (∀ (s : State) (c : Fin 8) (x : DramLoc) (org : Option Origin), (dchanOf s c.val).repair = [(x, org)] →
    ∃ t, exec (.softRepairDone c) s = .next t ∧ (dchanOf t c.val).repair = [] ∧ (subOf t c.val x.sub).heldBank = none ∧
      Tab.get 0 (dchanOf t c.val).rowErrs x.rowKey = 0)

/-- DRM commands: a set point switch starts at once while no training data are gathered; the parameters of the channels are
set within their bounds; a repair of an existing row joins the repairs of its channel; EXCLUDE and INCLUDE change the repair
record; training records go out and come in; DMA_STOP stops its channels; STATUS and ERRLOG report (R308, R321, R323, R325,
R328, R330, R331, R333, R336, R339, R340, R605). -/
def Obligations.DrmCommandsReply : Prop :=
  (∀ (s : State) (r : Req) (sp : BitVec 2), ready s r 0x0702 = true → inServiceChans s ≠ [] → (spSpeed s sp.toNat).toNat ≤ topSpeedAll s →
      gatheringAny s = false →
    ∃ t, exec (.drmSetpoint r sp) s = .next t ∧ answered t r 0x0702 .pending [] ∧
      t.dram.switch = some (originOf r 0x0702, sp, inServiceChans s, false) ∧
      ∀ c ∈ inServiceChans s, (dchanOf t c).st = .switching) ∧
  (∀ (s : State) (r : Req) (sp : BitVec 2) (speed : BitVec 3), ready s r 0x0703 = true → speed.toNat ≤ 4 → speed.toNat ≤ topSpeedAll s →
      spInUse s sp.toNat = false →
    ∃ t, exec (.drmSetpointCfg r sp speed) s = .next t ∧ answered t r 0x0703 .ok [] ∧ spSpeed t sp.toNat = speed ∧
      ∀ c, c < 8 → Tab.get none (dchanOf t c).results sp.toNat = none) ∧
  (∀ (s : State) (r : Req) (cls : BitVec 2) (age : BitVec 16), ready s r 0x0704 = true → 50 ≤ age.toNat →
    Replies (exec (.drmQos r cls age) s) r 0x0704 .ok []
      { s with dram := { s.dram with ages := Tab.set none s.dram.ages cls.toNat (some age) } }) ∧
  (∀ (s : State) (r : Req) (mask : BitVec 8) (e : BitVec 5), ready s r 0x0705 = true → 9 ≤ e.toNat → e.toNat ≤ 16 →
    ∃ t, exec (.drmNrr r mask e) s = .next t ∧ answered t r 0x0705 .ok [] ∧ ∀ c ∈ bitsOf mask, (dchanOf t c).nrrExp = e) ∧
  (∀ (s : State) (r : Req) (c : BitVec 3) (sub dimm rank : Bool) (cid bg : BitVec 3) (ba : BitVec 2) (row : BitVec 18) (x : DramLoc),
      ready s r 0x0706 = true →
      x = { sub := sub, dimm := bit dimm, rank := bit rank, cid := cid.toNat, bg := bg.toNat, ba := ba.toNat, row := row.toNat, col := 0 } →
      (dchanOf s c.toNat).st = .inService → rowExists s c.toNat x = true →
      (dchanOf s c.toNat).noSpare.contains x.group = false →
    ∃ t, exec (.drmPpr r c sub dimm rank cid bg ba row) s = .next t ∧ answered t r 0x0706 .pending [] ∧
      (dchanOf t c.toNat).repair = (dchanOf s c.toNat).repair ++ [(x, some (originOf r 0x0706))]) ∧
  (∀ (s : State) (r : Req) (mask : BitVec 8), ready s r 0x0707 = true →
    ∃ t, exec (.drmPprAuto r mask false) s = .next t ∧ answered t r 0x0707 .ok [] ∧ ∀ c ∈ bitsOf mask, (dchanOf t c).pprAuto = false) ∧
  (∀ (s : State) (r : Req) (mask : BitVec 8), ready s r 0x0708 = true → tooHot s = false →
    ∃ t, exec (.drmExclude r mask) s = .next t ∧ answered t r 0x0708 .ok [] ∧
      t.start.rr = { recordNow s with exclude := (recordNow s).exclude ||| mask, gen := s.start.rr.gen + 1 }) ∧
  (∀ (s : State) (r : Req) (mask : BitVec 8), ready s r 0x0709 = true → tooHot s = false →
    ∃ t, exec (.drmInclude r mask) s = .next t ∧ answered t r 0x0709 .ok [] ∧
      t.start.rr = { recordNow s with exclude := (recordNow s).exclude &&& ~~~mask, gen := s.start.rr.gen + 1 }) ∧
  (∀ (s : State) (r : Req) (c : BitVec 3) (sp : BitVec 2) (x : List Byte), ready s r 0x070A = true →
      Tab.get none (dchanOf s c.toNat).results sp.toNat = some x →
    Replies (exec (.drmTrainExport r c sp) s) r 0x070A .ok x s) ∧
  (∀ (s : State) (r : Req) (c : BitVec 3) (sp : BitVec 2) (x : List Byte) (d : Dimm), ready s r 0x070B = true →
      Config.recordCrcOk x = true → some d ∈ (dchanOf s c.toNat).dimms → d.serial = Config.recordSerial x → spInUse s sp.toNat = false →
    ∃ t, exec (.drmTrainImport r c sp x) s = .next t ∧ answered t r 0x070B .ok [] ∧
      Tab.get none (dchanOf t c.toNat).results sp.toNat = some x) ∧
  (∀ (s : State) (r : Req) (mask : BitVec 16), ready s r 0x070C = true →
    Replies (exec (.drmDmaStop r mask) s) r 0x070C .pending [] (withPend r 0x070C 1
      { s with dram := { s.dram with dmaStopped := s.dram.dmaStopped ||| mask, dmaCmds := s.dram.dmaCmds ++ [originOf r 0x070C] } })) ∧
  (∀ (s : State) (r : Req) (mask : BitVec 8), ready s r 0x0701 = true →
    Replies (exec (.drmStatus r mask) s) r 0x0701 .ok (packFields ((bitsOf mask).flatMap (fun c =>
      (dramRegs s c).map (fun v => (64, v)) ++ dimmFields ((dchanOf s c).dimms.getD 0 none) ++
        dimmFields ((dchanOf s c).dimms.getD 1 none)))) s) ∧
  (∀ (s : State) (r : Req) (c : BitVec 3), ready s r 0x070D = true →
    Replies (exec (.drmErrlog r c) s) r 0x070D .ok (packFields
      ([(8, (dchanOf s c.toNat).errLog.length), (16, ((recordNow s).ppr.filter (fun e => field e.toNat 0 3 == c.toNat)).length)] ++
        ((dchanOf s c.toNat).errLog.map (fun e => (pprEntry c.toNat e.1 (bit e.2)).toNat) ++
          ((recordNow s).ppr.filter (fun e => field e.toNat 0 3 == c.toNat)).map (fun e => e.toNat)).map (fun v => (64, v)))) s)

/-- Rows of the fabric: a fabric clock cycle advances the fabric count, the count since the lock and chain time by one, and
does nothing while the clock is stopped; the parity check of a carry-over group leaves the values it finds; an upset changes
one configuration bit; the first failed pad of a signal is only counted (R15, R33, R50, R69). The scrubber and the store
patrol: a frame that is checked takes the value of its golden frame; a pass ends when every verified plane has been visited;
a stall stops the scrubber; the patrol counts corrected errors and marks a frame with an uncorrectable one damaged;
SCRUB_STATUS reports the counters (R196, R228, R231, R235, R236). -/
def Obligations.FabricAndScrubRows : Prop :=
  ((∀ s : State, fabricClock s = true →
    ∃ t, exec .fabricClockCycle s = .next t ∧ t.clk = { s.clk with fc := s.clk.fc + 1, sinceLock := s.clk.sinceLock + 1, time := s.clk.time + 1 }) ∧
  (∀ s : State, fabricClock s = false → exec .fabricClockCycle s = .next s) ∧
  (∀ (s : State) (layer : Bool) (column row : Fin 24) (g : Fin 4) (upset : BitVec 17),
    ∃ t, exec (.carryoverParity layer column row g upset) s = .next t ∧
      Tab.get 0 t.fab.co (576 * bit layer + 24 * row.val + column.val) =
        Tab.get 0 s.fab.co (576 * bit layer + 24 * row.val + column.val) ^^^
          ((upset.extractLsb' 0 16).zeroExtend 64 <<< (16 * g.val)) ∧
      Tab.get 0 t.fab.coPar (576 * bit layer + 24 * row.val + column.val) =
        Tab.get 0 s.fab.coPar (576 * bit layer + 24 * row.val + column.val) ^^^
          ((upset.extractLsb' 16 1).zeroExtend 4 <<< g.val)) ∧
  (∀ (s : State) (r : Fin 32) (k : Fin 4) (tile : Fin 36) (f b : Fin 1024), ((regionOf s r.val).slot k.val).st ≠ .empty →
    ∃ t, exec (.configurationUpset r k tile f b) s = .next t ∧
      Tab.get 0 ((regionOf t r.val).slot k.val).plane (1024 * tile.val + f.val) =
        Tab.get 0 ((regionOf s r.val).slot k.val).plane (1024 * tile.val + f.val) ^^^ (1#1024 <<< b.val) ∧
      ∀ n, n ≠ 1024 * tile.val + f.val → Tab.get 0 ((regionOf t r.val).slot k.val).plane n =
        Tab.get 0 ((regionOf s r.val).slot k.val).plane n) ∧
  (∀ (s : State) (layer : Bool) (column row : Fin 24) (c : Fin 256) (w : Fin 16),
      s.start.bondPads.contains (bondSignal layer column.val row.val c.val w.val) = false →
    ∃ t, exec (.bondPadFailure layer column row c w) s = .next t ∧
      t.start.bondPads = s.start.bondPads ++ [bondSignal layer column.val row.val c.val w.val] ∧
      t.mbx.bondPadFails = satAdd s.mbx.bondPadFails 1 ∧ t.ctx = s.ctx)) ∧
  ((∀ (s : State) (x : Stored), scrubRuns s = true → shareLent s = false → onPlane (scrubPlace s) = true →
      Tab.get none s.load.store (16 * (scrubPlace s).region +
        ((regionOf s (scrubPlace s).region).slot (scrubPlace s).slot).ctx.toNat) = some x →
      x.damaged.contains (scrubPlace s).frame = false → (regionOf s (scrubPlace s).region).st ≠ .running →
    ∃ t, exec (.scrubFrameCheck false false false) s = .next t ∧
      Tab.get 0 ((regionOf t (scrubPlace s).region).slot (scrubPlace s).slot).plane (scrubPlace s).frame =
        Tab.get 0 x.frames (scrubPlace s).frame) ∧
  (∀ (s : State) (us : BitVec 32), scrubRuns s = true → onPlane (scrubPlace s) = false → (scrubPlace s).deferred = [] →
      (∃ r, r < 32 ∧ anyVerified (regionOf s r) = true) →
    exec (.scrubPassEnd us) s = .next { s with scrub := { scrubPlace s with
      region := 0, slot := 0, frame := 0, back := [], late := false, passes := satAdd (scrubPlace s).passes 1, lastUs := us } }) ∧
  (∀ s : State, scrubRuns s = true →
    ∃ t, exec .scrubStallTimeout s = .next t ∧ t.scrub = { s.scrub with stalled := true }) ∧
  (∀ (s : State) (r : Fin 32) (c : Fin 16) (tile : Fin 36) (f : Fin 1024) (corr ue : Bool) (x : Stored),
      Tab.get none s.load.store (16 * r.val + c.val) = some x → domOn s 48 = true →
      x.damaged.contains (1024 * tile.val + f.val) = false →
      (∀ k, k < 4 → verified s r.val k = true → ((regionOf s r.val).slot k).ctx.toNat ≠ c.val) →
    ∃ t, exec (.storePatrolRead r c tile f corr ue) s = .next t ∧
      Tab.get none t.load.store (16 * r.val + c.val) =
        some { x with damaged := if ue then x.damaged ++ [1024 * tile.val + f.val] else x.damaged } ∧
      t.scrub.storeUe = (if ue then satAdd s.scrub.storeUe 1 else s.scrub.storeUe) ∧
      t.scrub.storeCe = (if corr && !ue then satAdd s.scrub.storeCe 1 else s.scrub.storeCe)) ∧
  (∀ (s : State) (r : Req), ready s r 0x0206 = true →
    Replies (exec (.cfgScrubStatus r) s) r 0x0206 .ok (packFields [(64, s.scrub.passes.toNat), (32, s.scrub.lastUs.toNat),
      (32, s.scrub.votes.toNat), (64, s.scrub.corrNon.toNat), (64, s.scrub.corrRun.toNat), (64, s.scrub.corrOther.toNat),
      (32, s.scrub.goldenUe.toNat), (32, s.scrub.mapFallback.toNat), (32, s.scrub.storeCe.toNat), (32, s.scrub.storeUe.toNat)]) s))

/-- Integrity regions: the conversion rewrites the page at its pointer and ends behind the last; the zero-fill of a creation
leaves the region in service and that of a deletion leaves it off; a zero-filled range reads as zero (R347, R348, R355,
R356, R362). -/
def Obligations.IntegrityRows : Prop :=
  (∀ (s : State) (i : Fin 8), s.prt.key = true → (irOf s i.val).st = .converting → (irOf s i.val).reinit = none →
      poisonOf s ((irOf s i.val).conv.toNat / 4096) = none →
      convAtEnd { irOf s i.val with conv := (irOf s i.val).conv + 4096 } = false →
    ∃ t, exec (.conversionPage i) s = .next t ∧ (irOf t i.val).conv = (irOf s i.val).conv + 4096 ∧
      (irOf t i.val).st = .converting ∧ pageCurrent t i.val ((irOf s i.val).conv.toNat / 4096) = true) ∧
  (∀ (s : State) (i : Fin 8), s.prt.key = true → (irOf s i.val).st = .converting → (irOf s i.val).reinit = none →
      convAtEnd { irOf s i.val with conv := (irOf s i.val).conv + 4096 } = true → (irOf s i.val).queued = [] →
    ∃ t, exec (.conversionPage i) s = .next t ∧ (irOf t i.val).conv = 0 ∧ (irOf t i.val).st = .inService ∧
      (irOf t i.val).epoch = (irOf s i.val).epoch) ∧
  (∀ (s : State) (i : Fin 8) (org : Origin), (irOf s i.val).cmd = some org → s.prt.key = true → (irOf s i.val).st = .changing →
    ∃ t, exec (.irSetDone i) s = .next t ∧ (irOf t i.val).cmd = none ∧
      (irOf t i.val).st = (if (irOf s i.val).deleting then .off else .inService) ∧
      (irOf t i.val).en = (if (irOf s i.val).deleting then false else (irOf s i.val).en) ∧
      ∀ l, 64 * (irOf s i.val).firstPage ≤ l → l < 64 * (irOf s i.val).firstPage + 64 * (irOf s i.val).numPages →
        (lineRead l t).1 = (0, false)) ∧
  (∀ (s : State) (i : Fin 8) (org : Origin) (first count : Nat), (irOf s i.val).reinit = some (org, first, count) → s.prt.key = true →
    ∃ t, exec (.reinitZeroFillDone i) s = .next t ∧ (irOf t i.val).reinit = none ∧
      ∀ l, 64 * first ≤ l → l < 64 * first + 64 * count → (lineRead l t).1 = (0, false))

/-- PRT commands: STATUS reports the registers and the poison list; CAPACITY goes into the repair record; IR_SET begins the
creation of a region that fits; REINIT advances the epoch and names its range; RANGE_SET writes an unlocked range; PRIV
names the privileged masters (R346, R348, R355, R361, R362, R364, R366). -/
def Obligations.PrtCommandsReply : Prop :=
  (∀ (s : State) (r : Req), ready s r 0x0801 = true →
    Replies (exec (.prtStatus r) s) r 0x0801 .ok (packFields ((prtWords s).map (fun w => (64, w)) ++
      s.prt.poison.flatMap (fun e => [(8, e.ir), (8, e.level), (64, e.index)]))) s) ∧
  (∀ (s : State) (r : Req) (p : BitVec 11), ready s r 0x0802 = true → capacityOk p.toNat = true → tooHot s = false →
    ∃ t, exec (.prtCapacity r p) s = .next t ∧ answered t r 0x0802 .ok [] ∧
      t.start.rr = { recordNow s with prtCap := p.zeroExtend 16, gen := s.start.rr.gen + 1 }) ∧
  (∀ (s : State) (r : Req) (i : BitVec 3) (base : BitVec 10) (k : BitVec 4), ready s r 0x0803 = true → s.prt.key = true →
      (irOf s i.toNat).en = false → (irOf s i.toNat).st ≠ .changing → (irOf s i.toNat).st ≠ .converting →
      irFits s i.toNat base.toNat k.toNat = true →
    ∃ t, exec (.prtIrSet r i true base k) s = .next t ∧ answered t r 0x0803 .pending [] ∧ (irOf t i.toNat).en = true ∧
      (irOf t i.toNat).st = .changing ∧ (irOf t i.toNat).baseGib = base ∧ (irOf t i.toNat).sizeLog2 = k ∧
      (irOf t i.toNat).cmd = some (originOf r 0x0803)) ∧
  (∀ (s : State) (r : Req) (i : BitVec 3) (first count : BitVec 36), ready s r 0x0804 = true → s.prt.key = true →
      (irOf s i.toNat).en = true → (irOf s i.toNat).st = .inService → count ≠ 0 →
      (irOf s i.toNat).firstPage ≤ first.toNat →
      first.toNat + count.toNat ≤ (irOf s i.toNat).firstPage + (irOf s i.toNat).numPages → s.prt.poison = [] →
      (irOf s i.toNat).epoch ≠ BitVec.allOnes 32 →
    ∃ t, exec (.prtReinit r i first count) s = .next t ∧ answered t r 0x0804 .pending [] ∧
      (irOf t i.toNat).reinit = some (originOf r 0x0804, first.toNat, count.toNat) ∧
      (irOf t i.toNat).epoch = (irOf s i.toNat).epoch + 1 ∧ (irOf t i.toNat).st = .converting) ∧
  (∀ (s : State) (r : Req) (m : BitVec 4) (base limit : BitVec 36) (en lock : Bool), ready s r 0x0805 = true →
      (Tab.get {} s.prt.ranges m.toNat).lock = false → base.toNat ≤ limit.toNat →
    Replies (exec (.prtRangeSet r m base limit en lock) s) r 0x0805 .ok []
      { s with prt := { s.prt with ranges := Tab.set {} s.prt.ranges m.toNat { base := base, limit := limit, en := en, lock := lock } } }) ∧
  (∀ (s : State) (r : Req) (m : BitVec 4) (base limit : BitVec 36) (en lock : Bool), ready s r 0x0805 = true →
      (Tab.get {} s.prt.ranges m.toNat).lock = true →
    Replies (exec (.prtRangeSet r m base limit en lock) s) r 0x0805 .state [] s) ∧
  (∀ (s : State) (r : Req) (mask : BitVec 256), ready s r 0x0806 = true → mask.getLsbD 70 = false → mask.getLsbD 71 = false →
    Replies (exec (.prtPriv r mask) s) r 0x0806 .ok [] { s with prt := { s.prt with priv := mask } })

/-- LNK commands over ports: STATUS reports; UP enables the ports that are disabled or in TEST, DOWN disables those that
nothing keeps; ROLE changes the role while no context is loaded; RESET and WIDEN wait at links that are up; TEST takes a
port into TEST, and its result is read; FEC_INJECT and LANE_LIMIT set their port's fields (R240, R250, R260, R265, R299,
R300, R302, R604). -/
def Obligations.LnkPortCommandsReply : Prop :=
  (∀ (s : State) (r : Req) (mask : BitVec 6), ready s r 0x0901 = true →
    Replies (exec (.lnkStatus r mask) s) r 0x0901 .ok (packFields ((maskPorts mask.toNat).flatMap (portRecord s))) s) ∧
  (∀ (s : State) (r : Req) (mask : BitVec 6) (enc : Bool), ready s r 0x0902 = true → maskPorts mask.toNat ≠ [] →
    ∃ t, exec (.lnkUp r mask enc) s = .next t ∧ answered t r 0x0902 .pending [] ∧
      ∀ p ∈ maskPorts mask.toNat, portIdle s p = true → (portOf t p).st = .detect ∧ (portOf t p).enabled = true ∧
        (portOf t p).encReq = ((portOf s p).encReq || enc)) ∧
  (∀ (s : State) (r : Req) (mask : BitVec 6), ready s r 0x0903 = true →
      (∀ p ∈ maskPorts mask.toNat, (portOf s p).slots = [] ∧ s.lnk.upstream ≠ some p) →
    ∃ t, exec (.lnkDown r mask) s = .next t ∧ answered t r 0x0903 .ok [] ∧
      ∀ p ∈ maskPorts mask.toNat, (portOf t p).st = .disabled) ∧
  (∀ (s : State) (r : Req) (member : Bool), ready s r 0x0904 = true → s.lnk.member ≠ member →
      (∀ n, n < 32 → (regionOf s n).st = .off ∨ (regionOf s n).st = .blank ∨ (regionOf s n).st = .retired) →
    ∃ t, exec (.lnkRole r member) s = .next t ∧ answered t r 0x0904 .ok [] ∧ t.lnk.member = member ∧
      (pllOf t 0).locked = false ∧ t.clk.timeLocked = false) ∧
  (∀ (s : State) (r : Req) (mask : BitVec 6), ready s r 0x0908 = true → maskPorts mask.toNat ≠ [] →
      (∀ p ∈ maskPorts mask.toNat, (portOf s p).st = .up ∧ (portOf s p).cmdReset = none) →
    ∃ t, exec (.lnkReset r mask) s = .next t ∧ answered t r 0x0908 .pending [] ∧
      ∀ p ∈ maskPorts mask.toNat, (portOf t p).cmdReset = some (originOf r 0x0908)) ∧
  (∀ (s : State) (r : Req) (mask : BitVec 6), ready s r 0x0909 = true → maskPorts mask.toNat ≠ [] →
      (∀ p ∈ maskPorts mask.toNat, (portOf s p).st = .up ∧ (portOf s p).cmdWiden = none) →
    ∃ t, exec (.lnkWiden r mask) s = .next t ∧ answered t r 0x0909 .pending [] ∧
      ∀ p ∈ maskPorts mask.toNat, (portOf t p).cmdWiden = some (originOf r 0x0909)) ∧
  (∀ (s : State) (r : Req) (port : BitVec 3) (mask : BitVec 10) (pattern : BitVec 3) (pam2 : Bool) (user : BitVec 160)
      (mode : BitVec 2) (e : BitVec 6) (b : BitVec 7), ready s r 0x090A = true →
      testLegal port.toNat pattern.toNat mode.toNat e.toNat b.toNat = true → portIdle s port.toNat = true →
    ∃ t, exec (.lnkTest r port mask pattern pam2 user mode e b) s = .next t ∧ answered t r 0x090A .ok [] ∧
      (portOf t port.toNat).st = .test ∧ (portOf t port.toNat).test =
        some { mask := mask, pattern := pattern, pam2 := pam2, user := user, inject := mode, e := e, b := b }) ∧
  (∀ (s : State) (r : Req) (port : BitVec 3) (c : TestCfg), ready s r 0x090B = true → port.toNat < 6 →
      (portOf s port.toNat).test = some c →
    ∃ t data, exec (.lnkTestResult r port) s = .next t ∧ answered t r 0x090B .ok data ∧ t.free = s.free + 10 ∧
      (portOf t port.toNat).testReads = (portOf s port.toNat).testReads + 1) ∧
  (∀ (s : State) (r : Req) (port lane : BitVec 3) (n : BitVec 4) (m : BitVec 16), ready s r 0x090F = true → port.toNat < 6 →
      n ≠ 0 → n.toNat ≤ 8 → m ≠ 0 → (portOf s port.toNat).st = .up → lane.toNat < widthLanes (portOf s port.toNat).txWidth →
    ∃ t, exec (.lnkFecInject r port lane n m) s = .next t ∧ answered t r 0x090F .ok [] ∧
      (portOf t port.toNat).fecInject = some (lane, n, m)) ∧
  (∀ (s : State) (r : Req) (mask : BitVec 6) (limit : BitVec 16), ready s r 0x0910 = true → limit ≠ 0 →
    ∃ t, exec (.lnkLaneLimit r mask limit) s = .next t ∧ answered t r 0x0910 .ok [] ∧
      ∀ p ∈ maskPorts mask.toNat, (portOf t p).laneLimit = limit)

/-- LNK commands over the tables and chain time: a route is set and read back, a chain window is set, TIME and SLOTS report,
and a trim is kept for its port (R279, R281, R284, R292, R604). -/
def Obligations.LnkTableCommandsReply : Prop :=
  (∀ (s : State) (r : Req) (h : BitVec 12) (route : W64) (next : BitVec 12), ready s r 0x0905 = true → h ≠ 0 →
      route.toNat < 2 ^ 63 → (usesNext route = true → next ≠ 0) → reaches s h.toNat 4096 next.toNat = false →
    Replies (exec (.lnkRouteSet r h route next) s) r 0x0905 .ok []
      { s with lnk := { s.lnk with routes := Tab.set {} s.lnk.routes h.toNat { route := route, next := next, present := true } } }) ∧
  (∀ (s : State) (r : Req) (h : BitVec 12), ready s r 0x0906 = true →
    Replies (exec (.lnkRouteGet r h) s) r 0x0906 .ok (packFields [(64, (Tab.get {} s.lnk.routes h.toNat).route.toNat),
      (12, (Tab.get {} s.lnk.routes h.toNat).next.toNat)]) s) ∧
  (∀ (s : State) (r : Req) (j : BitVec 8) (h base : BitVec 12) (w a : Bool), ready s r 0x0907 = true →
      h = 0 ∨ (Tab.get {} s.lnk.routes h.toNat).present = true →
    Replies (exec (.lnkCwinSet r j h base w a) s) r 0x0907 .ok []
      { s with lnk := { s.lnk with cwins := Tab.set {} s.lnk.cwins j.toNat { handle := h, base := base, writeEn := w, atomicEn := a } } }) ∧
  (∀ (s : State) (r : Req), ready s r 0x090C = true →
    Replies (exec (.lnkTime r) s) r 0x090C .ok (packFields [(64, (evTime s).toNat), (8, bit s.clk.unsync), (8, bit s.lnk.member),
      (8, match s.lnk.upstream with | some p => p | none => 0xFF),
      (64, if s.clk.timeLocked then s.clk.chainId.toNat else 0)]) s) ∧
  (∀ (s : State) (r : Req) (port : BitVec 3) (ps : BitVec 16), ready s r 0x090D = true → port.toNat < 6 → ps.toInt.natAbs ≤ 5000 →
    ∃ t, exec (.lnkTimeTrim r port ps) s = .next t ∧ answered t r 0x090D .ok [] ∧ (portOf t port.toNat).asym = ps ∧
      ((portOf s port.toNat).st ≠ .up → (portOf t port.toNat) = { portOf s port.toNat with asym := ps })) ∧
  (∀ (s : State) (r : Req) (port : BitVec 3), ready s r 0x090E = true → port.toNat < 6 →
    ∃ data, Replies (exec (.lnkSlots r port) s) r 0x090E .ok data s ∧
      data = packFields ((64, fieldsWord ((portOf s port.toNat).slots.map (fun e => (e.1, 1)))) ::
        (List.range 64).map (fun j => (16, match Tab.get none (portOf s port.toNat).slots j with | some n => n.toNat | none => 0))))

/-- Link training: receivers found on the clock and two data lanes start step 2; each step that succeeds goes on to the next
one; a step that times out returns to step 1 for a retry; the announcement resolves the role; a ready port with a peer comes
up with the peer's credits (R242, R250, R251, R267, R295). -/
def Obligations.LinkTrainingRows : Prop :=
  (∀ (s : State) (p : Fin 6) (lanes : List DetectFind), canTrain s p.val = true → (portOf s p.val).retry = false →
      (portOf s p.val).st = .detect → (∀ f ∈ lanes.take 9, f ≠ .transmitter) →
      2 ≤ ((lanes.take 9).filter (fun f => f == .receiver)).length →
    exec (.linkDetectStep p .receiver lanes) s = .next (updPort p.val (fun x => { x with st := .clock }) s)) ∧
  (∀ (s : State) (p : Fin 6) (o : TrainObs), (portOf s p.val).st = .clock →
    ∃ t, exec (.linkTrainingStepDone p o) s = .next t ∧ (portOf t p.val).st = .lanes ∧ (portOf t p.val).clkInverted = o.clkInverted) ∧
  (∀ (s : State) (p : Fin 6) (o : TrainObs), (portOf s p.val).st = .lanes → o.miswired = false →
    ∃ t, exec (.linkTrainingStepDone p o) s = .next t ∧ (portOf t p.val).st = .equalise ∧ (portOf t p.val).rxInverted = o.laneInverted ∧
      (portOf t p.val).rxReversed = o.reversed) ∧
  (∀ (s : State) (p : Fin 6) (o : TrainObs), (portOf s p.val).st = .equalise →
    exec (.linkTrainingStepDone p o) s = .next (updPort p.val (fun x => { x with st := .frame }) s)) ∧
  (∀ (s : State) (p : Fin 6) (o : TrainObs), (portOf s p.val).st = .exchange → (portOf s p.val).role ≠ 0 →
    exec (.linkTrainingStepDone p o) s = .next (updPort p.val (fun x => { x with st := .measure }) s)) ∧
  (∀ (s : State) (p : Fin 6) (o : TrainObs), (portOf s p.val).st = .key → (portOf s p.val).ready = false → o.keyOk = true →
    exec (.linkTrainingStepDone p o) s =
      .next (updPort p.val (fun x => { x with encrypted := true, keys := x.keys + 1, ready := true }) s)) ∧
  (∀ (s : State) (p : Fin 6), (portOf s p.val).st = .clock ∨ (portOf s p.val).st = .equalise ∨ (portOf s p.val).st = .exchange →
    ∃ t, exec (.linkStepTimeout p) s = .next t ∧ (portOf t p.val).st = .detect ∧ (portOf t p.val).retry = true ∧
      (portOf t p.val).downCause = 6) ∧
  (∀ (s : State) (p : Fin 6), exec (.linkRetryTimer p) s = .next (updPort p.val (fun x => { x with retry := false }) s)) ∧
  (∀ (s : State) (p : Fin 6) (c : Capability), (portOf s p.val).st = .exchange → s.lnk.member = false → c.root = false →
      s.clk.timeLocked = false → s.lnk.upstream = none →
    ∃ t, exec (.capabilityWord p c) s = .next t ∧ (portOf t p.val).peer = some c ∧
      (portOf t p.val).role = (if c.upstreamFlag then 2 else 0)) ∧
  (∀ (s : State) (p : Fin 6) (c : Capability), (portOf s p.val).peer = some c → (portOf s p.val).ready = true →
      (portOf s p.val).st ≠ .up →
    ∃ t, exec (.linkUp p) s = .next t ∧ (portOf t p.val).st = .up ∧ (portOf t p.val).upCount = satAdd (portOf s p.val).upCount 1 ∧
      (portOf t p.val).credReq = c.txnReqCredits.toNat ∧ (portOf t p.val).credRsp = c.txnRspCredits.toNat)

/-- Lanes and delays of a link that is up: a failed lane is recorded and, at width 8 with the spare free, its replacement is
requested; a request of the peer is acknowledged; the step takes effect at its frame; a bad spare is marked; a PRBS check
that allows a wider width requests it; delay words are echoed and measured; a poison notice is taken (R254, R260 to R266,
R298). -/
def Obligations.LinkLaneRows : Prop :=
  (∀ (s : State) (p : Fin 6) (k : Fin 9), (portOf s p.val).st = .up → (portOf s p.val).rxMap.contains k.val = false →
    exec (.laneFailed p k) s = .next (updPort p.val (fun x => { x with rxFailed := x.rxFailed ||| (1#9 <<< k.val) }) s)) ∧
  (∀ (s : State) (p : Fin 6) (k : Fin 9), (portOf s p.val).st = .up → (portOf s p.val).rxMap.contains k.val = true →
      (portOf s p.val).txStep = none → (portOf s p.val).rxWidth = 3 → (portOf s p.val).rxSpare = false →
      (portOf s p.val).rxReversed = false → (portOf s p.val).rxFailed = 0 → (portOf s p.val).spareBad = false → k.val < 8 →
    ∃ t, exec (.laneFailed p k) s = .next t ∧ (portOf t p.val).ctrlOut = (portOf s p.val).ctrlOut ++ [(1, BitVec.ofNat 48 k.val)] ∧
      ∃ st, (portOf t p.val).rxStep = some st ∧ st.width = 3 ∧ st.spare = true ∧
        st.map = (portOf s p.val).rxMap.map (fun n => if n = k.val then 8 else n)) ∧
  (∀ (s : State) (p : Fin 6) (k : Fin 9), (portOf s p.val).st = .up → (portOf s p.val).txStep = none →
      (portOf s p.val).txSpare = false → (portOf s p.val).txMap.contains k.val = true →
    ∃ t, exec (.spareRequest p k) s = .next t ∧ ∃ st, (portOf t p.val).txStep = some st ∧ st.spare = true ∧
      st.map = (portOf s p.val).txMap.map (fun n => if n = k.val then 8 else n) ∧ st.switch = some (switchFrame s) ∧
      (portOf t p.val).ctrlOut = (portOf s p.val).ctrlOut ++ [(3, (switchFrame s).zeroExtend 48)]) ∧
  (∀ (s : State) (p : Fin 6) (code : BitVec 2) (mask : BitVec 9), (portOf s p.val).st = .up → (portOf s p.val).txStep = none →
      code ≠ 0 →
    ∃ t, exec (.widthRequest p code mask) s = .next t ∧ ∃ st, (portOf t p.val).txStep = some st ∧ st.width = code ∧
      st.switch = some (switchFrame s) ∧ (portOf t p.val).txFailed = ~~~mask) ∧
  (∀ (s : State) (p : Fin 6) (frame : BitVec 32) (st : LaneStep), (portOf s p.val).rxStep = some st →
    ∃ t, exec (.linkAcknowledge p frame) s = .next t ∧
      (portOf t p.val) = { portOf s p.val with rxStep := some { st with switch := some frame } }) ∧
  (∀ (s : State) (p : Fin 6) (st : LaneStep), (portOf s p.val).txStep = some st → st.switch.isSome = true →
    ∃ t, exec (.laneMapSwitch p false) s = .next t ∧ (portOf t p.val).txStep = none ∧ (portOf t p.val).txWidth = st.width ∧
      (portOf t p.val).txMap = st.map ∧ (portOf t p.val).txSpare = st.spare) ∧
  (∀ (s : State) (p : Fin 6) (st : LaneStep), (portOf s p.val).rxStep = some st → st.switch.isSome = true →
    ∃ t, exec (.laneMapSwitch p true) s = .next t ∧ (portOf t p.val).rxStep = none ∧ (portOf t p.val).rxWidth = st.width ∧
      (portOf t p.val).rxMap = st.map ∧ (portOf t p.val).rxSpare = st.spare) ∧
  (∀ (s : State) (p : Fin 6) (n : BitVec 32), (portOf s p.val).st = .up → (portOf s p.val).rxSpare = false →
      (portOf s p.val).spareBad = false → s.thm.throttle = false → 16 < n.toNat →
    ∃ t, exec (.spareLaneCheck p n) s = .next t ∧ (portOf t p.val).spareBad = true) ∧
  (∀ (s : State) (p : Fin 6) (good : BitVec 9) (org : Origin), (portOf s p.val).cmdWiden = some org →
      (portOf s p.val).rxStep = none → (portOf s p.val).txStep = none →
      (portOf s p.val).rxWidth < (widthStep (portOf s p.val)
        (good ||| BitVec.ofNat 9 (fieldsWord ((portOf s p.val).rxMap.map (fun k => (k, 1))))) 0xFF true).width →
    ∃ t, exec (.widenPrbsCheckDone p good) s = .next t ∧
      (portOf t p.val).rxStep = some (widthStep (portOf s p.val)
        (good ||| BitVec.ofNat 9 (fieldsWord ((portOf s p.val).rxMap.map (fun k => (k, 1))))) 0xFF true) ∧
      (portOf t p.val).cmdWiden = some org) ∧
  (∀ (s : State) (p : Fin 6) (a b : BitVec 48), (portOf s p.val).st = .measure ∨ (portOf s p.val).st = .up →
    exec (.delayMeasurementRequest p a b) s = .next (updPort p.val (fun x => { x with ctrlOut := x.ctrlOut ++ [(5, a + b)] }) s)) ∧
  (∀ (s : State) (p : Fin 6) (a b : BitVec 48), (portOf s p.val).st = .measure ∨ (portOf s p.val).st = .up →
      (portOf s p.val).asym = 0 →
    ∃ t, exec (.delayMeasurementReply p a b) s = .next t ∧ (portOf t p.val) = { portOf s p.val with
      rxWire := BitVec.ofNat 32 ((b - a).toNat / 2), txWire := BitVec.ofNat 32 ((b - a).toNat / 2) }) ∧
  (∀ (s : State) (p : Fin 6) (b : Bool), (portOf s p.val).st = .up →
    exec (.poisonNotice p b) s = .next (updPort p.val (fun x => { x with poisoned := b || x.rxCut }) s))

/-- Clocks of the chain: a loss of the upstream clock or of the fabric clock leaves PLL group 0 unlocked, chain time lost
and no region RUNNING; the retrain delay ends; a beacon is sent at a multiple of 2^20 and on ports that are not upstream;
the first beacon received sets chain time (R23, R246, R276, R278). -/
def Obligations.LinkClockRows : Prop :=
  (∀ (s : State) (p : Nat), s.lnk.upstream = some p → (portOf s p).st = .up → p < 6 →
    ∃ t, exec .upstreamClockLost s = .next t ∧ t.lnk.lossWait = true ∧ (pllOf t 0).locked = false) ∧
  (∀ s : State, exec .clockLossRetrain s = .next { s with lnk := { s.lnk with lossWait := false } }) ∧
  (∀ (s : State) (cause : Byte), (pllOf s 0).locked = true →
    ∃ t, exec (.fabricClockLost cause) s = .next t ∧ (pllOf t 0).locked = false ∧ t.clk.timeLocked = false ∧ t.clk.unsync = true ∧
      t.align.running = false ∧ runningRegions t = []) ∧
  (∀ s : State, s.clk.timeLocked = true → s.clk.time.toNat % 2 ^ 20 = 0 → s.lnk.beaconAt ≠ some s.clk.time →
    ∃ t, exec .beaconSend s = .next t ∧ t.lnk.beaconAt = some s.clk.time ∧
      ∀ p, p < 6 → (portOf t p).errs = [] ∧
        ((portOf s p).st = .up → s.lnk.upstream ≠ some p → (portOf t p).beacon.isSome = true)) ∧
  (∀ (s : State) (p : Fin 6) (time : W64) (frac : Byte) (a : Int) (c : Capability), s.lnk.upstream = some p.val →
      (portOf s p.val).st = .up → (portOf s p.val).rxCut = false → (pllOf s 0).locked = true → s.clk.timeLocked = false →
      (portOf s p.val).peer = some c →
    ∃ t, exec (.beaconReceived p time frac a) s = .next t ∧ t.clk.timeLocked = true ∧ t.clk.unsync = false ∧
      t.clk.chainId = c.chainId ∧
      t.clk.time = BitVec.ofNat 64 ((256 * time.toNat + frac.toNat + wireFrac s (portOf s p.val)) / 256))

/-- Traffic of a link: a frame is refused by a link that is not up, and one without a spoiled header on a poisoned direction
only gives its number; a read or write received is issued into the mesh under the port's master; a response that matches
returns to its master; a request message joins its channel; a response message ends its forward; an event message is posted
with the forwarded flag; a forward times out (R257, R288, R291, R294, R298, R467, R468, R469). -/
def Obligations.LinkTrafficRows : Prop :=
  (∀ (s : State) (p : Fin 6) (h : FrameHdr) (fl : List Flit) (bad : List (Nat × Nat)) (n : List Nat) (tf : Bool),
      (portOf s p.val).st ≠ .up → exec (.linkFrameReceived p h fl bad n tf) s = .next s) ∧
  (∀ (s : State) (p : Fin 6) (h : FrameHdr) (fl : List Flit) (n : List Nat) (tf : Bool), (portOf s p.val).st = .up →
      (portOf s p.val).rxCut = true →
    ∃ t, exec (.linkFrameReceived p h fl [] n tf) s = .next t ∧ (portOf t p.val).rxFrame = h.frame ∧ t.noc = s.noc ∧
      t.lnk.faces = s.lnk.faces) ∧
  (∀ (s : State) (p : Fin 6) (k : TxnPkt) (op : NocOp) (tag : BitVec 12), (portOf s p.val).txnIn = [(false, k)] →
      txnOp k.op.toNat = some op → isAtomic op = false → k.addr.toNat % 4096 + 8 * (k.len.val + 1) ≤ 4096 → s.pwr.baseReset = false →
      freeTag s (BitVec.ofNat 8 (64 + p.val)) = some tag → destOf s k.addr.toNat = .dram → s.start.engineFailed = false →
      pathShut s (64 + p.val) k.addr.toNat = false →
    ∃ t, exec (.txnRequestReceived p) s = .next t ∧ (portOf t p.val).txnIn = [] ∧
      t.lnk.served = s.lnk.served ++ [{ port := p.val, pkt := k, tag := tag }] ∧
      t.noc.mesh = s.noc.mesh ++ [{ src := BitVec.ofNat 8 (64 + p.val), tag := tag, stream := 0, cls := 2, op := op, addr := k.addr, len := k.len, beFirst := 0xFF, beLast := 0xFF, reinit := false, data := k.data }]) ∧
  (∀ (s : State) (p : Fin 6) (k : TxnPkt) (x : Remote) (q : NocReq), (portOf s p.val).txnIn = [(true, k)] →
      s.lnk.remote = [x] → x.txTag = k.tag → s.noc.out.find? (isReq x.src x.tag) = some q →
      rspLost s q.src.toNat q.addr.toNat = false →
    ∃ t, exec (.txnResponseReceived p) s = .next t ∧ (portOf t p.val).txnIn = [] ∧ t.lnk.remote = [] ∧
      t.noc.rsps = s.noc.rsps ++ [{ src := q.src, tag := q.tag, status := Status.ofCode k.status.toNat, data := k.data }]) ∧
  (∀ (s : State) (p : Fin 6) (m : MgmtMsg), mgmtHead s p.val .request = some m → serving s = true →
      (chanOf s (if s.lnk.upstream = some p.val then 14 else 15)).enable = true →
      (chanOf s (if s.lnk.upstream = some p.val then 14 else 15)).msgs.length < 8 →
    ∃ t, exec (.mgmtMessageReceived p) s = .next t ∧ (portOf t p.val).mgmtIn = (portOf s p.val).mgmtIn.erase m ∧
      (chanOf t (if s.lnk.upstream = some p.val then 14 else 15)).msgs =
        (chanOf s (if s.lnk.upstream = some p.val then 14 else 15)).msgs ++ [m]) ∧
  (∀ (s : State) (p : Fin 6) (m : MgmtMsg) (f : Fwd), mgmtHead s p.val .response = some m → serving s = true →
      s.mbx.fwd = [f] → f.handle = m.handle → (f.org.cmd.toNat, f.org.seq.toNat) = cmdSeq m.header → f.drop = true →
    ∃ t, exec (.mgmtResponseReceived p) s = .next t ∧ t.mbx.fwd = [] ∧
      (portOf t p.val).mgmtIn = (portOf s p.val).mgmtIn.erase m) ∧
  (∀ (s : State) (p : Fin 6) (m : MgmtMsg), mgmtHead s p.val .event = some m → serving s = true → m.handle = 0 →
      s.evt.lostNew = 0 →
    ∃ t, exec (.mgmtEventMessage p) s = .next t ∧
      t.evt = postRec { evOfBytes m.payload with flags := (evOfBytes m.payload).flags ||| 1 } s.evt) ∧
  (∀ (s : State) (f : Fwd) (fs : List Fwd), s.mbx.fwd = f :: fs → serving s = true → f.drop = true →
    exec .forwardTimeout s = .next { s with mbx := { s.mbx with fwd := fs, fwdTimeouts := satAdd s.mbx.fwdTimeouts 1 } })

/-- Requests of the network: one of an initiator enters the mesh; a response completes its request, and one of a timed-out
tag is discarded and counted; a timeout completes the request with ST_TIMEOUT and keeps the tag, which its freeing gives
back (R370, R372, R380 to R382). The faces of a NOC_PORT: a word pushed is taken while the queue has room, and refused with
its request where it has none; a pop of an empty queue gives no word, and of another its first word; a scheduled word is
recorded with the chain time of its fc, and the word due is presented, or VALID 0 and data 0 where there is none; a router
takes its new weights when it is empty, and its failure is recorded and fatal (R94, R97, R99, R378, R383, R384, R389). -/
def Obligations.NocRows : Prop :=
  ((∀ (s : State) (q : NocReq), 64 ≤ q.src.toNat → q.src.toNat < 74 → q.src ≠ 71 → s.pwr.baseReset = false →
      tagBusy s q.src q.tag.toNat = false → isAtomic q.op = false →
      q.addr.toNat % 4096 + 8 * (q.len.val + 1) ≤ 4096 → destOf s q.addr.toNat = .dram → s.start.engineFailed = false →
      pathShut s q.src.toNat q.addr.toNat = false →
    exec (.nocRequestIssue q) s = .next { s with noc := { s.noc with out := s.noc.out ++ [q], mesh := s.noc.mesh ++ [q] } }) ∧
  (∀ (s : State) (q : NocReq), 64 ≤ q.src.toNat → q.src.toNat < 74 → s.pwr.baseReset = false →
      tagBusy s q.src q.tag.toNat = false → s.start.engineFailed = false → destOf s q.addr.toNat = .nowhere → q.src ≠ 70 → q.src ≠ 71 →
      s.lnk.served = [] →
    ∃ t, exec (.nocRequestIssue q) s = .next t ∧
      t.noc.done = s.noc.done ++ [{ src := q.src, tag := q.tag, status := .badArg, data := [] }]) ∧
  (∀ (s : State) (r : NocRsp) (q : NocReq), s.noc.rsps = [r] → s.noc.lateTags.contains (r.src, r.tag) = false →
      s.noc.out = [q] → isReq r.src r.tag q = true → rspLost s r.src.toNat q.addr.toNat = false → 64 ≤ r.src.toNat → r.src ≠ 70 →
      s.lnk.served = [] →
    exec (.nocResponseDelivered r.src r.tag) s =
      .next { s with noc := { s.noc with rsps := [], out := [], done := s.noc.done ++ [r] } }) ∧
  (∀ (s : State) (r : NocRsp), s.noc.rsps = [r] → s.noc.lateTags.contains (r.src, r.tag) = true →
    exec (.nocResponseDelivered r.src r.tag) s = .next { s with noc := { s.noc with
      rsps := [], lateTags := s.noc.lateTags.erase (r.src, r.tag),
      late := Tab.upd 0 s.noc.late r.src.toNat (fun c => satAdd c 1) } }) ∧
  (∀ (s : State) (q : NocReq), s.noc.out = [q] → 64 ≤ q.src.toNat → q.src ≠ 70 → s.lnk.served = [] →
    exec (.nocRequestTimeout q.src q.tag) s = .next { s with noc := { s.noc with
      out := [], done := s.noc.done ++ [{ src := q.src, tag := q.tag, status := .timeout, data := [] }],
      lateTags := s.noc.lateTags ++ [(q.src, q.tag)], timeouts := Tab.upd 0 s.noc.timeouts q.src.toNat (fun c => satAdd c 1) } }) ∧
  (∀ (s : State) (src : BitVec 8) (tag : BitVec 12), 64 ≤ src.toNat → s.noc.lateTags = [(src, tag)] → s.lnk.remote = [] →
    exec (.timedOutTagFree src tag) s = .next { s with noc := { s.noc with lateTags := [] } })) ∧
  ((∀ (s : State) (n : Fin 64) (w : W64), faceLive s n.val = true → (nportOf s n.val).accepts = [] →
      (nportCounts (nportOf s n.val)).1 < 64 →
    exec (.nocPortReqPush n w false) s = .next (updNport n.val (fun p =>
      { p with words := p.words ++ [w], accepts := [(s.clk.fc + 4, true)] }) s)) ∧
  (∀ (s : State) (n : Fin 64) (w : W64) (last : Bool), faceLive s n.val = true → (nportOf s n.val).accepts = [] →
      64 ≤ (nportCounts (nportOf s n.val)).1 →
    exec (.nocPortReqPush n w last) s = .next (updNport n.val (fun p =>
      { p with words := [], accepts := [(s.clk.fc + 4, false)] }) s)) ∧
  (∀ (s : State) (n : Fin 64), faceLive s n.val = true → (nportOf s n.val).pops = [] → (nportOf s n.val).rspQ = [] →
    exec (.nocPortRspPop n) s = .next (updNport n.val (fun p => { p with pops := [(s.clk.fc + 4, 0, false, false)] }) s)) ∧
  (∀ (s : State) (n : Fin 64) (w : W64) (l : Bool) (rest : List (W64 × Bool)), faceLive s n.val = true →
      (nportOf s n.val).pops = [] → (nportOf s n.val).rspQ = (w, l) :: rest → (nportOf s n.val).ord = [] →
      (nportOf s n.val).waiting = [] →
    ∃ t, exec (.nocPortRspPop n) s = .next t ∧
      nportOf t n.val = { nportOf s n.val with rspQ := rest, pops := [(s.clk.fc + 4, w, true, l)] }) ∧
  (∀ (s : State) (n : Fin 64) (w : W64) (v : Bool) (c : ChanUse), chanAt s n.val false = some c → fabricClock s = true →
      chanStopped s c = false → (Tab.get {} s.lnk.faces n.val).sent = [] →
    ∃ t, exec (.schedWordSend n w v) s = .next t ∧ (Tab.get {} t.lnk.faces n.val).sent =
      [(s.clk.time, v, BitVec.ofNat 64 (w.toNat % 2 ^ c.desc.width.toNat))]) ∧
  (∀ (s : State) (n : Fin 64) (c : ChanUse) (d : W64) (v : Bool), chanAt s n.val true = some c → fabricClock s = true →
      chanStopped s c = false → (portOf s c.port).rxCut = false →
      (Tab.get {} s.lnk.faces n.val).padding = [(s.clk.time, v, d)] →
    ∃ t, exec (.schedWordDeliver n) s = .next t ∧ (Tab.get {} t.lnk.faces n.val).rvalid = v ∧
      (Tab.get {} t.lnk.faces n.val).rdata = d ∧ (Tab.get {} t.lnk.faces n.val).padding = []) ∧
  (∀ (s : State) (n : Fin 64) (c : ChanUse), chanAt s n.val true = some c → fabricClock s = true →
      (Tab.get {} s.lnk.faces n.val).padding = [] →
    ∃ t, exec (.schedWordDeliver n) s = .next t ∧ (Tab.get {} t.lnk.faces n.val).rvalid = false ∧
      (Tab.get {} t.lnk.faces n.val).rdata = 0) ∧
  (∀ (s : State) (n : Fin 64) (empty : Bool) (o : Origin) (w : Weights), (routerOf s n.val).reconfig = some (o, w) →
    ∃ t, exec (.routerReconfigDone n empty) s = .next t ∧ (routerOf t n.val).reconfig = none ∧
      (routerOf t n.val).w = if empty then w else (routerOf s n.val).w) ∧
  (∀ (s : State) (n : Fin 64), (routerOf s n.val).failed = false →
    ∃ t, exec (.nocRouterFailed n) s = .next t ∧ (routerOf t n.val).failed = true ∧ t.ext.error = true))

/-- The NOC commands on a ready channel (R381, R383, R384, R390, R606): the reports, a timeout from 10 to 1,000,000 µs and
the refusal of any other, weights that wait for the router, a weight of 0 refused, and counters that a read with CLEAR 1
clears. -/
def Obligations.NocCommandsReply : Prop :=
  (∀ (s : State) (r : Req), ready s r 0x0C01 = true →
    Replies (exec (.nocStatus r) s) r 0x0C01 .ok (packFields (((List.range 74).flatMap (fun k =>
      [(64, srcCfgWord s k), (64, srcStatWord s k)])) ++ ((List.range 64).map (fun r => (64, routerWord s r))))) s) ∧
  (∀ (s : State) (r : Req) (k : BitVec 8) (us : BitVec 20), ready s r 0x0C02 = true → k.toNat < 74 → 10 ≤ us.toNat →
      us.toNat ≤ 1000000 →
    Replies (exec (.nocTimeout r k us) s) r 0x0C02 .ok []
      { s with noc := { s.noc with timeout := Tab.set 0x186A0 s.noc.timeout k.toNat us } }) ∧
  (∀ (s : State) (r : Req) (k : BitVec 8) (us : BitVec 20), ready s r 0x0C02 = true →
      74 ≤ k.toNat ∨ us.toNat < 10 ∨ 1000000 < us.toNat →
    Replies (exec (.nocTimeout r k us) s) r 0x0C02 .badArg [] s) ∧
  (∀ (s : State) (r : Req) (n : BitVec 6) (rt hi norm bulk : BitVec 4), ready s r 0x0C03 = true → rt.toNat ≠ 0 → hi.toNat ≠ 0 →
      norm.toNat ≠ 0 → bulk.toNat ≠ 0 → (routerOf s n.toNat).reconfig = none → Nat.testBit (routerWord s n.toNat) 17 = false →
    Replies (exec (.nocRouterCfg r n rt hi norm bulk) s) r 0x0C03 .pending [] (withPend r 0x0C03 1 (updRouter n.toNat (fun x =>
      { x with reconfig := some (originOf r 0x0C03, { rt := rt, hi := hi, norm := norm, bulk := bulk }) }) s))) ∧
  (∀ (s : State) (r : Req) (n : BitVec 6) (rt hi norm bulk : BitVec 4), ready s r 0x0C03 = true →
      rt.toNat = 0 ∨ hi.toNat = 0 ∨ norm.toNat = 0 ∨ bulk.toNat = 0 →
    Replies (exec (.nocRouterCfg r n rt hi norm bulk) s) r 0x0C03 .badArg [] s) ∧
  (∀ (s : State) (r : Req) (k : BitVec 8), ready s r 0x0C04 = true → k.toNat < 74 →
    Replies (exec (.nocCounters r k false) s) r 0x0C04 .ok (packFields [(64, srcStatWord s k.toNat)]) s) ∧
  (∀ (s : State) (r : Req) (k : BitVec 8), ready s r 0x0C04 = true → k.toNat < 74 →
    Replies (exec (.nocCounters r k true) s) r 0x0C04 .ok (packFields [(64, srcStatWord s k.toNat)])
      { s with noc := { s.noc with timeouts := Tab.del s.noc.timeouts k.toNat, late := Tab.del s.noc.late k.toNat } })

/-- Ports A and B in one fc, on an available block and a running fabric clock: a NOP, a read, a write that a read of 2 fc
later sees, an enqueue that fits or does not, a dequeue and a peek of a visible head, and a return of credits (R82, R157,
R158, R169, R176, R179); an entry that is due becomes visible. -/
def Obligations.PortRows : Prop :=
  (∀ (s : State) (p : PortAB) (g : Fin 1152), fabricClock s = true → unavailable s g.val = false →
      (rspsOf p (blockNow s g.val)).any (fun r => r.from_ == s.clk.fc + 3) = false →
    exec (.portNop p g) s = .next (updBlock g.val (fun _ => putRsp p
      { from_ := s.clk.fc + 3, data := 0, err := 0, valid := false, accept := false, level := 0 } (blockNow s g.val)) s)) ∧
  (∀ (s : State) (p : PortAB) (g : Fin 1152) (a : BitVec 13), fabricClock s = true → unavailable s g.val = false →
      (rspsOf p (blockNow s g.val)).any (fun r => r.from_ == s.clk.fc + 3) = false → isRam (blockNow s g.val) a.toNat = true →
      (seenWord s.clk.fc (blockNow s g.val) a.toNat).ecc = .clean →
    exec (.portRead p g a .none) s = .next (updBlock g.val (fun _ => putRsp p
      { from_ := s.clk.fc + 3, data := (seenWord s.clk.fc (blockNow s g.val) a.toNat).data, err := 0, valid := true, accept := false, level := 0 }
      { blockNow s g.val with abAt := some s.clk.fc }) s)) ∧
  (∀ (s : State) (p : PortAB) (g : Fin 1152) (a : BitVec 13) (v : W64), fabricClock s = true → unavailable s g.val = false →
      (rspsOf p (blockNow s g.val)).any (fun r => r.from_ == s.clk.fc + 3) = false → isRam (blockNow s g.val) a.toNat = true →
    ∃ t, exec (.portRead p g a (.multi v)) s = .next t ∧ (blockOf t g.val).ueValid = true ∧ (blockOf t g.val).ueWord = a ∧
      (blockOf t g.val).ue = satAdd (blockNow s g.val).ue 1 ∧
      (rspsOf p (blockOf t g.val)).head? = some { from_ := s.clk.fc + 3, data := v, err := 2, valid := true, accept := false, level := 0 }) ∧
  (∀ (s : State) (p : PortAB) (g : Fin 1152) (a : BitVec 13) (d : W64), fabricClock s = true → unavailable s g.val = false →
      (rspsOf p (blockNow s g.val)).any (fun r => r.from_ == s.clk.fc + 3) = false → isRam (blockNow s g.val) a.toNat = true →
      (∀ w ∈ (blockNow s g.val).writes, w.at_ < s.clk.fc) →
    ∃ t, exec (.portWrite p g a d) s = .next t ∧ seenWord (s.clk.fc + 2) (blockOf t g.val) a.toNat = { data := d } ∧
      (∀ b, b ≠ a.toNat → seenWord (s.clk.fc + 2) (blockOf t g.val) b = seenWord (s.clk.fc + 2) (blockNow s g.val) b) ∧
      (rspsOf p (blockOf t g.val)).head? = some { from_ := s.clk.fc + 3, data := 0, err := 0, valid := false, accept := true, level := 0 }) ∧
  (∀ (s : State) (p : PortAB) (g : Fin 1152) (d : W64) (arg : BitVec 3), fabricClock s = true → unavailable s g.val = false →
      (rspsOf p (blockNow s g.val)).any (fun r => r.from_ == s.clk.fc + 3) = false → (blockNow s g.val).mode = .fifo →
      (blockNow s g.val).occStart + (blockNow s g.val).enqFc < (blockNow s g.val).cap →
    ∃ t, exec (.portEnq p g d arg) s = .next t ∧ (blockOf t g.val).entries = (blockNow s g.val).entries ++
        [{ word := { data := d }, level := 0, due := s.clk.fc + 4, vis := false }] ∧
      (rspsOf p (blockOf t g.val)).head? = some { from_ := s.clk.fc + 3, data := 0, err := 0, valid := false, accept := true, level := 0 }) ∧
  (∀ (s : State) (p : PortAB) (g : Fin 1152) (d : W64) (arg : BitVec 3), fabricClock s = true → unavailable s g.val = false →
      (rspsOf p (blockNow s g.val)).any (fun r => r.from_ == s.clk.fc + 3) = false → (blockNow s g.val).mode = .fifo →
      (blockNow s g.val).cap ≤ (blockNow s g.val).occStart + (blockNow s g.val).enqFc →
    ∃ t, exec (.portEnq p g d arg) s = .next t ∧ (blockOf t g.val).entries = (blockNow s g.val).entries ∧
      (rspsOf p (blockOf t g.val)).head? = some { from_ := s.clk.fc + 3, data := 0, err := 0, valid := false, accept := false, level := 0 }) ∧
  (∀ (s : State) (p : PortAB) (g : Fin 1152) (e : QEnt) (es : List QEnt), fabricClock s = true → unavailable s g.val = false →
      (rspsOf p (blockNow s g.val)).any (fun r => r.from_ == s.clk.fc + 3) = false → (blockNow s g.val).mode = .fifo →
      (blockNow s g.val).entries = e :: es → e.vis = true → e.word.ecc = .clean →
    (∃ t, exec (.portDeq p g .none) s = .next t ∧ (blockOf t g.val).entries = es ∧
      (rspsOf p (blockOf t g.val)).head? = some { from_ := s.clk.fc + 3, data := e.word.data, err := 0, valid := true, accept := false, level := 0 }) ∧
    (∃ t, exec (.portPeek p g .none) s = .next t ∧ (blockOf t g.val).entries = e :: es ∧
      (rspsOf p (blockOf t g.val)).head? = some { from_ := s.clk.fc + 3, data := e.word.data, err := 0, valid := true, accept := false, level := 0 })) ∧
  (∀ (s : State) (p : PortAB) (g : Fin 1152) (arg : BitVec 3), fabricClock s = true → unavailable s g.val = false →
      (rspsOf p (blockNow s g.val)).any (fun r => r.from_ == s.clk.fc + 3) = false → (blockNow s g.val).mode = .credit →
    ∃ t, exec (.portReturn p g arg) s = .next t ∧ (blockOf t g.val).credPend = (blockNow s g.val).credPend + arg.toNat + 1) ∧
  (∀ (s : State) (g : Fin 1152) (e : QEnt) (es : List QEnt), (blockNow s g.val).entries = e :: es → e.due ≤ s.clk.fc →
    ∃ t, exec (.queueEntryVisible g) s = .next t ∧ (blockOf t g.val).entries.head? = some { e with vis := true })

/-- Port N and patrol: a request reaches its block, or its endpoint answers it; a read of one word is answered with the
word, a cycle in which port A or B is active is deferred and changes no queue of the block; the patrol reader checks the
next word and moves on, and writes a corrected word back 2 fc later; a column with 16 corrections is reported and repaired
with a spare; a sector's clearing ends (R152, R160, R162, R173, R174, R187, R596). -/
def Obligations.BlockRows : Prop :=
  (∀ (s : State) (q : NocReq) (g : Nat), s.noc.mesh = [q] → destOf s q.addr.toNat = .sector g → sectorRefusal s g q = none →
    exec (.nocBlockRequest q.src q.tag) s = .next (updBlock g (fun b =>
      { b with nq := b.nq ++ [{ req := q, done := 0, data := [], poison := false, held := [], atomic := none }] })
      { s with noc := { s.noc with mesh := [] } })) ∧
  (∀ (s : State) (q : NocReq) (g : Nat) (st : Status), s.noc.mesh = [q] → destOf s q.addr.toNat = .sector g →
      sectorRefusal s g q = some st → rspLost s q.src.toNat q.addr.toNat = false →
    exec (.nocBlockRequest q.src q.tag) s = .next { s with noc := { s.noc with
      mesh := [], rsps := s.noc.rsps ++ [{ src := q.src, tag := q.tag, status := st, data := [] }] } }) ∧
  (∀ (s : State) (g : Fin 1152) (q : NocReq), fabricClock s = true → (blockNow s g.val).nAt = none → s.dsp.groupQ = [] →
      (blockNow s g.val).nq = [{ req := q, done := 0, data := [], poison := false, held := [], atomic := none }] →
      unavailable s g.val = false → (blockNow s g.val).abAt = none → (blockNow s g.val).mode = .ram → q.op = .read → q.len = 0 →
      (seenWord s.clk.fc (blockNow s g.val) (firstWord q)).ecc = .clean → rspLost s q.src.toNat q.addr.toNat = false →
    ∃ t, exec (.portNCycle g .none) s = .next t ∧ (blockOf t g.val).nq = [] ∧ t.noc.rsps = s.noc.rsps ++
      [{ src := q.src, tag := q.tag, status := .ok, data := [(seenWord s.clk.fc (blockNow s g.val) (firstWord q)).data] }]) ∧
  (∀ (s : State) (g : Fin 1152) (u : WordUpset) (q : NReq), fabricClock s = true → (blockNow s g.val).nAt = none → s.dsp.groupQ = [] →
      (blockNow s g.val).nq = [q] → unavailable s g.val = false → (blockNow s g.val).abAt = some s.clk.fc →
    ∃ t, exec (.portNCycle g u) s = .next t ∧ blockOf t g.val = { blockNow s g.val with nAt := some s.clk.fc } ∧ t.noc = s.noc) ∧
  (∀ (s : State) (g : Fin 1152), fabricClock s = true → unavailable s g.val = false → (blockNow s g.val).patrolEn = true →
      (blockNow s g.val).abAt = none → (blockNow s g.val).nAt = none → (blockNow s g.val).nq = [] → (blockNow s g.val).patrolAt = none →
      (blockNow s g.val).mode = .ram → (seenWord s.clk.fc (blockNow s g.val) (blockNow s g.val).patrol.toNat).ecc = .clean →
    exec (.patrolRead g .none) s = .next (updBlock g.val (fun _ => { blockNow s g.val with patrol := (blockNow s g.val).patrol + 1, patrolAt := some s.clk.fc, nAt := some s.clk.fc, patrolFix := none }) s)) ∧
  (∀ (s : State) (g : Fin 1152) (a p : Nat), fabricClock s = true → unavailable s g.val = false → s.clk.fc = p + 2 →
      (blockNow s g.val).patrolFix = some (a, p) → (blockNow s g.val).writes = [] →
    exec (.patrolWriteback g) s = .next (updBlock g.val (fun _ => { blockNow s g.val with patrolFix := none, writes := [{ at_ := s.clk.fc, port := .n, addr := a, word := { data := (seenWord p (blockNow s g.val) a).data } }] }) s)) ∧
  (∀ (s : State) (g : Fin 1152) (gr : Fin 9) (c : Fin 64), 16 ≤ Tab.get 0 s.mem.colErrs (576 * g.val + 64 * gr.val + c.val) →
      s.mem.colDone.contains (576 * g.val + 64 * gr.val + c.val) = false → spareInUse s g.val gr.val 0 = false →
      (recordNow s).cols.length < 512 → tooHot s = false →
    ∃ t, exec (.memColumn g gr c) s = .next t ∧ t.mem.colDone = s.mem.colDone ++ [576 * g.val + 64 * gr.val + c.val] ∧
      t.start.rr.cols = (recordNow s).cols ++ [colEntry g.val gr.val c.val 0]) ∧
  (∀ (s : State) (k : Fin 8), s.mem.clearing = [k.val] →
    ∃ t, exec (.sectorClearDone k) s = .next t ∧ t.mem.clearing = [] ∧
      ∀ g, g < 1152 → sectorOf g = k.val → blockOf t g = clearedBlock (blockOf s g))

/-- The commands and registers of the memory layer: a mode is set on a block that no region uses, and an illegal one is
refused; the QCTL report; an initialisation begins and stays open; QCTL_CREDIT_ADD returns credits; MEM_CSEL and MEM_CCTL
are Barista's to write; LOG.MEM_CONFLICT reports the counters and clears them (R166, R167, R179, R183, R184, R191, R192). -/
def Obligations.MemCommandsReply : Prop :=
  (∀ (s : State) (r : Req) (g : BitVec 11) (m : BitVec 3) (c : BitVec 4) (i : BitVec 14) (pe : Bool) (mode : QMode),
      ready s r 0x0221 = true → legalMode m.toNat c.toNat i.toNat = some mode → g.toNat < 1152 → blockRetired s g.toNat = false →
      domCut s (sectorDom (sectorOf g.toNat)) = false → blockInUse s g.toNat = false →
    ∃ t, exec (.cfgMemMode r g m c i pe) s = .next t ∧ answered t r 0x0221 .ok [] ∧ (blockOf t g.toNat).mode = mode ∧
      (blockOf t g.toNat).capLog2 = c.toNat ∧ (blockOf t g.toNat).credits = i.toNat ∧ (blockOf t g.toNat).creditInit = i.toNat ∧
      (blockOf t g.toNat).patrolEn = pe ∧ (blockOf t g.toNat).entries = [] ∧ (blockOf t g.toNat).inb = [] ∧ (blockOf t g.toNat).outb = []) ∧
  (∀ (s : State) (r : Req) (g : BitVec 11) (m : BitVec 3) (c : BitVec 4) (i : BitVec 14) (pe : Bool), ready s r 0x0221 = true →
      legalMode m.toNat c.toNat i.toNat = none → Replies (exec (.cfgMemMode r g m c i pe) s) r 0x0221 .badArg [] s) ∧
  (∀ (s : State) (r : Req) (g : BitVec 11), ready s r 0x0222 = true → g.toNat < 1152 →
    Replies (exec (.cfgMemStatus r g) s) r 0x0222 .ok
      (packFields ((qctlWords s g.toNat (unavailable s g.toNat)).map (fun w => (32, w)))) s) ∧
  (∀ (s : State) (r : Req) (k : BitVec 16) (im : InitImage), ready s r 0x0220 = true → k.toNat < 256 →
      Tab.get none s.load.inits k.toNat = some im → domCut s 49 = false →
      (∀ g ∈ initBlocks im.entries, domCut s (sectorDom (sectorOf g)) = false ∧ blockInUse s g = false) → s.mem.init = none →
    ∃ t, exec (.cfgMemInit r k) s = .next t ∧ answered t r 0x0220 .pending [] ∧
      t.mem.init = some { org := some (originOf r 0x0220), index := k.toNat, entries := im.entries }) ∧
  (∀ (s : State) (src : BitVec 8) (g : Fin 1152) (v : BitVec 32), protDenied s src.toNat (qctlAddr g.val + 0xC) = false →
      s.noc.mesh = [] → (blockNow s g.val).mode = .credit →
    ∃ t, exec (.qctlCreditReturnWrite src g v) s = .next t ∧
      (blockOf t g.val).credPend = (blockNow s g.val).credPend + v.toNat % 2 ^ 14) ∧
  (∀ (s : State) (k : Fin 8) (i : Fin 64) (v : BitVec 32), s.noc.mesh = [] →
    ∃ t, exec (.memCselWrite 72 k i v) s = .next t ∧ cselOf t k.val i.val = (v.extractLsb' 0 8).toNat ∧
      Tab.get 0 t.mem.ccnt (64 * k.val + i.val) = 0) ∧
  (∀ (s : State) (src : BitVec 8) (k : Fin 8) (i : Fin 64) (v : BitVec 32), src ≠ 72 → s.noc.mesh = [] →
    exec (.memCselWrite src k i v) s = .next s ∧ exec (.memCctlClear src k v) s = .next s) ∧
  (∀ (s : State) (k : Fin 8) (v : BitVec 32), s.noc.mesh = [] →
    exec (.memCctlClear 72 k v) s = .next (if v.getLsbD 0 then clearConflicts k.val s else s)) ∧
  (∀ (s : State) (r : Req) (k : BitVec 3) (c : Bool), ready s r 0x1120 = true →
    Replies (exec (.logMemConflict r k c) s) r 0x1120 .ok (packFields (((List.range 64).map (fun i => (8, cselOf s k.toNat i))) ++
      (List.range 64).map (fun i => (32, (Tab.get 0 s.mem.ccnt (64 * k.toNat + i)).toNat))))
      (if c then clearConflicts k.toNat s else s))

/-- The security core: a reseed clears the generate count; a tamper zeroises the boot key, begins a vault wipe, is counted
with its cause and makes a new boot key due; a health failure stops TRNG output; the redraw ends both; a wipe ends; the
vault answers a master that may not reach it with ST_DENIED, ST_BUSY while it is wiped, and a read with its words; a
transition takes the new state into the next group; scan entry empties the vault (R546, R547, R555, R557 to R561). -/
def Obligations.SecurityRows : Prop :=
  (∀ s : State, 2 ^ 20 ≤ s.sec.drbg → s.sec.trngStopped = false →
    exec .drbgReseed s = .next { s with sec := { s.sec with drbg := 0 } }) ∧
  (∀ (s : State) (cause : BitVec 8) (on : Bool), cause = 1 ∨ cause = 2 → s.sec.wiping = false → s.sec.pending = none →
      s.tag.job = none → domOn s 2 = true →
    ∃ t, exec (.tamper cause on) s = .next t ∧ t.prt.key = false ∧ t.sec = { s.sec with
      vault := [], wiping := true, tampers := satAdd s.sec.tampers 1, lastCause := cause, redraw := true, tamper := s.sec.tamper || on }) ∧
  (∀ s : State, s.sec.wiping = false → s.sec.pending = none → s.tag.job = none → domOn s 2 = true →
    ∃ t, exec .trngHealthFail s = .next t ∧ t.prt.key = false ∧ t.sec = { s.sec with
      vault := [], wiping := true, tampers := satAdd s.sec.tampers 1, lastCause := 3, redraw := true, trngStopped := true }) ∧
  (∀ s : State, s.sec.redraw = true → s.sec.wiping = false → s.sec.waiting = none → domOn s 2 = true →
    ∃ t, exec .bootKeyRedraw s = .next t ∧ t.prt.key = true ∧ t.sec = { s.sec with
      redraw := false, tamper := false, trngStopped := false, drbg := s.sec.drbg + 1 }) ∧
  (∀ s : State, s.sec.trngStopped = true → s.sec.waiting = none →
    exec .trngOutputTimeout s = .next { s with sec := { s.sec with redraw := false } }) ∧
  (∀ s : State, s.sec.wiping = true → s.sec.pending = none →
    exec .vaultWipeDone s = .next { s with sec := { s.sec with wiping := false } }) ∧
  (∀ (s : State) (q : NocReq), s.noc.mesh = [q] → destOf s q.addr.toNat = .vault → targetShut s q.addr.toNat = false →
      vaultAllows s q.src.toNat = false → rspLost s q.src.toNat q.addr.toNat = false →
    exec (.vaultAccess q.src q.tag) s = .next { s with noc := { s.noc with
      mesh := [], rsps := s.noc.rsps ++ [{ src := q.src, tag := q.tag, status := .denied, data := [] }] } }) ∧
  (∀ (s : State) (q : NocReq), s.noc.mesh = [q] → destOf s q.addr.toNat = .vault → targetShut s q.addr.toNat = false →
      vaultAllows s q.src.toNat = true → s.sec.wiping = true → rspLost s q.src.toNat q.addr.toNat = false →
    exec (.vaultAccess q.src q.tag) s = .next { s with noc := { s.noc with
      mesh := [], rsps := s.noc.rsps ++ [{ src := q.src, tag := q.tag, status := .busy, data := [] }] } }) ∧
  (∀ (s : State) (q : NocReq), s.noc.mesh = [q] → destOf s q.addr.toNat = .vault → targetShut s q.addr.toNat = false →
      vaultAllows s q.src.toNat = true → s.sec.wiping = false → q.op = .read → rspLost s q.src.toNat q.addr.toNat = false →
    exec (.vaultAccess q.src q.tag) s = .next { s with noc := { s.noc with
      mesh := [], rsps := s.noc.rsps ++ [{ src := q.src, tag := q.tag, status := .ok, data := wordsOfBytes (tabBytes s.sec.vault (q.addr.toNat / 8 * 8 - vaultBase) (8 * (q.len.val + 1))) }] } }) ∧
  (∀ (s : State) (org : Option Origin) (old new : BitVec 3), s.sec.pending = some (org, old, new) → s.sec.wiping = false →
    ∃ t, exec .lifecycleDone s = .next t ∧ t.sec.life = new ∧ t.sec.groups = s.sec.groups ++ [new] ∧ t.sec.pending = none ∧
      (new = 4 → t.load.store = [] ∧ t.load.inits = [] ∧ t.tag.lock = 0xFF)) ∧
  (∀ s : State, s.sec.life ≠ 3 → s.sec.life ≠ 4 → s.sec.pending = none → s.tag.job = none →
    ∃ t, exec .jtagScanBase s = .next t ∧ t.start.scanBase = true ∧ t.ext.error = true ∧ t.ext.done = false ∧ t.prt.key = false ∧
      t.sec.vault = [] ∧ t.sec.nonce = 0) ∧
  (∀ s : State, s.sec.life = 3 ∨ s.sec.life = 4 →
    exec .jtagScanBase s = .next { s with start := { s.start with jtag := .bypass } }) ∧
  (∀ (s : State) (i : JtagInst), (∀ b, b < 24 → bankReleased s b = false) → (∀ p, p < 6 → linkUpAt s p = false) →
    exec (.jtagBoundaryScan i) s = .next { s with start := { s.start with jtag := i } })

/-- The SEC commands on a ready channel (R549 to R555, R559, R567): the reports; with a valid signature a user key slot is
revoked or written, an owner slot is written in OWNED, a transition begins with the boot key zeroised and the vault wiped,
each followed by a new NONCE, a free value; a signature that fails is refused with ST_AUTH and a new NONCE as well;
SEC.ZEROISE is answered and is then a tamper of cause 4. -/
def Obligations.SecCommandsReply : Prop :=
  (∀ (s : State) (r : Req), ready s r 0x0F01 = true →
    Replies (exec (.secStatus r) s) r 0x0F01 .ok (bodySecStatus (originOf r 0x0F01) s).data s) ∧
  (∀ (s : State) (r : Req) (n : BitVec 384), ready s r 0x0F02 = true →
    Replies (exec (.secCert r n) s) r 0x0F02 .ok (Config.certificate ++ Config.attest (Config.sha384 (attestBytes s n.toNat))) s) ∧
  (∀ (s : State) (r : Req) (slot : BitVec 2) (ki : BitVec 3) (sig : BitVec 768) (key : List Byte), ready s r 0x0F03 = true →
      key.length = 97 → s.sec.life = 2 → (keySlot s slot.toNat).revoked = false → tooHot s = false → s.sec.trngStopped = false →
      sigOk s 0x0F03 (keySetArgs slot.toNat 1 ki.toNat key) ki.toNat sig.toNat key = true →
    Replies (exec (.secKeySet r slot true ki sig key) s) r 0x0F03 .ok [] { s with
      sec := { s.sec with keys := Tab.set {} s.sec.keys slot.toNat { keySlot s slot.toNat with revoked := true },
                          nonce := (freeNow s).extractLsb' 0 384, drbg := s.sec.drbg + 1 }
      free := s.free + 1 }) ∧
  (∀ (s : State) (r : Req) (slot : BitVec 2) (ki : BitVec 3) (sig : BitVec 768) (rec : List Byte) (k : BitVec 256),
      ready s r 0x0F03 = true → rec.length = 254 → s.sec.life = 2 → (keySlot s slot.toNat).revoked = false →
      (keySlot s slot.toNat).written = false → tooHot s = false → s.sec.trngStopped = false →
      sigOk s 0x0F03 (keySetArgs slot.toNat 0 ki.toNat rec) ki.toNat sig.toNat (rec.drop 157) = true →
      Config.unwrapKey slot.toNat (rec.take 157) = some k →
    Replies (exec (.secKeySet r slot false ki sig rec) s) r 0x0F03 .ok [] { s with
      sec := { s.sec with keys := Tab.set {} s.sec.keys slot.toNat { keySlot s slot.toNat with key := k, written := true },
                          nonce := (freeNow s).extractLsb' 0 384, drbg := s.sec.drbg + 1 }
      free := s.free + 1 }) ∧
  (∀ (s : State) (r : Req) (slot : BitVec 2) (ki : BitVec 3) (sig : BitVec 768) (key : List Byte), ready s r 0x0F03 = true →
      key.length = 97 → s.sec.life = 2 → s.sec.trngStopped = false →
      sigOk s 0x0F03 (keySetArgs slot.toNat 1 ki.toNat key) ki.toNat sig.toNat key = false →
    Replies (exec (.secKeySet r slot true ki sig key) s) r 0x0F03 .auth [] { s with
      sec := { s.sec with nonce := (freeNow s).extractLsb' 0 384, drbg := s.sec.drbg + 1 }
      free := s.free + 1 }) ∧
  (∀ (s : State) (r : Req) (slot ki : BitVec 3) (digest : BitVec 384) (sig : BitVec 768) (key : List Byte),
      ready s r 0x0F04 = true → key.length = 97 → s.sec.life = 2 → (ownerSlot s slot.toNat).revoked = false →
      (ownerSlot s slot.toNat).written = false → tooHot s = false → s.sec.trngStopped = false →
      sigOk s 0x0F04 (packRecord [(3, slot.toNat), (1, 0), (3, ki.toNat), (384, digest.toNat)] key) ki.toNat sig.toNat key = true →
    Replies (exec (.secOwner r slot false ki digest sig key) s) r 0x0F04 .ok [] { s with
      sec := { s.sec with owners := Tab.upd {} s.sec.owners slot.toNat (fun o => { o with digest := digest, written := true }),
                          nonce := (freeNow s).extractLsb' 0 384, drbg := s.sec.drbg + 1 }
      free := s.free + 1 }) ∧
  (∀ (s : State) (r : Req) (target ki : BitVec 3) (sig : BitVec 768) (key : List Byte), ready s r 0x0F05 = true →
      lifeStep s.sec.life.toNat target.toNat = true →
      (∀ g, g < 32 → regionIs s g .running = false ∧ regionIs s g .held = false) → s.sec.pending = none → s.load.job = none →
      tooHot s = false → s.sec.trngStopped = false → domOn s 2 = true →
      (s.sec.life = 1 ∨ sigOk s 0x0F05 (packRecord [(3, target.toNat), (3, ki.toNat)] key) ki.toNat sig.toNat key = true) →
    Replies (exec (.secLifecycle r target ki sig key) s) r 0x0F05 .pending [] (withPend r 0x0F05 1 { s with
      prt := { s.prt with key := false }
      sec := { s.sec with pending := some (some (originOf r 0x0F05), s.sec.life, target), vault := [], wiping := true,
                          nonce := (freeNow s).extractLsb' 0 384, drbg := s.sec.drbg + 1 }
      free := s.free + 1 })) ∧
  (∀ (s : State) (r : Req), ready s r 0x0F06 = true →
    ∃ t, exec (.secZeroise r) s = .next t ∧ answered t r 0x0F06 .ok [] ∧ t.prt.key = false ∧ t.sec.lastCause = 4 ∧
      t.sec.redraw = true ∧ t.sec.tampers = satAdd s.sec.tampers 1)

/-- The tag NVM: TAG_ACCESS reads the word of the address before, and gives the next; a page write completes with its bytes
and its count; the TAG commands read, start a write, lock and identify (R562 to R567). -/
def Obligations.TagCommands : Prop :=
  (∀ (s : State) (dr : W64), dr.getLsbD 62 = false → exec (.jtagTagAccess dr) s = .next { s with
      tag := { s.tag with jtagDr := tagWord s s.tag.jtagAddr.toNat, jtagAddr := dr.extractLsb' 32 14 } }) ∧
  (∀ (s : State) (dr : W64), dr.getLsbD 62 = true → exec (.jtagTagAccess dr) s = .next s) ∧
  (∀ (s : State) (j : TagJob), s.tag.job = some j → j.org = none →
    exec .tagWriteDone s = .next { s with tag := { s.tag with
      bytes := putBytes s.tag.bytes j.offset j.data, counts := Tab.upd 0 s.tag.counts (j.offset / 64) (fun c => satAdd c 1), job := none } }) ∧
  (∀ (s : State) (r : Req) (o l : BitVec 13), ready s r 0x1001 = true → 1 ≤ l.toNat → l.toNat ≤ 4096 → o.toNat + l.toNat ≤ 8192 →
    Replies (exec (.tagRead r o l) s) r 0x1001 .ok (packFields ((tabBytes s.tag.bytes o.toNat l.toNat).map (fun b => (8, b.toNat)) ++
      ((List.range 128).filter (fun p => decide (o.toNat / 64 ≤ p ∧ p ≤ (o.toNat + l.toNat - 1) / 64))).map
        (fun p => (32, (Tab.get 0 s.tag.counts p).toNat)))) s) ∧
  (∀ (s : State) (r : Req) (o : BitVec 13) (d : List Byte), ready s r 0x1002 = true → 1 ≤ d.length →
      o.toNat % 64 + d.length ≤ 64 → s.tag.lock.getLsbD (o.toNat / 1024) = false → s.sec.life ≠ 4 → tooHot s = false →
      domOn s 2 = true → s.tag.job = none →
    Replies (exec (.tagWrite r o d) s) r 0x1002 .pending [] (withPend r 0x1002 1
      { s with tag := { s.tag with job := some { org := some (originOf r 0x1002), offset := o.toNat, data := d } } })) ∧
  (∀ (s : State) (r : Req) (o : BitVec 13) (d : List Byte), ready s r 0x1002 = true → 1 ≤ d.length →
      o.toNat % 64 + d.length ≤ 64 → s.tag.lock.getLsbD (o.toNat / 1024) = true →
    Replies (exec (.tagWrite r o d) s) r 0x1002 .denied [] s) ∧
  (∀ (s : State) (r : Req) (m : BitVec 8), ready s r 0x1003 = true → tooHot s = false → s.tag.job = none →
    Replies (exec (.tagLock r m) s) r 0x1003 .ok [] { s with tag := { s.tag with lock := s.tag.lock ||| m } }) ∧
  (∀ (s : State) (r : Req), ready s r 0x1004 = true → Replies (exec (.tagIdentity r) s) r 0x1004 .ok identityRecord s)

/-- Tokens of the dispatcher: a CREATE taken from a source enters an item and, where it is new, its flow; one that finds no
entry is held; an OPERAND fills its slot; a DONE takes its flow out of service, and one that names another item is discarded
and counted; writes of tokens join their port in order of arrival; a source gives two words as a token (R394, R395, R397 to
R401, R408). -/
def Obligations.TokenRows : Prop :=
  (∀ (s : State) (k : Nat) (t : Token), dspUp s = true → nextTok s = some (k, t) → k < 64 → tkKind t = 1 → tkMalformed t = false →
      doneOnly s k = false → itemOf s (tkTag t) = none → flowOf s (tkFlow t) = none → s.dsp.items.length < 65536 →
      s.dsp.flows.length < 65536 → tkSlots t ≠ 0 →
    ∃ u, exec .dspCreate s = .next u ∧
      u.dsp.items = s.dsp.items ++ [{ tag := tkTag t, flow := tkFlow t, classIn := tkClass t, cls := tkClass t, slots := BitVec.ofNat 4 (tkSlots t), filled := 0, arg := tkArg t, values := [], bypass := 0, ready := none, eligible := none, entered := 0 }] ∧
      u.dsp.flows = s.dsp.flows ++ [{ key := tkFlow t, group := s.dsp.defGroup.toNat, last := none, pinned := false, tag := none }] ∧
      (dspSrc u k).head = none ∧ u.dsp.rot = k) ∧
  (∀ (s : State) (k : Nat) (t : Token), dspUp s = true → nextTok s = some (k, t) → k < 64 → tkKind t = 1 → tkMalformed t = false →
      doneOnly s k = false → itemOf s (tkTag t) = none → 65536 ≤ s.dsp.items.length →
    ∃ u, exec .dspCreate s = .next u ∧ u.dsp.items = s.dsp.items ∧ u.dsp.flows = s.dsp.flows ∧ (dspSrc u k).stalled = true ∧
      (dspSrc u k).head = (dspSrc s k).head ∧ u.dsp.storeFull = true) ∧
  (∀ (s : State) (k : Nat) (t : Token) (x : Item), dspUp s = true → nextTok s = some (k, t) → k < 64 → tkKind t = 2 →
      tkMalformed t = false → doneOnly s k = false → s.dsp.items = [x] → x.tag = tkTag t → x.slots.getLsbD (tkSlot t) = true →
      x.filled.getLsbD (tkSlot t) = false → x.filled ||| (1#4 <<< tkSlot t) ≠ x.slots →
    ∃ u, exec .dspOperand s = .next u ∧ u.dsp.items =
        [{ x with filled := x.filled ||| (1#4 <<< tkSlot t), values := Tab.set 0 x.values (tkSlot t) t.2 }] ∧
      (dspSrc u k).head = none) ∧
  (∀ (s : State) (k : Nat) (t : Token) (f : FlowEnt), dspUp s = true → nextTok s = some (k, t) → k < 64 → tkKind t = 3 →
      tkMalformed t = false → s.dsp.flows = [f] → f.key = tkFlow t → f.tag = some (tkTag t) → s.dsp.items = [] →
    ∃ u, exec .dspDone s = .next u ∧ u.dsp.flows = (if f.pinned then [{ f with tag := none }] else []) ∧ (dspSrc u k).head = none) ∧
  (∀ (s : State) (k : Nat) (t : Token), dspUp s = true → nextTok s = some (k, t) → k < 64 → tkKind t = 3 →
      tkMalformed t = false → flowOf s (tkFlow t) = none →
    ∃ u, exec .dspDone s = .next u ∧ u.dsp.flows = s.dsp.flows ∧ u.dsp.items = s.dsp.items ∧
      Tab.get 0 u.dsp.errs 4 = satAdd (Tab.get 0 s.dsp.errs 4) 1 ∧ (dspSrc u k).head = none) ∧
  (∀ (s : State) (q : NocReq), s.noc.mesh = [q] → 0x082007000000 ≤ q.addr.toNat → q.addr.toNat + 8 * q.len.val ≤ 0x0820070000FF →
      q.op = .write → targetShut s q.addr.toNat = false → protDenied s q.src.toNat q.addr.toNat = false → s.dsp.tokenHeld = false →
      tokenForm q = true →
    ∃ u, exec (.dspTokenWrite q.src q.tag) s = .next u ∧ u.noc.mesh = [] ∧ u.dsp.tokenQ = s.dsp.tokenQ ++
      [{ src := q.src, tag := q.tag, stream := q.stream, tokens := tokensOf (q.data.take (q.len.val + 1)) }]) ∧
  (∀ (s : State) (q : NocReq), s.noc.mesh = [q] → 0x082007001000 ≤ q.addr.toNat → q.addr.toNat + 8 * q.len.val ≤ 0x0820070010FF →
      q.op = .write → targetShut s q.addr.toNat = false → protDenied s q.src.toNat q.addr.toNat = false → s.dsp.tokenHeld = false →
      tokenForm q = true →
    ∃ u, exec (.dspDoneWrite q.src q.tag) s = .next u ∧ u.noc.mesh = [] ∧ u.dsp.doneQ = s.dsp.doneQ ++
      [{ src := q.src, tag := q.tag, stream := q.stream, tokens := tokensOf (q.data.take (q.len.val + 1)) }]) ∧
  (∀ (s : State) (k : Nat) (x y : QEnt) (r : List QEnt), dspUp s = true → fabricClock s = true → k = (s.dsp.rot + 1) % 64 →
      srcReady s k = true → twoHeads (blockNow s (dspSrc s k).block) = some (x, y, r) → x.word.ecc = .clean → y.word.ecc = .clean →
      (blockNow s (dspSrc s k).block).nAt = none → nUnit (blockNow s (dspSrc s k).block) = false →
      (blockNow s (dspSrc s k).block).abAt = none →
    ∃ u, exec .dspSourceDequeue s = .next u ∧ (dspSrc u k).head = some (x.word.data, y.word.data) ∧
      (blockOf u (dspSrc s k).block).entries = r)

/-- Dispatch: an eligible item goes to the engine that the rules pick, its group joins the groups to be written, its flow
takes the engine and the tag, and the engine group's rotation moves on; a group is written a word at a time and becomes
visible 4 fc after its last word; with 16 groups waiting nothing is dispatched (R403 to R407). -/
def Obligations.DispatchRows : Prop :=
  (∀ (s : State) (x : Item) (f : FlowEnt) (e : Nat) (a : Bool), dspUp s = true → s.dsp.groupQ.length < 16 → s.dsp.items = [x] →
      s.dsp.flows = [f] → f.key = x.flow → eligibleItems s = [x] → groupAlive s f.group = true → pickEngine s f = some (e, a) →
    ∃ u, exec (.dspDispatch none) s = .next u ∧ u.dsp.items = [] ∧ u.dsp.flows = [{ f with last := some e, tag := some x.tag }] ∧
      u.dsp.groupQ = s.dsp.groupQ ++
        [{ engine := e, block := (dspEng s e).block, group := f.group, words := groupWords x e a, done := 0 }] ∧
      Tab.get 0 u.dsp.rr f.group = e ∧ u.dsp.dispatches = satAdd s.dsp.dispatches 1) ∧
  (∀ s : State, dspUp s = true → 16 ≤ s.dsp.groupQ.length → eligibleItems s = [] → exec (.dspDispatch none) s = .next s) ∧
  (∀ (s : State) (e : Fin 256) (w : Group), s.dsp.groupQ = [w] → w.engine = e.val → dspUp s = true → fabricClock s = true →
      unavailable s w.block = false → (blockNow s w.block).mode = .inbox → (blockNow s w.block).nAt = none →
      nUnit (blockNow s w.block) = false → (blockNow s w.block).abAt = none → w.done = 0 → 1 < w.words.length →
    ∃ u, exec (.dspGroupWrite e) s = .next u ∧ u.dsp.groupQ = [{ w with done := 1 }] ∧
      (blockOf u w.block).entries = (blockNow s w.block).entries ++ groupEntries w.words) ∧
  (∀ (s : State) (e : Fin 256) (w : Group), s.dsp.groupQ = [w] → w.engine = e.val → dspUp s = true → fabricClock s = true →
      unavailable s w.block = false → (blockNow s w.block).mode = .inbox → (blockNow s w.block).nAt = none →
      nUnit (blockNow s w.block) = false → (blockNow s w.block).abAt = none → w.done ≠ 0 → w.done + 1 = w.words.length →
    ∃ u, exec (.dspGroupWrite e) s = .next u ∧ u.dsp.groupQ = [] ∧
      (blockOf u w.block).entries = showGroup (s.clk.fc + 4) (blockNow s w.block).entries)

/-- The DSP commands on a ready channel, with the dispatcher's domain on: the report, the thresholds (0 refused), an engine
and a source bound, a group's mask, a flow pinned, read, released and cleared, and the flush (R395, R400 to R402, R410). -/
def Obligations.DspCommandsReply : Prop :=
  (∀ (s : State) (r : Req), ready s r 0x0B01 = true → dspUp s = true →
    Replies (exec (.dspStatus r) s) r 0x0B01 .ok (packFields ((dspCfgWords s ++ (List.range 256).map (engWord s) ++
      (List.range 64).map (srcWord s)).map (fun w => (64, w)))) s) ∧
  (∀ (s : State) (r : Req) (t0 t1 t2 : BitVec 8) (g : BitVec 5), ready s r 0x0B02 = true → dspUp s = true → t0.toNat ≠ 0 →
      t1.toNat ≠ 0 → t2.toNat ≠ 0 →
    Replies (exec (.dspConfig r t0 t1 t2 g) s) r 0x0B02 .ok []
      { s with dsp := { s.dsp with t0 := t0, t1 := t1, t2 := t2, defGroup := g } }) ∧
  (∀ (s : State) (r : Req) (t0 t1 t2 : BitVec 8) (g : BitVec 5), ready s r 0x0B02 = true →
      t0.toNat = 0 ∨ t1.toNat = 0 ∨ t2.toNat = 0 → Replies (exec (.dspConfig r t0 t1 t2 g) s) r 0x0B02 .badArg [] s) ∧
  (∀ (s : State) (r : Req) (e : BitVec 8) (g : BitVec 11) (th : BitVec 13) (en : Bool), ready s r 0x0B03 = true → dspUp s = true →
      g.toNat < 1152 → th.toNat + 6 ≤ (blockOf s g.toNat).cap → blockRetired s g.toNat = false → (blockOf s g.toNat).mode = .inbox →
      boundElse s (some e.toNat) none g.toNat = false →
    Replies (exec (.dspEngineSet r e g th en) s) r 0x0B03 .ok [] { s with dsp := { s.dsp with
      engines := Tab.set {} s.dsp.engines e.toNat { block := g.toNat, thresh := th.toNat, en := en, bound := true } } }) ∧
  (∀ (s : State) (r : Req) (g : BitVec 5) (m : BitVec 256), ready s r 0x0B04 = true → dspUp s = true →
    Replies (exec (.dspGroupSet r g m) s) r 0x0B04 .ok [] { s with dsp := { s.dsp with groups := Tab.set 0 s.dsp.groups g.toNat m } }) ∧
  (∀ (s : State) (r : Req) (k : BitVec 6) (g : BitVec 11) (ro en : Bool), ready s r 0x0B05 = true → dspUp s = true →
      g.toNat < 1152 → (blockOf s g.toNat).mode = .fifo → boundElse s none (some k.toNat) g.toNat = false →
    Replies (exec (.dspSourceSet r k g ro en) s) r 0x0B05 .ok []
      (updDspSrc k.toNat (fun x => { x with block := g.toNat, role := ro, en := en, bound := true }) s)) ∧
  (∀ (s : State) (r : Req) (fl : BitVec 32) (g : BitVec 5), ready s r 0x0B06 = true → dspUp s = true → flowOf s fl = none →
      s.dsp.flows.length < 65536 →
    Replies (exec (.dspFlowSet r fl g) s) r 0x0B06 .ok [] { s with dsp := { s.dsp with
      flows := s.dsp.flows ++ [{ key := fl, group := g.toNat, last := none, pinned := true, tag := none }] } }) ∧
  (∀ (s : State) (r : Req) (fl : BitVec 32) (f : FlowEnt), ready s r 0x0B07 = true → dspUp s = true → flowOf s fl = some f →
    Replies (exec (.dspFlowGet r fl) s) r 0x0B07 .ok (packFields [(8, f.group), (16, f.last.getD 0xFFFF), (8, bit f.pinned),
      (8, bit f.tag.isSome), (32, (f.tag.getD 0).toNat), (32, (s.dsp.items.filter (fun x => x.flow == f.key)).length)]) s) ∧
  (∀ (s : State) (r : Req) (fl : BitVec 32) (f : FlowEnt), ready s r 0x0B08 = true → dspUp s = true → flowOf s fl = some f →
      f.tag.isSome = true → Replies (exec (.dspFlowRelease r fl) s) r 0x0B08 .ok [] (endService f.key s)) ∧
  (∀ (s : State) (r : Req) (fl : BitVec 32), ready s r 0x0B08 = true → dspUp s = true → flowOf s fl = none →
    Replies (exec (.dspFlowRelease r fl) s) r 0x0B08 .state [] s) ∧
  (∀ (s : State) (r : Req) (fl : BitVec 32) (f : FlowEnt), ready s r 0x0B09 = true → dspUp s = true → flowOf s fl = some f →
      f.tag = none → s.dsp.items.any (fun x => x.flow == fl) = false →
    Replies (exec (.dspFlowClear r fl) s) r 0x0B09 .ok [] { s with dsp := { s.dsp with
      flows := s.dsp.flows.filter (fun x => x.key != fl), flowFull := false } }) ∧
  (∀ (s : State) (r : Req), ready s r 0x0B0A = true → dspUp s = true →
    Replies (exec (.dspFlush r) s) r 0x0B0A .ok []
      { s with dsp := { s.dsp with items := [], flows := [], storeFull := false, flowFull := false } })

/-- The pins: an edge of an enabled direction is recorded with its time less the deskew, or counted as lost at a full FIFO;
a launch takes the face registers; a pop gives the oldest available record; a window opens and gives its result; a bank's
level is measured, a change of it is a loss of power, which its return ends; a shorted pin and one above its supply are made
safe; a probe classifies its pins; a polarity check inverts a receiver (R412 to R414, R425, R428 to R435). -/
def Obligations.PinRows : Prop :=
  (∀ (s : State) (p : Fin 1152) (rise : Bool) (tick : Fin 16) (coin : Bool) (q : Pin), pinNow s p.val = q → pinSenses s p.val = true →
      q.level ≠ rise → fabricClock s = true → q.glitch.toNat < 2 → (if rise then q.evRise else q.evFall) = true → q.lastEdge = none →
      q.fifo.length < 16 →
    ∃ t, exec (.pinEdge p rise tick coin) s = .next t ∧ (pinOf t p.val).level = rise ∧ (pinOf t p.val).total = satAdd q.total 1 ∧
      (pinOf t p.val).fifo = q.fifo ++ [{
        time := BitVec.ofInt 64 ((16 * (s.clk.time.toNat : Int) + tick.val - q.deskew.toInt) / 16)
        tick := BitVec.ofInt 4 ((16 * (s.clk.time.toNat : Int) + tick.val - q.deskew.toInt) % 16)
        rise := rise, coin := coin, merged := false, ovf := false, unsync := s.clk.unsync, from_ := s.clk.fc + 4 + glitchFc q }]) ∧
  (∀ (s : State) (p : Fin 1152) (rise : Bool) (tick : Fin 16) (coin : Bool) (q : Pin), pinNow s p.val = q → pinSenses s p.val = true →
      q.level ≠ rise → fabricClock s = true → q.glitch.toNat < 2 → (if rise then q.evRise else q.evFall) = true → q.lastEdge = none →
      16 ≤ q.fifo.length →
    ∃ t, exec (.pinEdge p rise tick coin) s = .next t ∧ (pinOf t p.val).lost = satAdd q.lost 1 ∧ (pinOf t p.val).fifo = q.fifo ∧
      (pinOf t p.val).ovfDue = true) ∧
  (∀ (s : State) (p : Fin 1152) (rise : Bool) (tick : Fin 16) (coin : Bool), (pinNow s p.val).level = rise →
    exec (.pinEdge p rise tick coin) s = .next s) ∧
  (∀ (s : State) (p : Fin 1152) (d oe : Bool) (ofs : BitVec 4), regionIs s (pinRegion p.val) .running = true → fabricClock s = true →
    exec (.pinOutputLaunch p d oe ofs) s = .next (updPin p.val (launchPin s.clk.time.toNat d oe ofs) s)) ∧
  (∀ (s : State) (p : Fin 1152) (r : PinRec) (rs : List PinRec), regionIs s (pinRegion p.val) .running = true → fabricClock s = true →
      (pinNow s p.val).pops = [] → (pinNow s p.val).fifo = r :: rs → r.from_ ≤ s.clk.fc →
    ∃ t, exec (.pinEventPop p) s = .next t ∧ (pinOf t p.val).fifo = rs ∧
      (pinOf t p.val).pops = [(s.clk.fc + 5, some { r with ovf := (pinNow s p.val).ovfDue })]) ∧
  (∀ (s : State) (p : Fin 1152), regionIs s (pinRegion p.val) .running = true → fabricClock s = true →
      (pinNow s p.val).pops = [] → (pinNow s p.val).fifo = [] →
    ∃ t, exec (.pinEventPop p) s = .next t ∧ (pinOf t p.val).pops = [(s.clk.fc + 5, none)]) ∧
  (∀ (s : State) (p : Fin 1152) (a l : BitVec 20), regionIs s (pinRegion p.val) .running = true → fabricClock s = true → l ≠ 0 →
      domOn s (bankDom (pinBank p.val)) = true → (pinNow s p.val).ahead = [] →
    ∃ t, exec (.pinWindowOpen p a l) s = .next t ∧ (pinOf t p.val).win = some { s := 16 * (s.clk.time.toNat + 3) + a.toNat, e := 16 * (s.clk.time.toNat + 3) + a.toNat + l.toNat, count := 0, firstRise := false, coinS := false, coinE := false, lost := (bankOf s (pinBank p.val)).lost, unsync := false }) ∧
  (∀ (s : State) (p : Fin 1152) (w : Window), (pinOf s p.val).held = none → (pinOf s p.val).win = some w →
      windowDone (pinOf s p.val) w ≤ s.clk.time.toNat →
    ∃ t, exec (.pinWindowResult p) s = .next t ∧ (pinOf t p.val).win = none ∧
      (pinOf t p.val).result = some (winResult s (pinOf s p.val) w)) ∧
  (∀ (s : State) (b : Fin 24) (mv : BitVec 12), s.ext.resetReleased = true → domOn s (bankDom b.val) = true →
      (bankOf s b.val).original = none →
    ∃ t, exec (.bankLevelMeasure b mv) s = .next t ∧ (bankOf t b.val).level = levelOf mv.toNat ∧ (bankOf t b.val).mv = mv ∧
      (bankOf t b.val).lost = (bankOf s b.val).lost) ∧
  (∀ (s : State) (b : Fin 24) (mv : BitVec 12) (l : BitVec 3), s.ext.resetReleased = true → domOn s (bankDom b.val) = true →
      (bankOf s b.val).original = some l → l ≠ levelOf mv.toNat → (bankOf s b.val).lost = false →
    ∃ t, exec (.bankLevelMeasure b mv) s = .next t ∧ (bankOf t b.val).lost = true) ∧
  (∀ (s : State) (b : Fin 24) (v : BitVec 48), (bankOf s b.val).lost = true → (bankOf s b.val).original = some (bankOf s b.val).level →
      domOn s (bankDom b.val) = true →
    ∃ t, exec (.bankPowerRecover b v) s = .next t ∧ (bankOf t b.val).lost = false ∧
      ∀ m, m < 48 → (pinOf t (48 * b.val + m)).level = v.getLsbD m) ∧
  (∀ (s : State) (p : Fin 1152) (l d : Bool), pinDrives s p.val = some d → d ≠ l →
    ∃ t, exec (.pinShort p l) s = .next t ∧ (pinOf t p.val).safe = 1 ∧ (pinOf t p.val).shortFlag = true) ∧
  (∀ (s : State) (p : Fin 1152) (l : Bool), pinSenses s p.val = true → (pinOf s p.val).safe ≠ 2 →
    ∃ t, exec (.pinOvervoltage p l) s = .next t ∧ (pinOf t p.val).safe = 2 ∧ (pinOf t p.val).ovFlag = true) ∧
  (∀ (s : State) (j : ProbeJob) (p : Nat) (ps : List Nat) (a b : Bool), s.pins.probe = some j → j.pins = p :: ps → j.up = none →
    exec (.pinProbePhase a b) s = .next { s with pins := { s.pins with probe := some { j with up := some (a, b) } } }) ∧
  (∀ (s : State) (j : ProbeJob) (p : Nat) (u : Bool × Bool) (a b : Bool), s.pins.probe = some j → j.pins = [p] → j.up = some u →
    ∃ t, exec (.pinProbePhase a b) s = .next t ∧ (pinOf t p).probe = probeClass u (a, b) ∧ t.pins.probe = none) ∧
  (∀ (s : State) (p : Fin 1152) (l : Bool), s.pins.polarity = [(p.val, none, false)] → l ≠ (pinOf s p.val).diffIdle →
    ∃ t, exec (.pinPolarityCheck p true l) s = .next t ∧ (pinOf t p.val).rxInv = true ∧ t.pins.polarity = [])

/-- The PIN commands on a ready channel: a legal configuration goes to every pin of the mask, and an illegal one is refused;
the reports; CLEAR ends a fault state; a probe and a polarity check begin and stay open (R419, R421, R423, R433 to R437). -/
def Obligations.PinCommandsReply : Prop :=
  (∀ (s : State) (r : Req) (nn : BitVec 5) (mask : BitVec 48) (cfg : W64), ready s r 0x0A01 = true → nn.toNat < 24 →
      cfgLegal s nn.toNat mask.toNat cfg.toNat = true →
    ∃ t, exec (.pinConfig r nn mask cfg) s = .next t ∧ answered t r 0x0A01 .ok [] ∧
      ∀ p, pinOf t p = if p ∈ maskPins nn.toNat mask.toNat then configPin cfg.toNat (pinNow s p) else pinOf s p) ∧
  (∀ (s : State) (r : Req) (nn : BitVec 5) (mask : BitVec 48) (cfg : W64), ready s r 0x0A01 = true →
      24 ≤ nn.toNat ∨ cfgLegal s nn.toNat mask.toNat cfg.toNat = false →
    Replies (exec (.pinConfig r nn mask cfg) s) r 0x0A01 .badArg [] s) ∧
  (∀ (s : State) (r : Req) (nn : BitVec 5) (mask : BitVec 48), ready s r 0x0A02 = true → nn.toNat < 24 →
    Replies (exec (.pinStatus r nn mask false) s) r 0x0A02 .ok (packFields ((maskPins nn.toNat mask.toNat).flatMap (fun p =>
      [(64, pinStatusWord s p), (64, pinCountWord s p)]) ++ [(64, bankWord s nn.toNat)])) s) ∧
  (∀ (s : State) (r : Req) (nn : BitVec 5) (mask : BitVec 48), ready s r 0x0A03 = true → nn.toNat < 24 →
    ∃ t, exec (.pinClear r nn mask) s = .next t ∧ answered t r 0x0A03 .ok [] ∧
      ∀ p, pinOf t p = if p ∈ maskPins nn.toNat mask.toNat then { pinOf s p with safe := 0 } else pinOf s p) ∧
  (∀ (s : State) (r : Req) (set : BitVec 1152) (us : BitVec 8) (ex : Bool) (ps : List Nat), ready s r 0x0A04 = true → us.toNat ≠ 0 →
      s.pins.probe = none → ((List.range 1152).filter (fun p => Nat.testBit set.toNat p)).filter (fun p => !probeSkips s p) = ps →
      ps ≠ [] →
    ∃ t, exec (.pinProbe r set us ex) s = .next t ∧ answered t r 0x0A04 .pending [] ∧
      t.pins.probe = some { org := originOf r 0x0A04, pins := ps, all := ps, us := us, expect := ex, up := none }) ∧
  (∀ (s : State) (r : Req) (nn : BitVec 5) (mask : BitVec 48), ready s r 0x0A05 = true → nn.toNat < 24 →
      (∀ p ∈ maskPins nn.toNat mask.toNat, p % 2 = 0 ∧ (pinOf s p).mode = 2 ∧ (pinOf s p).polAuto = true) →
      maskPins nn.toNat mask.toNat ≠ [] →
    Replies (exec (.pinPolarity r nn mask) s) r 0x0A05 .pending [] (withPend r 0x0A05 1 { s with pins := { s.pins with
      polarity := s.pins.polarity ++ (maskPins nn.toNat mask.toNat).map (fun p => (p, some (originOf r 0x0A05), false)) } })) ∧
  (∀ (s : State) (r : Req) (nn : BitVec 5), ready s r 0x0A06 = true → nn.toNat < 24 →
    Replies (exec (.pinBank r nn) s) r 0x0A06 .ok (packFields [(64, bankWord s nn.toNat)]) s)

/-- Self-test and repair: the last round of start-up BIST leaves its region BLANK and ends start-up BIST; the vertical
alignment starts with its crossing registers forced to 0, records its crossings, steps a phase by 1/32 fc at most once in
1,024 fc and holds the running regions when a phase is lost; a suspect TSV group holds its region, and its swap takes the
spare or, with the spare in use, retires the tile; in-service tests end with their outcome; a change of the skip position
and a deferred write of the repair record take effect (R86 to R88, R524 to R531, R536 to R541, R544, R545). -/
def Obligations.RepairRows : Prop :=
  (∀ (s : State) (r : Nat) (ex : BitVec 32), s.start.round = [r] → fabricClock s = true → domOn s (regionDom r) = true →
      ex.getLsbD r = false → s.start.map = [] → s.start.toTest = [] → s.start.again = [] → s.start.bistFailed = false →
      s.start.bistDone = false → s.start.step = 8 → s.start.held = false → anyRor s = false → s.thm.throttle = false →
    ∃ t, exec (.bistRoundDone [] ex) s = .next t ∧ t.start.bistDone = true ∧ t.start.step = 9 ∧ t.start.round = [] ∧
      regionOf t r = { regionOf s r with st := .blank, bistBusy := false } ∧ Tab.get 0 t.start.results r = 1) ∧
  (∀ s : State, fabricClock s = true → s.start.bistDone = true → s.lnk.member = false → s.align.busy = true →
      s.align.running = false →
    ∃ t, exec .valignStart s = .next t ∧ t.align.running = true ∧ t.fab.vx = [] ∧ t.fab.vm1 = [] ∧ t.fab.vm2 = []) ∧
  (∀ (s : State) (p1 p2 : BitVec 6), s.align.running = true → fabricClock s = true → phaseOk p1 = true → phaseOk p2 = true →
    ∃ t, exec (.valignDone [] p1 p2) s = .next t ∧ t.align.busy = false ∧ t.align.running = false ∧ t.align.phi = p1 ∧
      t.align.phi2 = p2 ∧ t.align.record = [] ∧ t.clk.fabricCmd = none) ∧
  (∀ (s : State) (c : CrossObs) (p1 p2 : BitVec 6), s.align.running = true → fabricClock s = true → phaseOk p1 = true →
      phaseOk p2 = true → c.latency = statedLatency c → c.spared = true → (crossGroup c).bundle ≠ .l1l2 →
      s.start.tsvUsed.contains (crossGroup c) = false →
    ∃ t, exec (.valignDone [c] p1 p2) s = .next t ∧ t.align.busy = false ∧ t.start.tsvUsed = s.start.tsvUsed ++ [crossGroup c]) ∧
  (∀ (s : State) (up : Bool), s.align.busy = false → (pllOf s 0).locked = true → mayStep s.clk.fc s.align.stepAt = true →
    exec (.valignTrackStep false up) s = .next { s with align := { s.align with
      phi := if up then s.align.phi + 1 else s.align.phi - 1, stepAt := some s.clk.fc } }) ∧
  (∀ (s : State) (up : Bool), s.align.busy = false → (pllOf s 0).locked = true → mayStep s.clk.fc s.align.stepAt2 = true →
    exec (.valignTrackStep true up) s = .next { s with align := { s.align with
      phi2 := if up then s.align.phi2 + 1 else s.align.phi2 - 1, stepAt2 := some s.clk.fc } }) ∧
  (∀ (s : State) (n : Nat), s.align.stepAt = some n → s.clk.fc < n + 1024 → ∀ up, exec (.valignTrackStep false up) s = .next s) ∧
  (∀ (s : State) (up : Bool) (ph : BitVec 8), s.align.busy = false → ph.toNat < 8 ∨ 24 < ph.toNat →
    ∃ t, exec (.valignLost up ph) s = .next t ∧ (∀ r, r < 32 → (up = true → 16 ≤ r) → regionIs s r .running = true →
      (regionOf t r).st = .held) ∧ (if up then t.align.phi2 else t.align.phi) = ph.setWidth 6) ∧
  (∀ (s : State) (g : TsvGroup) (r : Nat), g.bundle ≠ .l1l2 → s.start.tsvSwap.contains g = false → tsvOwner g = some r →
      regionIs s r .running = true →
    ∃ t, exec (.tsvGroupSuspect g) s = .next t ∧ t.start.tsvSwap = s.start.tsvSwap ++ [g] ∧ (regionOf t r).st = .held ∧
      (regionOf t r).swapHeld = true) ∧
  (∀ (s : State) (g : TsvGroup) (k : BitVec 16), s.start.tsvSwap.contains g = true → tsvOwner g = none →
      s.start.tsvUsed.contains g = false →
    ∃ t, exec (.tsvSwapDone g (some k)) s = .next t ∧ t.start.tsvSwap = s.start.tsvSwap.erase g ∧
      t.start.tsvUsed = s.start.tsvUsed ++ [g]) ∧
  (∀ (s : State) (g : TsvGroup), s.start.tsvSwap.contains g = true → tsvOwner g = none →
    ∃ t, exec (.tsvSwapDone g none) s = .next t ∧ t.start.tsvSwap = s.start.tsvSwap.erase g ∧
      t.mbx.bondPadFails = satAdd s.mbx.bondPadFails 1) ∧
  (∀ (s : State) (g : TsvGroup) (k : BitVec 16), s.start.tsvUsed.contains g = true → g.bundle = .l0l1 →
      regionIs s (regionAt false g.column.val g.row.val) .running = false → s.start.map = [] → (recordNow s).map.length < 256 →
    ∃ t, exec (.tsvWalkTest g (some k)) s = .next t ∧
      t.start.map = [persistentEntry (tileEntry s false g.column.val g.row.val 3)]) ∧
  (∀ (s : State) (r : Fin 32) (t : RegionTest), s.start.tests = [t] → t.region = r.val → t.running = true →
    ∃ u, exec (.regionTestDone r [] false) s = .next u ∧ u.start.tests = [] ∧ Tab.get 0 u.start.results r.val = 1 ∧
      (regionOf u r.val).bistBusy = false) ∧
  (∀ (s : State) (r : Fin 32) (t : RegionTest), s.start.tests = [t] → t.region = r.val → t.running = true →
    ∃ u, exec (.regionTestDone r [] true) s = .next u ∧ u.start.tests = [] ∧ Tab.get 0 u.start.results r.val = 3 ∧
      (regionOf u r.val).bistBusy = false) ∧
  (∀ (s : State) (o : Origin) (b n : Nat), s.start.memTest = some (o, b, n) →
    ∃ t, exec (.memoryTestDone []) s = .next t ∧ t.start.memTest = none ∧
      ∀ g, blockOf t g = if b ≤ g ∧ g < b + n then clearedBlock (blockOf s g) else blockOf s g) ∧
  (∀ (s : State) (o : Option Origin) (u i : Nat) (ok : Bool), s.start.anaTest = some (o, u, i) →
    ∃ t, exec (.analogTestDone ok) s = .next t ∧ t.start.anaTest = none) ∧
  (∀ (s : State) (o : Option Origin), s.start.skipCmd = some (o, false) → s.align.record = [] →
    ∃ t, exec (.skipChangeDone []) s = .next t ∧ t.start.skipCmd = none ∧ t.start.skip1 = s.start.skip1 ∧
      (recordNow t).skip1 = s.start.skip1) ∧
  (∀ (s : State) (x : RepairRec), s.start.deferred = some x → tooHot s = false →
    exec .repairRecordWrite s = .next { s with start := { s.start with
      rr := { x with gen := s.start.rr.gen + 1 }, rrPrev := some s.start.rr, deferred := none } }) ∧
  (∀ s : State, tooHot s = true ∨ s.start.deferred = none → exec .repairRecordWrite s = .next s)

/-- The TST and RPR commands on a ready channel: tests begin and stay open, and the reports; RPR.SKIP records a position for
later starts or changes it in a maintenance window; RPR.RETIRE takes an entry into the map and the record, and takes one out
of the record; RPR.RECORD reads the record and sets its two choices (R529, R533, R535, R540, R544, R545). -/
def Obligations.TstRprCommandsReply : Prop :=
  (∀ (s : State) (r : Req) (i : Fin 32), ready s r 0x0D02 = true → s.thm.throttle = false → domOn s 94 = true →
      s.start.bistFailed = false → s.pwr.vccFabOk = true → regionIs s i.val .blank = true → (regionOf s i.val).bistBusy = false →
      s.start.tests = [] →
    ∃ t, exec (.tstRegion r (1#32 <<< i.val) 1) s = .next t ∧ answered t r 0x0D02 .pending [] ∧
      t.start.tests = [{ org := originOf r 0x0D02, region := i.val, parallel := 1, running := true }] ∧
      (regionOf t i.val).bistBusy = true ∧ (regionOf t i.val).slots = []) ∧
  (∀ (s : State) (r : Req) (mask : BitVec 32) (n : BitVec 3), ready s r 0x0D02 = true → n = 0 ∨ 4 < n.toNat →
    Replies (exec (.tstRegion r mask n) s) r 0x0D02 .badArg [] s) ∧
  (∀ (s : State) (r : Req) (g : Fin 1152), ready s r 0x0D03 = true → domOn s (sectorDom (sectorOf g.val)) = true →
      s.start.memTest = none → blockInUse s g.val = false → dspBound s g.val = false → (blockOf s g.val).initBusy = false →
      s.mem.clearing.contains (sectorOf g.val) = false →
    ∃ t, exec (.tstMemory r (BitVec.ofNat 11 g.val) 1) s = .next t ∧ answered t r 0x0D03 .pending [] ∧
      t.start.memTest = some (originOf r 0x0D03, g.val, 1) ∧ (blockOf t g.val).initBusy = true) ∧
  (∀ (s : State) (r : Req) (u : BitVec 2) (i : BitVec 5), ready s r 0x0D04 = true → analogAllowed s u.toNat i.toNat = some true →
      s.start.anaTest = none →
    ∃ t, exec (.tstAnalog r u i) s = .next t ∧ answered t r 0x0D04 .pending [] ∧
      t.start.anaTest = some (some (originOf r 0x0D04), u.toNat, i.toNat)) ∧
  (∀ (s : State) (r : Req) (u : BitVec 2) (i : BitVec 5), ready s r 0x0D04 = true → analogAllowed s u.toNat i.toNat = none →
    Replies (exec (.tstAnalog r u i) s) r 0x0D04 .badArg [] s) ∧
  (∀ (s : State) (r : Req), ready s r 0x0D01 = true →
    ∃ (t : State) (ms : Nat), exec (.tstStatus r) s = .next t ∧ answered t r 0x0D01 .ok (packFields (
      (List.range 32).map (fun i => (8, (Tab.get 0 s.start.results i).toNat)) ++
      [(32, ms), (8, s.start.rounds.toNat), (16, s.start.fails.toNat)])) ∧ t.start = s.start) ∧
  (∀ (s : State) (r : Req), ready s r 0x0E01 = true →
    Replies (exec (.rprStatus r) s) r 0x0E01 .ok (packFields [(8, s.start.skip1.toNat), (8, s.start.skip2.toNat),
      (8, (recordNow s).skip1.toNat), (8, (recordNow s).skip2.toNat), (16, (reportedMap s).length), (16, (recordNow s).cols.length),
      (16, ((recordNow s).ppr.filter (fun e => field e.toNat 32 2 == 1)).length), (16, s.start.tsvUsed.length),
      (8, s.start.lanesSpared.toNat)]) s) ∧
  (∀ (s : State) (r : Req) (f : BitVec 12) (n : BitVec 8), ready s r 0x0E02 = true → 1 ≤ n.toNat → n.toNat ≤ 32 →
    Replies (exec (.rprMap r f n) s) r 0x0E02 .ok (packFields ((16, (reportedMap s).length) ::
      (((reportedMap s).drop f.toNat).take n.toNat).map (fun e => (64, e.toNat)))) s) ∧
  (∀ (s : State) (r : Req) (l : Bool) (p : BitVec 5), ready s r 0x0E03 = true → p.toNat ≤ 24 →
    ∃ t, exec (.rprSkip r l p false) s = .next t ∧ answered t r 0x0E03 .ok [] ∧
      (if l then (recordNow t).skip2 else (recordNow t).skip1) = p) ∧
  (∀ (s : State) (r : Req) (p : BitVec 5), ready s r 0x0E03 = true → p.toNat ≤ 24 → maintenance s true = true →
      s.start.skipCmd = none → s.align.busy = false →
    ∃ t, exec (.rprSkip r true p true) s = .next t ∧ answered t r 0x0E03 .pending [] ∧ t.start.skip2 = p ∧
      t.start.skipCmd = some (some (originOf r 0x0E03), true)) ∧
  (∀ (s : State) (r : Req) (l w : Bool) (p : BitVec 5), ready s r 0x0E03 = true → 24 < p.toNat →
    Replies (exec (.rprSkip r l p w) s) r 0x0E03 .badArg [] s) ∧
  (∀ (s : State) (r : Req) (e n : W64), ready s r 0x0E04 = true → namedEntry s e = some n → rmKind n ≠ 8 → rmCause n = 4 →
      (recordNow s).map.any (sameResource n) = false → (recordNow s).map.length < 256 → s.start.map = [] → tooHot s = false →
    ∃ t, exec (.rprRetire r e false) s = .next t ∧ answered t r 0x0E04 .ok [] ∧ t.start.map = [persistentEntry n] ∧
      t.start.rr.map = (recordNow s).map ++ [persistentEntry n]) ∧
  (∀ (s : State) (r : Req) (e n : W64), ready s r 0x0E04 = true → namedEntry s e = some n →
      (recordNow s).map.any (sameResource n) = true →
    ∃ t, exec (.rprRetire r e true) s = .next t ∧ answered t r 0x0E04 .ok [] ∧ t.start.map = s.start.map ∧
      (recordNow t).map = (recordNow s).map.filter (fun y => !sameResource n y)) ∧
  (∀ (s : State) (r : Req) (v : BitVec 8) (o : BitVec 13), ready s r 0x0E05 = true → o.toNat < 6272 →
    Replies (exec (.rprRecord r 0 v o) s) r 0x0E05 .ok (((recordBytes s.start.rr s.start.rrPrev).drop o.toNat).take 4096) s) ∧
  (∀ (s : State) (r : Req) (v : BitVec 8) (o : BitVec 13), ready s r 0x0E05 = true → 1 ≤ v.toNat → v.toNat ≤ 8 →
    ∃ t, exec (.rprRecord r 1 v o) s = .next t ∧ answered t r 0x0E05 .ok [] ∧ (recordNow t).bistParallel = v.setWidth 4) ∧
  (∀ (s : State) (r : Req) (v : BitVec 8) (o : BitVec 13), ready s r 0x0E05 = true → v.toNat ≤ 1 →
    ∃ t, exec (.rprRecord r 2 v o) s = .next t ∧ answered t r 0x0E05 .ok [] ∧ (recordNow t).autoSkip = (v == 1))

/-- Loads: the boot load opens the source that MODE names, and its completion releases DONE; a header is judged and counted;
a frame at its place with its CRC enters the image and one with another CRC fails it; an image that passes is stored and one
whose digest differs is not; stagings take their share and verify their slot; an initialisation ends; CFG_WS_WPTR and
CFG_STREAM bring bytes; a readback lands in the workspace (R139, R192, R198, R199, R204, R210 to R217, R221, R225, R226). -/
def Obligations.LoadRows : Prop :=
  (∀ (s : State) (dir : BootDir), s.load.boot = .waiting → s.load.job = none → s.align.busy = false → s.start.bistDone = true →
      s.start.held = false → s.start.nocFailed = false → s.start.storeFailed = false → domCut s 49 = false → s.mbx.fw ≠ none →
      s.ext.mode = 0 → dir.magic = 0x4442414B → dir.version = 1 → 1 ≤ dir.entryCount.toNat → dir.entryCount.toNat ≤ 32 →
      dir.entries.length = dir.entryCount.toNat →
    ∃ t, exec (.bootLoadStart dir) s = .next t ∧ t.load.boot = .loading ∧ t.load.result.status = .pending ∧
      t.load.job = some (newJob none 0 true dir.entries)) ∧
  (∀ (s : State) (dir : BootDir), s.load.boot = .waiting → s.load.job = none → s.align.busy = false → s.start.bistDone = true →
      s.start.held = false → s.start.nocFailed = false → s.start.storeFailed = false → domCut s 49 = false → s.mbx.fw ≠ none →
      s.ext.mode = 0 → dir.magic ≠ 0x4442414B →
    ∃ t, exec (.bootLoadStart dir) s = .next t ∧ t.ext.error = true) ∧
  (∀ (s : State) (dir : BootDir), s.load.boot = .waiting → s.load.job = none → s.align.busy = false → s.start.bistDone = true →
      s.start.held = false → s.start.nocFailed = false → s.start.storeFailed = false → domCut s 49 = false → s.mbx.fw ≠ none →
      s.ext.mode = 1 ∨ s.ext.mode = 2 →
    ∃ t, exec (.bootLoadStart dir) s = .next t ∧ t.load.boot = .loading ∧ t.load.wptr = 0 ∧ t.load.rptr = 0 ∧
      t.load.job = some (newJob none 1 true [])) ∧
  (∀ s : State, s.load.boot = .starting → s.load.bootFault = none → (∀ x ∈ s.load.flagged, regionIs s x.1 .running = true) →
    ∃ t, exec .bootLoadComplete s = .next t ∧ t.load.boot = .complete ∧ t.load.result.status = .ok ∧ t.ext.done = true ∧
      t.ext.error = false) ∧
  (∀ (s : State) (j : LoadJob) (h : ImgHeader), s.load.job = some j → j.hdr = none → ringHas s j 512 = true →
      headerAuth s h = true → headerForm h = true → j.images = [] → h.contractRev = 1 → j.boot = false →
      loadRefusal s j h = none →
    ∃ t, exec (.loadImageHeader h) s = .next t ∧ t.load.job = some { j with hdr := some h, bytes := j.bytes + 512 } ∧
      t.load.store = s.load.store) ∧
  (∀ (s : State) (j : LoadJob) (h : ImgHeader), s.load.job = some j → j.hdr = none → ringHas s j 512 = true →
      headerAuth s h = false → j.boot = false →
    ∃ t, exec (.loadImageHeader h) s = .next t ∧ t.load.job = none ∧ t.load.result.status = .auth ∧ t.load.result.check = 1 ∧
      t.load.store = s.load.store) ∧
  (∀ (s : State) (j : LoadJob) (h : ImgHeader) (r : Fin 32) (tile : Fin 36) (f : Fin 1024) (d : BitVec 1024) (crc : BitVec 32),
      s.load.job = some j → j.hdr = some h → j.fail = none → h.imageType = 1 → h.regionMask.getLsbD r.val = true →
      Tab.get 0 j.nextFrame r.val = 1024 * tile.val + f.val → frameCheck r.val tile.val f.val d crc = none →
      ringHas s j 132 = true →
    ∃ t k, exec (.loadFrameReceived (.frame r tile f d crc)) s = .next t ∧ t.load.job = some k ∧ k.fail = none ∧
      k.bytes = j.bytes + 132 ∧ Tab.get 0 k.nextFrame r.val = 1024 * tile.val + f.val + 1 ∧
      Tab.get 0 (builtOf h k r.val).frames (1024 * tile.val + f.val) = d) ∧
  (∀ (s : State) (j : LoadJob) (h : ImgHeader) (r : Fin 32) (tile : Fin 36) (f : Fin 1024) (d : BitVec 1024) (crc : BitVec 32),
      s.load.job = some j → j.hdr = some h → j.fail = none → h.imageType = 1 → h.regionMask.getLsbD r.val = true →
      Tab.get 0 j.nextFrame r.val = 1024 * tile.val + f.val → crc ≠ frameCrc r.val tile.val f.val d → ringHas s j 132 = true →
    ∃ t k, exec (.loadFrameReceived (.frame r tile f d crc)) s = .next t ∧ t.load.job = some k ∧ k.bytes = j.bytes + 132 ∧
      k.fail = some { status := .crc, check := 2, region := BitVec.ofNat 8 r.val, tile := BitVec.ofNat 16 (regionTileCode r.val tile.val), frame := BitVec.ofNat 16 f.val }) ∧
  (∀ (s : State) (j : LoadJob) (h : ImgHeader) (ok : Bool) (r : Nat), s.load.job = some j → j.hdr = some h →
      ringHas s j (h.imageLen.toNat - j.bytes) = true → h.flags.getLsbD 0 = false ∨ ok = true → j.fail = none →
      imageWhole h j = true → j.boot = false → h.imageType = 1 → bitsOf h.regionMask = [r] →
    ∃ t, exec (.loadImageEnd h.payloadDigest ok) s = .next t ∧ t.load.job = none ∧ t.load.result.status = .ok ∧
      Tab.get none t.load.store (16 * r + h.context.toNat) = some (builtOf h j r)) ∧
  (∀ (s : State) (j : LoadJob) (h : ImgHeader) (dg : BitVec 384) (ok : Bool), s.load.job = some j → j.hdr = some h →
      ringHas s j (h.imageLen.toNat - j.bytes) = true → dg ≠ h.payloadDigest ∨ (h.flags.getLsbD 0 = true ∧ ok = false) →
      j.boot = false →
    ∃ t, exec (.loadImageEnd dg ok) s = .next t ∧ t.load.job = none ∧ t.load.result.status = .auth ∧ t.load.result.check = 1 ∧
      t.load.store = s.load.store) ∧
  (∀ (s : State) (j : StageJob) (c : Stored) (obs : List ChanObs), nextStage s = some j → s.ctx.queue = [j] →
      Tab.get none s.load.store (16 * j.region + j.ctx.toNat) = some c → c.chans = [] → (regionOf s j.region).pendSw = none →
      runsOrHolds (regionOf s j.region) j.slot.val = false → footprintCheck s c.desc.footprint = none → s.load.boot = .complete →
    ∃ t, exec (.stagingShareGrant obs) s = .next t ∧ t.ctx.queue = [{ j with granted := true, fast := effFast s j }] ∧
      ((regionOf t j.region).slot j.slot.val).st = .staging ∧ ((regionOf t j.region).slot j.slot.val).ctx = j.ctx) ∧
  (∀ (s : State) (j : StageJob) (c : Stored) (rg : Fin 32), s.ctx.queue = [j] → j.granted = true → j.region = rg.val →
      framePaused s rg.val = false → Tab.get none s.load.store (16 * j.region + j.ctx.toNat) = some c → c.damaged = [] →
      s.load.boot = .complete →
    ∃ t, exec (.stagingDone rg { crcOk := true, storeOk := true, readbackOk := true }) s = .next t ∧ t.ctx.queue = [] ∧
      ((regionOf t rg.val).slot j.slot.val).st = .verified ∧ ((regionOf t rg.val).slot j.slot.val).plane = c.frames ∧
      (regionOf t rg.val).st = (if (regionOf s rg.val).st = .blank then .ready else (regionOf s rg.val).st)) ∧
  (∀ (s : State) (j : InitJob) (o : Origin) (ok : Bool) (n m : Nat), s.mem.init = some j → j.org = some o →
    ∃ t, exec (.memInitDone ok n m) s = .next t ∧ t.mem.init = none) ∧
  (∀ (s : State) (src : BitVec 8) (v : W64), protDenied s src.toNat wptrAddr = false → wsWriter s src.toNat = true →
      s.noc.mesh = [] → s.load.wptr.toNat ≤ v.toNat → v.toNat ≤ s.load.rptr.toNat + 2 ^ 27 →
    exec (.cfgWsWptrWrite src v) s = .next { s with load := { s.load with wptr := v } }) ∧
  (∀ (s : State) (src : BitVec 8) (v : W64), protDenied s src.toNat wptrAddr = false → wsWriter s src.toNat = true →
      s.noc.mesh = [] → v.toNat < s.load.wptr.toNat ∨ s.load.rptr.toNat + 2 ^ 27 < v.toNat →
    exec (.cfgWsWptrWrite src v) s = .next { s with load := { s.load with ptrErr := true } }) ∧
  (∀ (s : State) (src : BitVec 8) (v : W64), s.noc.mesh = [] → wsWriter s src.toNat = false →
    exec (.cfgWsWptrWrite src v) s = .next s) ∧
  (∀ (s : State) (j : LoadJob) (b : Byte), s.load.job = some j → j.source = 2 → s.load.jtagBits = [] →
    exec (.jtagCfgStream ((List.range 8).map (fun i => b.getLsbD i))) s = .next { s with load := { s.load with
      jtagBits := [], jtagBytes := s.load.jtagBytes ++ [b] } }) ∧
  (∀ (s : State) (l : List Bool), s.load.job = none → exec (.jtagCfgStream l) s = .next s) ∧
  (∀ (s : State) (j : ReadJob) (rest : List ReadJob), s.ctx.reads = j :: rest →
    ∃ t, exec .readbackDone s = .next t ∧ t.ctx.reads = rest ∧
      t.load.ws = putBytes s.load.ws j.wsOffset.toNat ((List.range j.count.toNat).flatMap (fun i =>
        bytesLE 128 (readRecord s j ((tileOfCode j.region j.tile.toNat).getD 0) (j.frame.toNat + i)).toNat ++
        bytesLE 4 (frameCrc j.region ((tileOfCode j.region j.tile.toNat).getD 0) (j.frame.toNat + i)
          (readRecord s j ((tileOfCode j.region j.tile.toNat).getD 0) (j.frame.toNat + i))).toNat)))

/-- The CFG commands on a ready channel: CFG.LOAD begins a load and stays open, and is refused for source 3 or while one
runs; CFG.STATUS and CFG.LIST report; CFG.DELETE makes contexts absent; CFG.READBACK begins, and is denied in the life-cycle
states 3 and 4 (R114, R216, R221, R225 to R227, R237). -/
def Obligations.CfgCommandsReply : Prop :=
  (∀ (s : State) (r : Req) (src : BitVec 2) (off : BitVec 32), ready s r 0x0201 = true → src ≠ 3 → domCut s 49 = false →
      s.load.job = none → s.load.boot = .complete →
    ∃ t, exec (.cfgLoad r src off) s = .next t ∧ answered t r 0x0201 .pending [] ∧ t.load.result.status = .pending ∧
      t.load.job = some (newJob (some (originOf r 0x0201)) src false (if src = 0 then [(off.setWidth 64, 0)] else []))) ∧
  (∀ (s : State) (r : Req) (off : BitVec 32), ready s r 0x0201 = true → Replies (exec (.cfgLoad r 3 off) s) r 0x0201 .badArg [] s) ∧
  (∀ (s : State) (r : Req) (src : BitVec 2) (off : BitVec 32), ready s r 0x0201 = true → src ≠ 3 → domCut s 49 = false →
      s.load.job ≠ none → Replies (exec (.cfgLoad r src off) s) r 0x0201 .busy [] s) ∧
  (∀ (s : State) (r : Req), ready s r 0x0202 = true →
    Replies (exec (.cfgStatus r) s) r 0x0202 .ok (packFields [(8, s.load.result.status.code), (8, s.load.result.check.toNat),
      (8, s.load.result.source.toNat), (8, s.load.result.region.toNat), (16, s.load.result.tile.toNat),
      (16, s.load.result.frame.toNat), (64, s.load.result.bytes.toNat), (128, s.load.result.buildId.toNat)]) s) ∧
  (∀ (s : State) (r : Req) (g : BitVec 5) (here : List (Nat × Stored)), ready s r 0x0203 = true →
      (List.range 16).filterMap (fun c => (Tab.get none s.load.store (16 * g.toNat + c)).map (fun x => (c, x))) = here →
    Replies (exec (.cfgList r g) s) r 0x0203 .ok (packFields ((16, here.foldl (fun n x => n + 2 ^ x.1) 0) ::
      here.map (fun x => (128, x.2.buildId.toNat)))) s) ∧
  (∀ (s : State) (r : Req) (mask : BitVec 32) (c : BitVec 4) (g : Nat), ready s r 0x0204 = true → maskRegions mask.toNat = [g] →
      Tab.get none s.load.store (16 * g + c.toNat) ≠ none → contextUsed s g c.toNat = false →
      loadingContext s g c.toNat = false →
    Replies (exec (.cfgDelete r mask c) s) r 0x0204 .ok [] { s with load := { s.load with
      store := Tab.set none s.load.store (16 * g + c.toNat) none } }) ∧
  (∀ (s : State) (r : Req) (mask : BitVec 32) (c : BitVec 4), ready s r 0x0204 = true →
      maskRegions mask.toNat = [] ∨ (∃ g ∈ maskRegions mask.toNat, Tab.get none s.load.store (16 * g + c.toNat) = none) →
    Replies (exec (.cfgDelete r mask c) s) r 0x0204 .badArg [] s) ∧
  (∀ (s : State) (r : Req) (g : BitVec 5) (n : BitVec 4) (tile : BitVec 11) (f : BitVec 10) (k : BitVec 11) (o : BitVec 27)
      (x : Stored), ready s r 0x0205 = true → tileOfCode g.toNat tile.toNat ≠ none → k ≠ 0 → f.toNat + k.toNat ≤ 1024 →
      o.toNat + 132 * k.toNat ≤ 2 ^ 27 → domCut s 49 = false → Tab.get none s.load.store (16 * g.toNat + n.toNat) = some x →
      x.encrypted = false → s.sec.life ≠ 3 → s.sec.life ≠ 4 →
    Replies (exec (.cfgReadback r g 0 n tile f k o) s) r 0x0205 .pending [] (withPend r 0x0205 1 { s with ctx := { s.ctx with
      reads := s.ctx.reads ++ [{ org := originOf r 0x0205, region := g.toNat, source := 0, number := n, tile := tile, frame := f, count := k, wsOffset := o }] } })) ∧
  (∀ (s : State) (r : Req) (g : BitVec 5) (n : BitVec 4) (tile : BitVec 11) (f : BitVec 10) (k : BitVec 11) (o : BitVec 27)
      (x : Stored), ready s r 0x0205 = true → tileOfCode g.toNat tile.toNat ≠ none → k ≠ 0 → f.toNat + k.toNat ≤ 1024 →
      o.toNat + 132 * k.toNat ≤ 2 ^ 27 → domCut s 49 = false → Tab.get none s.load.store (16 * g.toNat + n.toNat) = some x →
      x.encrypted = true ∨ s.sec.life = 3 ∨ s.sec.life = 4 →
    Replies (exec (.cfgReadback r g 0 n tile f k o) s) r 0x0205 .denied [] s)
end

