-- ==== Sys2Proof/Laws/State.lean ====
section
/-! SUPPORT. What each indexed update of the state leaves alone: one law per field of State, true by unfolding. -/

namespace Sys2Proof.Machine

@[simp] theorem updRegion_ctx_p (r : Nat) (f : Region → Region) (s : State) :
    (updRegion r f s).ctx.p = s.ctx.p := rfl
@[simp] theorem updRegion_ctx_armed (r : Nat) (f : Region → Region) (s : State) :
    (updRegion r f s).ctx.armed = s.ctx.armed := rfl
@[simp] theorem updRegion_ctx_queue (r : Nat) (f : Region → Region) (s : State) :
    (updRegion r f s).ctx.queue = s.ctx.queue := rfl
@[simp] theorem updRegion_ctx_reads (r : Nat) (f : Region → Region) (s : State) :
    (updRegion r f s).ctx.reads = s.ctx.reads := rfl
@[simp] theorem updRegion_ext (r : Nat) (f : Region → Region) (s : State) : (updRegion r f s).ext = s.ext := rfl
@[simp] theorem updRegion_start (r : Nat) (f : Region → Region) (s : State) : (updRegion r f s).start = s.start := rfl
@[simp] theorem updRegion_align (r : Nat) (f : Region → Region) (s : State) : (updRegion r f s).align = s.align := rfl
@[simp] theorem updRegion_clk (r : Nat) (f : Region → Region) (s : State) : (updRegion r f s).clk = s.clk := rfl
@[simp] theorem updRegion_pwr (r : Nat) (f : Region → Region) (s : State) : (updRegion r f s).pwr = s.pwr := rfl
@[simp] theorem updRegion_thm (r : Nat) (f : Region → Region) (s : State) : (updRegion r f s).thm = s.thm := rfl
@[simp] theorem updRegion_load (r : Nat) (f : Region → Region) (s : State) : (updRegion r f s).load = s.load := rfl
@[simp] theorem updRegion_scrub (r : Nat) (f : Region → Region) (s : State) : (updRegion r f s).scrub = s.scrub := rfl
@[simp] theorem updRegion_fab (r : Nat) (f : Region → Region) (s : State) : (updRegion r f s).fab = s.fab := rfl
@[simp] theorem updRegion_mem (r : Nat) (f : Region → Region) (s : State) : (updRegion r f s).mem = s.mem := rfl
@[simp] theorem updRegion_noc (r : Nat) (f : Region → Region) (s : State) : (updRegion r f s).noc = s.noc := rfl
@[simp] theorem updRegion_dram (r : Nat) (f : Region → Region) (s : State) : (updRegion r f s).dram = s.dram := rfl
@[simp] theorem updRegion_prt (r : Nat) (f : Region → Region) (s : State) : (updRegion r f s).prt = s.prt := rfl
@[simp] theorem updRegion_lnk (r : Nat) (f : Region → Region) (s : State) : (updRegion r f s).lnk = s.lnk := rfl
@[simp] theorem updRegion_dsp (r : Nat) (f : Region → Region) (s : State) : (updRegion r f s).dsp = s.dsp := rfl
@[simp] theorem updRegion_pins (r : Nat) (f : Region → Region) (s : State) : (updRegion r f s).pins = s.pins := rfl
@[simp] theorem updRegion_mbx (r : Nat) (f : Region → Region) (s : State) : (updRegion r f s).mbx = s.mbx := rfl
@[simp] theorem updRegion_evt (r : Nat) (f : Region → Region) (s : State) : (updRegion r f s).evt = s.evt := rfl
@[simp] theorem updRegion_sec (r : Nat) (f : Region → Region) (s : State) : (updRegion r f s).sec = s.sec := rfl
@[simp] theorem updRegion_tag (r : Nat) (f : Region → Region) (s : State) : (updRegion r f s).tag = s.tag := rfl
@[simp] theorem updRegion_free (r : Nat) (f : Region → Region) (s : State) : (updRegion r f s).free = s.free := rfl
@[simp] theorem updRegion_pending (r : Nat) (f : Region → Region) (s : State) : (updRegion r f s).pending = s.pending := rfl
@[simp] theorem updDom_pwr_onQueue (d : Nat) (f : Domain → Domain) (s : State) :
    (updDom d f s).pwr.onQueue = s.pwr.onQueue := rfl
@[simp] theorem updDom_pwr_thermtrip (d : Nat) (f : Domain → Domain) (s : State) :
    (updDom d f s).pwr.thermtrip = s.pwr.thermtrip := rfl
@[simp] theorem updDom_pwr_wakeSources (d : Nat) (f : Domain → Domain) (s : State) :
    (updDom d f s).pwr.wakeSources = s.pwr.wakeSources := rfl
@[simp] theorem updDom_pwr_wakePorts (d : Nat) (f : Domain → Domain) (s : State) :
    (updDom d f s).pwr.wakePorts = s.pwr.wakePorts := rfl
@[simp] theorem updDom_pwr_deepEn (d : Nat) (f : Domain → Domain) (s : State) :
    (updDom d f s).pwr.deepEn = s.pwr.deepEn := rfl
@[simp] theorem updDom_pwr_wakeSet (d : Nat) (f : Domain → Domain) (s : State) :
    (updDom d f s).pwr.wakeSet = s.pwr.wakeSet := rfl
@[simp] theorem updDom_pwr_wakePins (d : Nat) (f : Domain → Domain) (s : State) :
    (updDom d f s).pwr.wakePins = s.pwr.wakePins := rfl
@[simp] theorem updDom_pwr_deepIdle (d : Nat) (f : Domain → Domain) (s : State) :
    (updDom d f s).pwr.deepIdle = s.pwr.deepIdle := rfl
@[simp] theorem updDom_pwr_waking (d : Nat) (f : Domain → Domain) (s : State) :
    (updDom d f s).pwr.waking = s.pwr.waking := rfl
@[simp] theorem updDom_pwr_baseDue (d : Nat) (f : Domain → Domain) (s : State) :
    (updDom d f s).pwr.baseDue = s.pwr.baseDue := rfl
@[simp] theorem updDom_pwr_baseReset (d : Nat) (f : Domain → Domain) (s : State) :
    (updDom d f s).pwr.baseReset = s.pwr.baseReset := rfl
@[simp] theorem updDom_pwr_tripRetention (d : Nat) (f : Domain → Domain) (s : State) :
    (updDom d f s).pwr.tripRetention = s.pwr.tripRetention := rfl
@[simp] theorem updDom_pwr_tripSensor (d : Nat) (f : Domain → Domain) (s : State) :
    (updDom d f s).pwr.tripSensor = s.pwr.tripSensor := rfl
@[simp] theorem updDom_pwr_portsBefore (d : Nat) (f : Domain → Domain) (s : State) :
    (updDom d f s).pwr.portsBefore = s.pwr.portsBefore := rfl
@[simp] theorem updDom_pwr_vccFabOk (d : Nat) (f : Domain → Domain) (s : State) :
    (updDom d f s).pwr.vccFabOk = s.pwr.vccFabOk := rfl
@[simp] theorem updDom_ext (d : Nat) (f : Domain → Domain) (s : State) : (updDom d f s).ext = s.ext := rfl
@[simp] theorem updDom_start (d : Nat) (f : Domain → Domain) (s : State) : (updDom d f s).start = s.start := rfl
@[simp] theorem updDom_align (d : Nat) (f : Domain → Domain) (s : State) : (updDom d f s).align = s.align := rfl
@[simp] theorem updDom_clk (d : Nat) (f : Domain → Domain) (s : State) : (updDom d f s).clk = s.clk := rfl
@[simp] theorem updDom_thm (d : Nat) (f : Domain → Domain) (s : State) : (updDom d f s).thm = s.thm := rfl
@[simp] theorem updDom_load (d : Nat) (f : Domain → Domain) (s : State) : (updDom d f s).load = s.load := rfl
@[simp] theorem updDom_scrub (d : Nat) (f : Domain → Domain) (s : State) : (updDom d f s).scrub = s.scrub := rfl
@[simp] theorem updDom_ctx (d : Nat) (f : Domain → Domain) (s : State) : (updDom d f s).ctx = s.ctx := rfl
@[simp] theorem updDom_fab (d : Nat) (f : Domain → Domain) (s : State) : (updDom d f s).fab = s.fab := rfl
@[simp] theorem updDom_mem (d : Nat) (f : Domain → Domain) (s : State) : (updDom d f s).mem = s.mem := rfl
@[simp] theorem updDom_noc (d : Nat) (f : Domain → Domain) (s : State) : (updDom d f s).noc = s.noc := rfl
@[simp] theorem updDom_dram (d : Nat) (f : Domain → Domain) (s : State) : (updDom d f s).dram = s.dram := rfl
@[simp] theorem updDom_prt (d : Nat) (f : Domain → Domain) (s : State) : (updDom d f s).prt = s.prt := rfl
@[simp] theorem updDom_lnk (d : Nat) (f : Domain → Domain) (s : State) : (updDom d f s).lnk = s.lnk := rfl
@[simp] theorem updDom_dsp (d : Nat) (f : Domain → Domain) (s : State) : (updDom d f s).dsp = s.dsp := rfl
@[simp] theorem updDom_pins (d : Nat) (f : Domain → Domain) (s : State) : (updDom d f s).pins = s.pins := rfl
@[simp] theorem updDom_mbx (d : Nat) (f : Domain → Domain) (s : State) : (updDom d f s).mbx = s.mbx := rfl
@[simp] theorem updDom_evt (d : Nat) (f : Domain → Domain) (s : State) : (updDom d f s).evt = s.evt := rfl
@[simp] theorem updDom_sec (d : Nat) (f : Domain → Domain) (s : State) : (updDom d f s).sec = s.sec := rfl
@[simp] theorem updDom_tag (d : Nat) (f : Domain → Domain) (s : State) : (updDom d f s).tag = s.tag := rfl
@[simp] theorem updDom_free (d : Nat) (f : Domain → Domain) (s : State) : (updDom d f s).free = s.free := rfl
@[simp] theorem updDom_pending (d : Nat) (f : Domain → Domain) (s : State) : (updDom d f s).pending = s.pending := rfl
@[simp] theorem updPll_clk_m (g : Nat) (f : Pll → Pll) (s : State) :
    (updPll g f s).clk.m = s.clk.m := rfl
@[simp] theorem updPll_clk_refBad (g : Nat) (f : Pll → Pll) (s : State) :
    (updPll g f s).clk.refBad = s.clk.refBad := rfl
@[simp] theorem updPll_clk_refGood (g : Nat) (f : Pll → Pll) (s : State) :
    (updPll g f s).clk.refGood = s.clk.refGood := rfl
@[simp] theorem updPll_clk_refLost (g : Nat) (f : Pll → Pll) (s : State) :
    (updPll g f s).clk.refLost = s.clk.refLost := rfl
@[simp] theorem updPll_clk_fc (g : Nat) (f : Pll → Pll) (s : State) :
    (updPll g f s).clk.fc = s.clk.fc := rfl
@[simp] theorem updPll_clk_sinceLock (g : Nat) (f : Pll → Pll) (s : State) :
    (updPll g f s).clk.sinceLock = s.clk.sinceLock := rfl
@[simp] theorem updPll_clk_time (g : Nat) (f : Pll → Pll) (s : State) :
    (updPll g f s).clk.time = s.clk.time := rfl
@[simp] theorem updPll_clk_unsync (g : Nat) (f : Pll → Pll) (s : State) :
    (updPll g f s).clk.unsync = s.clk.unsync := rfl
@[simp] theorem updPll_clk_chainId (g : Nat) (f : Pll → Pll) (s : State) :
    (updPll g f s).clk.chainId = s.clk.chainId := rfl
@[simp] theorem updPll_clk_timeLocked (g : Nat) (f : Pll → Pll) (s : State) :
    (updPll g f s).clk.timeLocked = s.clk.timeLocked := rfl
@[simp] theorem updPll_clk_phase (g : Nat) (f : Pll → Pll) (s : State) :
    (updPll g f s).clk.phase = s.clk.phase := rfl
@[simp] theorem updPll_clk_gradeStop (g : Nat) (f : Pll → Pll) (s : State) :
    (updPll g f s).clk.gradeStop = s.clk.gradeStop := rfl
@[simp] theorem updPll_clk_fabricCmd (g : Nat) (f : Pll → Pll) (s : State) :
    (updPll g f s).clk.fabricCmd = s.clk.fabricCmd := rfl
@[simp] theorem updPll_clk_aux (g : Nat) (f : Pll → Pll) (s : State) :
    (updPll g f s).clk.aux = s.clk.aux := rfl
@[simp] theorem updPll_clk_comp (g : Nat) (f : Pll → Pll) (s : State) :
    (updPll g f s).clk.comp = s.clk.comp := rfl
@[simp] theorem updPll_ext (g : Nat) (f : Pll → Pll) (s : State) : (updPll g f s).ext = s.ext := rfl
@[simp] theorem updPll_start (g : Nat) (f : Pll → Pll) (s : State) : (updPll g f s).start = s.start := rfl
@[simp] theorem updPll_align (g : Nat) (f : Pll → Pll) (s : State) : (updPll g f s).align = s.align := rfl
@[simp] theorem updPll_pwr (g : Nat) (f : Pll → Pll) (s : State) : (updPll g f s).pwr = s.pwr := rfl
@[simp] theorem updPll_thm (g : Nat) (f : Pll → Pll) (s : State) : (updPll g f s).thm = s.thm := rfl
@[simp] theorem updPll_load (g : Nat) (f : Pll → Pll) (s : State) : (updPll g f s).load = s.load := rfl
@[simp] theorem updPll_scrub (g : Nat) (f : Pll → Pll) (s : State) : (updPll g f s).scrub = s.scrub := rfl
@[simp] theorem updPll_ctx (g : Nat) (f : Pll → Pll) (s : State) : (updPll g f s).ctx = s.ctx := rfl
@[simp] theorem updPll_fab (g : Nat) (f : Pll → Pll) (s : State) : (updPll g f s).fab = s.fab := rfl
@[simp] theorem updPll_mem (g : Nat) (f : Pll → Pll) (s : State) : (updPll g f s).mem = s.mem := rfl
@[simp] theorem updPll_noc (g : Nat) (f : Pll → Pll) (s : State) : (updPll g f s).noc = s.noc := rfl
@[simp] theorem updPll_dram (g : Nat) (f : Pll → Pll) (s : State) : (updPll g f s).dram = s.dram := rfl
@[simp] theorem updPll_prt (g : Nat) (f : Pll → Pll) (s : State) : (updPll g f s).prt = s.prt := rfl
@[simp] theorem updPll_lnk (g : Nat) (f : Pll → Pll) (s : State) : (updPll g f s).lnk = s.lnk := rfl
@[simp] theorem updPll_dsp (g : Nat) (f : Pll → Pll) (s : State) : (updPll g f s).dsp = s.dsp := rfl
@[simp] theorem updPll_pins (g : Nat) (f : Pll → Pll) (s : State) : (updPll g f s).pins = s.pins := rfl
@[simp] theorem updPll_mbx (g : Nat) (f : Pll → Pll) (s : State) : (updPll g f s).mbx = s.mbx := rfl
@[simp] theorem updPll_evt (g : Nat) (f : Pll → Pll) (s : State) : (updPll g f s).evt = s.evt := rfl
@[simp] theorem updPll_sec (g : Nat) (f : Pll → Pll) (s : State) : (updPll g f s).sec = s.sec := rfl
@[simp] theorem updPll_tag (g : Nat) (f : Pll → Pll) (s : State) : (updPll g f s).tag = s.tag := rfl
@[simp] theorem updPll_free (g : Nat) (f : Pll → Pll) (s : State) : (updPll g f s).free = s.free := rfl
@[simp] theorem updPll_pending (g : Nat) (f : Pll → Pll) (s : State) : (updPll g f s).pending = s.pending := rfl
@[simp] theorem updSensor_thm_warnC (k : Nat) (f : Sensor → Sensor) (s : State) :
    (updSensor k f s).thm.warnC = s.thm.warnC := rfl
@[simp] theorem updSensor_thm_throttleC (k : Nat) (f : Sensor → Sensor) (s : State) :
    (updSensor k f s).thm.throttleC = s.thm.throttleC := rfl
@[simp] theorem updSensor_thm_warning (k : Nat) (f : Sensor → Sensor) (s : State) :
    (updSensor k f s).thm.warning = s.thm.warning := rfl
@[simp] theorem updSensor_thm_throttle (k : Nat) (f : Sensor → Sensor) (s : State) :
    (updSensor k f s).thm.throttle = s.thm.throttle := rfl
@[simp] theorem updSensor_thm_restarted (k : Nat) (f : Sensor → Sensor) (s : State) :
    (updSensor k f s).thm.restarted = s.thm.restarted := rfl
@[simp] theorem updSensor_ext (k : Nat) (f : Sensor → Sensor) (s : State) : (updSensor k f s).ext = s.ext := rfl
@[simp] theorem updSensor_start (k : Nat) (f : Sensor → Sensor) (s : State) : (updSensor k f s).start = s.start := rfl
@[simp] theorem updSensor_align (k : Nat) (f : Sensor → Sensor) (s : State) : (updSensor k f s).align = s.align := rfl
@[simp] theorem updSensor_clk (k : Nat) (f : Sensor → Sensor) (s : State) : (updSensor k f s).clk = s.clk := rfl
@[simp] theorem updSensor_pwr (k : Nat) (f : Sensor → Sensor) (s : State) : (updSensor k f s).pwr = s.pwr := rfl
@[simp] theorem updSensor_load (k : Nat) (f : Sensor → Sensor) (s : State) : (updSensor k f s).load = s.load := rfl
@[simp] theorem updSensor_scrub (k : Nat) (f : Sensor → Sensor) (s : State) : (updSensor k f s).scrub = s.scrub := rfl
@[simp] theorem updSensor_ctx (k : Nat) (f : Sensor → Sensor) (s : State) : (updSensor k f s).ctx = s.ctx := rfl
@[simp] theorem updSensor_fab (k : Nat) (f : Sensor → Sensor) (s : State) : (updSensor k f s).fab = s.fab := rfl
@[simp] theorem updSensor_mem (k : Nat) (f : Sensor → Sensor) (s : State) : (updSensor k f s).mem = s.mem := rfl
@[simp] theorem updSensor_noc (k : Nat) (f : Sensor → Sensor) (s : State) : (updSensor k f s).noc = s.noc := rfl
@[simp] theorem updSensor_dram (k : Nat) (f : Sensor → Sensor) (s : State) : (updSensor k f s).dram = s.dram := rfl
@[simp] theorem updSensor_prt (k : Nat) (f : Sensor → Sensor) (s : State) : (updSensor k f s).prt = s.prt := rfl
@[simp] theorem updSensor_lnk (k : Nat) (f : Sensor → Sensor) (s : State) : (updSensor k f s).lnk = s.lnk := rfl
@[simp] theorem updSensor_dsp (k : Nat) (f : Sensor → Sensor) (s : State) : (updSensor k f s).dsp = s.dsp := rfl
@[simp] theorem updSensor_pins (k : Nat) (f : Sensor → Sensor) (s : State) : (updSensor k f s).pins = s.pins := rfl
@[simp] theorem updSensor_mbx (k : Nat) (f : Sensor → Sensor) (s : State) : (updSensor k f s).mbx = s.mbx := rfl
@[simp] theorem updSensor_evt (k : Nat) (f : Sensor → Sensor) (s : State) : (updSensor k f s).evt = s.evt := rfl
@[simp] theorem updSensor_sec (k : Nat) (f : Sensor → Sensor) (s : State) : (updSensor k f s).sec = s.sec := rfl
@[simp] theorem updSensor_tag (k : Nat) (f : Sensor → Sensor) (s : State) : (updSensor k f s).tag = s.tag := rfl
@[simp] theorem updSensor_free (k : Nat) (f : Sensor → Sensor) (s : State) : (updSensor k f s).free = s.free := rfl
@[simp] theorem updSensor_pending (k : Nat) (f : Sensor → Sensor) (s : State) : (updSensor k f s).pending = s.pending := rfl
@[simp] theorem updBlock_mem_clearing (b : Nat) (f : Block → Block) (s : State) :
    (updBlock b f s).mem.clearing = s.mem.clearing := rfl
@[simp] theorem updBlock_mem_csel (b : Nat) (f : Block → Block) (s : State) :
    (updBlock b f s).mem.csel = s.mem.csel := rfl
@[simp] theorem updBlock_mem_ccnt (b : Nat) (f : Block → Block) (s : State) :
    (updBlock b f s).mem.ccnt = s.mem.ccnt := rfl
@[simp] theorem updBlock_mem_colErrs (b : Nat) (f : Block → Block) (s : State) :
    (updBlock b f s).mem.colErrs = s.mem.colErrs := rfl
@[simp] theorem updBlock_mem_colDone (b : Nat) (f : Block → Block) (s : State) :
    (updBlock b f s).mem.colDone = s.mem.colDone := rfl
@[simp] theorem updBlock_mem_init (b : Nat) (f : Block → Block) (s : State) :
    (updBlock b f s).mem.init = s.mem.init := rfl
@[simp] theorem updBlock_ext (b : Nat) (f : Block → Block) (s : State) : (updBlock b f s).ext = s.ext := rfl
@[simp] theorem updBlock_start (b : Nat) (f : Block → Block) (s : State) : (updBlock b f s).start = s.start := rfl
@[simp] theorem updBlock_align (b : Nat) (f : Block → Block) (s : State) : (updBlock b f s).align = s.align := rfl
@[simp] theorem updBlock_clk (b : Nat) (f : Block → Block) (s : State) : (updBlock b f s).clk = s.clk := rfl
@[simp] theorem updBlock_pwr (b : Nat) (f : Block → Block) (s : State) : (updBlock b f s).pwr = s.pwr := rfl
@[simp] theorem updBlock_thm (b : Nat) (f : Block → Block) (s : State) : (updBlock b f s).thm = s.thm := rfl
@[simp] theorem updBlock_load (b : Nat) (f : Block → Block) (s : State) : (updBlock b f s).load = s.load := rfl
@[simp] theorem updBlock_scrub (b : Nat) (f : Block → Block) (s : State) : (updBlock b f s).scrub = s.scrub := rfl
@[simp] theorem updBlock_ctx (b : Nat) (f : Block → Block) (s : State) : (updBlock b f s).ctx = s.ctx := rfl
@[simp] theorem updBlock_fab (b : Nat) (f : Block → Block) (s : State) : (updBlock b f s).fab = s.fab := rfl
@[simp] theorem updBlock_noc (b : Nat) (f : Block → Block) (s : State) : (updBlock b f s).noc = s.noc := rfl
@[simp] theorem updBlock_dram (b : Nat) (f : Block → Block) (s : State) : (updBlock b f s).dram = s.dram := rfl
@[simp] theorem updBlock_prt (b : Nat) (f : Block → Block) (s : State) : (updBlock b f s).prt = s.prt := rfl
@[simp] theorem updBlock_lnk (b : Nat) (f : Block → Block) (s : State) : (updBlock b f s).lnk = s.lnk := rfl
@[simp] theorem updBlock_dsp (b : Nat) (f : Block → Block) (s : State) : (updBlock b f s).dsp = s.dsp := rfl
@[simp] theorem updBlock_pins (b : Nat) (f : Block → Block) (s : State) : (updBlock b f s).pins = s.pins := rfl
@[simp] theorem updBlock_mbx (b : Nat) (f : Block → Block) (s : State) : (updBlock b f s).mbx = s.mbx := rfl
@[simp] theorem updBlock_evt (b : Nat) (f : Block → Block) (s : State) : (updBlock b f s).evt = s.evt := rfl
@[simp] theorem updBlock_sec (b : Nat) (f : Block → Block) (s : State) : (updBlock b f s).sec = s.sec := rfl
@[simp] theorem updBlock_tag (b : Nat) (f : Block → Block) (s : State) : (updBlock b f s).tag = s.tag := rfl
@[simp] theorem updBlock_free (b : Nat) (f : Block → Block) (s : State) : (updBlock b f s).free = s.free := rfl
@[simp] theorem updBlock_pending (b : Nat) (f : Block → Block) (s : State) : (updBlock b f s).pending = s.pending := rfl
@[simp] theorem updRouter_noc_timeout (n : Nat) (f : Router → Router) (s : State) :
    (updRouter n f s).noc.timeout = s.noc.timeout := rfl
@[simp] theorem updRouter_noc_timeouts (n : Nat) (f : Router → Router) (s : State) :
    (updRouter n f s).noc.timeouts = s.noc.timeouts := rfl
@[simp] theorem updRouter_noc_late (n : Nat) (f : Router → Router) (s : State) :
    (updRouter n f s).noc.late = s.noc.late := rfl
@[simp] theorem updRouter_noc_mesh (n : Nat) (f : Router → Router) (s : State) :
    (updRouter n f s).noc.mesh = s.noc.mesh := rfl
@[simp] theorem updRouter_noc_out (n : Nat) (f : Router → Router) (s : State) :
    (updRouter n f s).noc.out = s.noc.out := rfl
@[simp] theorem updRouter_noc_rsps (n : Nat) (f : Router → Router) (s : State) :
    (updRouter n f s).noc.rsps = s.noc.rsps := rfl
@[simp] theorem updRouter_noc_lateTags (n : Nat) (f : Router → Router) (s : State) :
    (updRouter n f s).noc.lateTags = s.noc.lateTags := rfl
@[simp] theorem updRouter_noc_ports (n : Nat) (f : Router → Router) (s : State) :
    (updRouter n f s).noc.ports = s.noc.ports := rfl
@[simp] theorem updRouter_noc_done (n : Nat) (f : Router → Router) (s : State) :
    (updRouter n f s).noc.done = s.noc.done := rfl
@[simp] theorem updRouter_noc_pf1Drop (n : Nat) (f : Router → Router) (s : State) :
    (updRouter n f s).noc.pf1Drop = s.noc.pf1Drop := rfl
@[simp] theorem updRouter_ext (n : Nat) (f : Router → Router) (s : State) : (updRouter n f s).ext = s.ext := rfl
@[simp] theorem updRouter_start (n : Nat) (f : Router → Router) (s : State) : (updRouter n f s).start = s.start := rfl
@[simp] theorem updRouter_align (n : Nat) (f : Router → Router) (s : State) : (updRouter n f s).align = s.align := rfl
@[simp] theorem updRouter_clk (n : Nat) (f : Router → Router) (s : State) : (updRouter n f s).clk = s.clk := rfl
@[simp] theorem updRouter_pwr (n : Nat) (f : Router → Router) (s : State) : (updRouter n f s).pwr = s.pwr := rfl
@[simp] theorem updRouter_thm (n : Nat) (f : Router → Router) (s : State) : (updRouter n f s).thm = s.thm := rfl
@[simp] theorem updRouter_load (n : Nat) (f : Router → Router) (s : State) : (updRouter n f s).load = s.load := rfl
@[simp] theorem updRouter_scrub (n : Nat) (f : Router → Router) (s : State) : (updRouter n f s).scrub = s.scrub := rfl
@[simp] theorem updRouter_ctx (n : Nat) (f : Router → Router) (s : State) : (updRouter n f s).ctx = s.ctx := rfl
@[simp] theorem updRouter_fab (n : Nat) (f : Router → Router) (s : State) : (updRouter n f s).fab = s.fab := rfl
@[simp] theorem updRouter_mem (n : Nat) (f : Router → Router) (s : State) : (updRouter n f s).mem = s.mem := rfl
@[simp] theorem updRouter_dram (n : Nat) (f : Router → Router) (s : State) : (updRouter n f s).dram = s.dram := rfl
@[simp] theorem updRouter_prt (n : Nat) (f : Router → Router) (s : State) : (updRouter n f s).prt = s.prt := rfl
@[simp] theorem updRouter_lnk (n : Nat) (f : Router → Router) (s : State) : (updRouter n f s).lnk = s.lnk := rfl
@[simp] theorem updRouter_dsp (n : Nat) (f : Router → Router) (s : State) : (updRouter n f s).dsp = s.dsp := rfl
@[simp] theorem updRouter_pins (n : Nat) (f : Router → Router) (s : State) : (updRouter n f s).pins = s.pins := rfl
@[simp] theorem updRouter_mbx (n : Nat) (f : Router → Router) (s : State) : (updRouter n f s).mbx = s.mbx := rfl
@[simp] theorem updRouter_evt (n : Nat) (f : Router → Router) (s : State) : (updRouter n f s).evt = s.evt := rfl
@[simp] theorem updRouter_sec (n : Nat) (f : Router → Router) (s : State) : (updRouter n f s).sec = s.sec := rfl
@[simp] theorem updRouter_tag (n : Nat) (f : Router → Router) (s : State) : (updRouter n f s).tag = s.tag := rfl
@[simp] theorem updRouter_free (n : Nat) (f : Router → Router) (s : State) : (updRouter n f s).free = s.free := rfl
@[simp] theorem updRouter_pending (n : Nat) (f : Router → Router) (s : State) : (updRouter n f s).pending = s.pending := rfl
@[simp] theorem updNport_noc_timeout (n : Nat) (f : NPort → NPort) (s : State) :
    (updNport n f s).noc.timeout = s.noc.timeout := rfl
@[simp] theorem updNport_noc_timeouts (n : Nat) (f : NPort → NPort) (s : State) :
    (updNport n f s).noc.timeouts = s.noc.timeouts := rfl
@[simp] theorem updNport_noc_late (n : Nat) (f : NPort → NPort) (s : State) :
    (updNport n f s).noc.late = s.noc.late := rfl
@[simp] theorem updNport_noc_routers (n : Nat) (f : NPort → NPort) (s : State) :
    (updNport n f s).noc.routers = s.noc.routers := rfl
@[simp] theorem updNport_noc_mesh (n : Nat) (f : NPort → NPort) (s : State) :
    (updNport n f s).noc.mesh = s.noc.mesh := rfl
@[simp] theorem updNport_noc_out (n : Nat) (f : NPort → NPort) (s : State) :
    (updNport n f s).noc.out = s.noc.out := rfl
@[simp] theorem updNport_noc_rsps (n : Nat) (f : NPort → NPort) (s : State) :
    (updNport n f s).noc.rsps = s.noc.rsps := rfl
@[simp] theorem updNport_noc_lateTags (n : Nat) (f : NPort → NPort) (s : State) :
    (updNport n f s).noc.lateTags = s.noc.lateTags := rfl
@[simp] theorem updNport_noc_done (n : Nat) (f : NPort → NPort) (s : State) :
    (updNport n f s).noc.done = s.noc.done := rfl
@[simp] theorem updNport_noc_pf1Drop (n : Nat) (f : NPort → NPort) (s : State) :
    (updNport n f s).noc.pf1Drop = s.noc.pf1Drop := rfl
@[simp] theorem updNport_ext (n : Nat) (f : NPort → NPort) (s : State) : (updNport n f s).ext = s.ext := rfl
@[simp] theorem updNport_start (n : Nat) (f : NPort → NPort) (s : State) : (updNport n f s).start = s.start := rfl
@[simp] theorem updNport_align (n : Nat) (f : NPort → NPort) (s : State) : (updNport n f s).align = s.align := rfl
@[simp] theorem updNport_clk (n : Nat) (f : NPort → NPort) (s : State) : (updNport n f s).clk = s.clk := rfl
@[simp] theorem updNport_pwr (n : Nat) (f : NPort → NPort) (s : State) : (updNport n f s).pwr = s.pwr := rfl
@[simp] theorem updNport_thm (n : Nat) (f : NPort → NPort) (s : State) : (updNport n f s).thm = s.thm := rfl
@[simp] theorem updNport_load (n : Nat) (f : NPort → NPort) (s : State) : (updNport n f s).load = s.load := rfl
@[simp] theorem updNport_scrub (n : Nat) (f : NPort → NPort) (s : State) : (updNport n f s).scrub = s.scrub := rfl
@[simp] theorem updNport_ctx (n : Nat) (f : NPort → NPort) (s : State) : (updNport n f s).ctx = s.ctx := rfl
@[simp] theorem updNport_fab (n : Nat) (f : NPort → NPort) (s : State) : (updNport n f s).fab = s.fab := rfl
@[simp] theorem updNport_mem (n : Nat) (f : NPort → NPort) (s : State) : (updNport n f s).mem = s.mem := rfl
@[simp] theorem updNport_dram (n : Nat) (f : NPort → NPort) (s : State) : (updNport n f s).dram = s.dram := rfl
@[simp] theorem updNport_prt (n : Nat) (f : NPort → NPort) (s : State) : (updNport n f s).prt = s.prt := rfl
@[simp] theorem updNport_lnk (n : Nat) (f : NPort → NPort) (s : State) : (updNport n f s).lnk = s.lnk := rfl
@[simp] theorem updNport_dsp (n : Nat) (f : NPort → NPort) (s : State) : (updNport n f s).dsp = s.dsp := rfl
@[simp] theorem updNport_pins (n : Nat) (f : NPort → NPort) (s : State) : (updNport n f s).pins = s.pins := rfl
@[simp] theorem updNport_mbx (n : Nat) (f : NPort → NPort) (s : State) : (updNport n f s).mbx = s.mbx := rfl
@[simp] theorem updNport_evt (n : Nat) (f : NPort → NPort) (s : State) : (updNport n f s).evt = s.evt := rfl
@[simp] theorem updNport_sec (n : Nat) (f : NPort → NPort) (s : State) : (updNport n f s).sec = s.sec := rfl
@[simp] theorem updNport_tag (n : Nat) (f : NPort → NPort) (s : State) : (updNport n f s).tag = s.tag := rfl
@[simp] theorem updNport_free (n : Nat) (f : NPort → NPort) (s : State) : (updNport n f s).free = s.free := rfl
@[simp] theorem updNport_pending (n : Nat) (f : NPort → NPort) (s : State) : (updNport n f s).pending = s.pending := rfl
@[simp] theorem updDchan_dram_list (c : Nat) (f : Chan8 → Chan8) (s : State) :
    (updDchan c f s).dram.list = s.dram.list := rfl
@[simp] theorem updDchan_dram_k (c : Nat) (f : Chan8 → Chan8) (s : State) :
    (updDchan c f s).dram.k = s.dram.k := rfl
@[simp] theorem updDchan_dram_speeds (c : Nat) (f : Chan8 → Chan8) (s : State) :
    (updDchan c f s).dram.speeds = s.dram.speeds := rfl
@[simp] theorem updDchan_dram_ages (c : Nat) (f : Chan8 → Chan8) (s : State) :
    (updDchan c f s).dram.ages = s.dram.ages := rfl
@[simp] theorem updDchan_dram_lines (c : Nat) (f : Chan8 → Chan8) (s : State) :
    (updDchan c f s).dram.lines = s.dram.lines := rfl
@[simp] theorem updDchan_dram_fills (c : Nat) (f : Chan8 → Chan8) (s : State) :
    (updDchan c f s).dram.fills = s.dram.fills := rfl
@[simp] theorem updDchan_dram_jobs (c : Nat) (f : Chan8 → Chan8) (s : State) :
    (updDchan c f s).dram.jobs = s.dram.jobs := rfl
@[simp] theorem updDchan_dram_next (c : Nat) (f : Chan8 → Chan8) (s : State) :
    (updDchan c f s).dram.next = s.dram.next := rfl
@[simp] theorem updDchan_dram_queued (c : Nat) (f : Chan8 → Chan8) (s : State) :
    (updDchan c f s).dram.queued = s.dram.queued := rfl
@[simp] theorem updDchan_dram_switch (c : Nat) (f : Chan8 → Chan8) (s : State) :
    (updDchan c f s).dram.switch = s.dram.switch := rfl
@[simp] theorem updDchan_dram_dmaStopped (c : Nat) (f : Chan8 → Chan8) (s : State) :
    (updDchan c f s).dram.dmaStopped = s.dram.dmaStopped := rfl
@[simp] theorem updDchan_dram_dmaCmds (c : Nat) (f : Chan8 → Chan8) (s : State) :
    (updDchan c f s).dram.dmaCmds = s.dram.dmaCmds := rfl
@[simp] theorem updDchan_ext (c : Nat) (f : Chan8 → Chan8) (s : State) : (updDchan c f s).ext = s.ext := rfl
@[simp] theorem updDchan_start (c : Nat) (f : Chan8 → Chan8) (s : State) : (updDchan c f s).start = s.start := rfl
@[simp] theorem updDchan_align (c : Nat) (f : Chan8 → Chan8) (s : State) : (updDchan c f s).align = s.align := rfl
@[simp] theorem updDchan_clk (c : Nat) (f : Chan8 → Chan8) (s : State) : (updDchan c f s).clk = s.clk := rfl
@[simp] theorem updDchan_pwr (c : Nat) (f : Chan8 → Chan8) (s : State) : (updDchan c f s).pwr = s.pwr := rfl
@[simp] theorem updDchan_thm (c : Nat) (f : Chan8 → Chan8) (s : State) : (updDchan c f s).thm = s.thm := rfl
@[simp] theorem updDchan_load (c : Nat) (f : Chan8 → Chan8) (s : State) : (updDchan c f s).load = s.load := rfl
@[simp] theorem updDchan_scrub (c : Nat) (f : Chan8 → Chan8) (s : State) : (updDchan c f s).scrub = s.scrub := rfl
@[simp] theorem updDchan_ctx (c : Nat) (f : Chan8 → Chan8) (s : State) : (updDchan c f s).ctx = s.ctx := rfl
@[simp] theorem updDchan_fab (c : Nat) (f : Chan8 → Chan8) (s : State) : (updDchan c f s).fab = s.fab := rfl
@[simp] theorem updDchan_mem (c : Nat) (f : Chan8 → Chan8) (s : State) : (updDchan c f s).mem = s.mem := rfl
@[simp] theorem updDchan_noc (c : Nat) (f : Chan8 → Chan8) (s : State) : (updDchan c f s).noc = s.noc := rfl
@[simp] theorem updDchan_prt (c : Nat) (f : Chan8 → Chan8) (s : State) : (updDchan c f s).prt = s.prt := rfl
@[simp] theorem updDchan_lnk (c : Nat) (f : Chan8 → Chan8) (s : State) : (updDchan c f s).lnk = s.lnk := rfl
@[simp] theorem updDchan_dsp (c : Nat) (f : Chan8 → Chan8) (s : State) : (updDchan c f s).dsp = s.dsp := rfl
@[simp] theorem updDchan_pins (c : Nat) (f : Chan8 → Chan8) (s : State) : (updDchan c f s).pins = s.pins := rfl
@[simp] theorem updDchan_mbx (c : Nat) (f : Chan8 → Chan8) (s : State) : (updDchan c f s).mbx = s.mbx := rfl
@[simp] theorem updDchan_evt (c : Nat) (f : Chan8 → Chan8) (s : State) : (updDchan c f s).evt = s.evt := rfl
@[simp] theorem updDchan_sec (c : Nat) (f : Chan8 → Chan8) (s : State) : (updDchan c f s).sec = s.sec := rfl
@[simp] theorem updDchan_tag (c : Nat) (f : Chan8 → Chan8) (s : State) : (updDchan c f s).tag = s.tag := rfl
@[simp] theorem updDchan_free (c : Nat) (f : Chan8 → Chan8) (s : State) : (updDchan c f s).free = s.free := rfl
@[simp] theorem updDchan_pending (c : Nat) (f : Chan8 → Chan8) (s : State) : (updDchan c f s).pending = s.pending := rfl
@[simp] theorem updIr_prt_key (i : Nat) (f : IntRegion → IntRegion) (s : State) :
    (updIr i f s).prt.key = s.prt.key := rfl
@[simp] theorem updIr_prt_gen (i : Nat) (f : IntRegion → IntRegion) (s : State) :
    (updIr i f s).prt.gen = s.prt.gen := rfl
@[simp] theorem updIr_prt_capGib (i : Nat) (f : IntRegion → IntRegion) (s : State) :
    (updIr i f s).prt.capGib = s.prt.capGib := rfl
@[simp] theorem updIr_prt_carve (i : Nat) (f : IntRegion → IntRegion) (s : State) :
    (updIr i f s).prt.carve = s.prt.carve := rfl
@[simp] theorem updIr_prt_pages (i : Nat) (f : IntRegion → IntRegion) (s : State) :
    (updIr i f s).prt.pages = s.prt.pages := rfl
@[simp] theorem updIr_prt_mbPoison (i : Nat) (f : IntRegion → IntRegion) (s : State) :
    (updIr i f s).prt.mbPoison = s.prt.mbPoison := rfl
@[simp] theorem updIr_prt_poison (i : Nat) (f : IntRegion → IntRegion) (s : State) :
    (updIr i f s).prt.poison = s.prt.poison := rfl
@[simp] theorem updIr_prt_cache (i : Nat) (f : IntRegion → IntRegion) (s : State) :
    (updIr i f s).prt.cache = s.prt.cache := rfl
@[simp] theorem updIr_prt_ranges (i : Nat) (f : IntRegion → IntRegion) (s : State) :
    (updIr i f s).prt.ranges = s.prt.ranges := rfl
@[simp] theorem updIr_prt_priv (i : Nat) (f : IntRegion → IntRegion) (s : State) :
    (updIr i f s).prt.priv = s.prt.priv := rfl
@[simp] theorem updIr_ext (i : Nat) (f : IntRegion → IntRegion) (s : State) : (updIr i f s).ext = s.ext := rfl
@[simp] theorem updIr_start (i : Nat) (f : IntRegion → IntRegion) (s : State) : (updIr i f s).start = s.start := rfl
@[simp] theorem updIr_align (i : Nat) (f : IntRegion → IntRegion) (s : State) : (updIr i f s).align = s.align := rfl
@[simp] theorem updIr_clk (i : Nat) (f : IntRegion → IntRegion) (s : State) : (updIr i f s).clk = s.clk := rfl
@[simp] theorem updIr_pwr (i : Nat) (f : IntRegion → IntRegion) (s : State) : (updIr i f s).pwr = s.pwr := rfl
@[simp] theorem updIr_thm (i : Nat) (f : IntRegion → IntRegion) (s : State) : (updIr i f s).thm = s.thm := rfl
@[simp] theorem updIr_load (i : Nat) (f : IntRegion → IntRegion) (s : State) : (updIr i f s).load = s.load := rfl
@[simp] theorem updIr_scrub (i : Nat) (f : IntRegion → IntRegion) (s : State) : (updIr i f s).scrub = s.scrub := rfl
@[simp] theorem updIr_ctx (i : Nat) (f : IntRegion → IntRegion) (s : State) : (updIr i f s).ctx = s.ctx := rfl
@[simp] theorem updIr_fab (i : Nat) (f : IntRegion → IntRegion) (s : State) : (updIr i f s).fab = s.fab := rfl
@[simp] theorem updIr_mem (i : Nat) (f : IntRegion → IntRegion) (s : State) : (updIr i f s).mem = s.mem := rfl
@[simp] theorem updIr_noc (i : Nat) (f : IntRegion → IntRegion) (s : State) : (updIr i f s).noc = s.noc := rfl
@[simp] theorem updIr_dram (i : Nat) (f : IntRegion → IntRegion) (s : State) : (updIr i f s).dram = s.dram := rfl
@[simp] theorem updIr_lnk (i : Nat) (f : IntRegion → IntRegion) (s : State) : (updIr i f s).lnk = s.lnk := rfl
@[simp] theorem updIr_dsp (i : Nat) (f : IntRegion → IntRegion) (s : State) : (updIr i f s).dsp = s.dsp := rfl
@[simp] theorem updIr_pins (i : Nat) (f : IntRegion → IntRegion) (s : State) : (updIr i f s).pins = s.pins := rfl
@[simp] theorem updIr_mbx (i : Nat) (f : IntRegion → IntRegion) (s : State) : (updIr i f s).mbx = s.mbx := rfl
@[simp] theorem updIr_evt (i : Nat) (f : IntRegion → IntRegion) (s : State) : (updIr i f s).evt = s.evt := rfl
@[simp] theorem updIr_sec (i : Nat) (f : IntRegion → IntRegion) (s : State) : (updIr i f s).sec = s.sec := rfl
@[simp] theorem updIr_tag (i : Nat) (f : IntRegion → IntRegion) (s : State) : (updIr i f s).tag = s.tag := rfl
@[simp] theorem updIr_free (i : Nat) (f : IntRegion → IntRegion) (s : State) : (updIr i f s).free = s.free := rfl
@[simp] theorem updIr_pending (i : Nat) (f : IntRegion → IntRegion) (s : State) : (updIr i f s).pending = s.pending := rfl
@[simp] theorem updPort_lnk_member (n : Nat) (f : Port → Port) (s : State) :
    (updPort n f s).lnk.member = s.lnk.member := rfl
@[simp] theorem updPort_lnk_upstream (n : Nat) (f : Port → Port) (s : State) :
    (updPort n f s).lnk.upstream = s.lnk.upstream := rfl
@[simp] theorem updPort_lnk_refTaken (n : Nat) (f : Port → Port) (s : State) :
    (updPort n f s).lnk.refTaken = s.lnk.refTaken := rfl
@[simp] theorem updPort_lnk_refclk (n : Nat) (f : Port → Port) (s : State) :
    (updPort n f s).lnk.refclk = s.lnk.refclk := rfl
@[simp] theorem updPort_lnk_lossWait (n : Nat) (f : Port → Port) (s : State) :
    (updPort n f s).lnk.lossWait = s.lnk.lossWait := rfl
@[simp] theorem updPort_lnk_slip (n : Nat) (f : Port → Port) (s : State) :
    (updPort n f s).lnk.slip = s.lnk.slip := rfl
@[simp] theorem updPort_lnk_beaconAt (n : Nat) (f : Port → Port) (s : State) :
    (updPort n f s).lnk.beaconAt = s.lnk.beaconAt := rfl
@[simp] theorem updPort_lnk_routes (n : Nat) (f : Port → Port) (s : State) :
    (updPort n f s).lnk.routes = s.lnk.routes := rfl
@[simp] theorem updPort_lnk_cwins (n : Nat) (f : Port → Port) (s : State) :
    (updPort n f s).lnk.cwins = s.lnk.cwins := rfl
@[simp] theorem updPort_lnk_chans (n : Nat) (f : Port → Port) (s : State) :
    (updPort n f s).lnk.chans = s.lnk.chans := rfl
@[simp] theorem updPort_lnk_faces (n : Nat) (f : Port → Port) (s : State) :
    (updPort n f s).lnk.faces = s.lnk.faces := rfl
@[simp] theorem updPort_lnk_remote (n : Nat) (f : Port → Port) (s : State) :
    (updPort n f s).lnk.remote = s.lnk.remote := rfl
@[simp] theorem updPort_lnk_served (n : Nat) (f : Port → Port) (s : State) :
    (updPort n f s).lnk.served = s.lnk.served := rfl
@[simp] theorem updPort_ext (n : Nat) (f : Port → Port) (s : State) : (updPort n f s).ext = s.ext := rfl
@[simp] theorem updPort_start (n : Nat) (f : Port → Port) (s : State) : (updPort n f s).start = s.start := rfl
@[simp] theorem updPort_align (n : Nat) (f : Port → Port) (s : State) : (updPort n f s).align = s.align := rfl
@[simp] theorem updPort_clk (n : Nat) (f : Port → Port) (s : State) : (updPort n f s).clk = s.clk := rfl
@[simp] theorem updPort_pwr (n : Nat) (f : Port → Port) (s : State) : (updPort n f s).pwr = s.pwr := rfl
@[simp] theorem updPort_thm (n : Nat) (f : Port → Port) (s : State) : (updPort n f s).thm = s.thm := rfl
@[simp] theorem updPort_load (n : Nat) (f : Port → Port) (s : State) : (updPort n f s).load = s.load := rfl
@[simp] theorem updPort_scrub (n : Nat) (f : Port → Port) (s : State) : (updPort n f s).scrub = s.scrub := rfl
@[simp] theorem updPort_ctx (n : Nat) (f : Port → Port) (s : State) : (updPort n f s).ctx = s.ctx := rfl
@[simp] theorem updPort_fab (n : Nat) (f : Port → Port) (s : State) : (updPort n f s).fab = s.fab := rfl
@[simp] theorem updPort_mem (n : Nat) (f : Port → Port) (s : State) : (updPort n f s).mem = s.mem := rfl
@[simp] theorem updPort_noc (n : Nat) (f : Port → Port) (s : State) : (updPort n f s).noc = s.noc := rfl
@[simp] theorem updPort_dram (n : Nat) (f : Port → Port) (s : State) : (updPort n f s).dram = s.dram := rfl
@[simp] theorem updPort_prt (n : Nat) (f : Port → Port) (s : State) : (updPort n f s).prt = s.prt := rfl
@[simp] theorem updPort_dsp (n : Nat) (f : Port → Port) (s : State) : (updPort n f s).dsp = s.dsp := rfl
@[simp] theorem updPort_pins (n : Nat) (f : Port → Port) (s : State) : (updPort n f s).pins = s.pins := rfl
@[simp] theorem updPort_mbx (n : Nat) (f : Port → Port) (s : State) : (updPort n f s).mbx = s.mbx := rfl
@[simp] theorem updPort_evt (n : Nat) (f : Port → Port) (s : State) : (updPort n f s).evt = s.evt := rfl
@[simp] theorem updPort_sec (n : Nat) (f : Port → Port) (s : State) : (updPort n f s).sec = s.sec := rfl
@[simp] theorem updPort_tag (n : Nat) (f : Port → Port) (s : State) : (updPort n f s).tag = s.tag := rfl
@[simp] theorem updPort_free (n : Nat) (f : Port → Port) (s : State) : (updPort n f s).free = s.free := rfl
@[simp] theorem updPort_pending (n : Nat) (f : Port → Port) (s : State) : (updPort n f s).pending = s.pending := rfl
@[simp] theorem updPin_pins_banks (p : Nat) (f : Pin → Pin) (s : State) :
    (updPin p f s).pins.banks = s.pins.banks := rfl
@[simp] theorem updPin_pins_probe (p : Nat) (f : Pin → Pin) (s : State) :
    (updPin p f s).pins.probe = s.pins.probe := rfl
@[simp] theorem updPin_pins_polarity (p : Nat) (f : Pin → Pin) (s : State) :
    (updPin p f s).pins.polarity = s.pins.polarity := rfl
@[simp] theorem updPin_ext (p : Nat) (f : Pin → Pin) (s : State) : (updPin p f s).ext = s.ext := rfl
@[simp] theorem updPin_start (p : Nat) (f : Pin → Pin) (s : State) : (updPin p f s).start = s.start := rfl
@[simp] theorem updPin_align (p : Nat) (f : Pin → Pin) (s : State) : (updPin p f s).align = s.align := rfl
@[simp] theorem updPin_clk (p : Nat) (f : Pin → Pin) (s : State) : (updPin p f s).clk = s.clk := rfl
@[simp] theorem updPin_pwr (p : Nat) (f : Pin → Pin) (s : State) : (updPin p f s).pwr = s.pwr := rfl
@[simp] theorem updPin_thm (p : Nat) (f : Pin → Pin) (s : State) : (updPin p f s).thm = s.thm := rfl
@[simp] theorem updPin_load (p : Nat) (f : Pin → Pin) (s : State) : (updPin p f s).load = s.load := rfl
@[simp] theorem updPin_scrub (p : Nat) (f : Pin → Pin) (s : State) : (updPin p f s).scrub = s.scrub := rfl
@[simp] theorem updPin_ctx (p : Nat) (f : Pin → Pin) (s : State) : (updPin p f s).ctx = s.ctx := rfl
@[simp] theorem updPin_fab (p : Nat) (f : Pin → Pin) (s : State) : (updPin p f s).fab = s.fab := rfl
@[simp] theorem updPin_mem (p : Nat) (f : Pin → Pin) (s : State) : (updPin p f s).mem = s.mem := rfl
@[simp] theorem updPin_noc (p : Nat) (f : Pin → Pin) (s : State) : (updPin p f s).noc = s.noc := rfl
@[simp] theorem updPin_dram (p : Nat) (f : Pin → Pin) (s : State) : (updPin p f s).dram = s.dram := rfl
@[simp] theorem updPin_prt (p : Nat) (f : Pin → Pin) (s : State) : (updPin p f s).prt = s.prt := rfl
@[simp] theorem updPin_lnk (p : Nat) (f : Pin → Pin) (s : State) : (updPin p f s).lnk = s.lnk := rfl
@[simp] theorem updPin_dsp (p : Nat) (f : Pin → Pin) (s : State) : (updPin p f s).dsp = s.dsp := rfl
@[simp] theorem updPin_mbx (p : Nat) (f : Pin → Pin) (s : State) : (updPin p f s).mbx = s.mbx := rfl
@[simp] theorem updPin_evt (p : Nat) (f : Pin → Pin) (s : State) : (updPin p f s).evt = s.evt := rfl
@[simp] theorem updPin_sec (p : Nat) (f : Pin → Pin) (s : State) : (updPin p f s).sec = s.sec := rfl
@[simp] theorem updPin_tag (p : Nat) (f : Pin → Pin) (s : State) : (updPin p f s).tag = s.tag := rfl
@[simp] theorem updPin_free (p : Nat) (f : Pin → Pin) (s : State) : (updPin p f s).free = s.free := rfl
@[simp] theorem updPin_pending (p : Nat) (f : Pin → Pin) (s : State) : (updPin p f s).pending = s.pending := rfl
@[simp] theorem updBank_pins_pins (b : Nat) (f : Bank → Bank) (s : State) :
    (updBank b f s).pins.pins = s.pins.pins := rfl
@[simp] theorem updBank_pins_probe (b : Nat) (f : Bank → Bank) (s : State) :
    (updBank b f s).pins.probe = s.pins.probe := rfl
@[simp] theorem updBank_pins_polarity (b : Nat) (f : Bank → Bank) (s : State) :
    (updBank b f s).pins.polarity = s.pins.polarity := rfl
@[simp] theorem updBank_ext (b : Nat) (f : Bank → Bank) (s : State) : (updBank b f s).ext = s.ext := rfl
@[simp] theorem updBank_start (b : Nat) (f : Bank → Bank) (s : State) : (updBank b f s).start = s.start := rfl
@[simp] theorem updBank_align (b : Nat) (f : Bank → Bank) (s : State) : (updBank b f s).align = s.align := rfl
@[simp] theorem updBank_clk (b : Nat) (f : Bank → Bank) (s : State) : (updBank b f s).clk = s.clk := rfl
@[simp] theorem updBank_pwr (b : Nat) (f : Bank → Bank) (s : State) : (updBank b f s).pwr = s.pwr := rfl
@[simp] theorem updBank_thm (b : Nat) (f : Bank → Bank) (s : State) : (updBank b f s).thm = s.thm := rfl
@[simp] theorem updBank_load (b : Nat) (f : Bank → Bank) (s : State) : (updBank b f s).load = s.load := rfl
@[simp] theorem updBank_scrub (b : Nat) (f : Bank → Bank) (s : State) : (updBank b f s).scrub = s.scrub := rfl
@[simp] theorem updBank_ctx (b : Nat) (f : Bank → Bank) (s : State) : (updBank b f s).ctx = s.ctx := rfl
@[simp] theorem updBank_fab (b : Nat) (f : Bank → Bank) (s : State) : (updBank b f s).fab = s.fab := rfl
@[simp] theorem updBank_mem (b : Nat) (f : Bank → Bank) (s : State) : (updBank b f s).mem = s.mem := rfl
@[simp] theorem updBank_noc (b : Nat) (f : Bank → Bank) (s : State) : (updBank b f s).noc = s.noc := rfl
@[simp] theorem updBank_dram (b : Nat) (f : Bank → Bank) (s : State) : (updBank b f s).dram = s.dram := rfl
@[simp] theorem updBank_prt (b : Nat) (f : Bank → Bank) (s : State) : (updBank b f s).prt = s.prt := rfl
@[simp] theorem updBank_lnk (b : Nat) (f : Bank → Bank) (s : State) : (updBank b f s).lnk = s.lnk := rfl
@[simp] theorem updBank_dsp (b : Nat) (f : Bank → Bank) (s : State) : (updBank b f s).dsp = s.dsp := rfl
@[simp] theorem updBank_mbx (b : Nat) (f : Bank → Bank) (s : State) : (updBank b f s).mbx = s.mbx := rfl
@[simp] theorem updBank_evt (b : Nat) (f : Bank → Bank) (s : State) : (updBank b f s).evt = s.evt := rfl
@[simp] theorem updBank_sec (b : Nat) (f : Bank → Bank) (s : State) : (updBank b f s).sec = s.sec := rfl
@[simp] theorem updBank_tag (b : Nat) (f : Bank → Bank) (s : State) : (updBank b f s).tag = s.tag := rfl
@[simp] theorem updBank_free (b : Nat) (f : Bank → Bank) (s : State) : (updBank b f s).free = s.free := rfl
@[simp] theorem updBank_pending (b : Nat) (f : Bank → Bank) (s : State) : (updBank b f s).pending = s.pending := rfl
@[simp] theorem updChan_mbx_barista (c : Nat) (f : Chan → Chan) (s : State) :
    (updChan c f s).mbx.barista = s.mbx.barista := rfl
@[simp] theorem updChan_mbx_groupMask (c : Nat) (f : Chan → Chan) (s : State) :
    (updChan c f s).mbx.groupMask = s.mbx.groupMask := rfl
@[simp] theorem updChan_mbx_order (c : Nat) (f : Chan → Chan) (s : State) :
    (updChan c f s).mbx.order = s.mbx.order := rfl
@[simp] theorem updChan_mbx_pend (c : Nat) (f : Chan → Chan) (s : State) :
    (updChan c f s).mbx.pend = s.mbx.pend := rfl
@[simp] theorem updChan_mbx_fwd (c : Nat) (f : Chan → Chan) (s : State) :
    (updChan c f s).mbx.fwd = s.mbx.fwd := rfl
@[simp] theorem updChan_mbx_fwdMs (c : Nat) (f : Chan → Chan) (s : State) :
    (updChan c f s).mbx.fwdMs = s.mbx.fwdMs := rfl
@[simp] theorem updChan_mbx_routeHandle (c : Nat) (f : Chan → Chan) (s : State) :
    (updChan c f s).mbx.routeHandle = s.mbx.routeHandle := rfl
@[simp] theorem updChan_mbx_routeMin (c : Nat) (f : Chan → Chan) (s : State) :
    (updChan c f s).mbx.routeMin = s.mbx.routeMin := rfl
@[simp] theorem updChan_mbx_mgmtOut (c : Nat) (f : Chan → Chan) (s : State) :
    (updChan c f s).mbx.mgmtOut = s.mbx.mgmtOut := rfl
@[simp] theorem updChan_mbx_smbPtr (c : Nat) (f : Chan → Chan) (s : State) :
    (updChan c f s).mbx.smbPtr = s.mbx.smbPtr := rfl
@[simp] theorem updChan_mbx_smbAddr (c : Nat) (f : Chan → Chan) (s : State) :
    (updChan c f s).mbx.smbAddr = s.mbx.smbAddr := rfl
@[simp] theorem updChan_mbx_smbOut (c : Nat) (f : Chan → Chan) (s : State) :
    (updChan c f s).mbx.smbOut = s.mbx.smbOut := rfl
@[simp] theorem updChan_mbx_jtagMbx (c : Nat) (f : Chan → Chan) (s : State) :
    (updChan c f s).mbx.jtagMbx = s.mbx.jtagMbx := rfl
@[simp] theorem updChan_mbx_fw (c : Nat) (f : Chan → Chan) (s : State) :
    (updChan c f s).mbx.fw = s.mbx.fw := rfl
@[simp] theorem updChan_mbx_slotA (c : Nat) (f : Chan → Chan) (s : State) :
    (updChan c f s).mbx.slotA = s.mbx.slotA := rfl
@[simp] theorem updChan_mbx_slotB (c : Nat) (f : Chan → Chan) (s : State) :
    (updChan c f s).mbx.slotB = s.mbx.slotB := rfl
@[simp] theorem updChan_mbx_selected (c : Nat) (f : Chan → Chan) (s : State) :
    (updChan c f s).mbx.selected = s.mbx.selected := rfl
@[simp] theorem updChan_mbx_selTrial (c : Nat) (f : Chan → Chan) (s : State) :
    (updChan c f s).mbx.selTrial = s.mbx.selTrial := rfl
@[simp] theorem updChan_mbx_reload (c : Nat) (f : Chan → Chan) (s : State) :
    (updChan c f s).mbx.reload = s.mbx.reload := rfl
@[simp] theorem updChan_mbx_fallback (c : Nat) (f : Chan → Chan) (s : State) :
    (updChan c f s).mbx.fallback = s.mbx.fallback := rfl
@[simp] theorem updChan_mbx_restarts (c : Nat) (f : Chan → Chan) (s : State) :
    (updChan c f s).mbx.restarts = s.mbx.restarts := rfl
@[simp] theorem updChan_mbx_fwUpdate (c : Nat) (f : Chan → Chan) (s : State) :
    (updChan c f s).mbx.fwUpdate = s.mbx.fwUpdate := rfl
@[simp] theorem updChan_mbx_bondPadFails (c : Nat) (f : Chan → Chan) (s : State) :
    (updChan c f s).mbx.bondPadFails = s.mbx.bondPadFails := rfl
@[simp] theorem updChan_mbx_logRestarts (c : Nat) (f : Chan → Chan) (s : State) :
    (updChan c f s).mbx.logRestarts = s.mbx.logRestarts := rfl
@[simp] theorem updChan_mbx_hwLostTotal (c : Nat) (f : Chan → Chan) (s : State) :
    (updChan c f s).mbx.hwLostTotal = s.mbx.hwLostTotal := rfl
@[simp] theorem updChan_mbx_fwdTimeouts (c : Nat) (f : Chan → Chan) (s : State) :
    (updChan c f s).mbx.fwdTimeouts = s.mbx.fwdTimeouts := rfl
@[simp] theorem updChan_ext (c : Nat) (f : Chan → Chan) (s : State) : (updChan c f s).ext = s.ext := rfl
@[simp] theorem updChan_start (c : Nat) (f : Chan → Chan) (s : State) : (updChan c f s).start = s.start := rfl
@[simp] theorem updChan_align (c : Nat) (f : Chan → Chan) (s : State) : (updChan c f s).align = s.align := rfl
@[simp] theorem updChan_clk (c : Nat) (f : Chan → Chan) (s : State) : (updChan c f s).clk = s.clk := rfl
@[simp] theorem updChan_pwr (c : Nat) (f : Chan → Chan) (s : State) : (updChan c f s).pwr = s.pwr := rfl
@[simp] theorem updChan_thm (c : Nat) (f : Chan → Chan) (s : State) : (updChan c f s).thm = s.thm := rfl
@[simp] theorem updChan_load (c : Nat) (f : Chan → Chan) (s : State) : (updChan c f s).load = s.load := rfl
@[simp] theorem updChan_scrub (c : Nat) (f : Chan → Chan) (s : State) : (updChan c f s).scrub = s.scrub := rfl
@[simp] theorem updChan_ctx (c : Nat) (f : Chan → Chan) (s : State) : (updChan c f s).ctx = s.ctx := rfl
@[simp] theorem updChan_fab (c : Nat) (f : Chan → Chan) (s : State) : (updChan c f s).fab = s.fab := rfl
@[simp] theorem updChan_mem (c : Nat) (f : Chan → Chan) (s : State) : (updChan c f s).mem = s.mem := rfl
@[simp] theorem updChan_noc (c : Nat) (f : Chan → Chan) (s : State) : (updChan c f s).noc = s.noc := rfl
@[simp] theorem updChan_dram (c : Nat) (f : Chan → Chan) (s : State) : (updChan c f s).dram = s.dram := rfl
@[simp] theorem updChan_prt (c : Nat) (f : Chan → Chan) (s : State) : (updChan c f s).prt = s.prt := rfl
@[simp] theorem updChan_lnk (c : Nat) (f : Chan → Chan) (s : State) : (updChan c f s).lnk = s.lnk := rfl
@[simp] theorem updChan_dsp (c : Nat) (f : Chan → Chan) (s : State) : (updChan c f s).dsp = s.dsp := rfl
@[simp] theorem updChan_pins (c : Nat) (f : Chan → Chan) (s : State) : (updChan c f s).pins = s.pins := rfl
@[simp] theorem updChan_evt (c : Nat) (f : Chan → Chan) (s : State) : (updChan c f s).evt = s.evt := rfl
@[simp] theorem updChan_sec (c : Nat) (f : Chan → Chan) (s : State) : (updChan c f s).sec = s.sec := rfl
@[simp] theorem updChan_tag (c : Nat) (f : Chan → Chan) (s : State) : (updChan c f s).tag = s.tag := rfl
@[simp] theorem updChan_free (c : Nat) (f : Chan → Chan) (s : State) : (updChan c f s).free = s.free := rfl
@[simp] theorem updChan_pending (c : Nat) (f : Chan → Chan) (s : State) : (updChan c f s).pending = s.pending := rfl

end Sys2Proof.Machine
end

