-- ==== Sys2Proof/Laws/Tab.lean ====
section
/-! SUPPORT. Sparse tables: what a read gives after a write, at the same key and at another, and that every write keeps the
canonical form. -/

namespace Sys2Proof

variable {α : Type}

@[simp] theorem Tab.get_put_same (d : α) (t : Tab α) (k : Nat) (v : α) : Tab.get d (Tab.put t k v) k = v := by
  induction t with
  | nil => simp [Tab.put, Tab.get]
  | cons e t ih =>
    obtain ⟨k', v'⟩ := e
    unfold Tab.put
    split
    · simp [Tab.get]
    · split
      · simp [Tab.get]
      · rename_i h
        simp [Tab.get, h, ih]

theorem Tab.get_put_ne (d : α) (t : Tab α) {k k2 : Nat} (v : α) (h : k2 ≠ k) :
    Tab.get d (Tab.put t k v) k2 = Tab.get d t k2 := by
  induction t with
  | nil => simp [Tab.put, Tab.get, h]
  | cons e t ih =>
    obtain ⟨k', v'⟩ := e
    unfold Tab.put
    split
    · simp [Tab.get, h]
    · split
      · rename_i h2
        subst h2
        simp [Tab.get, h]
      · simp only [Tab.get, ih]

@[simp] theorem Tab.get_del_same (d : α) (t : Tab α) (k : Nat) : Tab.get d (Tab.del t k) k = d := by
  induction t with
  | nil => rfl
  | cons e t ih =>
    obtain ⟨k', v'⟩ := e
    unfold Tab.del
    split
    · exact ih
    · rename_i h
      simp [Tab.get, h, ih]

theorem Tab.get_del_ne (d : α) (t : Tab α) {k k2 : Nat} (h : k2 ≠ k) : Tab.get d (Tab.del t k) k2 = Tab.get d t k2 := by
  induction t with
  | nil => rfl
  | cons e t ih =>
    obtain ⟨k', v'⟩ := e
    unfold Tab.del
    split
    · rename_i h2
      subst h2
      simp [Tab.get, h, ih]
    · simp only [Tab.get, ih]

theorem Tab.above_del {j k : Nat} {t : Tab α} (h : Tab.above j t = true) : Tab.above j (Tab.del t k) = true := by
  induction t with
  | nil => rfl
  | cons e t ih =>
    obtain ⟨k', v'⟩ := e
    simp only [Tab.above, Bool.and_eq_true] at h
    unfold Tab.del
    split
    · exact ih h.2
    · simp only [Tab.above, Bool.and_eq_true]
      exact ⟨h.1, ih h.2⟩

theorem Tab.above_put {j k : Nat} {t : Tab α} {v : α} (hj : j < k) (h : Tab.above j t = true) :
    Tab.above j (Tab.put t k v) = true := by
  induction t with
  | nil => simp [Tab.put, Tab.above, hj]
  | cons e t ih =>
    obtain ⟨k', v'⟩ := e
    simp only [Tab.above, Bool.and_eq_true] at h
    unfold Tab.put
    split
    · simp only [Tab.above, Bool.and_eq_true, decide_eq_true_eq]
      exact ⟨hj, by simpa using h.1, h.2⟩
    · split
      · simp [Tab.above, hj, h.2]
      · simp only [Tab.above, Bool.and_eq_true]
        exact ⟨h.1, ih h.2⟩

theorem Tab.above_mono {j k : Nat} {t : Tab α} (hj : j < k) (h : Tab.above k t = true) : Tab.above j t = true := by
  induction t with
  | nil => rfl
  | cons e t ih =>
    obtain ⟨k', v'⟩ := e
    simp only [Tab.above, Bool.and_eq_true, decide_eq_true_eq] at h ⊢
    exact ⟨by omega, ih h.2⟩

variable [DecidableEq α]

/-- A read of the key written gives the value written. -/
@[simp] theorem Tab.get_set_same (d : α) (t : Tab α) (k : Nat) (v : α) : Tab.get d (Tab.set d t k v) k = v := by
  unfold Tab.set
  split
  · rename_i h
    rw [Tab.get_del_same, h]
  · exact Tab.get_put_same ..

/-- A write leaves every other key as it is. -/
theorem Tab.get_set_ne (d : α) (t : Tab α) {k k2 : Nat} (v : α) (h : k2 ≠ k) :
    Tab.get d (Tab.set d t k v) k2 = Tab.get d t k2 := by
  unfold Tab.set
  split
  · exact Tab.get_del_ne d t h
  · exact Tab.get_put_ne d t v h

@[simp] theorem Tab.get_upd_same (d : α) (t : Tab α) (k : Nat) (f : α → α) :
    Tab.get d (Tab.upd d t k f) k = f (Tab.get d t k) :=
  Tab.get_set_same ..

theorem Tab.get_upd_ne (d : α) (t : Tab α) {k k2 : Nat} (f : α → α) (h : k2 ≠ k) :
    Tab.get d (Tab.upd d t k f) k2 = Tab.get d t k2 :=
  Tab.get_set_ne d t _ h

theorem Tab.wf_del {d : α} {t : Tab α} (h : Tab.wf d t = true) (k : Nat) : Tab.wf d (Tab.del t k) = true := by
  induction t with
  | nil => rfl
  | cons e t ih =>
    obtain ⟨k', v'⟩ := e
    simp only [Tab.wf, Bool.and_eq_true] at h
    unfold Tab.del
    split
    · exact ih h.2
    · simp only [Tab.wf, Bool.and_eq_true]
      exact ⟨⟨h.1.1, Tab.above_del h.1.2⟩, ih h.2⟩

theorem Tab.wf_put {d : α} {t : Tab α} (h : Tab.wf d t = true) (k : Nat) {v : α} (hv : v ≠ d) :
    Tab.wf d (Tab.put t k v) = true := by
  induction t with
  | nil => simp [Tab.put, Tab.wf, Tab.above, hv]
  | cons e t ih =>
    obtain ⟨k', v'⟩ := e
    simp only [Tab.wf, Bool.and_eq_true, decide_eq_true_eq] at h
    unfold Tab.put
    split
    · rename_i hk
      simp only [Tab.wf, Tab.above, Bool.and_eq_true, decide_eq_true_eq]
      exact ⟨⟨hv, hk, Tab.above_mono hk h.1.2⟩, ⟨h.1.1, h.1.2⟩, h.2⟩
    · split
      · rename_i hk
        subst hk
        simp only [Tab.wf, Bool.and_eq_true, decide_eq_true_eq]
        exact ⟨⟨hv, h.1.2⟩, h.2⟩
      · simp only [Tab.wf, Bool.and_eq_true, decide_eq_true_eq]
        exact ⟨⟨h.1.1, Tab.above_put (by omega) h.1.2⟩, ih h.2⟩

/-- A write keeps the canonical form. -/
theorem Tab.wf_set {d : α} {t : Tab α} (h : Tab.wf d t = true) (k : Nat) (v : α) : Tab.wf d (Tab.set d t k v) = true := by
  unfold Tab.set
  split
  · exact Tab.wf_del h k
  · rename_i hv
    exact Tab.wf_put h k hv

theorem Tab.wf_upd {d : α} {t : Tab α} (h : Tab.wf d t = true) (k : Nat) (f : α → α) :
    Tab.wf d (Tab.upd d t k f) = true :=
  Tab.wf_set h k _

omit [DecidableEq α] in
theorem Tab.above_filter {j : Nat} {t : Tab α} (p : Nat × α → Bool) (h : Tab.above j t = true) : Tab.above j (t.filter p) = true := by
  induction t with
  | nil => rfl
  | cons e t ih =>
    obtain ⟨k, v⟩ := e
    simp only [Tab.above, Bool.and_eq_true, decide_eq_true_eq] at h
    rw [List.filter_cons]
    split
    · simp only [Tab.above, Bool.and_eq_true, decide_eq_true_eq]
      exact ⟨h.1, ih h.2⟩
    · exact ih h.2

/-- What remains of a canonical table is canonical. -/
theorem Tab.wf_filter {d : α} {t : Tab α} (h : Tab.wf d t = true) (p : Nat × α → Bool) : Tab.wf d (t.filter p) = true := by
  induction t with
  | nil => rfl
  | cons e t ih =>
    obtain ⟨k, v⟩ := e
    simp only [Tab.wf, Bool.and_eq_true] at h
    rw [List.filter_cons]
    split
    · simp only [Tab.wf, Bool.and_eq_true]
      exact ⟨⟨h.1.1, Tab.above_filter p h.1.2⟩, ih h.2⟩
    · exact ih h.2

/-- A run of writes keeps the canonical form. -/
theorem Tab.wf_foldl_set {β : Type} {d : α} {t : Tab α} (h : Tab.wf d t = true) (l : List β) (k : β → Nat) (v : β → α) :
    Tab.wf d (l.foldl (fun t b => Tab.set d t (k b) (v b)) t) = true := by
  induction l generalizing t with
  | nil => exact h
  | cons b l ih => exact ih (Tab.wf_set h (k b) (v b))


/-- Updates of different keys, each by its own function. -/
theorem Tab.get_foldl_upd (d : α) (f : Nat → α → α) (k : Nat) :
    ∀ (l : List Nat) (t : Tab α), l.Nodup →
      Tab.get d (l.foldl (fun t i => Tab.upd d t i (f i)) t) k =
        if k ∈ l then f k (Tab.get d t k) else Tab.get d t k
  | [], t, _ => by simp
  | i :: l, t, hn => by
    obtain ⟨hi, hl⟩ := List.nodup_cons.mp hn
    rw [List.foldl_cons, Tab.get_foldl_upd d f k l _ hl]
    by_cases hk : k = i
    · subst hk
      simp [hi]
    · rw [Tab.get_upd_ne _ _ _ hk]
      simp [hk]

end Sys2Proof
end

