-- ==== Sys2Proof/Laws/Frame.lean ====
section
/-! SUPPORT. Frames compose: the laws by which the frame of a meaning follows from those of the operations it uses. -/

set_option Elab.async false

namespace Sys2Proof.Machine

/-- w holds no part outside W. -/
def Part.sub (w W : List Part) : Bool := w.all W.contains

theorem Frame.refl (W : List Part) (s : State) : Frame W s s :=
  ⟨fun p _ => by cases p <;> first | rfl | exact id | exact fun _ _ => rfl⟩

theorem Frame.after {w W : List Part} {s x y : State} (h : Frame w x y) (h0 : Frame W s x)
    (hw : Part.sub w W = true := by decide) : Frame W s y := by
  constructor
  intro p hp
  have hn : w.contains p = false := by
    cases hc : w.contains p with
    | false => rfl
    | true =>
      have := List.all_eq_true.mp hw p (by simpa using hc)
      simp_all
  have a := h.same p hn
  have b := h0.same p hp
  cases p <;> first | exact Eq.trans a b | exact fun h => a (b h) | exact fun i h => (a i (by rw [b i h]; exact h)).trans (b i h)

theorem Frame.trans {W : List Part} {s x y : State} (h : Frame W x y) (h0 : Frame W s x) : Frame W s y :=
  h.after h0 (List.all_eq_true.mpr fun p hp => by simpa using hp)

theorem Frame.foldl {α : Type} {W : List Part} {f : State → α → State} (hf : ∀ x k, Frame W x (f x k)) (l : List α)
    {s x : State} (h : Frame W s x) : Frame W s (l.foldl f x) := by
  induction l generalizing x with
  | nil => exact h
  | cons k ks ih => exact ih ((hf x k).after h (List.all_eq_true.mpr fun p hp => by simpa using hp))

theorem Frame.forEach {W : List Part} {f : Nat → State → State} (hf : ∀ x k, Frame W x (f k x)) (l : List Nat)
    {s x : State} (h : Frame W s x) : Frame W s (forEach l f x) :=
  Frame.foldl hf l h

theorem wf_putBytes {t : Tab Byte} (h : Tab.wf 0 t = true) (k : Nat) (l : List Byte) : Tab.wf 0 (putBytes t k l) = true := by
  induction l generalizing t k with
  | nil => exact h
  | cons b l ih => exact ih (Tab.wf_set h k b) (k + 1)

-- UPD
/-- Replaces align. -/
def setAlign (x : State) (align : Align) : State := { x with align := align }

theorem setAlign_eq (x : State) (align : Align) :
    State.mk x.ext x.start align x.clk x.pwr x.thm x.load x.scrub x.ctx x.fab x.mem x.noc x.dram x.prt x.lnk x.dsp x.pins x.mbx x.evt x.sec x.tag x.free x.pending = setAlign x align := rfl

theorem setAlign_frame (x : State) (align : Align) : Frame [.align] x (setAlign x align) := by
  constructor; intro p h; cases p <;> first | rfl | exact fun m => ⟨m.1, m.2.1, m.2.2.1, m.2.2.2⟩ | exact fun _ _ => rfl | exact id | cases h

/-- Replaces clk. -/
def setClk (x : State) (clk : Clk) : State := { x with clk := clk }

theorem setClk_eq (x : State) (clk : Clk) :
    State.mk x.ext x.start x.align clk x.pwr x.thm x.load x.scrub x.ctx x.fab x.mem x.noc x.dram x.prt x.lnk x.dsp x.pins x.mbx x.evt x.sec x.tag x.free x.pending = setClk x clk := rfl

theorem setClk_frame (x : State) (clk : Clk) : Frame [.clk] x (setClk x clk) := by
  constructor; intro p h; cases p <;> first | rfl | exact fun m => ⟨m.1, m.2.1, m.2.2.1, m.2.2.2⟩ | exact fun _ _ => rfl | exact id | cases h

/-- Replaces ctx. -/
def setCtx (x : State) (ctx : Ctx) : State := { x with ctx := ctx }

theorem setCtx_eq (x : State) (ctx : Ctx) :
    State.mk x.ext x.start x.align x.clk x.pwr x.thm x.load x.scrub ctx x.fab x.mem x.noc x.dram x.prt x.lnk x.dsp x.pins x.mbx x.evt x.sec x.tag x.free x.pending = setCtx x ctx := rfl

theorem setCtx_frame (x : State) (ctx : Ctx) : Frame [.ctx] x (setCtx x ctx) := by
  constructor; intro p h; cases p <;> first | rfl | exact fun m => ⟨m.1, m.2.1, m.2.2.1, m.2.2.2⟩ | exact fun _ _ => rfl | exact id | cases h

/-- Replaces dram. -/
def setDram (x : State) (dram : Dram) : State := { x with dram := dram }

theorem setDram_eq (x : State) (dram : Dram) :
    State.mk x.ext x.start x.align x.clk x.pwr x.thm x.load x.scrub x.ctx x.fab x.mem x.noc dram x.prt x.lnk x.dsp x.pins x.mbx x.evt x.sec x.tag x.free x.pending = setDram x dram := rfl

theorem setDram_frame (x : State) (dram : Dram)
    (hd : Tab.wf none x.dram.lines = true → Tab.wf none dram.lines = true := by first | with_unfolding_all exact id | with_unfolding_all exact fun _ => rfl | exact id | exact fun _ => rfl | exact fun h => wf_putBytes h _ _ | exact fun h => Tab.wf_foldl_set h _ _ _ | exact fun h => Tab.wf_filter h _ | exact fun h => Tab.wf_set h _ _) : Frame [.dram] x (setDram x dram) := by
  constructor; intro p h; cases p <;> first | rfl | exact fun m => ⟨m.1, m.2.1, m.2.2.1, hd m.2.2.2⟩ | exact fun _ _ => rfl | exact id | cases h

/-- Replaces dsp. -/
def setDsp (x : State) (dsp : Dsp) : State := { x with dsp := dsp }

theorem setDsp_eq (x : State) (dsp : Dsp) :
    State.mk x.ext x.start x.align x.clk x.pwr x.thm x.load x.scrub x.ctx x.fab x.mem x.noc x.dram x.prt x.lnk dsp x.pins x.mbx x.evt x.sec x.tag x.free x.pending = setDsp x dsp := rfl

theorem setDsp_frame (x : State) (dsp : Dsp) : Frame [.dsp] x (setDsp x dsp) := by
  constructor; intro p h; cases p <;> first | rfl | exact fun m => ⟨m.1, m.2.1, m.2.2.1, m.2.2.2⟩ | exact fun _ _ => rfl | exact id | cases h

/-- Replaces evt. -/
def setEvt (x : State) (evt : Evt) : State := { x with evt := evt }

theorem setEvt_eq (x : State) (evt : Evt) :
    State.mk x.ext x.start x.align x.clk x.pwr x.thm x.load x.scrub x.ctx x.fab x.mem x.noc x.dram x.prt x.lnk x.dsp x.pins x.mbx evt x.sec x.tag x.free x.pending = setEvt x evt := rfl

theorem setEvt_frame (x : State) (evt : Evt) : Frame [.evt] x (setEvt x evt) := by
  constructor; intro p h; cases p <;> first | rfl | exact fun m => ⟨m.1, m.2.1, m.2.2.1, m.2.2.2⟩ | exact fun _ _ => rfl | exact id | cases h

/-- Replaces ext. -/
def setExt (x : State) (ext : Ext) : State := { x with ext := ext }

theorem setExt_eq (x : State) (ext : Ext) :
    State.mk ext x.start x.align x.clk x.pwr x.thm x.load x.scrub x.ctx x.fab x.mem x.noc x.dram x.prt x.lnk x.dsp x.pins x.mbx x.evt x.sec x.tag x.free x.pending = setExt x ext := rfl

theorem setExt_frame (x : State) (ext : Ext) : Frame [.ext] x (setExt x ext) := by
  constructor; intro p h; cases p <;> first | rfl | exact fun m => ⟨m.1, m.2.1, m.2.2.1, m.2.2.2⟩ | exact fun _ _ => rfl | exact id | cases h

/-- Replaces fab. -/
def setFab (x : State) (fab : Fab) : State := { x with fab := fab }

theorem setFab_eq (x : State) (fab : Fab) :
    State.mk x.ext x.start x.align x.clk x.pwr x.thm x.load x.scrub x.ctx fab x.mem x.noc x.dram x.prt x.lnk x.dsp x.pins x.mbx x.evt x.sec x.tag x.free x.pending = setFab x fab := rfl

theorem setFab_frame (x : State) (fab : Fab) : Frame [.fab] x (setFab x fab) := by
  constructor; intro p h; cases p <;> first | rfl | exact fun m => ⟨m.1, m.2.1, m.2.2.1, m.2.2.2⟩ | exact fun _ _ => rfl | exact id | cases h

/-- Replaces free. -/
def setFree (x : State) (free : Nat) : State := { x with free := free }

theorem setFree_eq (x : State) (free : Nat) :
    State.mk x.ext x.start x.align x.clk x.pwr x.thm x.load x.scrub x.ctx x.fab x.mem x.noc x.dram x.prt x.lnk x.dsp x.pins x.mbx x.evt x.sec x.tag free x.pending = setFree x free := rfl

theorem setFree_frame (x : State) (free : Nat) : Frame [.free] x (setFree x free) := by
  constructor; intro p h; cases p <;> first | rfl | exact fun m => ⟨m.1, m.2.1, m.2.2.1, m.2.2.2⟩ | exact fun _ _ => rfl | exact id | cases h

/-- Replaces lnk. -/
def setLnk (x : State) (lnk : Lnk) : State := { x with lnk := lnk }

theorem setLnk_eq (x : State) (lnk : Lnk) :
    State.mk x.ext x.start x.align x.clk x.pwr x.thm x.load x.scrub x.ctx x.fab x.mem x.noc x.dram x.prt lnk x.dsp x.pins x.mbx x.evt x.sec x.tag x.free x.pending = setLnk x lnk := rfl

theorem setLnk_frame (x : State) (lnk : Lnk) : Frame [.lnk] x (setLnk x lnk) := by
  constructor; intro p h; cases p <;> first | rfl | exact fun m => ⟨m.1, m.2.1, m.2.2.1, m.2.2.2⟩ | exact fun _ _ => rfl | exact id | cases h

/-- Replaces load. -/
def setLoad (x : State) (load : Load) : State := { x with load := load }

theorem setLoad_eq (x : State) (load : Load) :
    State.mk x.ext x.start x.align x.clk x.pwr x.thm load x.scrub x.ctx x.fab x.mem x.noc x.dram x.prt x.lnk x.dsp x.pins x.mbx x.evt x.sec x.tag x.free x.pending = setLoad x load := rfl

theorem setLoad_frame (x : State) (load : Load)
    (hw : Tab.wf 0 x.load.ws = true → Tab.wf 0 load.ws = true := by first | with_unfolding_all exact id | with_unfolding_all exact fun _ => rfl | exact id | exact fun _ => rfl | exact fun h => wf_putBytes h _ _ | exact fun h => Tab.wf_foldl_set h _ _ _ | exact fun h => Tab.wf_filter h _ | exact fun h => Tab.wf_set h _ _) : Frame [.load] x (setLoad x load) := by
  constructor; intro p h; cases p <;> first | rfl | exact fun m => ⟨hw m.1, m.2.1, m.2.2.1, m.2.2.2⟩ | exact fun _ _ => rfl | exact id | cases h

/-- Replaces mbx. -/
def setMbx (x : State) (mbx : Mbx) : State := { x with mbx := mbx }

theorem setMbx_eq (x : State) (mbx : Mbx) :
    State.mk x.ext x.start x.align x.clk x.pwr x.thm x.load x.scrub x.ctx x.fab x.mem x.noc x.dram x.prt x.lnk x.dsp x.pins mbx x.evt x.sec x.tag x.free x.pending = setMbx x mbx := rfl

theorem setMbx_frame (x : State) (mbx : Mbx) (hc : mbx.chans = x.mbx.chans := by rfl) (hb : mbx.barista = x.mbx.barista := by rfl) : Frame [.mbx] x (setMbx x mbx) := by
  constructor; intro p h; cases p <;> first | rfl | exact fun m => ⟨m.1, m.2.1, m.2.2.1, m.2.2.2⟩ | exact fun _ _ => rfl | exact hc | exact hb | exact id | cases h

/-- Replaces mem. -/
def setMem (x : State) (mem : Mem) : State := { x with mem := mem }

theorem setMem_eq (x : State) (mem : Mem) :
    State.mk x.ext x.start x.align x.clk x.pwr x.thm x.load x.scrub x.ctx x.fab mem x.noc x.dram x.prt x.lnk x.dsp x.pins x.mbx x.evt x.sec x.tag x.free x.pending = setMem x mem := rfl

theorem setMem_frame (x : State) (mem : Mem) : Frame [.mem] x (setMem x mem) := by
  constructor; intro p h; cases p <;> first | rfl | exact fun m => ⟨m.1, m.2.1, m.2.2.1, m.2.2.2⟩ | exact fun _ _ => rfl | exact id | cases h

/-- Replaces noc. -/
def setNoc (x : State) (noc : Noc) : State := { x with noc := noc }

theorem setNoc_eq (x : State) (noc : Noc) :
    State.mk x.ext x.start x.align x.clk x.pwr x.thm x.load x.scrub x.ctx x.fab x.mem noc x.dram x.prt x.lnk x.dsp x.pins x.mbx x.evt x.sec x.tag x.free x.pending = setNoc x noc := rfl

theorem setNoc_frame (x : State) (noc : Noc) : Frame [.noc] x (setNoc x noc) := by
  constructor; intro p h; cases p <;> first | rfl | exact fun m => ⟨m.1, m.2.1, m.2.2.1, m.2.2.2⟩ | exact fun _ _ => rfl | exact id | cases h

/-- Replaces pins. -/
def setPins (x : State) (pins : Pins) : State := { x with pins := pins }

theorem setPins_eq (x : State) (pins : Pins) :
    State.mk x.ext x.start x.align x.clk x.pwr x.thm x.load x.scrub x.ctx x.fab x.mem x.noc x.dram x.prt x.lnk x.dsp pins x.mbx x.evt x.sec x.tag x.free x.pending = setPins x pins := rfl

theorem setPins_frame (x : State) (pins : Pins) : Frame [.pins] x (setPins x pins) := by
  constructor; intro p h; cases p <;> first | rfl | exact fun m => ⟨m.1, m.2.1, m.2.2.1, m.2.2.2⟩ | exact fun _ _ => rfl | exact id | cases h

/-- Replaces prt. -/
def setPrt (x : State) (prt : Prt) : State := { x with prt := prt }

theorem setPrt_eq (x : State) (prt : Prt) :
    State.mk x.ext x.start x.align x.clk x.pwr x.thm x.load x.scrub x.ctx x.fab x.mem x.noc x.dram prt x.lnk x.dsp x.pins x.mbx x.evt x.sec x.tag x.free x.pending = setPrt x prt := rfl

theorem setPrt_frame (x : State) (prt : Prt)
    (hk : prt.ranges = x.prt.ranges := by rfl) : Frame [.prt] x (setPrt x prt) := by
  constructor; intro p h; cases p <;> first | rfl | exact fun m => ⟨m.1, m.2.1, m.2.2.1, m.2.2.2⟩ | exact fun i _ => congrArg (fun r => Tab.get {} r i) hk | exact id | cases h

/-- Replaces pwr. -/
def setPwr (x : State) (pwr : Pwr) : State := { x with pwr := pwr }

theorem setPwr_eq (x : State) (pwr : Pwr) :
    State.mk x.ext x.start x.align x.clk pwr x.thm x.load x.scrub x.ctx x.fab x.mem x.noc x.dram x.prt x.lnk x.dsp x.pins x.mbx x.evt x.sec x.tag x.free x.pending = setPwr x pwr := rfl

theorem setPwr_frame (x : State) (pwr : Pwr) : Frame [.pwr] x (setPwr x pwr) := by
  constructor; intro p h; cases p <;> first | rfl | exact fun m => ⟨m.1, m.2.1, m.2.2.1, m.2.2.2⟩ | exact fun _ _ => rfl | exact id | cases h

/-- Replaces scrub. -/
def setScrub (x : State) (scrub : Scrub) : State := { x with scrub := scrub }

theorem setScrub_eq (x : State) (scrub : Scrub) :
    State.mk x.ext x.start x.align x.clk x.pwr x.thm x.load scrub x.ctx x.fab x.mem x.noc x.dram x.prt x.lnk x.dsp x.pins x.mbx x.evt x.sec x.tag x.free x.pending = setScrub x scrub := rfl

theorem setScrub_frame (x : State) (scrub : Scrub) : Frame [.scrub] x (setScrub x scrub) := by
  constructor; intro p h; cases p <;> first | rfl | exact fun m => ⟨m.1, m.2.1, m.2.2.1, m.2.2.2⟩ | exact fun _ _ => rfl | exact id | cases h

/-- Replaces sec. -/
def setSec (x : State) (sec : Sec) : State := { x with sec := sec }

theorem setSec_eq (x : State) (sec : Sec) :
    State.mk x.ext x.start x.align x.clk x.pwr x.thm x.load x.scrub x.ctx x.fab x.mem x.noc x.dram x.prt x.lnk x.dsp x.pins x.mbx x.evt sec x.tag x.free x.pending = setSec x sec := rfl

theorem setSec_frame (x : State) (sec : Sec)
    (hv : Tab.wf 0 x.sec.vault = true → Tab.wf 0 sec.vault = true := by first | with_unfolding_all exact id | with_unfolding_all exact fun _ => rfl | exact id | exact fun _ => rfl | exact fun h => wf_putBytes h _ _) (hl : sec.life = x.sec.life := by rfl) (hp : sec.pending = x.sec.pending := by rfl) : Frame [.sec] x (setSec x sec) := by
  constructor; intro p h; cases p <;> first | rfl | exact fun m => ⟨m.1, hv m.2.1, m.2.2.1, m.2.2.2⟩ | exact fun _ _ => rfl | exact fun q org o n h => ⟨(q org o n (hp.symm.trans h)).1.trans hl.symm, (q org o n (hp.symm.trans h)).2⟩ | exact hl | exact hp | cases h

/-- Replaces start. -/
def setStart (x : State) (start : Start) : State := { x with start := start }

theorem setStart_eq (x : State) (start : Start) :
    State.mk x.ext start x.align x.clk x.pwr x.thm x.load x.scrub x.ctx x.fab x.mem x.noc x.dram x.prt x.lnk x.dsp x.pins x.mbx x.evt x.sec x.tag x.free x.pending = setStart x start := rfl

theorem setStart_frame (x : State) (start : Start) : Frame [.start] x (setStart x start) := by
  constructor; intro p h; cases p <;> first | rfl | exact fun m => ⟨m.1, m.2.1, m.2.2.1, m.2.2.2⟩ | exact fun _ _ => rfl | exact id | cases h

/-- Replaces tag. -/
def setTag (x : State) (tag : Tag) : State := { x with tag := tag }

theorem setTag_eq (x : State) (tag : Tag) :
    State.mk x.ext x.start x.align x.clk x.pwr x.thm x.load x.scrub x.ctx x.fab x.mem x.noc x.dram x.prt x.lnk x.dsp x.pins x.mbx x.evt x.sec tag x.free x.pending = setTag x tag := rfl

theorem setTag_frame (x : State) (tag : Tag)
    (ht : Tab.wf 0 x.tag.bytes = true → Tab.wf 0 tag.bytes = true := by first | with_unfolding_all exact id | with_unfolding_all exact fun _ => rfl | exact id | exact fun _ => rfl | exact fun h => wf_putBytes h _ _) : Frame [.tag] x (setTag x tag) := by
  constructor; intro p h; cases p <;> first | rfl | exact fun m => ⟨m.1, m.2.1, ht m.2.2.1, m.2.2.2⟩ | exact fun _ _ => rfl | exact id | cases h

/-- Replaces thm. -/
def setThm (x : State) (thm : Thm) : State := { x with thm := thm }

theorem setThm_eq (x : State) (thm : Thm) :
    State.mk x.ext x.start x.align x.clk x.pwr thm x.load x.scrub x.ctx x.fab x.mem x.noc x.dram x.prt x.lnk x.dsp x.pins x.mbx x.evt x.sec x.tag x.free x.pending = setThm x thm := rfl

theorem setThm_frame (x : State) (thm : Thm) : Frame [.thm] x (setThm x thm) := by
  constructor; intro p h; cases p <;> first | rfl | exact fun m => ⟨m.1, m.2.1, m.2.2.1, m.2.2.2⟩ | exact fun _ _ => rfl | exact id | cases h

/-- Replaces align, clk. -/
def setAlignClk (x : State) (align : Align) (clk : Clk) : State := { x with align := align, clk := clk }

theorem setAlignClk_eq (x : State) (align : Align) (clk : Clk) :
    State.mk x.ext x.start align clk x.pwr x.thm x.load x.scrub x.ctx x.fab x.mem x.noc x.dram x.prt x.lnk x.dsp x.pins x.mbx x.evt x.sec x.tag x.free x.pending = setAlignClk x align clk := rfl

theorem setAlignClk_frame (x : State) (align : Align) (clk : Clk) : Frame [.align, .clk] x (setAlignClk x align clk) := by
  constructor; intro p h; cases p <;> first | rfl | exact fun m => ⟨m.1, m.2.1, m.2.2.1, m.2.2.2⟩ | exact fun _ _ => rfl | exact id | cases h

/-- Replaces clk, lnk. -/
def setClkLnk (x : State) (clk : Clk) (lnk : Lnk) : State := { x with clk := clk, lnk := lnk }

theorem setClkLnk_eq (x : State) (clk : Clk) (lnk : Lnk) :
    State.mk x.ext x.start x.align clk x.pwr x.thm x.load x.scrub x.ctx x.fab x.mem x.noc x.dram x.prt lnk x.dsp x.pins x.mbx x.evt x.sec x.tag x.free x.pending = setClkLnk x clk lnk := rfl

theorem setClkLnk_frame (x : State) (clk : Clk) (lnk : Lnk) : Frame [.clk, .lnk] x (setClkLnk x clk lnk) := by
  constructor; intro p h; cases p <;> first | rfl | exact fun m => ⟨m.1, m.2.1, m.2.2.1, m.2.2.2⟩ | exact fun _ _ => rfl | exact id | cases h

/-- Replaces dram, prt. -/
def setDramPrt (x : State) (dram : Dram) (prt : Prt) : State := { x with dram := dram, prt := prt }

theorem setDramPrt_eq (x : State) (dram : Dram) (prt : Prt) :
    State.mk x.ext x.start x.align x.clk x.pwr x.thm x.load x.scrub x.ctx x.fab x.mem x.noc dram prt x.lnk x.dsp x.pins x.mbx x.evt x.sec x.tag x.free x.pending = setDramPrt x dram prt := rfl

theorem setDramPrt_frame (x : State) (dram : Dram) (prt : Prt)
    (hd : Tab.wf none x.dram.lines = true → Tab.wf none dram.lines = true := by first | with_unfolding_all exact id | with_unfolding_all exact fun _ => rfl | exact id | exact fun _ => rfl | exact fun h => wf_putBytes h _ _ | exact fun h => Tab.wf_foldl_set h _ _ _ | exact fun h => Tab.wf_filter h _ | exact fun h => Tab.wf_set h _ _)
    (hk : prt.ranges = x.prt.ranges := by rfl) : Frame [.dram, .prt] x (setDramPrt x dram prt) := by
  constructor; intro p h; cases p <;> first | rfl | exact fun m => ⟨m.1, m.2.1, m.2.2.1, hd m.2.2.2⟩ | exact fun i _ => congrArg (fun r => Tab.get {} r i) hk | exact id | cases h

/-- Replaces ext, load. -/
def setExtLoad (x : State) (ext : Ext) (load : Load) : State := { x with ext := ext, load := load }

theorem setExtLoad_eq (x : State) (ext : Ext) (load : Load) :
    State.mk ext x.start x.align x.clk x.pwr x.thm load x.scrub x.ctx x.fab x.mem x.noc x.dram x.prt x.lnk x.dsp x.pins x.mbx x.evt x.sec x.tag x.free x.pending = setExtLoad x ext load := rfl

theorem setExtLoad_frame (x : State) (ext : Ext) (load : Load)
    (hw : Tab.wf 0 x.load.ws = true → Tab.wf 0 load.ws = true := by first | with_unfolding_all exact id | with_unfolding_all exact fun _ => rfl | exact id | exact fun _ => rfl | exact fun h => wf_putBytes h _ _ | exact fun h => Tab.wf_foldl_set h _ _ _ | exact fun h => Tab.wf_filter h _ | exact fun h => Tab.wf_set h _ _) : Frame [.ext, .load] x (setExtLoad x ext load) := by
  constructor; intro p h; cases p <;> first | rfl | exact fun m => ⟨hw m.1, m.2.1, m.2.2.1, m.2.2.2⟩ | exact fun _ _ => rfl | exact id | cases h

/-- Replaces ext, start. -/
def setExtStart (x : State) (ext : Ext) (start : Start) : State := { x with ext := ext, start := start }

theorem setExtStart_eq (x : State) (ext : Ext) (start : Start) :
    State.mk ext start x.align x.clk x.pwr x.thm x.load x.scrub x.ctx x.fab x.mem x.noc x.dram x.prt x.lnk x.dsp x.pins x.mbx x.evt x.sec x.tag x.free x.pending = setExtStart x ext start := rfl

theorem setExtStart_frame (x : State) (ext : Ext) (start : Start) : Frame [.ext, .start] x (setExtStart x ext start) := by
  constructor; intro p h; cases p <;> first | rfl | exact fun m => ⟨m.1, m.2.1, m.2.2.1, m.2.2.2⟩ | exact fun _ _ => rfl | exact id | cases h

/-- Replaces load, ctx. -/
def setLoadCtx (x : State) (load : Load) (ctx : Ctx) : State := { x with load := load, ctx := ctx }

theorem setLoadCtx_eq (x : State) (load : Load) (ctx : Ctx) :
    State.mk x.ext x.start x.align x.clk x.pwr x.thm load x.scrub ctx x.fab x.mem x.noc x.dram x.prt x.lnk x.dsp x.pins x.mbx x.evt x.sec x.tag x.free x.pending = setLoadCtx x load ctx := rfl

theorem setLoadCtx_frame (x : State) (load : Load) (ctx : Ctx)
    (hw : Tab.wf 0 x.load.ws = true → Tab.wf 0 load.ws = true := by first | with_unfolding_all exact id | with_unfolding_all exact fun _ => rfl | exact id | exact fun _ => rfl | exact fun h => wf_putBytes h _ _ | exact fun h => Tab.wf_foldl_set h _ _ _ | exact fun h => Tab.wf_filter h _ | exact fun h => Tab.wf_set h _ _) : Frame [.load, .ctx] x (setLoadCtx x load ctx) := by
  constructor; intro p h; cases p <;> first | rfl | exact fun m => ⟨hw m.1, m.2.1, m.2.2.1, m.2.2.2⟩ | exact fun _ _ => rfl | exact id | cases h

/-- Replaces load, pins. -/
def setLoadPins (x : State) (load : Load) (pins : Pins) : State := { x with load := load, pins := pins }

theorem setLoadPins_eq (x : State) (load : Load) (pins : Pins) :
    State.mk x.ext x.start x.align x.clk x.pwr x.thm load x.scrub x.ctx x.fab x.mem x.noc x.dram x.prt x.lnk x.dsp pins x.mbx x.evt x.sec x.tag x.free x.pending = setLoadPins x load pins := rfl

theorem setLoadPins_frame (x : State) (load : Load) (pins : Pins)
    (hw : Tab.wf 0 x.load.ws = true → Tab.wf 0 load.ws = true := by first | with_unfolding_all exact id | with_unfolding_all exact fun _ => rfl | exact id | exact fun _ => rfl | exact fun h => wf_putBytes h _ _ | exact fun h => Tab.wf_foldl_set h _ _ _ | exact fun h => Tab.wf_filter h _ | exact fun h => Tab.wf_set h _ _) : Frame [.load, .pins] x (setLoadPins x load pins) := by
  constructor; intro p h; cases p <;> first | rfl | exact fun m => ⟨hw m.1, m.2.1, m.2.2.1, m.2.2.2⟩ | exact fun _ _ => rfl | exact id | cases h

/-- Replaces load, tag. -/
def setLoadTag (x : State) (load : Load) (tag : Tag) : State := { x with load := load, tag := tag }

theorem setLoadTag_eq (x : State) (load : Load) (tag : Tag) :
    State.mk x.ext x.start x.align x.clk x.pwr x.thm load x.scrub x.ctx x.fab x.mem x.noc x.dram x.prt x.lnk x.dsp x.pins x.mbx x.evt x.sec tag x.free x.pending = setLoadTag x load tag := rfl

theorem setLoadTag_frame (x : State) (load : Load) (tag : Tag)
    (hw : Tab.wf 0 x.load.ws = true → Tab.wf 0 load.ws = true := by first | with_unfolding_all exact id | with_unfolding_all exact fun _ => rfl | exact id | exact fun _ => rfl | exact fun h => wf_putBytes h _ _ | exact fun h => Tab.wf_foldl_set h _ _ _ | exact fun h => Tab.wf_filter h _ | exact fun h => Tab.wf_set h _ _)
    (ht : Tab.wf 0 x.tag.bytes = true → Tab.wf 0 tag.bytes = true := by first | with_unfolding_all exact id | with_unfolding_all exact fun _ => rfl | exact id | exact fun _ => rfl | exact fun h => wf_putBytes h _ _) : Frame [.load, .tag] x (setLoadTag x load tag) := by
  constructor; intro p h; cases p <;> first | rfl | exact fun m => ⟨hw m.1, m.2.1, ht m.2.2.1, m.2.2.2⟩ | exact fun _ _ => rfl | exact id | cases h

/-- Replaces mbx, evt. -/
def setMbxEvt (x : State) (mbx : Mbx) (evt : Evt) : State := { x with mbx := mbx, evt := evt }

theorem setMbxEvt_eq (x : State) (mbx : Mbx) (evt : Evt) :
    State.mk x.ext x.start x.align x.clk x.pwr x.thm x.load x.scrub x.ctx x.fab x.mem x.noc x.dram x.prt x.lnk x.dsp x.pins mbx evt x.sec x.tag x.free x.pending = setMbxEvt x mbx evt := rfl

theorem setMbxEvt_frame (x : State) (mbx : Mbx) (evt : Evt) (hc : mbx.chans = x.mbx.chans := by rfl) (hb : mbx.barista = x.mbx.barista := by rfl) : Frame [.mbx, .evt] x (setMbxEvt x mbx evt) := by
  constructor; intro p h; cases p <;> first | rfl | exact fun m => ⟨m.1, m.2.1, m.2.2.1, m.2.2.2⟩ | exact fun _ _ => rfl | exact hc | exact hb | exact id | cases h

/-- Replaces mem, noc. -/
def setMemNoc (x : State) (mem : Mem) (noc : Noc) : State := { x with mem := mem, noc := noc }

theorem setMemNoc_eq (x : State) (mem : Mem) (noc : Noc) :
    State.mk x.ext x.start x.align x.clk x.pwr x.thm x.load x.scrub x.ctx x.fab mem noc x.dram x.prt x.lnk x.dsp x.pins x.mbx x.evt x.sec x.tag x.free x.pending = setMemNoc x mem noc := rfl

theorem setMemNoc_frame (x : State) (mem : Mem) (noc : Noc) : Frame [.mem, .noc] x (setMemNoc x mem noc) := by
  constructor; intro p h; cases p <;> first | rfl | exact fun m => ⟨m.1, m.2.1, m.2.2.1, m.2.2.2⟩ | exact fun _ _ => rfl | exact id | cases h

/-- Replaces noc, lnk. -/
def setNocLnk (x : State) (noc : Noc) (lnk : Lnk) : State := { x with noc := noc, lnk := lnk }

theorem setNocLnk_eq (x : State) (noc : Noc) (lnk : Lnk) :
    State.mk x.ext x.start x.align x.clk x.pwr x.thm x.load x.scrub x.ctx x.fab x.mem noc x.dram x.prt lnk x.dsp x.pins x.mbx x.evt x.sec x.tag x.free x.pending = setNocLnk x noc lnk := rfl

theorem setNocLnk_frame (x : State) (noc : Noc) (lnk : Lnk) : Frame [.noc, .lnk] x (setNocLnk x noc lnk) := by
  constructor; intro p h; cases p <;> first | rfl | exact fun m => ⟨m.1, m.2.1, m.2.2.1, m.2.2.2⟩ | exact fun _ _ => rfl | exact id | cases h

/-- Replaces pwr, dram. -/
def setPwrDram (x : State) (pwr : Pwr) (dram : Dram) : State := { x with pwr := pwr, dram := dram }

theorem setPwrDram_eq (x : State) (pwr : Pwr) (dram : Dram) :
    State.mk x.ext x.start x.align x.clk pwr x.thm x.load x.scrub x.ctx x.fab x.mem x.noc dram x.prt x.lnk x.dsp x.pins x.mbx x.evt x.sec x.tag x.free x.pending = setPwrDram x pwr dram := rfl

theorem setPwrDram_frame (x : State) (pwr : Pwr) (dram : Dram)
    (hd : Tab.wf none x.dram.lines = true → Tab.wf none dram.lines = true := by first | with_unfolding_all exact id | with_unfolding_all exact fun _ => rfl | exact id | exact fun _ => rfl | exact fun h => wf_putBytes h _ _ | exact fun h => Tab.wf_foldl_set h _ _ _ | exact fun h => Tab.wf_filter h _ | exact fun h => Tab.wf_set h _ _) : Frame [.pwr, .dram] x (setPwrDram x pwr dram) := by
  constructor; intro p h; cases p <;> first | rfl | exact fun m => ⟨m.1, m.2.1, m.2.2.1, hd m.2.2.2⟩ | exact fun _ _ => rfl | exact id | cases h

/-- Replaces pwr, mem. -/
def setPwrMem (x : State) (pwr : Pwr) (mem : Mem) : State := { x with pwr := pwr, mem := mem }

theorem setPwrMem_eq (x : State) (pwr : Pwr) (mem : Mem) :
    State.mk x.ext x.start x.align x.clk pwr x.thm x.load x.scrub x.ctx x.fab mem x.noc x.dram x.prt x.lnk x.dsp x.pins x.mbx x.evt x.sec x.tag x.free x.pending = setPwrMem x pwr mem := rfl

theorem setPwrMem_frame (x : State) (pwr : Pwr) (mem : Mem) : Frame [.pwr, .mem] x (setPwrMem x pwr mem) := by
  constructor; intro p h; cases p <;> first | rfl | exact fun m => ⟨m.1, m.2.1, m.2.2.1, m.2.2.2⟩ | exact fun _ _ => rfl | exact id | cases h

/-- Replaces sec, tag. -/
def setSecTag (x : State) (sec : Sec) (tag : Tag) : State := { x with sec := sec, tag := tag }

theorem setSecTag_eq (x : State) (sec : Sec) (tag : Tag) :
    State.mk x.ext x.start x.align x.clk x.pwr x.thm x.load x.scrub x.ctx x.fab x.mem x.noc x.dram x.prt x.lnk x.dsp x.pins x.mbx x.evt sec tag x.free x.pending = setSecTag x sec tag := rfl

theorem setSecTag_frame (x : State) (sec : Sec) (tag : Tag)
    (hv : Tab.wf 0 x.sec.vault = true → Tab.wf 0 sec.vault = true := by first | with_unfolding_all exact id | with_unfolding_all exact fun _ => rfl | exact id | exact fun _ => rfl | exact fun h => wf_putBytes h _ _)
    (ht : Tab.wf 0 x.tag.bytes = true → Tab.wf 0 tag.bytes = true := by first | with_unfolding_all exact id | with_unfolding_all exact fun _ => rfl | exact id | exact fun _ => rfl | exact fun h => wf_putBytes h _ _) (hl : sec.life = x.sec.life := by rfl) (hp : sec.pending = x.sec.pending := by rfl) : Frame [.sec, .tag] x (setSecTag x sec tag) := by
  constructor; intro p h; cases p <;> first | rfl | exact fun m => ⟨m.1, hv m.2.1, ht m.2.2.1, m.2.2.2⟩ | exact fun _ _ => rfl | exact fun q org o n h => ⟨(q org o n (hp.symm.trans h)).1.trans hl.symm, (q org o n (hp.symm.trans h)).2⟩ | exact hl | exact hp | cases h

/-- Replaces start, align. -/
def setStartAlign (x : State) (start : Start) (align : Align) : State := { x with start := start, align := align }

theorem setStartAlign_eq (x : State) (start : Start) (align : Align) :
    State.mk x.ext start align x.clk x.pwr x.thm x.load x.scrub x.ctx x.fab x.mem x.noc x.dram x.prt x.lnk x.dsp x.pins x.mbx x.evt x.sec x.tag x.free x.pending = setStartAlign x start align := rfl

theorem setStartAlign_frame (x : State) (start : Start) (align : Align) : Frame [.start, .align] x (setStartAlign x start align) := by
  constructor; intro p h; cases p <;> first | rfl | exact fun m => ⟨m.1, m.2.1, m.2.2.1, m.2.2.2⟩ | exact fun _ _ => rfl | exact id | cases h

/-- Replaces start, mbx. -/
def setStartMbx (x : State) (start : Start) (mbx : Mbx) : State := { x with start := start, mbx := mbx }

theorem setStartMbx_eq (x : State) (start : Start) (mbx : Mbx) :
    State.mk x.ext start x.align x.clk x.pwr x.thm x.load x.scrub x.ctx x.fab x.mem x.noc x.dram x.prt x.lnk x.dsp x.pins mbx x.evt x.sec x.tag x.free x.pending = setStartMbx x start mbx := rfl

theorem setStartMbx_frame (x : State) (start : Start) (mbx : Mbx) (hc : mbx.chans = x.mbx.chans := by rfl) (hb : mbx.barista = x.mbx.barista := by rfl) : Frame [.start, .mbx] x (setStartMbx x start mbx) := by
  constructor; intro p h; cases p <;> first | rfl | exact fun m => ⟨m.1, m.2.1, m.2.2.1, m.2.2.2⟩ | exact fun _ _ => rfl | exact hc | exact hb | exact id | cases h

/-- Replaces align, clk, lnk. -/
def setAlignClkLnk (x : State) (align : Align) (clk : Clk) (lnk : Lnk) : State := { x with align := align, clk := clk, lnk := lnk }

theorem setAlignClkLnk_eq (x : State) (align : Align) (clk : Clk) (lnk : Lnk) :
    State.mk x.ext x.start align clk x.pwr x.thm x.load x.scrub x.ctx x.fab x.mem x.noc x.dram x.prt lnk x.dsp x.pins x.mbx x.evt x.sec x.tag x.free x.pending = setAlignClkLnk x align clk lnk := rfl

theorem setAlignClkLnk_frame (x : State) (align : Align) (clk : Clk) (lnk : Lnk) : Frame [.align, .clk, .lnk] x (setAlignClkLnk x align clk lnk) := by
  constructor; intro p h; cases p <;> first | rfl | exact fun m => ⟨m.1, m.2.1, m.2.2.1, m.2.2.2⟩ | exact fun _ _ => rfl | exact id | cases h

/-- Replaces clk, ctx, noc. -/
def setClkCtxNoc (x : State) (clk : Clk) (ctx : Ctx) (noc : Noc) : State := { x with clk := clk, ctx := ctx, noc := noc }

theorem setClkCtxNoc_eq (x : State) (clk : Clk) (ctx : Ctx) (noc : Noc) :
    State.mk x.ext x.start x.align clk x.pwr x.thm x.load x.scrub ctx x.fab x.mem noc x.dram x.prt x.lnk x.dsp x.pins x.mbx x.evt x.sec x.tag x.free x.pending = setClkCtxNoc x clk ctx noc := rfl

theorem setClkCtxNoc_frame (x : State) (clk : Clk) (ctx : Ctx) (noc : Noc) : Frame [.clk, .ctx, .noc] x (setClkCtxNoc x clk ctx noc) := by
  constructor; intro p h; cases p <;> first | rfl | exact fun m => ⟨m.1, m.2.1, m.2.2.1, m.2.2.2⟩ | exact fun _ _ => rfl | exact id | cases h

/-- Replaces ext, lnk, mbx. -/
def setExtLnkMbx (x : State) (ext : Ext) (lnk : Lnk) (mbx : Mbx) : State := { x with ext := ext, lnk := lnk, mbx := mbx }

theorem setExtLnkMbx_eq (x : State) (ext : Ext) (lnk : Lnk) (mbx : Mbx) :
    State.mk ext x.start x.align x.clk x.pwr x.thm x.load x.scrub x.ctx x.fab x.mem x.noc x.dram x.prt lnk x.dsp x.pins mbx x.evt x.sec x.tag x.free x.pending = setExtLnkMbx x ext lnk mbx := rfl

theorem setExtLnkMbx_frame (x : State) (ext : Ext) (lnk : Lnk) (mbx : Mbx) (hc : mbx.chans = x.mbx.chans := by rfl) (hb : mbx.barista = x.mbx.barista := by rfl) : Frame [.ext, .lnk, .mbx] x (setExtLnkMbx x ext lnk mbx) := by
  constructor; intro p h; cases p <;> first | rfl | exact fun m => ⟨m.1, m.2.1, m.2.2.1, m.2.2.2⟩ | exact fun _ _ => rfl | exact hc | exact hb | exact id | cases h

/-- Replaces ext, start, pwr. -/
def setExtStartPwr (x : State) (ext : Ext) (start : Start) (pwr : Pwr) : State := { x with ext := ext, start := start, pwr := pwr }

theorem setExtStartPwr_eq (x : State) (ext : Ext) (start : Start) (pwr : Pwr) :
    State.mk ext start x.align x.clk pwr x.thm x.load x.scrub x.ctx x.fab x.mem x.noc x.dram x.prt x.lnk x.dsp x.pins x.mbx x.evt x.sec x.tag x.free x.pending = setExtStartPwr x ext start pwr := rfl

theorem setExtStartPwr_frame (x : State) (ext : Ext) (start : Start) (pwr : Pwr) : Frame [.ext, .start, .pwr] x (setExtStartPwr x ext start pwr) := by
  constructor; intro p h; cases p <;> first | rfl | exact fun m => ⟨m.1, m.2.1, m.2.2.1, m.2.2.2⟩ | exact fun _ _ => rfl | exact id | cases h

/-- Replaces mbx, evt, sec. -/
def setMbxEvtSec (x : State) (mbx : Mbx) (evt : Evt) (sec : Sec) : State := { x with mbx := mbx, evt := evt, sec := sec }

theorem setMbxEvtSec_eq (x : State) (mbx : Mbx) (evt : Evt) (sec : Sec) :
    State.mk x.ext x.start x.align x.clk x.pwr x.thm x.load x.scrub x.ctx x.fab x.mem x.noc x.dram x.prt x.lnk x.dsp x.pins mbx evt sec x.tag x.free x.pending = setMbxEvtSec x mbx evt sec := rfl

theorem setMbxEvtSec_frame (x : State) (mbx : Mbx) (evt : Evt) (sec : Sec)
    (hv : Tab.wf 0 x.sec.vault = true → Tab.wf 0 sec.vault = true := by first | with_unfolding_all exact id | with_unfolding_all exact fun _ => rfl | exact id | exact fun _ => rfl | exact fun h => wf_putBytes h _ _) (hc : mbx.chans = x.mbx.chans := by rfl) (hb : mbx.barista = x.mbx.barista := by rfl) (hl : sec.life = x.sec.life := by rfl) (hp : sec.pending = x.sec.pending := by rfl) : Frame [.mbx, .evt, .sec] x (setMbxEvtSec x mbx evt sec) := by
  constructor; intro p h; cases p <;> first | rfl | exact fun m => ⟨m.1, hv m.2.1, m.2.2.1, m.2.2.2⟩ | exact fun _ _ => rfl | exact hc | exact hb | exact fun q org o n h => ⟨(q org o n (hp.symm.trans h)).1.trans hl.symm, (q org o n (hp.symm.trans h)).2⟩ | exact hl | exact hp | cases h

/-- Replaces start, align, fab. -/
def setStartAlignFab (x : State) (start : Start) (align : Align) (fab : Fab) : State := { x with start := start, align := align, fab := fab }

theorem setStartAlignFab_eq (x : State) (start : Start) (align : Align) (fab : Fab) :
    State.mk x.ext start align x.clk x.pwr x.thm x.load x.scrub x.ctx fab x.mem x.noc x.dram x.prt x.lnk x.dsp x.pins x.mbx x.evt x.sec x.tag x.free x.pending = setStartAlignFab x start align fab := rfl

theorem setStartAlignFab_frame (x : State) (start : Start) (align : Align) (fab : Fab) : Frame [.start, .align, .fab] x (setStartAlignFab x start align fab) := by
  constructor; intro p h; cases p <;> first | rfl | exact fun m => ⟨m.1, m.2.1, m.2.2.1, m.2.2.2⟩ | exact fun _ _ => rfl | exact id | cases h

/-- The frame of a command's body: what it leaves, and what follows once its answer is sent. -/
structure AnsFrame (W : List Part) (s : State) (a : Ans) : Prop where
  /-- What it leaves. -/
  state : Frame W s a.state
  /-- What follows. -/
  after : ∀ x, Frame W x (a.after x)

theorem AnsFrame.refuse (W : List Part) (s : State) (st : Status) : AnsFrame W s (refuse s st) :=
  ⟨Frame.refl _ _, fun _ => Frame.refl _ _⟩

theorem AnsFrame.done {W : List Part} {s x : State} {d : List Byte} (h : Frame W s x) : AnsFrame W s (done x d) :=
  ⟨h, fun _ => Frame.refl _ _⟩

theorem AnsFrame.lit {W : List Part} {s x : State} {st : Status} {d : List Byte} {u : Nat} {f : State → State} {b : Bool}
    (h : Frame W s x) (hf : ∀ x, Frame W x (f x)) :
    AnsFrame W s { state := x, status := st, data := d, units := u, after := f, wait := b } :=
  ⟨h, hf⟩

theorem AnsFrame.on {w W : List Part} {s x : State} {a : Ans} (h : AnsFrame w x a) (h0 : Frame W s x)
    (hw : Part.sub w W = true := by decide) : AnsFrame W s a :=
  ⟨h.state.after h0 hw, fun y => (h.after y).after (Frame.refl _ _) hw⟩

theorem AnsFrame.mono {w W : List Part} {s : State} {a : Ans} (h : AnsFrame w s a)
    (hw : Part.sub w W = true := by decide) : AnsFrame W s a :=
  h.on (Frame.refl _ _) hw

/-- The frame of a meaning: it answers a next state, and every part outside W is as before. -/
def NextFrame (W : List Part) (s : State) (o : Host.Outcome State Fault Refusal) : Prop :=
  ∃ t, o = .next t ∧ Frame W s t

theorem NextFrame.mk {W : List Part} {s t : State} (h : Frame W s t) : NextFrame W s (.next t) := ⟨t, rfl, h⟩

end Sys2Proof.Machine
end

