-- ==== Sys2Proof/Laws/FrameOps.lean ====
section
/-! SUPPORT. Frames of the shared operations, the mesh, the encryption engine, the flags, the fabric and the regions. -/

set_option Elab.async false

namespace Sys2Proof.Machine

theorem useFree_frame (n : Nat) (s : State) : Frame [.free] s (useFree n s) := by
  unfold useFree
  dsimp only [setFree_eq]
  repeat' first | with_reducible apply Frame.refl | exact rfl | with_reducible apply Frame.after (setFree_frame ..)

theorem updRegion_frame (r : Nat) (f : Region → Region) (s : State) : Frame [.ctx] s (updRegion r f s) := by
  unfold updRegion
  dsimp only [setCtx_eq]
  repeat' first | with_reducible apply Frame.refl | exact rfl | with_reducible apply Frame.after (setCtx_frame ..)

theorem updDom_frame (d : Nat) (f : Domain → Domain) (s : State) : Frame [.pwr] s (updDom d f s) := by
  unfold updDom
  dsimp only [setPwr_eq]
  repeat' first | with_reducible apply Frame.refl | exact rfl | with_reducible apply Frame.after (setPwr_frame ..)

theorem updPll_frame (g : Nat) (f : Pll → Pll) (s : State) : Frame [.clk] s (updPll g f s) := by
  unfold updPll
  dsimp only [setClk_eq]
  repeat' first | with_reducible apply Frame.refl | exact rfl | with_reducible apply Frame.after (setClk_frame ..)

theorem updSensor_frame (k : Nat) (f : Sensor → Sensor) (s : State) : Frame [.thm] s (updSensor k f s) := by
  unfold updSensor
  dsimp only [setThm_eq]
  repeat' first | with_reducible apply Frame.refl | exact rfl | with_reducible apply Frame.after (setThm_frame ..)

theorem updBlock_frame (b : Nat) (f : Block → Block) (s : State) : Frame [.mem] s (updBlock b f s) := by
  unfold updBlock
  dsimp only [setMem_eq]
  repeat' first | with_reducible apply Frame.refl | exact rfl | with_reducible apply Frame.after (setMem_frame ..)

theorem updRouter_frame (n : Nat) (f : Router → Router) (s : State) : Frame [.noc] s (updRouter n f s) := by
  unfold updRouter
  dsimp only [setNoc_eq]
  repeat' first | with_reducible apply Frame.refl | exact rfl | with_reducible apply Frame.after (setNoc_frame ..)

theorem updNport_frame (n : Nat) (f : NPort → NPort) (s : State) : Frame [.noc] s (updNport n f s) := by
  unfold updNport
  dsimp only [setNoc_eq]
  repeat' first | with_reducible apply Frame.refl | exact rfl | with_reducible apply Frame.after (setNoc_frame ..)

theorem updDchan_frame (c : Nat) (f : Chan8 → Chan8) (s : State) : Frame [.dram] s (updDchan c f s) := by
  unfold updDchan
  dsimp only [setDram_eq]
  repeat' first | with_reducible apply Frame.refl | exact rfl | with_reducible apply Frame.after (setDram_frame ..)

theorem updIr_frame (i : Nat) (f : IntRegion → IntRegion) (s : State) : Frame [.prt] s (updIr i f s) := by
  unfold updIr
  dsimp only [setPrt_eq]
  repeat' first | with_reducible apply Frame.refl | exact rfl | with_reducible apply Frame.after (setPrt_frame ..)

theorem updPort_frame (n : Nat) (f : Port → Port) (s : State) : Frame [.lnk] s (updPort n f s) := by
  unfold updPort
  dsimp only [setLnk_eq]
  repeat' first | with_reducible apply Frame.refl | exact rfl | with_reducible apply Frame.after (setLnk_frame ..)

theorem updPin_frame (p : Nat) (f : Pin → Pin) (s : State) : Frame [.pins] s (updPin p f s) := by
  unfold updPin
  dsimp only [setPins_eq]
  repeat' first | with_reducible apply Frame.refl | exact rfl | with_reducible apply Frame.after (setPins_frame ..)

theorem updBank_frame (b : Nat) (f : Bank → Bank) (s : State) : Frame [.pins] s (updBank b f s) := by
  unfold updBank
  dsimp only [setPins_eq]
  repeat' first | with_reducible apply Frame.refl | exact rfl | with_reducible apply Frame.after (setPins_frame ..)

theorem updChan_frame (c : Nat) (f : Chan → Chan) (s : State) : Frame [.mbx, .chans] s (updChan c f s) := by
  constructor; intro p h; cases p <;> first | rfl | exact fun _ _ => rfl | exact id | cases h

theorem giveMgmt_frame (p : Nat) (m : MgmtMsg) (s : State) : Frame [.lnk, .mbx] s (giveMgmt p m s) := by
  unfold giveMgmt
  dsimp only [setMbx_eq]
  repeat' first | with_reducible apply Frame.refl | exact rfl | with_reducible apply Frame.after (setMbx_frame ..) | split | with_reducible apply Frame.after (updPort_frame ..) | intro _

theorem sendMgmt_frame (m : MgmtMsg) (s : State) : Frame [.lnk, .mbx] s (sendMgmt m s) := by
  unfold sendMgmt
  repeat' first | with_reducible apply Frame.refl | exact rfl | split | with_reducible apply Frame.after (giveMgmt_frame ..)

theorem routeEvent_frame (r : EvRec) (s : State) : Frame [.lnk, .mbx] s (routeEvent r s) := by
  unfold routeEvent
  repeat' first | with_reducible apply Frame.refl | exact rfl | split | with_reducible apply Frame.after (sendMgmt_frame ..)

theorem postOwn_frame (r : EvRec) (s : State) : Frame [.lnk, .mbx, .evt] s (postOwn r s) := by
  unfold postOwn
  dsimp only [setEvt_eq]
  repeat' first | with_reducible apply Frame.refl | exact rfl | with_reducible apply Frame.after (setEvt_frame ..) | with_reducible apply Frame.after (routeEvent_frame ..)

theorem postOverflow_frame (s : State) : Frame [.lnk, .mbx, .evt] s (postOverflow s) := by
  unfold postOverflow
  dsimp only [setEvt_eq]
  repeat' first | with_reducible apply Frame.refl | exact rfl | with_reducible apply Frame.after (setEvt_frame ..) | split | with_reducible apply Frame.after (postOwn_frame ..)

theorem sendFinal_frame (org : Option Origin) (r : EvRec) (s : State) : Frame [.lnk, .mbx] s (sendFinal org r s) := by
  unfold sendFinal
  repeat' first | with_reducible apply Frame.refl | exact rfl | split | with_reducible apply Frame.after (sendMgmt_frame ..)

theorem postNow_frame (r : EvRec) (org : Option Origin) (s : State) : Frame [.lnk, .mbx, .evt] s (postNow r org s) := by
  unfold postNow
  dsimp only
  repeat' first | with_reducible apply Frame.refl | exact rfl | with_reducible apply Frame.after (postOverflow_frame ..) | with_reducible apply Frame.after (postOwn_frame ..) | with_reducible apply Frame.after (sendFinal_frame ..)

theorem queueHw_frame (r : EvRec) (org : Option Origin) (s : State) : Frame [.mbx, .evt] s (queueHw r org s) := by
  unfold queueHw
  dsimp only [setEvt_eq]
  dsimp only [setMbxEvt_eq]
  repeat' first | with_reducible apply Frame.refl | exact rfl | with_reducible apply Frame.after (setEvt_frame ..) | with_reducible apply Frame.after (setMbxEvt_frame ..) | split

theorem raise_frame (ev : Ev) (data : List (Nat × Nat)) (s : State) : Frame [.lnk, .mbx, .evt] s (raise ev data s) := by
  unfold raise
  repeat' first | with_reducible apply Frame.refl | exact rfl | split | with_reducible apply Frame.after (postNow_frame ..) | with_reducible apply Frame.after (queueHw_frame ..)

theorem finish_frame (org : Origin) (ev : Ev) (unit : Nat) (st : Status) (s : State) : Frame [.lnk, .mbx, .evt] s (finish org ev unit st s) := by
  unfold finish
  dsimp only [setMbx_eq]
  repeat' first | with_reducible apply Frame.refl | exact rfl | with_reducible apply Frame.after (setMbx_frame ..) | split | with_reducible apply Frame.after (postNow_frame ..) | with_reducible apply Frame.after (queueHw_frame ..)

theorem finishOpt_frame (org : Option Origin) (ev : Ev) (unit : Nat) (st : Status) (s : State) : Frame [.lnk, .mbx, .evt] s (finishOpt org ev unit st s) := by
  unfold finishOpt
  repeat' first | with_reducible apply Frame.refl | exact rfl | split | with_reducible apply Frame.after (finish_frame ..)

theorem drainHw_frame (s : State) : Frame [.lnk, .mbx, .evt] s (drainHw s) := by
  unfold drainHw
  dsimp only [setEvt_eq]
  repeat' first | with_reducible apply Frame.refl | exact rfl | with_reducible apply Frame.after (setEvt_frame ..) | split | with_reducible apply Frame.foldl | with_reducible apply Frame.after (postNow_frame ..) | intro _

theorem setBarista_frame (b : BaristaState) (s : State) : Frame [.mbx, .barista, .evt] s (setBarista b s) := by
  unfold setBarista
  split
  · exact Frame.refl _ _
  · exact ⟨fun p hp => by cases p <;> first | rfl | exact fun _ _ => rfl | exact id | cases hp⟩

theorem assertError_frame (s : State) : Frame [.ext] s (assertError s) := by
  unfold assertError
  dsimp only [setExt_eq]
  repeat' first | with_reducible apply Frame.refl | exact rfl | with_reducible apply Frame.after (setExt_frame ..)


theorem dropMesh_frame (q : NocReq) (s : State) : Frame [.noc] s (dropMesh q s) := by
  unfold dropMesh
  dsimp only [setNoc_eq]
  repeat' first | with_reducible apply Frame.refl | exact rfl | with_reducible apply Frame.after (setNoc_frame ..)

theorem respond_frame (q : NocReq) (st : Status) (data : List W64) (s : State) : Frame [.noc] s (respond q st data s) := by
  unfold respond
  dsimp only [setNoc_eq]
  repeat' first | with_reducible apply Frame.refl | exact rfl | with_reducible apply Frame.after (setNoc_frame ..) | split

theorem answerMesh_frame (q : NocReq) (st : Status) (data : List W64) (s : State) : Frame [.noc] s (answerMesh q st data s) := by
  unfold answerMesh
  repeat' first | with_reducible apply Frame.refl | exact rfl | with_reducible apply Frame.after (dropMesh_frame ..) | with_reducible apply Frame.after (respond_frame ..)

theorem lineRead_frame (l : Nat) (s : State) : Frame [.free] s (lineRead l s).2 := by
  unfold lineRead
  repeat' first | with_reducible apply Frame.refl | exact rfl | split | with_reducible apply Frame.after (useFree_frame ..) | intro _

theorem lineStore_frame (l : Nat) (data : BitVec 512) (bad : Bool) (s : State) : Frame [.dram] s (lineStore l data bad s) := by
  unfold lineStore
  dsimp only [setDram_eq]
  repeat' first | with_reducible apply Frame.refl | exact rfl | with_reducible apply Frame.after (setDram_frame ..)

theorem zeroLines_frame (first count : Nat) (s : State) : Frame [.dram] s (zeroLines first count s) := by
  unfold zeroLines
  dsimp only [setDram_eq]
  repeat' first | with_reducible apply Frame.refl | exact rfl | with_reducible apply Frame.after (setDram_frame ..) | intro _

theorem updPrt_frame {f : Prt → Prt} (hk : ∀ x : Prt, (f x).ranges = x.ranges) (s : State) : Frame [.prt] s (updPrt f s) := by
  unfold updPrt
  exact setPrt_frame s (f s.prt) (hk _)

theorem touchCache_frame (p : Nat) (write : Bool) (s : State) : Frame [.prt] s (touchCache p write s) := by
  unfold touchCache
  dsimp only
  repeat' first | with_reducible apply Frame.refl | exact rfl | exact fun _ => rfl | split | with_reducible apply Frame.after (updPrt_frame ?_ _) | intro _

theorem addPoison_frame (i level index : Nat) (s : State) : Frame [.prt] s (addPoison i level index s) := by
  unfold addPoison
  dsimp only
  repeat' first | with_reducible apply Frame.refl | exact rfl | exact fun _ => rfl | split | with_reducible apply Frame.after (updIr_frame ..) | with_reducible apply Frame.after (updPrt_frame ?_ _) | intro _

theorem raiseIntegrity_frame (i addr base length : Nat) (s : State) : Frame [.lnk, .mbx, .evt] s (raiseIntegrity i addr base length s) := by
  unfold raiseIntegrity
  repeat' first | with_reducible apply Frame.refl | exact rfl | with_reducible apply Frame.after (raise_frame ..)

theorem poisonLines_frame (ls : List Nat) (s : State) : Frame [.prt] s (poisonLines ls s) := by
  unfold poisonLines
  repeat' first | with_reducible apply Frame.refl | exact rfl | exact fun _ => rfl | with_reducible apply Frame.after (updPrt_frame ?_ _) | intro _

theorem lineFails_frame (i l : Nat) (s : State) : Frame [.prt, .lnk, .mbx, .evt] s (lineFails i l s) := by
  unfold lineFails
  repeat' first | with_reducible apply Frame.refl | exact rfl | with_reducible apply Frame.after (poisonLines_frame ..) | with_reducible apply Frame.after (raiseIntegrity_frame ..) | with_reducible apply Frame.after (updIr_frame ..) | intro _

theorem engineFind_frame (i l : Nat) (full : Bool) (f : EngineFind) (s : State) : Frame [.prt, .lnk, .mbx, .evt] s (engineFind i l full f s).2 := by
  unfold engineFind
  dsimp only
  repeat' first | with_reducible apply Frame.refl | exact rfl | exact fun _ => rfl | split | with_reducible apply Frame.after (addPoison_frame ..) | with_reducible apply Frame.after (lineFails_frame ..) | with_reducible apply Frame.after (poisonLines_frame ..) | with_reducible apply Frame.after (raiseIntegrity_frame ..) | with_reducible apply Frame.after (updPrt_frame ?_ _) | intro _

theorem updPage_frame (p : Nat) (f : Page → Page) (s : State) : Frame [.prt] s (updPage p f s) := by
  unfold updPage
  repeat' first | with_reducible apply Frame.refl | exact rfl | exact fun _ => rfl | with_reducible apply Frame.after (updPrt_frame ?_ _) | intro _

theorem convertPage_frame (i p : Nat) (s : State) : Frame [.prt] s (convertPage i p s) := by
  unfold convertPage
  dsimp only
  repeat' first | with_reducible apply Frame.refl | exact rfl | with_reducible apply Frame.after (updPage_frame ..) | intro _

theorem beginAdvance_frame (i : Nat) (s : State) : Frame [.prt] s (beginAdvance i s) := by
  unfold beginAdvance
  repeat' first | with_reducible apply Frame.refl | exact rfl | with_reducible apply Frame.after (updIr_frame ..) | intro _

theorem nextAdvance_frame (i : Nat) (s : State) : Frame [.prt, .lnk, .mbx, .evt] s (nextAdvance i s) := by
  unfold nextAdvance
  dsimp only
  repeat' first | with_reducible apply Frame.refl | exact rfl | split | with_reducible apply Frame.after (beginAdvance_frame ..) | with_reducible apply Frame.after (finish_frame ..) | with_reducible apply Frame.after (updIr_frame ..) | intro _

theorem endConversion_frame (i : Nat) (s : State) : Frame [.prt, .lnk, .mbx, .evt] s (endConversion i s) := by
  unfold endConversion
  repeat' first | with_reducible apply Frame.refl | exact rfl | with_reducible apply Frame.after (nextAdvance_frame ..) | with_reducible apply Frame.after (raise_frame ..) | with_reducible apply Frame.after (updIr_frame ..) | intro _

theorem zeroiseKey_frame (s : State) : Frame [.prt] s (zeroiseKey s) := by
  unfold zeroiseKey
  repeat' first | with_reducible apply Frame.refl | exact rfl | exact fun _ => rfl | with_reducible apply Frame.after (updPrt_frame ?_ _) | intro _

theorem drawKey_frame (s : State) : Frame [.prt, .lnk, .mbx, .evt] s (drawKey s) := by
  unfold drawKey
  dsimp only
  repeat' first | with_reducible apply Frame.refl | exact rfl | exact fun _ => rfl | with_reducible apply Frame.foldl | with_reducible apply Frame.after (finish_frame ..) | with_reducible apply Frame.after (updPrt_frame ?_ _) | intro _

theorem clockFabric_frame (s : State) : Frame [.ctx, .fab] s (clockFabric s) := by
  unfold clockFabric
  dsimp only [setFab_eq]
  repeat' first | with_reducible apply Frame.refl | exact rfl | with_reducible apply Frame.after (setFab_frame ..) | split | with_reducible apply Frame.forEach | with_reducible apply Frame.after (updRegion_frame ..) | intro _

theorem presentBorders_frame (r : Nat) (s : State) : Frame [.fab, .pins] s (presentBorders r s) := by
  unfold presentBorders
  dsimp only
  split
  · exact Frame.refl _ _
  · with_reducible refine Frame.forEach (fun _ _ => (updPin_frame ..).after (Frame.refl _ _)) _ ?_
    exact (setFab_frame ..).after (Frame.refl _ _)

theorem zeroRouting_frame (r : Nat) (s : State) : Frame [.fab] s (zeroRouting r s) := by
  unfold zeroRouting
  dsimp only [setFab_eq]
  repeat' first | with_reducible apply Frame.refl | exact rfl | with_reducible apply Frame.after (setFab_frame ..) | intro _

theorem zeroCarryOver_frame (r : Nat) (s : State) : Frame [.fab] s (zeroCarryOver r s) := by
  unfold zeroCarryOver
  dsimp only [setFab_eq]
  repeat' first | with_reducible apply Frame.refl | exact rfl | with_reducible apply Frame.after (setFab_frame ..) | intro _

theorem pruneChans_frame (s : State) : Frame [.lnk, .mbx] s (pruneChans s) := by
  unfold pruneChans
  dsimp only [setLnk_eq]
  repeat' first | with_reducible apply Frame.refl | exact rfl | with_reducible apply Frame.after (setLnk_frame ..) | split | with_reducible apply Frame.foldl | with_reducible apply Frame.after (sendMgmt_frame ..) | with_reducible apply Frame.after (updPort_frame ..) | intro _

theorem clearSlot_frame (r k : Nat) (s : State) : Frame [.ctx, .lnk, .mbx] s (clearSlot r k s) := by
  unfold clearSlot
  repeat' first | with_reducible apply Frame.refl | exact rfl | with_reducible apply Frame.after (pruneChans_frame ..) | with_reducible apply Frame.after (updRegion_frame ..) | intro _

theorem emptySlot_frame (r k : Nat) (s : State) : Frame [.ctx, .lnk, .mbx] s (emptySlot r k s) := by
  unfold emptySlot
  repeat' first | with_reducible apply Frame.refl | exact rfl | with_reducible apply Frame.after (clearSlot_frame ..) | with_reducible apply Frame.after (updRegion_frame ..) | intro _

theorem emptyAll_frame (r : Nat) (s : State) : Frame [.ctx, .lnk, .mbx] s (emptyAll r s) := by
  unfold emptyAll
  repeat' first | with_reducible apply Frame.refl | exact rfl | with_reducible apply Frame.after (pruneChans_frame ..) | with_reducible apply Frame.after (updRegion_frame ..) | intro _

theorem dropPartial_frame (r : Nat) (s : State) : Frame [.mbx, .chans] s (dropPartial r s) := by
  unfold dropPartial
  repeat' first | with_reducible apply Frame.refl | exact rfl | with_reducible apply Frame.forEach | with_reducible apply Frame.after (updChan_frame ..) | intro _

theorem dropSwitch_frame (r : Nat) (s : State) : Frame [.ctx, .lnk, .mbx, .evt] s (dropSwitch r s) := by
  unfold dropSwitch
  repeat' first | with_reducible apply Frame.refl | exact rfl | split | with_reducible apply Frame.after (finishOpt_frame ..) | with_reducible apply Frame.after (updRegion_frame ..) | intro _

theorem leaveRunning_frame (r : Nat) (st : RegSt) (cause : BitVec 4) (s : State) : Frame [.ctx, .fab, .lnk, .pins, .mbx, .chans, .evt] s (leaveRunning r st cause s) := by
  unfold leaveRunning
  dsimp only
  repeat' first | with_reducible apply Frame.refl | exact rfl | with_reducible apply Frame.after (dropPartial_frame ..) | with_reducible apply Frame.after (dropSwitch_frame ..) | with_reducible apply Frame.after (presentBorders_frame ..) | with_reducible apply Frame.after (updRegion_frame ..) | intro _

theorem releaseBank_frame (nn : Nat) (s : State) : Frame [.load, .pins] s (releaseBank nn s) := by
  unfold releaseBank
  dsimp only [setLoadPins_eq]
  repeat' first | with_reducible apply Frame.refl | exact rfl | with_reducible apply Frame.after (setLoadPins_frame ..) | split | with_reducible apply Frame.foldl | intro _

theorem releaseBanks_frame (r : Nat) (s : State) : Frame [.load, .pins] s (releaseBanks r s) := by
  unfold releaseBanks
  repeat' first | with_reducible apply Frame.refl | exact rfl | split | with_reducible apply Frame.forEach | with_reducible apply Frame.after (releaseBank_frame ..) | intro _

theorem enterRunning_frame (r : Nat) (k : Fin 4) (init : Bool) (s : State) : Frame [.load, .ctx, .pins] s (enterRunning r k init s) := by
  unfold enterRunning
  dsimp only
  repeat' first | with_reducible apply Frame.refl | exact rfl | split | with_reducible apply Frame.after (releaseBanks_frame ..) | with_reducible apply Frame.after (updRegion_frame ..) | intro _

theorem faultRegion_frame (r : Nat) (cause : BitVec 4) (s : State) : Frame [.ctx, .fab, .lnk, .pins, .mbx, .chans, .evt] s (faultRegion r cause s) := by
  unfold faultRegion
  dsimp only
  repeat' first | with_reducible apply Frame.refl | exact rfl | split | with_reducible apply Frame.after (clearSlot_frame ..) | with_reducible apply Frame.after (leaveRunning_frame ..) | with_reducible apply Frame.after (raise_frame ..) | with_reducible apply Frame.after (updRegion_frame ..) | intro _

theorem invalidateSlot_frame (r k : Nat) (cause : BitVec 4) (s : State) : Frame [.ctx, .lnk, .mbx, .evt] s (invalidateSlot r k cause s) := by
  unfold invalidateSlot
  repeat' first | with_reducible apply Frame.refl | exact rfl | with_reducible apply Frame.after (clearSlot_frame ..) | with_reducible apply Frame.after (raise_frame ..)

theorem loseSlot_frame (r k : Nat) (cause : BitVec 4) (s : State) : Frame [.ctx, .fab, .lnk, .pins, .mbx, .chans, .evt] s (loseSlot r k cause s) := by
  unfold loseSlot
  repeat' first | with_reducible apply Frame.refl | exact rfl | split | with_reducible apply Frame.after (faultRegion_frame ..) | with_reducible apply Frame.after (invalidateSlot_frame ..)

theorem resetPlanes_frame (r : Nat) (s : State) : Frame [.ctx, .fab] s (resetPlanes r s) := by
  unfold resetPlanes
  dsimp only
  repeat' first | with_reducible apply Frame.refl | exact rfl | with_reducible apply Frame.after (updRegion_frame ..) | with_reducible apply Frame.after (zeroRouting_frame ..) | intro _

theorem startReset_frame (r : Nat) (byScrub : Bool) (s : State) : Frame [.ctx, .fab, .lnk, .pins, .mbx, .chans, .evt] s (startReset r byScrub s) := by
  unfold startReset
  exact (updRegion_frame ..).after ((resetPlanes_frame ..).after ((leaveRunning_frame ..).after (Frame.refl _ _)))

theorem endStage_frame (j : StageJob) (st : Status) (check : Byte) (tile : BitVec 16) (s : State) : Frame [.load, .lnk, .mbx, .evt] s (endStage j st check tile s) := by
  unfold endStage
  dsimp only [setLoad_eq]
  repeat' first | with_reducible apply Frame.refl | exact rfl | with_reducible apply Frame.after (setLoad_frame ..) | split | with_reducible apply Frame.after (finish_frame ..)

theorem endStagings_frame (r : Nat) (st : Status) (s : State) : Frame [.load, .ctx, .lnk, .mbx, .evt] s (endStagings r st s) := by
  unfold endStagings
  dsimp only [setCtx_eq]
  repeat' first | with_reducible apply Frame.refl | exact rfl | with_reducible apply Frame.after (setCtx_frame ..) | split | with_reducible apply Frame.foldl | with_reducible apply Frame.after (emptySlot_frame ..) | with_reducible apply Frame.after (endStage_frame ..) | intro _

theorem regionOff_frame (r : Nat) (cause : BitVec 4) (s : State) : Frame [.ctx, .fab, .lnk, .pins, .mbx, .chans, .evt] s (regionOff r cause s) := by
  unfold regionOff
  dsimp only
  repeat' first | with_reducible apply Frame.refl | exact rfl | split | with_reducible apply Frame.after (emptyAll_frame ..) | with_reducible apply Frame.after (leaveRunning_frame ..) | with_reducible apply Frame.after (updRegion_frame ..) | intro _

theorem darkSites_frame (r : Nat) (s : State) : Frame [.noc, .mbx, .chans] s (darkSites r s) := by
  unfold darkSites
  dsimp only [setMbx_eq]
  repeat' first | with_reducible apply Frame.refl | exact rfl | with_reducible apply Frame.after (setMbx_frame ..) | with_reducible apply Frame.forEach | with_reducible apply Frame.after (updChan_frame ..) | with_reducible apply Frame.after (updNport_frame ..) | intro _

theorem retireDom_frame (r : Nat) (s : State) : Frame [.pwr, .noc, .lnk, .mbx, .chans, .evt] s (retireDom r s) := by
  unfold retireDom
  dsimp only
  repeat' first | with_reducible apply Frame.refl | exact rfl | split | with_reducible apply Frame.foldl | with_reducible apply Frame.after (darkSites_frame ..) | with_reducible apply Frame.after (finish_frame ..) | with_reducible apply Frame.after (finishOpt_frame ..) | with_reducible apply Frame.after (updDom_frame ..) | intro _

theorem regionRetire_frame (r : Nat) (cause : BitVec 4) (s : State) : Frame [.pwr, .load, .ctx, .noc, .lnk, .mbx, .chans, .evt] s (regionRetire r cause s) := by
  unfold regionRetire
  repeat' first | with_reducible apply Frame.refl | exact rfl | with_reducible apply Frame.after (emptyAll_frame ..) | with_reducible apply Frame.after (endStagings_frame ..) | with_reducible apply Frame.after (retireDom_frame ..) | with_reducible apply Frame.after (updRegion_frame ..) | intro _

theorem writeRecord_frame (f : RepairRec → RepairRec) (s : State) : Frame [.start] s (writeRecord f s) := by
  unfold writeRecord
  dsimp only [setStart_eq]
  repeat' first | with_reducible apply Frame.refl | exact rfl | with_reducible apply Frame.after (setStart_frame ..) | split

theorem addMap_frame (e : W64) (row unit : Nat) (s : State) : Frame [.start, .lnk, .mbx, .evt] s (addMap e row unit s) := by
  unfold addMap
  dsimp only [setStart_eq]
  repeat' first | with_reducible apply Frame.refl | exact rfl | with_reducible apply Frame.after (setStart_frame ..) | split | with_reducible apply Frame.after (raise_frame ..) | with_reducible apply Frame.after (writeRecord_frame ..) | intro _

theorem applyRetire_frame (e : W64) (s : State) : Frame [.ctx, .fab, .lnk, .pins, .mbx, .chans, .evt] s (applyRetire e s) := by
  unfold applyRetire
  refine Frame.forEach (fun _ r => Frame.forEach (fun _ k => ?_) _ (Frame.refl _ _)) _ (Frame.refl _ _)
  dsimp only
  split
  · split
    · exact (loseSlot_frame ..).after (Frame.refl _ _)
    · exact Frame.refl _ _
  · exact Frame.refl _ _

theorem retireResource_frame (e : W64) (row unit : Nat) (s : State) : Frame [.start, .ctx, .fab, .lnk, .pins, .mbx, .chans, .evt] s (retireResource e row unit s) := by
  unfold retireResource
  exact (applyRetire_frame ..).after ((addMap_frame ..).after (Frame.refl _ _))

theorem retireVertical_frame (b : Bundle) (column row index : Nat) (s : State) : Frame [.start, .ctx, .fab, .lnk, .pins, .mbx, .chans, .evt] s (retireVertical b column row index s) := by
  unfold retireVertical
  dsimp only
  split
  · with_reducible exact (retireResource_frame ..).after (Frame.refl _ _)
  · with_reducible exact (retireResource_frame ..).after ((retireResource_frame ..).after (Frame.refl _ _))
  · split
    · with_reducible exact (retireResource_frame ..).after (Frame.refl _ _)
    · split
      · with_reducible exact (retireResource_frame ..).after (Frame.refl _ _)
      · with_reducible exact (retireResource_frame ..).after ((retireResource_frame ..).after (Frame.refl _ _))
  · with_reducible exact (retireResource_frame ..).after ((retireResource_frame ..).after (Frame.refl _ _))

end Sys2Proof.Machine
end

