-- ==== Sys2Proof/Laws/FrameMemory.lean ====
section
/-! SUPPORT. Frames of Barista's operations, the memory layer and the contexts. -/

set_option Elab.async false

namespace Sys2Proof.Machine

theorem refuse_frame (s : State) (st : Status) : AnsFrame [] s (refuse s st) := by
  unfold refuse
  repeat' first | with_reducible apply Frame.refl | exact rfl | with_reducible apply AnsFrame.refuse | with_reducible apply AnsFrame.done | with_reducible apply AnsFrame.lit | intro _ | exact Frame.refl _ _

theorem done_frame (s : State) (data : List Byte := []) : AnsFrame [] s (done s data) := by
  unfold done
  repeat' first | with_reducible apply Frame.refl | exact rfl | with_reducible apply AnsFrame.refuse | with_reducible apply AnsFrame.done | with_reducible apply AnsFrame.lit | intro _ | exact Frame.refl _ _

theorem raiseRsp_frame (c : Nat) (s : State) : Frame [.evt] s (raiseRsp c s) := by
  unfold raiseRsp
  dsimp only [setEvt_eq]
  repeat' first | with_reducible apply Frame.refl | exact rfl | with_reducible apply Frame.after (setEvt_frame ..) | split

theorem deliverRaw_frame (c : Nat) (via : Option MgmtMsg) (partial_ : Bool) (header data : List Byte) (s : State) : Frame [.lnk, .mbx, .chans, .evt] s (deliverRaw c via partial_ header data s) := by
  unfold deliverRaw
  repeat' first | with_reducible apply Frame.refl | exact rfl | split | with_reducible apply Frame.after (raiseRsp_frame ..) | with_reducible apply Frame.after (sendMgmt_frame ..) | with_reducible apply Frame.after (updChan_frame ..) | intro _

theorem deliver_frame (c : Nat) (via : Option MgmtMsg) (partial_ : Bool) (p : Rsp) (s : State) : Frame [.lnk, .mbx, .chans, .evt] s (deliver c via partial_ p s) := by
  unfold deliver
  repeat' first | with_reducible apply Frame.refl | exact rfl | with_reducible apply Frame.after (deliverRaw_frame ..)

theorem answerWith_frame (q : Request) (st : Status) (flags : Nat) (data : List Byte) (s : State) : Frame [.lnk, .mbx, .chans, .evt] s (answerWith q st flags data s) := by
  unfold answerWith
  dsimp only
  repeat' first | with_reducible apply Frame.refl | exact rfl | split | with_reducible apply Frame.after (deliver_frame ..) | with_reducible apply Frame.after (updChan_frame ..) | intro _

theorem answerHw_frame (q : Request) (st : Status) (s : State) : Frame [.lnk, .mbx, .chans, .evt] s (answerHw q st s) := by
  unfold answerHw
  repeat' first | with_reducible apply Frame.refl | exact rfl | with_reducible apply Frame.after (answerWith_frame ..)

theorem raiseMinSvn_frame (s : State) : Frame [.sec] s (raiseMinSvn s) := by
  unfold raiseMinSvn
  dsimp only [setSec_eq]
  repeat' first | with_reducible apply Frame.refl | exact rfl | with_reducible apply Frame.after (setSec_frame ..) | split

theorem confirmTrial_frame (s : State) : Frame [.mbx, .sec] s (confirmTrial s) := by
  unfold confirmTrial
  dsimp only [setMbx_eq]
  repeat' first | with_reducible apply Frame.refl | exact rfl | with_reducible apply Frame.after (setMbx_frame ..) | split | with_reducible apply Frame.after (raiseMinSvn_frame ..)

theorem answer_frame (q : Request) (st : Status) (data : List Byte) (s : State) : Frame [.lnk, .mbx, .chans, .evt, .sec] s (answer q st data s) := by
  unfold answer
  repeat' first | with_reducible apply Frame.refl | exact rfl | with_reducible apply Frame.after (answerWith_frame ..) | with_reducible apply Frame.after (confirmTrial_frame ..)

theorem pushOrder_frame (c : Nat) (s : State) : Frame [.mbx] s (pushOrder c s) := by
  unfold pushOrder
  dsimp only [setMbx_eq]
  repeat' first | with_reducible apply Frame.refl | exact rfl | with_reducible apply Frame.after (setMbx_frame ..)

theorem ringChan_frame (c : Nat) (s : State) : Frame [.lnk, .mbx, .chans, .evt] s (ringChan c s) := by
  unfold ringChan
  dsimp only
  repeat' first | with_reducible apply Frame.refl | exact rfl | split | with_reducible apply Frame.after (answerHw_frame ..) | with_reducible apply Frame.after (pushOrder_frame ..) | with_reducible apply Frame.after (updChan_frame ..) | intro _

theorem takeReq_frame {c : Nat} {s t : State} {q : Request} {f : Bool} (h : takeReq c s = some (q, f, t)) :
    Frame [.mbx, .chans] s t := by
  unfold takeReq at h
  dsimp only at h
  split at h
  · cases h; exact Frame.refl _ _
  · split at h
    · cases h; exact (updChan_frame ..).after (Frame.refl _ _)
    · split at h
      · cases h
      · cases h; exact (updChan_frame ..).after (Frame.refl _ _)

theorem dropOrder_frame (c : Nat) (s : State) : Frame [.mbx] s (dropOrder c s) := by
  unfold dropOrder
  dsimp only [setMbx_eq]
  repeat' first | with_reducible apply Frame.refl | exact rfl | with_reducible apply Frame.after (setMbx_frame ..)

theorem perform_frame {W : List Part} {body : Origin → State → Ans} (hb : ∀ o x, AnsFrame W x (body o x)) (q : Request)
    {s x : State} (h : Frame W s x) (hw : Part.sub [.lnk, .mbx, .chans, .evt, .sec] W = true := by decide) :
    Frame W s (perform q body x) := by
  have ha : ∀ (st : Status) (d : List Byte) (y : State), Frame W y (answer q st d y) := fun st d y =>
    ((answer_frame ..).after (W := [.lnk, .mbx, .chans, .evt, .sec]) (Frame.refl _ _)).after (Frame.refl _ _) hw
  have hs : ∀ (y : State) (v : Option SecWait), Frame W y { y with sec := { y.sec with waiting := v } } := fun y v =>
    ((setSec_frame ..).after (W := [.lnk, .mbx, .chans, .evt, .sec]) (Frame.refl _ _)).after (Frame.refl _ _) hw
  have hm : ∀ (y : State) (v : Mbx) (_ : v.chans = y.mbx.chans) (_ : v.barista = y.mbx.barista),
      Frame W y { y with mbx := v } := fun y v hv hr =>
    ((setMbx_frame y v hv hr).after (W := [.lnk, .mbx, .chans, .evt, .sec]) (Frame.refl _ _)).after (Frame.refl _ _) hw
  unfold perform
  dsimp only
  split
  · exact (ha ..).trans h
  · split
    · split
      · exact (ha ..).trans h
      · split
        · exact (hs ..).trans ((hb ..).state.trans h)
        · exact ((hb ..).after _).trans ((ha ..).trans ((hm _ _ (by exact rfl) (by exact rfl)).trans ((hb ..).state.trans h)))
    · split
      · exact (hs ..).trans ((hb ..).state.trans h)
      · exact ((hb ..).after _).trans ((ha ..).trans ((hb ..).state.trans h))

theorem postCmd_frame (r : Req) (cmd : Nat) (args : List Byte) (s : State) : Frame [.lnk, .mbx, .chans, .evt] s (postCmd r cmd args s) := by
  unfold postCmd
  dsimp only
  repeat' first | with_reducible apply Frame.refl | exact rfl | split | with_reducible apply Frame.after (answerHw_frame ..) | with_reducible apply Frame.after (pushOrder_frame ..) | with_reducible apply Frame.after (ringChan_frame ..) | with_reducible apply Frame.after (updChan_frame ..) | intro _

theorem serve_frame {W : List Part} {body : Origin → State → Ans} (hb : ∀ o x, AnsFrame W x (body o x)) {r : Req}
    {cmd : Nat} {args : List Byte} {s x : State} (h : Frame W s x)
    (hw : Part.sub [.lnk, .mbx, .chans, .evt, .sec] W = true := by decide) : Frame W s (serve r cmd args body x) := by
  have hp : Frame W x (postCmd r cmd args x) :=
    ((postCmd_frame ..).after (W := [.lnk, .mbx, .chans, .evt, .sec]) (Frame.refl _ _)).after (Frame.refl _ _) hw
  have hm : ∀ {y z : State}, Frame [.mbx, .chans] y z → Frame W y z := fun g =>
    (g.after (W := [.lnk, .mbx, .chans, .evt, .sec]) (Frame.refl _ _)).after (Frame.refl _ _) hw
  unfold serve
  dsimp only
  split
  · split
    · rename_i ht
      exact perform_frame hb _ ((hm ((dropOrder_frame ..).after (Frame.refl _ _))).trans ((hm (updChan_frame ..)).trans
        ((hm (takeReq_frame ht)).trans (hp.trans h)))) hw
    · exact hp.trans h
  · exact hp.trans h

theorem noteCe_frame (g a : Nat) (pos : Fin 72) (s : State) : Frame [.mem] s (noteCe g a pos s) := by
  unfold noteCe
  dsimp only [setMem_eq]
  repeat' first | with_reducible apply Frame.refl | exact rfl | with_reducible apply Frame.after (setMem_frame ..) | with_reducible apply Frame.after (updBlock_frame ..) | intro _

theorem noteUe_frame (g a port src : Nat) (s : State) : Frame [.mem, .lnk, .mbx, .evt] s (noteUe g a port src s) := by
  unfold noteUe
  repeat' first | with_reducible apply Frame.refl | exact rfl | with_reducible apply Frame.after (raise_frame ..) | with_reducible apply Frame.after (updBlock_frame ..) | intro _

theorem noteEcc_frame (g port src : Nat) (e : Option (MWord × Nat)) (s : State) : Frame [.mem, .lnk, .mbx, .evt] s (noteEcc g port src e s) := by
  unfold noteEcc
  repeat' first | with_reducible apply Frame.refl | exact rfl | split | with_reducible apply Frame.after (noteCe_frame ..) | with_reducible apply Frame.after (noteUe_frame ..)

theorem doPort_frame (p : PortAB) (g : Nat) (idle : Bool) (op : Nat → Block → OpAns) (s : State) : Frame [.mem, .lnk, .mbx, .evt] s (doPort p g idle op s) := by
  unfold doPort
  dsimp only
  repeat' first | with_reducible apply Frame.refl | exact rfl | split | with_reducible apply Frame.after (noteEcc_frame ..) | with_reducible apply Frame.after (updBlock_frame ..) | intro _

theorem execPortNop_frame (p : PortAB) (block : Fin 1152) (s : State) : NextFrame [.mem, .lnk, .mbx, .evt] s (execPortNop p block s) := by
  unfold execPortNop
  repeat' first | with_reducible apply Frame.refl | exact rfl | with_reducible apply NextFrame.mk | with_reducible apply Frame.after (doPort_frame ..) | intro _

theorem execPortRead_frame (p : PortAB) (block : Fin 1152) (addr : BitVec 13) (u : WordUpset) (s : State) : NextFrame [.mem, .lnk, .mbx, .evt] s (execPortRead p block addr u s) := by
  unfold execPortRead
  repeat' first | with_reducible apply Frame.refl | exact rfl | with_reducible apply NextFrame.mk | with_reducible apply Frame.after (doPort_frame ..)

theorem execPortWrite_frame (p : PortAB) (block : Fin 1152) (addr : BitVec 13) (data : W64) (s : State) : NextFrame [.mem, .lnk, .mbx, .evt] s (execPortWrite p block addr data s) := by
  unfold execPortWrite
  repeat' first | with_reducible apply Frame.refl | exact rfl | with_reducible apply NextFrame.mk | with_reducible apply Frame.after (doPort_frame ..)

theorem execPortEnq_frame (p : PortAB) (block : Fin 1152) (data : W64) (arg : BitVec 3) (s : State) : NextFrame [.mem, .lnk, .mbx, .evt] s (execPortEnq p block data arg s) := by
  unfold execPortEnq
  repeat' first | with_reducible apply Frame.refl | exact rfl | with_reducible apply NextFrame.mk | with_reducible apply Frame.after (doPort_frame ..)

theorem execPortDeq_frame (p : PortAB) (block : Fin 1152) (u : WordUpset) (s : State) : NextFrame [.mem, .lnk, .mbx, .evt, .free] s (execPortDeq p block u s) := by
  unfold execPortDeq
  repeat' first | with_reducible apply Frame.refl | exact rfl | with_reducible apply NextFrame.mk | with_reducible apply Frame.after (doPort_frame ..) | with_reducible apply Frame.after (useFree_frame ..)

theorem execPortPeek_frame (p : PortAB) (block : Fin 1152) (u : WordUpset) (s : State) : NextFrame [.mem, .lnk, .mbx, .evt, .free] s (execPortPeek p block u s) := by
  unfold execPortPeek
  repeat' first | with_reducible apply Frame.refl | exact rfl | with_reducible apply NextFrame.mk | with_reducible apply Frame.after (doPort_frame ..) | with_reducible apply Frame.after (useFree_frame ..)

theorem execPortReturn_frame (p : PortAB) (block : Fin 1152) (arg : BitVec 3) (s : State) : NextFrame [.mem, .lnk, .mbx, .evt] s (execPortReturn p block arg s) := by
  unfold execPortReturn
  repeat' first | with_reducible apply Frame.refl | exact rfl | with_reducible apply NextFrame.mk | with_reducible apply Frame.after (doPort_frame ..)

theorem execQueueEntryVisible_frame (block : Fin 1152) (s : State) : NextFrame [.mem] s (execQueueEntryVisible block s) := by
  unfold execQueueEntryVisible
  dsimp only
  repeat' first | with_reducible apply Frame.refl | exact rfl | with_reducible apply NextFrame.mk | with_reducible apply Frame.after (updBlock_frame ..) | intro _

theorem countConflict_frame (sector src : Nat) (s : State) : Frame [.mem] s (countConflict sector src s) := by
  unfold countConflict
  dsimp only [setMem_eq]
  repeat' first | with_reducible apply Frame.refl | exact rfl | with_reducible apply Frame.after (setMem_frame ..) | with_reducible apply Frame.foldl | intro _

theorem execPortNCycle_frame (block : Fin 1152) (u : WordUpset) (s : State) : NextFrame [.mem, .noc, .lnk, .mbx, .evt, .free] s (execPortNCycle block u s) := by
  unfold execPortNCycle
  dsimp only
  repeat' first | with_reducible apply Frame.refl | exact rfl | with_reducible apply NextFrame.mk | split | with_reducible apply Frame.after (countConflict_frame ..) | with_reducible apply Frame.after (noteEcc_frame ..) | with_reducible apply Frame.after (respond_frame ..) | with_reducible apply Frame.after (updBlock_frame ..) | with_reducible apply Frame.after (useFree_frame ..) | intro _

theorem execNocBlockRequest_frame (src : BitVec 8) (tag : BitVec 12) (s : State) : NextFrame [.mem, .noc] s (execNocBlockRequest src tag s) := by
  unfold execNocBlockRequest
  dsimp only
  repeat' first | with_reducible apply Frame.refl | exact rfl | with_reducible apply NextFrame.mk | split | with_reducible apply Frame.after (answerMesh_frame ..) | with_reducible apply Frame.after (dropMesh_frame ..) | with_reducible apply Frame.after (updBlock_frame ..) | intro _

theorem execPatrolRead_frame (block : Fin 1152) (u : WordUpset) (s : State) : NextFrame [.mem, .lnk, .mbx, .evt] s (execPatrolRead block u s) := by
  unfold execPatrolRead
  dsimp only
  repeat' first | with_reducible apply Frame.refl | exact rfl | with_reducible apply NextFrame.mk | split | with_reducible apply Frame.after (noteEcc_frame ..) | with_reducible apply Frame.after (updBlock_frame ..) | intro _

theorem execPatrolWriteback_frame (block : Fin 1152) (s : State) : NextFrame [.mem] s (execPatrolWriteback block s) := by
  unfold execPatrolWriteback
  dsimp only
  repeat' first | with_reducible apply Frame.refl | exact rfl | with_reducible apply NextFrame.mk | split | with_reducible apply Frame.after (updBlock_frame ..) | intro _

theorem execMemColumn_frame (block : Fin 1152) (group : Fin 9) (column : Fin 64) (s : State) : NextFrame [.start, .mem, .lnk, .mbx, .evt] s (execMemColumn block group column s) := by
  unfold execMemColumn
  dsimp only [setMem_eq]
  repeat' first | with_reducible apply Frame.refl | exact rfl | with_reducible apply NextFrame.mk | with_reducible apply Frame.after (setMem_frame ..) | split | with_reducible apply Frame.after (raise_frame ..) | with_reducible apply Frame.after (writeRecord_frame ..) | intro _

theorem leaveFifo_frame (g : Nat) (s : State) : Frame [.lnk, .dsp, .mbx, .evt] s (leaveFifo g s) := by
  unfold leaveFifo
  dsimp only [setDsp_eq]
  repeat' first | with_reducible apply Frame.refl | exact rfl | with_reducible apply Frame.after (setDsp_frame ..) | split | with_reducible apply Frame.forEach | with_reducible apply Frame.after (raise_frame ..) | intro _

theorem execSectorClearDone_frame (sector : Fin 8) (s : State) : NextFrame [.mem, .lnk, .dsp, .mbx, .evt] s (execSectorClearDone sector s) := by
  unfold execSectorClearDone
  dsimp only [setMem_eq]
  repeat' first | with_reducible apply Frame.refl | exact rfl | with_reducible apply NextFrame.mk | with_reducible apply Frame.after (setMem_frame ..) | split | with_reducible apply Frame.forEach | with_reducible apply Frame.after (leaveFifo_frame ..) | with_reducible apply Frame.after (updBlock_frame ..) | intro _

theorem setMode_frame (g : Nat) (mode : QMode) (capLog2 creditInit : Nat) (patrolEn : Bool) (s : State) : Frame [.mem, .lnk, .dsp, .mbx, .evt, .free] s (setMode g mode capLog2 creditInit patrolEn s) := by
  unfold setMode
  dsimp only
  repeat' first | with_reducible apply Frame.refl | exact rfl | split | with_reducible apply Frame.after (leaveFifo_frame ..) | with_reducible apply Frame.after (updBlock_frame ..) | with_reducible apply Frame.after (useFree_frame ..) | intro _

theorem bodyCfgMemMode_frame (block mode capLog2 creditInit : Nat) (patrolEn : Bool) (_org : Origin) (s : State) : AnsFrame [.mem, .lnk, .dsp, .mbx, .evt, .free] s (bodyCfgMemMode block mode capLog2 creditInit patrolEn _org s) := by
  unfold bodyCfgMemMode
  repeat' first | with_reducible apply Frame.refl | exact rfl | with_reducible apply AnsFrame.refuse | with_reducible apply AnsFrame.done | split | with_reducible apply Frame.after (setMode_frame ..) | with_reducible apply AnsFrame.lit | intro _ | exact Frame.refl _ _

theorem execCfgMemMode_frame (r : Req) (block : BitVec 11) (mode : BitVec 3) (capLog2 : BitVec 4) (creditInit : BitVec 14) (patrolEn : Bool) (s : State) : NextFrame [.mem, .lnk, .dsp, .mbx, .chans, .evt, .sec, .free] s (execCfgMemMode r block mode capLog2 creditInit patrolEn s) :=
  ⟨_, rfl, serve_frame (fun _ _ => (bodyCfgMemMode_frame ..).mono) (Frame.refl _ _)⟩

theorem bodyCfgMemStatus_frame (block : Nat) (_org : Origin) (s : State) : AnsFrame [] s (bodyCfgMemStatus block _org s) := by
  unfold bodyCfgMemStatus
  repeat' first | with_reducible apply Frame.refl | exact rfl | with_reducible apply AnsFrame.refuse | with_reducible apply AnsFrame.done | split | intro _ | with_reducible apply AnsFrame.lit | intro _ | exact Frame.refl _ _

theorem execCfgMemStatus_frame (r : Req) (block : BitVec 11) (s : State) : NextFrame [.lnk, .mbx, .chans, .evt, .sec] s (execCfgMemStatus r block s) :=
  ⟨_, rfl, serve_frame (fun _ _ => (bodyCfgMemStatus_frame ..).mono) (Frame.refl _ _)⟩

theorem startInit_frame (org : Option Origin) (index : Nat) (entries : List BlockEntry) (s : State) : Frame [.mem] s (startInit org index entries s) := by
  unfold startInit
  dsimp only [setMem_eq]
  repeat' first | with_reducible apply Frame.refl | exact rfl | with_reducible apply Frame.after (setMem_frame ..) | with_reducible apply Frame.forEach | with_reducible apply Frame.after (updBlock_frame ..) | intro _

theorem bodyCfgMemInit_frame (image : Nat) (org : Origin) (s : State) : AnsFrame [.mem] s (bodyCfgMemInit image org s) := by
  unfold bodyCfgMemInit
  dsimp only
  repeat' first | with_reducible apply Frame.refl | exact rfl | with_reducible apply AnsFrame.refuse | with_reducible apply AnsFrame.done | split | with_reducible apply Frame.after (startInit_frame ..) | intro _ | with_reducible apply AnsFrame.lit | intro _ | exact Frame.refl _ _

theorem execCfgMemInit_frame (r : Req) (image : BitVec 16) (s : State) : NextFrame [.mem, .lnk, .mbx, .chans, .evt, .sec] s (execCfgMemInit r image s) :=
  ⟨_, rfl, serve_frame (fun _ _ => (bodyCfgMemInit_frame ..).mono) (Frame.refl _ _)⟩

theorem applyEntry_frame (s : State) (e : BlockEntry) : Frame [.mem, .lnk, .dsp, .mbx, .evt, .free] s (applyEntry s e) := by
  unfold applyEntry
  dsimp only
  repeat' first | with_reducible apply Frame.refl | exact rfl | split | with_reducible apply Frame.after (setMode_frame ..) | with_reducible apply Frame.after (updBlock_frame ..)

theorem endInit_frame (j : InitJob) (crcOk : Bool) (reached words : Nat) (s : State) : Frame [.mem, .lnk, .dsp, .mbx, .evt, .free] s (endInit j crcOk reached words s) := by
  unfold endInit
  dsimp only [setMem_eq]
  repeat' first | with_reducible apply Frame.refl | exact rfl | with_reducible apply Frame.after (setMem_frame ..) | split | with_reducible apply Frame.foldl | with_reducible apply Frame.forEach | with_reducible apply Frame.after (applyEntry_frame ..) | with_reducible apply Frame.after (updBlock_frame ..) | intro _

theorem answerWrite_frame (src : BitVec 8) (addr : Nat) (st : Status) (s : State) : Frame [.noc] s (answerWrite src addr st s) := by
  unfold answerWrite
  repeat' first | with_reducible apply Frame.refl | exact rfl | split | with_reducible apply Frame.after (answerMesh_frame ..) | intro _

theorem addCreditWrite_frame (g v : Nat) (s : State) : Frame [.mem] s (addCreditWrite g v s) := by
  unfold addCreditWrite
  dsimp only
  repeat' first | with_reducible apply Frame.refl | exact rfl | split | with_reducible apply Frame.after (updBlock_frame ..) | intro _

theorem execQctlCreditReturnWrite_frame (src : BitVec 8) (block : Fin 1152) (value : BitVec 32) (s : State) : NextFrame [.mem, .noc] s (execQctlCreditReturnWrite src block value s) := by
  unfold execQctlCreditReturnWrite
  dsimp only
  repeat' first | with_reducible apply Frame.refl | exact rfl | with_reducible apply NextFrame.mk | split | with_reducible apply Frame.after (addCreditWrite_frame ..) | with_reducible apply Frame.after (answerWrite_frame ..)

theorem setCsel_frame (k i : Nat) (v : Byte) (s : State) : Frame [.mem] s (setCsel k i v s) := by
  unfold setCsel
  dsimp only [setMem_eq]
  repeat' first | with_reducible apply Frame.refl | exact rfl | with_reducible apply Frame.after (setMem_frame ..) | split

theorem clearConflicts_frame (k : Nat) (s : State) : Frame [.mem] s (clearConflicts k s) := by
  unfold clearConflicts
  dsimp only [setMem_eq]
  repeat' first | with_reducible apply Frame.refl | exact rfl | with_reducible apply Frame.after (setMem_frame ..) | intro _

theorem execMemCselWrite_frame (src : BitVec 8) (sector : Fin 8) (k : Fin 64) (value : BitVec 32) (s : State) : NextFrame [.mem, .noc] s (execMemCselWrite src sector k value s) := by
  unfold execMemCselWrite
  dsimp only
  repeat' first | with_reducible apply Frame.refl | exact rfl | with_reducible apply NextFrame.mk | split | with_reducible apply Frame.after (answerWrite_frame ..) | with_reducible apply Frame.after (setCsel_frame ..)

theorem execMemCctlClear_frame (src : BitVec 8) (sector : Fin 8) (value : BitVec 32) (s : State) : NextFrame [.mem, .noc] s (execMemCctlClear src sector value s) := by
  unfold execMemCctlClear
  dsimp only
  repeat' first | with_reducible apply Frame.refl | exact rfl | with_reducible apply NextFrame.mk | split | with_reducible apply Frame.after (answerWrite_frame ..) | with_reducible apply Frame.after (clearConflicts_frame ..)

theorem bodyLogMemConflict_frame (sector : Nat) (clear : Bool) (_org : Origin) (s : State) : AnsFrame [.mem] s (bodyLogMemConflict sector clear _org s) := by
  unfold bodyLogMemConflict
  dsimp only
  repeat' first | with_reducible apply Frame.refl | exact rfl | with_reducible apply AnsFrame.refuse | with_reducible apply AnsFrame.done | split | with_reducible apply Frame.after (clearConflicts_frame ..) | intro _ | with_reducible apply AnsFrame.lit | intro _ | exact Frame.refl _ _

theorem execLogMemConflict_frame (r : Req) (sector : BitVec 3) (clear : Bool) (s : State) : NextFrame [.mem, .lnk, .mbx, .chans, .evt, .sec] s (execLogMemConflict r sector clear s) :=
  ⟨_, rfl, serve_frame (fun _ _ => (bodyLogMemConflict_frame ..).mono) (Frame.refl _ _)⟩

theorem switchNow_frame (r : Nat) (s : State) : Frame [.load, .ctx, .fab, .lnk, .pins, .mbx, .evt] s (switchNow r s) := by
  unfold switchNow
  dsimp only
  repeat' first | with_reducible apply Frame.refl | exact rfl | split | with_reducible apply Frame.after (finishOpt_frame ..) | with_reducible apply Frame.after (releaseBanks_frame ..) | with_reducible apply Frame.after (updRegion_frame ..) | with_reducible apply Frame.after (zeroRouting_frame ..) | intro _

theorem ackSwitch_frame (r : Nat) (v : BitVec 2) (s : State) : Frame [.ctx] s (ackSwitch r v s) := by
  unfold ackSwitch
  repeat' first | with_reducible apply Frame.refl | exact rfl | with_reducible apply Frame.after (updRegion_frame ..) | intro _

theorem execRegionCtlSwitchRequest_frame (region : Fin 32) (slot : Fin 4) (init : Bool) (s : State) : NextFrame [.load, .ctx, .fab, .lnk, .pins, .mbx, .evt] s (execRegionCtlSwitchRequest region slot init s) := by
  unfold execRegionCtlSwitchRequest
  dsimp only
  repeat' first | with_reducible apply Frame.refl | exact rfl | with_reducible apply NextFrame.mk | split | with_reducible apply Frame.after (ackSwitch_frame ..) | with_reducible apply Frame.after (switchNow_frame ..) | with_reducible apply Frame.after (updRegion_frame ..) | intro _

theorem execRegionCtlSwitchEffect_frame (region : Fin 32) (s : State) : NextFrame [.load, .ctx, .fab, .lnk, .pins, .mbx, .evt] s (execRegionCtlSwitchEffect region s) := by
  unfold execRegionCtlSwitchEffect
  repeat' first | with_reducible apply Frame.refl | exact rfl | with_reducible apply NextFrame.mk | with_reducible apply Frame.after (switchNow_frame ..)

theorem execRegionResetEnd_frame (region : Fin 32) (s : State) : NextFrame [.load, .ctx, .pins] s (execRegionResetEnd region s) := by
  unfold execRegionResetEnd
  dsimp only
  repeat' first | with_reducible apply Frame.refl | exact rfl | with_reducible apply NextFrame.mk | split | with_reducible apply Frame.after (enterRunning_frame ..) | with_reducible apply Frame.after (updRegion_frame ..) | intro _

theorem windowSwitch_frame (a : Armed) (s : State) : Frame [.load, .ctx, .fab, .lnk, .pins, .mbx, .evt] s (windowSwitch a s) := by
  unfold windowSwitch
  dsimp only
  repeat' first | with_reducible apply Frame.refl | exact rfl | split | with_reducible apply Frame.after (finishOpt_frame ..) | with_reducible apply Frame.after (switchNow_frame ..) | with_reducible apply Frame.after (updRegion_frame ..) | intro _

theorem heldToReady_frame (r : Nat) (s : State) : Frame [.ctx] s (heldToReady r s) := by
  unfold heldToReady
  repeat' first | with_reducible apply Frame.refl | exact rfl | with_reducible apply Frame.after (updRegion_frame ..) | intro _

theorem windowAct_frame (a : Armed) (s : State) : Frame [.load, .ctx, .fab, .lnk, .pins, .mbx, .chans, .evt] s (windowAct a s).2 := by
  unfold windowAct
  dsimp only
  repeat' first | with_reducible apply Frame.refl | exact rfl | split | with_reducible apply Frame.after (enterRunning_frame ..) | with_reducible apply Frame.after (heldToReady_frame ..) | with_reducible apply Frame.after (leaveRunning_frame ..) | with_reducible apply Frame.after (startReset_frame ..)

theorem endArmed_frame (a : Armed) (st : Status) (s : State) : Frame [.load, .lnk, .mbx, .evt] s (endArmed a st s) := by
  unfold endArmed
  dsimp only [setLoad_eq]
  repeat' first | with_reducible apply Frame.refl | exact rfl | with_reducible apply Frame.after (setLoad_frame ..) | split | with_reducible apply Frame.after (finish_frame ..)

theorem execWindowBoundary_frame (s : State) : NextFrame [.load, .ctx, .fab, .lnk, .pins, .mbx, .chans, .evt] s (execWindowBoundary s) := by
  unfold execWindowBoundary
  dsimp only [setCtx_eq]
  repeat' first | with_reducible apply Frame.refl | exact rfl | with_reducible apply NextFrame.mk | with_reducible apply Frame.after (setCtx_frame ..) | split | with_reducible apply Frame.foldl | with_reducible apply Frame.after (endArmed_frame ..) | with_reducible apply Frame.after (windowAct_frame ..) | with_reducible apply Frame.after (windowSwitch_frame ..) | intro _

theorem armAll_frame (kind : ArmKind) (rs now : List Nat) (slot : Fin 4) (init : Bool) (at_ : Nat) (org : Origin) (s : State) : AnsFrame [.ctx, .lnk, .mbx, .evt] s (armAll kind rs now slot init at_ org s) := by
  unfold armAll
  dsimp only [setCtx_eq]
  repeat' first | with_reducible apply Frame.refl | exact rfl | with_reducible apply AnsFrame.refuse | with_reducible apply AnsFrame.done | with_reducible apply Frame.after (setCtx_frame ..) | split | with_reducible apply Frame.forEach | with_reducible apply Frame.after (finish_frame ..) | with_reducible apply Frame.after (heldToReady_frame ..) | intro _ | with_reducible apply AnsFrame.lit | intro _ | exact Frame.refl _ _

theorem bodyCtxArm_frame (kind : ArmKind) (mask slot : Nat) (init : Bool) (at_ : Nat) (org : Origin) (s : State) : AnsFrame [.ctx, .lnk, .mbx, .evt] s (bodyCtxArm kind mask slot init at_ org s) := by
  unfold bodyCtxArm
  repeat' first | with_reducible apply Frame.refl | exact rfl | with_reducible apply AnsFrame.refuse | with_reducible apply AnsFrame.done | with_reducible apply AnsFrame.on (armAll_frame ..) | split | with_reducible apply AnsFrame.lit | intro _ | exact Frame.refl _ _

theorem bodyCtxStop_frame (mask at_ : Nat) (org : Origin) (s : State) : AnsFrame [.ctx, .lnk, .mbx, .evt] s (bodyCtxStop mask at_ org s) := by
  unfold bodyCtxStop
  dsimp only
  repeat' first | with_reducible apply Frame.refl | exact rfl | with_reducible apply AnsFrame.refuse | with_reducible apply AnsFrame.done | with_reducible apply AnsFrame.on (armAll_frame ..) | split | with_reducible apply Frame.forEach | with_reducible apply Frame.after (heldToReady_frame ..) | intro _ | with_reducible apply AnsFrame.lit | intro _ | exact Frame.refl _ _

theorem execCtxSwitch_frame (r : Req) (mask : BitVec 32) (slot : BitVec 2) (init : Bool) (at_ : W64) (s : State) : NextFrame [.ctx, .lnk, .mbx, .chans, .evt, .sec] s (execCtxSwitch r mask slot init at_ s) :=
  ⟨_, rfl, serve_frame (fun _ _ => (bodyCtxArm_frame ..).mono) (Frame.refl _ _)⟩

theorem execCtxStart_frame (r : Req) (mask : BitVec 32) (slot : BitVec 2) (init : Bool) (at_ : W64) (s : State) : NextFrame [.ctx, .lnk, .mbx, .chans, .evt, .sec] s (execCtxStart r mask slot init at_ s) :=
  ⟨_, rfl, serve_frame (fun _ _ => (bodyCtxArm_frame ..).mono) (Frame.refl _ _)⟩

theorem execCtxHold_frame (r : Req) (mask : BitVec 32) (at_ : W64) (s : State) : NextFrame [.ctx, .lnk, .mbx, .chans, .evt, .sec] s (execCtxHold r mask at_ s) :=
  ⟨_, rfl, serve_frame (fun _ _ => (bodyCtxArm_frame ..).mono) (Frame.refl _ _)⟩

theorem execCtxResume_frame (r : Req) (mask : BitVec 32) (at_ : W64) (s : State) : NextFrame [.ctx, .lnk, .mbx, .chans, .evt, .sec] s (execCtxResume r mask at_ s) :=
  ⟨_, rfl, serve_frame (fun _ _ => (bodyCtxArm_frame ..).mono) (Frame.refl _ _)⟩

theorem execCtxStop_frame (r : Req) (mask : BitVec 32) (at_ : W64) (s : State) : NextFrame [.ctx, .lnk, .mbx, .chans, .evt, .sec] s (execCtxStop r mask at_ s) :=
  ⟨_, rfl, serve_frame (fun _ _ => (bodyCtxStop_frame ..).mono) (Frame.refl _ _)⟩

theorem execCtxReset_frame (r : Req) (mask : BitVec 32) (at_ : W64) (s : State) : NextFrame [.ctx, .lnk, .mbx, .chans, .evt, .sec] s (execCtxReset r mask at_ s) :=
  ⟨_, rfl, serve_frame (fun _ _ => (bodyCtxArm_frame ..).mono) (Frame.refl _ _)⟩

theorem bodyCtxStage_frame (mask ctx slot : Nat) (fast : Bool) (org : Origin) (s : State) : AnsFrame [.ctx, .lnk, .mbx, .evt] s (bodyCtxStage mask ctx slot fast org s) := by
  unfold bodyCtxStage
  dsimp only [setCtx_eq]
  repeat' first | with_reducible apply Frame.refl | exact rfl | with_reducible apply AnsFrame.refuse | with_reducible apply AnsFrame.done | with_reducible apply Frame.after (setCtx_frame ..) | split | with_reducible apply Frame.foldl | with_reducible apply Frame.after (finish_frame ..) | intro _ | with_reducible apply AnsFrame.lit | intro _ | exact Frame.refl _ _

theorem execCtxStage_frame (r : Req) (mask : BitVec 32) (context : BitVec 4) (slot : BitVec 2) (fast : Bool) (s : State) : NextFrame [.ctx, .lnk, .mbx, .chans, .evt, .sec] s (execCtxStage r mask context slot fast s) :=
  ⟨_, rfl, serve_frame (fun _ _ => (bodyCtxStage_frame ..).mono) (Frame.refl _ _)⟩

theorem useChannel_frame (x : ChanDesc × ChanObs) (s : State) : Frame [.lnk, .mbx] s (useChannel x s) := by
  unfold useChannel
  dsimp only [setLnk_eq]
  repeat' first | with_reducible apply Frame.refl | exact rfl | with_reducible apply Frame.after (setLnk_frame ..) | split | with_reducible apply Frame.after (sendMgmt_frame ..) | with_reducible apply Frame.after (updPort_frame ..)

theorem failStage_frame (j : StageJob) (st : Status) (check : Byte) (tile : BitVec 16) (s : State) : Frame [.load, .ctx, .lnk, .mbx, .evt] s (failStage j st check tile s) := by
  unfold failStage
  dsimp only [setCtx_eq]
  repeat' first | with_reducible apply Frame.refl | exact rfl | with_reducible apply Frame.after (setCtx_frame ..) | split | with_reducible apply Frame.after (emptySlot_frame ..) | with_reducible apply Frame.after (endStage_frame ..)

theorem grantShare_frame (chans : List ChanObs) (s : State) : Frame [.load, .ctx, .lnk, .mbx, .evt] s (grantShare chans s) := by
  unfold grantShare
  dsimp only [setCtx_eq]
  repeat' first | with_reducible apply Frame.refl | exact rfl | with_reducible apply Frame.after (setCtx_frame ..) | split | with_reducible apply Frame.foldl | with_reducible apply Frame.after (emptySlot_frame ..) | with_reducible apply Frame.after (failStage_frame ..) | with_reducible apply Frame.after (updRegion_frame ..) | with_reducible apply Frame.after (useChannel_frame ..) | intro _

theorem verifySlot_frame (r : Nat) (k : Fin 4) (ctx : BitVec 4) (c : Stored) (s : State) : Frame [.ctx, .fab, .pins] s (verifySlot r k ctx c s) := by
  unfold verifySlot
  dsimp only
  repeat' first | with_reducible apply Frame.refl | exact rfl | split | with_reducible apply Frame.after (presentBorders_frame ..) | with_reducible apply Frame.after (updRegion_frame ..) | intro _

theorem finishStaging_frame (r : Nat) (obs : StageObs) (s : State) : Frame [.load, .ctx, .fab, .lnk, .pins, .mbx, .evt] s (finishStaging r obs s) := by
  unfold finishStaging
  dsimp only [setCtx_eq]
  repeat' first | with_reducible apply Frame.refl | exact rfl | with_reducible apply Frame.after (setCtx_frame ..) | split | with_reducible apply Frame.after (endStage_frame ..) | with_reducible apply Frame.after (failStage_frame ..) | with_reducible apply Frame.after (verifySlot_frame ..) | intro _

theorem clearRegion_frame (r : Nat) (s : State) : Frame [.ctx, .lnk, .mbx] s (clearRegion r s) := by
  unfold clearRegion
  repeat' first | with_reducible apply Frame.refl | exact rfl | with_reducible apply Frame.after (emptyAll_frame ..) | with_reducible apply Frame.after (updRegion_frame ..) | intro _

theorem bodyCtxClear_frame (mask : Nat) (_org : Origin) (s : State) : AnsFrame [.ctx, .lnk, .mbx] s (bodyCtxClear mask _org s) := by
  unfold bodyCtxClear
  dsimp only
  repeat' first | with_reducible apply Frame.refl | exact rfl | with_reducible apply AnsFrame.refuse | with_reducible apply AnsFrame.done | split | with_reducible apply Frame.forEach | with_reducible apply Frame.after (clearRegion_frame ..) | intro _ | with_reducible apply AnsFrame.lit | intro _ | exact Frame.refl _ _

theorem execCtxClear_frame (r : Req) (mask : BitVec 32) (s : State) : NextFrame [.ctx, .lnk, .mbx, .chans, .evt, .sec] s (execCtxClear r mask s) :=
  ⟨_, rfl, serve_frame (fun _ _ => (bodyCtxClear_frame ..).mono) (Frame.refl _ _)⟩

theorem evictSlot_frame (k r : Nat) (s : State) : Frame [.ctx, .lnk, .mbx] s (evictSlot k r s) := by
  unfold evictSlot
  repeat' first | with_reducible apply Frame.refl | exact rfl | split | with_reducible apply Frame.after (emptySlot_frame ..) | with_reducible apply Frame.after (updRegion_frame ..) | intro _

theorem bodyCtxEvict_frame (mask slot : Nat) (_org : Origin) (s : State) : AnsFrame [.ctx, .lnk, .mbx] s (bodyCtxEvict mask slot _org s) := by
  unfold bodyCtxEvict
  dsimp only
  repeat' first | with_reducible apply Frame.refl | exact rfl | with_reducible apply AnsFrame.refuse | with_reducible apply AnsFrame.done | split | with_reducible apply Frame.forEach | with_reducible apply Frame.after (evictSlot_frame ..) | intro _ | with_reducible apply AnsFrame.lit | intro _ | exact Frame.refl _ _

theorem execCtxEvict_frame (r : Req) (mask : BitVec 32) (slot : BitVec 2) (s : State) : NextFrame [.ctx, .lnk, .mbx, .chans, .evt, .sec] s (execCtxEvict r mask slot s) :=
  ⟨_, rfl, serve_frame (fun _ _ => (bodyCtxEvict_frame ..).mono) (Frame.refl _ _)⟩

theorem bodyCtxStatus_frame (mask : Nat) (_org : Origin) (s : State) : AnsFrame [] s (bodyCtxStatus mask _org s) := by
  unfold bodyCtxStatus
  dsimp only
  repeat' first | with_reducible apply Frame.refl | exact rfl | with_reducible apply AnsFrame.refuse | with_reducible apply AnsFrame.done | split | intro _ | with_reducible apply AnsFrame.lit | intro _ | exact Frame.refl _ _

theorem execCtxStatus_frame (r : Req) (mask : BitVec 32) (s : State) : NextFrame [.lnk, .mbx, .chans, .evt, .sec] s (execCtxStatus r mask s) :=
  ⟨_, rfl, serve_frame (fun _ _ => (bodyCtxStatus_frame ..).mono) (Frame.refl _ _)⟩

theorem bodyCtxWindow_frame (p : Nat) (_org : Origin) (s : State) : AnsFrame [.ctx] s (bodyCtxWindow p _org s) := by
  unfold bodyCtxWindow
  dsimp only [setCtx_eq]
  repeat' first | with_reducible apply Frame.refl | exact rfl | with_reducible apply AnsFrame.refuse | with_reducible apply AnsFrame.done | with_reducible apply Frame.after (setCtx_frame ..) | split | with_reducible apply AnsFrame.lit | intro _ | exact Frame.refl _ _

theorem execCtxWindow_frame (r : Req) (p : BitVec 5) (s : State) : NextFrame [.ctx, .lnk, .mbx, .chans, .evt, .sec] s (execCtxWindow r p s) :=
  ⟨_, rfl, serve_frame (fun _ _ => (bodyCtxWindow_frame ..).mono) (Frame.refl _ _)⟩

end Sys2Proof.Machine
end

