-- ==== Sys2Proof/Laws/FrameFabric.lean ====
section
/-! SUPPORT. Frames of the fabric rows, the loader, the scrubber and repair. -/

set_option Elab.async false

namespace Sys2Proof.Machine

theorem markUnsync_frame (s : State) : Frame [.pins] s (markUnsync s) := by
  unfold markUnsync
  dsimp only [setPins_eq]
  repeat' first | with_reducible apply Frame.refl | exact rfl | with_reducible apply Frame.after (setPins_frame ..) | split | intro _

theorem execFabricClockCycle_frame (s : State) : NextFrame [.clk, .ctx, .fab, .noc, .pins] s (execFabricClockCycle s) := by
  unfold execFabricClockCycle
  dsimp only [setClkCtxNoc_eq]
  repeat' first | with_reducible apply Frame.refl | exact rfl | with_reducible apply NextFrame.mk | with_reducible apply Frame.after (setClkCtxNoc_frame ..) | split | with_reducible apply Frame.after (clockFabric_frame ..) | with_reducible apply Frame.after (markUnsync_frame ..)

theorem execCarryoverParity_frame (layer : Bool) (column row : Fin 24) (group : Fin 4) (upset : BitVec 17) (s : State) : NextFrame [.fab, .lnk, .mbx, .evt] s (execCarryoverParity layer column row group upset s) := by
  unfold execCarryoverParity
  dsimp only [setFab_eq]
  repeat' first | with_reducible apply Frame.refl | exact rfl | with_reducible apply NextFrame.mk | with_reducible apply Frame.after (setFab_frame ..) | split | with_reducible apply Frame.after (raise_frame ..)

theorem execConfigurationUpset_frame (region : Fin 32) (slot : Fin 4) (tile : Fin 36) (frame bit : Fin 1024) (s : State) : NextFrame [.ctx] s (execConfigurationUpset region slot tile frame bit s) := by
  unfold execConfigurationUpset
  repeat' first | with_reducible apply Frame.refl | exact rfl | with_reducible apply NextFrame.mk | split | with_reducible apply Frame.after (updRegion_frame ..) | intro _

theorem execBondPadFailure_frame (layer : Bool) (column row : Fin 24) (cluster : Fin 256) (wire : Fin 16) (s : State) : NextFrame [.start, .ctx, .fab, .lnk, .pins, .mbx, .chans, .evt] s (execBondPadFailure layer column row cluster wire s) := by
  unfold execBondPadFailure
  dsimp only [setStartMbx_eq]
  repeat' first | with_reducible apply Frame.refl | exact rfl | with_reducible apply NextFrame.mk | with_reducible apply Frame.after (setStartMbx_frame ..) | split | with_reducible apply Frame.after (retireVertical_frame ..)

theorem updJob_frame (f : LoadJob → LoadJob) (s : State) : Frame [.load] s (updJob f s) := by
  unfold updJob
  dsimp only [setLoad_eq]
  repeat' first | with_reducible apply Frame.refl | exact rfl | with_reducible apply Frame.after (setLoad_frame ..) | split

theorem failJob_frame (x : LoadFail) (s : State) : Frame [.load] s (failJob x s) := by
  unfold failJob
  repeat' first | with_reducible apply Frame.refl | exact rfl | split | with_reducible apply Frame.after (updJob_frame ..) | intro _

theorem setResult_frame (j : LoadJob) (x : LoadFail) (s : State) : Frame [.load] s (setResult j x s) := by
  unfold setResult
  dsimp only [setLoad_eq]
  repeat' first | with_reducible apply Frame.refl | exact rfl | with_reducible apply Frame.after (setLoad_frame ..) | split

theorem blankRegion_frame (r : Nat) (s : State) : Frame [.load, .ctx, .fab, .lnk, .pins, .mbx, .chans, .evt] s (blankRegion r s) := by
  unfold blankRegion
  repeat' first | with_reducible apply Frame.refl | exact rfl | split | with_reducible apply Frame.after (clearRegion_frame ..) | with_reducible apply Frame.after (endStagings_frame ..) | with_reducible apply Frame.after (leaveRunning_frame ..)

theorem bootFail_frame (x : LoadFail) (s : State) : Frame [.ext, .load, .ctx, .fab, .lnk, .pins, .mbx, .chans, .evt] s (bootFail x s) := by
  unfold bootFail
  dsimp only [setLoadCtx_eq]
  repeat' first | with_reducible apply Frame.refl | exact rfl | with_reducible apply Frame.after (setLoadCtx_frame ..) | with_reducible apply Frame.forEach | with_reducible apply Frame.after (assertError_frame ..) | with_reducible apply Frame.after (blankRegion_frame ..) | with_reducible apply Frame.after (finishOpt_frame ..) | intro _

theorem endFailed_frame (x : LoadFail) (s : State) : Frame [.ext, .load, .ctx, .fab, .lnk, .pins, .mbx, .chans, .evt] s (endFailed x s) := by
  unfold endFailed
  dsimp only [setLoad_eq]
  repeat' first | with_reducible apply Frame.refl | exact rfl | with_reducible apply Frame.after (setLoad_frame ..) | split | with_reducible apply Frame.after (bootFail_frame ..) | with_reducible apply Frame.after (finishOpt_frame ..) | with_reducible apply Frame.after (setResult_frame ..)

theorem startLoad_frame (org : Option Origin) (source : BitVec 2) (boot : Bool) (images : List (W64 × BitVec 32)) (s : State) : Frame [.load] s (startLoad org source boot images s) := by
  unfold startLoad
  dsimp only [setLoad_eq]
  repeat' first | with_reducible apply Frame.refl | exact rfl | with_reducible apply Frame.after (setLoad_frame ..) | split

theorem bootCheck_frame (s : State) : Frame [.ext, .load, .ctx, .fab, .mem, .lnk, .pins, .mbx, .chans, .evt] s (bootCheck s) := by
  unfold bootCheck
  dsimp only [setLoad_eq]
  dsimp only [setLoadCtx_eq]
  repeat' first | with_reducible apply Frame.refl | exact rfl | with_reducible apply Frame.after (setLoad_frame ..) | with_reducible apply Frame.after (setLoadCtx_frame ..) | split | with_reducible apply Frame.after (bootFail_frame ..) | with_reducible apply Frame.after (startInit_frame ..) | intro _

theorem execBootLoadStart_frame (dir : BootDir) (s : State) : NextFrame [.ext, .load, .ctx, .fab, .lnk, .pins, .mbx, .chans, .evt] s (execBootLoadStart dir s) := by
  unfold execBootLoadStart
  dsimp only
  repeat' first | with_reducible apply Frame.refl | exact rfl | with_reducible apply NextFrame.mk | split | with_reducible apply Frame.after (assertError_frame ..) | with_reducible apply Frame.after (endFailed_frame ..) | with_reducible apply Frame.after (startLoad_frame ..)

theorem execBootLoadComplete_frame (s : State) : NextFrame [.ext, .load, .lnk, .mbx, .evt] s (execBootLoadComplete s) := by
  unfold execBootLoadComplete
  dsimp only [setExtLoad_eq]
  repeat' first | with_reducible apply Frame.refl | exact rfl | with_reducible apply NextFrame.mk | with_reducible apply Frame.after (setExtLoad_frame ..) | split | with_reducible apply Frame.after (finishOpt_frame ..) | intro _

theorem consume_frame (n : Nat) (s : State) : Frame [.load] s (consume n s) := by
  unfold consume
  dsimp only [setLoad_eq]
  repeat' first | with_reducible apply Frame.refl | exact rfl | with_reducible apply Frame.after (setLoad_frame ..) | split

theorem execLoadImageHeader_frame (h : ImgHeader) (s : State) : NextFrame [.ext, .load, .ctx, .fab, .lnk, .pins, .mbx, .chans, .evt] s (execLoadImageHeader h s) := by
  unfold execLoadImageHeader
  dsimp only
  repeat' first | with_reducible apply Frame.refl | exact rfl | with_reducible apply NextFrame.mk | split | with_reducible apply Frame.after (consume_frame ..) | with_reducible apply Frame.after (endFailed_frame ..) | with_reducible apply Frame.after (failJob_frame ..) | with_reducible apply Frame.after (updJob_frame ..) | intro _

theorem execLoadFrameReceived_frame (x : LoadItem) (s : State) : NextFrame [.load] s (execLoadFrameReceived x s) := by
  unfold execLoadFrameReceived
  repeat' first | with_reducible apply Frame.refl | exact rfl | with_reducible apply NextFrame.mk | split | with_reducible apply Frame.after (consume_frame ..) | with_reducible apply Frame.after (updJob_frame ..) | intro _

theorem commitImage_frame (h : ImgHeader) (j : LoadJob) (s : State) : Frame [.load] s (commitImage h j s) := by
  unfold commitImage
  dsimp only [setLoad_eq]
  repeat' first | with_reducible apply Frame.refl | exact rfl | with_reducible apply Frame.after (setLoad_frame ..) | split | with_reducible apply Frame.foldl | intro _

theorem afterImage_frame (j : LoadJob) (s : State) : Frame [.ext, .load, .ctx, .fab, .mem, .lnk, .pins, .mbx, .chans, .evt] s (afterImage j s) := by
  unfold afterImage
  dsimp only [setLoad_eq]
  repeat' first | with_reducible apply Frame.refl | exact rfl | with_reducible apply Frame.after (setLoad_frame ..) | split | with_reducible apply Frame.after (bootCheck_frame ..) | with_reducible apply Frame.after (finishOpt_frame ..)

theorem execLoadImageEnd_frame (digest : BitVec 384) (tagOk : Bool) (s : State) : NextFrame [.ext, .load, .ctx, .fab, .mem, .lnk, .pins, .mbx, .chans, .evt] s (execLoadImageEnd digest tagOk s) := by
  unfold execLoadImageEnd
  dsimp only
  repeat' first | with_reducible apply Frame.refl | exact rfl | with_reducible apply NextFrame.mk | split | with_reducible apply Frame.after (afterImage_frame ..) | with_reducible apply Frame.after (commitImage_frame ..) | with_reducible apply Frame.after (consume_frame ..) | with_reducible apply Frame.after (endFailed_frame ..) | with_reducible apply Frame.after (setResult_frame ..)

theorem execStagingShareGrant_frame (chans : List ChanObs) (s : State) : NextFrame [.ext, .load, .ctx, .fab, .mem, .lnk, .pins, .mbx, .chans, .evt] s (execStagingShareGrant chans s) := by
  unfold execStagingShareGrant
  repeat' first | with_reducible apply Frame.refl | exact rfl | with_reducible apply NextFrame.mk | with_reducible apply Frame.after (bootCheck_frame ..) | with_reducible apply Frame.after (grantShare_frame ..)

theorem execStagingDone_frame (region : Fin 32) (obs : StageObs) (s : State) : NextFrame [.ext, .load, .ctx, .fab, .mem, .lnk, .pins, .mbx, .chans, .evt] s (execStagingDone region obs s) := by
  unfold execStagingDone
  repeat' first | with_reducible apply Frame.refl | exact rfl | with_reducible apply NextFrame.mk | with_reducible apply Frame.after (bootCheck_frame ..) | with_reducible apply Frame.after (finishStaging_frame ..)

theorem execMemInitDone_frame (crcOk : Bool) (reached words : Nat) (s : State) : NextFrame [.ext, .load, .ctx, .fab, .mem, .lnk, .dsp, .pins, .mbx, .chans, .evt, .free] s (execMemInitDone crcOk reached words s) := by
  unfold execMemInitDone
  dsimp only [setLoad_eq]
  repeat' first | with_reducible apply Frame.refl | exact rfl | with_reducible apply NextFrame.mk | with_reducible apply Frame.after (setLoad_frame ..) | split | with_reducible apply Frame.after (bootCheck_frame ..) | with_reducible apply Frame.after (endInit_frame ..) | with_reducible apply Frame.after (finish_frame ..)

theorem setWptr_frame (v : W64) (s : State) : Frame [.load] s (setWptr v s) := by
  unfold setWptr
  dsimp only [setLoad_eq]
  repeat' first | with_reducible apply Frame.refl | exact rfl | with_reducible apply Frame.after (setLoad_frame ..) | split

theorem execCfgWsWptrWrite_frame (src : BitVec 8) (value : W64) (s : State) : NextFrame [.load, .noc] s (execCfgWsWptrWrite src value s) := by
  unfold execCfgWsWptrWrite
  repeat' first | with_reducible apply Frame.refl | exact rfl | with_reducible apply NextFrame.mk | split | with_reducible apply Frame.after (answerWrite_frame ..) | with_reducible apply Frame.after (setWptr_frame ..)

theorem execJtagCfgStream_frame (bits : List Bool) (s : State) : NextFrame [.load] s (execJtagCfgStream bits s) := by
  unfold execJtagCfgStream
  dsimp only [setLoad_eq]
  repeat' first | with_reducible apply Frame.refl | exact rfl | with_reducible apply NextFrame.mk | with_reducible apply Frame.after (setLoad_frame ..) | split

theorem bodyCfgLoad_frame (source offset : Nat) (org : Origin) (s : State) : AnsFrame [.load] s (bodyCfgLoad source offset org s) := by
  unfold bodyCfgLoad
  dsimp only
  repeat' first | with_reducible apply Frame.refl | exact rfl | with_reducible apply AnsFrame.refuse | with_reducible apply AnsFrame.done | split | with_reducible apply Frame.after (startLoad_frame ..) | with_reducible apply AnsFrame.lit | intro _ | exact Frame.refl _ _

theorem execCfgLoad_frame (r : Req) (source : BitVec 2) (offset : BitVec 32) (s : State) : NextFrame [.load, .lnk, .mbx, .chans, .evt, .sec] s (execCfgLoad r source offset s) :=
  ⟨_, rfl, serve_frame (fun _ _ => (bodyCfgLoad_frame ..).mono) (Frame.refl _ _)⟩

theorem bodyCfgStatus_frame (_org : Origin) (s : State) : AnsFrame [] s (bodyCfgStatus _org s) := by
  unfold bodyCfgStatus
  dsimp only
  repeat' first | with_reducible apply Frame.refl | exact rfl | with_reducible apply AnsFrame.refuse | with_reducible apply AnsFrame.done | with_reducible apply AnsFrame.lit | intro _ | exact Frame.refl _ _

theorem execCfgStatus_frame (r : Req) (s : State) : NextFrame [.lnk, .mbx, .chans, .evt, .sec] s (execCfgStatus r s) :=
  ⟨_, rfl, serve_frame (fun _ _ => (bodyCfgStatus_frame ..).mono) (Frame.refl _ _)⟩

theorem bodyCfgList_frame (region : Nat) (_org : Origin) (s : State) : AnsFrame [] s (bodyCfgList region _org s) := by
  unfold bodyCfgList
  dsimp only
  repeat' first | with_reducible apply Frame.refl | exact rfl | with_reducible apply AnsFrame.refuse | with_reducible apply AnsFrame.done | with_reducible apply Frame.foldl | intro _ | with_reducible apply AnsFrame.lit | intro _ | exact Frame.refl _ _

theorem execCfgList_frame (r : Req) (region : BitVec 5) (s : State) : NextFrame [.lnk, .mbx, .chans, .evt, .sec] s (execCfgList r region s) :=
  ⟨_, rfl, serve_frame (fun _ _ => (bodyCfgList_frame ..).mono) (Frame.refl _ _)⟩

theorem bodyCfgDelete_frame (mask ctx : Nat) (_org : Origin) (s : State) : AnsFrame [.load] s (bodyCfgDelete mask ctx _org s) := by
  unfold bodyCfgDelete
  dsimp only [setLoad_eq]
  repeat' first | with_reducible apply Frame.refl | exact rfl | with_reducible apply AnsFrame.refuse | with_reducible apply AnsFrame.done | with_reducible apply Frame.after (setLoad_frame ..) | split | with_reducible apply Frame.foldl | intro _ | with_reducible apply AnsFrame.lit | intro _ | exact Frame.refl _ _

theorem execCfgDelete_frame (r : Req) (mask : BitVec 32) (context : BitVec 4) (s : State) : NextFrame [.load, .lnk, .mbx, .chans, .evt, .sec] s (execCfgDelete r mask context s) :=
  ⟨_, rfl, serve_frame (fun _ _ => (bodyCfgDelete_frame ..).mono) (Frame.refl _ _)⟩

theorem bodyCfgReadback_frame (region source number tile frame count wsOffset : Nat) (org : Origin) (s : State) : AnsFrame [.ctx] s (bodyCfgReadback region source number tile frame count wsOffset org s) := by
  unfold bodyCfgReadback
  dsimp only [setCtx_eq]
  repeat' first | with_reducible apply Frame.refl | exact rfl | with_reducible apply AnsFrame.refuse | with_reducible apply AnsFrame.done | with_reducible apply Frame.after (setCtx_frame ..) | split | with_reducible apply AnsFrame.lit | intro _ | exact Frame.refl _ _

theorem execCfgReadback_frame (r : Req) (region : BitVec 5) (source : BitVec 2) (number : BitVec 4) (tile : BitVec 11) (frame : BitVec 10) (count : BitVec 11) (wsOffset : BitVec 27) (s : State) : NextFrame [.ctx, .lnk, .mbx, .chans, .evt, .sec] s (execCfgReadback r region source number tile frame count wsOffset s) :=
  ⟨_, rfl, serve_frame (fun _ _ => (bodyCfgReadback_frame ..).mono) (Frame.refl _ _)⟩

theorem execReadbackDone_frame (s : State) : NextFrame [.load, .ctx, .lnk, .mbx, .evt] s (execReadbackDone s) := by
  unfold execReadbackDone
  dsimp only [setLoadCtx_eq]
  repeat' first | with_reducible apply Frame.refl | exact rfl | with_reducible apply NextFrame.mk | with_reducible apply Frame.after (setLoadCtx_frame ..) | split | with_reducible apply Frame.after (finish_frame ..) | intro _

theorem updStored_frame (key : Nat) (f : Stored → Stored) (s : State) : Frame [.load] s (updStored key f s) := by
  unfold updStored
  dsimp only [setLoad_eq]
  repeat' first | with_reducible apply Frame.refl | exact rfl | with_reducible apply Frame.after (setLoad_frame ..) | split

theorem updScrub_frame (f : Scrub → Scrub) (s : State) : Frame [.scrub] s (updScrub f s) := by
  unfold updScrub
  dsimp only [setScrub_eq]
  repeat' first | with_reducible apply Frame.refl | exact rfl | with_reducible apply Frame.after (setScrub_frame ..)

theorem mapFails_frame (r key : Nat) (c : Stored) (tile f : Nat) (s : State) : Frame [.load, .scrub, .lnk, .mbx, .evt] s (mapFails r key c tile f s) := by
  unfold mapFails
  repeat' first | with_reducible apply Frame.refl | exact rfl | split | with_reducible apply Frame.after (raise_frame ..) | with_reducible apply Frame.after (updScrub_frame ..) | with_reducible apply Frame.after (updStored_frame ..) | intro _

theorem correctFrame_frame (r k f : Nat) (golden : BitVec 1024) (s : State) : Frame [.ctx] s (correctFrame r k f golden s) := by
  unfold correctFrame
  repeat' first | with_reducible apply Frame.refl | exact rfl | with_reducible apply Frame.after (updRegion_frame ..) | intro _

theorem upsetAction_frame (r k f count : Nat) (s : State) : Frame [.ctx, .fab, .lnk, .pins, .mbx, .chans, .evt] s (upsetAction r k f count s) := by
  unfold upsetAction
  dsimp only
  repeat' first | with_reducible apply Frame.refl | exact rfl | split | with_reducible apply Frame.after (leaveRunning_frame ..) | with_reducible apply Frame.after (raise_frame ..) | with_reducible apply Frame.after (startReset_frame ..) | with_reducible apply Frame.after (updRegion_frame ..) | intro _

theorem goldenFails_frame (r k f key : Nat) (c : Stored) (s : State) : Frame [.load, .scrub, .ctx, .fab, .lnk, .pins, .mbx, .chans, .evt] s (goldenFails r k f key c s) := by
  unfold goldenFails
  dsimp only
  repeat' first | with_reducible apply Frame.refl | exact rfl | split | with_reducible apply Frame.after (loseSlot_frame ..) | with_reducible apply Frame.after (raise_frame ..) | with_reducible apply Frame.after (updScrub_frame ..) | with_reducible apply Frame.after (updStored_frame ..) | intro _

theorem compareFrame_frame (r k f : Nat) (c : Stored) (s : State) : Frame [.scrub, .ctx, .fab, .lnk, .pins, .mbx, .chans, .evt] s (compareFrame r k f c s) := by
  unfold compareFrame
  dsimp only
  repeat' first | with_reducible apply Frame.refl | exact rfl | split | with_reducible apply Frame.after (correctFrame_frame ..) | with_reducible apply Frame.after (updScrub_frame ..) | with_reducible apply Frame.after (upsetAction_frame ..) | intro _

theorem execScrubFrameCheck_frame (goldenUe mapUe vote : Bool) (s : State) : NextFrame [.load, .scrub, .ctx, .fab, .lnk, .pins, .mbx, .chans, .evt] s (execScrubFrameCheck goldenUe mapUe vote s) := by
  unfold execScrubFrameCheck
  dsimp only [setScrub_eq]
  repeat' first | with_reducible apply Frame.refl | exact rfl | with_reducible apply NextFrame.mk | with_reducible apply Frame.after (setScrub_frame ..) | split | with_reducible apply Frame.after (compareFrame_frame ..) | with_reducible apply Frame.after (goldenFails_frame ..) | with_reducible apply Frame.after (mapFails_frame ..) | with_reducible apply Frame.after (updScrub_frame ..)

theorem execScrubPassEnd_frame (us : BitVec 32) (s : State) : NextFrame [.scrub] s (execScrubPassEnd us s) := by
  unfold execScrubPassEnd
  dsimp only [setScrub_eq]
  repeat' first | with_reducible apply Frame.refl | exact rfl | with_reducible apply NextFrame.mk | with_reducible apply Frame.after (setScrub_frame ..) | split | intro _

theorem execScrubStallTimeout_frame (s : State) : NextFrame [.scrub, .lnk, .mbx, .evt] s (execScrubStallTimeout s) := by
  unfold execScrubStallTimeout
  dsimp only [setScrub_eq]
  repeat' first | with_reducible apply Frame.refl | exact rfl | with_reducible apply NextFrame.mk | with_reducible apply Frame.after (setScrub_frame ..) | split | with_reducible apply Frame.after (raise_frame ..)

theorem execStorePatrolRead_frame (region : Fin 32) (context : Fin 16) (tile : Fin 36) (frame : Fin 1024) (corrected uncorrectable : Bool) (s : State) : NextFrame [.load, .scrub, .lnk, .mbx, .evt] s (execStorePatrolRead region context tile frame corrected uncorrectable s) := by
  unfold execStorePatrolRead
  dsimp only
  repeat' first | with_reducible apply Frame.refl | exact rfl | with_reducible apply NextFrame.mk | split | with_reducible apply Frame.after (raise_frame ..) | with_reducible apply Frame.after (updScrub_frame ..) | with_reducible apply Frame.after (updStored_frame ..) | intro _

theorem bodyCfgScrubStatus_frame (_org : Origin) (s : State) : AnsFrame [] s (bodyCfgScrubStatus _org s) := by
  unfold bodyCfgScrubStatus
  dsimp only
  repeat' first | with_reducible apply Frame.refl | exact rfl | with_reducible apply AnsFrame.refuse | with_reducible apply AnsFrame.done | with_reducible apply AnsFrame.lit | intro _ | exact Frame.refl _ _

theorem execCfgScrubStatus_frame (r : Req) (s : State) : NextFrame [.lnk, .mbx, .chans, .evt, .sec] s (execCfgScrubStatus r s) :=
  ⟨_, rfl, serve_frame (fun _ _ => (bodyCfgScrubStatus_frame ..).mono) (Frame.refl _ _)⟩

theorem raiseFail_frame (row cause unit entry : Nat) (s : State) : Frame [.lnk, .mbx, .evt] s (raiseFail row cause unit entry s) := by
  unfold raiseFail
  repeat' first | with_reducible apply Frame.refl | exact rfl | with_reducible apply Frame.after (raise_frame ..)

theorem failRetire_frame (f : BistFail) (cause : Nat) (e : W64) (s : State) : Frame [.start, .lnk, .mbx, .evt] s (failRetire f cause e s) := by
  unfold failRetire
  repeat' first | with_reducible apply Frame.refl | exact rfl | with_reducible apply Frame.after (addMap_frame ..) | with_reducible apply Frame.after (raiseFail_frame ..)

theorem failColumn_frame (f : BistFail) (s : State) : Frame [.start, .mem, .lnk, .mbx, .evt] s (failColumn f s) := by
  unfold failColumn
  dsimp only
  repeat' first | with_reducible apply Frame.refl | exact rfl | split | with_reducible apply Frame.after (failRetire_frame ..) | with_reducible apply Frame.after (raiseFail_frame ..) | with_reducible apply Frame.after (updBlock_frame ..) | with_reducible apply Frame.after (writeRecord_frame ..) | intro _

theorem updStart_frame (f : Start → Start) (s : State) : Frame [.start] s (updStart f s) := by
  unfold updStart
  dsimp only [setStart_eq]
  repeat' first | with_reducible apply Frame.refl | exact rfl | with_reducible apply Frame.after (setStart_frame ..)

theorem bistFailed_frame (f : BistFail) (s : State) : Frame [.ext, .start, .mem, .lnk, .mbx, .evt] s (bistFailed f s) := by
  unfold bistFailed
  dsimp only
  repeat' first | with_reducible apply Frame.refl | exact rfl | split | with_reducible apply Frame.after (assertError_frame ..) | with_reducible apply Frame.after (failColumn_frame ..) | with_reducible apply Frame.after (failRetire_frame ..) | with_reducible apply Frame.after (raise_frame ..) | with_reducible apply Frame.after (raiseFail_frame ..) | with_reducible apply Frame.after (updStart_frame ..) | intro _

theorem noteFail_frame (f : BistFail) (s : State) : Frame [.ext, .start, .mem, .lnk, .mbx, .evt] s (noteFail f s) := by
  unfold noteFail
  repeat' first | with_reducible apply Frame.refl | exact rfl | with_reducible apply Frame.after (bistFailed_frame ..) | with_reducible apply Frame.after (updStart_frame ..) | intro _

theorem testedRegion_frame (r : Nat) (s : State) : Frame [.pwr, .load, .ctx, .noc, .lnk, .mbx, .chans, .evt] s (testedRegion r s) := by
  unfold testedRegion
  repeat' first | with_reducible apply Frame.refl | exact rfl | split | with_reducible apply Frame.after (regionRetire_frame ..) | with_reducible apply Frame.after (updRegion_frame ..) | intro _

theorem powerRegion_frame (r : Nat) (s : State) : Frame [.pwr] s (powerRegion r s) := by
  unfold powerRegion
  repeat' first | with_reducible apply Frame.refl | exact rfl | split | with_reducible apply Frame.after (updDom_frame ..) | intro _

theorem setTest_frame (r : Nat) (v : Byte) (s : State) : Frame [.start] s (setTest r v s) := by
  unfold setTest
  repeat' first | with_reducible apply Frame.refl | exact rfl | with_reducible apply Frame.after (updStart_frame ..) | intro _

theorem autoSkip_frame (layer : Bool) (s : State) : Frame [.start, .lnk, .mbx, .evt] s (autoSkip layer s) := by
  unfold autoSkip
  dsimp only
  repeat' first | with_reducible apply Frame.refl | exact rfl | split | with_reducible apply Frame.after (finish_frame ..) | with_reducible apply Frame.after (writeRecord_frame ..) | intro _

theorem finishBist_frame (s : State) : Frame [.start, .pwr, .load, .ctx, .noc, .lnk, .mbx, .chans, .evt] s (finishBist s) := by
  unfold finishBist
  dsimp only
  repeat' first | with_reducible apply Frame.refl | exact rfl | split | with_reducible apply Frame.forEach | with_reducible apply Frame.after (autoSkip_frame ..) | with_reducible apply Frame.after (powerRegion_frame ..) | with_reducible apply Frame.after (testedRegion_frame ..) | with_reducible apply Frame.after (updStart_frame ..) | intro _

theorem startRound_frame (s : State) : Frame [.start, .pwr, .load, .ctx, .fab, .noc, .lnk, .mbx, .chans, .evt] s (startRound s) := by
  unfold startRound
  dsimp only
  repeat' first | with_reducible apply Frame.refl | exact rfl | split | with_reducible apply Frame.forEach | with_reducible apply Frame.after (finishBist_frame ..) | with_reducible apply Frame.after (powerRegion_frame ..) | with_reducible apply Frame.after (setTest_frame ..) | with_reducible apply Frame.after (updRegion_frame ..) | with_reducible apply Frame.after (updStart_frame ..) | with_reducible apply Frame.after (zeroCarryOver_frame ..) | intro _

theorem endRegionTest_frame (fails : List BistFail) (excursion : BitVec 32) (r : Nat) (s : State) : Frame [.ext, .start, .pwr, .load, .ctx, .mem, .noc, .lnk, .mbx, .chans, .evt] s (endRegionTest fails excursion r s) := by
  unfold endRegionTest
  dsimp only
  repeat' first | with_reducible apply Frame.refl | exact rfl | split | with_reducible apply Frame.foldl | with_reducible apply Frame.after (addMap_frame ..) | with_reducible apply Frame.after (noteFail_frame ..) | with_reducible apply Frame.after (setTest_frame ..) | with_reducible apply Frame.after (testedRegion_frame ..) | with_reducible apply Frame.after (updRegion_frame ..) | with_reducible apply Frame.after (updStart_frame ..) | intro _

theorem execBistRoundDone_frame (fails : List BistFail) (excursion : BitVec 32) (s : State) : NextFrame [.ext, .start, .pwr, .load, .ctx, .fab, .mem, .noc, .lnk, .mbx, .chans, .evt] s (execBistRoundDone fails excursion s) := by
  unfold execBistRoundDone
  dsimp only
  repeat' first | with_reducible apply Frame.refl | exact rfl | with_reducible apply NextFrame.mk | split | with_reducible apply Frame.foldl | with_reducible apply Frame.forEach | with_reducible apply Frame.after (endRegionTest_frame ..) | with_reducible apply Frame.after (noteFail_frame ..) | with_reducible apply Frame.after (startRound_frame ..) | with_reducible apply Frame.after (updStart_frame ..) | intro _

theorem execValignStart_frame (s : State) : NextFrame [.start, .align, .fab] s (execValignStart s) := by
  unfold execValignStart
  dsimp only [setStartAlignFab_eq]
  repeat' first | with_reducible apply Frame.refl | exact rfl | with_reducible apply NextFrame.mk | with_reducible apply Frame.after (setStartAlignFab_frame ..) | split

theorem useSpare_frame (g : TsvGroup) (signal : Nat) (s : State) : Frame [.start, .lnk, .mbx, .evt] s (useSpare g signal s) := by
  unfold useSpare
  repeat' first | with_reducible apply Frame.refl | exact rfl | with_reducible apply Frame.after (raise_frame ..) | with_reducible apply Frame.after (updStart_frame ..) | intro _

theorem takeCrossing_frame (c : CrossObs) (s : State) : Frame [.start, .align, .ctx, .fab, .lnk, .pins, .mbx, .chans, .evt] s (takeCrossing c s) := by
  unfold takeCrossing
  dsimp only [setAlign_eq]
  repeat' first | with_reducible apply Frame.refl | exact rfl | with_reducible apply Frame.after (setAlign_frame ..) | split | with_reducible apply Frame.after (retireVertical_frame ..) | with_reducible apply Frame.after (useSpare_frame ..) | intro _

theorem execValignDone_frame (crossings : List CrossObs) (phi phi2 : BitVec 6) (s : State) : NextFrame [.start, .align, .clk, .ctx, .fab, .lnk, .pins, .mbx, .chans, .evt] s (execValignDone crossings phi phi2 s) := by
  unfold execValignDone
  dsimp only [setAlign_eq, setClk_eq]
  repeat' first | with_reducible apply Frame.refl | exact rfl | with_reducible apply NextFrame.mk | with_reducible apply Frame.after (setAlign_frame ..) | with_reducible apply Frame.after (setClk_frame ..) | split | with_reducible apply Frame.foldl | with_reducible apply Frame.after (finishOpt_frame ..) | with_reducible apply Frame.after (takeCrossing_frame ..) | intro _

theorem execValignTrackStep_frame (upper up : Bool) (s : State) : NextFrame [.align] s (execValignTrackStep upper up s) := by
  unfold execValignTrackStep
  dsimp only [setAlign_eq]
  repeat' first | with_reducible apply Frame.refl | exact rfl | with_reducible apply NextFrame.mk | with_reducible apply Frame.after (setAlign_frame ..) | split

theorem execValignLost_frame (upper : Bool) (phase : BitVec 8) (s : State) : NextFrame [.align, .ctx, .fab, .lnk, .pins, .mbx, .chans, .evt] s (execValignLost upper phase s) := by
  unfold execValignLost
  dsimp only [setAlign_eq]
  repeat' first | with_reducible apply Frame.refl | exact rfl | with_reducible apply NextFrame.mk | with_reducible apply Frame.after (setAlign_frame ..) | split | with_reducible apply Frame.forEach | with_reducible apply Frame.after (leaveRunning_frame ..) | with_reducible apply Frame.after (raise_frame ..) | intro _

theorem execTsvGroupSuspect_frame (g : TsvGroup) (s : State) : NextFrame [.start, .ctx, .fab, .lnk, .pins, .mbx, .chans, .evt] s (execTsvGroupSuspect g s) := by
  unfold execTsvGroupSuspect
  dsimp only
  repeat' first | with_reducible apply Frame.refl | exact rfl | with_reducible apply NextFrame.mk | split | with_reducible apply Frame.after (leaveRunning_frame ..) | with_reducible apply Frame.after (updRegion_frame ..) | with_reducible apply Frame.after (updStart_frame ..) | intro _

theorem walkTested_frame (g : TsvGroup) (signal : Nat) (s : State) : Frame [.start, .ctx, .fab, .lnk, .pins, .mbx, .chans, .evt] s (walkTested g signal s) := by
  unfold walkTested
  repeat' first | with_reducible apply Frame.refl | exact rfl | split | with_reducible apply Frame.after (retireVertical_frame ..) | with_reducible apply Frame.after (useSpare_frame ..)

theorem endSwapHold_frame (r : Nat) (s : State) : Frame [.load, .ctx, .pins] s (endSwapHold r s) := by
  unfold endSwapHold
  dsimp only
  repeat' first | with_reducible apply Frame.refl | exact rfl | split | with_reducible apply Frame.after (enterRunning_frame ..) | intro _

theorem execTsvSwapDone_frame (g : TsvGroup) (failed : Option (BitVec 16)) (s : State) : NextFrame [.start, .load, .ctx, .fab, .lnk, .pins, .mbx, .chans, .evt] s (execTsvSwapDone g failed s) := by
  unfold execTsvSwapDone
  dsimp only [setMbx_eq]
  repeat' first | with_reducible apply Frame.refl | exact rfl | with_reducible apply NextFrame.mk | with_reducible apply Frame.after (setMbx_frame ..) | split | with_reducible apply Frame.after (endSwapHold_frame ..) | with_reducible apply Frame.after (updStart_frame ..) | with_reducible apply Frame.after (walkTested_frame ..) | intro _

theorem execTsvWalkTest_frame (g : TsvGroup) (failed : Option (BitVec 16)) (s : State) : NextFrame [.start, .ctx, .fab, .lnk, .pins, .mbx, .chans, .evt] s (execTsvWalkTest g failed s) := by
  unfold execTsvWalkTest
  dsimp only
  repeat' first | with_reducible apply Frame.refl | exact rfl | with_reducible apply NextFrame.mk | split | with_reducible apply Frame.after (walkTested_frame ..)

theorem startTestsGo_frame (acc ts : List RegionTest) (s : State) :
    Frame [.start, .ctx, .fab] s (startTestsGo acc ts s) := by
  induction ts generalizing acc s with
  | nil =>
    unfold startTestsGo
    exact (updStart_frame ..).after (Frame.refl _ _)
  | cons t ts ih =>
    unfold startTestsGo
    split
    · exact ih ..
    · split
      · exact (ih ..).after ((zeroCarryOver_frame ..).after ((updRegion_frame ..).after (Frame.refl _ _)))
      · exact (updStart_frame ..).after (Frame.refl _ _)

theorem startTests_frame (s : State) : Frame [.start, .ctx, .fab] s (startTests s) := by
  unfold startTests
  repeat' first | with_reducible apply Frame.refl | exact rfl | with_reducible apply Frame.after (startTestsGo_frame ..)

theorem abortTest_frame (r : Nat) (st : Status) (s : State) : Frame [.start, .ctx, .fab, .lnk, .mbx, .evt] s (abortTest r st s) := by
  unfold abortTest
  dsimp only
  repeat' first | with_reducible apply Frame.refl | exact rfl | split | with_reducible apply Frame.after (finish_frame ..) | with_reducible apply Frame.after (setTest_frame ..) | with_reducible apply Frame.after (startTests_frame ..) | with_reducible apply Frame.after (updRegion_frame ..) | with_reducible apply Frame.after (updStart_frame ..) | intro _

theorem bodyTstRegion_frame (mask parallel : Nat) (org : Origin) (s : State) : AnsFrame [.start, .ctx, .fab, .lnk, .mbx, .evt] s (bodyTstRegion mask parallel org s) := by
  unfold bodyTstRegion
  dsimp only
  repeat' first | with_reducible apply Frame.refl | exact rfl | with_reducible apply AnsFrame.refuse | with_reducible apply AnsFrame.done | split | with_reducible apply Frame.forEach | with_reducible apply Frame.after (finish_frame ..) | with_reducible apply Frame.after (setTest_frame ..) | with_reducible apply Frame.after (startTests_frame ..) | with_reducible apply Frame.after (updRegion_frame ..) | with_reducible apply Frame.after (updStart_frame ..) | intro _ | with_reducible apply AnsFrame.lit | intro _ | exact Frame.refl _ _

theorem execTstRegion_frame (r : Req) (mask : BitVec 32) (parallel : BitVec 3) (s : State) : NextFrame [.start, .ctx, .fab, .lnk, .mbx, .chans, .evt, .sec] s (execTstRegion r mask parallel s) :=
  ⟨_, rfl, serve_frame (fun _ _ => (bodyTstRegion_frame ..).mono) (Frame.refl _ _)⟩

theorem execRegionTestDone_frame (region : Fin 32) (fails : List BistFail) (excursion : Bool) (s : State) : NextFrame [.start, .pwr, .load, .ctx, .fab, .noc, .lnk, .pins, .mbx, .chans, .evt] s (execRegionTestDone region fails excursion s) := by
  unfold execRegionTestDone
  dsimp only
  repeat' first | with_reducible apply Frame.refl | exact rfl | with_reducible apply NextFrame.mk | split | with_reducible apply Frame.foldl | with_reducible apply Frame.after (abortTest_frame ..) | with_reducible apply Frame.after (addMap_frame ..) | with_reducible apply Frame.after (applyRetire_frame ..) | with_reducible apply Frame.after (finish_frame ..) | with_reducible apply Frame.after (raiseFail_frame ..) | with_reducible apply Frame.after (regionRetire_frame ..) | with_reducible apply Frame.after (setTest_frame ..) | with_reducible apply Frame.after (startTests_frame ..) | with_reducible apply Frame.after (updRegion_frame ..) | with_reducible apply Frame.after (updStart_frame ..) | intro _

theorem bodyTstMemory_frame (block count : Nat) (org : Origin) (s : State) : AnsFrame [.start, .mem] s (bodyTstMemory block count org s) := by
  unfold bodyTstMemory
  dsimp only
  repeat' first | with_reducible apply Frame.refl | exact rfl | with_reducible apply AnsFrame.refuse | with_reducible apply AnsFrame.done | split | with_reducible apply Frame.forEach | with_reducible apply Frame.after (updBlock_frame ..) | with_reducible apply Frame.after (updStart_frame ..) | intro _ | with_reducible apply AnsFrame.lit | intro _ | exact Frame.refl _ _

theorem execTstMemory_frame (r : Req) (block count : BitVec 11) (s : State) : NextFrame [.start, .mem, .lnk, .mbx, .chans, .evt, .sec] s (execTstMemory r block count s) :=
  ⟨_, rfl, serve_frame (fun _ _ => (bodyTstMemory_frame ..).mono) (Frame.refl _ _)⟩

theorem execMemoryTestDone_frame (fails : List (Fin 1152)) (s : State) : NextFrame [.start, .mem, .lnk, .mbx, .evt] s (execMemoryTestDone fails s) := by
  unfold execMemoryTestDone
  dsimp only
  repeat' first | with_reducible apply Frame.refl | exact rfl | with_reducible apply NextFrame.mk | split | with_reducible apply Frame.foldl | with_reducible apply Frame.forEach | with_reducible apply Frame.after (finish_frame ..) | with_reducible apply Frame.after (raiseFail_frame ..) | with_reducible apply Frame.after (updBlock_frame ..) | with_reducible apply Frame.after (updStart_frame ..) | intro _

theorem bodyTstAnalog_frame (unit index : Nat) (org : Origin) (s : State) : AnsFrame [.start] s (bodyTstAnalog unit index org s) := by
  unfold bodyTstAnalog
  repeat' first | with_reducible apply Frame.refl | exact rfl | with_reducible apply AnsFrame.refuse | with_reducible apply AnsFrame.done | split | with_reducible apply Frame.after (updStart_frame ..) | intro _ | with_reducible apply AnsFrame.lit | intro _ | exact Frame.refl _ _

theorem execTstAnalog_frame (r : Req) (unit : BitVec 2) (index : BitVec 5) (s : State) : NextFrame [.start, .lnk, .mbx, .chans, .evt, .sec] s (execTstAnalog r unit index s) :=
  ⟨_, rfl, serve_frame (fun _ _ => (bodyTstAnalog_frame ..).mono) (Frame.refl _ _)⟩

theorem execAnalogTestDone_frame (ok : Bool) (s : State) : NextFrame [.start, .lnk, .mbx, .evt] s (execAnalogTestDone ok s) := by
  unfold execAnalogTestDone
  repeat' first | with_reducible apply Frame.refl | exact rfl | with_reducible apply NextFrame.mk | split | with_reducible apply Frame.after (finishOpt_frame ..) | with_reducible apply Frame.after (updStart_frame ..) | intro _

theorem bodyTstStatus_frame (_org : Origin) (s : State) : AnsFrame [.free] s (bodyTstStatus _org s) := by
  unfold bodyTstStatus
  repeat' first | with_reducible apply Frame.refl | exact rfl | with_reducible apply AnsFrame.refuse | with_reducible apply AnsFrame.done | with_reducible apply Frame.after (useFree_frame ..) | intro _ | with_reducible apply AnsFrame.lit | intro _ | exact Frame.refl _ _

theorem execTstStatus_frame (r : Req) (s : State) : NextFrame [.lnk, .mbx, .chans, .evt, .sec, .free] s (execTstStatus r s) :=
  ⟨_, rfl, serve_frame (fun _ _ => (bodyTstStatus_frame ..).mono) (Frame.refl _ _)⟩

theorem bodyRprStatus_frame (_org : Origin) (s : State) : AnsFrame [] s (bodyRprStatus _org s) := by
  unfold bodyRprStatus
  dsimp only
  repeat' first | with_reducible apply Frame.refl | exact rfl | with_reducible apply AnsFrame.refuse | with_reducible apply AnsFrame.done | intro _ | with_reducible apply AnsFrame.lit | intro _ | exact Frame.refl _ _

theorem execRprStatus_frame (r : Req) (s : State) : NextFrame [.lnk, .mbx, .chans, .evt, .sec] s (execRprStatus r s) :=
  ⟨_, rfl, serve_frame (fun _ _ => (bodyRprStatus_frame ..).mono) (Frame.refl _ _)⟩

theorem bodyRprMap_frame (first count : Nat) (_org : Origin) (s : State) : AnsFrame [] s (bodyRprMap first count _org s) := by
  unfold bodyRprMap
  dsimp only
  repeat' first | with_reducible apply Frame.refl | exact rfl | with_reducible apply AnsFrame.refuse | with_reducible apply AnsFrame.done | split | intro _ | with_reducible apply AnsFrame.lit | intro _ | exact Frame.refl _ _

theorem execRprMap_frame (r : Req) (first : BitVec 12) (count : BitVec 8) (s : State) : NextFrame [.lnk, .mbx, .chans, .evt, .sec] s (execRprMap r first count s) :=
  ⟨_, rfl, serve_frame (fun _ _ => (bodyRprMap_frame ..).mono) (Frame.refl _ _)⟩

theorem recordSkip_frame (layer : Bool) (p : Nat) (s : State) : Frame [.start] s (recordSkip layer p s) := by
  unfold recordSkip
  repeat' first | with_reducible apply Frame.refl | exact rfl | split | with_reducible apply Frame.after (writeRecord_frame ..) | intro _

theorem zeroLayer_frame (layer : Bool) (s : State) : Frame [.fab, .pins] s (zeroLayer layer s) := by
  unfold zeroLayer
  dsimp only [setFab_eq]
  repeat' first | with_reducible apply Frame.refl | exact rfl | with_reducible apply Frame.after (setFab_frame ..) | split | with_reducible apply Frame.forEach | with_reducible apply Frame.after (updPin_frame ..) | intro _

theorem bodyRprSkip_frame (layer : Bool) (p : Nat) (when_ : Bool) (org : Origin) (s : State) : AnsFrame [.start, .fab, .pins] s (bodyRprSkip layer p when_ org s) := by
  unfold bodyRprSkip
  repeat' first | with_reducible apply Frame.refl | exact rfl | with_reducible apply AnsFrame.refuse | with_reducible apply AnsFrame.done | split | with_reducible apply Frame.after (recordSkip_frame ..) | with_reducible apply Frame.after (updStart_frame ..) | with_reducible apply Frame.after (zeroLayer_frame ..) | intro _ | with_reducible apply AnsFrame.lit | intro _ | exact Frame.refl _ _

theorem execRprSkip_frame (r : Req) (layer : Bool) (s_ : BitVec 5) (when_ : Bool) (s : State) : NextFrame [.start, .fab, .lnk, .pins, .mbx, .chans, .evt, .sec] s (execRprSkip r layer s_ when_ s) :=
  ⟨_, rfl, serve_frame (fun _ _ => (bodyRprSkip_frame ..).mono) (Frame.refl _ _)⟩

theorem execSkipChangeDone_frame (crossings : List CrossObs) (s : State) : NextFrame [.start, .align, .ctx, .fab, .lnk, .pins, .mbx, .chans, .evt] s (execSkipChangeDone crossings s) := by
  unfold execSkipChangeDone
  dsimp only [setStartAlign_eq]
  repeat' first | with_reducible apply Frame.refl | exact rfl | with_reducible apply NextFrame.mk | with_reducible apply Frame.after (setStartAlign_frame ..) | split | with_reducible apply Frame.foldl | with_reducible apply Frame.after (finishOpt_frame ..) | with_reducible apply Frame.after (recordSkip_frame ..) | with_reducible apply Frame.after (takeCrossing_frame ..) | intro _

theorem bodyRprRetire_frame (entry : W64) (action : Bool) (_org : Origin) (s : State) : AnsFrame [.start, .pwr, .load, .ctx, .fab, .noc, .lnk, .pins, .mbx, .chans, .evt] s (bodyRprRetire entry action _org s) := by
  unfold bodyRprRetire
  dsimp only
  repeat' first | with_reducible apply Frame.refl | exact rfl | with_reducible apply AnsFrame.refuse | with_reducible apply AnsFrame.done | split | with_reducible apply Frame.after (abortTest_frame ..) | with_reducible apply Frame.after (addMap_frame ..) | with_reducible apply Frame.after (applyRetire_frame ..) | with_reducible apply Frame.after (regionRetire_frame ..) | with_reducible apply Frame.after (updStart_frame ..) | with_reducible apply Frame.after (writeRecord_frame ..) | intro _ | with_reducible apply AnsFrame.lit | intro _ | exact Frame.refl _ _

theorem execRprRetire_frame (r : Req) (entry : W64) (action : Bool) (s : State) : NextFrame [.start, .pwr, .load, .ctx, .fab, .noc, .lnk, .pins, .mbx, .chans, .evt, .sec] s (execRprRetire r entry action s) :=
  ⟨_, rfl, serve_frame (fun _ _ => (bodyRprRetire_frame ..).mono) (Frame.refl _ _)⟩

theorem bodyRprRecord_frame (action value offset : Nat) (_org : Origin) (s : State) : AnsFrame [.start, .lnk, .mbx, .evt] s (bodyRprRecord action value offset _org s) := by
  unfold bodyRprRecord
  repeat' first | with_reducible apply Frame.refl | exact rfl | with_reducible apply AnsFrame.refuse | with_reducible apply AnsFrame.done | split | with_reducible apply Frame.after (autoSkip_frame ..) | with_reducible apply Frame.after (writeRecord_frame ..) | intro _ | with_reducible apply AnsFrame.lit | intro _ | exact Frame.refl _ _

theorem execRprRecord_frame (r : Req) (action : BitVec 2) (value : BitVec 8) (offset : BitVec 13) (s : State) : NextFrame [.start, .lnk, .mbx, .chans, .evt, .sec] s (execRprRecord r action value offset s) :=
  ⟨_, rfl, serve_frame (fun _ _ => (bodyRprRecord_frame ..).mono) (Frame.refl _ _)⟩

theorem execRepairRecordWrite_frame (s : State) : NextFrame [.start] s (execRepairRecordWrite s) := by
  unfold execRepairRecordWrite
  repeat' first | with_reducible apply Frame.refl | exact rfl | with_reducible apply NextFrame.mk | split | with_reducible apply Frame.after (writeRecord_frame ..)

end Sys2Proof.Machine
end

