-- ==== Sys2Proof/Laws/FrameDram.lean ====
section
/-! SUPPORT. Frames of DRAM, protection, the task dispatcher and the pins. -/

set_option Elab.async false

namespace Sys2Proof.Machine

theorem updSub_frame (c : Nat) (sub : Bool) (f : SubChan → SubChan) (s : State) : Frame [.dram] s (updSub c sub f s) := by
  unfold updSub
  repeat' first | with_reducible apply Frame.refl | exact rfl | with_reducible apply Frame.after (updDchan_frame ..) | intro _

theorem holdBank_frame (c : Nat) (s : State) : Frame [.dram] s (holdBank c s) := by
  unfold holdBank
  repeat' first | with_reducible apply Frame.refl | exact rfl | split | with_reducible apply Frame.after (updSub_frame ..) | intro _

theorem askRepair_frame (c : Nat) (x : DramLoc) (org : Option Origin) (s : State) : Frame [.dram] s (askRepair c x org s) := by
  unfold askRepair
  repeat' first | with_reducible apply Frame.refl | exact rfl | split | with_reducible apply Frame.after (holdBank_frame ..) | with_reducible apply Frame.after (updDchan_frame ..) | intro _

theorem candidate_frame (c : Nat) (x : DramLoc) (s : State) : Frame [.dram, .lnk, .mbx, .evt] s (candidate c x s) := by
  unfold candidate
  dsimp only
  repeat' first | with_reducible apply Frame.refl | exact rfl | split | with_reducible apply Frame.after (askRepair_frame ..) | with_reducible apply Frame.after (raise_frame ..) | with_reducible apply Frame.after (updDchan_frame ..) | intro _

theorem dramCorrected_frame (c : Nat) (x : DramLoc) (s : State) : Frame [.dram, .lnk, .mbx, .evt] s (dramCorrected c x s) := by
  unfold dramCorrected
  dsimp only
  repeat' first | with_reducible apply Frame.refl | exact rfl | split | with_reducible apply Frame.after (candidate_frame ..) | with_reducible apply Frame.after (updDchan_frame ..) | intro _

theorem dramUncorrectable_frame (c : Nat) (x : DramLoc) (s : State) : Frame [.dram, .lnk, .mbx, .evt] s (dramUncorrectable c x s) := by
  unfold dramUncorrectable
  repeat' first | with_reducible apply Frame.refl | exact rfl | with_reducible apply Frame.after (candidate_frame ..) | with_reducible apply Frame.after (raise_frame ..) | with_reducible apply Frame.after (updDchan_frame ..) | intro _

theorem judgeLine_frame (q : NocReq) (find : EngineFind) (l : Nat) (s : State) : Frame [.prt, .lnk, .mbx, .evt] s (judgeLine q find l s).2 := by
  unfold judgeLine
  dsimp only
  repeat' first | with_reducible apply Frame.refl | exact rfl | split | with_reducible apply Frame.after (engineFind_frame ..) | with_reducible apply Frame.after (touchCache_frame ..)

theorem judgeLines_frame (q : NocReq) (f : EngineFind) (ls : List Nat) (s : State) :
    Frame [.prt, .lnk, .mbx, .evt] s (judgeLines q f ls s).state := by
  induction ls generalizing f s with
  | nil =>
    unfold judgeLines
    exact Frame.refl _ _
  | cons l ls ih =>
    unfold judgeLines
    dsimp only
    split
    · exact (ih ..).after ((judgeLine_frame ..).after (Frame.refl _ _))
    · exact (ih ..).after ((judgeLine_frame ..).after (Frame.refl _ _))

theorem endJob_frame (j : DramJob) (s : State) : Frame [.noc, .dram] s (endJob j s) := by
  unfold endJob
  dsimp only [setDram_eq]
  repeat' first | with_reducible apply Frame.refl | exact rfl | with_reducible apply Frame.after (setDram_frame ..) | with_reducible apply Frame.after (respond_frame ..) | intro _

theorem execDramRequest_frame (src : BitVec 8) (tag : BitVec 12) (find : EngineFind) (s : State) : NextFrame [.noc, .dram, .prt, .lnk, .mbx, .evt] s (execDramRequest src tag find s) := by
  unfold execDramRequest
  dsimp only [setDram_eq]
  repeat' first | with_reducible apply Frame.refl | exact rfl | with_reducible apply NextFrame.mk | with_reducible apply Frame.after (setDram_frame ..) | split | with_reducible apply Frame.foldl | with_reducible apply Frame.after (answerMesh_frame ..) | with_reducible apply Frame.after (dropMesh_frame ..) | with_reducible apply Frame.after (endJob_frame ..) | with_reducible apply Frame.after (updSub_frame ..) | with_reducible apply Frame.after (judgeLines_frame ..) | intro _

theorem strikeLine_frame (u : LineUpset) (l : Nat) (s : State) : Frame [.dram] s (strikeLine u l s) := by
  unfold strikeLine
  repeat' first | with_reducible apply Frame.refl | exact rfl | split | with_reducible apply Frame.after (lineStore_frame ..)

theorem raiseCounter_frame {i l : Nat} {s t : State} (h : raiseCounter i l s = .done t) : Frame [.prt] s t := by
  unfold raiseCounter at h
  dsimp only at h
  repeat' split at h
  all_goals cases h
  all_goals first
    | exact (updPage_frame ..).after (Frame.refl _ _)
    | exact (updPage_frame ..).after ((convertPage_frame ..).after (Frame.refl _ _))
    | exact (updPage_frame ..).after ((convertPage_frame ..).after ((beginAdvance_frame ..).after (Frame.refl _ _)))

theorem writeLine_frame (l : Nat) (d : BitVec 512) (s : State) : Frame [.dram, .prt] s (writeLine l d s).2 := by
  unfold writeLine
  split
  · exact (lineStore_frame ..).after (Frame.refl _ _)
  · split
    · rename_i h
      dsimp only
      refine Frame.after (w := [.prt]) (updPrt_frame ?_ _) ?_
      · exact fun _ => rfl
      · exact (lineStore_frame ..).after ((raiseCounter_frame h).after (Frame.refl _ _))
    · exact Frame.refl _ _

theorem performLine_frame (c : Nat) (o : LineOp) (q : NocReq) (u : LineUpset) (s : State) : Frame [.dram, .prt, .lnk, .mbx, .evt, .free] s (performLine c o q u s).2.2 := by
  unfold performLine
  dsimp only
  repeat' first | with_reducible apply Frame.refl | exact rfl | split | with_reducible apply Frame.after (dramCorrected_frame ..) | with_reducible apply Frame.after (dramUncorrectable_frame ..) | with_reducible apply Frame.after (lineFails_frame ..) | with_reducible apply Frame.after (lineRead_frame ..) | with_reducible apply Frame.after (strikeLine_frame ..) | with_reducible apply Frame.after (writeLine_frame ..)

theorem serveOp_frame (c : Nat) (sub : Bool) (o : LineOp) (u : LineUpset) (nrr : Bool) (s : State) : Frame [.noc, .dram, .prt, .lnk, .mbx, .evt, .free] s (serveOp c sub o u nrr s) := by
  unfold serveOp
  dsimp only [setDram_eq]
  repeat' first | with_reducible apply Frame.refl | exact rfl | with_reducible apply Frame.after (setDram_frame ..) | split | with_reducible apply Frame.after (endJob_frame ..) | with_reducible apply Frame.after (performLine_frame ..) | with_reducible apply Frame.after (updDchan_frame ..) | with_reducible apply Frame.after (updSub_frame ..) | intro _

theorem execDramServe_frame (channel : Fin 8) (sub : Bool) (u : LineUpset) (nrr : Bool) (s : State) : NextFrame [.noc, .dram, .prt, .lnk, .mbx, .evt, .free] s (execDramServe channel sub u nrr s) := by
  unfold execDramServe
  dsimp only
  repeat' first | with_reducible apply Frame.refl | exact rfl | with_reducible apply NextFrame.mk | split | with_reducible apply Frame.after (serveOp_frame ..)

theorem execAgePromotion_frame (channel : Fin 8) (sub : Bool) (pick : Nat) (s : State) : NextFrame [.dram] s (execAgePromotion channel sub pick s) := by
  unfold execAgePromotion
  repeat' first | with_reducible apply Frame.refl | exact rfl | with_reducible apply NextFrame.mk | split | with_reducible apply Frame.after (updSub_frame ..) | intro _

theorem execRefreshTimer_frame (channel : Fin 8) (sub : Bool) (s : State) : NextFrame [.dram] s (execRefreshTimer channel sub s) := by
  unfold execRefreshTimer
  repeat' first | with_reducible apply Frame.refl | exact rfl | with_reducible apply NextFrame.mk | split | with_reducible apply Frame.after (updSub_frame ..) | intro _

theorem dropOps_frame (ids : List Nat) (s : State) : Frame [.dram] s (dropOps ids s) := by
  unfold dropOps
  repeat' first | with_reducible apply Frame.refl | exact rfl | with_reducible apply Frame.foldl | with_reducible apply Frame.forEach | with_reducible apply Frame.after (updSub_frame ..) | intro _

theorem endChannelJobs_frame (c : Nat) (st : Status) (s : State) : Frame [.noc, .dram] s (endChannelJobs c st s) := by
  unfold endChannelJobs
  dsimp only
  repeat' first | with_reducible apply Frame.refl | exact rfl | with_reducible apply Frame.foldl | with_reducible apply Frame.after (dropOps_frame ..) | with_reducible apply Frame.after (endJob_frame ..) | intro _

theorem switchStep_frame (c : Nat) (failed : Bool) (s : State) : Frame [.dram, .lnk, .mbx, .evt] s (switchStep c failed s) := by
  unfold switchStep
  dsimp only [setDram_eq]
  repeat' first | with_reducible apply Frame.refl | exact rfl | with_reducible apply Frame.after (setDram_frame ..) | split | with_reducible apply Frame.after (finish_frame ..)

theorem failChannel_frame (c cause : Nat) (s : State) : Frame [.noc, .dram, .lnk, .mbx, .evt] s (failChannel c cause s) := by
  unfold failChannel
  dsimp only
  repeat' first | with_reducible apply Frame.refl | exact rfl | with_reducible apply Frame.foldl | with_reducible apply Frame.after (endChannelJobs_frame ..) | with_reducible apply Frame.after (finishOpt_frame ..) | with_reducible apply Frame.after (raise_frame ..) | with_reducible apply Frame.after (switchStep_frame ..) | with_reducible apply Frame.after (updDchan_frame ..) | intro _

theorem execDramChannelFailed_frame (channel : Fin 8) (cause : BitVec 8) (s : State) : NextFrame [.noc, .dram, .lnk, .mbx, .evt] s (execDramChannelFailed channel cause s) := by
  unfold execDramChannelFailed
  dsimp only
  repeat' first | with_reducible apply Frame.refl | exact rfl | with_reducible apply NextFrame.mk | split | with_reducible apply Frame.after (failChannel_frame ..)

theorem storeResults_frame (c sp : Nat) (s : State) : Frame [.dram, .free] s (storeResults c sp s) := by
  unfold storeResults
  repeat' first | with_reducible apply Frame.refl | exact rfl | with_reducible apply Frame.after (updDchan_frame ..) | with_reducible apply Frame.after (useFree_frame ..) | intro _

theorem execPeriodicRetrain_frame (channel : Fin 8) (ok : Bool) (s : State) : NextFrame [.noc, .dram, .lnk, .mbx, .evt, .free] s (execPeriodicRetrain channel ok s) := by
  unfold execPeriodicRetrain
  dsimp only
  repeat' first | with_reducible apply Frame.refl | exact rfl | with_reducible apply NextFrame.mk | split | with_reducible apply Frame.after (failChannel_frame ..) | with_reducible apply Frame.after (storeResults_frame ..)

theorem startSwitch_frame (org : Origin) (sp : BitVec 2) (s : State) : Frame [.dram, .lnk, .mbx, .evt] s (startSwitch org sp s) := by
  unfold startSwitch
  dsimp only [setDram_eq]
  repeat' first | with_reducible apply Frame.refl | exact rfl | with_reducible apply Frame.after (setDram_frame ..) | split | with_reducible apply Frame.forEach | with_reducible apply Frame.after (finish_frame ..) | with_reducible apply Frame.after (updDchan_frame ..) | intro _

theorem execSetpointSwitchStart_frame (s : State) : NextFrame [.dram, .lnk, .mbx, .evt] s (execSetpointSwitchStart s) := by
  unfold execSetpointSwitchStart
  dsimp only [setDram_eq]
  repeat' first | with_reducible apply Frame.refl | exact rfl | with_reducible apply NextFrame.mk | with_reducible apply Frame.after (setDram_frame ..) | split | with_reducible apply Frame.after (startSwitch_frame ..)

theorem execSetpointSwitchDone_frame (channel : Fin 8) (ok : Bool) (s : State) : NextFrame [.noc, .dram, .lnk, .mbx, .evt, .free] s (execSetpointSwitchDone channel ok s) := by
  unfold execSetpointSwitchDone
  dsimp only
  repeat' first | with_reducible apply Frame.refl | exact rfl | with_reducible apply NextFrame.mk | split | with_reducible apply Frame.after (failChannel_frame ..) | with_reducible apply Frame.after (storeResults_frame ..) | with_reducible apply Frame.after (switchStep_frame ..) | with_reducible apply Frame.after (updDchan_frame ..) | intro _

theorem bodyDrmSetpoint_frame (sp : Nat) (org : Origin) (s : State) : AnsFrame [.dram, .lnk, .mbx, .evt] s (bodyDrmSetpoint sp org s) := by
  unfold bodyDrmSetpoint
  dsimp only [setDram_eq]
  repeat' first | with_reducible apply Frame.refl | exact rfl | with_reducible apply AnsFrame.refuse | with_reducible apply AnsFrame.done | with_reducible apply Frame.after (setDram_frame ..) | split | with_reducible apply Frame.after (finish_frame ..) | with_reducible apply Frame.after (startSwitch_frame ..) | with_reducible apply AnsFrame.lit | intro _ | exact Frame.refl _ _

theorem execDrmSetpoint_frame (r : Req) (setpoint : BitVec 2) (s : State) : NextFrame [.dram, .lnk, .mbx, .chans, .evt, .sec] s (execDrmSetpoint r setpoint s) :=
  ⟨_, rfl, serve_frame (fun _ _ => (bodyDrmSetpoint_frame ..).mono) (Frame.refl _ _)⟩

theorem bodyDrmSetpointCfg_frame (sp speed : Nat) (_org : Origin) (s : State) : AnsFrame [.dram] s (bodyDrmSetpointCfg sp speed _org s) := by
  unfold bodyDrmSetpointCfg
  dsimp only [setDram_eq]
  repeat' first | with_reducible apply Frame.refl | exact rfl | with_reducible apply AnsFrame.refuse | with_reducible apply AnsFrame.done | with_reducible apply Frame.after (setDram_frame ..) | split | with_reducible apply Frame.forEach | with_reducible apply Frame.after (updDchan_frame ..) | intro _ | with_reducible apply AnsFrame.lit | intro _ | exact Frame.refl _ _

theorem execDrmSetpointCfg_frame (r : Req) (setpoint : BitVec 2) (speed : BitVec 3) (s : State) : NextFrame [.dram, .lnk, .mbx, .chans, .evt, .sec] s (execDrmSetpointCfg r setpoint speed s) :=
  ⟨_, rfl, serve_frame (fun _ _ => (bodyDrmSetpointCfg_frame ..).mono) (Frame.refl _ _)⟩

theorem bodyDrmQos_frame (cls age : Nat) (_org : Origin) (s : State) : AnsFrame [.dram] s (bodyDrmQos cls age _org s) := by
  unfold bodyDrmQos
  dsimp only [setDram_eq]
  repeat' first | with_reducible apply Frame.refl | exact rfl | with_reducible apply AnsFrame.refuse | with_reducible apply AnsFrame.done | with_reducible apply Frame.after (setDram_frame ..) | split | with_reducible apply AnsFrame.lit | intro _ | exact Frame.refl _ _

theorem execDrmQos_frame (r : Req) (cls : BitVec 2) (ageNs : BitVec 16) (s : State) : NextFrame [.dram, .lnk, .mbx, .chans, .evt, .sec] s (execDrmQos r cls ageNs s) :=
  ⟨_, rfl, serve_frame (fun _ _ => (bodyDrmQos_frame ..).mono) (Frame.refl _ _)⟩

theorem bodyDrmNrr_frame (mask exp : Nat) (_org : Origin) (s : State) : AnsFrame [.dram] s (bodyDrmNrr mask exp _org s) := by
  unfold bodyDrmNrr
  repeat' first | with_reducible apply Frame.refl | exact rfl | with_reducible apply AnsFrame.refuse | with_reducible apply AnsFrame.done | split | with_reducible apply Frame.forEach | with_reducible apply Frame.after (updDchan_frame ..) | intro _ | with_reducible apply AnsFrame.lit | intro _ | exact Frame.refl _ _

theorem execDrmNrr_frame (r : Req) (mask : BitVec 8) (exp : BitVec 5) (s : State) : NextFrame [.dram, .lnk, .mbx, .chans, .evt, .sec] s (execDrmNrr r mask exp s) :=
  ⟨_, rfl, serve_frame (fun _ _ => (bodyDrmNrr_frame ..).mono) (Frame.refl _ _)⟩

theorem bodyDrmPpr_frame (c : Nat) (x : DramLoc) (org : Origin) (s : State) : AnsFrame [.dram, .lnk, .mbx, .evt] s (bodyDrmPpr c x org s) := by
  unfold bodyDrmPpr
  repeat' first | with_reducible apply Frame.refl | exact rfl | with_reducible apply AnsFrame.refuse | with_reducible apply AnsFrame.done | split | with_reducible apply Frame.after (askRepair_frame ..) | with_reducible apply Frame.after (finish_frame ..) | with_reducible apply AnsFrame.lit | intro _ | exact Frame.refl _ _

theorem execDrmPpr_frame (r : Req) (channel : BitVec 3) (sub dimm rank : Bool) (cid bg : BitVec 3) (ba : BitVec 2) (row : BitVec 18) (s : State) : NextFrame [.dram, .lnk, .mbx, .chans, .evt, .sec] s (execDrmPpr r channel sub dimm rank cid bg ba row s) :=
  ⟨_, rfl, serve_frame (fun _ _ => (bodyDrmPpr_frame ..).mono) (Frame.refl _ _)⟩

theorem execSoftRepairDone_frame (channel : Fin 8) (s : State) : NextFrame [.start, .dram, .lnk, .mbx, .evt] s (execSoftRepairDone channel s) := by
  unfold execSoftRepairDone
  dsimp only
  repeat' first | with_reducible apply Frame.refl | exact rfl | with_reducible apply NextFrame.mk | split | with_reducible apply Frame.after (finishOpt_frame ..) | with_reducible apply Frame.after (holdBank_frame ..) | with_reducible apply Frame.after (raise_frame ..) | with_reducible apply Frame.after (updDchan_frame ..) | with_reducible apply Frame.after (updSub_frame ..) | with_reducible apply Frame.after (writeRecord_frame ..) | intro _

theorem repairCandidates_frame (c : Nat) (s : State) : Frame [.dram] s (repairCandidates c s) := by
  unfold repairCandidates
  repeat' first | with_reducible apply Frame.refl | exact rfl | with_reducible apply Frame.foldl | with_reducible apply Frame.after (askRepair_frame ..) | intro _

theorem bodyDrmPprAuto_frame (mask : Nat) (enable : Bool) (_org : Origin) (s : State) : AnsFrame [.dram] s (bodyDrmPprAuto mask enable _org s) := by
  unfold bodyDrmPprAuto
  dsimp only
  repeat' first | with_reducible apply Frame.refl | exact rfl | with_reducible apply AnsFrame.refuse | with_reducible apply AnsFrame.done | split | with_reducible apply Frame.forEach | with_reducible apply Frame.after (repairCandidates_frame ..) | with_reducible apply Frame.after (updDchan_frame ..) | intro _ | with_reducible apply AnsFrame.lit | intro _ | exact Frame.refl _ _

theorem execDrmPprAuto_frame (r : Req) (mask : BitVec 8) (enable : Bool) (s : State) : NextFrame [.dram, .lnk, .mbx, .chans, .evt, .sec] s (execDrmPprAuto r mask enable s) :=
  ⟨_, rfl, serve_frame (fun _ _ => (bodyDrmPprAuto_frame ..).mono) (Frame.refl _ _)⟩

theorem bodyDrmExclude_frame (mask : Nat) (_org : Origin) (s : State) : AnsFrame [.start] s (bodyDrmExclude mask _org s) := by
  unfold bodyDrmExclude
  repeat' first | with_reducible apply Frame.refl | exact rfl | with_reducible apply AnsFrame.refuse | with_reducible apply AnsFrame.done | with_reducible apply Frame.after (writeRecord_frame ..) | intro _ | with_reducible apply AnsFrame.lit | intro _ | exact Frame.refl _ _

theorem execDrmExclude_frame (r : Req) (mask : BitVec 8) (s : State) : NextFrame [.start, .lnk, .mbx, .chans, .evt, .sec] s (execDrmExclude r mask s) :=
  ⟨_, rfl, serve_frame (fun _ _ => (bodyDrmExclude_frame ..).mono) (Frame.refl _ _)⟩

theorem bodyDrmInclude_frame (mask : Nat) (_org : Origin) (s : State) : AnsFrame [.start] s (bodyDrmInclude mask _org s) := by
  unfold bodyDrmInclude
  repeat' first | with_reducible apply Frame.refl | exact rfl | with_reducible apply AnsFrame.refuse | with_reducible apply AnsFrame.done | with_reducible apply Frame.after (writeRecord_frame ..) | intro _ | with_reducible apply AnsFrame.lit | intro _ | exact Frame.refl _ _

theorem execDrmInclude_frame (r : Req) (mask : BitVec 8) (s : State) : NextFrame [.start, .lnk, .mbx, .chans, .evt, .sec] s (execDrmInclude r mask s) :=
  ⟨_, rfl, serve_frame (fun _ _ => (bodyDrmInclude_frame ..).mono) (Frame.refl _ _)⟩

theorem bodyDrmTrainExport_frame (c sp : Nat) (_org : Origin) (s : State) : AnsFrame [] s (bodyDrmTrainExport c sp _org s) := by
  unfold bodyDrmTrainExport
  repeat' first | with_reducible apply Frame.refl | exact rfl | with_reducible apply AnsFrame.refuse | with_reducible apply AnsFrame.done | split | with_reducible apply AnsFrame.lit | intro _ | exact Frame.refl _ _

theorem execDrmTrainExport_frame (r : Req) (channel : BitVec 3) (setpoint : BitVec 2) (s : State) : NextFrame [.lnk, .mbx, .chans, .evt, .sec] s (execDrmTrainExport r channel setpoint s) :=
  ⟨_, rfl, serve_frame (fun _ _ => (bodyDrmTrainExport_frame ..).mono) (Frame.refl _ _)⟩

theorem bodyDrmTrainImport_frame (c sp : Nat) (record : List Byte) (_org : Origin) (s : State) : AnsFrame [.dram] s (bodyDrmTrainImport c sp record _org s) := by
  unfold bodyDrmTrainImport
  dsimp only
  repeat' first | with_reducible apply Frame.refl | exact rfl | with_reducible apply AnsFrame.refuse | with_reducible apply AnsFrame.done | split | with_reducible apply Frame.after (updDchan_frame ..) | intro _ | with_reducible apply AnsFrame.lit | intro _ | exact Frame.refl _ _

theorem execDrmTrainImport_frame (r : Req) (channel : BitVec 3) (setpoint : BitVec 2) (record : List Byte) (s : State) : NextFrame [.dram, .lnk, .mbx, .chans, .evt, .sec] s (execDrmTrainImport r channel setpoint record s) :=
  ⟨_, rfl, serve_frame (fun _ _ => (bodyDrmTrainImport_frame ..).mono) (Frame.refl _ _)⟩

theorem bodyDrmDmaStop_frame (mask : Nat) (org : Origin) (s : State) : AnsFrame [.dram] s (bodyDrmDmaStop mask org s) := by
  unfold bodyDrmDmaStop
  dsimp only [setDram_eq]
  repeat' first | with_reducible apply Frame.refl | exact rfl | with_reducible apply AnsFrame.refuse | with_reducible apply AnsFrame.done | with_reducible apply Frame.after (setDram_frame ..) | with_reducible apply AnsFrame.lit | intro _ | exact Frame.refl _ _

theorem execDrmDmaStop_frame (r : Req) (mask : BitVec 16) (s : State) : NextFrame [.dram, .lnk, .mbx, .chans, .evt, .sec] s (execDrmDmaStop r mask s) :=
  ⟨_, rfl, serve_frame (fun _ _ => (bodyDrmDmaStop_frame ..).mono) (Frame.refl _ _)⟩

theorem execDmaStopDone_frame (s : State) : NextFrame [.dram, .lnk, .mbx, .evt] s (execDmaStopDone s) := by
  unfold execDmaStopDone
  dsimp only [setDram_eq]
  repeat' first | with_reducible apply Frame.refl | exact rfl | with_reducible apply NextFrame.mk | with_reducible apply Frame.after (setDram_frame ..) | split | with_reducible apply Frame.foldl | with_reducible apply Frame.after (finish_frame ..) | intro _

theorem bodyDrmStatus_frame (mask : Nat) (_org : Origin) (s : State) : AnsFrame [] s (bodyDrmStatus mask _org s) := by
  unfold bodyDrmStatus
  repeat' first | with_reducible apply Frame.refl | exact rfl | with_reducible apply AnsFrame.refuse | with_reducible apply AnsFrame.done | intro _ | with_reducible apply AnsFrame.lit | intro _ | exact Frame.refl _ _

theorem execDrmStatus_frame (r : Req) (mask : BitVec 8) (s : State) : NextFrame [.lnk, .mbx, .chans, .evt, .sec] s (execDrmStatus r mask s) :=
  ⟨_, rfl, serve_frame (fun _ _ => (bodyDrmStatus_frame ..).mono) (Frame.refl _ _)⟩

theorem bodyDrmErrlog_frame (c : Nat) (_org : Origin) (s : State) : AnsFrame [] s (bodyDrmErrlog c _org s) := by
  unfold bodyDrmErrlog
  dsimp only
  repeat' first | with_reducible apply Frame.refl | exact rfl | with_reducible apply AnsFrame.refuse | with_reducible apply AnsFrame.done | intro _ | with_reducible apply AnsFrame.lit | intro _ | exact Frame.refl _ _

theorem execDrmErrlog_frame (r : Req) (channel : BitVec 3) (s : State) : NextFrame [.lnk, .mbx, .chans, .evt, .sec] s (execDrmErrlog r channel s) :=
  ⟨_, rfl, serve_frame (fun _ _ => (bodyDrmErrlog_frame ..).mono) (Frame.refl _ _)⟩

theorem execConversionPage_frame (ir : Fin 8) (s : State) : NextFrame [.prt, .lnk, .mbx, .evt] s (execConversionPage ir s) := by
  unfold execConversionPage
  dsimp only
  repeat' first | with_reducible apply Frame.refl | exact rfl | with_reducible apply NextFrame.mk | split | with_reducible apply Frame.after (convertPage_frame ..) | with_reducible apply Frame.after (endConversion_frame ..) | with_reducible apply Frame.after (updIr_frame ..) | intro _

theorem dropPages_frame (first count : Nat) (s : State) : Frame [.prt] s (dropPages first count s) := by
  unfold dropPages
  repeat' first | with_reducible apply Frame.refl | exact rfl | exact fun _ => rfl | with_reducible apply Frame.after (updPrt_frame ?_ _) | intro _

theorem execIrSetDone_frame (ir : Fin 8) (s : State) : NextFrame [.dram, .prt, .lnk, .mbx, .evt] s (execIrSetDone ir s) := by
  unfold execIrSetDone
  dsimp only
  repeat' first | with_reducible apply Frame.refl | exact rfl | with_reducible apply NextFrame.mk | split | with_reducible apply Frame.after (dropPages_frame ..) | with_reducible apply Frame.after (finish_frame ..) | with_reducible apply Frame.after (updIr_frame ..) | with_reducible apply Frame.after (zeroLines_frame ..) | intro _

theorem execReinitZeroFillDone_frame (ir : Fin 8) (s : State) : NextFrame [.dram, .prt, .lnk, .mbx, .evt] s (execReinitZeroFillDone ir s) := by
  unfold execReinitZeroFillDone
  dsimp only
  repeat' first | with_reducible apply Frame.refl | exact rfl | with_reducible apply NextFrame.mk | exact fun _ => rfl | split | with_reducible apply Frame.after (dropPages_frame ..) | with_reducible apply Frame.after (finish_frame ..) | with_reducible apply Frame.after (updIr_frame ..) | with_reducible apply Frame.after (updPrt_frame ?_ _) | with_reducible apply Frame.after (zeroLines_frame ..) | intro _

theorem bodyPrtStatus_frame (_org : Origin) (s : State) : AnsFrame [] s (bodyPrtStatus _org s) := by
  unfold bodyPrtStatus
  repeat' first | with_reducible apply Frame.refl | exact rfl | with_reducible apply AnsFrame.refuse | with_reducible apply AnsFrame.done | intro _ | with_reducible apply AnsFrame.lit | intro _ | exact Frame.refl _ _

theorem execPrtStatus_frame (r : Req) (s : State) : NextFrame [.lnk, .mbx, .chans, .evt, .sec] s (execPrtStatus r s) :=
  ⟨_, rfl, serve_frame (fun _ _ => (bodyPrtStatus_frame ..).mono) (Frame.refl _ _)⟩

theorem bodyPrtCapacity_frame (p : Nat) (_org : Origin) (s : State) : AnsFrame [.start] s (bodyPrtCapacity p _org s) := by
  unfold bodyPrtCapacity
  repeat' first | with_reducible apply Frame.refl | exact rfl | with_reducible apply AnsFrame.refuse | with_reducible apply AnsFrame.done | split | with_reducible apply Frame.after (writeRecord_frame ..) | intro _ | with_reducible apply AnsFrame.lit | intro _ | exact Frame.refl _ _

theorem execPrtCapacity_frame (r : Req) (pGib : BitVec 11) (s : State) : NextFrame [.start, .lnk, .mbx, .chans, .evt, .sec] s (execPrtCapacity r pGib s) :=
  ⟨_, rfl, serve_frame (fun _ _ => (bodyPrtCapacity_frame ..).mono) (Frame.refl _ _)⟩

theorem bodyPrtIrSet_frame (i en base k : Nat) (org : Origin) (s : State) : AnsFrame [.prt, .lnk, .mbx, .evt] s (bodyPrtIrSet i en base k org s) := by
  unfold bodyPrtIrSet
  dsimp only
  repeat' first | with_reducible apply Frame.refl | exact rfl | with_reducible apply AnsFrame.refuse | with_reducible apply AnsFrame.done | split | with_reducible apply Frame.after (finish_frame ..) | with_reducible apply Frame.after (updIr_frame ..) | intro _ | with_reducible apply AnsFrame.lit | intro _ | exact Frame.refl _ _

theorem execPrtIrSet_frame (r : Req) (ir : BitVec 3) (enable : Bool) (baseGib : BitVec 10) (sizeLog2 : BitVec 4) (s : State) : NextFrame [.prt, .lnk, .mbx, .chans, .evt, .sec] s (execPrtIrSet r ir enable baseGib sizeLog2 s) :=
  ⟨_, rfl, serve_frame (fun _ _ => (bodyPrtIrSet_frame ..).mono) (Frame.refl _ _)⟩

theorem bodyPrtReinit_frame (i first count : Nat) (org : Origin) (s : State) : AnsFrame [.prt, .lnk, .mbx, .evt] s (bodyPrtReinit i first count org s) := by
  unfold bodyPrtReinit
  dsimp only
  repeat' first | with_reducible apply Frame.refl | exact rfl | with_reducible apply AnsFrame.refuse | with_reducible apply AnsFrame.done | split | with_reducible apply Frame.after (beginAdvance_frame ..) | with_reducible apply Frame.after (finish_frame ..) | with_reducible apply Frame.after (updIr_frame ..) | intro _ | with_reducible apply AnsFrame.lit | intro _ | exact Frame.refl _ _

theorem execPrtReinit_frame (r : Req) (ir : BitVec 3) (base pages : BitVec 36) (s : State) : NextFrame [.prt, .lnk, .mbx, .chans, .evt, .sec] s (execPrtReinit r ir base pages s) :=
  ⟨_, rfl, serve_frame (fun _ _ => (bodyPrtReinit_frame ..).mono) (Frame.refl _ _)⟩

theorem bodyPrtRangeSet_frame (m base limit en lock : Nat) (_org : Origin) (s : State) :
    AnsFrame [.prt] s (bodyPrtRangeSet m base limit en lock _org s) := by
  unfold bodyPrtRangeSet
  dsimp only
  split
  · exact AnsFrame.refuse _ _ _
  · split
    · exact AnsFrame.refuse _ _ _
    · rename_i h _
      refine AnsFrame.done ⟨fun p hp => ?_⟩
      cases p <;> first | rfl | exact id | cases hp | skip
      intro i hi
      refine Tab.get_set_ne _ _ _ (fun e => ?_)
      subst e
      exact h hi

theorem execPrtRangeSet_frame (r : Req) (range : BitVec 4) (base limit : BitVec 36) (enable lock : Bool) (s : State) : NextFrame [.prt, .lnk, .mbx, .chans, .evt, .sec] s (execPrtRangeSet r range base limit enable lock s) :=
  ⟨_, rfl, serve_frame (fun _ _ => (bodyPrtRangeSet_frame ..).mono) (Frame.refl _ _)⟩

theorem bodyPrtPriv_frame (mask : Nat) (_org : Origin) (s : State) : AnsFrame [.prt] s (bodyPrtPriv mask _org s) := by
  unfold bodyPrtPriv
  repeat' first | with_reducible apply Frame.refl | exact rfl | with_reducible apply AnsFrame.refuse | with_reducible apply AnsFrame.done | exact fun _ => rfl | split | with_reducible apply Frame.after (updPrt_frame ?_ _) | intro _ | with_reducible apply AnsFrame.lit | intro _ | exact Frame.refl _ _

theorem execPrtPriv_frame (r : Req) (mask : BitVec 256) (s : State) : NextFrame [.prt, .lnk, .mbx, .chans, .evt, .sec] s (execPrtPriv r mask s) :=
  ⟨_, rfl, serve_frame (fun _ _ => (bodyPrtPriv_frame ..).mono) (Frame.refl _ _)⟩

theorem updDsp_frame (f : Dsp → Dsp) (s : State) : Frame [.dsp] s (updDsp f s) := by
  unfold updDsp
  dsimp only [setDsp_eq]
  repeat' first | with_reducible apply Frame.refl | exact rfl | with_reducible apply Frame.after (setDsp_frame ..)

theorem updDspSrc_frame (k : Nat) (f : DspSource → DspSource) (s : State) : Frame [.dsp] s (updDspSrc k f s) := by
  unfold updDspSrc
  repeat' first | with_reducible apply Frame.refl | exact rfl | with_reducible apply Frame.after (updDsp_frame ..) | intro _

theorem updFlow_frame (key : BitVec 32) (f : FlowEnt → FlowEnt) (s : State) : Frame [.dsp] s (updFlow key f s) := by
  unfold updFlow
  repeat' first | with_reducible apply Frame.refl | exact rfl | split | with_reducible apply Frame.after (updDsp_frame ..) | intro _

theorem updItem_frame (tag : BitVec 32) (f : Item → Item) (s : State) : Frame [.dsp] s (updItem tag f s) := by
  unfold updItem
  repeat' first | with_reducible apply Frame.refl | exact rfl | split | with_reducible apply Frame.after (updDsp_frame ..) | intro _

theorem makeEligible_frame (key : BitVec 32) (s : State) : Frame [.dsp] s (makeEligible key s) := by
  unfold makeEligible
  dsimp only
  repeat' first | with_reducible apply Frame.refl | exact rfl | split | with_reducible apply Frame.after (updDsp_frame ..) | with_reducible apply Frame.after (updItem_frame ..) | intro _

theorem freeFlow_frame (key : BitVec 32) (s : State) : Frame [.dsp] s (freeFlow key s) := by
  unfold freeFlow
  repeat' first | with_reducible apply Frame.refl | exact rfl | split | with_reducible apply Frame.after (updDsp_frame ..) | intro _

theorem endService_frame (key : BitVec 32) (s : State) : Frame [.dsp] s (endService key s) := by
  unfold endService
  repeat' first | with_reducible apply Frame.refl | exact rfl | with_reducible apply Frame.after (freeFlow_frame ..) | with_reducible apply Frame.after (makeEligible_frame ..) | with_reducible apply Frame.after (updFlow_frame ..) | intro _

theorem makeReady_frame (tag key : BitVec 32) (s : State) : Frame [.dsp] s (makeReady tag key s) := by
  unfold makeReady
  dsimp only
  repeat' first | with_reducible apply Frame.refl | exact rfl | with_reducible apply Frame.after (makeEligible_frame ..) | with_reducible apply Frame.after (updDsp_frame ..) | with_reducible apply Frame.after (updItem_frame ..) | intro _

theorem discard_frame (k cause : Nat) (t : Token) (s : State) : Frame [.lnk, .dsp, .mbx, .evt] s (discard k cause t s) := by
  unfold discard
  dsimp only
  repeat' first | with_reducible apply Frame.refl | exact rfl | split | with_reducible apply Frame.after (raise_frame ..) | with_reducible apply Frame.after (updDsp_frame ..) | intro _

theorem createTok_frame (k : Nat) (t : Token) (s : State) : Frame [.lnk, .dsp, .mbx, .evt] s (createTok k t s) := by
  unfold createTok
  dsimp only
  repeat' first | with_reducible apply Frame.refl | exact rfl | split | with_reducible apply Frame.after (discard_frame ..) | with_reducible apply Frame.after (makeReady_frame ..) | with_reducible apply Frame.after (updDsp_frame ..) | intro _

theorem operandTok_frame (k : Nat) (t : Token) (s : State) : Frame [.lnk, .dsp, .mbx, .evt] s (operandTok k t s) := by
  unfold operandTok
  dsimp only
  repeat' first | with_reducible apply Frame.refl | exact rfl | split | with_reducible apply Frame.after (discard_frame ..) | with_reducible apply Frame.after (makeReady_frame ..) | with_reducible apply Frame.after (updItem_frame ..) | intro _

theorem doneTok_frame (k : Nat) (t : Token) (s : State) : Frame [.lnk, .dsp, .mbx, .evt] s (doneTok k t s) := by
  unfold doneTok
  repeat' first | with_reducible apply Frame.refl | exact rfl | split | with_reducible apply Frame.after (discard_frame ..) | with_reducible apply Frame.after (endService_frame ..)

theorem answerTokens_frame (w : TokenWrite) (s : State) : Frame [.noc] s (answerTokens w s) := by
  unfold answerTokens
  dsimp only [setNoc_eq]
  repeat' first | with_reducible apply Frame.refl | exact rfl | with_reducible apply Frame.after (setNoc_frame ..) | split

theorem popTok_frame (k : Nat) (s : State) : Frame [.noc, .dsp] s (popTok k s) := by
  unfold popTok
  dsimp only
  repeat' first | with_reducible apply Frame.refl | exact rfl | split | with_reducible apply Frame.after (answerTokens_frame ..) | with_reducible apply Frame.after (updDsp_frame ..) | with_reducible apply Frame.after (updDspSrc_frame ..) | intro _

theorem holdTok_frame (k : Nat) (t : Token) (s : State) : Frame [.lnk, .dsp, .mbx, .evt] s (holdTok k t s) := by
  unfold holdTok
  dsimp only
  repeat' first | with_reducible apply Frame.refl | exact rfl | split | with_reducible apply Frame.after (raise_frame ..) | with_reducible apply Frame.after (updDsp_frame ..) | with_reducible apply Frame.after (updDspSrc_frame ..) | intro _

theorem takeTok_frame {act : Nat → Token → State → State}
    (ha : ∀ k t x, Frame [.noc, .lnk, .dsp, .mbx, .evt] x (act k t x)) (mine : Nat → Bool) (s : State) :
    Frame [.noc, .lnk, .dsp, .mbx, .evt] s (takeTok mine act s) := by
  unfold takeTok
  dsimp only
  split
  · exact Frame.refl _ _
  · split
    · exact Frame.refl _ _
    · split
      · exact Frame.refl _ _
      · split
        · exact (popTok_frame ..).after ((discard_frame ..).after ((updDsp_frame ..).after (Frame.refl _ _)))
        · split
          · exact (holdTok_frame ..).after ((updDsp_frame ..).after (Frame.refl _ _))
          · exact (popTok_frame ..).after ((ha ..).trans ((updDsp_frame ..).after (Frame.refl _ _)))

theorem execDspCreate_frame (s : State) : NextFrame [.noc, .lnk, .dsp, .mbx, .evt] s (execDspCreate s) :=
  NextFrame.mk (takeTok_frame (fun _ _ _ => (createTok_frame ..).after (Frame.refl _ _)) ..)

theorem execDspOperand_frame (s : State) : NextFrame [.noc, .lnk, .dsp, .mbx, .evt] s (execDspOperand s) :=
  NextFrame.mk (takeTok_frame (fun _ _ _ => (operandTok_frame ..).after (Frame.refl _ _)) ..)

theorem execDspDone_frame (s : State) : NextFrame [.noc, .lnk, .dsp, .mbx, .evt] s (execDspDone s) :=
  NextFrame.mk (takeTok_frame (fun _ _ _ => (doneTok_frame ..).after (Frame.refl _ _)) ..)

theorem tokenWrite_frame (lo hi : Nat) (put : TokenWrite → Dsp → Dsp) (src : BitVec 8) (tag : BitVec 12) (s : State) : Frame [.noc, .dsp] s (tokenWrite lo hi put src tag s) := by
  unfold tokenWrite
  dsimp only
  repeat' first | with_reducible apply Frame.refl | exact rfl | split | with_reducible apply Frame.after (answerMesh_frame ..) | with_reducible apply Frame.after (dropMesh_frame ..) | with_reducible apply Frame.after (updDsp_frame ..)

theorem execDspTokenWrite_frame (src : BitVec 8) (tag : BitVec 12) (s : State) : NextFrame [.noc, .dsp] s (execDspTokenWrite src tag s) := by
  unfold execDspTokenWrite
  repeat' first | with_reducible apply Frame.refl | exact rfl | with_reducible apply NextFrame.mk | with_reducible apply Frame.after (tokenWrite_frame ..) | intro _

theorem execDspDoneWrite_frame (src : BitVec 8) (tag : BitVec 12) (s : State) : NextFrame [.noc, .dsp] s (execDspDoneWrite src tag s) := by
  unfold execDspDoneWrite
  repeat' first | with_reducible apply Frame.refl | exact rfl | with_reducible apply NextFrame.mk | with_reducible apply Frame.after (tokenWrite_frame ..) | intro _

theorem execDspSourceDequeue_frame (s : State) : NextFrame [.mem, .lnk, .dsp, .mbx, .evt, .free] s (execDspSourceDequeue s) := by
  unfold execDspSourceDequeue
  dsimp only
  repeat' first | with_reducible apply Frame.refl | exact rfl | with_reducible apply NextFrame.mk | split | with_reducible apply Frame.after (countConflict_frame ..) | with_reducible apply Frame.after (noteEcc_frame ..) | with_reducible apply Frame.after (updBlock_frame ..) | with_reducible apply Frame.after (updDspSrc_frame ..) | with_reducible apply Frame.after (useFree_frame ..) | intro _

theorem overtake_frame (x : Item) (s : State) : Frame [.dsp] s (overtake x s) := by
  unfold overtake
  dsimp only
  repeat' first | with_reducible apply Frame.refl | exact rfl | split | with_reducible apply Frame.foldl | with_reducible apply Frame.after (updDsp_frame ..) | with_reducible apply Frame.after (updItem_frame ..) | intro _

theorem dispatchTo_frame (x : Item) (g e : Nat) (affine : Bool) (s : State) : Frame [.dsp] s (dispatchTo x g e affine s) := by
  unfold dispatchTo
  dsimp only
  repeat' first | with_reducible apply Frame.refl | exact rfl | with_reducible apply Frame.after (overtake_frame ..) | with_reducible apply Frame.after (updDsp_frame ..) | with_reducible apply Frame.after (updFlow_frame ..) | intro _

theorem noteDeadGroups_frame (s : State) : Frame [.lnk, .dsp, .mbx, .evt] s (noteDeadGroups s) := by
  unfold noteDeadGroups
  repeat' first | with_reducible apply Frame.refl | exact rfl | split | with_reducible apply Frame.foldl | with_reducible apply Frame.after (raise_frame ..) | with_reducible apply Frame.after (updDsp_frame ..) | intro _

theorem loseEntry_frame (bad : Option (Bool × BitVec 32)) (s : State) : Frame [.lnk, .dsp, .mbx, .evt] s (loseEntry bad s) := by
  unfold loseEntry
  repeat' first | with_reducible apply Frame.refl | exact rfl | split | with_reducible apply Frame.after (freeFlow_frame ..) | with_reducible apply Frame.after (makeEligible_frame ..) | with_reducible apply Frame.after (raise_frame ..) | with_reducible apply Frame.after (updDsp_frame ..) | intro _

theorem execDspDispatch_frame (bad : Option (Bool × BitVec 32)) (s : State) : NextFrame [.lnk, .dsp, .mbx, .evt] s (execDspDispatch bad s) := by
  unfold execDspDispatch
  dsimp only
  repeat' first | with_reducible apply Frame.refl | exact rfl | with_reducible apply NextFrame.mk | split | with_reducible apply Frame.after (dispatchTo_frame ..) | with_reducible apply Frame.after (loseEntry_frame ..) | with_reducible apply Frame.after (noteDeadGroups_frame ..) | intro _

theorem execDspGroupWrite_frame (engine : Fin 256) (s : State) : NextFrame [.mem, .lnk, .dsp, .mbx, .evt] s (execDspGroupWrite engine s) := by
  unfold execDspGroupWrite
  dsimp only
  repeat' first | with_reducible apply Frame.refl | exact rfl | with_reducible apply NextFrame.mk | split | with_reducible apply Frame.after (countConflict_frame ..) | with_reducible apply Frame.after (raise_frame ..) | with_reducible apply Frame.after (updBlock_frame ..) | with_reducible apply Frame.after (updDsp_frame ..) | intro _

theorem emptyStore_frame (s : State) : Frame [.dsp] s (emptyStore s) := by
  unfold emptyStore
  repeat' first | with_reducible apply Frame.refl | exact rfl | with_reducible apply Frame.after (updDsp_frame ..) | intro _

theorem dspWarmReset_frame (s : State) : Frame [.dsp] s (dspWarmReset s) := by
  unfold dspWarmReset
  repeat' first | with_reducible apply Frame.refl | exact rfl | with_reducible apply Frame.after (emptyStore_frame ..) | with_reducible apply Frame.after (updDsp_frame ..) | intro _

theorem dspOff_frame (s : State) : Frame [.mem, .lnk, .dsp, .mbx, .evt, .free] s (dspOff s) := by
  unfold dspOff
  dsimp only [setDsp_eq]
  repeat' first | with_reducible apply Frame.refl | exact rfl | with_reducible apply Frame.after (setDsp_frame ..) | split | with_reducible apply Frame.forEach | with_reducible apply Frame.after (setMode_frame ..) | intro _

theorem withDsp_frame {W : List Part} {s : State} {a : Ans} (h : AnsFrame W s a) : AnsFrame W s (withDsp s a) := by
  unfold withDsp
  split
  · exact h
  · exact AnsFrame.refuse _ _ _

theorem bodyDspStatus_frame (_org : Origin) (s : State) : AnsFrame [] s (bodyDspStatus _org s) := by
  unfold bodyDspStatus
  repeat' first | with_reducible apply Frame.refl | exact rfl | with_reducible apply AnsFrame.refuse | with_reducible apply AnsFrame.done | with_reducible apply withDsp_frame | intro _ | with_reducible apply AnsFrame.lit | intro _ | exact Frame.refl _ _

theorem execDspStatus_frame (r : Req) (s : State) : NextFrame [.lnk, .mbx, .chans, .evt, .sec] s (execDspStatus r s) :=
  ⟨_, rfl, serve_frame (fun _ _ => (bodyDspStatus_frame ..).mono) (Frame.refl _ _)⟩

theorem bodyDspConfig_frame (t0 t1 t2 g : Nat) (_org : Origin) (s : State) : AnsFrame [.dsp] s (bodyDspConfig t0 t1 t2 g _org s) := by
  unfold bodyDspConfig
  repeat' first | with_reducible apply Frame.refl | exact rfl | with_reducible apply AnsFrame.refuse | with_reducible apply AnsFrame.done | with_reducible apply withDsp_frame | split | with_reducible apply Frame.after (updDsp_frame ..) | intro _ | with_reducible apply AnsFrame.lit | intro _ | exact Frame.refl _ _

theorem execDspConfig_frame (r : Req) (t0 t1 t2 : BitVec 8) (defaultGroup : BitVec 5) (s : State) : NextFrame [.lnk, .dsp, .mbx, .chans, .evt, .sec] s (execDspConfig r t0 t1 t2 defaultGroup s) :=
  ⟨_, rfl, serve_frame (fun _ _ => (bodyDspConfig_frame ..).mono) (Frame.refl _ _)⟩

theorem bodyDspEngineSet_frame (e g thresh en : Nat) (_org : Origin) (s : State) : AnsFrame [.dsp] s (bodyDspEngineSet e g thresh en _org s) := by
  unfold bodyDspEngineSet
  dsimp only
  repeat' first | with_reducible apply Frame.refl | exact rfl | with_reducible apply AnsFrame.refuse | with_reducible apply AnsFrame.done | with_reducible apply withDsp_frame | split | with_reducible apply Frame.after (updDsp_frame ..) | intro _ | with_reducible apply AnsFrame.lit | intro _ | exact Frame.refl _ _

theorem execDspEngineSet_frame (r : Req) (engine : BitVec 8) (block : BitVec 11) (thresh : BitVec 13) (enable : Bool) (s : State) : NextFrame [.lnk, .dsp, .mbx, .chans, .evt, .sec] s (execDspEngineSet r engine block thresh enable s) :=
  ⟨_, rfl, serve_frame (fun _ _ => (bodyDspEngineSet_frame ..).mono) (Frame.refl _ _)⟩

theorem bodyDspGroupSet_frame (g mask : Nat) (_org : Origin) (s : State) : AnsFrame [.dsp] s (bodyDspGroupSet g mask _org s) := by
  unfold bodyDspGroupSet
  repeat' first | with_reducible apply Frame.refl | exact rfl | with_reducible apply AnsFrame.refuse | with_reducible apply AnsFrame.done | with_reducible apply withDsp_frame | with_reducible apply Frame.after (updDsp_frame ..) | intro _ | with_reducible apply AnsFrame.lit | intro _ | exact Frame.refl _ _

theorem execDspGroupSet_frame (r : Req) (group : BitVec 5) (mask : BitVec 256) (s : State) : NextFrame [.lnk, .dsp, .mbx, .chans, .evt, .sec] s (execDspGroupSet r group mask s) :=
  ⟨_, rfl, serve_frame (fun _ _ => (bodyDspGroupSet_frame ..).mono) (Frame.refl _ _)⟩

theorem bodyDspSourceSet_frame (k g role en : Nat) (_org : Origin) (s : State) : AnsFrame [.dsp] s (bodyDspSourceSet k g role en _org s) := by
  unfold bodyDspSourceSet
  repeat' first | with_reducible apply Frame.refl | exact rfl | with_reducible apply AnsFrame.refuse | with_reducible apply AnsFrame.done | with_reducible apply withDsp_frame | split | with_reducible apply Frame.after (updDspSrc_frame ..) | intro _ | with_reducible apply AnsFrame.lit | intro _ | exact Frame.refl _ _

theorem execDspSourceSet_frame (r : Req) (source : BitVec 6) (block : BitVec 11) (role enable : Bool) (s : State) : NextFrame [.lnk, .dsp, .mbx, .chans, .evt, .sec] s (execDspSourceSet r source block role enable s) :=
  ⟨_, rfl, serve_frame (fun _ _ => (bodyDspSourceSet_frame ..).mono) (Frame.refl _ _)⟩

theorem bodyDspFlowSet_frame (flow g : Nat) (_org : Origin) (s : State) : AnsFrame [.dsp] s (bodyDspFlowSet flow g _org s) := by
  unfold bodyDspFlowSet
  dsimp only
  repeat' first | with_reducible apply Frame.refl | exact rfl | with_reducible apply AnsFrame.refuse | with_reducible apply AnsFrame.done | with_reducible apply withDsp_frame | split | with_reducible apply Frame.after (updDsp_frame ..) | with_reducible apply Frame.after (updFlow_frame ..) | intro _ | with_reducible apply AnsFrame.lit | intro _ | exact Frame.refl _ _

theorem execDspFlowSet_frame (r : Req) (flow : BitVec 32) (group : BitVec 5) (s : State) : NextFrame [.lnk, .dsp, .mbx, .chans, .evt, .sec] s (execDspFlowSet r flow group s) :=
  ⟨_, rfl, serve_frame (fun _ _ => (bodyDspFlowSet_frame ..).mono) (Frame.refl _ _)⟩

theorem bodyDspFlowGet_frame (flow : Nat) (_org : Origin) (s : State) : AnsFrame [] s (bodyDspFlowGet flow _org s) := by
  unfold bodyDspFlowGet
  repeat' first | with_reducible apply Frame.refl | exact rfl | with_reducible apply AnsFrame.refuse | with_reducible apply AnsFrame.done | with_reducible apply withDsp_frame | split | intro _ | with_reducible apply AnsFrame.lit | intro _ | exact Frame.refl _ _

theorem execDspFlowGet_frame (r : Req) (flow : BitVec 32) (s : State) : NextFrame [.lnk, .mbx, .chans, .evt, .sec] s (execDspFlowGet r flow s) :=
  ⟨_, rfl, serve_frame (fun _ _ => (bodyDspFlowGet_frame ..).mono) (Frame.refl _ _)⟩

theorem bodyDspFlowRelease_frame (flow : Nat) (_org : Origin) (s : State) : AnsFrame [.dsp] s (bodyDspFlowRelease flow _org s) := by
  unfold bodyDspFlowRelease
  repeat' first | with_reducible apply Frame.refl | exact rfl | with_reducible apply AnsFrame.refuse | with_reducible apply AnsFrame.done | with_reducible apply withDsp_frame | split | with_reducible apply Frame.after (endService_frame ..) | with_reducible apply AnsFrame.lit | intro _ | exact Frame.refl _ _

theorem execDspFlowRelease_frame (r : Req) (flow : BitVec 32) (s : State) : NextFrame [.lnk, .dsp, .mbx, .chans, .evt, .sec] s (execDspFlowRelease r flow s) :=
  ⟨_, rfl, serve_frame (fun _ _ => (bodyDspFlowRelease_frame ..).mono) (Frame.refl _ _)⟩

theorem bodyDspFlowClear_frame (flow : Nat) (_org : Origin) (s : State) : AnsFrame [.dsp] s (bodyDspFlowClear flow _org s) := by
  unfold bodyDspFlowClear
  dsimp only
  repeat' first | with_reducible apply Frame.refl | exact rfl | with_reducible apply AnsFrame.refuse | with_reducible apply AnsFrame.done | with_reducible apply withDsp_frame | split | with_reducible apply Frame.after (updDsp_frame ..) | intro _ | with_reducible apply AnsFrame.lit | intro _ | exact Frame.refl _ _

theorem execDspFlowClear_frame (r : Req) (flow : BitVec 32) (s : State) : NextFrame [.lnk, .dsp, .mbx, .chans, .evt, .sec] s (execDspFlowClear r flow s) :=
  ⟨_, rfl, serve_frame (fun _ _ => (bodyDspFlowClear_frame ..).mono) (Frame.refl _ _)⟩

theorem bodyDspFlush_frame (_org : Origin) (s : State) : AnsFrame [.dsp] s (bodyDspFlush _org s) := by
  unfold bodyDspFlush
  repeat' first | with_reducible apply Frame.refl | exact rfl | with_reducible apply AnsFrame.refuse | with_reducible apply AnsFrame.done | with_reducible apply withDsp_frame | with_reducible apply Frame.after (emptyStore_frame ..) | with_reducible apply AnsFrame.lit | intro _ | exact Frame.refl _ _

theorem execDspFlush_frame (r : Req) (s : State) : NextFrame [.lnk, .dsp, .mbx, .chans, .evt, .sec] s (execDspFlush r s) :=
  ⟨_, rfl, serve_frame (fun _ _ => (bodyDspFlush_frame ..).mono) (Frame.refl _ _)⟩

theorem execPinEdge_frame (pin : Fin 1152) (rise : Bool) (tick : Fin 16) (coin : Bool) (s : State) : NextFrame [.pins] s (execPinEdge pin rise tick coin s) := by
  unfold execPinEdge
  dsimp only
  repeat' first | with_reducible apply Frame.refl | exact rfl | with_reducible apply NextFrame.mk | split | with_reducible apply Frame.after (updPin_frame ..) | intro _

theorem execPinOutputLaunch_frame (pin : Fin 1152) (d oe : Bool) (ofs : BitVec 4) (s : State) : NextFrame [.pins] s (execPinOutputLaunch pin d oe ofs s) := by
  unfold execPinOutputLaunch
  repeat' first | with_reducible apply Frame.refl | exact rfl | with_reducible apply NextFrame.mk | split | with_reducible apply Frame.after (updPin_frame ..)

theorem execPinEventPop_frame (pin : Fin 1152) (s : State) : NextFrame [.pins] s (execPinEventPop pin s) := by
  unfold execPinEventPop
  dsimp only
  repeat' first | with_reducible apply Frame.refl | exact rfl | with_reducible apply NextFrame.mk | split | with_reducible apply Frame.after (updPin_frame ..) | intro _

theorem execPinWindowOpen_frame (pin : Fin 1152) (start len : BitVec 20) (s : State) : NextFrame [.pins] s (execPinWindowOpen pin start len s) := by
  unfold execPinWindowOpen
  dsimp only
  repeat' first | with_reducible apply Frame.refl | exact rfl | with_reducible apply NextFrame.mk | split | with_reducible apply Frame.foldl | with_reducible apply Frame.after (updPin_frame ..) | intro _

theorem execPinWindowResult_frame (pin : Fin 1152) (s : State) : NextFrame [.pins] s (execPinWindowResult pin s) := by
  unfold execPinWindowResult
  repeat' first | with_reducible apply Frame.refl | exact rfl | with_reducible apply NextFrame.mk | with_reducible apply Frame.after (updPin_frame ..) | intro _

theorem updBankPins_frame (nn : Nat) (f : Nat → Pin → Pin) (s : State) : Frame [.pins] s (updBankPins nn f s) := by
  unfold updBankPins
  repeat' first | with_reducible apply Frame.refl | exact rfl | with_reducible apply Frame.forEach | with_reducible apply Frame.after (updPin_frame ..) | intro _

theorem execBankLevelMeasure_frame (bank : Fin 24) (mv : BitVec 12) (s : State) : NextFrame [.lnk, .pins, .mbx, .evt] s (execBankLevelMeasure bank mv s) := by
  unfold execBankLevelMeasure
  dsimp only
  repeat' first | with_reducible apply Frame.refl | exact rfl | with_reducible apply NextFrame.mk | split | with_reducible apply Frame.after (raise_frame ..) | with_reducible apply Frame.after (updBank_frame ..) | with_reducible apply Frame.after (updBankPins_frame ..) | intro _

theorem execBankPowerRecover_frame (bank : Fin 24) (levels : BitVec 48) (s : State) : NextFrame [.pins] s (execBankPowerRecover bank levels s) := by
  unfold execBankPowerRecover
  dsimp only
  repeat' first | with_reducible apply Frame.refl | exact rfl | with_reducible apply NextFrame.mk | split | with_reducible apply Frame.after (updBank_frame ..) | with_reducible apply Frame.after (updBankPins_frame ..) | intro _

theorem pinBankOff_frame (nn : Nat) (s : State) : Frame [.pins] s (pinBankOff nn s) := by
  unfold pinBankOff
  repeat' first | with_reducible apply Frame.refl | exact rfl | with_reducible apply Frame.after (updBankPins_frame ..) | intro _

theorem execPinShort_frame (pin : Fin 1152) (level : Bool) (s : State) : NextFrame [.lnk, .pins, .mbx, .evt] s (execPinShort pin level s) := by
  unfold execPinShort
  dsimp only
  repeat' first | with_reducible apply Frame.refl | exact rfl | with_reducible apply NextFrame.mk | split | with_reducible apply Frame.after (raise_frame ..) | with_reducible apply Frame.after (updPin_frame ..) | intro _

theorem execPinOvervoltage_frame (pin : Fin 1152) (level : Bool) (s : State) : NextFrame [.lnk, .pins, .mbx, .evt] s (execPinOvervoltage pin level s) := by
  unfold execPinOvervoltage
  dsimp only
  repeat' first | with_reducible apply Frame.refl | exact rfl | with_reducible apply NextFrame.mk | split | with_reducible apply Frame.after (raise_frame ..) | with_reducible apply Frame.after (updPin_frame ..) | intro _

theorem execPinProbePhase_frame (above90 below10 : Bool) (s : State) : NextFrame [.lnk, .pins, .mbx, .evt] s (execPinProbePhase above90 below10 s) := by
  unfold execPinProbePhase
  dsimp only [setPins_eq]
  repeat' first | with_reducible apply Frame.refl | exact rfl | with_reducible apply NextFrame.mk | with_reducible apply Frame.after (setPins_frame ..) | split | with_reducible apply Frame.after (finish_frame ..) | with_reducible apply Frame.after (raise_frame ..) | with_reducible apply Frame.after (updPin_frame ..) | intro _

theorem execPinPolarityCheck_frame (pin : Fin 1152) (steady level : Bool) (s : State) : NextFrame [.lnk, .pins, .mbx, .evt] s (execPinPolarityCheck pin steady level s) := by
  unfold execPinPolarityCheck
  dsimp only [setPins_eq]
  repeat' first | with_reducible apply Frame.refl | exact rfl | with_reducible apply NextFrame.mk | with_reducible apply Frame.after (setPins_frame ..) | split | with_reducible apply Frame.after (finish_frame ..) | with_reducible apply Frame.after (raise_frame ..) | with_reducible apply Frame.after (updPin_frame ..) | intro _

theorem bodyPinConfig_frame (nn mask cfg : Nat) (_org : Origin) (s : State) : AnsFrame [.pins] s (bodyPinConfig nn mask cfg _org s) := by
  unfold bodyPinConfig
  repeat' first | with_reducible apply Frame.refl | exact rfl | with_reducible apply AnsFrame.refuse | with_reducible apply AnsFrame.done | split | with_reducible apply Frame.forEach | with_reducible apply Frame.after (updPin_frame ..) | intro _ | with_reducible apply AnsFrame.lit | intro _ | exact Frame.refl _ _

theorem execPinConfig_frame (r : Req) (bank : BitVec 5) (mask : BitVec 48) (cfg : W64) (s : State) : NextFrame [.lnk, .pins, .mbx, .chans, .evt, .sec] s (execPinConfig r bank mask cfg s) :=
  ⟨_, rfl, serve_frame (fun _ _ => (bodyPinConfig_frame ..).mono) (Frame.refl _ _)⟩

theorem bodyPinStatus_frame (nn mask clear : Nat) (_org : Origin) (s : State) : AnsFrame [.pins] s (bodyPinStatus nn mask clear _org s) := by
  unfold bodyPinStatus
  dsimp only
  repeat' first | with_reducible apply Frame.refl | exact rfl | with_reducible apply AnsFrame.refuse | with_reducible apply AnsFrame.done | split | with_reducible apply Frame.forEach | with_reducible apply Frame.after (updPin_frame ..) | intro _ | with_reducible apply AnsFrame.lit | intro _ | exact Frame.refl _ _

theorem execPinStatus_frame (r : Req) (bank : BitVec 5) (mask : BitVec 48) (clear : Bool) (s : State) : NextFrame [.lnk, .pins, .mbx, .chans, .evt, .sec] s (execPinStatus r bank mask clear s) :=
  ⟨_, rfl, serve_frame (fun _ _ => (bodyPinStatus_frame ..).mono) (Frame.refl _ _)⟩

theorem bodyPinClear_frame (nn mask : Nat) (_org : Origin) (s : State) : AnsFrame [.pins] s (bodyPinClear nn mask _org s) := by
  unfold bodyPinClear
  repeat' first | with_reducible apply Frame.refl | exact rfl | with_reducible apply AnsFrame.refuse | with_reducible apply AnsFrame.done | split | with_reducible apply Frame.forEach | with_reducible apply Frame.after (updPin_frame ..) | intro _ | with_reducible apply AnsFrame.lit | intro _ | exact Frame.refl _ _

theorem execPinClear_frame (r : Req) (bank : BitVec 5) (mask : BitVec 48) (s : State) : NextFrame [.lnk, .pins, .mbx, .chans, .evt, .sec] s (execPinClear r bank mask s) :=
  ⟨_, rfl, serve_frame (fun _ _ => (bodyPinClear_frame ..).mono) (Frame.refl _ _)⟩

theorem bodyPinProbe_frame (set us expect : Nat) (org : Origin) (s : State) : AnsFrame [.lnk, .pins, .mbx, .evt] s (bodyPinProbe set us expect org s) := by
  unfold bodyPinProbe
  dsimp only [setPins_eq]
  repeat' first | with_reducible apply Frame.refl | exact rfl | with_reducible apply AnsFrame.refuse | with_reducible apply AnsFrame.done | with_reducible apply Frame.after (setPins_frame ..) | split | with_reducible apply Frame.forEach | with_reducible apply Frame.after (finish_frame ..) | with_reducible apply Frame.after (updPin_frame ..) | intro _ | with_reducible apply AnsFrame.lit | intro _ | exact Frame.refl _ _

theorem execPinProbe_frame (r : Req) (pinSet : BitVec 1152) (phaseUs : BitVec 8) (expect : Bool) (s : State) : NextFrame [.lnk, .pins, .mbx, .chans, .evt, .sec] s (execPinProbe r pinSet phaseUs expect s) :=
  ⟨_, rfl, serve_frame (fun _ _ => (bodyPinProbe_frame ..).mono) (Frame.refl _ _)⟩

theorem bodyPinPolarity_frame (nn mask : Nat) (org : Origin) (s : State) : AnsFrame [.lnk, .pins, .mbx, .evt] s (bodyPinPolarity nn mask org s) := by
  unfold bodyPinPolarity
  dsimp only [setPins_eq]
  repeat' first | with_reducible apply Frame.refl | exact rfl | with_reducible apply AnsFrame.refuse | with_reducible apply AnsFrame.done | with_reducible apply Frame.after (setPins_frame ..) | split | with_reducible apply Frame.after (finish_frame ..) | intro _ | with_reducible apply AnsFrame.lit | intro _ | exact Frame.refl _ _

theorem execPinPolarity_frame (r : Req) (bank : BitVec 5) (mask : BitVec 48) (s : State) : NextFrame [.lnk, .pins, .mbx, .chans, .evt, .sec] s (execPinPolarity r bank mask s) :=
  ⟨_, rfl, serve_frame (fun _ _ => (bodyPinPolarity_frame ..).mono) (Frame.refl _ _)⟩

theorem bodyPinBank_frame (nn : Nat) (_org : Origin) (s : State) : AnsFrame [] s (bodyPinBank nn _org s) := by
  unfold bodyPinBank
  repeat' first | with_reducible apply Frame.refl | exact rfl | with_reducible apply AnsFrame.refuse | with_reducible apply AnsFrame.done | split | with_reducible apply AnsFrame.lit | intro _ | exact Frame.refl _ _

theorem execPinBank_frame (r : Req) (bank : BitVec 5) (s : State) : NextFrame [.lnk, .mbx, .chans, .evt, .sec] s (execPinBank r bank s) :=
  ⟨_, rfl, serve_frame (fun _ _ => (bodyPinBank_frame ..).mono) (Frame.refl _ _)⟩

end Sys2Proof.Machine
end

