-- ==== Sys2Proof/Laws/FrameLinks.lean ====
section
/-! SUPPORT. Frames of the links, the registers and the NoC. -/

set_option Elab.async false

namespace Sys2Proof.Machine

theorem raiseSched_frame (ev : Ev) (p n : Nat) (l : List (BitVec 16)) (s : State) :
    Frame [.lnk, .mbx, .evt] s (raiseSched ev p n l s) := by
  induction n generalizing l s with
  | zero =>
    unfold raiseSched
    exact Frame.refl _ _
  | succ n ih =>
    unfold raiseSched
    split
    · exact Frame.refl _ _
    · exact (ih ..).after ((raise_frame ..).after (Frame.refl _ _))

theorem resumeChan_frame (s : State) (n : BitVec 16) : Frame [.lnk] s (resumeChan s n) := by
  unfold resumeChan
  dsimp only [setLnk_eq]
  repeat' first | with_reducible apply Frame.refl | exact rfl | with_reducible apply Frame.after (setLnk_frame ..) | split

theorem checkFloors_frame (p : Nat) (s : State) : Frame [.lnk, .mbx, .evt] s (checkFloors p s) := by
  unfold checkFloors
  dsimp only
  repeat' first | with_reducible apply Frame.refl | exact rfl | with_reducible apply Frame.foldl | with_reducible apply Frame.after (raiseSched_frame ..) | with_reducible apply Frame.after (resumeChan_frame ..) | with_reducible apply Frame.after (updPort_frame ..) | intro _

theorem dropUpstream_frame (p : Nat) (s : State) : Frame [.lnk] s (dropUpstream p s) := by
  unfold dropUpstream
  dsimp only [setLnk_eq]
  repeat' first | with_reducible apply Frame.refl | exact rfl | with_reducible apply Frame.after (setLnk_frame ..) | split

theorem failStep_frame (p : Nat) (cause : Nat) (s : State) : Frame [.lnk, .mbx, .evt] s (failStep p cause s) := by
  unfold failStep
  dsimp only
  repeat' first | with_reducible apply Frame.refl | exact rfl | with_reducible apply Frame.after (dropUpstream_frame ..) | with_reducible apply Frame.after (raise_frame ..) | with_reducible apply Frame.after (updPort_frame ..) | intro _

theorem updFaces_frame (l : List Nat) (f : Face → Face) (s : State) : Frame [.lnk] s (updFaces l f s) := by
  unfold updFaces
  dsimp only [setLnk_eq]
  repeat' first | with_reducible apply Frame.refl | exact rfl | with_reducible apply Frame.after (setLnk_frame ..) | with_reducible apply Frame.foldl | intro _

theorem faceClear_frame (p : Nat) (s : State) : Frame [.lnk] s (faceClear p s) := by
  unfold faceClear
  repeat' first | with_reducible apply Frame.refl | exact rfl | with_reducible apply Frame.after (updFaces_frame ..) | intro _

theorem linkFall_frame (p : Nat) (dest : LnkSt) (cause : Nat) (s : State) : Frame [.lnk, .mbx, .evt] s (linkFall p dest cause s) := by
  unfold linkFall
  dsimp only
  repeat' first | with_reducible apply Frame.refl | exact rfl | with_reducible apply Frame.after (checkFloors_frame ..) | with_reducible apply Frame.after (dropUpstream_frame ..) | with_reducible apply Frame.after (faceClear_frame ..) | with_reducible apply Frame.after (finishOpt_frame ..) | with_reducible apply Frame.after (raise_frame ..) | with_reducible apply Frame.after (updPort_frame ..) | intro _

theorem allLinksFall_frame (cause : Nat) (s : State) : Frame [.lnk, .mbx, .evt] s (allLinksFall cause s) := by
  unfold allLinksFall
  repeat' first | with_reducible apply Frame.refl | exact rfl | split | with_reducible apply Frame.forEach | with_reducible apply Frame.after (linkFall_frame ..) | intro _

theorem loseFabricClock_frame (cause port : Nat) (s : State) : Frame [.align, .clk, .ctx, .fab, .lnk, .pins, .mbx, .chans, .evt] s (loseFabricClock cause port s) := by
  unfold loseFabricClock
  dsimp only [setAlignClkLnk_eq]
  repeat' first | with_reducible apply Frame.refl | exact rfl | with_reducible apply Frame.after (setAlignClkLnk_frame ..) | split | with_reducible apply Frame.forEach | with_reducible apply Frame.after (leaveRunning_frame ..) | with_reducible apply Frame.after (raise_frame ..) | with_reducible apply Frame.after (updPll_frame ..) | intro _

theorem loseUpstream_frame (s : State) : Frame [.align, .clk, .ctx, .fab, .lnk, .pins, .mbx, .chans, .evt] s (loseUpstream s) := by
  unfold loseUpstream
  dsimp only [setLnk_eq]
  repeat' first | with_reducible apply Frame.refl | exact rfl | with_reducible apply Frame.after (setLnk_frame ..) | split | with_reducible apply Frame.forEach | with_reducible apply Frame.after (allLinksFall_frame ..) | with_reducible apply Frame.after (loseFabricClock_frame ..) | with_reducible apply Frame.after (updPll_frame ..) | intro _

theorem poisonLink_frame (p : Nat) (s : State) : Frame [.lnk, .mbx, .evt] s (poisonLink p s) := by
  unfold poisonLink
  dsimp only
  repeat' first | with_reducible apply Frame.refl | exact rfl | with_reducible apply Frame.after (raise_frame ..) | with_reducible apply Frame.after (updFaces_frame ..) | with_reducible apply Frame.after (updPort_frame ..) | intro _

theorem giveTxn_frame (p : Nat) (k : TxnPkt) (s : State) : Frame [.lnk] s (giveTxn p k s) := by
  unfold giveTxn
  repeat' first | with_reducible apply Frame.refl | exact rfl | with_reducible apply Frame.after (updPort_frame ..) | intro _

theorem drainMgmt_frame (p n : Nat) (s : State) : Frame [.lnk, .mbx] s (drainMgmt p n s) := by
  induction n generalizing s with
  | zero =>
    unfold drainMgmt
    exact Frame.refl _ _
  | succ n ih =>
    unfold drainMgmt
    split
    · exact Frame.refl _ _
    · split
      · exact (ih ..).after ((updPort_frame ..).after ((setMbx_frame ..).after (Frame.refl _ _)))
      · exact Frame.refl _ _

theorem moveTxn_frame {p : Nat} {k : TxnPkt} {x t : State} (h : moveTxn p k x = some t) : Frame [.lnk] x t := by
  unfold moveTxn at h
  split at h
  · cases h
    exact (updPort_frame ..).after (Frame.refl _ _)
  · split at h
    · cases h
      exact (giveTxn_frame ..).after (Frame.refl _ _)
    · cases h
  · cases h

theorem moveTxn_getD_frame {p : Nat} {k : TxnPkt} {s x : State} (h : Frame [.lnk] s x) :
    Frame [.lnk] s ((moveTxn p k x).getD s) := by
  cases hm : moveTxn p k x with
  | none => exact Frame.refl _ _
  | some t => exact (moveTxn_frame hm).trans h

theorem sendRsp_frame (from_ : Nat) (k : TxnPkt) (s : State) : Frame [.lnk] s (sendRsp from_ k s) :=
  moveTxn_getD_frame (Frame.refl _ _)

theorem arriveTxn_frame (p : Nat) (k : TxnPkt) (s : State) : Frame [.lnk] s (arriveTxn p k s) := by
  unfold arriveTxn
  dsimp only
  split
  · rename_i h
    exact moveTxn_frame h
  · split
    · exact Frame.refl _ _
    · exact sendRsp_frame ..

theorem passReserve_frame (q : Nat) (m : MgmtMsg) (s : State) : Frame [.lnk, .mbx] s (passReserve q m s).1 := by
  unfold passReserve
  dsimp only
  repeat' first | with_reducible apply Frame.refl | exact rfl | split | with_reducible apply Frame.after (sendMgmt_frame ..) | with_reducible apply Frame.after (updPort_frame ..) | intro _

theorem learnSlots_frame (p : Nat) (m : MgmtMsg) (s : State) : Frame [.lnk] s (learnSlots p m s) := by
  unfold learnSlots
  dsimp only
  repeat' first | with_reducible apply Frame.refl | exact rfl | with_reducible apply Frame.foldl | with_reducible apply Frame.after (updPort_frame ..) | intro _

theorem learnRelease_frame (p : Nat) (m : MgmtMsg) (s : State) : Frame [.lnk] s (learnRelease p m s) := by
  unfold learnRelease
  dsimp only
  repeat' first | with_reducible apply Frame.refl | exact rfl | with_reducible apply Frame.after (updPort_frame ..) | intro _

theorem arriveMgmt_frame (p : Nat) (m : MgmtMsg) (s : State) : Frame [.lnk, .mbx] s (arriveMgmt p m s) := by
  have hg : ∀ (q : Nat) (m' : MgmtMsg) (x : State), Frame [.lnk, .mbx] s x →
      Frame [.lnk, .mbx] s (if linkUpAt x q then giveMgmt q m' x else x) := by
    intro q m' x h
    split
    · exact (giveMgmt_frame ..).after h
    · exact h
  unfold arriveMgmt
  extract_lets r m1 s1
  have h : Frame [.lnk, .mbx] s s1 := by
    unfold s1
    split
    · exact (learnSlots_frame ..).after (Frame.refl _ _)
    · exact (learnRelease_frame ..).after (Frame.refl _ _)
    · exact Frame.refl _ _
  clear_value s1
  split
  · split
    · exact h
    · exact h
    · exact (updPort_frame ..).after h
  · split
    · split
      · rename_i hp
        exact hg _ _ _ ((congrArg Prod.fst hp ▸ passReserve_frame ..).after h)
      · rename_i hp
        exact (congrArg Prod.fst hp ▸ passReserve_frame ..).after h
    · exact hg _ _ _ ((learnRelease_frame ..).after h)
    · exact hg _ _ _ h
  · exact h

theorem answerTxn_frame (x : Served) (st : Status) (data : List W64) (s : State) : Frame [.lnk] s (answerTxn x st data s) := by
  unfold answerTxn
  dsimp only [setLnk_eq]
  repeat' first | with_reducible apply Frame.refl | exact rfl | with_reducible apply Frame.after (setLnk_frame ..) | with_reducible apply Frame.after (sendRsp_frame ..)

theorem completeReq_frame (q : NocReq) (st : Status) (data : List W64) (s : State) : Frame [.noc, .lnk] s (completeReq q st data s) := by
  unfold completeReq
  dsimp only [setNoc_eq]
  repeat' first | with_reducible apply Frame.refl | exact rfl | with_reducible apply Frame.after (setNoc_frame ..) | split | with_reducible apply Frame.after (answerTxn_frame ..) | with_reducible apply Frame.after (updNport_frame ..) | intro _

theorem writeWs_frame (s : State) (q : NocReq) : Frame [.load] s (writeWs s q).2 := by
  unfold writeWs
  dsimp only [setLoad_eq]
  repeat' first | with_reducible apply Frame.refl | exact rfl | with_reducible apply Frame.after (setLoad_frame ..) | split | with_reducible apply Frame.foldl | intro _

theorem accessHost_frame (s : State) (q : NocReq) : Frame [.evt] s (accessHost s q).2.2 := by
  unfold accessHost
  dsimp only [setEvt_eq]
  repeat' first | with_reducible apply Frame.refl | exact rfl | with_reducible apply Frame.after (setEvt_frame ..) | split | with_reducible apply Frame.foldl | intro _

theorem accessChain_frame (j : Nat) (q : NocReq) (s : State) : Frame [.noc, .lnk] s (accessChain j q s) := by
  unfold accessChain
  dsimp only [setLnk_eq]
  repeat' first | with_reducible apply Frame.refl | exact rfl | with_reducible apply Frame.after (setLnk_frame ..) | split | with_reducible apply Frame.after (respond_frame ..) | exact (moveTxn_getD_frame ((setLnk_frame ..).after (Frame.refl _ _))).after (Frame.refl _ _) | intro _

theorem reachTarget_frame (q : NocReq) (s : State) : Frame [.load, .noc, .lnk, .evt] s (reachTarget q s) := by
  unfold reachTarget
  dsimp only [setNoc_eq]
  repeat' first | with_reducible apply Frame.refl | exact rfl | with_reducible apply Frame.after (setNoc_frame ..) | split | with_reducible apply Frame.after (accessChain_frame ..) | with_reducible apply Frame.after (accessHost_frame ..) | with_reducible apply Frame.after (respond_frame ..) | with_reducible apply Frame.after (writeWs_frame ..) | intro _

theorem issueReq_frame (q : NocReq) (s : State) : Frame [.load, .noc, .lnk, .evt] s (issueReq q s) := by
  unfold issueReq
  dsimp only [setNoc_eq]
  repeat' first | with_reducible apply Frame.refl | exact rfl | with_reducible apply Frame.after (setNoc_frame ..) | split | with_reducible apply Frame.after (completeReq_frame ..) | with_reducible apply Frame.after (reachTarget_frame ..)

theorem settlePort_frame (n k : Nat) (s : State) : Frame [.load, .noc, .lnk, .evt] s (settlePort n k s) := by
  induction k generalizing s with
  | zero =>
    unfold settlePort
    exact Frame.refl _ _
  | succ k ih =>
    unfold settlePort
    dsimp only
    split
    · exact (updNport_frame ..).after (Frame.refl _ _)
    · split
      · exact (ih ..).after ((issueReq_frame ..).after ((updNport_frame ..).after ((updNport_frame ..).after (Frame.refl _ _))))
      · exact (updNport_frame ..).after (Frame.refl _ _)

theorem settle_frame (n : Nat) (s : State) : Frame [.load, .noc, .lnk, .evt] s (settle n s) := by
  unfold settle
  repeat' first | with_reducible apply Frame.refl | exact rfl | with_reducible apply Frame.after (settlePort_frame ..)

theorem queueReq_frame (q : NocReq) (s : State) : Frame [.load, .noc, .lnk, .evt] s (queueReq q s) := by
  unfold queueReq
  dsimp only
  repeat' first | with_reducible apply Frame.refl | exact rfl | with_reducible apply Frame.after (settle_frame ..) | with_reducible apply Frame.after (updNport_frame ..) | intro _

theorem execNocRequestIssue_frame (q : NocReq) (s : State) : NextFrame [.load, .noc, .lnk, .evt] s (execNocRequestIssue q s) := by
  unfold execNocRequestIssue
  repeat' first | with_reducible apply Frame.refl | exact rfl | with_reducible apply NextFrame.mk | split | with_reducible apply Frame.after (issueReq_frame ..) | with_reducible apply Frame.after (queueReq_frame ..)

theorem dropRsp_frame (r : NocRsp) (s : State) : Frame [.noc] s (dropRsp r s) := by
  unfold dropRsp
  dsimp only [setNoc_eq]
  repeat' first | with_reducible apply Frame.refl | exact rfl | with_reducible apply Frame.after (setNoc_frame ..)

theorem execNocResponseDelivered_frame (src : BitVec 8) (tag : BitVec 12) (s : State) : NextFrame [.load, .noc, .lnk, .evt] s (execNocResponseDelivered src tag s) := by
  unfold execNocResponseDelivered
  dsimp only [setNoc_eq]
  repeat' first | with_reducible apply Frame.refl | exact rfl | with_reducible apply NextFrame.mk | with_reducible apply Frame.after (setNoc_frame ..) | split | with_reducible apply Frame.after (completeReq_frame ..) | with_reducible apply Frame.after (dropRsp_frame ..) | with_reducible apply Frame.after (settle_frame ..) | intro _

theorem execNocRequestTimeout_frame (src : BitVec 8) (tag : BitVec 12) (s : State) : NextFrame [.load, .noc, .lnk, .evt] s (execNocRequestTimeout src tag s) := by
  unfold execNocRequestTimeout
  dsimp only [setNoc_eq]
  repeat' first | with_reducible apply Frame.refl | exact rfl | with_reducible apply NextFrame.mk | with_reducible apply Frame.after (setNoc_frame ..) | split | with_reducible apply Frame.after (completeReq_frame ..) | with_reducible apply Frame.after (settle_frame ..) | intro _

theorem execTimedOutTagFree_frame (src : BitVec 8) (tag : BitVec 12) (s : State) : NextFrame [.load, .noc, .lnk, .evt] s (execTimedOutTagFree src tag s) := by
  unfold execTimedOutTagFree
  dsimp only [setNocLnk_eq]
  repeat' first | with_reducible apply Frame.refl | exact rfl | with_reducible apply NextFrame.mk | with_reducible apply Frame.after (setNocLnk_frame ..) | split | with_reducible apply Frame.after (settle_frame ..) | intro _

theorem refusePortReq_frame (n : Nat) (c : W64) (s : State) : Frame [.load, .noc, .lnk, .evt] s (refusePortReq n c s) := by
  unfold refusePortReq
  dsimp only
  repeat' first | with_reducible apply Frame.refl | exact rfl | with_reducible apply Frame.after (settle_frame ..) | with_reducible apply Frame.after (updNport_frame ..) | intro _

theorem execNocPortReqPush_frame (port : Fin 64) (word : W64) (last : Bool) (s : State) : NextFrame [.load, .noc, .lnk, .evt] s (execNocPortReqPush port word last s) := by
  unfold execNocPortReqPush
  dsimp only
  repeat' first | with_reducible apply Frame.refl | exact rfl | with_reducible apply NextFrame.mk | split | with_reducible apply Frame.after (queueReq_frame ..) | with_reducible apply Frame.after (refusePortReq_frame ..) | with_reducible apply Frame.after (updNport_frame ..) | intro _

theorem execNocPortRspPop_frame (port : Fin 64) (s : State) : NextFrame [.load, .noc, .lnk, .evt] s (execNocPortRspPop port s) := by
  unfold execNocPortRspPop
  dsimp only
  repeat' first | with_reducible apply Frame.refl | exact rfl | with_reducible apply NextFrame.mk | split | with_reducible apply Frame.after (settle_frame ..) | with_reducible apply Frame.after (updNport_frame ..) | intro _

theorem updFace_frame (n : Nat) (f : Face → Face) (s : State) : Frame [.lnk] s (updFace n f s) := by
  unfold updFace
  repeat' first | with_reducible apply Frame.refl | exact rfl | with_reducible apply Frame.after (updFaces_frame ..)

theorem execSchedWordSend_frame (port : Fin 64) (word : W64) (valid : Bool) (s : State) : NextFrame [.lnk] s (execSchedWordSend port word valid s) := by
  unfold execSchedWordSend
  dsimp only
  repeat' first | with_reducible apply Frame.refl | exact rfl | with_reducible apply NextFrame.mk | split | with_reducible apply Frame.after (updFace_frame ..) | intro _

theorem execSchedWordDeliver_frame (port : Fin 64) (s : State) : NextFrame [.lnk] s (execSchedWordDeliver port s) := by
  unfold execSchedWordDeliver
  dsimp only
  repeat' first | with_reducible apply Frame.refl | exact rfl | with_reducible apply NextFrame.mk | split | with_reducible apply Frame.after (updFace_frame ..) | intro _

theorem execRouterReconfigDone_frame (router : Fin 64) (empty : Bool) (s : State) : NextFrame [.noc, .lnk, .mbx, .evt] s (execRouterReconfigDone router empty s) := by
  unfold execRouterReconfigDone
  repeat' first | with_reducible apply Frame.refl | exact rfl | with_reducible apply NextFrame.mk | split | with_reducible apply Frame.after (finish_frame ..) | with_reducible apply Frame.after (updRouter_frame ..) | intro _

theorem execNocRouterFailed_frame (router : Fin 64) (s : State) : NextFrame [.ext, .noc, .lnk, .mbx, .evt] s (execNocRouterFailed router s) := by
  unfold execNocRouterFailed
  repeat' first | with_reducible apply Frame.refl | exact rfl | with_reducible apply NextFrame.mk | split | with_reducible apply Frame.after (assertError_frame ..) | with_reducible apply Frame.after (raise_frame ..) | with_reducible apply Frame.after (updRouter_frame ..) | intro _

theorem nocWarmReset_frame (s : State) : Frame [.load, .noc, .lnk, .evt] s (nocWarmReset s) := by
  unfold nocWarmReset
  dsimp only [setNoc_eq]
  repeat' first | with_reducible apply Frame.refl | exact rfl | with_reducible apply Frame.after (setNoc_frame ..) | with_reducible apply Frame.foldl | with_reducible apply Frame.forEach | with_reducible apply Frame.after (completeReq_frame ..) | with_reducible apply Frame.after (settle_frame ..) | intro _

theorem bodyNocStatus_frame (_org : Origin) (s : State) : AnsFrame [] s (bodyNocStatus _org s) := by
  unfold bodyNocStatus
  repeat' first | with_reducible apply Frame.refl | exact rfl | with_reducible apply AnsFrame.refuse | with_reducible apply AnsFrame.done | intro _ | with_reducible apply AnsFrame.lit | intro _ | exact Frame.refl _ _

theorem execNocStatus_frame (r : Req) (s : State) : NextFrame [.lnk, .mbx, .chans, .evt, .sec] s (execNocStatus r s) :=
  ⟨_, rfl, serve_frame (fun _ _ => (bodyNocStatus_frame ..).mono) (Frame.refl _ _)⟩

theorem bodyNocTimeout_frame (k us : Nat) (_org : Origin) (s : State) : AnsFrame [.noc] s (bodyNocTimeout k us _org s) := by
  unfold bodyNocTimeout
  dsimp only [setNoc_eq]
  repeat' first | with_reducible apply Frame.refl | exact rfl | with_reducible apply AnsFrame.refuse | with_reducible apply AnsFrame.done | with_reducible apply Frame.after (setNoc_frame ..) | split | with_reducible apply AnsFrame.lit | intro _ | exact Frame.refl _ _

theorem execNocTimeout_frame (r : Req) (source : BitVec 8) (us : BitVec 20) (s : State) : NextFrame [.noc, .lnk, .mbx, .chans, .evt, .sec] s (execNocTimeout r source us s) :=
  ⟨_, rfl, serve_frame (fun _ _ => (bodyNocTimeout_frame ..).mono) (Frame.refl _ _)⟩

theorem bodyNocRouterCfg_frame (n rt hi norm bulk : Nat) (org : Origin) (s : State) : AnsFrame [.noc] s (bodyNocRouterCfg n rt hi norm bulk org s) := by
  unfold bodyNocRouterCfg
  dsimp only
  repeat' first | with_reducible apply Frame.refl | exact rfl | with_reducible apply AnsFrame.refuse | with_reducible apply AnsFrame.done | split | with_reducible apply Frame.after (updRouter_frame ..) | intro _ | with_reducible apply AnsFrame.lit | intro _ | exact Frame.refl _ _

theorem execNocRouterCfg_frame (r : Req) (router : BitVec 6) (rt hi norm bulk : BitVec 4) (s : State) : NextFrame [.noc, .lnk, .mbx, .chans, .evt, .sec] s (execNocRouterCfg r router rt hi norm bulk s) :=
  ⟨_, rfl, serve_frame (fun _ _ => (bodyNocRouterCfg_frame ..).mono) (Frame.refl _ _)⟩

theorem bodyNocCounters_frame (k : Nat) (clear : Bool) (_org : Origin) (s : State) : AnsFrame [.noc] s (bodyNocCounters k clear _org s) := by
  unfold bodyNocCounters
  dsimp only [setNoc_eq]
  repeat' first | with_reducible apply Frame.refl | exact rfl | with_reducible apply AnsFrame.refuse | with_reducible apply AnsFrame.done | with_reducible apply Frame.after (setNoc_frame ..) | split | with_reducible apply AnsFrame.lit | intro _ | exact Frame.refl _ _

theorem execNocCounters_frame (r : Req) (source : BitVec 8) (clear : Bool) (s : State) : NextFrame [.noc, .lnk, .mbx, .chans, .evt, .sec] s (execNocCounters r source clear s) :=
  ⟨_, rfl, serve_frame (fun _ _ => (bodyNocCounters_frame ..).mono) (Frame.refl _ _)⟩

theorem raiseReversed_frame (p cause lane : Nat) (s : State) : Frame [.lnk, .mbx, .evt] s (raiseReversed p cause lane s) := by
  unfold raiseReversed
  repeat' first | with_reducible apply Frame.refl | exact rfl | with_reducible apply Frame.after (raise_frame ..)

theorem execLinkDetectStep_frame (port : Fin 6) (clk : DetectFind) (lanes : List DetectFind) (s : State) : NextFrame [.lnk, .mbx, .evt] s (execLinkDetectStep port clk lanes s) := by
  unfold execLinkDetectStep
  dsimp only
  repeat' first | with_reducible apply Frame.refl | exact rfl | with_reducible apply NextFrame.mk | split | with_reducible apply Frame.after (failStep_frame ..) | with_reducible apply Frame.after (raiseReversed_frame ..) | with_reducible apply Frame.after (updPort_frame ..) | intro _

theorem endReset_frame (p : Nat) (org : Origin) (ok : Bool) (s : State) : Frame [.lnk, .mbx, .evt] s (endReset p org ok s) := by
  unfold endReset
  dsimp only
  repeat' first | with_reducible apply Frame.refl | exact rfl | split | with_reducible apply Frame.foldl | with_reducible apply Frame.after (faceClear_frame ..) | with_reducible apply Frame.after (finish_frame ..) | with_reducible apply Frame.after (linkFall_frame ..) | with_reducible apply Frame.after (raiseSched_frame ..) | with_reducible apply Frame.after (resumeChan_frame ..) | with_reducible apply Frame.after (updPort_frame ..) | intro _

theorem execLinkTrainingStepDone_frame (port : Fin 6) (obs : TrainObs) (s : State) : NextFrame [.lnk, .mbx, .evt] s (execLinkTrainingStepDone port obs s) := by
  unfold execLinkTrainingStepDone
  dsimp only
  repeat' first | with_reducible apply Frame.refl | exact rfl | with_reducible apply NextFrame.mk | split | with_reducible apply Frame.forEach | with_reducible apply Frame.after (endReset_frame ..) | with_reducible apply Frame.after (failStep_frame ..) | with_reducible apply Frame.after (raiseReversed_frame ..) | with_reducible apply Frame.after (updPort_frame ..) | intro _

theorem execLinkStepTimeout_frame (port : Fin 6) (s : State) : NextFrame [.lnk, .mbx, .evt] s (execLinkStepTimeout port s) := by
  unfold execLinkStepTimeout
  dsimp only
  repeat' first | with_reducible apply Frame.refl | exact rfl | with_reducible apply NextFrame.mk | split | with_reducible apply Frame.after (failStep_frame ..) | with_reducible apply Frame.after (linkFall_frame ..)

theorem execLinkRetryTimer_frame (port : Fin 6) (s : State) : NextFrame [.lnk] s (execLinkRetryTimer port s) := by
  unfold execLinkRetryTimer
  repeat' first | with_reducible apply Frame.refl | exact rfl | with_reducible apply NextFrame.mk | with_reducible apply Frame.after (updPort_frame ..) | intro _

theorem checkGrade_frame (p : Nat) (m : Byte) (s : State) : Frame [.clk, .lnk, .mbx, .evt] s (checkGrade p m s) := by
  unfold checkGrade
  dsimp only [setClk_eq]
  repeat' first | with_reducible apply Frame.refl | exact rfl | with_reducible apply Frame.after (setClk_frame ..) | split | with_reducible apply Frame.after (raise_frame ..)

theorem execCapabilityWord_frame (port : Fin 6) (c : Capability) (s : State) :
    NextFrame [.clk, .lnk, .mbx, .evt] s (execCapabilityWord port c s) := by
  unfold execCapabilityWord
  extract_lets p s1 src s2 s3
  have h1 : Frame [.clk, .lnk, .mbx, .evt] s s1 := (updPort_frame ..).after (Frame.refl _ _)
  have h2 : Frame [.clk, .lnk, .mbx, .evt] s s2 := by
    unfold s2
    dsimp only [setLnk_eq]
    split
    · exact (setLnk_frame ..).after h1
    · exact h1
  have h3 : Frame [.clk, .lnk, .mbx, .evt] s s3 := by
    unfold s3
    split
    · exact (checkGrade_frame ..).after h2
    · exact h2
  split
  · exact NextFrame.mk (Frame.refl _ _)
  · split
    · exact NextFrame.mk ((failStep_frame ..).after h1)
    · split
      · exact NextFrame.mk ((failStep_frame ..).after h1)
      · exact NextFrame.mk ((updPort_frame ..).after h3)

theorem takeUpstream_frame (p : Nat) (c : Capability) (s : State) : Frame [.clk, .lnk] s (takeUpstream p c s) := by
  unfold takeUpstream
  dsimp only [setClkLnk_eq]
  repeat' first | with_reducible apply Frame.refl | exact rfl | with_reducible apply Frame.after (setClkLnk_frame ..) | split | with_reducible apply Frame.forEach | with_reducible apply Frame.after (updPll_frame ..) | intro _

theorem execLinkUp_frame (port : Fin 6) (s : State) : NextFrame [.clk, .lnk, .mbx, .evt] s (execLinkUp port s) := by
  unfold execLinkUp
  dsimp only
  repeat' first | with_reducible apply Frame.refl | exact rfl | with_reducible apply NextFrame.mk | split | with_reducible apply Frame.after (checkFloors_frame ..) | with_reducible apply Frame.after (raise_frame ..) | with_reducible apply Frame.after (takeUpstream_frame ..) | with_reducible apply Frame.after (updPort_frame ..) | intro _

theorem startStep_frame (p : Nat) (st : LaneStep) (code : Byte) (data : BitVec 48) (s : State) : Frame [.lnk] s (startStep p st code data s) := by
  unfold startStep
  repeat' first | with_reducible apply Frame.refl | exact rfl | with_reducible apply Frame.after (updPort_frame ..) | intro _

theorem execLaneFailed_frame (port : Fin 6) (lane : Fin 9) (s : State) : NextFrame [.lnk, .mbx, .evt] s (execLaneFailed port lane s) := by
  unfold execLaneFailed
  dsimp only
  repeat' first | with_reducible apply Frame.refl | exact rfl | with_reducible apply NextFrame.mk | split | with_reducible apply Frame.after (linkFall_frame ..) | with_reducible apply Frame.after (startStep_frame ..) | with_reducible apply Frame.after (updPort_frame ..) | intro _

theorem acknowledge_frame (p : Nat) (st : LaneStep) (failed : BitVec 9) (s : State) : Frame [.lnk, .free] s (acknowledge p st failed s) := by
  unfold acknowledge
  dsimp only
  repeat' first | with_reducible apply Frame.refl | exact rfl | with_reducible apply Frame.after (updPort_frame ..) | with_reducible apply Frame.after (useFree_frame ..) | intro _

theorem execSpareRequest_frame (port : Fin 6) (lane : Fin 9) (s : State) : NextFrame [.lnk, .free] s (execSpareRequest port lane s) := by
  unfold execSpareRequest
  dsimp only
  repeat' first | with_reducible apply Frame.refl | exact rfl | with_reducible apply NextFrame.mk | split | with_reducible apply Frame.after (acknowledge_frame ..) | intro _

theorem execWidthRequest_frame (port : Fin 6) (code : BitVec 2) (mask : BitVec 9) (s : State) : NextFrame [.lnk, .free] s (execWidthRequest port code mask s) := by
  unfold execWidthRequest
  dsimp only
  repeat' first | with_reducible apply Frame.refl | exact rfl | with_reducible apply NextFrame.mk | split | with_reducible apply Frame.after (acknowledge_frame ..)

theorem execLinkAcknowledge_frame (port : Fin 6) (frame : BitVec 32) (s : State) : NextFrame [.lnk] s (execLinkAcknowledge port frame s) := by
  unfold execLinkAcknowledge
  repeat' first | with_reducible apply Frame.refl | exact rfl | with_reducible apply NextFrame.mk | split | with_reducible apply Frame.after (updPort_frame ..) | intro _

theorem switchRx_frame (p : Nat) (st : LaneStep) (s : State) : Frame [.start, .lnk, .mbx, .evt] s (switchRx p st s) := by
  unfold switchRx
  dsimp only [setStart_eq]
  repeat' first | with_reducible apply Frame.refl | exact rfl | with_reducible apply Frame.after (setStart_frame ..) | split | with_reducible apply Frame.after (checkFloors_frame ..) | with_reducible apply Frame.after (finishOpt_frame ..) | with_reducible apply Frame.after (raise_frame ..) | with_reducible apply Frame.after (updPort_frame ..) | intro _

theorem switchTx_frame (p : Nat) (st : LaneStep) (s : State) : Frame [.lnk, .mbx, .evt] s (switchTx p st s) := by
  unfold switchTx
  dsimp only
  repeat' first | with_reducible apply Frame.refl | exact rfl | split | with_reducible apply Frame.after (checkFloors_frame ..) | with_reducible apply Frame.after (raise_frame ..) | with_reducible apply Frame.after (updPort_frame ..) | intro _

theorem execLaneMapSwitch_frame (port : Fin 6) (rx : Bool) (s : State) : NextFrame [.start, .lnk, .mbx, .evt] s (execLaneMapSwitch port rx s) := by
  unfold execLaneMapSwitch
  dsimp only
  repeat' first | with_reducible apply Frame.refl | exact rfl | with_reducible apply NextFrame.mk | split | with_reducible apply Frame.after (switchRx_frame ..) | with_reducible apply Frame.after (switchTx_frame ..)

theorem execSpareLaneCheck_frame (port : Fin 6) (errors : BitVec 32) (s : State) : NextFrame [.lnk, .mbx, .evt] s (execSpareLaneCheck port errors s) := by
  unfold execSpareLaneCheck
  dsimp only
  repeat' first | with_reducible apply Frame.refl | exact rfl | with_reducible apply NextFrame.mk | split | with_reducible apply Frame.after (raise_frame ..) | with_reducible apply Frame.after (updPort_frame ..) | intro _

theorem execWidenPrbsCheckDone_frame (port : Fin 6) (good : BitVec 9) (s : State) : NextFrame [.lnk, .mbx, .evt] s (execWidenPrbsCheckDone port good s) := by
  unfold execWidenPrbsCheckDone
  dsimp only
  repeat' first | with_reducible apply Frame.refl | exact rfl | with_reducible apply NextFrame.mk | split | with_reducible apply Frame.after (finish_frame ..) | with_reducible apply Frame.after (startStep_frame ..) | with_reducible apply Frame.after (updPort_frame ..) | intro _

theorem execDelayMeasurementRequest_frame (port : Fin 6) (stamp turnaround : BitVec 48) (s : State) : NextFrame [.lnk] s (execDelayMeasurementRequest port stamp turnaround s) := by
  unfold execDelayMeasurementRequest
  dsimp only
  repeat' first | with_reducible apply Frame.refl | exact rfl | with_reducible apply NextFrame.mk | split | with_reducible apply Frame.after (updPort_frame ..) | intro _

theorem execDelayMeasurementReply_frame (port : Fin 6) (stamp now : BitVec 48) (s : State) : NextFrame [.lnk] s (execDelayMeasurementReply port stamp now s) := by
  unfold execDelayMeasurementReply
  dsimp only
  repeat' first | with_reducible apply Frame.refl | exact rfl | with_reducible apply NextFrame.mk | split | with_reducible apply Frame.after (updPort_frame ..) | intro _

theorem execPoisonNotice_frame (port : Fin 6) (poisoned : Bool) (s : State) : NextFrame [.lnk] s (execPoisonNotice port poisoned s) := by
  unfold execPoisonNotice
  repeat' first | with_reducible apply Frame.refl | exact rfl | with_reducible apply NextFrame.mk | split | with_reducible apply Frame.after (updPort_frame ..) | intro _

theorem execUpstreamClockLost_frame (s : State) : NextFrame [.align, .clk, .ctx, .fab, .lnk, .pins, .mbx, .chans, .evt] s (execUpstreamClockLost s) := by
  unfold execUpstreamClockLost
  repeat' first | with_reducible apply Frame.refl | exact rfl | with_reducible apply NextFrame.mk | split | with_reducible apply Frame.after (loseUpstream_frame ..)

theorem execClockLossRetrain_frame (s : State) : NextFrame [.lnk] s (execClockLossRetrain s) := by
  unfold execClockLossRetrain
  dsimp only [setLnk_eq]
  repeat' first | with_reducible apply Frame.refl | exact rfl | with_reducible apply NextFrame.mk | with_reducible apply Frame.after (setLnk_frame ..)

theorem execFabricClockLost_frame (cause : BitVec 8) (s : State) : NextFrame [.align, .clk, .ctx, .fab, .lnk, .pins, .mbx, .chans, .evt] s (execFabricClockLost cause s) := by
  unfold execFabricClockLost
  repeat' first | with_reducible apply Frame.refl | exact rfl | with_reducible apply NextFrame.mk | split | with_reducible apply Frame.after (loseFabricClock_frame ..)

theorem sendBeacon_frame (p : Nat) (s : State) : Frame [.lnk, .free] s (sendBeacon p s) := by
  unfold sendBeacon
  dsimp only
  repeat' first | with_reducible apply Frame.refl | exact rfl | split | with_reducible apply Frame.after (updPort_frame ..) | with_reducible apply Frame.after (useFree_frame ..) | intro _

theorem execBeaconSend_frame (s : State) : NextFrame [.lnk, .free] s (execBeaconSend s) := by
  unfold execBeaconSend
  dsimp only [setLnk_eq]
  repeat' first | with_reducible apply Frame.refl | exact rfl | with_reducible apply NextFrame.mk | with_reducible apply Frame.after (setLnk_frame ..) | split | with_reducible apply Frame.forEach | with_reducible apply Frame.after (sendBeacon_frame ..) | with_reducible apply Frame.after (updPort_frame ..) | intro _

theorem execBeaconReceived_frame (port : Fin 6) (time : W64) (frac : Byte) (arriveFrac : Int) (s : State) : NextFrame [.align, .clk, .ctx, .fab, .lnk, .pins, .mbx, .chans, .evt] s (execBeaconReceived port time frac arriveFrac s) := by
  unfold execBeaconReceived
  dsimp only [setClk_eq]
  dsimp only [setClkLnk_eq]
  repeat' first | with_reducible apply Frame.refl | exact rfl | with_reducible apply NextFrame.mk | with_reducible apply Frame.after (setClk_frame ..) | with_reducible apply Frame.after (setClkLnk_frame ..) | split | with_reducible apply Frame.after (loseUpstream_frame ..) | with_reducible apply Frame.after (raise_frame ..)

theorem takeFlit_frame (p : Nat) (f : Flit) (lost : Bool) (s : State) : Frame [.lnk, .mbx] s (takeFlit p f lost s) := by
  unfold takeFlit
  dsimp only
  repeat' first | with_reducible apply Frame.refl | exact rfl | split | with_reducible apply Frame.after (arriveMgmt_frame ..) | with_reducible apply Frame.after (arriveTxn_frame ..) | with_reducible apply Frame.after (updPort_frame ..) | intro _

theorem deliverSched_frame (c : ChanUse) (payloads : List (Option (BitVec 240))) (s : State) : Frame [.lnk] s (deliverSched c payloads s) := by
  unfold deliverSched
  dsimp only
  repeat' first | with_reducible apply Frame.refl | exact rfl | with_reducible apply Frame.after (updFace_frame ..) | intro _

theorem takeSched_frame (p : Nat) (flits : List (Option Flit)) (n : BitVec 16) (s : State) : Frame [.lnk] s (takeSched p flits n s) := by
  unfold takeSched
  dsimp only
  repeat' first | with_reducible apply Frame.refl | exact rfl | split | with_reducible apply Frame.after (deliverSched_frame ..) | with_reducible apply Frame.after (updPort_frame ..) | intro _

theorem execLinkFrameReceived_frame (port : Fin 6) (hdr : FrameHdr) (flits : List Flit) (bad : List (Nat × Nat)) (corrected : List Nat) (tagFail : Bool) (s : State) : NextFrame [.lnk, .mbx, .evt] s (execLinkFrameReceived port hdr flits bad corrected tagFail s) := by
  unfold execLinkFrameReceived
  dsimp only
  repeat' first | with_reducible apply Frame.refl | exact rfl | with_reducible apply NextFrame.mk | split | with_reducible apply Frame.foldl | with_reducible apply Frame.after (drainMgmt_frame ..) | with_reducible apply Frame.after (poisonLink_frame ..) | with_reducible apply Frame.after (takeFlit_frame ..) | with_reducible apply Frame.after (takeSched_frame ..) | with_reducible apply Frame.after (updPort_frame ..) | intro _

theorem execTxnRequestReceived_frame (port : Fin 6) (s : State) : NextFrame [.load, .noc, .lnk, .evt] s (execTxnRequestReceived port s) := by
  unfold execTxnRequestReceived
  dsimp only [setLnk_eq]
  repeat' first | with_reducible apply Frame.refl | exact rfl | with_reducible apply NextFrame.mk | with_reducible apply Frame.after (setLnk_frame ..) | split | with_reducible apply Frame.after (issueReq_frame ..) | with_reducible apply Frame.after (sendRsp_frame ..) | with_reducible apply Frame.after (updPort_frame ..) | intro _

theorem execTxnResponseReceived_frame (port : Fin 6) (s : State) : NextFrame [.noc, .lnk] s (execTxnResponseReceived port s) := by
  unfold execTxnResponseReceived
  dsimp only [setLnk_eq, setNoc_eq]
  repeat' first | with_reducible apply Frame.refl | exact rfl | with_reducible apply NextFrame.mk | with_reducible apply Frame.after (setLnk_frame ..) | with_reducible apply Frame.after (setNoc_frame ..) | split | with_reducible apply Frame.after (respond_frame ..) | with_reducible apply Frame.after (updPort_frame ..) | intro _

theorem takeMgmt_frame (p : Nat) (m : MgmtMsg) (s : State) : Frame [.lnk] s (takeMgmt p m s) := by
  unfold takeMgmt
  repeat' first | with_reducible apply Frame.refl | exact rfl | with_reducible apply Frame.after (updPort_frame ..) | intro _

theorem execMgmtMessageReceived_frame (port : Fin 6) (s : State) : NextFrame [.lnk, .mbx, .chans, .evt] s (execMgmtMessageReceived port s) := by
  unfold execMgmtMessageReceived
  dsimp only
  repeat' first | with_reducible apply Frame.refl | exact rfl | with_reducible apply NextFrame.mk | split | with_reducible apply Frame.after (answerHw_frame ..) | with_reducible apply Frame.after (pushOrder_frame ..) | with_reducible apply Frame.after (takeMgmt_frame ..) | with_reducible apply Frame.after (updChan_frame ..) | intro _

theorem execMgmtResponseReceived_frame (port : Fin 6) (s : State) : NextFrame [.lnk, .mbx, .chans, .evt] s (execMgmtResponseReceived port s) := by
  unfold execMgmtResponseReceived
  dsimp only [setMbx_eq]
  repeat' first | with_reducible apply Frame.refl | exact rfl | with_reducible apply NextFrame.mk | with_reducible apply Frame.after (setMbx_frame ..) | split | with_reducible apply Frame.after (deliverRaw_frame ..) | with_reducible apply Frame.after (takeMgmt_frame ..) | intro _

theorem execMgmtEventMessage_frame (port : Fin 6) (s : State) : NextFrame [.lnk, .mbx, .evt] s (execMgmtEventMessage port s) := by
  unfold execMgmtEventMessage
  dsimp only [setEvt_eq, setMbx_eq]
  repeat' first | with_reducible apply Frame.refl | exact rfl | with_reducible apply NextFrame.mk | with_reducible apply Frame.after (setEvt_frame ..) | with_reducible apply Frame.after (setMbx_frame ..) | split | with_reducible apply Frame.after (postOverflow_frame ..) | with_reducible apply Frame.after (takeMgmt_frame ..)

theorem execForwardTimeout_frame (s : State) : NextFrame [.lnk, .mbx, .chans, .evt, .sec] s (execForwardTimeout s) := by
  unfold execForwardTimeout
  dsimp only [setMbx_eq]
  repeat' first | with_reducible apply Frame.refl | exact rfl | with_reducible apply NextFrame.mk | with_reducible apply Frame.after (setMbx_frame ..) | split | with_reducible apply Frame.after (answer_frame ..)

theorem bodyLnkStatus_frame (mask : Nat) (_org : Origin) (s : State) : AnsFrame [] s (bodyLnkStatus mask _org s) := by
  unfold bodyLnkStatus
  repeat' first | with_reducible apply Frame.refl | exact rfl | with_reducible apply AnsFrame.refuse | with_reducible apply AnsFrame.done | with_reducible apply AnsFrame.lit | intro _ | exact Frame.refl _ _

theorem execLnkStatus_frame (r : Req) (mask : BitVec 6) (s : State) : NextFrame [.lnk, .mbx, .chans, .evt, .sec] s (execLnkStatus r mask s) :=
  ⟨_, rfl, serve_frame (fun _ _ => (bodyLnkStatus_frame ..).mono) (Frame.refl _ _)⟩

theorem bodyLnkUp_frame (mask : Nat) (encrypt : Bool) (org : Origin) (s : State) : AnsFrame [.lnk, .mbx, .evt] s (bodyLnkUp mask encrypt org s) := by
  unfold bodyLnkUp
  dsimp only
  repeat' first | with_reducible apply Frame.refl | exact rfl | with_reducible apply AnsFrame.refuse | with_reducible apply AnsFrame.done | split | with_reducible apply Frame.forEach | with_reducible apply Frame.after (finish_frame ..) | with_reducible apply Frame.after (updPort_frame ..) | intro _ | with_reducible apply AnsFrame.lit | intro _ | exact Frame.refl _ _

theorem execLnkUp_frame (r : Req) (mask : BitVec 6) (encrypt : Bool) (s : State) : NextFrame [.lnk, .mbx, .chans, .evt, .sec] s (execLnkUp r mask encrypt s) :=
  ⟨_, rfl, serve_frame (fun _ _ => (bodyLnkUp_frame ..).mono) (Frame.refl _ _)⟩

theorem bodyLnkDown_frame (mask : Nat) (_org : Origin) (s : State) : AnsFrame [.align, .clk, .ctx, .fab, .lnk, .pins, .mbx, .chans, .evt] s (bodyLnkDown mask _org s) := by
  unfold bodyLnkDown
  dsimp only
  repeat' first | with_reducible apply Frame.refl | exact rfl | with_reducible apply AnsFrame.refuse | with_reducible apply AnsFrame.done | split | with_reducible apply Frame.forEach | with_reducible apply Frame.after (linkFall_frame ..) | with_reducible apply Frame.after (loseUpstream_frame ..) | with_reducible apply Frame.after (updPort_frame ..) | intro _ | with_reducible apply AnsFrame.lit | intro _ | exact Frame.refl _ _

theorem execLnkDown_frame (r : Req) (mask : BitVec 6) (s : State) : NextFrame [.align, .clk, .ctx, .fab, .lnk, .pins, .mbx, .chans, .evt, .sec] s (execLnkDown r mask s) :=
  ⟨_, rfl, serve_frame (fun _ _ => (bodyLnkDown_frame ..).mono) (Frame.refl _ _)⟩

theorem changeRole_frame (member : Bool) (s : State) : Frame [.align, .clk, .lnk, .mbx, .evt] s (changeRole member s) := by
  unfold changeRole
  dsimp only [setAlignClkLnk_eq]
  repeat' first | with_reducible apply Frame.refl | exact rfl | with_reducible apply Frame.after (setAlignClkLnk_frame ..) | with_reducible apply Frame.after (allLinksFall_frame ..) | with_reducible apply Frame.after (updPll_frame ..) | intro _

theorem bodyLnkRole_frame (member : Bool) (_org : Origin) (s : State) : AnsFrame [.align, .clk, .lnk, .mbx, .evt] s (bodyLnkRole member _org s) := by
  unfold bodyLnkRole
  repeat' first | with_reducible apply Frame.refl | exact rfl | with_reducible apply AnsFrame.refuse | with_reducible apply AnsFrame.done | split | with_reducible apply Frame.after (changeRole_frame ..) | intro _ | with_reducible apply AnsFrame.lit | intro _ | exact Frame.refl _ _

theorem execLnkRole_frame (r : Req) (member : Bool) (s : State) : NextFrame [.align, .clk, .lnk, .mbx, .chans, .evt, .sec] s (execLnkRole r member s) :=
  ⟨_, rfl, serve_frame (fun _ _ => (bodyLnkRole_frame ..).mono) (Frame.refl _ _)⟩

theorem bodyLnkRouteSet_frame (h route next : Nat) (_org : Origin) (s : State) : AnsFrame [.lnk] s (bodyLnkRouteSet h route next _org s) := by
  unfold bodyLnkRouteSet
  dsimp only [setLnk_eq]
  repeat' first | with_reducible apply Frame.refl | exact rfl | with_reducible apply AnsFrame.refuse | with_reducible apply AnsFrame.done | with_reducible apply Frame.after (setLnk_frame ..) | split | with_reducible apply AnsFrame.lit | intro _ | exact Frame.refl _ _

theorem execLnkRouteSet_frame (r : Req) (handle : BitVec 12) (route : W64) (next : BitVec 12) (s : State) : NextFrame [.lnk, .mbx, .chans, .evt, .sec] s (execLnkRouteSet r handle route next s) :=
  ⟨_, rfl, serve_frame (fun _ _ => (bodyLnkRouteSet_frame ..).mono) (Frame.refl _ _)⟩

theorem bodyLnkRouteGet_frame (h : Nat) (_org : Origin) (s : State) : AnsFrame [] s (bodyLnkRouteGet h _org s) := by
  unfold bodyLnkRouteGet
  dsimp only
  repeat' first | with_reducible apply Frame.refl | exact rfl | with_reducible apply AnsFrame.refuse | with_reducible apply AnsFrame.done | with_reducible apply AnsFrame.lit | intro _ | exact Frame.refl _ _

theorem execLnkRouteGet_frame (r : Req) (handle : BitVec 12) (s : State) : NextFrame [.lnk, .mbx, .chans, .evt, .sec] s (execLnkRouteGet r handle s) :=
  ⟨_, rfl, serve_frame (fun _ _ => (bodyLnkRouteGet_frame ..).mono) (Frame.refl _ _)⟩

theorem bodyLnkCwinSet_frame (j h base : Nat) (writeEn atomicEn : Bool) (_org : Origin) (s : State) : AnsFrame [.lnk] s (bodyLnkCwinSet j h base writeEn atomicEn _org s) := by
  unfold bodyLnkCwinSet
  dsimp only [setLnk_eq]
  repeat' first | with_reducible apply Frame.refl | exact rfl | with_reducible apply AnsFrame.refuse | with_reducible apply AnsFrame.done | with_reducible apply Frame.after (setLnk_frame ..) | split | with_reducible apply AnsFrame.lit | intro _ | exact Frame.refl _ _

theorem execLnkCwinSet_frame (r : Req) (window : BitVec 8) (handle base : BitVec 12) (writeEn atomicEn : Bool) (s : State) : NextFrame [.lnk, .mbx, .chans, .evt, .sec] s (execLnkCwinSet r window handle base writeEn atomicEn s) :=
  ⟨_, rfl, serve_frame (fun _ _ => (bodyLnkCwinSet_frame ..).mono) (Frame.refl _ _)⟩

theorem bodyLnkReset_frame (mask : Nat) (org : Origin) (s : State) : AnsFrame [.lnk] s (bodyLnkReset mask org s) := by
  unfold bodyLnkReset
  dsimp only
  repeat' first | with_reducible apply Frame.refl | exact rfl | with_reducible apply AnsFrame.refuse | with_reducible apply AnsFrame.done | split | with_reducible apply Frame.forEach | with_reducible apply Frame.after (updPort_frame ..) | intro _ | with_reducible apply AnsFrame.lit | intro _ | exact Frame.refl _ _

theorem execLnkReset_frame (r : Req) (mask : BitVec 6) (s : State) : NextFrame [.lnk, .mbx, .chans, .evt, .sec] s (execLnkReset r mask s) :=
  ⟨_, rfl, serve_frame (fun _ _ => (bodyLnkReset_frame ..).mono) (Frame.refl _ _)⟩

theorem bodyLnkWiden_frame (mask : Nat) (org : Origin) (s : State) : AnsFrame [.lnk] s (bodyLnkWiden mask org s) := by
  unfold bodyLnkWiden
  dsimp only
  repeat' first | with_reducible apply Frame.refl | exact rfl | with_reducible apply AnsFrame.refuse | with_reducible apply AnsFrame.done | split | with_reducible apply Frame.forEach | with_reducible apply Frame.after (updPort_frame ..) | intro _ | with_reducible apply AnsFrame.lit | intro _ | exact Frame.refl _ _

theorem execLnkWiden_frame (r : Req) (mask : BitVec 6) (s : State) : NextFrame [.lnk, .mbx, .chans, .evt, .sec] s (execLnkWiden r mask s) :=
  ⟨_, rfl, serve_frame (fun _ _ => (bodyLnkWiden_frame ..).mono) (Frame.refl _ _)⟩

theorem bodyLnkTest_frame (port mask pattern : Nat) (pam2 : Bool) (user inject e b : Nat) (_org : Origin) (s : State) : AnsFrame [.lnk] s (bodyLnkTest port mask pattern pam2 user inject e b _org s) := by
  unfold bodyLnkTest
  dsimp only
  repeat' first | with_reducible apply Frame.refl | exact rfl | with_reducible apply AnsFrame.refuse | with_reducible apply AnsFrame.done | split | with_reducible apply Frame.after (updPort_frame ..) | intro _ | with_reducible apply AnsFrame.lit | intro _ | exact Frame.refl _ _

theorem execLnkTest_frame (r : Req) (port : BitVec 3) (laneMask : BitVec 10) (pattern : BitVec 3) (pam2 : Bool) (user : BitVec 160) (injectMode : BitVec 2) (e : BitVec 6) (b : BitVec 7) (s : State) : NextFrame [.lnk, .mbx, .chans, .evt, .sec] s (execLnkTest r port laneMask pattern pam2 user injectMode e b s) :=
  ⟨_, rfl, serve_frame (fun _ _ => (bodyLnkTest_frame ..).mono) (Frame.refl _ _)⟩

theorem bodyLnkTestResult_frame (port : Nat) (_org : Origin) (s : State) : AnsFrame [.lnk, .free] s (bodyLnkTestResult port _org s) := by
  unfold bodyLnkTestResult
  dsimp only
  repeat' first | with_reducible apply Frame.refl | exact rfl | with_reducible apply AnsFrame.refuse | with_reducible apply AnsFrame.done | split | with_reducible apply Frame.after (updPort_frame ..) | with_reducible apply Frame.after (useFree_frame ..) | intro _ | with_reducible apply AnsFrame.lit | intro _ | exact Frame.refl _ _

theorem execLnkTestResult_frame (r : Req) (port : BitVec 3) (s : State) : NextFrame [.lnk, .mbx, .chans, .evt, .sec, .free] s (execLnkTestResult r port s) :=
  ⟨_, rfl, serve_frame (fun _ _ => (bodyLnkTestResult_frame ..).mono) (Frame.refl _ _)⟩

theorem bodyLnkTime_frame (_org : Origin) (s : State) : AnsFrame [] s (bodyLnkTime _org s) := by
  unfold bodyLnkTime
  repeat' first | with_reducible apply Frame.refl | exact rfl | with_reducible apply AnsFrame.refuse | with_reducible apply AnsFrame.done | split | with_reducible apply AnsFrame.lit | intro _ | exact Frame.refl _ _

theorem execLnkTime_frame (r : Req) (s : State) : NextFrame [.lnk, .mbx, .chans, .evt, .sec] s (execLnkTime r s) :=
  ⟨_, rfl, serve_frame (fun _ _ => (bodyLnkTime_frame ..).mono) (Frame.refl _ _)⟩

theorem bodyLnkTimeTrim_frame (port ps : Nat) (_org : Origin) (s : State) : AnsFrame [.lnk] s (bodyLnkTimeTrim port ps _org s) := by
  unfold bodyLnkTimeTrim
  dsimp only
  repeat' first | with_reducible apply Frame.refl | exact rfl | with_reducible apply AnsFrame.refuse | with_reducible apply AnsFrame.done | split | with_reducible apply Frame.after (updPort_frame ..) | intro _ | with_reducible apply AnsFrame.lit | intro _ | exact Frame.refl _ _

theorem execLnkTimeTrim_frame (r : Req) (port : BitVec 3) (asymPs : BitVec 16) (s : State) : NextFrame [.lnk, .mbx, .chans, .evt, .sec] s (execLnkTimeTrim r port asymPs s) :=
  ⟨_, rfl, serve_frame (fun _ _ => (bodyLnkTimeTrim_frame ..).mono) (Frame.refl _ _)⟩

theorem bodyLnkSlots_frame (port : Nat) (_org : Origin) (s : State) : AnsFrame [] s (bodyLnkSlots port _org s) := by
  unfold bodyLnkSlots
  dsimp only
  repeat' first | with_reducible apply Frame.refl | exact rfl | with_reducible apply AnsFrame.refuse | with_reducible apply AnsFrame.done | split | intro _ | with_reducible apply AnsFrame.lit | intro _ | exact Frame.refl _ _

theorem execLnkSlots_frame (r : Req) (port : BitVec 3) (s : State) : NextFrame [.lnk, .mbx, .chans, .evt, .sec] s (execLnkSlots r port s) :=
  ⟨_, rfl, serve_frame (fun _ _ => (bodyLnkSlots_frame ..).mono) (Frame.refl _ _)⟩

theorem bodyLnkFecInject_frame (port lane n m : Nat) (_org : Origin) (s : State) : AnsFrame [.lnk] s (bodyLnkFecInject port lane n m _org s) := by
  unfold bodyLnkFecInject
  repeat' first | with_reducible apply Frame.refl | exact rfl | with_reducible apply AnsFrame.refuse | with_reducible apply AnsFrame.done | split | with_reducible apply Frame.after (updPort_frame ..) | intro _ | with_reducible apply AnsFrame.lit | intro _ | exact Frame.refl _ _

theorem execLnkFecInject_frame (r : Req) (port lane : BitVec 3) (s_ : BitVec 4) (m : BitVec 16) (s : State) : NextFrame [.lnk, .mbx, .chans, .evt, .sec] s (execLnkFecInject r port lane s_ m s) :=
  ⟨_, rfl, serve_frame (fun _ _ => (bodyLnkFecInject_frame ..).mono) (Frame.refl _ _)⟩

theorem bodyLnkLaneLimit_frame (mask limit : Nat) (_org : Origin) (s : State) : AnsFrame [.lnk] s (bodyLnkLaneLimit mask limit _org s) := by
  unfold bodyLnkLaneLimit
  repeat' first | with_reducible apply Frame.refl | exact rfl | with_reducible apply AnsFrame.refuse | with_reducible apply AnsFrame.done | split | with_reducible apply Frame.forEach | with_reducible apply Frame.after (updPort_frame ..) | intro _ | with_reducible apply AnsFrame.lit | intro _ | exact Frame.refl _ _

theorem execLnkLaneLimit_frame (r : Req) (mask : BitVec 6) (limit : BitVec 16) (s : State) : NextFrame [.lnk, .mbx, .chans, .evt, .sec] s (execLnkLaneLimit r mask limit s) :=
  ⟨_, rfl, serve_frame (fun _ _ => (bodyLnkLaneLimit_frame ..).mono) (Frame.refl _ _)⟩

end Sys2Proof.Machine
end

