-- ==== Sys2Proof/Laws/FrameSystem.lean ====
section
/-! SUPPORT. Frames of start, firmware, security and power. -/

set_option Elab.async false

namespace Sys2Proof.Machine

theorem updSec_frame {f : Sec → Sec} (hl : ∀ x : Sec, (f x).life = x.life) (hp : ∀ x : Sec, (f x).pending = x.pending)
    (hv : ∀ x : Sec, Tab.wf 0 x.vault = true → Tab.wf 0 (f x).vault = true) (s : State) : Frame [.sec] s (updSec f s) := by
  unfold updSec
  exact setSec_frame s (f s.sec) (hv _) (hl _) (hp _)

/-- A change of the security core that leaves the life-cycle state, and a transition in progress or ends it. -/
theorem updSec_trans_frame {f : Sec → Sec} (hl : ∀ x : Sec, (f x).life = x.life)
    (hi : ∀ (x : Sec) org o n, (f x).pending = some (org, o, n) → ∃ g, x.pending = some (g, o, n))
    (hv : ∀ x : Sec, Tab.wf 0 x.vault = true → Tab.wf 0 (f x).vault = true) (s : State) :
    Frame [.sec, .trans] s (updSec f s) := by
  constructor
  intro p h
  cases p <;> first | rfl | exact hl _ | exact fun _ _ => rfl | exact fun m => ⟨m.1, hv _ m.2.1, m.2.2⟩ | cases h | skip
  intro q org o n e
  obtain ⟨g, e'⟩ := hi _ org o n e
  obtain ⟨q1, q2⟩ := q g o n e'
  exact ⟨q1.trans (hl _).symm, q2⟩

/-- A change of the security core that leaves no transition in progress. -/
theorem updSec_any_frame {f : Sec → Sec} (hi : ∀ x : Sec, (f x).pending = none)
    (hv : ∀ x : Sec, Tab.wf 0 x.vault = true → Tab.wf 0 (f x).vault = true) (s : State) :
    Frame [.sec, .life, .trans] s (updSec f s) := by
  constructor
  intro p h
  cases p <;> first | rfl | exact fun _ _ => rfl | exact fun m => ⟨m.1, hv _ m.2.1, m.2.2⟩ | cases h | skip
  intro _ org o n e
  exact absurd ((hi _).symm.trans e) (by simp)

theorem drawBootKey_frame (s : State) : Frame [.prt, .lnk, .mbx, .evt, .sec] s (drawBootKey s) := by
  unfold drawBootKey
  repeat' first | with_reducible apply Frame.refl | exact rfl | exact fun _ => rfl | exact fun _ _ _ _ h => nomatch h | exact fun _ h => h | exact fun _ _ => rfl | exact fun _ h => Tab.wf_foldl_set h _ _ _ | split | with_reducible apply Frame.after (drawKey_frame ..) | with_reducible apply Frame.after (updSec_frame ?_ ?_ ?_ _) | intro _

theorem startDom_frame (d : Nat) (s : State) : Frame [.pwr] s (startDom d s) := by
  unfold startDom
  repeat' first | with_reducible apply Frame.refl | exact rfl | split | with_reducible apply Frame.after (updDom_frame ..) | intro _

theorem applyColumns_frame (s : State) : Frame [.start, .mem] s (applyColumns s) := by
  unfold applyColumns
  dsimp only
  repeat' first | with_reducible apply Frame.refl | exact rfl | split | with_reducible apply Frame.foldl | with_reducible apply Frame.after (updBlock_frame ..) | with_reducible apply Frame.after (writeRecord_frame ..) | intro _

theorem hardRepairs_frame (o : StartObs) (c : Nat) (s : State) : Frame [.start, .dram, .lnk, .mbx, .evt] s (hardRepairs o c s) := by
  unfold hardRepairs
  dsimp only
  repeat' first | with_reducible apply Frame.refl | exact rfl | split | with_reducible apply Frame.foldl | with_reducible apply Frame.after (raise_frame ..) | with_reducible apply Frame.after (updDchan_frame ..) | with_reducible apply Frame.after (writeRecord_frame ..) | intro _

theorem findChannel_frame (o : StartObs) (c : Nat) (s : State) : Frame [.ext, .start, .pwr, .mem, .dram, .lnk, .mbx, .evt] s (findChannel o c s) := by
  unfold findChannel
  extract_lets slots l cause set s0 s1
  have hset : ∀ (st : DramSt) (x : State), Frame [.ext, .start, .pwr, .mem, .dram, .lnk, .mbx, .evt] s x → Frame [.ext, .start, .pwr, .mem, .dram, .lnk, .mbx, .evt] s (set st x) := fun _ _ h => (updDchan_frame ..).after h
  have h0 : Frame [.ext, .start, .pwr, .mem, .dram, .lnk, .mbx, .evt] s s0 := (startDom_frame ..).after (Frame.refl _ _)
  have h1 : Frame [.ext, .start, .pwr, .mem, .dram, .lnk, .mbx, .evt] s s1 := (hardRepairs_frame ..).after (hset _ _ h0)
  clear_value set s0 s1 l cause
  split
  · exact Frame.refl _ _
  · split
    · exact hset _ _ h0
    · split
      · exact (raise_frame ..).after (hset _ _ h0)
      · split
        · exact hset _ _ h0
        · split
          · exact hset _ _ h0
          · split
            · exact hset _ _ h0
            · split
              · exact (noteFail_frame ..).after (hset _ _ h1)
              · exact hset _ _ h1

theorem listChannel_frame (c i : Nat) (s : State) : Frame [.dram, .lnk, .mbx, .evt, .free] s (listChannel c i s) := by
  unfold listChannel
  dsimp only
  repeat' first | with_reducible apply Frame.refl | exact rfl | split | with_reducible apply Frame.after (raise_frame ..) | with_reducible apply Frame.after (storeResults_frame ..) | with_reducible apply Frame.after (updDchan_frame ..) | intro _

theorem listDram_frame (s : State) : Frame [.dram, .lnk, .mbx, .evt, .free] s (listDram s) := by
  unfold listDram
  dsimp only [setDram_eq]
  repeat' first | with_reducible apply Frame.refl | exact rfl | with_reducible apply Frame.after (setDram_frame ..) | with_reducible apply Frame.foldl | with_reducible apply Frame.after (listChannel_frame ..) | intro _

theorem withCapacity_frame (p : Nat) (s : State) : Frame [.prt] s (withCapacity p s) := by
  unfold withCapacity
  dsimp only [setPrt_eq]
  repeat' first | with_reducible apply Frame.refl | exact rfl | with_reducible apply Frame.after (setPrt_frame ..) | split

theorem startCapacity_frame (s : State) : Frame [.prt, .lnk, .mbx, .evt] s (startCapacity s) := by
  unfold startCapacity
  dsimp only
  repeat' first | with_reducible apply Frame.refl | exact rfl | split | with_reducible apply Frame.after (raise_frame ..) | with_reducible apply Frame.after (withCapacity_frame ..)

theorem stepSeven_frame (s : State) : Frame [.ext, .start, .pwr, .load, .ctx, .fab, .mem, .noc, .dram, .prt, .lnk, .mbx, .chans, .evt, .sec, .free] s (stepSeven s) := by
  unfold stepSeven
  dsimp only
  repeat' first | with_reducible apply Frame.refl | exact rfl | split | with_reducible apply Frame.foldl | with_reducible apply Frame.forEach | with_reducible apply Frame.after (applyColumns_frame ..) | with_reducible apply Frame.after (drawBootKey_frame ..) | with_reducible apply Frame.after (findChannel_frame ..) | with_reducible apply Frame.after (listDram_frame ..) | with_reducible apply Frame.after (noteFail_frame ..) | with_reducible apply Frame.after (startCapacity_frame ..) | with_reducible apply Frame.after (startDom_frame ..) | with_reducible apply Frame.after (startRound_frame ..) | with_reducible apply Frame.after (updStart_frame ..) | intro _

theorem updMbx_frame {f : Mbx → Mbx} (hc : ∀ m : Mbx, (f m).chans = m.chans)
    (hb : ∀ m : Mbx, (f m).barista = m.barista) (s : State) : Frame [.mbx] s (updMbx f s) := by
  unfold updMbx
  exact setMbx_frame s (f s.mbx) (hc _) (hb _)

theorem putSlot_frame (b : Bool) (f : Option FwImage) (s : State) : Frame [.mbx] s (putSlot b f s) := by
  unfold putSlot
  repeat' first | with_reducible apply Frame.refl | exact rfl | exact fun _ => rfl | split | with_reducible apply Frame.after (updMbx_frame ?_ ?_ _) | intro _

theorem runImage_frame (f : FwImage) (slot : Option Bool) (trial : Bool) (s : State) : Frame [.mbx, .barista, .evt] s (runImage f slot trial s) := by
  unfold runImage
  repeat' first | with_reducible apply Frame.refl | exact rfl | exact fun _ => rfl | with_reducible apply Frame.after (setBarista_frame ..) | with_reducible apply Frame.after (updMbx_frame ?_ ?_ _) | intro _

theorem enterRom_frame (s : State) : Frame [.mbx, .barista, .evt] s (enterRom s) := by
  unfold enterRom
  repeat' first | with_reducible apply Frame.refl | exact rfl | exact fun _ => rfl | with_reducible apply Frame.after (setBarista_frame ..) | with_reducible apply Frame.after (updMbx_frame ?_ ?_ _) | intro _

theorem bootSlot_frame (b trial : Bool) (s : State) : Frame [.mbx, .barista, .evt] s (bootSlot b trial s) := by
  unfold bootSlot
  repeat' first | with_reducible apply Frame.refl | exact rfl | split | with_reducible apply Frame.after (enterRom_frame ..) | with_reducible apply Frame.after (runImage_frame ..)

theorem fallBack_frame (failed : Bool) (cause : Nat) (s : State) : Frame [.lnk, .mbx, .barista, .evt] s (fallBack failed cause s) := by
  unfold fallBack
  dsimp only
  repeat' first | with_reducible apply Frame.refl | exact rfl | exact fun _ => rfl | split | with_reducible apply Frame.after (bootSlot_frame ..) | with_reducible apply Frame.after (enterRom_frame ..) | with_reducible apply Frame.after (raise_frame ..) | with_reducible apply Frame.after (updMbx_frame ?_ ?_ _) | intro _

theorem startFirmware_frame (s : State) : Frame [.lnk, .mbx, .barista, .evt] s (startFirmware s) := by
  unfold startFirmware
  repeat' first | with_reducible apply Frame.refl | exact rfl | split | with_reducible apply Frame.after (bootSlot_frame ..) | with_reducible apply Frame.after (enterRom_frame ..) | with_reducible apply Frame.after (fallBack_frame ..)

theorem drainServing_frame (s : State) : Frame [.lnk, .mbx, .evt] s (drainServing s) := by
  unfold drainServing
  repeat' first | with_reducible apply Frame.refl | exact rfl | split | with_reducible apply Frame.after (drainHw_frame ..)

theorem abandon_frame (org : Origin) (unit : Nat) (s : State) : Frame [.mbx, .evt] s (abandon org unit s) := by
  unfold abandon
  dsimp only
  repeat' first | with_reducible apply Frame.refl | exact rfl | exact fun _ => rfl | split | with_reducible apply Frame.after (queueHw_frame ..) | with_reducible apply Frame.after (updMbx_frame ?_ ?_ _) | intro _

theorem abandonDom_frame (d : Nat) (s : State) : Frame [.pwr, .mbx, .evt] s (abandonDom d s) := by
  unfold abandonDom
  dsimp only
  repeat' first | with_reducible apply Frame.refl | exact rfl | split | with_reducible apply Frame.foldl | with_reducible apply Frame.after (abandon_frame ..) | with_reducible apply Frame.after (updDom_frame ..) | intro _

theorem abandonEach_frame (l : List Origin) (s : State) : Frame [.mbx, .evt] s (abandonEach l s) := by
  unfold abandonEach
  repeat' first | with_reducible apply Frame.refl | exact rfl | with_reducible apply Frame.foldl | with_reducible apply Frame.after (abandon_frame ..) | intro _

theorem abandonClk_frame (s : State) : Frame [.clk, .mbx, .evt] s (abandonClk s) := by
  unfold abandonClk
  dsimp only [setClk_eq]
  repeat' first | with_reducible apply Frame.refl | exact rfl | with_reducible apply Frame.after (setClk_frame ..) | with_reducible apply Frame.after (abandonEach_frame ..)

theorem abandonPins_frame (s : State) : Frame [.pins, .mbx, .evt] s (abandonPins s) := by
  unfold abandonPins
  dsimp only [setPins_eq]
  repeat' first | with_reducible apply Frame.refl | exact rfl | with_reducible apply Frame.after (setPins_frame ..) | split | with_reducible apply Frame.after (abandonEach_frame ..) | intro _

theorem abandonTests_frame (s : State) : Frame [.start, .mbx, .evt] s (abandonTests s) := by
  unfold abandonTests
  dsimp only [setStart_eq]
  repeat' first | with_reducible apply Frame.refl | exact rfl | with_reducible apply Frame.after (setStart_frame ..) | split | with_reducible apply Frame.after (abandonEach_frame ..) | intro _

theorem setSecTag_trans_frame (x : State) (sec : Sec) (tag : Tag) (hl : sec.life = x.sec.life)
    (hi : ∀ org o n, sec.pending = some (org, o, n) → ∃ g, x.sec.pending = some (g, o, n))
    (hv : Tab.wf 0 x.sec.vault = true → Tab.wf 0 sec.vault = true := by first | exact id | exact fun _ => rfl)
    (ht : Tab.wf 0 x.tag.bytes = true → Tab.wf 0 tag.bytes = true := by first | exact id | exact fun _ => rfl) :
    Frame [.sec, .trans, .tag] x (setSecTag x sec tag) := by
  constructor; intro p h; cases p <;> first | rfl | exact hl | exact fun _ _ => rfl | exact fun m => ⟨m.1, hv m.2.1, ht m.2.2.1, m.2.2.2⟩ | cases h | skip
  intro q org o n e
  obtain ⟨g, e'⟩ := hi org o n e
  obtain ⟨q1, q2⟩ := q g o n e'
  exact ⟨q1.trans hl.symm, q2⟩

theorem abandonWrites_frame (s : State) : Frame [.mbx, .evt, .sec, .trans, .tag] s (abandonWrites s) := by
  unfold abandonWrites
  dsimp only [setSecTag_eq]
  repeat' first | with_reducible apply Frame.refl | exact rfl | with_reducible apply Frame.after (setSecTag_trans_frame _ _ _ ?_ ?_) | with_reducible apply Frame.after (abandonEach_frame ..)
  intro org o n h
  cases hp : s.sec.pending with
  | none => rw [hp] at h; cases h
  | some y =>
    rw [hp] at h
    obtain ⟨y1, y2⟩ := y
    cases h
    exact ⟨_, rfl⟩

theorem abandonUpdate_frame (s : State) : Frame [.mbx, .evt] s (abandonUpdate s) := by
  unfold abandonUpdate
  repeat' first | with_reducible apply Frame.refl | exact rfl | exact fun _ => rfl | split | with_reducible apply Frame.after (abandon_frame ..) | with_reducible apply Frame.after (updMbx_frame ?_ ?_ _) | intro _

theorem abandonAll_frame (s : State) : Frame [.start, .clk, .pwr, .pins, .mbx, .evt, .sec, .trans, .tag] s (abandonAll s) := by
  unfold abandonAll
  dsimp only [setPwr_eq]
  repeat' first | with_reducible apply Frame.refl | exact rfl | with_reducible apply Frame.after (setPwr_frame ..) | with_reducible apply Frame.forEach | with_reducible apply Frame.after (abandonClk_frame ..) | with_reducible apply Frame.after (abandonDom_frame ..) | with_reducible apply Frame.after (abandonPins_frame ..) | with_reducible apply Frame.after (abandonTests_frame ..) | with_reducible apply Frame.after (abandonUpdate_frame ..) | with_reducible apply Frame.after (abandonWrites_frame ..) | intro _

theorem interruptReq_frame (org : Origin) (s : State) : Frame [.lnk, .mbx, .chans, .evt] s (interruptReq org s) := by
  unfold interruptReq
  repeat' first | with_reducible apply Frame.refl | exact rfl | with_reducible apply Frame.after (answerWith_frame ..)

theorem interruptAll_frame (s : State) : Frame [.lnk, .mbx, .chans, .evt, .sec] s (interruptAll s) := by
  unfold interruptAll
  extract_lets s1 _ s2 s3
  have h1 : Frame [.lnk, .mbx, .chans, .evt, .sec] s s1 :=
    Frame.foldl (fun _ _ => (interruptReq_frame ..).after (Frame.refl _ _)) _ (by exact (updMbx_frame (by exact fun _ => rfl) (by exact fun _ => rfl) _).after (Frame.refl _ _))
  have h2 : Frame [.lnk, .mbx, .chans, .evt, .sec] s s2 :=
    Frame.foldl (fun _ _ => (interruptReq_frame ..).after (Frame.refl _ _)) _ ((setSec_frame ..).after h1)
  have h3 : Frame [.lnk, .mbx, .chans, .evt, .sec] s s3 := by
    refine Frame.foldl (fun x c => ?_) _ h2
    split
    · rename_i h
      exact (answerHw_frame ..).after ((takeReq_frame h).after (Frame.refl _ _))
    · exact Frame.refl _ _
  exact Frame.forEach (fun _ _ => (updChan_frame ..).after (Frame.refl _ _)) _ (by exact (updMbx_frame (by exact fun _ => rfl) (by exact fun _ => rfl) _).after h3)

theorem beginRestart_frame (reload : Bool) (s : State) : Frame [.start, .clk, .pwr, .lnk, .pins, .mbx, .chans, .barista, .evt, .sec, .trans, .tag] s (beginRestart reload s) := by
  unfold beginRestart
  repeat' first | with_reducible apply Frame.refl | exact rfl | exact fun _ => rfl | with_reducible apply Frame.after (abandonAll_frame ..) | with_reducible apply Frame.after (interruptAll_frame ..) | with_reducible apply Frame.after (setBarista_frame ..) | with_reducible apply Frame.after (updMbx_frame ?_ ?_ _) | intro _

theorem execLockstepMismatch_frame (s : State) : NextFrame [.start, .clk, .pwr, .lnk, .pins, .mbx, .chans, .barista, .evt, .sec, .trans, .tag] s (execLockstepMismatch s) := by
  unfold execLockstepMismatch
  repeat' first | with_reducible apply Frame.refl | exact rfl | with_reducible apply NextFrame.mk | exact fun _ => rfl | split | with_reducible apply Frame.after (beginRestart_frame ..) | with_reducible apply Frame.after (updMbx_frame ?_ ?_ _) | intro _

theorem restartFirmware_frame (codeOk third : Bool) (flashA flashB : Option FwImage) (s : State) : Frame [.lnk, .mbx, .barista, .evt] s (restartFirmware codeOk third flashA flashB s).1 := by
  unfold restartFirmware
  dsimp only
  repeat' first | with_reducible apply Frame.refl | exact rfl | exact fun _ => rfl | split | with_reducible apply Frame.after (enterRom_frame ..) | with_reducible apply Frame.after (fallBack_frame ..) | with_reducible apply Frame.after (setBarista_frame ..) | with_reducible apply Frame.after (startFirmware_frame ..) | with_reducible apply Frame.after (updMbx_frame ?_ ?_ _) | intro _

theorem execLockstepRestartDone_frame (codeOk : Bool) (third : Bool) (flashA flashB : Option FwImage) (s : State) : NextFrame [.lnk, .mbx, .barista, .evt] s (execLockstepRestartDone codeOk third flashA flashB s) := by
  unfold execLockstepRestartDone
  dsimp only
  repeat' first | with_reducible apply Frame.refl | exact rfl | with_reducible apply NextFrame.mk | exact fun _ => rfl | split | with_reducible apply Frame.after (drainServing_frame ..) | with_reducible apply Frame.after (raise_frame ..) | with_reducible apply Frame.after (restartFirmware_frame ..) | with_reducible apply Frame.after (updMbx_frame ?_ ?_ _) | intro _

theorem execFwTrialTimeout_frame (s : State) : NextFrame [.lnk, .mbx, .barista, .evt] s (execFwTrialTimeout s) := by
  unfold execFwTrialTimeout
  repeat' first | with_reducible apply Frame.refl | exact rfl | with_reducible apply NextFrame.mk | split | with_reducible apply Frame.after (fallBack_frame ..)

theorem bodySysHello_frame (rev : Nat) (org : Origin) (s : State) : AnsFrame [.mbx, .chans] s (bodySysHello rev org s) := by
  unfold bodySysHello
  dsimp only
  repeat' first | with_reducible apply Frame.refl | exact rfl | with_reducible apply AnsFrame.refuse | with_reducible apply AnsFrame.done | split | with_reducible apply Frame.after (updChan_frame ..) | intro _ | with_reducible apply AnsFrame.lit | intro _ | exact Frame.refl _ _

theorem execSysHello_frame (r : Req) (rev : BitVec 8) (s : State) : NextFrame [.lnk, .mbx, .chans, .evt, .sec] s (execSysHello r rev s) :=
  ⟨_, rfl, serve_frame (fun _ _ => (bodySysHello_frame ..).mono) (Frame.refl _ _)⟩

theorem bodySysVersion_frame (_org : Origin) (s : State) : AnsFrame [] s (bodySysVersion _org s) := by
  unfold bodySysVersion
  dsimp only
  repeat' first | with_reducible apply Frame.refl | exact rfl | with_reducible apply AnsFrame.refuse | with_reducible apply AnsFrame.done | split | with_reducible apply AnsFrame.lit | intro _ | exact Frame.refl _ _

theorem execSysVersion_frame (r : Req) (s : State) : NextFrame [.lnk, .mbx, .chans, .evt, .sec] s (execSysVersion r s) :=
  ⟨_, rfl, serve_frame (fun _ _ => (bodySysVersion_frame ..).mono) (Frame.refl _ _)⟩

theorem bodySysFwLoad_frame (a n : Nat) (org : Origin) (s : State) : AnsFrame [.ext, .start, .pwr, .load, .ctx, .fab, .mem, .noc, .dram, .prt, .lnk, .mbx, .chans, .barista, .evt, .sec, .free] s (bodySysFwLoad a n org s) := by
  unfold bodySysFwLoad
  dsimp only
  repeat' first | with_reducible apply Frame.refl | exact rfl | with_reducible apply AnsFrame.refuse | with_reducible apply AnsFrame.done | split | with_reducible apply Frame.after (drainServing_frame ..) | with_reducible apply Frame.after (finish_frame ..) | with_reducible apply Frame.after (runImage_frame ..) | with_reducible apply Frame.after (stepSeven_frame ..) | intro _ | with_reducible apply AnsFrame.lit | intro _ | exact Frame.refl _ _

theorem execSysFwLoad_frame (r : Req) (addr : BitVec 48) (length : BitVec 20) (s : State) : NextFrame [.ext, .start, .pwr, .load, .ctx, .fab, .mem, .noc, .dram, .prt, .lnk, .mbx, .chans, .barista, .evt, .sec, .free] s (execSysFwLoad r addr length s) :=
  ⟨_, rfl, serve_frame (fun _ _ => (bodySysFwLoad_frame ..).mono) (Frame.refl _ _)⟩

theorem bodySysFwUpdate_frame (a n : Nat) (org : Origin) (s : State) : AnsFrame [.lnk, .mbx, .evt] s (bodySysFwUpdate a n org s) := by
  unfold bodySysFwUpdate
  repeat' first | with_reducible apply Frame.refl | exact rfl | with_reducible apply AnsFrame.refuse | with_reducible apply AnsFrame.done | exact fun _ => rfl | split | with_reducible apply Frame.after (finish_frame ..) | with_reducible apply Frame.after (updMbx_frame ?_ ?_ _) | intro _ | with_reducible apply AnsFrame.lit | intro _ | exact Frame.refl _ _

theorem execSysFwUpdate_frame (r : Req) (addr : BitVec 48) (length : BitVec 20) (s : State) : NextFrame [.lnk, .mbx, .chans, .evt, .sec] s (execSysFwUpdate r addr length s) :=
  ⟨_, rfl, serve_frame (fun _ _ => (bodySysFwUpdate_frame ..).mono) (Frame.refl _ _)⟩

theorem execFwUpdateDone_frame (ok : Bool) (s : State) : NextFrame [.lnk, .mbx, .evt] s (execFwUpdateDone ok s) := by
  unfold execFwUpdateDone
  repeat' first | with_reducible apply Frame.refl | exact rfl | with_reducible apply NextFrame.mk | exact fun _ => rfl | split | with_reducible apply Frame.after (finish_frame ..) | with_reducible apply Frame.after (putSlot_frame ..) | with_reducible apply Frame.after (updMbx_frame ?_ ?_ _) | intro _

theorem bodySysFwActivate_frame (b : Bool) (_org : Origin) (s : State) : AnsFrame [.mbx] s (bodySysFwActivate b _org s) := by
  unfold bodySysFwActivate
  repeat' first | with_reducible apply Frame.refl | exact rfl | with_reducible apply AnsFrame.refuse | with_reducible apply AnsFrame.done | exact fun _ => rfl | split | with_reducible apply Frame.after (updMbx_frame ?_ ?_ _) | intro _ | with_reducible apply AnsFrame.lit | intro _ | exact Frame.refl _ _

theorem execSysFwActivate_frame (r : Req) (slot : Bool) (s : State) : NextFrame [.lnk, .mbx, .chans, .evt, .sec] s (execSysFwActivate r slot s) :=
  ⟨_, rfl, serve_frame (fun _ _ => (bodySysFwActivate_frame ..).mono) (Frame.refl _ _)⟩

theorem bodySysFwStatus_frame (_org : Origin) (s : State) : AnsFrame [] s (bodySysFwStatus _org s) := by
  unfold bodySysFwStatus
  dsimp only
  repeat' first | with_reducible apply Frame.refl | exact rfl | with_reducible apply AnsFrame.refuse | with_reducible apply AnsFrame.done | split | intro _ | with_reducible apply AnsFrame.lit | intro _ | exact Frame.refl _ _

theorem execSysFwStatus_frame (r : Req) (s : State) : NextFrame [.lnk, .mbx, .chans, .evt, .sec] s (execSysFwStatus r s) :=
  ⟨_, rfl, serve_frame (fun _ _ => (bodySysFwStatus_frame ..).mono) (Frame.refl _ _)⟩

theorem bodySysRestart_frame (_org : Origin) (s : State) : AnsFrame [.start, .clk, .pwr, .lnk, .pins, .mbx, .chans, .barista, .evt, .sec, .trans, .tag] s (bodySysRestart _org s) := by
  unfold bodySysRestart
  repeat' first | with_reducible apply Frame.refl | exact rfl | with_reducible apply AnsFrame.refuse | with_reducible apply AnsFrame.done | with_reducible apply Frame.after (beginRestart_frame ..) | with_reducible apply AnsFrame.lit | intro _ | exact Frame.refl _ _

theorem execSysRestart_frame (r : Req) (s : State) : NextFrame [.start, .clk, .pwr, .lnk, .pins, .mbx, .chans, .barista, .evt, .sec, .trans, .tag] s (execSysRestart r s) :=
  ⟨_, rfl, serve_frame (fun _ _ => (bodySysRestart_frame ..).mono) (Frame.refl _ _)⟩

theorem bodySysChannelPolicy_frame (c mask : Nat) (org : Origin) (s : State) : AnsFrame [.mbx] s (bodySysChannelPolicy c mask org s) := by
  unfold bodySysChannelPolicy
  repeat' first | with_reducible apply Frame.refl | exact rfl | with_reducible apply AnsFrame.refuse | with_reducible apply AnsFrame.done | exact fun _ => rfl | split | with_reducible apply Frame.after (updMbx_frame ?_ ?_ _) | intro _ | with_reducible apply AnsFrame.lit | intro _ | exact Frame.refl _ _

theorem execSysChannelPolicy_frame (r : Req) (channel : BitVec 4) (mask : BitVec 32) (s : State) : NextFrame [.lnk, .mbx, .chans, .evt, .sec] s (execSysChannelPolicy r channel mask s) :=
  ⟨_, rfl, serve_frame (fun _ _ => (bodySysChannelPolicy_frame ..).mono) (Frame.refl _ _)⟩

theorem bodySysFwdTimeout_frame (ms : Nat) (_org : Origin) (s : State) : AnsFrame [.mbx] s (bodySysFwdTimeout ms _org s) := by
  unfold bodySysFwdTimeout
  repeat' first | with_reducible apply Frame.refl | exact rfl | with_reducible apply AnsFrame.refuse | with_reducible apply AnsFrame.done | exact fun _ => rfl | split | with_reducible apply Frame.after (updMbx_frame ?_ ?_ _) | intro _ | with_reducible apply AnsFrame.lit | intro _ | exact Frame.refl _ _

theorem execSysFwdTimeout_frame (r : Req) (ms : BitVec 14) (s : State) : NextFrame [.lnk, .mbx, .chans, .evt, .sec] s (execSysFwdTimeout r ms s) :=
  ⟨_, rfl, serve_frame (fun _ _ => (bodySysFwdTimeout_frame ..).mono) (Frame.refl _ _)⟩

theorem bodyLogEvents_frame (from_ count : Nat) (_org : Origin) (s : State) : AnsFrame [] s (bodyLogEvents from_ count _org s) := by
  unfold bodyLogEvents
  dsimp only
  repeat' first | with_reducible apply Frame.refl | exact rfl | with_reducible apply AnsFrame.refuse | with_reducible apply AnsFrame.done | split | intro _ | with_reducible apply AnsFrame.lit | intro _ | exact Frame.refl _ _

theorem execLogEvents_frame (r : Req) (from_ : BitVec 32) (count : BitVec 8) (s : State) : NextFrame [.lnk, .mbx, .chans, .evt, .sec] s (execLogEvents r from_ count s) :=
  ⟨_, rfl, serve_frame (fun _ _ => (bodyLogEvents_frame ..).mono) (Frame.refl _ _)⟩

theorem updEvt_frame (f : Evt → Evt) (s : State) : Frame [.evt] s (updEvt f s) := by
  unfold updEvt
  dsimp only [setEvt_eq]
  repeat' first | with_reducible apply Frame.refl | exact rfl | with_reducible apply Frame.after (setEvt_frame ..)

theorem bodyLogAlertAck_frame (n : Nat) (_org : Origin) (s : State) : AnsFrame [.evt] s (bodyLogAlertAck n _org s) := by
  unfold bodyLogAlertAck
  repeat' first | with_reducible apply Frame.refl | exact rfl | with_reducible apply AnsFrame.refuse | with_reducible apply AnsFrame.done | with_reducible apply Frame.after (updEvt_frame ..) | intro _ | with_reducible apply AnsFrame.lit | intro _ | exact Frame.refl _ _

theorem execLogAlertAck_frame (r : Req) (number : BitVec 32) (s : State) : NextFrame [.lnk, .mbx, .chans, .evt, .sec] s (execLogAlertAck r number s) :=
  ⟨_, rfl, serve_frame (fun _ _ => (bodyLogAlertAck_frame ..).mono) (Frame.refl _ _)⟩

theorem bodyLogAlertLevel_frame (level : Nat) (_org : Origin) (s : State) : AnsFrame [.evt] s (bodyLogAlertLevel level _org s) := by
  unfold bodyLogAlertLevel
  repeat' first | with_reducible apply Frame.refl | exact rfl | with_reducible apply AnsFrame.refuse | with_reducible apply AnsFrame.done | split | with_reducible apply Frame.after (updEvt_frame ..) | intro _ | with_reducible apply AnsFrame.lit | intro _ | exact Frame.refl _ _

theorem execLogAlertLevel_frame (r : Req) (level : BitVec 3) (s : State) : NextFrame [.lnk, .mbx, .chans, .evt, .sec] s (execLogAlertLevel r level s) :=
  ⟨_, rfl, serve_frame (fun _ _ => (bodyLogAlertLevel_frame ..).mono) (Frame.refl _ _)⟩

theorem bodyLogEventRoute_frame (h sev : Nat) (_org : Origin) (s : State) : AnsFrame [.mbx] s (bodyLogEventRoute h sev _org s) := by
  unfold bodyLogEventRoute
  repeat' first | with_reducible apply Frame.refl | exact rfl | with_reducible apply AnsFrame.refuse | with_reducible apply AnsFrame.done | exact fun _ => rfl | split | with_reducible apply Frame.after (updMbx_frame ?_ ?_ _) | intro _ | with_reducible apply AnsFrame.lit | intro _ | exact Frame.refl _ _

theorem execLogEventRoute_frame (r : Req) (handle : BitVec 12) (minSeverity : BitVec 3) (s : State) : NextFrame [.lnk, .mbx, .chans, .evt, .sec] s (execLogEventRoute r handle minSeverity s) :=
  ⟨_, rfl, serve_frame (fun _ _ => (bodyLogEventRoute_frame ..).mono) (Frame.refl _ _)⟩

theorem bodyLogCounters_frame (clear : Bool) (_org : Origin) (s : State) : AnsFrame [.mbx] s (bodyLogCounters clear _org s) := by
  unfold bodyLogCounters
  dsimp only
  repeat' first | with_reducible apply Frame.refl | exact rfl | with_reducible apply AnsFrame.refuse | with_reducible apply AnsFrame.done | exact fun _ => rfl | split | with_reducible apply Frame.after (updMbx_frame ?_ ?_ _) | intro _ | with_reducible apply AnsFrame.lit | intro _ | exact Frame.refl _ _

theorem execLogCounters_frame (r : Req) (clear : Bool) (s : State) : NextFrame [.lnk, .mbx, .chans, .evt, .sec] s (execLogCounters r clear s) :=
  ⟨_, rfl, serve_frame (fun _ _ => (bodyLogCounters_frame ..).mono) (Frame.refl _ _)⟩

theorem drawNonce_frame (s : State) : Frame [.sec, .free] s (drawNonce s) := by
  unfold drawNonce
  repeat' first | with_reducible apply Frame.refl | exact rfl | exact fun _ => rfl | exact fun _ _ _ _ h => nomatch h | exact fun _ h => h | exact fun _ _ => rfl | exact fun _ h => Tab.wf_foldl_set h _ _ _ | with_reducible apply Frame.after (updSec_frame ?_ ?_ ?_ _) | with_reducible apply Frame.after (useFree_frame ..) | intro _

theorem answerWaiting_frame (w : SecWait) (s : State) : Frame [.lnk, .mbx, .chans, .evt, .sec] s (answerWaiting w s) := by
  unfold answerWaiting
  dsimp only
  repeat' first | with_reducible apply Frame.refl | exact rfl | exact fun _ => rfl | exact fun _ _ _ _ h => nomatch h | exact fun _ h => h | exact fun _ _ => rfl | exact fun _ h => Tab.wf_foldl_set h _ _ _ | split | with_reducible apply Frame.after (answer_frame ..) | with_reducible apply Frame.after (updMbx_frame ?_ ?_ _) | with_reducible apply Frame.after (updSec_frame ?_ ?_ ?_ _) | intro _

theorem resumeTrng_frame (s : State) : Frame [.lnk, .mbx, .chans, .evt, .sec, .free] s (resumeTrng s) := by
  unfold resumeTrng
  dsimp only
  repeat' first | with_reducible apply Frame.refl | exact rfl | exact fun _ => rfl | exact fun _ _ _ _ h => nomatch h | exact fun _ h => h | exact fun _ _ => rfl | exact fun _ h => Tab.wf_foldl_set h _ _ _ | split | with_reducible apply Frame.after (answerWaiting_frame ..) | with_reducible apply Frame.after (drawNonce_frame ..) | with_reducible apply Frame.after (updSec_frame ?_ ?_ ?_ _) | intro _

theorem execDrbgReseed_frame (s : State) : NextFrame [.sec] s (execDrbgReseed s) := by
  unfold execDrbgReseed
  repeat' first | with_reducible apply Frame.refl | exact rfl | with_reducible apply NextFrame.mk | exact fun _ => rfl | exact fun _ _ _ _ h => nomatch h | exact fun _ h => h | exact fun _ _ => rfl | exact fun _ h => Tab.wf_foldl_set h _ _ _ | split | with_reducible apply Frame.after (updSec_frame ?_ ?_ ?_ _) | intro _

theorem beginWipe_frame (s : State) : Frame [.prt, .sec] s (beginWipe s) := by
  unfold beginWipe
  dsimp only
  repeat' first | with_reducible apply Frame.refl | exact rfl | exact fun _ => rfl | exact fun _ _ _ _ h => nomatch h | exact fun _ h => h | exact fun _ _ => rfl | exact fun _ h => Tab.wf_foldl_set h _ _ _ | split | with_reducible apply Frame.after (updSec_frame ?_ ?_ ?_ _) | with_reducible apply Frame.after (zeroiseKey_frame ..) | intro _

theorem cutOff_frame (s : State) : Frame [.lnk, .mbx, .evt, .sec, .trans, .tag, .free] s (cutOff s) := by
  unfold cutOff
  dsimp only [setTag_eq]
  repeat' first | with_reducible apply Frame.refl | exact rfl | exact fun _ => rfl | exact fun _ _ _ _ h => nomatch h | exact fun _ h => h | exact fun _ _ => rfl | exact fun _ h => Tab.wf_foldl_set h _ _ _ | with_reducible apply Frame.after (setTag_frame ..) | split | with_reducible apply Frame.after (finishOpt_frame ..) | with_reducible apply Frame.after (updSec_trans_frame ?_ ?_ ?_ _) | with_reducible apply Frame.after (useFree_frame ..) | intro _

theorem takeTamper_frame (cause : Byte) (ongoing : Bool) (s : State) : Frame [.prt, .lnk, .mbx, .evt, .sec, .trans, .tag, .free] s (takeTamper cause ongoing s) := by
  unfold takeTamper
  dsimp only
  repeat' first | with_reducible apply Frame.refl | exact rfl | exact fun _ => rfl | exact fun _ _ _ _ h => nomatch h | exact fun _ h => h | exact fun _ _ => rfl | exact fun _ h => Tab.wf_foldl_set h _ _ _ | split | with_reducible apply Frame.after (beginWipe_frame ..) | with_reducible apply Frame.after (cutOff_frame ..) | with_reducible apply Frame.after (raise_frame ..) | with_reducible apply Frame.after (updSec_frame ?_ ?_ ?_ _) | with_reducible apply Frame.after (zeroiseKey_frame ..) | intro _

theorem execTamper_frame (cause : BitVec 8) (ongoing : Bool) (s : State) : NextFrame [.prt, .lnk, .mbx, .evt, .sec, .trans, .tag, .free] s (execTamper cause ongoing s) := by
  unfold execTamper
  repeat' first | with_reducible apply Frame.refl | exact rfl | with_reducible apply NextFrame.mk | split | with_reducible apply Frame.after (takeTamper_frame ..)

theorem execBootKeyRedraw_frame (s : State) : NextFrame [.prt, .lnk, .mbx, .chans, .evt, .sec, .free] s (execBootKeyRedraw s) := by
  unfold execBootKeyRedraw
  repeat' first | with_reducible apply Frame.refl | exact rfl | with_reducible apply NextFrame.mk | exact fun _ => rfl | exact fun _ _ _ _ h => nomatch h | exact fun _ h => h | exact fun _ _ => rfl | exact fun _ h => Tab.wf_foldl_set h _ _ _ | split | with_reducible apply Frame.after (drawBootKey_frame ..) | with_reducible apply Frame.after (resumeTrng_frame ..) | with_reducible apply Frame.after (updSec_frame ?_ ?_ ?_ _) | intro _

theorem execTrngHealthFail_frame (s : State) : NextFrame [.prt, .lnk, .mbx, .evt, .sec, .trans, .tag, .free] s (execTrngHealthFail s) := by
  unfold execTrngHealthFail
  repeat' first | with_reducible apply Frame.refl | exact rfl | with_reducible apply NextFrame.mk | exact fun _ => rfl | exact fun _ _ _ _ h => nomatch h | exact fun _ h => h | exact fun _ _ => rfl | exact fun _ h => Tab.wf_foldl_set h _ _ _ | with_reducible apply Frame.after (takeTamper_frame ..) | with_reducible apply Frame.after (updSec_frame ?_ ?_ ?_ _) | intro _

theorem execTrngOutputTimeout_frame (s : State) : NextFrame [.lnk, .mbx, .chans, .evt, .sec, .trans] s (execTrngOutputTimeout s) := by
  unfold execTrngOutputTimeout
  dsimp only
  split
  · exact NextFrame.mk (Frame.refl _ _)
  · have h1 : Frame [.lnk, .mbx, .chans, .evt, .sec, .trans] s (updSec (fun x => { x with redraw := false }) s) :=
      (updSec_frame (f := fun x => { x with redraw := false }) (fun _ => rfl) (fun _ => rfl) (fun _ h => h) s).after (Frame.refl _ _)
    split
    · refine NextFrame.mk (Frame.after (answerWaiting_frame ..) (Frame.after (updSec_trans_frame ?_ ?_ ?_ _) h1))
      · exact fun _ => rfl
      · intro x org o n h
        dsimp only at h
        split at h
        · rename_i hp
          split at h
          · cases h; exact ⟨_, hp⟩
          · cases h; exact ⟨_, hp⟩
        · exact ⟨_, h⟩
      · exact fun _ h => h
    · exact NextFrame.mk h1

theorem execVaultWipeDone_frame (s : State) : NextFrame [.prt, .lnk, .mbx, .evt, .sec] s (execVaultWipeDone s) := by
  unfold execVaultWipeDone
  dsimp only
  repeat' first | with_reducible apply Frame.refl | exact rfl | with_reducible apply NextFrame.mk | exact fun _ => rfl | exact fun _ _ _ _ h => nomatch h | exact fun _ h => h | exact fun _ _ => rfl | exact fun _ h => Tab.wf_foldl_set h _ _ _ | split | with_reducible apply Frame.after (drawBootKey_frame ..) | with_reducible apply Frame.after (updSec_frame ?_ ?_ ?_ _) | intro _

theorem serveVault_frame (q : NocReq) (s : State) : Frame [.noc, .sec] s (serveVault q s) := by
  unfold serveVault
  dsimp only
  repeat' first | with_reducible apply Frame.refl | exact rfl | exact fun _ => rfl | exact fun _ _ _ _ h => nomatch h | exact fun _ h => h | exact fun _ _ => rfl | exact fun _ h => Tab.wf_foldl_set h _ _ _ | split | with_reducible apply Frame.foldl | with_reducible apply Frame.after (answerMesh_frame ..) | with_reducible apply Frame.after (updSec_frame ?_ ?_ ?_ _) | intro _

theorem execVaultAccess_frame (src : BitVec 8) (tag : BitVec 12) (s : State) : NextFrame [.noc, .sec] s (execVaultAccess src tag s) := by
  unfold execVaultAccess
  repeat' first | with_reducible apply Frame.refl | exact rfl | with_reducible apply NextFrame.mk | split | with_reducible apply Frame.after (answerMesh_frame ..) | with_reducible apply Frame.after (serveVault_frame ..)

theorem afterSig_frame {W : List Part} {s : State} {a : Ans} (h : AnsFrame W s a)
    (hw : Part.sub [.sec, .free] W = true := by decide) : AnsFrame W s (afterSig a) := by
  unfold afterSig
  split
  · exact ⟨h.state, h.after⟩
  · exact ⟨((drawNonce_frame ..).after (W := [.sec, .free]) (Frame.refl _ _)).after h.state hw, h.after⟩

theorem bodySecStatus_frame (_org : Origin) (s : State) : AnsFrame [] s (bodySecStatus _org s) := by
  unfold bodySecStatus
  dsimp only
  repeat' first | with_reducible apply Frame.refl | exact rfl | with_reducible apply AnsFrame.refuse | with_reducible apply AnsFrame.done | intro _ | with_reducible apply AnsFrame.lit | intro _ | exact Frame.refl _ _

theorem execSecStatus_frame (r : Req) (s : State) : NextFrame [.lnk, .mbx, .chans, .evt, .sec] s (execSecStatus r s) :=
  ⟨_, rfl, serve_frame (fun _ _ => (bodySecStatus_frame ..).mono) (Frame.refl _ _)⟩

theorem bodySecCert_frame (nonce : Nat) (_org : Origin) (s : State) : AnsFrame [] s (bodySecCert nonce _org s) := by
  unfold bodySecCert
  repeat' first | with_reducible apply Frame.refl | exact rfl | with_reducible apply AnsFrame.refuse | with_reducible apply AnsFrame.done | with_reducible apply AnsFrame.lit | intro _ | exact Frame.refl _ _

theorem execSecCert_frame (r : Req) (nonce : BitVec 384) (s : State) : NextFrame [.lnk, .mbx, .chans, .evt, .sec] s (execSecCert r nonce s) :=
  ⟨_, rfl, serve_frame (fun _ _ => (bodySecCert_frame ..).mono) (Frame.refl _ _)⟩

theorem keySet_frame (slot action keyIndex sig : Nat) (record : List Byte) (s : State) : AnsFrame [.sec] s (keySet slot action keyIndex sig record s) := by
  unfold keySet
  dsimp only
  repeat' first | with_reducible apply Frame.refl | exact rfl | with_reducible apply AnsFrame.refuse | with_reducible apply AnsFrame.done | exact fun _ => rfl | exact fun _ _ _ _ h => nomatch h | exact fun _ h => h | exact fun _ _ => rfl | exact fun _ h => Tab.wf_foldl_set h _ _ _ | split | with_reducible apply Frame.after (updSec_frame ?_ ?_ ?_ _) | intro _ | with_reducible apply AnsFrame.lit | intro _ | exact Frame.refl _ _

theorem bodySecKeySet_frame (slot action keyIndex sig : Nat) (record : List Byte) (_org : Origin) (s : State) : AnsFrame [.sec, .free] s (bodySecKeySet slot action keyIndex sig record _org s) := by
  unfold bodySecKeySet
  repeat' first | with_reducible apply Frame.refl | exact rfl | with_reducible apply AnsFrame.refuse | with_reducible apply AnsFrame.done | with_reducible apply afterSig_frame | with_reducible apply AnsFrame.on (keySet_frame ..) | with_reducible apply AnsFrame.lit | intro _ | exact Frame.refl _ _

theorem execSecKeySet_frame (r : Req) (slot : BitVec 2) (action : Bool) (keyIndex : BitVec 3) (sig : BitVec 768) (record : List Byte) (s : State) : NextFrame [.lnk, .mbx, .chans, .evt, .sec, .free] s (execSecKeySet r slot action keyIndex sig record s) :=
  ⟨_, rfl, serve_frame (fun _ _ => (bodySecKeySet_frame ..).mono) (Frame.refl _ _)⟩

theorem beginTransition_frame {org : Option Origin} {new : BitVec 3} {s : State} (h : legalTransition s.sec.life new = true) :
    Frame [.prt, .sec, .trans] s (beginTransition org new s) := by
  unfold beginTransition
  refine Frame.after (beginWipe_frame _) ?_
  refine ⟨fun p hp => ?_⟩
  cases p <;> first | rfl | exact fun _ _ => rfl | exact id | cases hp | skip
  intro _ o a b e
  cases e
  exact ⟨rfl, h⟩

theorem writeOwner_frame (slot digest : Nat) (s : State) : Frame [.sec] s (writeOwner slot digest s) := by
  unfold writeOwner
  repeat' first | with_reducible apply Frame.refl | exact rfl | exact fun _ => rfl | exact fun _ _ _ _ h => nomatch h | exact fun _ h => h | exact fun _ _ => rfl | exact fun _ h => Tab.wf_foldl_set h _ _ _ | with_reducible apply Frame.after (updSec_frame ?_ ?_ ?_ _) | intro _

theorem ownerBlank_frame (slot action keyIndex digest sig : Nat) (org : Origin) (s : State) (h : s.sec.life = 1) :
    AnsFrame [.prt, .sec, .trans] s (ownerBlank slot action keyIndex digest sig org s) := by
  unfold ownerBlank
  have e : legalTransition (writeOwner slot digest s).sec.life 2 = true := by
    change legalTransition s.sec.life 2 = true
    rw [h]
    rfl
  repeat' first | with_reducible apply Frame.refl | with_reducible apply AnsFrame.refuse | with_reducible apply AnsFrame.done | split | exact Frame.after (beginTransition_frame e) ((writeOwner_frame ..).after (Frame.refl _ _))

theorem ownerOwned_frame (slot action keyIndex digest sig : Nat) (record : List Byte) (s : State) : AnsFrame [.sec] s (ownerOwned slot action keyIndex digest sig record s) := by
  unfold ownerOwned
  dsimp only
  repeat' first | with_reducible apply Frame.refl | exact rfl | with_reducible apply AnsFrame.refuse | with_reducible apply AnsFrame.done | exact fun _ => rfl | exact fun _ _ _ _ h => nomatch h | exact fun _ h => h | exact fun _ _ => rfl | exact fun _ h => Tab.wf_foldl_set h _ _ _ | split | with_reducible apply Frame.after (updSec_frame ?_ ?_ ?_ _) | with_reducible apply Frame.after (writeOwner_frame ..) | intro _ | with_reducible apply AnsFrame.lit | intro _ | exact Frame.refl _ _

theorem bodySecOwner_frame (slot action keyIndex digest sig : Nat) (record : List Byte) (org : Origin) (s : State) : AnsFrame [.prt, .sec, .trans, .free] s (bodySecOwner slot action keyIndex digest sig record org s) := by
  unfold bodySecOwner
  refine afterSig_frame ?_
  split
  · rename_i h
    exact (ownerBlank_frame _ _ _ _ _ _ _ h).mono
  · split
    · exact (ownerOwned_frame ..).mono
    · exact AnsFrame.refuse _ _ _

theorem execSecOwner_frame (r : Req) (slot : BitVec 3) (action : Bool) (keyIndex : BitVec 3) (digest : BitVec 384) (sig : BitVec 768) (record : List Byte) (s : State) : NextFrame [.prt, .lnk, .mbx, .chans, .evt, .sec, .trans, .free] s (execSecOwner r slot action keyIndex digest sig record s) :=
  ⟨_, rfl, serve_frame (fun _ _ => (bodySecOwner_frame ..).mono) (Frame.refl _ _)⟩

theorem lifeStep_legal (old : BitVec 3) (t : Nat) (h : lifeStep old.toNat t = true) : legalTransition old (BitVec.ofNat 3 t) = true := by
  unfold lifeStep at h
  unfold legalTransition
  simp only [Bool.or_eq_true, Bool.and_eq_true, beq_iff_eq] at h ⊢
  rcases h with ⟨h1, h2 | h2⟩ | ⟨(h1 | h1) | h1, h2⟩ <;> subst h2 <;>
    first
    | (have e : old = 1 := BitVec.eq_of_toNat_eq h1; subst e; decide)
    | (have e : old = 2 := BitVec.eq_of_toNat_eq h1; subst e; decide)
    | (have e : old = 3 := BitVec.eq_of_toNat_eq h1; subst e; decide)

theorem lifecycle_frame (target keyIndex sig : Nat) (record : List Byte) (org : Origin) (s : State) : AnsFrame [.prt, .sec, .trans] s (lifecycle target keyIndex sig record org s) := by
  unfold lifecycle
  split
  · exact AnsFrame.refuse _ _ _
  · rename_i h
    have e : legalTransition s.sec.life (BitVec.ofNat 3 target) = true := lifeStep_legal _ _ (by simpa using h)
    repeat' first | with_reducible apply AnsFrame.refuse | split | exact AnsFrame.lit (Frame.after (beginTransition_frame e) (Frame.refl _ _)) (fun _ => Frame.refl _ _)

theorem bodySecLifecycle_frame (target keyIndex sig : Nat) (record : List Byte) (org : Origin) (s : State) : AnsFrame [.prt, .sec, .trans, .free] s (bodySecLifecycle target keyIndex sig record org s) := by
  unfold bodySecLifecycle
  repeat' first | with_reducible apply Frame.refl | exact rfl | with_reducible apply AnsFrame.refuse | with_reducible apply AnsFrame.done | with_reducible apply afterSig_frame | with_reducible apply AnsFrame.on (lifecycle_frame ..) | with_reducible apply AnsFrame.lit | intro _ | exact Frame.refl _ _

theorem execSecLifecycle_frame (r : Req) (target keyIndex : BitVec 3) (sig : BitVec 768) (record : List Byte) (s : State) : NextFrame [.prt, .lnk, .mbx, .chans, .evt, .sec, .trans, .free] s (execSecLifecycle r target keyIndex sig record s) :=
  ⟨_, rfl, serve_frame (fun _ _ => (bodySecLifecycle_frame ..).mono) (Frame.refl _ _)⟩

theorem revokeSlots_frame (all : Bool) (s : State) : Frame [.sec] s (updSec (revokeSlots all) s) :=
  updSec_frame (fun _ => by unfold revokeSlots; rfl) (fun _ => by unfold revokeSlots; rfl) (fun _ h => by unfold revokeSlots; exact h) s

theorem transitionEffects_frame (old new : BitVec 3) (s : State) :
    Frame [.load, .sec, .tag] s (transitionEffects old new s) := by
  unfold transitionEffects
  dsimp only [setLoad_eq]
  dsimp only [setLoadTag_eq]
  repeat' first | with_reducible apply Frame.refl | exact rfl | with_reducible apply Frame.after (setLoadTag_frame ..) | with_reducible apply Frame.after (setLoad_frame ..) | split | with_reducible apply Frame.after (revokeSlots_frame ..)

theorem execLifecycleDone_frame (s : State) : NextFrame [.load, .prt, .lnk, .mbx, .evt, .sec, .life, .trans, .tag] s (execLifecycleDone s) := by
  unfold execLifecycleDone
  dsimp only
  repeat' first | with_reducible apply Frame.refl | exact rfl | with_reducible apply NextFrame.mk | exact fun _ => rfl | exact fun _ _ _ _ h => nomatch h | exact fun _ h => h | exact fun _ _ => rfl | exact fun _ h => Tab.wf_foldl_set h _ _ _ | split | with_reducible apply Frame.after (finishOpt_frame ..) | with_reducible apply Frame.after (raise_frame ..) | with_reducible apply Frame.after (transitionEffects_frame ..) | with_reducible apply Frame.after (updSec_any_frame ?_ ?_ _) | intro _

theorem bodySecZeroise_frame (_org : Origin) (s : State) : AnsFrame [.prt, .lnk, .mbx, .evt, .sec, .trans, .tag, .free] s (bodySecZeroise _org s) := by
  unfold bodySecZeroise
  repeat' first | with_reducible apply Frame.refl | exact rfl | with_reducible apply AnsFrame.refuse | with_reducible apply AnsFrame.done | with_reducible apply Frame.after (takeTamper_frame ..) | with_reducible apply AnsFrame.lit | intro _ | exact Frame.refl _ _

theorem execSecZeroise_frame (r : Req) (s : State) : NextFrame [.prt, .lnk, .mbx, .chans, .evt, .sec, .trans, .tag, .free] s (execSecZeroise r s) :=
  ⟨_, rfl, serve_frame (fun _ _ => (bodySecZeroise_frame ..).mono) (Frame.refl _ _)⟩

theorem execJtagTagAccess_frame (dr : W64) (s : State) : NextFrame [.tag] s (execJtagTagAccess dr s) := by
  unfold execJtagTagAccess
  dsimp only [setTag_eq]
  repeat' first | with_reducible apply Frame.refl | exact rfl | with_reducible apply NextFrame.mk | with_reducible apply Frame.after (setTag_frame ..) | split

theorem bodyTagRead_frame (offset length : Nat) (_org : Origin) (s : State) : AnsFrame [] s (bodyTagRead offset length _org s) := by
  unfold bodyTagRead
  dsimp only
  repeat' first | with_reducible apply Frame.refl | exact rfl | with_reducible apply AnsFrame.refuse | with_reducible apply AnsFrame.done | split | intro _ | with_reducible apply AnsFrame.lit | intro _ | exact Frame.refl _ _

theorem execTagRead_frame (r : Req) (offset length : BitVec 13) (s : State) : NextFrame [.lnk, .mbx, .chans, .evt, .sec] s (execTagRead r offset length s) :=
  ⟨_, rfl, serve_frame (fun _ _ => (bodyTagRead_frame ..).mono) (Frame.refl _ _)⟩

theorem bodyTagWrite_frame (offset : Nat) (record : List Byte) (org : Origin) (s : State) : AnsFrame [.tag] s (bodyTagWrite offset record org s) := by
  unfold bodyTagWrite
  dsimp only [setTag_eq]
  repeat' first | with_reducible apply Frame.refl | exact rfl | with_reducible apply AnsFrame.refuse | with_reducible apply AnsFrame.done | with_reducible apply Frame.after (setTag_frame ..) | split | with_reducible apply AnsFrame.lit | intro _ | exact Frame.refl _ _

theorem execTagWrite_frame (r : Req) (offset : BitVec 13) (record : List Byte) (s : State) : NextFrame [.lnk, .mbx, .chans, .evt, .sec, .tag] s (execTagWrite r offset record s) :=
  ⟨_, rfl, serve_frame (fun _ _ => (bodyTagWrite_frame ..).mono) (Frame.refl _ _)⟩

theorem applyTag_frame (j : TagJob) (s : State) : Frame [.tag] s (applyTag j s) := by
  unfold applyTag
  dsimp only [setTag_eq]
  repeat' first | with_reducible apply Frame.refl | exact rfl | with_reducible apply Frame.after (setTag_frame ..) | intro _

theorem execTagWriteDone_frame (s : State) : NextFrame [.lnk, .mbx, .evt, .tag] s (execTagWriteDone s) := by
  unfold execTagWriteDone
  repeat' first | with_reducible apply Frame.refl | exact rfl | with_reducible apply NextFrame.mk | split | with_reducible apply Frame.after (applyTag_frame ..) | with_reducible apply Frame.after (finishOpt_frame ..)

theorem bodyTagLock_frame (mask : Nat) (_org : Origin) (s : State) : AnsFrame [.tag] s (bodyTagLock mask _org s) := by
  unfold bodyTagLock
  dsimp only [setTag_eq]
  repeat' first | with_reducible apply Frame.refl | exact rfl | with_reducible apply AnsFrame.refuse | with_reducible apply AnsFrame.done | with_reducible apply Frame.after (setTag_frame ..) | split | with_reducible apply AnsFrame.lit | intro _ | exact Frame.refl _ _

theorem execTagLock_frame (r : Req) (mask : BitVec 8) (s : State) : NextFrame [.lnk, .mbx, .chans, .evt, .sec, .tag] s (execTagLock r mask s) :=
  ⟨_, rfl, serve_frame (fun _ _ => (bodyTagLock_frame ..).mono) (Frame.refl _ _)⟩

theorem bodyTagIdentity_frame (_org : Origin) (s : State) : AnsFrame [] s (bodyTagIdentity _org s) := by
  unfold bodyTagIdentity
  repeat' first | with_reducible apply Frame.refl | exact rfl | with_reducible apply AnsFrame.refuse | with_reducible apply AnsFrame.done | with_reducible apply AnsFrame.lit | intro _ | exact Frame.refl _ _

theorem execTagIdentity_frame (r : Req) (s : State) : NextFrame [.lnk, .mbx, .chans, .evt, .sec] s (execTagIdentity r s) :=
  ⟨_, rfl, serve_frame (fun _ _ => (bodyTagIdentity_frame ..).mono) (Frame.refl _ _)⟩

theorem allLinksDown_frame (s : State) : Frame [.lnk, .mbx, .evt] s (allLinksDown s) := by
  unfold allLinksDown
  repeat' first | with_reducible apply Frame.refl | exact rfl | split | with_reducible apply Frame.forEach | with_reducible apply Frame.after (linkFall_frame ..) | intro _

theorem execJtagScanBase_frame (s : State) : NextFrame [.ext, .start, .prt, .lnk, .mbx, .evt, .sec, .trans, .tag, .free] s (execJtagScanBase s) := by
  unfold execJtagScanBase
  dsimp only [setStart_eq]
  dsimp only [setExtStart_eq]
  repeat' first | with_reducible apply Frame.refl | exact rfl | with_reducible apply NextFrame.mk | exact fun _ => rfl | exact fun _ _ _ _ h => nomatch h | exact fun _ h => h | exact fun _ _ => rfl | exact fun _ h => Tab.wf_foldl_set h _ _ _ | with_reducible apply Frame.after (setStart_frame ..) | with_reducible apply Frame.after (setExtStart_frame ..) | split | with_reducible apply Frame.after (allLinksDown_frame ..) | with_reducible apply Frame.after (cutOff_frame ..) | with_reducible apply Frame.after (updPrt_frame ?_ _) | with_reducible apply Frame.after (updSec_frame ?_ ?_ ?_ _) | with_reducible apply Frame.after (zeroiseKey_frame ..) | intro _

theorem execJtagBoundaryScan_frame (inst : JtagInst) (s : State) : NextFrame [.start] s (execJtagBoundaryScan inst s) := by
  unfold execJtagBoundaryScan
  dsimp only [setStart_eq]
  repeat' first | with_reducible apply Frame.refl | exact rfl | with_reducible apply NextFrame.mk | with_reducible apply Frame.after (setStart_frame ..) | split

theorem updPwr_frame (f : Pwr → Pwr) (s : State) : Frame [.pwr] s (updPwr f s) := by
  unfold updPwr
  dsimp only [setPwr_eq]
  repeat' first | with_reducible apply Frame.refl | exact rfl | with_reducible apply Frame.after (setPwr_frame ..)

theorem endWaits_frame (d : Nat) (st : Status) (s : State) : Frame [.pwr, .lnk, .mbx, .evt] s (endWaits d st s) := by
  unfold endWaits
  dsimp only
  repeat' first | with_reducible apply Frame.refl | exact rfl | with_reducible apply Frame.foldl | with_reducible apply Frame.after (finish_frame ..) | with_reducible apply Frame.after (updDom_frame ..) | intro _

theorem beginUp_frame (d : Nat) (s : State) : Frame [.pwr, .mem] s (beginUp d s) := by
  unfold beginUp
  dsimp only [setPwrMem_eq]
  repeat' first | with_reducible apply Frame.refl | exact rfl | with_reducible apply Frame.after (setPwrMem_frame ..) | split | with_reducible apply Frame.after (updDom_frame ..) | intro _

theorem pump_frame (s : State) : Frame [.pwr, .mem, .lnk, .mbx, .evt] s (pump s) := by
  unfold pump
  repeat' first | with_reducible apply Frame.refl | exact rfl | split | with_reducible apply Frame.forEach | with_reducible apply Frame.after (beginUp_frame ..) | with_reducible apply Frame.after (endWaits_frame ..) | with_reducible apply Frame.after (updPwr_frame ..) | intro _

theorem dramUp_frame (c : Nat) (s : State) : Frame [.dram, .free] s (dramUp c s) := by
  unfold dramUp
  dsimp only
  repeat' first | with_reducible apply Frame.refl | exact rfl | split | with_reducible apply Frame.after (storeResults_frame ..) | with_reducible apply Frame.after (updDchan_frame ..) | with_reducible apply Frame.after (useFree_frame ..) | intro _

theorem regionUp_frame (r : Nat) (s : State) : Frame [.scrub, .ctx, .mbx, .chans] s (regionUp r s) := by
  unfold regionUp
  dsimp only [setScrub_eq]
  repeat' first | with_reducible apply Frame.refl | exact rfl | with_reducible apply Frame.after (setScrub_frame ..) | split | with_reducible apply Frame.forEach | with_reducible apply Frame.after (updChan_frame ..) | with_reducible apply Frame.after (updRegion_frame ..) | intro _

theorem upEffects_frame (d : Nat) (s : State) : Frame [.scrub, .ctx, .dram, .prt, .lnk, .mbx, .chans, .evt, .sec, .free] s (upEffects d s) := by
  unfold upEffects
  repeat' first | with_reducible apply Frame.refl | exact rfl | exact fun _ => rfl | exact fun _ _ _ _ h => nomatch h | exact fun _ h => h | exact fun _ _ => rfl | exact fun _ h => Tab.wf_foldl_set h _ _ _ | split | with_reducible apply Frame.after (dramUp_frame ..) | with_reducible apply Frame.after (drawBootKey_frame ..) | with_reducible apply Frame.after (regionUp_frame ..) | with_reducible apply Frame.after (updScrub_frame ..) | with_reducible apply Frame.after (updSec_frame ?_ ?_ ?_ _) | intro _

theorem setOn_frame (d : Nat) (s : State) : Frame [.pwr] s (setOn d s) := by
  unfold setOn
  repeat' first | with_reducible apply Frame.refl | exact rfl | with_reducible apply Frame.after (updDom_frame ..) | intro _

theorem execDomainPowerUpDone_frame (domain : Fin 96) (s : State) : NextFrame [.pwr, .scrub, .ctx, .mem, .dram, .prt, .lnk, .mbx, .chans, .evt, .sec, .free] s (execDomainPowerUpDone domain s) := by
  unfold execDomainPowerUpDone
  dsimp only
  repeat' first | with_reducible apply Frame.refl | exact rfl | with_reducible apply NextFrame.mk | split | with_reducible apply Frame.foldl | with_reducible apply Frame.after (finish_frame ..) | with_reducible apply Frame.after (pump_frame ..) | with_reducible apply Frame.after (setOn_frame ..) | with_reducible apply Frame.after (upEffects_frame ..) | intro _

theorem sectorOff_frame (k : Nat) (s : State) : Frame [.mem, .lnk, .dsp, .mbx, .evt] s (sectorOff k s) := by
  unfold sectorOff
  dsimp only [setMem_eq]
  repeat' first | with_reducible apply Frame.refl | exact rfl | with_reducible apply Frame.after (setMem_frame ..) | with_reducible apply Frame.forEach | with_reducible apply Frame.after (leaveFifo_frame ..) | with_reducible apply Frame.after (updBlock_frame ..) | intro _

theorem pllOff_frame (g : Nat) (s : State) : Frame [.align, .clk, .lnk] s (pllOff g s) := by
  unfold pllOff
  dsimp only [setAlignClkLnk_eq]
  repeat' first | with_reducible apply Frame.refl | exact rfl | with_reducible apply Frame.after (setAlignClkLnk_frame ..) | split | with_reducible apply Frame.after (updPll_frame ..) | intro _

theorem storeOff_frame (s : State) : Frame [.load] s (storeOff s) := by
  unfold storeOff
  dsimp only [setLoad_eq]
  repeat' first | with_reducible apply Frame.refl | exact rfl | with_reducible apply Frame.after (setLoad_frame ..)

theorem dramRest_frame (c : Nat) (s : State) : Frame [.dram, .lnk, .mbx, .evt] s (dramRest c s) := by
  unfold dramRest
  dsimp only
  repeat' first | with_reducible apply Frame.refl | exact rfl | split | with_reducible apply Frame.foldl | with_reducible apply Frame.after (finishOpt_frame ..) | with_reducible apply Frame.after (switchStep_frame ..) | with_reducible apply Frame.after (updDchan_frame ..) | intro _

theorem dropEffects_frame (d cause : Nat) (s : State) : Frame [.start, .align, .clk, .load, .ctx, .fab, .mem, .prt, .lnk, .dsp, .pins, .mbx, .evt, .sec, .free] s (dropEffects d cause s) := by
  unfold dropEffects
  repeat' first | with_reducible apply Frame.refl | exact rfl | exact fun _ => rfl | exact fun _ _ _ _ h => nomatch h | exact fun _ h => h | exact fun _ _ => rfl | exact fun _ h => Tab.wf_foldl_set h _ _ _ | split | with_reducible apply Frame.foldl | with_reducible apply Frame.after (abortTest_frame ..) | with_reducible apply Frame.after (dspOff_frame ..) | with_reducible apply Frame.after (linkFall_frame ..) | with_reducible apply Frame.after (pinBankOff_frame ..) | with_reducible apply Frame.after (pllOff_frame ..) | with_reducible apply Frame.after (sectorOff_frame ..) | with_reducible apply Frame.after (storeOff_frame ..) | with_reducible apply Frame.after (updSec_frame ?_ ?_ ?_ _) | with_reducible apply Frame.after (zeroiseKey_frame ..) | intro _

theorem regionDark_frame (r cause : Nat) (s : State) : Frame [.ctx, .fab, .noc, .lnk, .pins, .mbx, .chans, .evt] s (regionDark r cause s) := by
  unfold regionDark
  repeat' first | with_reducible apply Frame.refl | exact rfl | split | with_reducible apply Frame.after (darkSites_frame ..) | with_reducible apply Frame.after (regionOff_frame ..)

theorem isolate_frame (d : Nat) (s : State) : Frame [.pwr, .ctx, .fab, .noc, .dram, .lnk, .pins, .mbx, .chans, .evt] s (isolate d s) := by
  unfold isolate
  dsimp only
  repeat' first | with_reducible apply Frame.refl | exact rfl | split | with_reducible apply Frame.after (dramRest_frame ..) | with_reducible apply Frame.after (regionDark_frame ..) | with_reducible apply Frame.after (updDom_frame ..) | intro _

theorem closeSite_frame (d : Nat) (s : State) : Frame [.mbx, .chans] s (closeSite d s) := by
  unfold closeSite
  dsimp only [setMbx_eq]
  repeat' first | with_reducible apply Frame.refl | exact rfl | with_reducible apply Frame.after (setMbx_frame ..) | split | with_reducible apply Frame.forEach | with_reducible apply Frame.after (updChan_frame ..) | intro _

theorem closeFence_frame (d : Nat) (s : State) : Frame [.pwr] s (closeFence d s) := by
  unfold closeFence
  repeat' first | with_reducible apply Frame.refl | exact rfl | with_reducible apply Frame.after (updDom_frame ..) | intro _

theorem execTampComplete_frame (domain : Fin 96) (s : State) : NextFrame [.pwr, .ctx, .fab, .noc, .dram, .lnk, .pins, .mbx, .chans, .evt] s (execTampComplete domain s) := by
  unfold execTampComplete
  dsimp only
  repeat' first | with_reducible apply Frame.refl | exact rfl | with_reducible apply NextFrame.mk | split | with_reducible apply Frame.foldl | with_reducible apply Frame.after (finish_frame ..) | with_reducible apply Frame.after (isolate_frame ..) | with_reducible apply Frame.after (updDom_frame ..) | intro _

theorem execDomainPowerDownDone_frame (domain : Fin 96) (s : State) : NextFrame [.start, .align, .clk, .pwr, .load, .ctx, .fab, .mem, .prt, .lnk, .dsp, .pins, .mbx, .evt, .sec, .free] s (execDomainPowerDownDone domain s) := by
  unfold execDomainPowerDownDone
  dsimp only
  repeat' first | with_reducible apply Frame.refl | exact rfl | with_reducible apply NextFrame.mk | split | with_reducible apply Frame.after (dropEffects_frame ..) | with_reducible apply Frame.after (finishOpt_frame ..) | with_reducible apply Frame.after (pump_frame ..) | with_reducible apply Frame.after (updDom_frame ..) | with_reducible apply Frame.after (updPwr_frame ..) | intro _

theorem pwrAnswer_frame (org : Origin) (outs : List (Nat × Option Status)) (s : State) : AnsFrame [.pwr, .mem, .lnk, .mbx, .evt] s (pwrAnswer org outs s) := by
  unfold pwrAnswer
  repeat' first | with_reducible apply Frame.refl | exact rfl | with_reducible apply AnsFrame.refuse | with_reducible apply AnsFrame.done | split | with_reducible apply Frame.foldl | with_reducible apply Frame.after (finish_frame ..) | with_reducible apply Frame.after (pump_frame ..) | intro _ | with_reducible apply AnsFrame.lit | intro _ | exact Frame.refl _ _

theorem bodyPwrStatus_frame (mask : Nat) (_org : Origin) (s : State) : AnsFrame [] s (bodyPwrStatus mask _org s) := by
  unfold bodyPwrStatus
  repeat' first | with_reducible apply Frame.refl | exact rfl | with_reducible apply AnsFrame.refuse | with_reducible apply AnsFrame.done | intro _ | with_reducible apply AnsFrame.lit | intro _ | exact Frame.refl _ _

theorem execPwrStatus_frame (r : Req) (mask : BitVec 96) (s : State) : NextFrame [.lnk, .mbx, .chans, .evt, .sec] s (execPwrStatus r mask s) :=
  ⟨_, rfl, serve_frame (fun _ _ => (bodyPwrStatus_frame ..).mono) (Frame.refl _ _)⟩

theorem openFence_frame (d : Nat) (s : State) : Frame [.pwr, .lnk, .mbx, .evt] s (openFence d s) := by
  unfold openFence
  dsimp only
  repeat' first | with_reducible apply Frame.refl | exact rfl | with_reducible apply Frame.foldl | with_reducible apply Frame.after (finish_frame ..) | with_reducible apply Frame.after (updDom_frame ..) | intro _

theorem abortStop_frame (d : Nat) (s : State) : Frame [.pwr, .lnk, .mbx, .chans, .evt] s (abortStop d s) := by
  unfold abortStop
  dsimp only
  repeat' first | with_reducible apply Frame.refl | exact rfl | split | with_reducible apply Frame.forEach | with_reducible apply Frame.after (finishOpt_frame ..) | with_reducible apply Frame.after (openFence_frame ..) | with_reducible apply Frame.after (updChan_frame ..) | with_reducible apply Frame.after (updDom_frame ..) | intro _

theorem onDomain_frame (org : Origin) (d : Nat) (s : State) : Frame [.pwr, .lnk, .mbx, .chans, .evt] s (onDomain org d s).2 := by
  unfold onDomain
  dsimp only
  repeat' first | with_reducible apply Frame.refl | exact rfl | split | with_reducible apply Frame.after (abortStop_frame ..) | with_reducible apply Frame.after (openFence_frame ..) | with_reducible apply Frame.after (updDom_frame ..) | with_reducible apply Frame.after (updPwr_frame ..) | intro _

theorem overDoms_frame {W : List Part} {f : Nat → State → Option Status × State} (hf : ∀ d x, Frame W x (f d x).2)
    (ds : List Nat) (s : State) : Frame W s (overDoms f ds s).2 := by
  induction ds generalizing s with
  | nil => exact Frame.refl _ _
  | cons d ds ih => exact (ih _).trans (hf d s)

theorem bodyPwrOn_frame (mask : Nat) (org : Origin) (s : State) : AnsFrame [.pwr, .mem, .lnk, .mbx, .chans, .evt] s (bodyPwrOn mask org s) := by
  unfold bodyPwrOn
  dsimp only
  repeat' first | with_reducible apply Frame.refl | exact rfl | with_reducible apply AnsFrame.refuse | with_reducible apply AnsFrame.done | with_reducible apply AnsFrame.on (pwrAnswer_frame ..) | split | with_reducible apply Frame.after (onDomain_frame ..) | with_reducible apply Frame.trans (overDoms_frame ?_ _ _) | intro _ | with_reducible apply AnsFrame.lit | intro _ | exact Frame.refl _ _

theorem execPwrOn_frame (r : Req) (mask : BitVec 96) (s : State) : NextFrame [.pwr, .mem, .lnk, .mbx, .chans, .evt, .sec] s (execPwrOn r mask s) :=
  ⟨_, rfl, serve_frame (fun _ _ => (bodyPwrOn_frame ..).mono) (Frame.refl _ _)⟩

theorem offDomain_frame (org : Origin) (d : Nat) (s : State) : Frame [.pwr, .ctx, .fab, .noc, .dram, .lnk, .pins, .mbx, .chans, .evt] s (offDomain org d s).2 := by
  unfold offDomain
  dsimp only
  repeat' first | with_reducible apply Frame.refl | exact rfl | split | with_reducible apply Frame.after (closeFence_frame ..) | with_reducible apply Frame.after (closeSite_frame ..) | with_reducible apply Frame.after (isolate_frame ..) | with_reducible apply Frame.after (updDom_frame ..) | intro _

theorem bodyPwrOff_frame (mask : Nat) (org : Origin) (s : State) : AnsFrame [.pwr, .ctx, .fab, .mem, .noc, .dram, .lnk, .pins, .mbx, .chans, .evt] s (bodyPwrOff mask org s) := by
  unfold bodyPwrOff
  dsimp only
  repeat' first | with_reducible apply Frame.refl | exact rfl | with_reducible apply AnsFrame.refuse | with_reducible apply AnsFrame.done | with_reducible apply AnsFrame.on (pwrAnswer_frame ..) | split | with_reducible apply Frame.after (offDomain_frame ..) | with_reducible apply Frame.trans (overDoms_frame ?_ _ _) | with_reducible apply AnsFrame.lit | intro _ | exact Frame.refl _ _

theorem execPwrOff_frame (r : Req) (mask : BitVec 96) (s : State) : NextFrame [.pwr, .ctx, .fab, .mem, .noc, .dram, .lnk, .pins, .mbx, .chans, .evt, .sec] s (execPwrOff r mask s) :=
  ⟨_, rfl, serve_frame (fun _ _ => (bodyPwrOff_frame ..).mono) (Frame.refl _ _)⟩

theorem tampDomain_frame (org : Origin) (d : Nat) (s : State) : Frame [.pwr] s (tampDomain org d s).2 := by
  unfold tampDomain
  dsimp only
  repeat' first | with_reducible apply Frame.refl | exact rfl | split | with_reducible apply Frame.after (closeFence_frame ..) | with_reducible apply Frame.after (updDom_frame ..) | intro _

theorem bodyPwrTamp_frame (mask : Nat) (org : Origin) (s : State) : AnsFrame [.pwr, .mem, .lnk, .mbx, .evt] s (bodyPwrTamp mask org s) := by
  unfold bodyPwrTamp
  dsimp only
  repeat' first | with_reducible apply Frame.refl | exact rfl | with_reducible apply AnsFrame.refuse | with_reducible apply AnsFrame.done | with_reducible apply AnsFrame.on (pwrAnswer_frame ..) | split | with_reducible apply Frame.trans (overDoms_frame ?_ _ _) | with_reducible apply Frame.after (tampDomain_frame ..) | with_reducible apply AnsFrame.lit | intro _ | exact Frame.refl _ _

theorem execPwrTamp_frame (r : Req) (mask : BitVec 96) (s : State) : NextFrame [.pwr, .mem, .lnk, .mbx, .chans, .evt, .sec] s (execPwrTamp r mask s) :=
  ⟨_, rfl, serve_frame (fun _ _ => (bodyPwrTamp_frame ..).mono) (Frame.refl _ _)⟩

theorem retainDomain_frame (org : Origin) (d : Nat) (s : State) : Frame [.pwr] s (retainDomain org d s).2 := by
  unfold retainDomain
  dsimp only
  repeat' first | with_reducible apply Frame.refl | exact rfl | split | with_reducible apply Frame.after (updDom_frame ..) | intro _

theorem bodyPwrRetain_frame (mask : Nat) (org : Origin) (s : State) : AnsFrame [.pwr, .mem, .lnk, .mbx, .evt] s (bodyPwrRetain mask org s) := by
  unfold bodyPwrRetain
  dsimp only
  repeat' first | with_reducible apply Frame.refl | exact rfl | with_reducible apply AnsFrame.refuse | with_reducible apply AnsFrame.done | with_reducible apply AnsFrame.on (pwrAnswer_frame ..) | split | with_reducible apply Frame.trans (overDoms_frame ?_ _ _) | with_reducible apply Frame.after (retainDomain_frame ..) | intro _ | with_reducible apply AnsFrame.lit | intro _ | exact Frame.refl _ _

theorem execPwrRetain_frame (r : Req) (mask : BitVec 96) (s : State) : NextFrame [.pwr, .mem, .lnk, .mbx, .chans, .evt, .sec] s (execPwrRetain r mask s) :=
  ⟨_, rfl, serve_frame (fun _ _ => (bodyPwrRetain_frame ..).mono) (Frame.refl _ _)⟩

theorem execRegionRetentionEntered_frame (region : Fin 32) (s : State) : NextFrame [.pwr, .ctx, .lnk, .mbx, .evt] s (execRegionRetentionEntered region s) := by
  unfold execRegionRetentionEntered
  dsimp only
  repeat' first | with_reducible apply Frame.refl | exact rfl | with_reducible apply NextFrame.mk | split | with_reducible apply Frame.foldl | with_reducible apply Frame.after (finish_frame ..) | with_reducible apply Frame.after (updDom_frame ..) | with_reducible apply Frame.after (updRegion_frame ..) | intro _

end Sys2Proof.Machine
end

