-- ==== Sys2Proof/Laws/FrameReset.lean ====
section
/-! SUPPORT. Frames of the thermal sensors, the clocks, the resets and the mailboxes. -/

set_option Elab.async false

namespace Sys2Proof.Machine

theorem updThm_frame (f : Thm → Thm) (s : State) : Frame [.thm] s (updThm f s) := by
  unfold updThm
  dsimp only [setThm_eq]
  repeat' first | with_reducible apply Frame.refl | exact rfl | with_reducible apply Frame.after (setThm_frame ..)

theorem sampleOne_frame (l : List (Option Int)) (n : Nat) (s : State) : Frame [.thm, .lnk, .mbx, .evt] s (sampleOne l n s) := by
  unfold sampleOne
  dsimp only
  repeat' first | with_reducible apply Frame.refl | exact rfl | split | with_reducible apply Frame.after (raise_frame ..) | with_reducible apply Frame.after (updSensor_frame ..)

theorem deviceLimits_frame (s : State) : Frame [.thm, .lnk, .mbx, .evt] s (deviceLimits s) := by
  unfold deviceLimits
  dsimp only
  repeat' first | with_reducible apply Frame.refl | exact rfl | split | with_reducible apply Frame.after (raise_frame ..) | with_reducible apply Frame.after (updThm_frame ..) | intro _

theorem dropThrough_frame (q : Nat) (s : State) : Frame [.noc] s (dropThrough q s) := by
  unfold dropThrough
  dsimp only [setNoc_eq]
  repeat' first | with_reducible apply Frame.refl | exact rfl | with_reducible apply Frame.after (setNoc_frame ..) | intro _

theorem tripEffects_frame (d : Nat) (s : State) : Frame [.start, .align, .clk, .load, .ctx, .fab, .mem, .noc, .dram, .prt, .lnk, .dsp, .pins, .mbx, .chans, .evt, .sec, .free] s (tripEffects d s) := by
  unfold tripEffects
  dsimp only
  repeat' first | with_reducible apply Frame.refl | exact rfl | split | with_reducible apply Frame.after (abortTest_frame ..) | with_reducible apply Frame.after (dropEffects_frame ..) | with_reducible apply Frame.after (dropThrough_frame ..) | with_reducible apply Frame.after (endStagings_frame ..) | with_reducible apply Frame.after (failChannel_frame ..) | with_reducible apply Frame.after (regionDark_frame ..)

theorem tripDomain_frame (n : Nat) (ror : Bool) (d : Nat) (s : State) : Frame [.start, .align, .clk, .pwr, .load, .ctx, .fab, .mem, .noc, .dram, .prt, .lnk, .dsp, .pins, .mbx, .chans, .evt, .sec, .free] s (tripDomain n ror d s) := by
  unfold tripDomain
  dsimp only
  repeat' first | with_reducible apply Frame.refl | exact rfl | with_reducible apply Frame.after (endWaits_frame ..) | with_reducible apply Frame.after (tripEffects_frame ..) | with_reducible apply Frame.after (tripSensor_frame ..) | with_reducible apply Frame.after (updDom_frame ..) | with_reducible apply Frame.after (updPwr_frame ..) | intro _

theorem tripSensor_frame (s : State) (n : Nat) : Frame [.start, .align, .clk, .pwr, .load, .ctx, .fab, .mem, .noc, .dram, .prt, .lnk, .dsp, .pins, .mbx, .chans, .evt, .sec, .free] s (tripSensor s n) := by
  unfold tripSensor
  dsimp only
  repeat' first | with_reducible apply Frame.refl | exact rfl | split | with_reducible apply Frame.forEach | with_reducible apply Frame.after (raise_frame ..) | with_reducible apply Frame.after (tripDomain_frame ..) | intro _

theorem execSensorSample_frame (readings : List (Option Int)) (s : State) : NextFrame [.ext, .start, .align, .clk, .pwr, .thm, .load, .ctx, .fab, .mem, .noc, .dram, .prt, .lnk, .dsp, .pins, .mbx, .chans, .evt, .sec, .free] s (execSensorSample readings s) := by
  unfold execSensorSample
  dsimp only
  repeat' first | with_reducible apply Frame.refl | exact rfl | with_reducible apply NextFrame.mk | split | with_reducible apply Frame.foldl | with_reducible apply Frame.forEach | with_reducible apply Frame.after (bootCheck_frame ..) | with_reducible apply Frame.after (deviceLimits_frame ..) | with_reducible apply Frame.after (pump_frame ..) | with_reducible apply Frame.after (sampleOne_frame ..) | with_reducible apply Frame.after (startRound_frame ..) | with_reducible apply Frame.after (tripSensor_frame ..) | intro _

theorem execThermalClear_frame (throttle : Bool) (s : State) : NextFrame [.start, .pwr, .thm, .load, .ctx, .fab, .noc, .lnk, .mbx, .chans, .evt] s (execThermalClear throttle s) := by
  unfold execThermalClear
  repeat' first | with_reducible apply Frame.refl | exact rfl | with_reducible apply NextFrame.mk | split | with_reducible apply Frame.after (startRound_frame ..) | with_reducible apply Frame.after (updThm_frame ..) | intro _

theorem cutTransition_frame (done : Bool) (s : State) : Frame [.load, .sec, .life, .trans, .tag] s (cutTransition done s) := by
  unfold cutTransition
  split
  · split
    · exact Frame.after (transitionEffects_frame ..) (Frame.after (updSec_any_frame (f := fun x => { x with life := _, groups := _, pending := none }) (fun _ => rfl) (fun _ h => h) _) (Frame.refl _ _))
    · exact Frame.after (updSec_any_frame (f := fun x => { x with pending := none }) (fun _ => rfl) (fun _ h => h) _) (Frame.refl _ _)
  · exact Frame.refl _ _

theorem cutTag_frame (done : Bool) (s : State) : Frame [.tag] s (cutTag done s) := by
  unfold cutTag
  split
  · split
    · exact (applyTag_frame ..).after (Frame.refl _ _)
    · exact Frame.after (setTag_frame s { s.tag with job := none }) (Frame.refl _ _)
  · exact Frame.refl _ _

theorem cutWrites_frame (s : State) : Frame [.load, .mbx, .sec, .life, .trans, .tag, .free] s (cutWrites s) := by
  unfold cutWrites
  have h2 (v : Nat → Bool) : Frame [.load, .mbx, .sec, .life, .trans, .tag, .free] s (cutTag (v 1) (cutTransition (v 0) (useFree 1 s))) :=
    (cutTag_frame ..).after ((cutTransition_frame ..).after ((useFree_frame ..).after (Frame.refl _ _)))
  dsimp only
  split
  · exact (putSlot_frame ..).after ((updMbx_frame (f := fun m => { m with fwUpdate := none }) (fun _ => rfl) (fun _ => rfl) _).after (h2 (freeNow s).getLsbD))
  · exact h2 (freeNow s).getLsbD

theorem regionsDark_frame (s : State) : Frame [.ctx, .fab, .noc, .lnk, .pins, .mbx, .chans, .evt] s (regionsDark s) := by
  unfold regionsDark
  dsimp only [setCtx_eq]
  repeat' first | with_reducible apply Frame.refl | exact rfl | with_reducible apply Frame.after (setCtx_frame ..) | with_reducible apply Frame.forEach | with_reducible apply Frame.after (regionDark_frame ..) | with_reducible apply Frame.after (updRegion_frame ..) | intro _

theorem dropTests_frame (s : State) : Frame [.start] s (dropTests s) := by
  unfold dropTests
  repeat' first | with_reducible apply Frame.refl | exact rfl | with_reducible apply Frame.after (updStart_frame ..) | intro _

theorem dropStore_frame (s : State) : Frame [.load] s (dropStore s) := by
  unfold dropStore
  dsimp only [setLoad_eq]
  repeat' first | with_reducible apply Frame.refl | exact rfl | with_reducible apply Frame.after (setLoad_frame ..) | split | with_reducible apply Frame.after (storeOff_frame ..)

theorem dropDram_frame (s : State) : Frame [.dram, .prt] s (dropDram s) := by
  unfold dropDram
  dsimp only [setDramPrt_eq]
  repeat' first | with_reducible apply Frame.refl | exact rfl | with_reducible apply Frame.after (setDramPrt_frame ..) | split | with_reducible apply Frame.forEach | with_reducible apply Frame.after (updDchan_frame ..) | intro _

theorem dropLinks_frame (s : State) : Frame [.lnk] s (dropLinks s) := by
  unfold dropLinks
  dsimp only [setLnk_eq]
  repeat' first | with_reducible apply Frame.refl | exact rfl | with_reducible apply Frame.after (setLnk_frame ..) | with_reducible apply Frame.forEach | with_reducible apply Frame.after (updPort_frame ..) | intro _

theorem dropBarista_frame (s : State) : Frame [.mbx, .chans, .barista, .evt] s (dropBarista s) := by
  unfold dropBarista
  dsimp only [setEvt_eq]
  refine Frame.after (setEvt_frame ..) (Frame.after (setBarista_frame ..) ?_)
  constructor; intro p h; cases p <;> first | rfl | exact fun _ _ => rfl | exact id | cases h

theorem dropClocks_frame (s : State) : Frame [.align, .clk] s (dropClocks s) := by
  unfold dropClocks
  dsimp only [setAlignClk_eq]
  repeat' first | with_reducible apply Frame.refl | exact rfl | with_reducible apply Frame.after (setAlignClk_frame ..) | with_reducible apply Frame.forEach | with_reducible apply Frame.after (updPll_frame ..) | intro _

theorem dropTraffic_frame (s : State) : Frame [.mem, .noc, .lnk, .dsp, .mbx, .evt, .free] s (dropTraffic s) := by
  unfold dropTraffic
  dsimp only [setMemNoc_eq]
  repeat' first | with_reducible apply Frame.refl | exact rfl | with_reducible apply Frame.after (setMemNoc_frame ..) | split | with_reducible apply Frame.forEach | with_reducible apply Frame.after (dspOff_frame ..) | with_reducible apply Frame.after (sectorOff_frame ..) | intro _

theorem dropCore_frame (s : State) : Frame [.load, .mbx, .sec, .life, .trans, .tag, .free] s (dropCore s) := by
  unfold dropCore
  repeat' first | with_reducible apply Frame.refl | exact rfl | exact fun _ => rfl | exact fun _ _ _ _ h => nomatch h | exact fun _ h => h | exact fun _ _ => rfl | exact fun _ h => Tab.wf_foldl_set h _ _ _ | with_reducible apply Frame.after (cutWrites_frame ..) | with_reducible apply Frame.after (updSec_frame ?_ ?_ ?_ _) | intro _

theorem domainsOff_frame (s : State) : Frame [.pwr] s (domainsOff s) := by
  unfold domainsOff
  dsimp only
  repeat' first | with_reducible apply Frame.refl | exact rfl | split | with_reducible apply Frame.forEach | with_reducible apply Frame.after (updDom_frame ..) | intro _

theorem banksOff_frame (s : State) : Frame [.pins] s (banksOff s) := by
  unfold banksOff
  dsimp only [setPins_eq]
  repeat' first | with_reducible apply Frame.refl | exact rfl | with_reducible apply Frame.after (setPins_frame ..) | split | with_reducible apply Frame.forEach | with_reducible apply Frame.after (pinBankOff_frame ..) | intro _

theorem execPrivilegedTrip_frame (sensor : Fin 20) (temp : Int) (s : State) : NextFrame [.start, .align, .clk, .pwr, .load, .ctx, .fab, .mem, .noc, .dram, .prt, .lnk, .dsp, .pins, .mbx, .chans, .barista, .evt, .sec, .life, .trans, .tag, .free] s (execPrivilegedTrip sensor temp s) := by
  unfold execPrivilegedTrip
  dsimp only [setPwr_eq]
  repeat' first | with_reducible apply Frame.refl | exact rfl | with_reducible apply NextFrame.mk | with_reducible apply Frame.after (setPwr_frame ..) | split | with_reducible apply Frame.after (banksOff_frame ..) | with_reducible apply Frame.after (domainsOff_frame ..) | with_reducible apply Frame.after (dropBarista_frame ..) | with_reducible apply Frame.after (dropClocks_frame ..) | with_reducible apply Frame.after (dropCore_frame ..) | with_reducible apply Frame.after (dropDram_frame ..) | with_reducible apply Frame.after (dropLinks_frame ..) | with_reducible apply Frame.after (dropStore_frame ..) | with_reducible apply Frame.after (dropTests_frame ..) | with_reducible apply Frame.after (dropTraffic_frame ..) | with_reducible apply Frame.after (queueHw_frame ..) | with_reducible apply Frame.after (regionsDark_frame ..) | with_reducible apply Frame.after (tripSensor_frame ..) | intro _

theorem privOn_frame (d : Nat) (s : State) : Frame [.pwr] s (privOn d s) := by
  unfold privOn
  repeat' first | with_reducible apply Frame.refl | exact rfl | split | with_reducible apply Frame.after (setOn_frame ..)

theorem execPrivilegedRestart_frame (s : State) : NextFrame [.pwr, .thm, .lnk, .mbx, .barista, .evt] s (execPrivilegedRestart s) := by
  unfold execPrivilegedRestart
  dsimp only
  repeat' first | with_reducible apply Frame.refl | exact rfl | with_reducible apply NextFrame.mk | split | with_reducible apply Frame.forEach | with_reducible apply Frame.after (drainServing_frame ..) | with_reducible apply Frame.after (privOn_frame ..) | with_reducible apply Frame.after (raise_frame ..) | with_reducible apply Frame.after (startFirmware_frame ..) | with_reducible apply Frame.after (updDom_frame ..) | with_reducible apply Frame.after (updPwr_frame ..) | with_reducible apply Frame.after (updThm_frame ..) | intro _

theorem execCompensationStep_frame (item : CompItem) (s : State) : NextFrame [.clk] s (execCompensationStep item s) := by
  unfold execCompensationStep
  dsimp only [setClk_eq]
  repeat' first | with_reducible apply Frame.refl | exact rfl | with_reducible apply NextFrame.mk | with_reducible apply Frame.after (setClk_frame ..) | split | intro _

theorem bodyThmStatus_frame (_org : Origin) (s : State) : AnsFrame [] s (bodyThmStatus _org s) := by
  unfold bodyThmStatus
  dsimp only
  repeat' first | with_reducible apply Frame.refl | exact rfl | with_reducible apply AnsFrame.refuse | with_reducible apply AnsFrame.done | split | intro _ | with_reducible apply AnsFrame.lit | intro _ | exact Frame.refl _ _

theorem execThmStatus_frame (r : Req) (s : State) : NextFrame [.lnk, .mbx, .chans, .evt, .sec] s (execThmStatus r s) :=
  ⟨_, rfl, serve_frame (fun _ _ => (bodyThmStatus_frame ..).mono) (Frame.refl _ _)⟩

theorem bodyThmSensors_frame (first count : Nat) (_org : Origin) (s : State) : AnsFrame [] s (bodyThmSensors first count _org s) := by
  unfold bodyThmSensors
  repeat' first | with_reducible apply Frame.refl | exact rfl | with_reducible apply AnsFrame.refuse | with_reducible apply AnsFrame.done | split | intro _ | with_reducible apply AnsFrame.lit | intro _ | exact Frame.refl _ _

theorem execThmSensors_frame (r : Req) (first : BitVec 7) (count : BitVec 7) (s : State) : NextFrame [.lnk, .mbx, .chans, .evt, .sec] s (execThmSensors r first count s) :=
  ⟨_, rfl, serve_frame (fun _ _ => (bodyThmSensors_frame ..).mono) (Frame.refl _ _)⟩

theorem bodyThmLimits_frame (warn throttle : Nat) (_org : Origin) (s : State) : AnsFrame [.thm] s (bodyThmLimits warn throttle _org s) := by
  unfold bodyThmLimits
  repeat' first | with_reducible apply Frame.refl | exact rfl | with_reducible apply AnsFrame.refuse | with_reducible apply AnsFrame.done | split | with_reducible apply Frame.after (updThm_frame ..) | intro _ | with_reducible apply AnsFrame.lit | intro _ | exact Frame.refl _ _

theorem execThmLimits_frame (r : Req) (warn : BitVec 8) (throttle : BitVec 8) (s : State) : NextFrame [.thm, .lnk, .mbx, .chans, .evt, .sec] s (execThmLimits r warn throttle s) :=
  ⟨_, rfl, serve_frame (fun _ _ => (bodyThmLimits_frame ..).mono) (Frame.refl _ _)⟩

theorem updClk_frame (f : Clk → Clk) (s : State) : Frame [.clk] s (updClk f s) := by
  unfold updClk
  dsimp only [setClk_eq]
  repeat' first | with_reducible apply Frame.refl | exact rfl | with_reducible apply Frame.after (setClk_frame ..)

theorem fabricLock_frame (s : State) : Frame [.clk, .lnk] s (fabricLock s) := by
  unfold fabricLock
  dsimp only [setLnk_eq]
  repeat' first | with_reducible apply Frame.refl | exact rfl | with_reducible apply Frame.after (setLnk_frame ..) | split | with_reducible apply Frame.after (updClk_frame ..) | intro _

theorem execPllLock_frame (group : Fin 4) (ref : PllRef) (mismatch : Bool) (s : State) : NextFrame [.start, .clk, .pwr, .load, .ctx, .fab, .noc, .lnk, .mbx, .chans, .evt] s (execPllLock group ref mismatch s) := by
  unfold execPllLock
  dsimp only
  repeat' first | with_reducible apply Frame.refl | exact rfl | with_reducible apply NextFrame.mk | split | with_reducible apply Frame.after (fabricLock_frame ..) | with_reducible apply Frame.after (raise_frame ..) | with_reducible apply Frame.after (startRound_frame ..) | with_reducible apply Frame.after (updClk_frame ..) | with_reducible apply Frame.after (updPll_frame ..) | intro _

theorem holdRefclk_frame (s : State) : Frame [.clk] s (holdRefclk s) := by
  unfold holdRefclk
  repeat' first | with_reducible apply Frame.refl | exact rfl | split | with_reducible apply Frame.forEach | with_reducible apply Frame.after (updPll_frame ..) | intro _

theorem takeRefclk_frame (s : State) : Frame [.clk] s (takeRefclk s) := by
  unfold takeRefclk
  repeat' first | with_reducible apply Frame.refl | exact rfl | split | with_reducible apply Frame.forEach | with_reducible apply Frame.after (updPll_frame ..) | intro _

theorem loseRef_frame (s : State) : Frame [.align, .clk, .ctx, .fab, .lnk, .pins, .mbx, .chans, .evt] s (loseRef s) := by
  unfold loseRef
  dsimp only [setLnk_eq]
  repeat' first | with_reducible apply Frame.refl | exact rfl | with_reducible apply Frame.after (setLnk_frame ..) | split | with_reducible apply Frame.after (allLinksFall_frame ..) | with_reducible apply Frame.after (holdRefclk_frame ..) | with_reducible apply Frame.after (loseFabricClock_frame ..) | with_reducible apply Frame.after (raise_frame ..) | with_reducible apply Frame.after (updClk_frame ..) | with_reducible apply Frame.after (updPll_frame ..) | intro _

theorem execRefMonitorWindow_frame (edges : BitVec 12) (s : State) : NextFrame [.align, .clk, .ctx, .fab, .lnk, .pins, .mbx, .chans, .evt] s (execRefMonitorWindow edges s) := by
  unfold execRefMonitorWindow
  dsimp only [setLnk_eq]
  repeat' first | with_reducible apply Frame.refl | exact rfl | with_reducible apply NextFrame.mk | with_reducible apply Frame.after (setLnk_frame ..) | split | with_reducible apply Frame.after (loseRef_frame ..) | with_reducible apply Frame.after (takeRefclk_frame ..) | with_reducible apply Frame.after (updClk_frame ..) | intro _

theorem bodyClkStatus_frame (_org : Origin) (s : State) : AnsFrame [.free] s (bodyClkStatus _org s) := by
  unfold bodyClkStatus
  dsimp only
  repeat' first | with_reducible apply Frame.refl | exact rfl | with_reducible apply AnsFrame.refuse | with_reducible apply AnsFrame.done | with_reducible apply Frame.after (useFree_frame ..) | intro _ | with_reducible apply AnsFrame.lit | intro _ | exact Frame.refl _ _

theorem execClkStatus_frame (r : Req) (s : State) : NextFrame [.lnk, .mbx, .chans, .evt, .sec, .free] s (execClkStatus r s) :=
  ⟨_, rfl, serve_frame (fun _ _ => (bodyClkStatus_frame ..).mono) (Frame.refl _ _)⟩

theorem changeM_frame (m : Nat) (s : State) : Frame [.align, .clk, .lnk, .mbx, .evt] s (changeM m s) := by
  unfold changeM
  dsimp only
  repeat' first | with_reducible apply Frame.refl | exact rfl | with_reducible apply Frame.forEach | with_reducible apply Frame.after (linkFall_frame ..) | with_reducible apply Frame.after (pllOff_frame ..) | with_reducible apply Frame.after (updClk_frame ..) | intro _

theorem bodyClkFabric_frame (m : Nat) (org : Origin) (s : State) : AnsFrame [.align, .clk, .lnk, .mbx, .evt] s (bodyClkFabric m org s) := by
  unfold bodyClkFabric
  repeat' first | with_reducible apply Frame.refl | exact rfl | with_reducible apply AnsFrame.refuse | with_reducible apply AnsFrame.done | split | with_reducible apply Frame.after (changeM_frame ..) | with_reducible apply Frame.after (finish_frame ..) | with_reducible apply Frame.after (updClk_frame ..) | intro _ | with_reducible apply AnsFrame.lit | intro _ | exact Frame.refl _ _

theorem execClkFabric_frame (r : Req) (m : BitVec 7) (s : State) : NextFrame [.align, .clk, .lnk, .mbx, .chans, .evt, .sec] s (execClkFabric r m s) :=
  ⟨_, rfl, serve_frame (fun _ _ => (bodyClkFabric_frame ..).mono) (Frame.refl _ _)⟩

theorem bodyClkAux_frame (output n start : Nat) (enable : Bool) (_org : Origin) (s : State) : AnsFrame [.clk] s (bodyClkAux output n start enable _org s) := by
  unfold bodyClkAux
  repeat' first | with_reducible apply Frame.refl | exact rfl | with_reducible apply AnsFrame.refuse | with_reducible apply AnsFrame.done | split | with_reducible apply Frame.after (updClk_frame ..) | intro _ | with_reducible apply AnsFrame.lit | intro _ | exact Frame.refl _ _

theorem execClkAux_frame (r : Req) (output : BitVec 3) (n : BitVec 13) (start : W64) (enable : Bool) (s : State) : NextFrame [.clk, .lnk, .mbx, .chans, .evt, .sec] s (execClkAux r output n start enable s) :=
  ⟨_, rfl, serve_frame (fun _ _ => (bodyClkAux_frame ..).mono) (Frame.refl _ _)⟩

theorem bodyPwrWakeCfg_frame (sources ports : Nat) (deep : Bool) (set pins : Nat) (_org : Origin) (s : State) : AnsFrame [.pwr] s (bodyPwrWakeCfg sources ports deep set pins _org s) := by
  unfold bodyPwrWakeCfg
  repeat' first | with_reducible apply Frame.refl | exact rfl | with_reducible apply AnsFrame.refuse | with_reducible apply AnsFrame.done | with_reducible apply Frame.after (updPwr_frame ..) | intro _ | with_reducible apply AnsFrame.lit | intro _ | exact Frame.refl _ _

theorem execPwrWakeCfg_frame (r : Req) (sources : BitVec 3) (portMask : BitVec 6) (deepEn : Bool) (wakeSet : BitVec 96) (pinSet : BitVec 1152) (s : State) : NextFrame [.pwr, .lnk, .mbx, .chans, .evt, .sec] s (execPwrWakeCfg r sources portMask deepEn wakeSet pinSet s) :=
  ⟨_, rfl, serve_frame (fun _ _ => (bodyPwrWakeCfg_frame ..).mono) (Frame.refl _ _)⟩

theorem execDeepIdleEnter_frame (s : State) : NextFrame [.align, .clk, .pwr, .lnk] s (execDeepIdleEnter s) := by
  unfold execDeepIdleEnter
  dsimp only
  repeat' first | with_reducible apply Frame.refl | exact rfl | with_reducible apply NextFrame.mk | split | with_reducible apply Frame.forEach | with_reducible apply Frame.after (pllOff_frame ..) | with_reducible apply Frame.after (updDom_frame ..) | with_reducible apply Frame.after (updPwr_frame ..) | intro _

theorem execWakeEvent_frame (src : WakeSrc) (s : State) : NextFrame [.pwr, .mem, .lnk, .mbx, .evt] s (execWakeEvent src s) := by
  unfold execWakeEvent
  dsimp only
  repeat' first | with_reducible apply Frame.refl | exact rfl | with_reducible apply NextFrame.mk | split | with_reducible apply Frame.after (drainServing_frame ..) | with_reducible apply Frame.after (pump_frame ..) | with_reducible apply Frame.after (setOn_frame ..) | with_reducible apply Frame.after (updPwr_frame ..) | intro _

theorem execWakeDone_frame (s : State) : NextFrame [.pwr, .lnk, .mbx, .evt] s (execWakeDone s) := by
  unfold execWakeDone
  repeat' first | with_reducible apply Frame.refl | exact rfl | with_reducible apply NextFrame.mk | split | with_reducible apply Frame.after (finish_frame ..) | with_reducible apply Frame.after (updPwr_frame ..) | intro _

theorem resetHostChans_frame (s : State) : Frame [.mbx, .chans, .evt, .sec] s (resetHostChans s) := by
  unfold resetHostChans
  dsimp only [setMbxEvtSec_eq]
  repeat' first | with_reducible apply Frame.refl | exact rfl | with_reducible apply Frame.after (setMbxEvtSec_frame ..) | split | with_reducible apply Frame.forEach | with_reducible apply Frame.after (updChan_frame ..) | intro _

theorem execPf0FunctionReset_frame (s : State) : NextFrame [.mbx, .chans, .evt, .sec] s (execPf0FunctionReset s) := by
  unfold execPf0FunctionReset
  repeat' first | with_reducible apply Frame.refl | exact rfl | with_reducible apply NextFrame.mk | with_reducible apply Frame.after (resetHostChans_frame ..)

theorem execPf1FunctionReset_frame (s : State) : NextFrame [.noc] s (execPf1FunctionReset s) := by
  unfold execPf1FunctionReset
  dsimp only [setNoc_eq]
  repeat' first | with_reducible apply Frame.refl | exact rfl | with_reducible apply NextFrame.mk | with_reducible apply Frame.after (setNoc_frame ..) | intro _

theorem warmArmed_frame (s : State) : Frame [.ctx, .lnk, .mbx, .evt] s (warmArmed s) := by
  unfold warmArmed
  dsimp only [setCtx_eq]
  repeat' first | with_reducible apply Frame.refl | exact rfl | with_reducible apply Frame.after (setCtx_frame ..) | with_reducible apply Frame.foldl | with_reducible apply Frame.after (finishOpt_frame ..) | intro _

theorem warmSwitch_frame (s : State) : Frame [.dram, .lnk, .mbx, .evt] s (warmSwitch s) := by
  unfold warmSwitch
  dsimp only [setDram_eq]
  repeat' first | with_reducible apply Frame.refl | exact rfl | with_reducible apply Frame.after (setDram_frame ..) | split | with_reducible apply Frame.forEach | with_reducible apply Frame.after (finish_frame ..) | with_reducible apply Frame.after (updDchan_frame ..) | intro _

theorem warmDram_frame (s : State) : Frame [.dram, .lnk, .mbx, .evt] s (warmDram s) := by
  unfold warmDram
  dsimp only [setDram_eq]
  repeat' first | with_reducible apply Frame.refl | exact rfl | with_reducible apply Frame.after (setDram_frame ..) | split | with_reducible apply Frame.foldl | with_reducible apply Frame.forEach | with_reducible apply Frame.after (finish_frame ..) | with_reducible apply Frame.after (updDchan_frame ..) | with_reducible apply Frame.after (warmSwitch_frame ..) | intro _

theorem warmBlocks_frame (s : State) : Frame [.mem] s (warmBlocks s) := by
  unfold warmBlocks
  dsimp only [setMem_eq]
  repeat' first | with_reducible apply Frame.refl | exact rfl | with_reducible apply Frame.after (setMem_frame ..) | intro _

theorem warmReset_frame (s : State) : Frame [.pwr, .load, .ctx, .mem, .noc, .dram, .lnk, .dsp, .mbx, .chans, .evt, .sec] s (warmReset s) := by
  unfold warmReset
  dsimp only
  repeat' first | with_reducible apply Frame.refl | exact rfl | with_reducible apply Frame.after (dspWarmReset_frame ..) | with_reducible apply Frame.after (nocWarmReset_frame ..) | with_reducible apply Frame.after (resetHostChans_frame ..) | with_reducible apply Frame.after (updPwr_frame ..) | with_reducible apply Frame.after (warmArmed_frame ..) | with_reducible apply Frame.after (warmBlocks_frame ..) | with_reducible apply Frame.after (warmDram_frame ..) | intro _

theorem bodyPwrBaseReset_frame (_org : Origin) (s : State) : AnsFrame [.pwr] s (bodyPwrBaseReset _org s) := by
  unfold bodyPwrBaseReset
  repeat' first | with_reducible apply Frame.refl | exact rfl | with_reducible apply AnsFrame.refuse | with_reducible apply AnsFrame.done | split | with_reducible apply Frame.after (updPwr_frame ..) | intro _ | with_reducible apply AnsFrame.lit | intro _ | exact Frame.refl _ _

theorem execPwrBaseReset_frame (r : Req) (s : State) : NextFrame [.pwr, .lnk, .mbx, .chans, .evt, .sec] s (execPwrBaseReset r s) :=
  ⟨_, rfl, serve_frame (fun _ _ => (bodyPwrBaseReset_frame ..).mono) (Frame.refl _ _)⟩

theorem execBaseWarmReset_frame (s : State) : NextFrame [.pwr, .load, .ctx, .mem, .noc, .dram, .lnk, .dsp, .mbx, .chans, .evt, .sec] s (execBaseWarmReset s) := by
  unfold execBaseWarmReset
  repeat' first | with_reducible apply Frame.refl | exact rfl | with_reducible apply NextFrame.mk | split | with_reducible apply Frame.after (updPwr_frame ..) | with_reducible apply Frame.after (warmReset_frame ..) | intro _

theorem execPcieHotReset_frame (s : State) : NextFrame [.pwr, .load, .ctx, .mem, .noc, .dram, .lnk, .dsp, .mbx, .chans, .evt, .sec] s (execPcieHotReset s) := by
  unfold execPcieHotReset
  repeat' first | with_reducible apply Frame.refl | exact rfl | with_reducible apply NextFrame.mk | split | with_reducible apply Frame.after (warmReset_frame ..)

theorem execBaseWarmResetDone_frame (s : State) : NextFrame [.pwr, .load, .noc, .dram, .lnk, .evt] s (execBaseWarmResetDone s) := by
  unfold execBaseWarmResetDone
  dsimp only
  repeat' first | with_reducible apply Frame.refl | exact rfl | with_reducible apply NextFrame.mk | split | with_reducible apply Frame.forEach | with_reducible apply Frame.after (settle_frame ..) | with_reducible apply Frame.after (updDchan_frame ..) | with_reducible apply Frame.after (updPwr_frame ..) | intro _

theorem lasting_frame (s : State) : Frame [.ext, .start, .align, .clk, .pwr, .thm, .load, .scrub, .ctx, .fab, .mem, .noc, .dram, .prt, .locked, .lnk, .dsp, .pins, .mbx, .chans, .barista, .evt, .sec, .trans, .tag, .free] s (lasting s) := by
  constructor; intro p h; cases p <;> first | rfl | exact fun m => ⟨rfl, rfl, m.2.2.1, rfl⟩ | exact fun _ _ _ _ h => nomatch h | cases h

theorem powerLost_frame (s : State) : Frame [.ext, .start, .align, .clk, .pwr, .thm, .load, .scrub, .ctx, .fab, .mem, .noc, .dram, .prt, .locked, .lnk, .dsp, .pins, .mbx, .chans, .barista, .evt, .sec, .life, .trans, .tag, .free] s (powerLost s) := by
  unfold powerLost
  dsimp only [setExtStartPwr_eq]
  repeat' first | with_reducible apply Frame.refl | exact rfl | with_reducible apply Frame.after (setExtStartPwr_frame ..) | with_reducible apply Frame.after (cutWrites_frame ..) | with_reducible apply Frame.after (lasting_frame ..)

theorem fullReset_frame (s : State) : Frame [.ext, .start, .align, .clk, .pwr, .thm, .load, .scrub, .ctx, .fab, .mem, .noc, .dram, .prt, .locked, .lnk, .dsp, .pins, .mbx, .chans, .barista, .evt, .sec, .life, .trans, .tag, .free] s (fullReset s) := by
  unfold fullReset
  dsimp only [setPwrDram_eq]
  repeat' first | with_reducible apply Frame.refl | exact rfl | with_reducible apply Frame.after (setPwrDram_frame ..) | with_reducible apply Frame.after (cutWrites_frame ..) | with_reducible apply Frame.after (lasting_frame ..)

theorem execPwrGoodRise_frame (s : State) : NextFrame [.ext, .start, .align, .clk, .pwr, .thm, .load, .scrub, .ctx, .fab, .mem, .noc, .dram, .prt, .locked, .lnk, .dsp, .pins, .mbx, .chans, .barista, .evt, .sec, .trans, .tag, .free] s (execPwrGoodRise s) := by
  unfold execPwrGoodRise
  dsimp only [setExt_eq]
  repeat' first | with_reducible apply Frame.refl | exact rfl | with_reducible apply NextFrame.mk | with_reducible apply Frame.after (setExt_frame ..) | split | with_reducible apply Frame.after (lasting_frame ..)

theorem execPowerCycle_frame (s : State) : NextFrame [.ext, .start, .align, .clk, .pwr, .thm, .load, .scrub, .ctx, .fab, .mem, .noc, .dram, .prt, .locked, .lnk, .dsp, .pins, .mbx, .chans, .barista, .evt, .sec, .life, .trans, .tag, .free] s (execPowerCycle s) := by
  unfold execPowerCycle
  repeat' first | with_reducible apply Frame.refl | exact rfl | with_reducible apply NextFrame.mk | split | with_reducible apply Frame.after (powerLost_frame ..)

theorem execSupplyOutOfTolerance_frame (s : State) : NextFrame [.ext, .start, .align, .clk, .pwr, .thm, .load, .scrub, .ctx, .fab, .mem, .noc, .dram, .prt, .locked, .lnk, .dsp, .pins, .mbx, .chans, .barista, .evt, .sec, .life, .trans, .tag, .free] s (execSupplyOutOfTolerance s) := by
  unfold execSupplyOutOfTolerance
  repeat' first | with_reducible apply Frame.refl | exact rfl | with_reducible apply NextFrame.mk | split | with_reducible apply Frame.after (powerLost_frame ..)

theorem execResetNAssert_frame (s : State) : NextFrame [.ext, .start, .align, .clk, .pwr, .thm, .load, .scrub, .ctx, .fab, .mem, .noc, .dram, .prt, .locked, .lnk, .dsp, .pins, .mbx, .chans, .barista, .evt, .sec, .life, .trans, .tag, .free] s (execResetNAssert s) := by
  unfold execResetNAssert
  repeat' first | with_reducible apply Frame.refl | exact rfl | with_reducible apply NextFrame.mk | split | with_reducible apply Frame.after (fullReset_frame ..)

theorem sampleMode_frame (mode : BitVec 3) (flashA flashB : Option FwImage) (s : State) : Frame [.ext, .lnk, .mbx] s (sampleMode mode flashA flashB s) := by
  unfold sampleMode
  dsimp only [setExtLnkMbx_eq]
  repeat' first | with_reducible apply Frame.refl | exact rfl | with_reducible apply Frame.after (setExtLnkMbx_frame ..)

theorem stayInReset_frame (fails : List BistFail) (s : State) : Frame [.ext, .start, .lnk, .mbx, .evt] s (stayInReset fails s) := by
  unfold stayInReset
  repeat' first | with_reducible apply Frame.refl | exact rfl | with_reducible apply Frame.foldl | with_reducible apply Frame.after (assertError_frame ..) | with_reducible apply Frame.after (raiseFail_frame ..) | with_reducible apply Frame.after (updStart_frame ..) | intro _

theorem stepsFourFive_frame (fails : List BistFail) (s : State) : Frame [.ext, .start, .pwr, .mem, .lnk, .mbx, .evt, .sec, .free] s (stepsFourFive fails s) := by
  unfold stepsFourFive
  dsimp only
  repeat' first | with_reducible apply Frame.refl | exact rfl | exact fun _ => rfl | exact fun _ _ _ _ h => nomatch h | exact fun _ h => h | exact fun _ _ => rfl | exact fun _ h => Tab.wf_foldl_set h _ _ _ | with_reducible apply Frame.foldl | with_reducible apply Frame.forEach | with_reducible apply Frame.after (drawNonce_frame ..) | with_reducible apply Frame.after (noteFail_frame ..) | with_reducible apply Frame.after (startDom_frame ..) | with_reducible apply Frame.after (updSec_frame ?_ ?_ ?_ _) | with_reducible apply Frame.after (updStart_frame ..) | intro _

theorem execResetNRelease_frame (mode : BitVec 3) (fails : List BistFail) (flashA flashB : Option FwImage) (dimms : List (Nat × Dimm)) (trainFail : BitVec 8) (pprRefused : List (BitVec 64)) (s : State) : NextFrame [.ext, .start, .pwr, .load, .ctx, .fab, .mem, .noc, .dram, .prt, .lnk, .mbx, .chans, .barista, .evt, .sec, .free] s (execResetNRelease mode fails flashA flashB dimms trainFail pprRefused s) := by
  unfold execResetNRelease
  dsimp only
  repeat' first | with_reducible apply Frame.refl | exact rfl | with_reducible apply NextFrame.mk | split | with_reducible apply Frame.after (drainServing_frame ..) | with_reducible apply Frame.after (sampleMode_frame ..) | with_reducible apply Frame.after (startFirmware_frame ..) | with_reducible apply Frame.after (stayInReset_frame ..) | with_reducible apply Frame.after (stepSeven_frame ..) | with_reducible apply Frame.after (stepsFourFive_frame ..) | with_reducible apply Frame.after (updStart_frame ..) | intro _

theorem clearChan_frame (c : Nat) (s : State) : Frame [.mbx, .chans] s (clearChan c s) := by
  unfold clearChan
  repeat' first | with_reducible apply Frame.refl | exact rfl | split | with_reducible apply Frame.after (updChan_frame ..) | intro _

theorem ackChan_frame (c : Nat) (s : State) : Frame [.mbx, .chans] s (ackChan c s) := by
  unfold ackChan
  repeat' first | with_reducible apply Frame.refl | exact rfl | split | with_reducible apply Frame.after (updChan_frame ..) | intro _

theorem chanWrite_frame (c off v : Nat) (s : State) : Frame [.lnk, .mbx, .chans, .evt] s (chanWrite c off v s) := by
  unfold chanWrite
  dsimp only
  repeat' first | with_reducible apply Frame.refl | exact rfl | split | with_reducible apply Frame.after (ackChan_frame ..) | with_reducible apply Frame.after (clearChan_frame ..) | with_reducible apply Frame.after (ringChan_frame ..) | with_reducible apply Frame.after (updChan_frame ..) | intro _

theorem hostEvt_frame (f : Evt → Evt) (s : State) : Frame [.lnk, .mbx, .evt] s (hostEvt f s) := by
  unfold hostEvt
  dsimp only
  repeat' first | with_reducible apply Frame.refl | exact rfl | split | with_reducible apply Frame.after (postOverflow_frame ..) | with_reducible apply Frame.after (updEvt_frame ..)

theorem bar0Write_frame (off : Nat) (v : BitVec 32) (s : State) : Frame [.lnk, .mbx, .chans, .evt] s (bar0Write off v s) := by
  unfold bar0Write
  repeat' first | with_reducible apply Frame.refl | exact rfl | split | with_reducible apply Frame.after (chanWrite_frame ..) | with_reducible apply Frame.after (hostEvt_frame ..)

theorem imageWrite_frame (c off v : Nat) (s : State) : Frame [.lnk, .mbx, .chans, .evt] s (imageWrite c off v s) := by
  unfold imageWrite
  repeat' first | with_reducible apply Frame.refl | exact rfl | split | with_reducible apply Frame.after (chanWrite_frame ..)

theorem execJtagMbxAccess_frame (dr : W64) (s : State) : NextFrame [.lnk, .mbx, .chans, .evt] s (execJtagMbxAccess dr s) := by
  unfold execJtagMbxAccess
  dsimp only
  repeat' first | with_reducible apply Frame.refl | exact rfl | with_reducible apply NextFrame.mk | exact fun _ => rfl | split | with_reducible apply Frame.after (imageWrite_frame ..) | with_reducible apply Frame.after (updMbx_frame ?_ ?_ _) | intro _

theorem execMbxRing_frame (channel : Fin 16) (s : State) : NextFrame [.lnk, .mbx, .chans, .evt] s (execMbxRing channel s) := by
  unfold execMbxRing
  repeat' first | with_reducible apply Frame.refl | exact rfl | with_reducible apply NextFrame.mk | split | with_reducible apply Frame.after (chanWrite_frame ..)

theorem execMbxAck_frame (channel : Fin 16) (s : State) : NextFrame [.lnk, .mbx, .chans, .evt] s (execMbxAck channel s) := by
  unfold execMbxAck
  repeat' first | with_reducible apply Frame.refl | exact rfl | with_reducible apply NextFrame.mk | split | with_reducible apply Frame.after (chanWrite_frame ..)

theorem execMbxClear_frame (channel : Fin 16) (s : State) : NextFrame [.mbx, .chans] s (execMbxClear channel s) := by
  unfold execMbxClear
  repeat' first | with_reducible apply Frame.refl | exact rfl | with_reducible apply NextFrame.mk | split | with_reducible apply Frame.after (clearChan_frame ..)

theorem execEvtRingEnable_frame (value : BitVec 32) (s : State) : NextFrame [.lnk, .mbx, .evt] s (execEvtRingEnable value s) := by
  unfold execEvtRingEnable
  repeat' first | with_reducible apply Frame.refl | exact rfl | with_reducible apply NextFrame.mk | split | with_reducible apply Frame.after (hostEvt_frame ..)

theorem execEvtRingTailWrite_frame (value : BitVec 32) (s : State) : NextFrame [.lnk, .mbx, .evt] s (execEvtRingTailWrite value s) := by
  unfold execEvtRingTailWrite
  repeat' first | with_reducible apply Frame.refl | exact rfl | with_reducible apply NextFrame.mk | split | with_reducible apply Frame.after (hostEvt_frame ..)

theorem execEvtAlertAckWrite_frame (value : BitVec 32) (s : State) : NextFrame [.lnk, .mbx, .evt] s (execEvtAlertAckWrite value s) := by
  unfold execEvtAlertAckWrite
  repeat' first | with_reducible apply Frame.refl | exact rfl | with_reducible apply NextFrame.mk | split | with_reducible apply Frame.after (hostEvt_frame ..)

theorem smbusWord_frame (bytes : List (Nat × Byte)) (off : Nat) (s : State) : Frame [.lnk, .mbx, .chans, .evt] s (smbusWord bytes off s) := by
  unfold smbusWord
  dsimp only
  repeat' first | with_reducible apply Frame.refl | exact rfl | split | with_reducible apply Frame.after (imageWrite_frame ..) | intro _

theorem execSmbusPointerWrite_frame (value : BitVec 16) (pecOk : Bool) (s : State) : NextFrame [.mbx] s (execSmbusPointerWrite value pecOk s) := by
  unfold execSmbusPointerWrite
  repeat' first | with_reducible apply Frame.refl | exact rfl | with_reducible apply NextFrame.mk | exact fun _ => rfl | split | with_reducible apply Frame.after (updMbx_frame ?_ ?_ _) | intro _

theorem execSmbusBlockWrite_frame (bytes : List Byte) (pecOk : Bool) (s : State) : NextFrame [.lnk, .mbx, .chans, .evt] s (execSmbusBlockWrite bytes pecOk s) := by
  unfold execSmbusBlockWrite
  dsimp only
  repeat' first | with_reducible apply Frame.refl | exact rfl | with_reducible apply NextFrame.mk | exact fun _ => rfl | split | with_reducible apply Frame.forEach | with_reducible apply Frame.after (smbusWord_frame ..) | with_reducible apply Frame.after (updMbx_frame ?_ ?_ _) | intro _

theorem execSmbusBlockRead_frame (s : State) : NextFrame [.mbx] s (execSmbusBlockRead s) := by
  unfold execSmbusBlockRead
  dsimp only
  repeat' first | with_reducible apply Frame.refl | exact rfl | with_reducible apply NextFrame.mk | exact fun _ => rfl | split | with_reducible apply Frame.after (updMbx_frame ?_ ?_ _) | intro _

theorem execSmbusArp_frame (assign : Option (BitVec 7)) (s : State) : NextFrame [.mbx] s (execSmbusArp assign s) := by
  unfold execSmbusArp
  repeat' first | with_reducible apply Frame.refl | exact rfl | with_reducible apply NextFrame.mk | exact fun _ => rfl | split | with_reducible apply Frame.after (updMbx_frame ?_ ?_ _) | intro _

theorem takeFabRequest_frame (c : Nat) (s : State) : Frame [.lnk, .mbx, .chans, .evt] s (takeFabRequest c s) := by
  unfold takeFabRequest
  split
  · split
    · rename_i h
      exact (answerHw_frame ..).after ((takeReq_frame h).after (Frame.refl _ _))
    · exact Frame.refl _ _
  · split
    · exact Frame.refl _ _
    · exact (pushOrder_frame ..).after (Frame.refl _ _)

theorem execMbxReqPush_frame (channel : Fin 4) (word : W64) (last : Bool) (s : State) : NextFrame [.lnk, .mbx, .chans, .evt] s (execMbxReqPush channel word last s) := by
  unfold execMbxReqPush
  dsimp only
  repeat' first | with_reducible apply Frame.refl | exact rfl | with_reducible apply NextFrame.mk | split | with_reducible apply Frame.after (takeFabRequest_frame ..) | with_reducible apply Frame.after (updChan_frame ..) | intro _

theorem execMbxRspPop_frame (channel : Fin 4) (s : State) : NextFrame [.mbx, .chans] s (execMbxRspPop channel s) := by
  unfold execMbxRspPop
  dsimp only
  repeat' first | with_reducible apply Frame.refl | exact rfl | with_reducible apply NextFrame.mk | split | with_reducible apply Frame.after (updChan_frame ..) | intro _

theorem qctlWrite_frame (g off v : Nat) (s : State) : Frame [.mem] s (qctlWrite g off v s) := by
  unfold qctlWrite
  repeat' first | with_reducible apply Frame.refl | exact rfl | split | with_reducible apply Frame.after (addCreditWrite_frame ..) | with_reducible apply Frame.after (updBlock_frame ..) | intro _

theorem conflictWrite_frame (k off v : Nat) (s : State) : Frame [.mem] s (conflictWrite k off v s) := by
  unfold conflictWrite
  repeat' first | with_reducible apply Frame.refl | exact rfl | split | with_reducible apply Frame.after (clearConflicts_frame ..) | with_reducible apply Frame.after (setCsel_frame ..)

theorem ctlWrite1_frame (s : State) (w : Nat × BitVec 8 × W64) : Frame [.load, .mem] s (ctlWrite1 s w) := by
  unfold ctlWrite1
  dsimp only [setLoad_eq]
  repeat' first | with_reducible apply Frame.refl | exact rfl | with_reducible apply Frame.after (setLoad_frame ..) | split | with_reducible apply Frame.after (conflictWrite_frame ..) | with_reducible apply Frame.after (qctlWrite_frame ..) | with_reducible apply Frame.after (setWptr_frame ..)

theorem ctlWrite_frame (q : NocReq) (s : State) : Frame [.load, .mem] s (ctlWrite q s).2 := by
  unfold ctlWrite
  repeat' first | with_reducible apply Frame.refl | exact rfl | split | with_reducible apply Frame.foldl | with_reducible apply Frame.after (ctlWrite1_frame ..) | with_reducible apply Frame.after (writeWs_frame ..) | intro _

theorem nocRegWrite_frame (src : BitVec 8) (tag : BitVec 12) (addr : BitVec 48) (value : W64) (s : State) : Frame [.load, .mem, .noc] s (nocRegWrite src tag addr value s) := by
  unfold nocRegWrite
  dsimp only
  repeat' first | with_reducible apply Frame.refl | exact rfl | split | with_reducible apply Frame.after (answerMesh_frame ..) | with_reducible apply Frame.after (ctlWrite_frame ..)

theorem execRegisterWrite_frame (w : Writer) (addr : BitVec 48) (value : W64) (s : State) : NextFrame [.load, .mem, .noc, .lnk, .mbx, .chans, .evt] s (execRegisterWrite w addr value s) := by
  unfold execRegisterWrite
  repeat' first | with_reducible apply Frame.refl | exact rfl | with_reducible apply NextFrame.mk | split | with_reducible apply Frame.after (bar0Write_frame ..) | with_reducible apply Frame.after (imageWrite_frame ..) | with_reducible apply Frame.after (nocRegWrite_frame ..)

theorem sysCmd_frame {v : Nat} {k : Cmd} (h : sysCmd v = some k) (a : List Nat) (r : List Byte) (o : Origin) (x : State) :
    AnsFrame [.ext, .start, .align, .clk, .pwr, .thm, .load, .ctx, .fab, .mem, .noc, .dram, .prt, .lnk, .dsp, .pins, .mbx, .chans, .barista, .evt, .sec, .trans, .tag, .free] x (k.body a r o x) := by
  unfold sysCmd at h
  split at h <;> cases h
  · dsimp only; with_reducible exact (bodySysHello_frame ..).mono
  · dsimp only; with_reducible exact (bodySysVersion_frame ..).mono
  · dsimp only; with_reducible exact (bodySysFwLoad_frame ..).mono
  · dsimp only; with_reducible exact (bodySysFwUpdate_frame ..).mono
  · dsimp only; with_reducible exact (bodySysFwActivate_frame ..).mono
  · dsimp only; with_reducible exact (bodySysFwStatus_frame ..).mono
  · dsimp only; with_reducible exact (bodySysRestart_frame ..).mono
  · dsimp only; with_reducible exact (bodySysChannelPolicy_frame ..).mono
  · dsimp only; with_reducible exact (bodySysFwdTimeout_frame ..).mono

theorem cfgCmd_frame {v : Nat} {k : Cmd} (h : cfgCmd v = some k) (a : List Nat) (r : List Byte) (o : Origin) (x : State) :
    AnsFrame [.ext, .start, .align, .clk, .pwr, .thm, .load, .ctx, .fab, .mem, .noc, .dram, .prt, .lnk, .dsp, .pins, .mbx, .chans, .barista, .evt, .sec, .trans, .tag, .free] x (k.body a r o x) := by
  unfold cfgCmd at h
  split at h <;> cases h
  · dsimp only; with_reducible exact (bodyCfgLoad_frame ..).mono
  · dsimp only; with_reducible exact (bodyCfgStatus_frame ..).mono
  · dsimp only; with_reducible exact (bodyCfgList_frame ..).mono
  · dsimp only; with_reducible exact (bodyCfgDelete_frame ..).mono
  · dsimp only; with_reducible exact (bodyCfgReadback_frame ..).mono
  · dsimp only; with_reducible exact (bodyCfgScrubStatus_frame ..).mono
  · dsimp only; with_reducible exact (bodyCfgMemInit_frame ..).mono
  · dsimp only; with_reducible exact (bodyCfgMemMode_frame ..).mono
  · dsimp only; with_reducible exact (bodyCfgMemStatus_frame ..).mono

theorem ctxCmd_frame {v : Nat} {k : Cmd} (h : ctxCmd v = some k) (a : List Nat) (r : List Byte) (o : Origin) (x : State) :
    AnsFrame [.ext, .start, .align, .clk, .pwr, .thm, .load, .ctx, .fab, .mem, .noc, .dram, .prt, .lnk, .dsp, .pins, .mbx, .chans, .barista, .evt, .sec, .trans, .tag, .free] x (k.body a r o x) := by
  unfold ctxCmd at h
  split at h <;> cases h
  · dsimp only; with_reducible exact (bodyCtxStage_frame ..).mono
  · dsimp only; with_reducible exact (bodyCtxArm_frame ..).mono
  · dsimp only; with_reducible exact (bodyCtxArm_frame ..).mono
  · dsimp only; with_reducible exact (bodyCtxArm_frame ..).mono
  · dsimp only; with_reducible exact (bodyCtxArm_frame ..).mono
  · dsimp only; with_reducible exact (bodyCtxStop_frame ..).mono
  · dsimp only; with_reducible exact (bodyCtxArm_frame ..).mono
  · dsimp only; with_reducible exact (bodyCtxClear_frame ..).mono
  · dsimp only; with_reducible exact (bodyCtxEvict_frame ..).mono
  · dsimp only; with_reducible exact (bodyCtxStatus_frame ..).mono
  · dsimp only; with_reducible exact (bodyCtxWindow_frame ..).mono

theorem pwrCmd_frame {v : Nat} {k : Cmd} (h : pwrCmd v = some k) (a : List Nat) (r : List Byte) (o : Origin) (x : State) :
    AnsFrame [.ext, .start, .align, .clk, .pwr, .thm, .load, .ctx, .fab, .mem, .noc, .dram, .prt, .lnk, .dsp, .pins, .mbx, .chans, .barista, .evt, .sec, .trans, .tag, .free] x (k.body a r o x) := by
  unfold pwrCmd at h
  split at h <;> cases h
  · dsimp only; with_reducible exact (bodyPwrStatus_frame ..).mono
  · dsimp only; with_reducible exact (bodyPwrOn_frame ..).mono
  · dsimp only; with_reducible exact (bodyPwrOff_frame ..).mono
  · dsimp only; with_reducible exact (bodyPwrTamp_frame ..).mono
  · dsimp only; with_reducible exact (bodyPwrRetain_frame ..).mono
  · dsimp only; with_reducible exact (bodyPwrWakeCfg_frame ..).mono
  · dsimp only; with_reducible exact (bodyPwrBaseReset_frame ..).mono

theorem clkCmd_frame {v : Nat} {k : Cmd} (h : clkCmd v = some k) (a : List Nat) (r : List Byte) (o : Origin) (x : State) :
    AnsFrame [.ext, .start, .align, .clk, .pwr, .thm, .load, .ctx, .fab, .mem, .noc, .dram, .prt, .lnk, .dsp, .pins, .mbx, .chans, .barista, .evt, .sec, .trans, .tag, .free] x (k.body a r o x) := by
  unfold clkCmd at h
  split at h <;> cases h
  · dsimp only; with_reducible exact (bodyClkStatus_frame ..).mono
  · dsimp only; with_reducible exact (bodyClkFabric_frame ..).mono
  · dsimp only; with_reducible exact (bodyClkAux_frame ..).mono

theorem thmCmd_frame {v : Nat} {k : Cmd} (h : thmCmd v = some k) (a : List Nat) (r : List Byte) (o : Origin) (x : State) :
    AnsFrame [.ext, .start, .align, .clk, .pwr, .thm, .load, .ctx, .fab, .mem, .noc, .dram, .prt, .lnk, .dsp, .pins, .mbx, .chans, .barista, .evt, .sec, .trans, .tag, .free] x (k.body a r o x) := by
  unfold thmCmd at h
  split at h <;> cases h
  · dsimp only; with_reducible exact (bodyThmStatus_frame ..).mono
  · dsimp only; with_reducible exact (bodyThmSensors_frame ..).mono
  · dsimp only; with_reducible exact (bodyThmLimits_frame ..).mono

theorem drmCmd_frame {v : Nat} {k : Cmd} (h : drmCmd v = some k) (a : List Nat) (r : List Byte) (o : Origin) (x : State) :
    AnsFrame [.ext, .start, .align, .clk, .pwr, .thm, .load, .ctx, .fab, .mem, .noc, .dram, .prt, .lnk, .dsp, .pins, .mbx, .chans, .barista, .evt, .sec, .trans, .tag, .free] x (k.body a r o x) := by
  unfold drmCmd at h
  split at h <;> cases h
  · dsimp only; with_reducible exact (bodyDrmStatus_frame ..).mono
  · dsimp only; with_reducible exact (bodyDrmSetpoint_frame ..).mono
  · dsimp only; with_reducible exact (bodyDrmSetpointCfg_frame ..).mono
  · dsimp only; with_reducible exact (bodyDrmQos_frame ..).mono
  · dsimp only; with_reducible exact (bodyDrmNrr_frame ..).mono
  · dsimp only; with_reducible exact (bodyDrmPpr_frame ..).mono
  · dsimp only; with_reducible exact (bodyDrmPprAuto_frame ..).mono
  · dsimp only; with_reducible exact (bodyDrmExclude_frame ..).mono
  · dsimp only; with_reducible exact (bodyDrmInclude_frame ..).mono
  · dsimp only; with_reducible exact (bodyDrmTrainExport_frame ..).mono
  · dsimp only; with_reducible exact (bodyDrmTrainImport_frame ..).mono
  · dsimp only; with_reducible exact (bodyDrmDmaStop_frame ..).mono
  · dsimp only; with_reducible exact (bodyDrmErrlog_frame ..).mono

theorem prtCmd_frame {v : Nat} {k : Cmd} (h : prtCmd v = some k) (a : List Nat) (r : List Byte) (o : Origin) (x : State) :
    AnsFrame [.ext, .start, .align, .clk, .pwr, .thm, .load, .ctx, .fab, .mem, .noc, .dram, .prt, .lnk, .dsp, .pins, .mbx, .chans, .barista, .evt, .sec, .trans, .tag, .free] x (k.body a r o x) := by
  unfold prtCmd at h
  split at h <;> cases h
  · dsimp only; with_reducible exact (bodyPrtStatus_frame ..).mono
  · dsimp only; with_reducible exact (bodyPrtCapacity_frame ..).mono
  · dsimp only; with_reducible exact (bodyPrtIrSet_frame ..).mono
  · dsimp only; with_reducible exact (bodyPrtReinit_frame ..).mono
  · dsimp only; with_reducible exact (bodyPrtRangeSet_frame ..).mono
  · dsimp only; with_reducible exact (bodyPrtPriv_frame ..).mono

theorem lnkCmd_frame {v : Nat} {k : Cmd} (h : lnkCmd v = some k) (a : List Nat) (r : List Byte) (o : Origin) (x : State) :
    AnsFrame [.ext, .start, .align, .clk, .pwr, .thm, .load, .ctx, .fab, .mem, .noc, .dram, .prt, .lnk, .dsp, .pins, .mbx, .chans, .barista, .evt, .sec, .trans, .tag, .free] x (k.body a r o x) := by
  unfold lnkCmd at h
  split at h <;> cases h
  · dsimp only; with_reducible exact (bodyLnkStatus_frame ..).mono
  · dsimp only; with_reducible exact (bodyLnkUp_frame ..).mono
  · dsimp only; with_reducible exact (bodyLnkDown_frame ..).mono
  · dsimp only; with_reducible exact (bodyLnkRole_frame ..).mono
  · dsimp only; with_reducible exact (bodyLnkRouteSet_frame ..).mono
  · dsimp only; with_reducible exact (bodyLnkRouteGet_frame ..).mono
  · dsimp only; with_reducible exact (bodyLnkCwinSet_frame ..).mono
  · dsimp only; with_reducible exact (bodyLnkReset_frame ..).mono
  · dsimp only; with_reducible exact (bodyLnkWiden_frame ..).mono
  · dsimp only; with_reducible exact (bodyLnkTest_frame ..).mono
  · dsimp only; with_reducible exact (bodyLnkTestResult_frame ..).mono
  · dsimp only; with_reducible exact (bodyLnkTime_frame ..).mono
  · dsimp only; with_reducible exact (bodyLnkTimeTrim_frame ..).mono
  · dsimp only; with_reducible exact (bodyLnkSlots_frame ..).mono
  · dsimp only; with_reducible exact (bodyLnkFecInject_frame ..).mono
  · dsimp only; with_reducible exact (bodyLnkLaneLimit_frame ..).mono

theorem pinCmd_frame {v : Nat} {k : Cmd} (h : pinCmd v = some k) (a : List Nat) (r : List Byte) (o : Origin) (x : State) :
    AnsFrame [.ext, .start, .align, .clk, .pwr, .thm, .load, .ctx, .fab, .mem, .noc, .dram, .prt, .lnk, .dsp, .pins, .mbx, .chans, .barista, .evt, .sec, .trans, .tag, .free] x (k.body a r o x) := by
  unfold pinCmd at h
  split at h <;> cases h
  · dsimp only; with_reducible exact (bodyPinConfig_frame ..).mono
  · dsimp only; with_reducible exact (bodyPinStatus_frame ..).mono
  · dsimp only; with_reducible exact (bodyPinClear_frame ..).mono
  · dsimp only; with_reducible exact (bodyPinProbe_frame ..).mono
  · dsimp only; with_reducible exact (bodyPinPolarity_frame ..).mono
  · dsimp only; with_reducible exact (bodyPinBank_frame ..).mono

theorem dspCmd_frame {v : Nat} {k : Cmd} (h : dspCmd v = some k) (a : List Nat) (r : List Byte) (o : Origin) (x : State) :
    AnsFrame [.ext, .start, .align, .clk, .pwr, .thm, .load, .ctx, .fab, .mem, .noc, .dram, .prt, .lnk, .dsp, .pins, .mbx, .chans, .barista, .evt, .sec, .trans, .tag, .free] x (k.body a r o x) := by
  unfold dspCmd at h
  split at h <;> cases h
  · dsimp only; with_reducible exact (bodyDspStatus_frame ..).mono
  · dsimp only; with_reducible exact (bodyDspConfig_frame ..).mono
  · dsimp only; with_reducible exact (bodyDspEngineSet_frame ..).mono
  · dsimp only; with_reducible exact (bodyDspGroupSet_frame ..).mono
  · dsimp only; with_reducible exact (bodyDspSourceSet_frame ..).mono
  · dsimp only; with_reducible exact (bodyDspFlowSet_frame ..).mono
  · dsimp only; with_reducible exact (bodyDspFlowGet_frame ..).mono
  · dsimp only; with_reducible exact (bodyDspFlowRelease_frame ..).mono
  · dsimp only; with_reducible exact (bodyDspFlowClear_frame ..).mono
  · dsimp only; with_reducible exact (bodyDspFlush_frame ..).mono

theorem nocCmd_frame {v : Nat} {k : Cmd} (h : nocCmd v = some k) (a : List Nat) (r : List Byte) (o : Origin) (x : State) :
    AnsFrame [.ext, .start, .align, .clk, .pwr, .thm, .load, .ctx, .fab, .mem, .noc, .dram, .prt, .lnk, .dsp, .pins, .mbx, .chans, .barista, .evt, .sec, .trans, .tag, .free] x (k.body a r o x) := by
  unfold nocCmd at h
  split at h <;> cases h
  · dsimp only; with_reducible exact (bodyNocStatus_frame ..).mono
  · dsimp only; with_reducible exact (bodyNocTimeout_frame ..).mono
  · dsimp only; with_reducible exact (bodyNocRouterCfg_frame ..).mono
  · dsimp only; with_reducible exact (bodyNocCounters_frame ..).mono

theorem tstCmd_frame {v : Nat} {k : Cmd} (h : tstCmd v = some k) (a : List Nat) (r : List Byte) (o : Origin) (x : State) :
    AnsFrame [.ext, .start, .align, .clk, .pwr, .thm, .load, .ctx, .fab, .mem, .noc, .dram, .prt, .lnk, .dsp, .pins, .mbx, .chans, .barista, .evt, .sec, .trans, .tag, .free] x (k.body a r o x) := by
  unfold tstCmd at h
  split at h <;> cases h
  · dsimp only; with_reducible exact (bodyTstStatus_frame ..).mono
  · dsimp only; with_reducible exact (bodyTstRegion_frame ..).mono
  · dsimp only; with_reducible exact (bodyTstMemory_frame ..).mono
  · dsimp only; with_reducible exact (bodyTstAnalog_frame ..).mono

theorem rprCmd_frame {v : Nat} {k : Cmd} (h : rprCmd v = some k) (a : List Nat) (r : List Byte) (o : Origin) (x : State) :
    AnsFrame [.ext, .start, .align, .clk, .pwr, .thm, .load, .ctx, .fab, .mem, .noc, .dram, .prt, .lnk, .dsp, .pins, .mbx, .chans, .barista, .evt, .sec, .trans, .tag, .free] x (k.body a r o x) := by
  unfold rprCmd at h
  split at h <;> cases h
  · dsimp only; with_reducible exact (bodyRprStatus_frame ..).mono
  · dsimp only; with_reducible exact (bodyRprMap_frame ..).mono
  · dsimp only; with_reducible exact (bodyRprSkip_frame ..).mono
  · dsimp only; with_reducible exact (bodyRprRetire_frame ..).mono
  · dsimp only; with_reducible exact (bodyRprRecord_frame ..).mono

theorem secCmd_frame {v : Nat} {k : Cmd} (h : secCmd v = some k) (a : List Nat) (r : List Byte) (o : Origin) (x : State) :
    AnsFrame [.ext, .start, .align, .clk, .pwr, .thm, .load, .ctx, .fab, .mem, .noc, .dram, .prt, .lnk, .dsp, .pins, .mbx, .chans, .barista, .evt, .sec, .trans, .tag, .free] x (k.body a r o x) := by
  unfold secCmd at h
  split at h <;> cases h
  · dsimp only; with_reducible exact (bodySecStatus_frame ..).mono
  · dsimp only; with_reducible exact (bodySecCert_frame ..).mono
  · dsimp only; with_reducible exact (bodySecKeySet_frame ..).mono
  · dsimp only; with_reducible exact (bodySecOwner_frame ..).mono
  · dsimp only; with_reducible exact (bodySecLifecycle_frame ..).mono
  · dsimp only; with_reducible exact (bodySecZeroise_frame ..).mono

theorem tagCmd_frame {v : Nat} {k : Cmd} (h : tagCmd v = some k) (a : List Nat) (r : List Byte) (o : Origin) (x : State) :
    AnsFrame [.ext, .start, .align, .clk, .pwr, .thm, .load, .ctx, .fab, .mem, .noc, .dram, .prt, .lnk, .dsp, .pins, .mbx, .chans, .barista, .evt, .sec, .trans, .tag, .free] x (k.body a r o x) := by
  unfold tagCmd at h
  split at h <;> cases h
  · dsimp only; with_reducible exact (bodyTagRead_frame ..).mono
  · dsimp only; with_reducible exact (bodyTagWrite_frame ..).mono
  · dsimp only; with_reducible exact (bodyTagLock_frame ..).mono
  · dsimp only; with_reducible exact (bodyTagIdentity_frame ..).mono

theorem logCmd_frame {v : Nat} {k : Cmd} (h : logCmd v = some k) (a : List Nat) (r : List Byte) (o : Origin) (x : State) :
    AnsFrame [.ext, .start, .align, .clk, .pwr, .thm, .load, .ctx, .fab, .mem, .noc, .dram, .prt, .lnk, .dsp, .pins, .mbx, .chans, .barista, .evt, .sec, .trans, .tag, .free] x (k.body a r o x) := by
  unfold logCmd at h
  split at h <;> cases h
  · dsimp only; with_reducible exact (bodyLogEvents_frame ..).mono
  · dsimp only; with_reducible exact (bodyLogAlertAck_frame ..).mono
  · dsimp only; with_reducible exact (bodyLogAlertLevel_frame ..).mono
  · dsimp only; with_reducible exact (bodyLogEventRoute_frame ..).mono
  · dsimp only; with_reducible exact (bodyLogCounters_frame ..).mono
  · dsimp only; with_reducible exact (bodyLogMemConflict_frame ..).mono

theorem cmdOf_frame {code : Nat} {k : Cmd} (h : cmdOf code = some k) (a : List Nat) (r : List Byte) (o : Origin) (x : State) :
    AnsFrame [.ext, .start, .align, .clk, .pwr, .thm, .load, .ctx, .fab, .mem, .noc, .dram, .prt, .lnk, .dsp, .pins, .mbx, .chans, .barista, .evt, .sec, .trans, .tag, .free] x (k.body a r o x) := by
  unfold cmdOf at h
  dsimp only at h
  split at h
  · exact sysCmd_frame h ..
  · exact cfgCmd_frame h ..
  · exact ctxCmd_frame h ..
  · exact pwrCmd_frame h ..
  · exact clkCmd_frame h ..
  · exact thmCmd_frame h ..
  · exact drmCmd_frame h ..
  · exact prtCmd_frame h ..
  · exact lnkCmd_frame h ..
  · exact pinCmd_frame h ..
  · exact dspCmd_frame h ..
  · exact nocCmd_frame h ..
  · exact tstCmd_frame h ..
  · exact rprCmd_frame h ..
  · exact secCmd_frame h ..
  · exact tagCmd_frame h ..
  · exact logCmd_frame h ..
  · cases h

theorem bodyOf_frame {code : Nat} {k : Cmd} (h : cmdOf code = some k) (d : List Byte) (o : Origin) (x : State) :
    AnsFrame [.ext, .start, .align, .clk, .pwr, .thm, .load, .ctx, .fab, .mem, .noc, .dram, .prt, .lnk, .dsp, .pins, .mbx, .chans, .barista, .evt, .sec, .trans, .tag, .free] x (bodyOf k d o x) := by
  unfold bodyOf
  rcases unpackArgs k.widths k.record d with _ | ⟨a, r⟩
  · exact AnsFrame.refuse _ _ _
  · exact cmdOf_frame h ..

theorem forwardReq_frame (q : Request) (s : State) : Frame [.lnk, .mbx, .chans, .evt, .sec] s (forwardReq q s) := by
  unfold forwardReq
  dsimp only [setMbx_eq]
  repeat' first | with_reducible apply Frame.refl | exact rfl | with_reducible apply Frame.after (setMbx_frame ..) | split | with_reducible apply Frame.after (answer_frame ..) | with_reducible apply Frame.after (sendMgmt_frame ..)

theorem answerPart_frame (q : Request) (n : Nat) (s : State) : Frame [.lnk, .mbx, .chans, .evt] s (answerPart q n s) := by
  unfold answerPart
  repeat' first | with_reducible apply Frame.refl | exact rfl | with_reducible apply Frame.after (deliver_frame ..)

theorem answerRest_frame (q : Request) (r : PartRsp) (s : State) : Frame [.lnk, .mbx, .chans, .evt] s (answerRest q r s) := by
  unfold answerRest
  dsimp only
  repeat' first | with_reducible apply Frame.refl | exact rfl | split | with_reducible apply Frame.after (deliver_frame ..) | with_reducible apply Frame.after (updChan_frame ..) | intro _

theorem performLocal_frame (q : Request) (p : PartReq) (s : State) : Frame [.ext, .start, .align, .clk, .pwr, .thm, .load, .ctx, .fab, .mem, .noc, .dram, .prt, .lnk, .dsp, .pins, .mbx, .chans, .barista, .evt, .sec, .trans, .tag, .free] s (performLocal q p s) := by
  unfold performLocal
  split
  · exact (answer_frame ..).after (Frame.refl _ _)
  · split
    · exact (answerPart_frame ..).after ((updChan_frame ..).after (Frame.refl _ _))
    · split
      · exact (answer_frame ..).after (Frame.refl _ _)
      · rename_i h
        exact perform_frame (fun o x => bodyOf_frame h ..) q (Frame.refl _ _)

theorem performReq_frame (q : Request) (form : Bool) (s : State) : Frame [.ext, .start, .align, .clk, .pwr, .thm, .load, .ctx, .fab, .mem, .noc, .dram, .prt, .lnk, .dsp, .pins, .mbx, .chans, .barista, .evt, .sec, .trans, .tag, .free] s (performReq q form s) := by
  unfold performReq
  dsimp only
  repeat' first | with_reducible apply Frame.refl | exact rfl | split | with_reducible apply Frame.after (answer_frame ..) | with_reducible apply Frame.after (answerRest_frame ..) | with_reducible apply Frame.after (forwardReq_frame ..) | with_reducible apply Frame.after (performLocal_frame ..) | with_reducible apply Frame.after (updChan_frame ..)

theorem execBaristaExecute_frame (s : State) : NextFrame [.ext, .start, .align, .clk, .pwr, .thm, .load, .ctx, .fab, .mem, .noc, .dram, .prt, .lnk, .dsp, .pins, .mbx, .chans, .barista, .evt, .sec, .trans, .tag, .free] s (execBaristaExecute s) := by
  unfold execBaristaExecute
  split
  · split
    · exact NextFrame.mk (Frame.refl _ _)
    · split
      · rename_i h
        exact NextFrame.mk ((performReq_frame ..).after ((dropOrder_frame ..).after ((takeReq_frame h).after (Frame.refl _ _))))
      · exact NextFrame.mk ((dropOrder_frame ..).after (Frame.refl _ _))
  · exact NextFrame.mk (Frame.refl _ _)




end Sys2Proof.Machine
end

