-- ==== Sys2Proof/Laws/Mailbox.lean ====
section
/-! SUPPORT. A mailbox command on a ready channel: its request is taken at once, its body runs, and its answer stands in the channel's response registers. -/

set_option Elab.async false

namespace Sys2Proof.Machine

theorem natLE_bytesLE (n v : Nat) : natLE (bytesLE n v) = v % 256 ^ n := by
  induction n generalizing v with
  | zero => simp [bytesLE, natLE, Nat.mod_one]
  | succ n ih =>
    have h : v % 256 ^ (n + 1) = v % 256 + 256 * (v / 256 % 256 ^ n) := by
      rw [Nat.pow_succ, Nat.mul_comm, Nat.mod_mul]
    simp [bytesLE, natLE, ih, h]

theorem extract_ofNat (n w k N : Nat) (hk : k + n ≤ w) :
    ((BitVec.ofNat w N).extractLsb' k n).toNat = N / 2 ^ k % 2 ^ n := by
  have hd : 2 ^ w = 2 ^ k * (2 ^ n * 2 ^ (w - k - n)) := by rw [← Nat.pow_add, ← Nat.pow_add]; congr 1; omega
  simp only [BitVec.extractLsb'_toNat, BitVec.toNat_ofNat, Nat.shiftRight_eq_div_pow]
  rw [hd, Nat.mod_mul_right_div_self, Nat.mod_mul_right_mod]

theorem foldl_fields (l : List (Nat × Nat)) (a : Nat) :
    l.foldl (fun a f => a + f.2 * 2 ^ f.1) a = a + fieldsWord l := by
  induction l generalizing a with
  | nil => rfl
  | cons x l ih =>
    have h : fieldsWord (x :: l) = 0 + x.2 * 2 ^ x.1 + fieldsWord l := by
      rw [fieldsWord, List.foldl_cons, ih]
    rw [List.foldl_cons, ih, h, Nat.zero_add, Nat.add_assoc]

theorem fieldsWord_nil : fieldsWord [] = 0 := rfl

theorem fieldsWord_cons (o v : Nat) (l : List (Nat × Nat)) : fieldsWord ((o, v) :: l) = v * 2 ^ o + fieldsWord l := by
  rw [fieldsWord, List.foldl_cons, foldl_fields, Nat.zero_add]

theorem header_sum (a b c d e : Nat) :
    a * 2 ^ 0 + (b * 2 ^ 16 + (c * 2 ^ 32 + (d * 2 ^ 48 + (e * 2 ^ 64 + 0)))) =
      a + 2 ^ 16 * (b + 2 ^ 16 * (c + 2 ^ 16 * (d + 2 ^ 16 * e))) := by omega

theorem reqHeader_eq (cmd seq : BitVec 16) (len flags : Nat) (target : W64) :
    ∃ m, reqHeader cmd seq len flags target = BitVec.ofNat 128 (cmd.toNat + 2 ^ 16 * (seq.toNat + 2 ^ 16 * m)) :=
  ⟨_, by
    rw [reqHeader, fieldsWord_cons, fieldsWord_cons, fieldsWord_cons, fieldsWord_cons, fieldsWord_cons, fieldsWord_nil,
      header_sum]⟩

theorem reqHeader_cmd (cmd seq : BitVec 16) (len flags : Nat) (target : W64) :
    (reqHeader cmd seq len flags target).extractLsb' 0 16 = cmd := by
  obtain ⟨m, h⟩ := reqHeader_eq cmd seq len flags target
  apply BitVec.eq_of_toNat_eq
  rw [h, extract_ofNat _ _ _ _ (by decide), Nat.pow_zero, Nat.div_one, Nat.add_mul_mod_self_left, Nat.mod_eq_of_lt cmd.isLt]

theorem reqHeader_seq (cmd seq : BitVec 16) (len flags : Nat) (target : W64) :
    (reqHeader cmd seq len flags target).extractLsb' 16 16 = seq := by
  obtain ⟨m, h⟩ := reqHeader_eq cmd seq len flags target
  apply BitVec.eq_of_toNat_eq
  rw [h, extract_ofNat _ _ _ _ (by decide), Nat.add_mul_div_left _ _ (by decide), Nat.div_eq_of_lt cmd.isLt, Nat.zero_add,
    Nat.add_mul_mod_self_left, Nat.mod_eq_of_lt seq.isLt]

/-- The state with other mailbox channels. -/
def withChans (X : Tab Chan) (s : State) : State := { s with mbx := { s.mbx with chans := X } }

@[simp] theorem chanOf_updChan_same (c : Nat) (f : Chan → Chan) (s : State) : chanOf (updChan c f s) c = f (chanOf s c) :=
  Tab.get_upd_same ..

theorem updChan_withChans (c : Nat) (f : Chan → Chan) (s : State) :
    updChan c f s = withChans (Tab.upd {} s.mbx.chans c f) s := rfl

/-- What a ready channel gives. -/
theorem ready_facts {s : State} {r : Req} {cmd : Nat} (h : ready s r cmd = true) :
    isRegChan r.channel.val = true ∧ chanReach s r.channel.val = true ∧ (chanOf s r.channel.val).st ≠ .busy ∧
      (chanOf s r.channel.val).enable = true ∧
      (s.mbx.barista = .serving ∨ s.mbx.barista = .rom ∧ romServes cmd = true) ∧ s.mbx.order = [] ∧
      canExecute s r.channel.val = true ∧ s.mbx.pend.length < 64 ∧
      (lifeLimits s r.channel.val = false ∨ lifeAllowed cmd = true) ∧ maskAllows s r.channel.val cmd = true := by
  unfold ready at h
  simp only [Bool.and_eq_true, bne_iff_ne, ne_eq, beq_iff_eq, decide_eq_true_eq, List.isEmpty_iff, Bool.or_eq_true,
    Bool.not_eq_true'] at h
  obtain ⟨⟨⟨⟨⟨⟨⟨⟨⟨h1, h2⟩, h3⟩, h4⟩, h5⟩, h6⟩, h7⟩, h8⟩, h9⟩, h10⟩ := h
  exact ⟨h1, h2, h3, h4, h5, h6, h7, h8, h9, h10⟩

/-- The channels of a state on which request r has been posted. -/
def posted (r : Req) (cmd : Nat) (args : List Byte) (s : State) : Tab Chan :=
  Tab.upd {} (Tab.upd {} s.mbx.chans r.channel.val (Chan.written r cmd args)) r.channel.val Chan.rung

/-- A channel with other request registers. -/
def Chan.withReq (h : BitVec 128) (b : Tab Byte) (p : Option PartReq) (ch : Chan) : Chan :=
  { ch with reqHdr := h, reqBuf := b, parts := p }

theorem withReq_keeps (h : BitVec 128) (b : Tab Byte) (p : Option PartReq) (ch : Chan) :
    (ch.withReq h b p).st = ch.st ∧ (ch.withReq h b p).enable = ch.enable ∧ (ch.withReq h b p).reqHdr = h :=
  ⟨rfl, rfl, rfl⟩

theorem written_eq (r : Req) (cmd : Nat) (args : List Byte) (ch : Chan) :
    ∃ len b p, Chan.written r cmd args ch = ch.withReq (reqHeader (BitVec.ofNat 16 cmd) r.seq len 0 0) b p :=
  ⟨_, _, _, rfl⟩

theorem written_st (r : Req) (cmd : Nat) (args : List Byte) (ch : Chan) : (Chan.written r cmd args ch).st = ch.st := by
  obtain ⟨len, b, p, h⟩ := written_eq r cmd args ch
  rw [h, (withReq_keeps ..).1]

theorem written_enable (r : Req) (cmd : Nat) (args : List Byte) (ch : Chan) :
    (Chan.written r cmd args ch).enable = ch.enable := by
  obtain ⟨len, b, p, h⟩ := written_eq r cmd args ch
  rw [h, (withReq_keeps ..).2.1]

theorem updChan_barista (c : Nat) (f : Chan → Chan) (s : State) : (updChan c f s).mbx.barista = s.mbx.barista := rfl

theorem posted_eq (r : Req) (cmd : Nat) (args : List Byte) (s : State) :
    updChan r.channel.val Chan.rung (updChan r.channel.val (Chan.written r cmd args) s) =
      withChans (posted r cmd args s) s := by
  unfold updChan withChans posted
  rfl

/-- A doorbell on an idle, enabled channel of a serving Barista posts the request. -/
theorem ringChan_posts {c : Nat} {s : State} (hb : s.mbx.barista = .serving ∨ s.mbx.barista = .rom) (hs : (chanOf s c).st ≠ .busy)
    (he : (chanOf s c).enable = true) : ringChan c s = pushOrder c (updChan c Chan.rung s) := by
  unfold ringChan
  dsimp only
  rw [if_neg (by rcases hb with hb | hb <;> rw [hb] <;> decide), if_neg hs, if_neg (by rw [he]; decide),
    if_neg (by rcases hb with hb | hb <;> rw [hb] <;> decide)]

/-- On a ready channel the host's writes and its doorbell leave the request BUSY and first in the order. -/
theorem postCmd_ready {s : State} {r : Req} {cmd : Nat} (h : ready s r cmd = true) (args : List Byte) :
    postCmd r cmd args s = pushOrder r.channel.val (withChans (posted r cmd args s) s) := by
  obtain ⟨hreg, hreach, hbusy, hen, hb, ho, -⟩ := ready_facts h
  unfold postCmd
  dsimp only
  rw [if_neg (by rw [hreach]; decide), if_pos hreg, if_neg hbusy,
    ringChan_posts (by rw [updChan_barista]; exact hb.imp_right And.left) (by rw [chanOf_updChan_same, written_st]; exact hbusy)
      (by rw [chanOf_updChan_same, written_enable, hen]), posted_eq]

/-- The state in which a request on a ready channel is performed: the channel is BUSY with it. -/
def taken (r : Req) (cmd : Nat) (args : List Byte) (s : State) : State :=
  withChans (Tab.upd {} (posted r cmd args s) r.channel.val Chan.noParts) s

/-- The request as Barista takes it from a register channel. -/
def takenReq (r : Req) (cmd : Nat) (args : List Byte) (s : State) : Request :=
  regRequest (pushOrder r.channel.val (withChans (posted r cmd args s) s)) r.channel.val

theorem get_posted (r : Req) (cmd : Nat) (args : List Byte) (s : State) :
    Tab.get {} (posted r cmd args s) r.channel.val =
      Chan.rung (Chan.written r cmd args (chanOf s r.channel.val)) := by
  unfold posted
  rw [Tab.get_upd_same, Tab.get_upd_same]
  rfl

theorem taken_busy (r : Req) (cmd : Nat) (args : List Byte) (s : State) :
    (chanOf (taken r cmd args s) r.channel.val).st = .busy := by
  show (Tab.get {} (Tab.upd {} (posted r cmd args s) r.channel.val Chan.noParts) r.channel.val).st = _
  rw [Tab.get_upd_same, get_posted]
  rfl

theorem takenReq_hdr (r : Req) (cmd : Nat) (args : List Byte) (s : State) :
    ∃ len, (takenReq r cmd args s).cmd = (reqHeader (BitVec.ofNat 16 cmd) r.seq len 0 0).extractLsb' 0 16 ∧
      (takenReq r cmd args s).seq = (reqHeader (BitVec.ofNat 16 cmd) r.seq len 0 0).extractLsb' 16 16 := by
  refine ⟨args.length - earlierParts args.length, ?_, ?_⟩
  · show (Tab.get {} (posted r cmd args s) r.channel.val).reqHdr.extractLsb' 0 16 = _
    rw [get_posted]
    rfl
  · show (Tab.get {} (posted r cmd args s) r.channel.val).reqHdr.extractLsb' 16 16 = _
    rw [get_posted]
    rfl

theorem takenReq_cmd (r : Req) (cmd : Nat) (args : List Byte) (s : State) :
    (takenReq r cmd args s).cmd = BitVec.ofNat 16 cmd := by
  obtain ⟨len, h, -⟩ := takenReq_hdr r cmd args s
  rw [h, reqHeader_cmd]

theorem takenReq_seq (r : Req) (cmd : Nat) (args : List Byte) (s : State) : (takenReq r cmd args s).seq = r.seq := by
  obtain ⟨len, -, h⟩ := takenReq_hdr r cmd args s
  rw [h, reqHeader_seq]

theorem takenReq_channel (r : Req) (cmd : Nat) (args : List Byte) (s : State) :
    (takenReq r cmd args s).channel = r.channel.val := rfl

theorem takenReq_via (r : Req) (cmd : Nat) (args : List Byte) (s : State) : (takenReq r cmd args s).via = none := rfl

theorem takenReq_origin (r : Req) (cmd : Nat) (args : List Byte) (s : State) :
    (takenReq r cmd args s).origin = originOf r cmd := by
  unfold Request.origin originOf
  rw [takenReq_cmd, takenReq_seq, takenReq_channel, takenReq_via]

/-- On a ready channel the request is taken at once: the body runs on the state before, but for the mailbox channels. -/
theorem serve_ready {s : State} {r : Req} {cmd : Nat} (h : ready s r cmd = true) (args : List Byte)
    (body : Origin → State → Ans) :
    serve r cmd args body s = perform (takenReq r cmd args s) body (taken r cmd args s) := by
  obtain ⟨hreg, hreach, hbusy, hen, hb, ho, hx, hp, hl, hm⟩ := ready_facts h
  have hf : isFabChan r.channel.val = false := by
    unfold isRegChan at hreg
    unfold isFabChan
    simp only [Bool.or_eq_true, decide_eq_true_eq, beq_iff_eq] at hreg
    simp only [Bool.and_eq_false_iff, decide_eq_false_iff_not]
    omega
  have hx' : canExecute (pushOrder r.channel.val (withChans (posted r cmd args s) s)) r.channel.val = true := by
    unfold canExecute at hx ⊢
    rw [hf] at hx ⊢
    exact hx
  unfold serve
  dsimp only
  rw [postCmd_ready h, if_pos ⟨ho, by simp [pushOrder, withChans, ho], hx'⟩]
  unfold takeReq
  rw [if_pos hreg]
  dsimp only
  refine congrArg (perform _ body) ?_
  unfold dropOrder pushOrder taken updChan withChans
  simp [ho]

theorem taken_policy {s : State} {r : Req} {cmd : Nat} (h : ready s r cmd = true) (hc : cmd < 65536) (args : List Byte) :
    policy (taken r cmd args s) (takenReq r cmd args s) = none := by
  obtain ⟨hreg, hreach, hbusy, hen, hb, ho, hx, hp, hl, hm⟩ := ready_facts h
  have hcmd : (BitVec.ofNat 16 cmd).toNat = cmd := by
    rw [BitVec.toNat_ofNat, Nat.mod_eq_of_lt hc]
  unfold policy
  rw [takenReq_cmd, takenReq_channel, hcmd]
  have hl' : ¬(lifeLimits (taken r cmd args s) r.channel.val = true ∧ lifeAllowed cmd = false) := by
    rintro ⟨a, b⟩
    rcases hl with c | c
    · have a' : lifeLimits s r.channel.val = true := a
      rw [c] at a'; cases a'
    · rw [b] at c; cases c
  rw [if_neg hl', if_neg (show ¬(maskAllows (taken r cmd args s) r.channel.val cmd = false) by
    have hm' : maskAllows (taken r cmd args s) r.channel.val cmd = true := hm
    rw [hm']; decide), if_neg]
  rintro ⟨a, b⟩
  have a' : s.mbx.barista = .rom := a
  rcases hb with c | ⟨-, c⟩
  · rw [c] at a'; cases a'
  · rw [b] at c; cases c

/-- A command that does not stay open: its body's state is answered with its status and its data. -/
theorem serve_done {s : State} {r : Req} {cmd : Nat} (h : ready s r cmd = true) (hc : cmd < 65536) (args : List Byte)
    (body : Origin → State → Ans) (hs : (body (originOf r cmd) (taken r cmd args s)).status ≠ .pending)
    (hw : (body (originOf r cmd) (taken r cmd args s)).wait = false) :
    serve r cmd args body s = (body (originOf r cmd) (taken r cmd args s)).after
      (answer (takenReq r cmd args s) (body (originOf r cmd) (taken r cmd args s)).status
        (body (originOf r cmd) (taken r cmd args s)).data (body (originOf r cmd) (taken r cmd args s)).state) := by
  rw [serve_ready h]
  unfold perform
  rw [taken_policy h hc]
  dsimp only
  rw [takenReq_origin, if_neg hs, if_neg (by rw [hw]; decide)]

/-- A command that stays open: it is answered ST_PENDING and its pending record is the last one. -/
theorem serve_pending {s : State} {r : Req} {cmd : Nat} (h : ready s r cmd = true) (hc : cmd < 65536) (args : List Byte)
    (body : Origin → State → Ans) (hs : (body (originOf r cmd) (taken r cmd args s)).status = .pending)
    (hw : (body (originOf r cmd) (taken r cmd args s)).wait = false) :
    serve r cmd args body s = (body (originOf r cmd) (taken r cmd args s)).after
      (answer (takenReq r cmd args s) .pending (body (originOf r cmd) (taken r cmd args s)).data
        { (body (originOf r cmd) (taken r cmd args s)).state with
          mbx := { (body (originOf r cmd) (taken r cmd args s)).state.mbx with
            pend := (body (originOf r cmd) (taken r cmd args s)).state.mbx.pend ++
              [{ org := originOf r cmd, units := (body (originOf r cmd) (taken r cmd args s)).units,
                 remote := false, handle := 0 }] } }) := by
  obtain ⟨-, -, -, -, -, -, -, hp, -⟩ := ready_facts h
  rw [serve_ready h]
  unfold perform
  rw [taken_policy h hc]
  dsimp only
  rw [takenReq_origin, if_pos hs, if_neg (show ¬(64 ≤ (taken r cmd args s).mbx.pend.length) by
    show ¬(64 ≤ s.mbx.pend.length)
    omega), if_neg (by rw [hw]; decide)]

theorem raiseRsp_chans (c : Nat) (s : State) : (raiseRsp c s).mbx = s.mbx := by
  unfold raiseRsp
  split <;> rfl

theorem raiseRsp_lnk (c : Nat) (s : State) : (raiseRsp c s).lnk = s.lnk := by
  unfold raiseRsp
  split <;> rfl

theorem raiseMinSvn_mbx (s : State) : (raiseMinSvn s).mbx = s.mbx := by
  unfold raiseMinSvn
  split
  · dsimp only
    split <;> rfl
  · rfl

theorem confirmTrial_chans (s : State) : (confirmTrial s).mbx.chans = s.mbx.chans := by
  unfold confirmTrial
  split
  · split
    · rw [raiseMinSvn_mbx]
    · rfl
  · rfl

/-- What an answer on a register channel changes: the channel, the response interrupt, the trial selection and the
minimum firmware security version. -/
theorem answer_reg_frame (q : Request) (st : Status) (data : List Byte) (s : State) (hq : isRegChan q.channel = true) :
    Frame [.mbx, .chans, .evt, .sec] s (answer q st data s) := by
  have hd : ∀ p : Rsp, Frame [.mbx, .chans, .evt] s (deliver q.channel q.via false p s) := by
    intro p
    unfold deliver deliverRaw
    rw [if_pos hq]
    split
    · exact (raiseRsp_frame ..).after ((updChan_frame ..).after (Frame.refl _ _))
    · exact Frame.refl _ _
  unfold answer answerWith
  dsimp only
  split
  · exact (confirmTrial_frame ..).after ((updChan_frame ..).after ((hd _).after (Frame.refl _ _)))
  · exact (confirmTrial_frame ..).after ((hd _).after (Frame.refl _ _))

/-- An answer on a register channel that is BUSY stands in its response registers. -/
theorem answer_answered {t : State} (r : Req) (cmd : Nat) (args : List Byte) (s : State) (st : Status) (data : List Byte)
    (hreg : isRegChan r.channel.val = true) (hb : (chanOf t r.channel.val).st = .busy) :
    answered (answer (takenReq r cmd args s) st data t) r cmd st data := by
  have hch : ∀ x : State, chanOf (confirmTrial x) r.channel.val = chanOf x r.channel.val := by
    intro x
    unfold chanOf
    rw [confirmTrial_chans]
  have hrr : ∀ (c : Nat) (x : State), chanOf (raiseRsp c x) r.channel.val = chanOf x r.channel.val := by
    intro c x
    unfold chanOf
    rw [raiseRsp_chans]
  unfold answered answer
  dsimp only
  rw [hch]
  unfold answerWith deliver deliverRaw
  dsimp only
  rw [takenReq_channel, takenReq_cmd, takenReq_seq, if_pos hreg, if_pos hb]
  unfold flagMore
  split
  · rw [chanOf_updChan_same, hrr, chanOf_updChan_same]
    exact ⟨rfl, rfl, rfl⟩
  · rw [hrr, chanOf_updChan_same]
    exact ⟨rfl, rfl, rfl⟩

/-- A state with other values in the fields that an answer on a register channel may change. -/
def answerState (s : State) (X : Tab Chan) (f : Option FwRun) (b : Bool) (i : BitVec 8) (m : List Nat)
    (v : BitVec 6) : State :=
  { s with mbx := { s.mbx with chans := X, fw := f, selTrial := b }, evt := { s.evt with irqRsp := i, msix := m },
           sec := { s.sec with minSvn := v } }

theorem raiseRsp_answerState (c : Nat) (s : State) :
    ∀ X g b i m v, ∃ j n, raiseRsp c (answerState s X g b i m v) = answerState s X g b j n v := by
  intro X g b i m v
  unfold raiseRsp
  split
  · dsimp only
    split
    · exact ⟨_, _, rfl⟩
    · exact ⟨_, _, rfl⟩
  · exact ⟨_, _, rfl⟩

theorem raiseMinSvn_answerState (s : State) :
    ∀ X g b i m v, ∃ w, raiseMinSvn (answerState s X g b i m v) = answerState s X g b i m w := by
  intro X g b i m v
  unfold raiseMinSvn
  split
  · dsimp only
    split
    · exact ⟨_, rfl⟩
    · exact ⟨_, rfl⟩
  · exact ⟨_, rfl⟩

theorem confirmTrial_answerState (s : State) :
    ∀ X g b i m v, ∃ f d w, confirmTrial (answerState s X g b i m v) = answerState s X f d i m w := by
  intro X g b i m v
  unfold confirmTrial
  split
  · split
    · rename_i f h1 h2
      obtain ⟨w, h⟩ := raiseMinSvn_answerState s X (some { f with trial := false }) (b && s.mbx.selected != f.slot) i m v
      exact ⟨_, _, w, h⟩
    · exact ⟨_, _, _, rfl⟩
  · exact ⟨_, _, _, rfl⟩

/-- An answer on a register channel changes only those fields, and no other channel. -/
theorem answer_form (q : Request) (st : Status) (data : List Byte) (s : State) (hq : isRegChan q.channel = true) :
    ∃ X f b i m v, answer q st data s = answerState s X f b i m v ∧
      ∀ d, d ≠ q.channel → Tab.get {} X d = Tab.get {} s.mbx.chans d := by
  have hd : ∀ p : Rsp, ∃ X i m, (deliver q.channel q.via false p s =
      answerState s X s.mbx.fw s.mbx.selTrial i m s.sec.minSvn) ∧
      ∀ d, d ≠ q.channel → Tab.get {} X d = Tab.get {} s.mbx.chans d := by
    intro p
    unfold deliver deliverRaw
    rw [if_pos hq]
    split
    · obtain ⟨j, n, h⟩ := raiseRsp_answerState q.channel s (Tab.upd {} s.mbx.chans q.channel (fun ch =>
        { ch with st := .response, rspHdr := BitVec.ofNat 128 (natLE (rspBytes p)), rspBuf := bytesTab p.data }))
        s.mbx.fw s.mbx.selTrial s.evt.irqRsp s.evt.msix s.sec.minSvn
      exact ⟨_, _, _, h, fun d hd => Tab.get_upd_ne _ _ _ hd⟩
    · exact ⟨s.mbx.chans, _, _, rfl, fun _ _ => rfl⟩
  have h1 : ∀ p : Rsp, ∃ X f b i m v,
      confirmTrial (deliver q.channel q.via false p s) = answerState s X f b i m v ∧
        ∀ d, d ≠ q.channel → Tab.get {} X d = Tab.get {} s.mbx.chans d := by
    intro p
    obtain ⟨X, i, m, h, hX⟩ := hd p
    rw [h]
    obtain ⟨f, d, w, h3⟩ := confirmTrial_answerState s X s.mbx.fw s.mbx.selTrial i m s.sec.minSvn
    exact ⟨_, _, _, _, _, _, h3, hX⟩
  have h2 : ∀ (p : Rsp) (g : Chan → Chan), ∃ X f b i m v,
      confirmTrial (updChan q.channel g (deliver q.channel q.via false p s)) = answerState s X f b i m v ∧
        ∀ d, d ≠ q.channel → Tab.get {} X d = Tab.get {} s.mbx.chans d := by
    intro p g
    obtain ⟨X, i, m, h, hX⟩ := hd p
    rw [h]
    obtain ⟨f, d, w, h3⟩ := confirmTrial_answerState s (Tab.upd {} X q.channel g) s.mbx.fw s.mbx.selTrial i m s.sec.minSvn
    exact ⟨_, _, _, _, _, _, h3, fun d hd => by rw [Tab.get_upd_ne _ _ _ hd, hX d hd]⟩
  unfold answer answerWith
  dsimp only
  split
  · exact h2 _ _
  · exact h1 _

theorem taken_other (r : Req) (cmd : Nat) (args : List Byte) (s : State) (d : Nat) (hd : d ≠ r.channel.val) :
    chanOf (taken r cmd args s) d = chanOf s d := by
  show Tab.get {} (Tab.upd {} (posted r cmd args s) r.channel.val Chan.noParts) d = _
  unfold posted
  rw [Tab.get_upd_ne _ _ _ hd, Tab.get_upd_ne _ _ _ hd, Tab.get_upd_ne _ _ _ hd]
  rfl

/-- An answer to the request that a ready channel took, in a state that has kept the other channels. -/
theorem answer_replies {r : Req} {cmd : Nat} {args : List Byte} {s x : State} {st : Status} {data : List Byte}
    (hreg : isRegChan r.channel.val = true) (hb : (chanOf x r.channel.val).st = .busy)
    (ho : ∀ d, d ≠ r.channel.val → chanOf x d = chanOf s d) :
    Replies (.next (answer (takenReq r cmd args s) st data x)) r cmd st data (withChans s.mbx.chans x) := by
  refine ⟨_, rfl, answer_answered r cmd args s st data hreg hb, ?_⟩
  obtain ⟨X, f, b, i, m, v, e, hX⟩ := answer_form (takenReq r cmd args s) st data x hreg
  rw [e]
  refine ⟨?_, rfl⟩
  intro d hd
  have h1 : Tab.get {} X d = Tab.get {} x.mbx.chans d := hX d hd
  show Tab.get {} X d = Tab.get {} s.mbx.chans d
  rw [h1]
  exact ho d hd

/-- A state that keeps the channels on which a request was taken. -/
theorem taken_keeps {r : Req} {cmd : Nat} {args : List Byte} {s x : State}
    (hx : x.mbx.chans = (taken r cmd args s).mbx.chans) :
    (chanOf x r.channel.val).st = .busy ∧ ∀ d, d ≠ r.channel.val → chanOf x d = chanOf s d := by
  have h : ∀ d, chanOf x d = chanOf (taken r cmd args s) d := fun d => by
    unfold chanOf
    rw [hx]
  exact ⟨by rw [h]; exact taken_busy .., fun d hd => by rw [h]; exact taken_other r cmd args s d hd⟩

/-- A command on a ready channel whose body does not stay open completes with its body's status, data and state. -/
theorem serve_replies {s : State} {r : Req} {cmd : Nat} {args : List Byte} {body : Origin → State → Ans} {a : Ans}
    (h : ready s r cmd = true) (ha : body (originOf r cmd) (taken r cmd args s) = a) (hc : cmd < 65536)
    (hs : a.status ≠ .pending) (hw : a.wait = false) (hf : a.after = id)
    (hx : a.state.mbx.chans = (taken r cmd args s).mbx.chans) :
    Replies (.next (serve r cmd args body s)) r cmd a.status a.data (withChans s.mbx.chans a.state) := by
  have e := serve_done h hc args body (by rw [ha]; exact hs) (by rw [ha]; exact hw)
  rw [ha, hf] at e
  rw [e]
  exact answer_replies (ready_facts h).1 (taken_keeps hx).1 (taken_keeps hx).2

/-- A command on a ready channel that stays open answers ST_PENDING and leaves its pending record. -/
theorem serve_pends {s : State} {r : Req} {cmd : Nat} {args : List Byte} {body : Origin → State → Ans} {a : Ans}
    (h : ready s r cmd = true) (ha : body (originOf r cmd) (taken r cmd args s) = a) (hc : cmd < 65536)
    (hs : a.status = .pending) (hw : a.wait = false) (hf : a.after = id)
    (hx : a.state.mbx.chans = (taken r cmd args s).mbx.chans) :
    Replies (.next (serve r cmd args body s)) r cmd .pending a.data
      (withPend r cmd a.units (withChans s.mbx.chans a.state)) := by
  have e := serve_pending h hc args body (by rw [ha]; exact hs) (by rw [ha]; exact hw)
  rw [ha, hf] at e
  rw [e]
  exact answer_replies (x := withPend r cmd a.units a.state) (ready_facts h).1 (taken_keeps hx).1 (taken_keeps hx).2

theorem withChans_taken (r : Req) (cmd : Nat) (args : List Byte) (s : State) :
    withChans s.mbx.chans (taken r cmd args s) = s := by
  unfold taken withChans
  rfl

/-- A command on a ready channel whose body completes with ST_OK. -/
theorem serve_ok {s x : State} {r : Req} {cmd : Nat} {args data : List Byte} {body : Origin → State → Ans}
    (h : ready s r cmd = true) (ha : body (originOf r cmd) (taken r cmd args s) = done x data)
    (hc : cmd < 65536 := by decide) (hx : x.mbx.chans = (taken r cmd args s).mbx.chans := by rfl) :
    Replies (.next (serve r cmd args body s)) r cmd .ok data (withChans s.mbx.chans x) :=
  serve_replies (a := done x data) h ha hc (by intro e; cases e) rfl rfl hx

theorem withChans_updChan (X : Tab Chan) (c : Nat) (f : Chan → Chan) (s : State) :
    withChans X (updChan c f s) = withChans X s := by
  unfold updChan withChans
  rfl

/-- A command on a ready channel that completes with ST_OK and leaves the state as it is. -/
theorem serve_report {s : State} {r : Req} {cmd : Nat} {args data : List Byte} {body : Origin → State → Ans}
    (h : ready s r cmd = true) (ha : body (originOf r cmd) (taken r cmd args s) = done (taken r cmd args s) data)
    (hc : cmd < 65536 := by decide) :
    Replies (.next (serve r cmd args body s)) r cmd .ok data s := by
  have e := serve_ok h ha hc rfl
  rwa [withChans_taken] at e

/-- A command on a ready channel that completes with ST_OK and changes its own channel only. -/
theorem serve_own {s : State} {r : Req} {cmd : Nat} {args data : List Byte} {body : Origin → State → Ans} (f : Chan → Chan)
    (h : ready s r cmd = true)
    (ha : body (originOf r cmd) (taken r cmd args s) = done (updChan r.channel.val f (taken r cmd args s)) data)
    (hf : ∀ ch, (f ch).st = ch.st) (hc : cmd < 65536 := by decide) :
    Replies (.next (serve r cmd args body s)) r cmd .ok data s := by
  have e := serve_done h hc args body (by rw [ha]; intro e; cases e) (by rw [ha]; rfl)
  have e2 := answer_replies (args := args) (cmd := cmd) (s := s) (x := updChan r.channel.val f (taken r cmd args s))
    (st := .ok) (data := data) (ready_facts h).1 (by rw [chanOf_updChan_same, hf]; exact taken_busy ..)
    (fun d hd => by
      unfold updChan chanOf
      dsimp only
      rw [Tab.get_upd_ne _ _ _ hd]
      exact taken_other r cmd args s d hd)
  rw [withChans_updChan, withChans_taken] at e2
  rw [ha] at e
  rw [e]
  exact e2

/-- A command on a ready channel whose body refuses it. -/
theorem serve_refuse {s : State} {st : Status} {r : Req} {cmd : Nat} {args : List Byte} {body : Origin → State → Ans}
    (h : ready s r cmd = true) (ha : body (originOf r cmd) (taken r cmd args s) = refuse (taken r cmd args s) st)
    (hst : st ≠ .pending := by decide) (hc : cmd < 65536 := by decide) :
    Replies (.next (serve r cmd args body s)) r cmd st [] s := by
  have e := serve_replies h ha hc hst rfl rfl rfl
  unfold refuse at e
  dsimp only at e
  rwa [withChans_taken] at e

/-- A command on a ready channel that stays open. -/
theorem serve_open {s x : State} {units : Nat} {r : Req} {cmd : Nat} {args data : List Byte}
    {body : Origin → State → Ans} (h : ready s r cmd = true)
    (ha : body (originOf r cmd) (taken r cmd args s) = { state := x, status := .pending, data := data, units := units })
    (hc : cmd < 65536 := by decide) (hx : x.mbx.chans = (taken r cmd args s).mbx.chans := by rfl) :
    Replies (.next (serve r cmd args body s)) r cmd .pending data (withPend r cmd units (withChans s.mbx.chans x)) :=
  serve_pends (a := { state := x, status := .pending, data := data, units := units }) h ha hc rfl rfl rfl hx

/-- A command on a ready channel that stays open: what follows its answer runs on the answered state. -/
theorem serve_then {s : State} {r : Req} {cmd : Nat} {args : List Byte} {body : Origin → State → Ans} {a : Ans}
    (h : ready s r cmd = true) (ha : body (originOf r cmd) (taken r cmd args s) = a) (hs : a.status = .pending)
    (hw : a.wait = false) (hb : (chanOf a.state r.channel.val).st = .busy) (hc : cmd < 65536 := by decide) :
    ∃ y, serve r cmd args body s = a.after y ∧ answered y r cmd .pending a.data ∧
      Frame [.mbx, .chans, .evt, .sec] a.state y := by
  have hreg := (ready_facts h).1
  have e := serve_pending h hc args body (by rw [ha]; exact hs) (by rw [ha]; exact hw)
  rw [ha] at e
  refine ⟨_, e, answer_answered (t := withPend r cmd a.units a.state) r cmd args s .pending a.data hreg hb, ?_⟩
  have f0 : Frame [.mbx, .chans] a.state (withPend r cmd a.units a.state) := by
    constructor; intro p hp; cases p <;> first | rfl | exact id | exact fun _ _ => rfl | cases hp
  exact (answer_reg_frame _ _ _ _ hreg).after (f0.after (Frame.refl _ _))

/-- An answer that stands in a channel stays there while the channels stay. -/
theorem answered_same {x y : State} {r : Req} {cmd : Nat} {st : Status} {data : List Byte} (h : answered x r cmd st data)
    (e : y.mbx.chans = x.mbx.chans) : answered y r cmd st data := by
  unfold answered chanOf at h ⊢
  rw [e]
  exact h

end Sys2Proof.Machine
end

