-- ==== Sys2Proof/Laws/Ops.lean ====
section
/-! SUPPORT. Laws of the shared operations of Machine/Ops.lean. -/

set_option Elab.async false

namespace Sys2Proof.Machine

/-- What one application of an indexed update to each number of a list without repeats gives. -/
theorem forEach_get {α : Type} {get : State → Nat → α} {op : Nat → State → State} {f : Nat → α → α}
    (hs : ∀ k s, get (op k s) k = f k (get s k)) (hn : ∀ k s j, j ≠ k → get (op k s) j = get s j) (k : Nat) :
    ∀ (l : List Nat) (s : State), l.Nodup →
      get (forEach l op s) k = if k ∈ l then f k (get s k) else get s k
  | [], s, _ => by simp [forEach]
  | i :: l, s, h => by
    obtain ⟨hi, hl⟩ := List.nodup_cons.mp h
    have e : forEach (i :: l) op s = forEach l op (op i s) := rfl
    rw [e, forEach_get hs hn k l _ hl]
    by_cases hk : k = i
    · subst hk
      simp [hi, hs]
    · rw [hn _ _ _ hk]
      simp [hk]

@[simp] theorem domOf_updDom_same (k : Nat) (f : Domain → Domain) (s : State) : domOf (updDom k f s) k = f (domOf s k) :=
  Tab.get_upd_same ..

theorem domOf_updDom_ne {j k : Nat} (f : Domain → Domain) (s : State) (h : j ≠ k) : domOf (updDom k f s) j = domOf s j :=
  Tab.get_upd_ne _ _ _ h

theorem domOf_forEach {l : List Nat} (hl : l.Nodup) (f : Nat → Domain → Domain) (s : State) (k : Nat) :
    domOf (forEach l (fun i x => updDom i (f i) x) s) k = if k ∈ l then f k (domOf s k) else domOf s k :=
  forEach_get (get := domOf) (op := fun i x => updDom i (f i) x) (f := f)
    (fun k x => domOf_updDom_same k (f k) x) (fun _ _ _ h => domOf_updDom_ne _ _ h) k l s hl

@[simp] theorem pllOf_updPll_same (k : Nat) (f : Pll → Pll) (s : State) : pllOf (updPll k f s) k = f (pllOf s k) :=
  Tab.get_upd_same ..

theorem pllOf_updPll_ne {j k : Nat} (f : Pll → Pll) (s : State) (h : j ≠ k) : pllOf (updPll k f s) j = pllOf s j :=
  Tab.get_upd_ne _ _ _ h

theorem pllOf_forEach {l : List Nat} (hl : l.Nodup) (f : Nat → Pll → Pll) (s : State) (k : Nat) :
    pllOf (forEach l (fun i x => updPll i (f i) x) s) k = if k ∈ l then f k (pllOf s k) else pllOf s k :=
  forEach_get (get := pllOf) (op := fun i x => updPll i (f i) x) (f := f)
    (fun k x => pllOf_updPll_same k (f k) x) (fun _ _ _ h => pllOf_updPll_ne _ _ h) k l s hl

@[simp] theorem regionOf_updRegion_same (k : Nat) (f : Region → Region) (s : State) : regionOf (updRegion k f s) k = f (regionOf s k) :=
  Tab.get_upd_same ..

theorem regionOf_updRegion_ne {j k : Nat} (f : Region → Region) (s : State) (h : j ≠ k) : regionOf (updRegion k f s) j = regionOf s j :=
  Tab.get_upd_ne _ _ _ h

theorem regionOf_forEach {l : List Nat} (hl : l.Nodup) (f : Nat → Region → Region) (s : State) (k : Nat) :
    regionOf (forEach l (fun i x => updRegion i (f i) x) s) k = if k ∈ l then f k (regionOf s k) else regionOf s k :=
  forEach_get (get := regionOf) (op := fun i x => updRegion i (f i) x) (f := f)
    (fun k x => regionOf_updRegion_same k (f k) x) (fun _ _ _ h => regionOf_updRegion_ne _ _ h) k l s hl

@[simp] theorem sensorOf_updSensor_same (k : Nat) (f : Sensor → Sensor) (s : State) : sensorOf (updSensor k f s) k = f (sensorOf s k) :=
  Tab.get_upd_same ..

theorem sensorOf_updSensor_ne {j k : Nat} (f : Sensor → Sensor) (s : State) (h : j ≠ k) : sensorOf (updSensor k f s) j = sensorOf s j :=
  Tab.get_upd_ne _ _ _ h

theorem sensorOf_forEach {l : List Nat} (hl : l.Nodup) (f : Nat → Sensor → Sensor) (s : State) (k : Nat) :
    sensorOf (forEach l (fun i x => updSensor i (f i) x) s) k = if k ∈ l then f k (sensorOf s k) else sensorOf s k :=
  forEach_get (get := sensorOf) (op := fun i x => updSensor i (f i) x) (f := f)
    (fun k x => sensorOf_updSensor_same k (f k) x) (fun _ _ _ h => sensorOf_updSensor_ne _ _ h) k l s hl

@[simp] theorem blockOf_updBlock_same (k : Nat) (f : Block → Block) (s : State) : blockOf (updBlock k f s) k = f (blockOf s k) :=
  Tab.get_upd_same ..

theorem blockOf_updBlock_ne {j k : Nat} (f : Block → Block) (s : State) (h : j ≠ k) : blockOf (updBlock k f s) j = blockOf s j :=
  Tab.get_upd_ne _ _ _ h

theorem blockOf_forEach {l : List Nat} (hl : l.Nodup) (f : Nat → Block → Block) (s : State) (k : Nat) :
    blockOf (forEach l (fun i x => updBlock i (f i) x) s) k = if k ∈ l then f k (blockOf s k) else blockOf s k :=
  forEach_get (get := blockOf) (op := fun i x => updBlock i (f i) x) (f := f)
    (fun k x => blockOf_updBlock_same k (f k) x) (fun _ _ _ h => blockOf_updBlock_ne _ _ h) k l s hl

@[simp] theorem routerOf_updRouter_same (k : Nat) (f : Router → Router) (s : State) : routerOf (updRouter k f s) k = f (routerOf s k) :=
  Tab.get_upd_same ..

theorem routerOf_updRouter_ne {j k : Nat} (f : Router → Router) (s : State) (h : j ≠ k) : routerOf (updRouter k f s) j = routerOf s j :=
  Tab.get_upd_ne _ _ _ h

theorem routerOf_forEach {l : List Nat} (hl : l.Nodup) (f : Nat → Router → Router) (s : State) (k : Nat) :
    routerOf (forEach l (fun i x => updRouter i (f i) x) s) k = if k ∈ l then f k (routerOf s k) else routerOf s k :=
  forEach_get (get := routerOf) (op := fun i x => updRouter i (f i) x) (f := f)
    (fun k x => routerOf_updRouter_same k (f k) x) (fun _ _ _ h => routerOf_updRouter_ne _ _ h) k l s hl

@[simp] theorem nportOf_updNport_same (k : Nat) (f : NPort → NPort) (s : State) : nportOf (updNport k f s) k = f (nportOf s k) :=
  Tab.get_upd_same ..

theorem nportOf_updNport_ne {j k : Nat} (f : NPort → NPort) (s : State) (h : j ≠ k) : nportOf (updNport k f s) j = nportOf s j :=
  Tab.get_upd_ne _ _ _ h

theorem nportOf_forEach {l : List Nat} (hl : l.Nodup) (f : Nat → NPort → NPort) (s : State) (k : Nat) :
    nportOf (forEach l (fun i x => updNport i (f i) x) s) k = if k ∈ l then f k (nportOf s k) else nportOf s k :=
  forEach_get (get := nportOf) (op := fun i x => updNport i (f i) x) (f := f)
    (fun k x => nportOf_updNport_same k (f k) x) (fun _ _ _ h => nportOf_updNport_ne _ _ h) k l s hl

@[simp] theorem dchanOf_updDchan_same (k : Nat) (f : Chan8 → Chan8) (s : State) : dchanOf (updDchan k f s) k = f (dchanOf s k) :=
  Tab.get_upd_same ..

theorem dchanOf_updDchan_ne {j k : Nat} (f : Chan8 → Chan8) (s : State) (h : j ≠ k) : dchanOf (updDchan k f s) j = dchanOf s j :=
  Tab.get_upd_ne _ _ _ h

theorem dchanOf_forEach {l : List Nat} (hl : l.Nodup) (f : Nat → Chan8 → Chan8) (s : State) (k : Nat) :
    dchanOf (forEach l (fun i x => updDchan i (f i) x) s) k = if k ∈ l then f k (dchanOf s k) else dchanOf s k :=
  forEach_get (get := dchanOf) (op := fun i x => updDchan i (f i) x) (f := f)
    (fun k x => dchanOf_updDchan_same k (f k) x) (fun _ _ _ h => dchanOf_updDchan_ne _ _ h) k l s hl

@[simp] theorem irOf_updIr_same (k : Nat) (f : IntRegion → IntRegion) (s : State) : irOf (updIr k f s) k = f (irOf s k) :=
  Tab.get_upd_same ..

theorem irOf_updIr_ne {j k : Nat} (f : IntRegion → IntRegion) (s : State) (h : j ≠ k) : irOf (updIr k f s) j = irOf s j :=
  Tab.get_upd_ne _ _ _ h

theorem irOf_forEach {l : List Nat} (hl : l.Nodup) (f : Nat → IntRegion → IntRegion) (s : State) (k : Nat) :
    irOf (forEach l (fun i x => updIr i (f i) x) s) k = if k ∈ l then f k (irOf s k) else irOf s k :=
  forEach_get (get := irOf) (op := fun i x => updIr i (f i) x) (f := f)
    (fun k x => irOf_updIr_same k (f k) x) (fun _ _ _ h => irOf_updIr_ne _ _ h) k l s hl

@[simp] theorem portOf_updPort_same (k : Nat) (f : Port → Port) (s : State) : portOf (updPort k f s) k = f (portOf s k) :=
  Tab.get_upd_same ..

theorem portOf_updPort_ne {j k : Nat} (f : Port → Port) (s : State) (h : j ≠ k) : portOf (updPort k f s) j = portOf s j :=
  Tab.get_upd_ne _ _ _ h

theorem portOf_forEach {l : List Nat} (hl : l.Nodup) (f : Nat → Port → Port) (s : State) (k : Nat) :
    portOf (forEach l (fun i x => updPort i (f i) x) s) k = if k ∈ l then f k (portOf s k) else portOf s k :=
  forEach_get (get := portOf) (op := fun i x => updPort i (f i) x) (f := f)
    (fun k x => portOf_updPort_same k (f k) x) (fun _ _ _ h => portOf_updPort_ne _ _ h) k l s hl

@[simp] theorem pinOf_updPin_same (k : Nat) (f : Pin → Pin) (s : State) : pinOf (updPin k f s) k = f (pinOf s k) :=
  Tab.get_upd_same ..

theorem pinOf_updPin_ne {j k : Nat} (f : Pin → Pin) (s : State) (h : j ≠ k) : pinOf (updPin k f s) j = pinOf s j :=
  Tab.get_upd_ne _ _ _ h

theorem pinOf_forEach {l : List Nat} (hl : l.Nodup) (f : Nat → Pin → Pin) (s : State) (k : Nat) :
    pinOf (forEach l (fun i x => updPin i (f i) x) s) k = if k ∈ l then f k (pinOf s k) else pinOf s k :=
  forEach_get (get := pinOf) (op := fun i x => updPin i (f i) x) (f := f)
    (fun k x => pinOf_updPin_same k (f k) x) (fun _ _ _ h => pinOf_updPin_ne _ _ h) k l s hl

@[simp] theorem bankOf_updBank_same (k : Nat) (f : Bank → Bank) (s : State) : bankOf (updBank k f s) k = f (bankOf s k) :=
  Tab.get_upd_same ..

theorem bankOf_updBank_ne {j k : Nat} (f : Bank → Bank) (s : State) (h : j ≠ k) : bankOf (updBank k f s) j = bankOf s j :=
  Tab.get_upd_ne _ _ _ h

theorem bankOf_forEach {l : List Nat} (hl : l.Nodup) (f : Nat → Bank → Bank) (s : State) (k : Nat) :
    bankOf (forEach l (fun i x => updBank i (f i) x) s) k = if k ∈ l then f k (bankOf s k) else bankOf s k :=
  forEach_get (get := bankOf) (op := fun i x => updBank i (f i) x) (f := f)
    (fun k x => bankOf_updBank_same k (f k) x) (fun _ _ _ h => bankOf_updBank_ne _ _ h) k l s hl

theorem chanOf_updChan_ne {j k : Nat} (f : Chan → Chan) (s : State) (h : j ≠ k) : chanOf (updChan k f s) j = chanOf s j :=
  Tab.get_upd_ne _ _ _ h

theorem chanOf_forEach {l : List Nat} (hl : l.Nodup) (f : Nat → Chan → Chan) (s : State) (k : Nat) :
    chanOf (forEach l (fun i x => updChan i (f i) x) s) k = if k ∈ l then f k (chanOf s k) else chanOf s k :=
  forEach_get (get := chanOf) (op := fun i x => updChan i (f i) x) (f := f)
    (fun k x => chanOf_updChan_same k (f k) x) (fun _ _ _ h => chanOf_updChan_ne _ _ h) k l s hl

/-! ## What posting an event leaves of the mailbox record -/

/-- Only the messages to send, the pending records and the count of lost events differ. -/
def MbxKept (s t : State) : Prop :=
  t.mbx = { s.mbx with mgmtOut := t.mbx.mgmtOut, pend := t.mbx.pend, hwLostTotal := t.mbx.hwLostTotal }

theorem MbxKept.refl (s : State) : MbxKept s s := rfl

theorem MbxKept.trans {s t u : State} (h : MbxKept s t) (h2 : MbxKept t u) : MbxKept s u := by
  unfold MbxKept at *
  rw [h2, h]

theorem MbxKept.of_eq {s t : State} (h : t.mbx = s.mbx) : MbxKept s t := by
  unfold MbxKept
  rw [h]

theorem sendMgmt_mbx (m : MgmtMsg) (s : State) : MbxKept s (sendMgmt m s) := by
  unfold sendMgmt giveMgmt
  split
  · split
    · dsimp only
      split
      · rfl
      · rfl
    · rfl
  · rfl

theorem routeEvent_mbx (r : EvRec) (s : State) : MbxKept s (routeEvent r s) := by
  unfold routeEvent
  split
  · rfl
  · split
    · rfl
    · exact sendMgmt_mbx ..

theorem postOwn_mbx (r : EvRec) (s : State) : MbxKept s (postOwn r s) := by
  unfold postOwn
  dsimp only
  have h : ∀ e : Evt, MbxKept s { s with evt := e } := fun e => MbxKept.of_eq rfl
  exact (h _).trans (routeEvent_mbx ..)

theorem postOverflow_mbx (s : State) : MbxKept s (postOverflow s) := by
  unfold postOverflow
  split
  · exact (MbxKept.of_eq (t := { s with evt := { s.evt with lostNew := 0 } }) rfl).trans (postOwn_mbx ..)
  · rfl

theorem sendFinal_mbx (o : Option Origin) (r : EvRec) (s : State) : MbxKept s (sendFinal o r s) := by
  unfold sendFinal
  split
  · exact sendMgmt_mbx ..
  · rfl

theorem postNow_mbx (r : EvRec) (o : Option Origin) (s : State) : MbxKept s (postNow r o s) := by
  unfold postNow
  exact ((postOverflow_mbx s).trans (postOwn_mbx ..)).trans (sendFinal_mbx ..)

theorem queueHw_mbx (r : EvRec) (o : Option Origin) (s : State) : MbxKept s (queueHw r o s) := by
  unfold queueHw
  split <;> rfl

theorem raise_mbx (ev : Ev) (d : List (Nat × Nat)) (s : State) : MbxKept s (raise ev d s) := by
  unfold raise
  split
  · exact postNow_mbx ..
  · exact queueHw_mbx ..

theorem pend_mbx (l : List Pend) (s : State) : MbxKept s { s with mbx := { s.mbx with pend := l } } := by
  unfold MbxKept
  rfl

theorem finish_mbx (o : Origin) (ev : Ev) (u : Nat) (st : Status) (s : State) : MbxKept s (finish o ev u st s) := by
  unfold finish
  generalize closeUnit o s.mbx.pend = l
  dsimp only
  split
  · exact (pend_mbx l s).trans (postNow_mbx ..)
  · exact (pend_mbx l s).trans (queueHw_mbx ..)

theorem finishOpt_mbx (o : Option Origin) (ev : Ev) (u : Nat) (st : Status) (s : State) :
    MbxKept s (finishOpt o ev u st s) := by
  unfold finishOpt
  split
  · exact finish_mbx ..
  · rfl

end Sys2Proof.Machine
end

