-- ==== Sys2Proof/Laws/Reads.lean ====
section
/-! SUPPORT. Reads depend on the table they read alone, and what a request posted on a ready channel comes to. -/

set_option Elab.async false

open Sys2Proof Sys2Proof.Machine

namespace Sys2Proof.Machine

theorem domOf_congr {x y : State} (h : x.pwr = y.pwr) (k : Nat) : domOf x k = domOf y k := by
  unfold domOf; rw [h]

theorem pllOf_congr {x y : State} (h : x.clk = y.clk) (k : Nat) : pllOf x k = pllOf y k := by
  unfold pllOf; rw [h]

theorem regionOf_congr {x y : State} (h : x.ctx = y.ctx) (k : Nat) : regionOf x k = regionOf y k := by
  unfold regionOf; rw [h]

theorem sensorOf_congr {x y : State} (h : x.thm = y.thm) (k : Nat) : sensorOf x k = sensorOf y k := by
  unfold sensorOf; rw [h]

theorem blockOf_congr {x y : State} (h : x.mem = y.mem) (k : Nat) : blockOf x k = blockOf y k := by
  unfold blockOf; rw [h]

theorem routerOf_congr {x y : State} (h : x.noc = y.noc) (k : Nat) : routerOf x k = routerOf y k := by
  unfold routerOf; rw [h]

theorem nportOf_congr {x y : State} (h : x.noc = y.noc) (k : Nat) : nportOf x k = nportOf y k := by
  unfold nportOf; rw [h]

theorem dchanOf_congr {x y : State} (h : x.dram = y.dram) (k : Nat) : dchanOf x k = dchanOf y k := by
  unfold dchanOf; rw [h]

theorem irOf_congr {x y : State} (h : x.prt = y.prt) (k : Nat) : irOf x k = irOf y k := by
  unfold irOf; rw [h]

theorem portOf_congr {x y : State} (h : x.lnk = y.lnk) (k : Nat) : portOf x k = portOf y k := by
  unfold portOf; rw [h]

theorem pinOf_congr {x y : State} (h : x.pins = y.pins) (k : Nat) : pinOf x k = pinOf y k := by
  unfold pinOf; rw [h]

theorem bankOf_congr {x y : State} (h : x.pins = y.pins) (k : Nat) : bankOf x k = bankOf y k := by
  unfold bankOf; rw [h]

theorem domOf_doms {x y : State} (h : x.pwr.doms = y.pwr.doms) (d : Nat) : domOf x d = domOf y d := by unfold domOf; rw [h]

theorem chanOf_congr {x y : State} (h : x.mbx.chans = y.mbx.chans) (k : Nat) : chanOf x k = chanOf y k := by
  unfold chanOf; rw [h]

/-- A command on a ready channel that completes: its answer, and every part but mbx, evt and sec as its body leaves it. -/
theorem serve_fact {s : State} {r : Req} {cmd : Nat} {args : List Byte} {body : Origin → State → Ans} {a : Ans}
    (h : ready s r cmd = true) (ha : body (originOf r cmd) (taken r cmd args s) = a) (hs : a.status ≠ .pending)
    (hw : a.wait = false) (hf : a.after = id) (hb : (chanOf a.state r.channel.val).st = .busy)
    (hc : cmd < 65536 := by decide) :
    ∃ t, Host.Outcome.next (φ := Fault) (ρ := Refusal) (serve r cmd args body s) = .next t ∧ answered t r cmd a.status a.data ∧ Frame [.mbx, .chans, .evt, .sec] a.state t := by
  have hreg := (ready_facts h).1
  have e := serve_done h hc args body (by rw [ha]; exact hs) (by rw [ha]; exact hw)
  rw [ha, hf] at e
  exact ⟨_, congrArg _ e, answer_answered r cmd args s a.status a.data hreg hb, answer_reg_frame _ _ _ _ hreg⟩

/-- The same for a command that stays open. -/
theorem serve_fact_open {s : State} {r : Req} {cmd : Nat} {args : List Byte} {body : Origin → State → Ans} {a : Ans}
    (h : ready s r cmd = true) (ha : body (originOf r cmd) (taken r cmd args s) = a) (hs : a.status = .pending)
    (hw : a.wait = false) (hf : a.after = id) (hb : (chanOf a.state r.channel.val).st = .busy)
    (hc : cmd < 65536 := by decide) :
    ∃ t, Host.Outcome.next (φ := Fault) (ρ := Refusal) (serve r cmd args body s) = .next t ∧ answered t r cmd .pending a.data ∧ Frame [.mbx, .chans, .evt, .sec] a.state t := by
  obtain ⟨y, e, h1, h2⟩ := serve_then h ha hs hw hb hc
  rw [hf] at e
  exact ⟨_, congrArg _ e, h1, h2⟩

theorem forEach_nil (f : Nat → State → State) (s : State) : forEach [] f s = s := rfl

theorem forEach_cons (k : Nat) (l : List Nat) (f : Nat → State → State) (s : State) : forEach (k :: l) f s = forEach l f (f k s) := rfl

theorem Frame.fold {α : Type} {w : List Part} {f : State → α → State} (hf : ∀ s a, Frame w s (f s a)) (l : List α) (s : State) :
    Frame w s (l.foldl f s) := by
  induction l generalizing s with
  | nil => exact ⟨fun p _ => by cases p <;> first | rfl | exact id | exact fun _ _ => rfl⟩
  | cons k l ih => exact ⟨fun p hp => by
      have a := (hf s k).same p hp
      have b := (ih (f s k)).same p hp
      cases p <;> first | exact Eq.trans b a | exact fun h => b (a h) | exact fun i h => (b i (by rw [a i h]; exact h)).trans (a i h)⟩

theorem taken_busy' (r : Req) (cmd : Nat) (args : List Byte) (s x : State) (h : x.mbx.chans = (taken r cmd args s).mbx.chans) :
    (chanOf x r.channel.val).st = .busy := by
  rw [chanOf_congr h]; exact taken_busy r cmd args s

theorem destOf_congr {x y : State} (h1 : x.dram.list = y.dram.list) (h2 : x.dram.k = y.dram.k) (a : Nat) : destOf x a = destOf y a := by
  unfold destOf dramBytes; rw [h1, h2]

theorem cwinPort_congr {x y : State} (h1 : x.lnk = y.lnk) (j : Nat) : cwinPort x j = cwinPort y j := by
  unfold cwinPort routeOf
  have : ∀ n k, routeExtOf x n k = routeExtOf y n k := by
    intro n
    induction n with
    | zero => intro k; rfl
    | succ n ih => intro k; unfold routeExtOf; rw [h1]; simp only [ih]
  simp only [this, h1]

theorem targetRouter_congr {x y : State} (h1 : x.dram.list = y.dram.list) (h2 : x.dram.k = y.dram.k) (h3 : x.lnk = y.lnk) (a : Nat) :
    targetRouter x a = targetRouter y a := by
  unfold targetRouter dramChanOf
  rw [destOf_congr h1 h2, h1]
  simp only [cwinPort_congr h3]

theorem domCut_congr {x y : State} (h : x.pwr = y.pwr) (d : Nat) : domCut x d = domCut y d := by
  unfold domCut; rw [domOf_congr h]

theorem domShut_congr {x y : State} (h : x.pwr = y.pwr) (d : Nat) : domShut x d = domShut y d := by
  unfold domShut; rw [domOf_congr h]

theorem rspLost_congr {x y : State} (h1 : x.dram.list = y.dram.list) (h2 : x.dram.k = y.dram.k) (h3 : x.lnk = y.lnk)
    (h4 : x.pwr = y.pwr) (a b : Nat) : rspLost x a b = rspLost y a b := by
  unfold rspLost
  rw [targetRouter_congr h1 h2 h3]
  simp only [domCut_congr h4]

end Sys2Proof.Machine
end

