-- ==== Sys2Proof/Laws/Kept.lean ====
section
/-! SUPPORT. What events and answers leave alone: the mailboxes but the channels that answer, and the links but their management queues. -/

set_option Elab.async false

open Sys2Proof Sys2Proof.Machine

namespace Sys2Proof.Machine

/-- Of the link record only the ports differ, and of a port only the messages that wait and the credits they take. -/
def LnkKept (s t : State) : Prop :=
  t.lnk = { s.lnk with ports := t.lnk.ports } ∧
    ∀ p, portOf t p = { portOf s p with credMgmt := (portOf t p).credMgmt, mgmtWait := (portOf t p).mgmtWait }

theorem LnkKept.refl (s : State) : LnkKept s s := ⟨rfl, fun _ => rfl⟩

theorem LnkKept.trans {s t u : State} (h : LnkKept s t) (h2 : LnkKept t u) : LnkKept s u := by
  refine ⟨by rw [h2.1, h.1], fun p => ?_⟩
  rw [h2.2 p, h.2 p]

theorem LnkKept.of_eq {s t : State} (h : t.lnk = s.lnk) : LnkKept s t := by
  refine ⟨by rw [h], fun p => ?_⟩
  have : portOf t p = portOf s p := portOf_congr h p
  rw [this]

theorem updPort_lnk (p : Nat) (f : Port → Port) (s : State)
    (hf : ∀ x, f x = { x with credMgmt := (f x).credMgmt, mgmtWait := (f x).mgmtWait }) : LnkKept s (updPort p f s) := by
  refine ⟨rfl, fun q => ?_⟩
  by_cases h : q = p
  · subst h
    rw [portOf_updPort_same]
    exact hf _
  · rw [portOf_updPort_ne _ _ h]

theorem sendMgmt_lnk (m : MgmtMsg) (s : State) : LnkKept s (sendMgmt m s) := by
  unfold sendMgmt giveMgmt
  split
  · split
    · dsimp only
      split
      · exact (LnkKept.of_eq (t := { s with mbx := _ }) rfl).trans (updPort_lnk _ _ _ (fun _ => rfl))
      · exact updPort_lnk _ _ _ (fun _ => rfl)
    · exact LnkKept.refl _
  · exact LnkKept.refl _

theorem routeEvent_lnk (r : EvRec) (s : State) : LnkKept s (routeEvent r s) := by
  unfold routeEvent
  split
  · exact LnkKept.refl _
  · split
    · exact LnkKept.refl _
    · exact sendMgmt_lnk ..

theorem postOwn_lnk (r : EvRec) (s : State) : LnkKept s (postOwn r s) := by
  unfold postOwn
  dsimp only
  have h : ∀ e : Evt, LnkKept s { s with evt := e } := fun e => LnkKept.of_eq rfl
  exact (h _).trans (routeEvent_lnk ..)

theorem postOverflow_lnk (s : State) : LnkKept s (postOverflow s) := by
  unfold postOverflow
  split
  · exact (LnkKept.of_eq (t := { s with evt := { s.evt with lostNew := 0 } }) rfl).trans (postOwn_lnk ..)
  · exact LnkKept.refl _

theorem sendFinal_lnk (o : Option Origin) (r : EvRec) (s : State) : LnkKept s (sendFinal o r s) := by
  unfold sendFinal
  split
  · exact sendMgmt_lnk ..
  · exact LnkKept.refl _

theorem postNow_lnk (r : EvRec) (o : Option Origin) (s : State) : LnkKept s (postNow r o s) := by
  unfold postNow
  exact ((postOverflow_lnk s).trans (postOwn_lnk ..)).trans (sendFinal_lnk ..)

theorem queueHw_lnk (r : EvRec) (o : Option Origin) (s : State) : LnkKept s (queueHw r o s) :=
  LnkKept.of_eq ((queueHw_frame r o s).same .lnk (by decide))

theorem raise_lnk (ev : Ev) (d : List (Nat × Nat)) (s : State) : LnkKept s (raise ev d s) := by
  unfold raise
  split
  · exact postNow_lnk ..
  · exact queueHw_lnk ..

theorem finish_lnk (o : Origin) (ev : Ev) (u : Nat) (st : Status) (s : State) : LnkKept s (finish o ev u st s) := by
  unfold finish
  generalize closeUnit o s.mbx.pend = l
  have h : LnkKept s { s with mbx := { s.mbx with pend := l } } := LnkKept.of_eq rfl
  dsimp only
  split
  · exact h.trans (postNow_lnk ..)
  · exact h.trans (queueHw_lnk ..)

theorem finishOpt_lnk (o : Option Origin) (ev : Ev) (u : Nat) (st : Status) (s : State) :
    LnkKept s (finishOpt o ev u st s) := by
  unfold finishOpt
  split
  · exact finish_lnk ..
  · exact LnkKept.refl _

theorem LnkKept.fold {α : Type} {f : State → α → State} (hf : ∀ s a, LnkKept s (f s a)) (l : List α) (s : State) :
    LnkKept s (l.foldl f s) := by
  induction l generalizing s with
  | nil => exact LnkKept.refl _
  | cons k l ih => exact (hf s k).trans (ih _)

theorem MbxKept.fold {α : Type} {f : State → α → State} (hf : ∀ s a, MbxKept s (f s a)) (l : List α) (s : State) :
    MbxKept s (l.foldl f s) := by
  induction l generalizing s with
  | nil => exact MbxKept.refl _
  | cons k l ih => exact (hf s k).trans (ih _)

theorem MbxKept.chans {s t : State} (h : MbxKept s t) : t.mbx.chans = s.mbx.chans := by
  unfold MbxKept at h; rw [h]

theorem LnkKept.st {s t : State} (h : LnkKept s t) (p : Nat) : (portOf t p).st = (portOf s p).st := by rw [h.2 p]

end Sys2Proof.Machine
end

