-- ==== Sys2Proof/Laws/StepsReset.lean ====
section
/-! SUPPORT. Helper laws of power, reset, start and the thermal sensors. -/

set_option Elab.async false

open Sys2Proof Sys2Proof.Machine

namespace Sys2Proof.Machine

theorem cutWrites_idle {s : State} (h : writesIdle s = true) : cutWrites s = useFree 1 s := by
  simp only [writesIdle, Bool.and_eq_true, Option.isNone_iff_eq_none] at h
  obtain ⟨⟨h1, h2⟩, h3⟩ := h
  unfold cutWrites
  have e1 (b : Bool) : cutTransition b (useFree 1 s) = useFree 1 s := by unfold cutTransition; simp [useFree, h1]
  have e2 (b : Bool) : cutTag b (useFree 1 s) = useFree 1 s := by unfold cutTag; simp [useFree, h2]
  dsimp only
  rw [e1, e2]
  simp [useFree, h3]

theorem assertError_start (s : State) : (assertError s).start = s.start := rfl

theorem stay_fold (l : List BistFail) (s : State) :
    (l.foldl (fun a f => raiseFail f.row.val 1 0 0 (updStart (fun x => { x with held := true, fails := satAdd x.fails 1 }) a)) s).start.step = s.start.step ∧
    (s.start.held = true ∨ l ≠ [] →
    (l.foldl (fun a f => raiseFail f.row.val 1 0 0 (updStart (fun x => { x with held := true, fails := satAdd x.fails 1 }) a)) s).start.held = true) := by
  induction l generalizing s with
  | nil => exact ⟨rfl, fun h => h.elim id (fun h => absurd rfl h)⟩
  | cons f l ih =>
    rw [List.foldl_cons]
    obtain ⟨h1, h2⟩ := ih (raiseFail f.row.val 1 0 0 (updStart (fun x => { x with held := true, fails := satAdd x.fails 1 }) s))
    have e : (raiseFail f.row.val 1 0 0 (updStart (fun x => { x with held := true, fails := satAdd x.fails 1 }) s)).start = _ :=
      (raiseFail_frame ..).same .start (by decide)
    refine ⟨h1.trans (by rw [e]; rfl), fun _ => h2 (Or.inl (by rw [e]; rfl))⟩

theorem setBarista_barista (b : BaristaState) (s : State) : (setBarista b s).mbx.barista = b := by
  unfold setBarista; split
  · assumption
  · rfl

theorem warm_facts (s : State) : (warmReset s).pwr.baseReset = true ∧ (warmReset s).pwr.baseDue = false ∧
    ∀ c, c < 8 → (chanOf (warmReset s) c).st = .idle := by
  unfold warmReset
  dsimp only
  refine ⟨?_, ?_, ?_⟩
  · rw [(resetHostChans_frame ..).same .pwr (by decide), (dspWarmReset_frame ..).same .pwr (by decide),
      (warmBlocks_frame ..).same .pwr (by decide), (warmDram_frame ..).same .pwr (by decide), (warmArmed_frame ..).same .pwr (by decide),
      (nocWarmReset_frame ..).same .pwr (by decide)]
    rfl
  · rw [(resetHostChans_frame ..).same .pwr (by decide), (dspWarmReset_frame ..).same .pwr (by decide),
      (warmBlocks_frame ..).same .pwr (by decide), (warmDram_frame ..).same .pwr (by decide), (warmArmed_frame ..).same .pwr (by decide),
      (nocWarmReset_frame ..).same .pwr (by decide)]
    rfl
  · intro c hc
    generalize dspWarmReset _ = x
    have := chanOf_forEach (List.nodup_range (n := 8)) (fun _ ch => { ch with st := .idle, parts := none, rest := none }) x c
    rw [if_pos (List.mem_range.mpr hc)] at this
    unfold resetHostChans chanOf
    dsimp only
    unfold chanOf at this
    rw [this]

theorem pump_idle {s : State} (h : s.pwr.onQueue = []) : pump s = s := by
  unfold pump
  rw [h]; rfl

theorem maskDoms_one {mask : BitVec 96} {d : Nat} (h : bitsOf mask = [d]) : maskDoms mask.toNat = [d] := by
  unfold maskDoms
  rw [BitVec.ofNat_toNat, BitVec.setWidth_eq, h]

theorem filter_one {n d : Nat} (h : d < n) : (List.range n).filter (fun x => x == d) = [d] := by
  induction n with
  | zero => omega
  | succ n ih =>
    rw [List.range_succ, List.filter_append]
    by_cases hd : d = n
    · subst hd
      have : (List.range d).filter (fun x => x == d) = [] := by
        rw [List.filter_eq_nil_iff]
        intro x hx
        have := List.mem_range.mp hx
        simp; omega
      rw [this]; simp
    · rw [ih (by omega)]
      have : (n == d) = false := by simp; omega
      simp [this]

theorem bitsOf_lt {w : Nat} {m : BitVec w} {d : Nat} (h : bitsOf m = [d]) : d < w := by
  have : d ∈ bitsOf m := by rw [h]; simp
  unfold bitsOf at this
  exact List.mem_range.mp (List.mem_filter.mp this).1

theorem pwr_open {s x : State} {r : Req} {code d : Nat} {args : List Byte} {body : Origin → State → Ans}
    (h : ready s r code = true) (hbody : body (originOf r code) (taken r code args s) = pwrAnswer (originOf r code) [(d, none)] x)
    (hx : (chanOf x r.channel.val).st = .busy) (hc : code < 65536 := by decide) :
    ∃ y, serve r code args body s = pump y ∧ answered y r code .pending [] ∧ y.pwr = x.pwr ∧ y.thm = x.thm := by
  have e0 : pwrAnswer (originOf r code) [(d, none)] x = { state := x, status := .pending, units := 1, after := fun t => pump t } := rfl
  obtain ⟨y, e, ha, hfr⟩ := serve_then h (hbody.trans e0) rfl rfl hx hc
  exact ⟨y, e, ha, hfr.same .pwr (by decide), hfr.same .thm (by decide)⟩

theorem domOf_pwr {x y : State} (h : x.pwr = y.pwr) (d : Nat) : domOf x d = domOf y d := by
  unfold domOf; rw [h]

theorem closeSite_pwr (d : Nat) (s : State) : (closeSite d s).pwr = s.pwr := (closeSite_frame d s).same .pwr (by decide)

theorem closeSite_chan (d c : Nat) (s : State) (h : isRegChan c = true) : chanOf (closeSite d s) c = chanOf s c := by
  unfold closeSite
  split
  · dsimp only
    have := chanOf_forEach (l := mbxIn (d - 58)) (by unfold mbxIn; split <;> (try split) <;> (try split) <;> (try split) <;> simp) (fun _ ch => { ch with closed := true, reqQ := [], rspWait := none }) s c
    have hn : c ∉ mbxIn (d - 58) := by
      unfold isRegChan at h
      simp only [Bool.or_eq_true, decide_eq_true_eq, beq_iff_eq] at h
      unfold mbxIn
      split <;> (try split) <;> (try split) <;> (try split) <;> simp <;> omega
    rw [if_neg hn] at this
    exact this
  · rfl

theorem beginUp_dom (d : Nat) (s : State) : domOf (beginUp d s) d = { domOf s d with st := .poweringUp, isolated := false } :=
  domOf_updDom_same d (fun x => { x with st := .poweringUp, isolated := false }) s

theorem sensorOf_thm {x y : State} (h : x.thm = y.thm) (d : Nat) : sensorOf x d = sensorOf y d := by
  unfold sensorOf; rw [h]

theorem thm_forEach {f : Nat → State → State} (hf : ∀ k s, (f k s).thm = s.thm) (l : List Nat) (s : State) :
    (l.foldl (fun a k => f k a) s).thm = s.thm := by
  induction l generalizing s with
  | nil => rfl
  | cons k l ih => rw [List.foldl_cons, ih, hf]

theorem sampleOne_thm (l : List (Option Int)) (n : Nat) (s : State) :
    (sampleOne l n s).thm = (updSensor n (sampled s.thm.warnC s.thm.throttleC l n) s).thm := by
  unfold sampleOne
  dsimp only
  have hr := fun e d x => (raise_frame e d x).same .thm (by decide)
  split <;> split <;> (try exact (hr _ _ _).trans (hr _ _ _)) <;> first | exact hr _ _ _ | rfl

theorem sampleAll (l : List (Option Int)) (ks : List Nat) (hk : ks.Nodup) (n : Nat) (s : State) :
    sensorOf (forEach ks (sampleOne l) s) n =
      if n ∈ ks then sampled s.thm.warnC s.thm.throttleC l n (sensorOf s n) else sensorOf s n := by
  induction ks generalizing s with
  | nil => rfl
  | cons k ks ih =>
    have hk' := List.nodup_cons.mp hk
    have e : forEach (k :: ks) (sampleOne l) s = forEach ks (sampleOne l) (sampleOne l k s) := rfl
    rw [e, ih hk'.2]
    have h0 := sampleOne_thm l k s
    have h1 : (sampleOne l k s).thm.warnC = s.thm.warnC := by rw [h0]; rfl
    have h2 : (sampleOne l k s).thm.throttleC = s.thm.throttleC := by rw [h0]; rfl
    rw [h1, h2, sensorOf_thm h0]
    by_cases hn : n = k
    · subst hn
      rw [if_neg hk'.1, sensorOf_updSensor_same]
      simp
    · rw [sensorOf_updSensor_ne _ _ hn]
      simp [hn]

theorem deviceLimits_sensors (s : State) (n : Nat) : sensorOf (deviceLimits s) n = sensorOf s n := by
  unfold deviceLimits
  dsimp only
  repeat' split
  all_goals first | rfl | (refine (sensorOf_thm ((raise_frame _ _ _).same .thm (by decide)) n).trans ?_)
  all_goals first | rfl | (refine (sensorOf_thm (x := updThm _ _) (y := updThm _ _) (congrArg _ ((raise_frame _ _ _).same .thm (by decide))) n).trans ?_; rfl) | exact (sensorOf_thm ((raise_frame _ _ _).same .thm (by decide)) n)

theorem dom0_forEach (l : List Nat) (hl : 0 ∉ l) (s : State) : domOf (forEach l privOn s) 0 = domOf s 0 := by
  induction l generalizing s with
  | nil => rfl
  | cons k l ih =>
    have e : forEach (k :: l) privOn s = forEach l privOn (privOn k s) := rfl
    have h2 : ¬ 0 = k ∧ 0 ∉ l := by simpa using hl
    rw [e, ih h2.2]
    unfold privOn
    split
    · rfl
    · exact domOf_updDom_ne _ _ h2.1

theorem pwr_forEach_priv (l : List Nat) (s : State) : (forEach l privOn s).pwr.tripRetention = s.pwr.tripRetention := by
  induction l generalizing s with
  | nil => rfl
  | cons k l ih =>
    have e : forEach (k :: l) privOn s = forEach l privOn (privOn k s) := rfl
    rw [e, ih]
    unfold privOn
    split <;> rfl

theorem forEach_priv_frame (l : List Nat) (s : State) : Frame [.pwr] s (forEach l privOn s) := by
  induction l generalizing s with
  | nil => exact ⟨fun p _ => by cases p <;> first | rfl | exact id | exact fun _ _ => rfl⟩
  | cons k l ih =>
    have e : forEach (k :: l) privOn s = forEach l privOn (privOn k s) := rfl
    rw [e]
    exact ⟨fun p hp => by
      have a := (privOn_frame k s).same p hp
      have b := (ih (privOn k s)).same p hp
      cases p <;> first | exact Eq.trans b a | exact fun h => b (a h) | exact fun i h => (b i (by rw [a i h]; exact h)).trans (a i h)⟩

theorem finish_fold_pwr (l : List Origin) (ev : Ev) (u : Nat) (st : Status) (x : State) :
    (l.foldl (fun a o => finish o ev u st a) x).pwr = x.pwr := by
  induction l generalizing x with
  | nil => rfl
  | cons o l ih => rw [List.foldl_cons, ih, (finish_frame _ _ _ _ _).same .pwr (by decide)]

theorem upEffects_dom (d : Nat) (x : State) (k : Nat) : domOf (upEffects d x) k = domOf x k := by
  apply domOf_pwr
  exact (upEffects_frame d x).same .pwr (by decide)

theorem dropEffects_pwr (d c : Nat) (x : State) : (dropEffects d c x).pwr = x.pwr := (dropEffects_frame d c x).same .pwr (by decide)

end Sys2Proof.Machine
end

