-- ==== Sys2Proof/Laws/StepsMailbox.lean ====
section
/-! SUPPORT. Helper laws of the mailbox registers, Barista and its firmware. -/

set_option Elab.async false

open Sys2Proof Sys2Proof.Machine

namespace Sys2Proof.Machine

theorem updChan_congr {c : Nat} {f g : Chan → Chan} {s : State} (h : f (chanOf s c) = g (chanOf s c)) :
    updChan c f s = updChan c g s := by
  unfold updChan Tab.upd
  unfold chanOf at h
  rw [h]

theorem updChan_congr' {c : Nat} {f g : Chan → Chan} {s : State} (h : f (chanOf s c) = g (chanOf s c)) :
    updChan c f s = updChan c g s := by
  unfold updChan Tab.upd
  unfold chanOf at h
  rw [h]

theorem image_mask (c : Nat) (v : Nat) (s : State) : imageWrite c 0x00C v s = updChan c (fun ch => { ch with irqMask := Nat.testBit v 0 }) s := by
  unfold imageWrite chanWrite
  dsimp only
  rw [if_pos (by decide), if_neg (by decide), if_neg (by decide), if_neg (by decide), if_pos rfl]

theorem testBit0_extract (v : W64) : Nat.testBit (v.extractLsb' 0 32).toNat 0 = v.getLsbD 0 := by
  have : (v.extractLsb' 0 32).getLsbD 0 = v.getLsbD 0 := by simp
  exact this

theorem bytesLE_natLE (l : List Byte) : bytesLE l.length (natLE l) = l := by
  induction l with
  | nil => rfl
  | cons b l ih =>
    have hb := b.isLt
    have h1 : BitVec.ofNat 8 (b.toNat + 256 * natLE l) = b := by
      apply BitVec.eq_of_toNat_eq
      rw [BitVec.toNat_ofNat]
      omega
    have h2 : (b.toNat + 256 * natLE l) / 256 = natLE l := by omega
    rw [List.length_cons]
    unfold bytesLE natLE
    rw [h1, h2, ih]

theorem hostEvt_quiet {f : Evt → Evt} {s : State} (h : (f s.evt).lostNew = 0) : hostEvt f s = { s with evt := f s.evt } := by
  unfold hostEvt
  dsimp only
  split
  · unfold postOverflow
    rw [if_neg]
    · rfl
    · intro ⟨_, a, _⟩
      exact a h
  · rfl

theorem range8_bytes (n : Nat) :
    (List.range 8).map (fun i => BitVec.ofNat 8 (field n (8 * i) 8)) = bytesLE 8 n := by
  have h : ∀ k, BitVec.ofNat 8 (field n (8 * k) 8) = BitVec.ofNat 8 (n / 256 ^ k) := by
    intro k
    unfold field
    rw [Nat.pow_mul]
    apply BitVec.eq_of_toNat_eq
    simp
  simp only [h]
  simp [List.range, List.range.loop, bytesLE, Nat.div_div_eq_div_mul]

theorem mergeWord_full (old v : W64) : mergeWord 0xFF old v = v := by
  have h : (List.range 8).map (fun i =>
      BitVec.ofNat 8 (field (if (0xFF : BitVec 8).getLsbD i then v.toNat else old.toNat) (8 * i) 8)) = bytesLE 8 v.toNat := by
    rw [← range8_bytes]
    apply List.map_congr_left
    intro i hi
    have : (0xFF : BitVec 8).getLsbD i = true := by
      have hi := List.mem_range.mp hi
      revert i; decide
    rw [this, if_pos rfl]
  unfold mergeWord
  rw [h, natLE_bytesLE]
  apply BitVec.eq_of_toNat_eq
  rw [BitVec.toNat_ofNat]
  have := v.isLt
  omega

theorem dest_wptr (s : State) : destOf s 0x082002000000 = .control := by
  unfold destOf
  rw [if_neg (by decide), if_neg (by decide), if_neg (by decide), if_neg (by decide), if_pos (by decide)]

theorem ctlWord_wptr (s : State) : ctlWord s 0x082002000000 = some s.load.wptr.toNat := by
  unfold ctlWord
  dsimp only
  rw [if_neg (by decide), if_neg (by decide), if_pos (by decide)]
  unfold wsReg
  rfl

theorem ctlRefusal_wptr (s : State) (src : Nat) (be : BitVec 8) (v : W64) (hw : wsWriter s src = true) :
    ctlRefusal s src (0x082002000000, be, v) = none := by
  unfold ctlRefusal
  dsimp only
  rw [dest_wptr, if_neg (by decide), ctlWord_wptr, if_neg (by simp), if_neg (by decide), if_neg (by decide),
    if_pos (by decide), if_pos hw]

theorem ctlWrites_one (q : NocReq) (v : W64) (h2 : q.addr = 0x082002000000#48) (h3 : q.len = 0) (h4 : q.data = [v])
    (h5 : q.beFirst = 0xFF) : ctlWrites q = [(0x082002000000, 0xFF, v)] := by
  have ha : (0x082002000000#48).toNat / 8 * 8 + 8 * 0 = 0x082002000000 := by decide
  have hr : List.range ((0 : Fin 32).val + 1) = [0] := by decide
  unfold ctlWrites byteEnables
  rw [h2, h3, h4, h5, hr, List.map_cons, List.map_nil, ha, if_pos rfl]
  simp only [List.getD_cons_zero]

theorem ctlWrite1_wptr (s : State) (v : W64) : ctlWrite1 s (0x082002000000, 0xFF, v) = setWptr v s := by
  have h1 : inQctl 0x082002000000 = false := by decide
  have h2 : inConflict 0x082002000000 = false := by decide
  have key : ∀ a, inQctl a = false → inConflict a = false → a = 0x082002000000 →
      ctlWrite1 s (a, 0xFF, v) = setWptr (mergeWord 0xFF s.load.wptr v) s := by
    intro a h1 h2 h3
    unfold ctlWrite1
    dsimp only
    rw [if_neg (by rw [h1]; decide), if_neg (by rw [h2]; decide), if_pos h3]
  rw [key _ h1 h2 rfl, mergeWord_full]

theorem ctlWrite_one {s : State} {q : NocReq} {a : Nat} {be : BitVec 8} {v : W64} (ha : q.addr.toNat = a)
    (h1 : ctlWrites q = [(a, be, v)]) (hp : protDenied s q.src.toNat a = false)
    (hr : ctlRefusal s q.src.toNat (a, be, v) = none) (hw : inWorkspace a = false) :
    (ctlWrite q s).2 = ctlWrite1 s (a, be, v) := by
  unfold ctlWrite
  have hf : List.findSome? (ctlRefusal s q.src.toNat) [(a, be, v)] = none := by
    unfold List.findSome?
    rw [hr]; rfl
  rw [ha, h1, if_neg (by rw [hp]; decide), hf]
  dsimp only
  rw [if_neg (by rw [hw]; decide), List.foldl_cons, List.foldl_nil]

theorem ctlWrite_wptr (s : State) (q : NocReq) (v : W64) (h2 : q.addr = 0x082002000000#48) (h3 : q.len = 0) (h4 : q.data = [v])
    (h5 : q.beFirst = 0xFF) (hp : protDenied s q.src.toNat 0x082002000000 = false) (hw : wsWriter s q.src.toNat = true) :
    (ctlWrite q s).2 = setWptr v s := by
  have ha : q.addr.toNat = 0x082002000000 := by rw [h2]; decide
  have hi : inWorkspace 0x082002000000 = false := by decide
  rw [ctlWrite_one ha (ctlWrites_one q v h2 h3 h4 h5) hp (ctlRefusal_wptr s _ _ _ hw) hi, ctlWrite1_wptr]

theorem chan_lt (r : Req) : (BitVec.ofNat 8 r.channel.val).toNat = r.channel.val := by
  rw [BitVec.toNat_ofNat, Nat.mod_eq_of_lt]
  have := r.channel.isLt
  omega

theorem setBarista_to (b : BaristaState) (s : State) : (setBarista b s).mbx.barista = b := by
  unfold setBarista; split
  · assumption
  · rfl

theorem runImage_bar (f : FwImage) (sl : Option Bool) (tr : Bool) (s : State) : (runImage f sl tr s).mbx.barista = .serving :=
  setBarista_to ..

theorem enterRom_bar (s : State) : (enterRom s).mbx.barista = .rom := setBarista_to ..

theorem enterRom_fw (s : State) : (enterRom s).mbx.fw = none := by
  unfold enterRom setBarista
  split <;> rfl

theorem beginRestart_bar (b : Bool) (s : State) : (beginRestart b s).mbx.barista = .restarting := by
  unfold beginRestart
  rw [(abandonAll_frame _).same .barista (by decide), (interruptAll_frame _).same .barista (by decide)]
  exact setBarista_to ..

theorem bootSlot_valid {b tr : Bool} {s : State} (h : slotValid s b = true) : (bootSlot b tr s).mbx.barista = .serving := by
  unfold slotValid at h
  unfold bootSlot
  split
  · exact runImage_bar ..
  · rename_i e; rw [e] at h; cases h

theorem answer_nofw (q : Request) (st : Status) (s : State) (hq : isRegChan q.channel = true) (hf : s.mbx.fw = none) :
    ∃ X i m, answer q st [] s = answerState s X none s.mbx.selTrial i m s.sec.minSvn := by
  have hd : ∀ p : Rsp, ∃ X i m, (deliver q.channel q.via false p s =
      answerState s X none s.mbx.selTrial i m s.sec.minSvn) := by
    intro p
    unfold deliver deliverRaw
    rw [if_pos hq]
    split
    · obtain ⟨j, n, h⟩ := raiseRsp_answerState q.channel s (Tab.upd {} s.mbx.chans q.channel (fun ch =>
        { ch with st := .response, rspHdr := BitVec.ofNat 128 (natLE (rspBytes p)), rspBuf := bytesTab p.data }))
        s.mbx.fw s.mbx.selTrial s.evt.irqRsp s.evt.msix s.sec.minSvn
      rw [hf] at h
      refine ⟨_, _, _, Eq.trans ?_ h⟩
      unfold answerState updChan
      rw [← hf]
      rfl
    · refine ⟨s.mbx.chans, s.evt.irqRsp, s.evt.msix, ?_⟩
      unfold answerState
      rw [← hf]
  have hc : ∀ X i m, confirmTrial (answerState s X none s.mbx.selTrial i m s.sec.minSvn) = answerState s X none s.mbx.selTrial i m s.sec.minSvn := fun _ _ _ => rfl
  have h1 : ∀ p : Rsp, ∃ X i m, confirmTrial (deliver q.channel q.via false p s) = answerState s X none s.mbx.selTrial i m s.sec.minSvn := by
    intro p
    obtain ⟨X, i, m, h⟩ := hd p
    rw [h]
    exact ⟨_, _, _, hc ..⟩
  unfold answer answerWith
  dsimp only
  rw [if_neg (by simp)]
  exact h1 _

theorem readImage_answer (s : State) (X i m) (l : List Pend) (Y : Tab Chan) (b : Bool) (a n : Nat) :
    readImage (answerState (withChans Y { s with mbx := { s.mbx with pend := l } }) X none b i m s.sec.minSvn) a n = readImage s a n := by
  rfl

end Sys2Proof.Machine
end

