-- ==== Sys2Proof/Laws/StepsRegion.lean ====
section
/-! SUPPORT. Helper laws of the regions and their context slots. -/

set_option Elab.async false

open Sys2Proof Sys2Proof.Machine

namespace Sys2Proof.Machine

theorem switchNow_idle {r : Nat} {s : State} (h : (regionOf s r).pendSw = none) : switchNow r s = s := by
  unfold switchNow; dsimp only; rw [h]

theorem switchNow_early {r : Nat} {s : State} {w : PendSw} (h : (regionOf s r).pendSw = some w) (hw : s.clk.fc < w.at_ + 4) :
    switchNow r s = s := by
  unfold switchNow; dsimp only; rw [h]; dsimp only; rw [if_neg (by omega)]

theorem maskRegions_of (mask : BitVec 32) : maskRegions mask.toNat = bitsOf mask := by
  unfold maskRegions; rw [BitVec.ofNat_toNat, BitVec.setWidth_eq]

theorem emptyAll_slots (r : Nat) (s : State) (j : Nat) : regionOf (emptyAll r s) j = regionOf (updRegion r (fun g => { g with slots := [], present := none, ran := false }) s) j := by
  unfold emptyAll
  exact regionOf_congr ((pruneChans_frame _).same .ctx (by decide)) _

theorem clearRegion_get (r : Nat) (s : State) (j : Nat) : regionOf (clearRegion r s) j =
    if j = r then { regionOf s r with slots := [], present := none, ran := false, st := .blank, resetEnd := none, swapHeld := false } else regionOf s j := by
  unfold clearRegion
  by_cases h : j = r
  · subst h
    rw [regionOf_updRegion_same, emptyAll_slots, regionOf_updRegion_same, if_pos rfl]
  · rw [regionOf_updRegion_ne _ _ h, emptyAll_slots, regionOf_updRegion_ne _ _ h, if_neg h]

theorem clearAll (l : List Nat) (s : State) (n : Nat) (h : n ∈ l ∨ ((regionOf s n).st = .blank ∧ (regionOf s n).slots = [])) :
    (regionOf (forEach l clearRegion s) n).st = .blank ∧ (regionOf (forEach l clearRegion s) n).slots = [] := by
  induction l generalizing s with
  | nil => rw [forEach_nil]; simpa using h
  | cons k l ih =>
    rw [forEach_cons]
    apply ih
    by_cases hk : n = k
    · right; rw [clearRegion_get, if_pos hk]; exact ⟨rfl, rfl⟩
    · rw [clearRegion_get, if_neg hk]
      rcases h with h | h
      · left; simpa [hk] using h
      · right; exact h

theorem bitsOf_one_lt {w : Nat} {m : BitVec w} {d : Nat} (h : bitsOf m = [d]) : d < w := by
  have : d ∈ bitsOf m := by rw [h]; simp
  unfold bitsOf at this
  exact List.mem_range.mp (List.mem_filter.mp this).1

end Sys2Proof.Machine
end

