-- ==== Sys2Proof/Laws/StepsDram.lean ====
section
/-! SUPPORT. Helper laws of DRAM and the encryption engine. -/

set_option Elab.async false

open Sys2Proof Sys2Proof.Machine

namespace Sys2Proof.Machine

theorem subOf_congr {x y : State} (h : x.dram = y.dram) (c : Nat) (b : Bool) : subOf x c b = subOf y c b := by
  unfold subOf; rw [dchanOf_congr h]

theorem dchanOf_chans {x y : State} (h : x.dram.chans = y.dram.chans) (c : Nat) : dchanOf x c = dchanOf y c := by
  unfold dchanOf; rw [h]

theorem subOf_chans {x y : State} (h : x.dram.chans = y.dram.chans) (c : Nat) (b : Bool) : subOf x c b = subOf y c b := by
  unfold subOf; rw [dchanOf_chans h]

theorem subOf_updSub_same (c : Nat) (b : Bool) (f : SubChan → SubChan) (s : State) : subOf (updSub c b f s) c b = f (subOf s c b) := by
  unfold subOf updSub
  rw [dchanOf_updDchan_same]
  exact Tab.get_upd_same _ _ _ _

theorem bit_inj {a b : Bool} (h : bit a = bit b) : a = b := by
  cases a <;> cases b <;> first | rfl | cases h

theorem subOf_updSub_ne {c d : Nat} {a b : Bool} (f : SubChan → SubChan) (s : State) (h : ¬(d = c ∧ b = a)) : subOf (updSub c a f s) d b = subOf s d b := by
  unfold subOf updSub
  by_cases hd : d = c
  · subst hd
    rw [dchanOf_updDchan_same]
    exact Tab.get_upd_ne _ _ _ (fun e => h ⟨rfl, bit_inj e⟩)
  · rw [dchanOf_updDchan_ne _ _ hd]

theorem updSub_keep {c d : Nat} {a : Bool} (f : SubChan → SubChan) (s : State) :
    (dchanOf (updSub c a f s) d).st = (dchanOf s d).st := by
  unfold updSub
  by_cases hd : d = c
  · subst hd; rw [dchanOf_updDchan_same]
  · rw [dchanOf_updDchan_ne _ _ hd]

theorem respond_dram (q : NocReq) (st : Status) (data : List W64) (s : State) : (respond q st data s).dram = s.dram :=
  (respond_frame ..).same .dram (by decide)

theorem endJob_chans (j : DramJob) (s : State) : (endJob j s).dram.chans = s.dram.chans := by
  unfold endJob; rw [respond_dram]

theorem promote_mem (s : State) (o : LineOp) (l : List LineOp) (h : o ∈ l) : { o with promoted := true } ∈ promote s o l := by
  induction l with
  | nil => cases h
  | cons x xs ih =>
    unfold promote
    dsimp only
    by_cases e : x = o
    · rw [if_pos e, ← e]; simp
    · rw [if_neg e]
      rcases List.mem_cons.mp h with h | h
      · exact absurd h.symm e
      · exact List.mem_cons_of_mem _ (ih h)

theorem irOfPage_congr {x y : State} (h : x.prt = y.prt) (p : Nat) : irOfPage x p = irOfPage y p := by
  unfold irOfPage irOf; rw [h]

theorem serveOp_mid (c : Nat) (sub nrr : Bool) (o : LineOp) (s : State) : ∃ X : State,
    X = (if (!Tab.get none (subOf s c sub).openRows o.loc.bank == some o.loc.row) && nrr then
      updDchan c (fun y => { y with nrr := y.nrr + 1 }) (updSub c sub (fun y => { y with queue := y.queue.erase o, openRows := Tab.set none y.openRows o.loc.bank (some o.loc.row) }) s)
      else updSub c sub (fun y => { y with queue := y.queue.erase o, openRows := Tab.set none y.openRows o.loc.bank (some o.loc.row) }) s) ∧
    (∀ n, jobById X n = jobById s n) ∧
    subOf X c sub = { subOf s c sub with queue := (subOf s c sub).queue.erase o, openRows := Tab.set none (subOf s c sub).openRows o.loc.bank (some o.loc.row) } ∧
    X.prt = s.prt ∧ X.dram.lines = s.dram.lines ∧ X.dram.fills = s.dram.fills ∧ X.free = s.free ∧ X.noc = s.noc ∧ X.pwr = s.pwr ∧
    X.dram.list = s.dram.list ∧ X.dram.k = s.dram.k ∧ X.lnk = s.lnk := by
  refine ⟨_, rfl, ?_⟩
  split
  · refine ⟨fun _ => rfl, ?_, rfl, rfl, rfl, rfl, rfl, rfl, rfl, rfl, rfl⟩
    have : ∀ x, subOf (updDchan c (fun y => { y with nrr := y.nrr + 1 }) x) c sub = subOf x c sub := by
      intro x; unfold subOf; rw [dchanOf_updDchan_same]
    rw [this, subOf_updSub_same]
  · refine ⟨fun _ => rfl, ?_, rfl, rfl, rfl, rfl, rfl, rfl, rfl, rfl, rfl⟩
    rw [subOf_updSub_same]

theorem dropOps_st (ids : List Nat) (c : Nat) (s : State) : (dchanOf (dropOps ids s) c).st = (dchanOf s c).st := by
  unfold dropOps
  have : ∀ (l : List Nat) (x : State), (dchanOf (forEach l (fun c s => [false, true].foldl (fun a b => updSub c b (fun y => { y with queue := y.queue.filter (fun o => !ids.contains o.job) }) a) s) x) c).st = (dchanOf x c).st := by
    intro l x
    induction l generalizing x with
    | nil => rfl
    | cons k l ih =>
      rw [forEach_cons, ih, List.foldl_cons, List.foldl_cons, List.foldl_nil, updSub_keep, updSub_keep]
  exact this _ _

theorem endJobs_chans (l : List DramJob) (f : DramJob → DramJob) (s : State) : (l.foldl (fun a j => endJob (f j) a) s).dram.chans = s.dram.chans := by
  induction l generalizing s with
  | nil => rfl
  | cons j l ih => rw [List.foldl_cons, ih, endJob_chans]

theorem endChannelJobs_st (c d : Nat) (st : Status) (s : State) : (dchanOf (endChannelJobs c st s) d).st = (dchanOf s d).st := by
  unfold endChannelJobs
  dsimp only
  rw [dchanOf_chans (endJobs_chans _ (fun j => { j with status := st }) _), dropOps_st]

theorem finishFold_dram {α : Type} (l : List α) (g : α → Option Origin) (ev : Ev) (u : Nat) (st : Status) (s : State) :
    (l.foldl (fun a x => finishOpt (g x) ev u st a) s).dram = s.dram :=
  (Frame.fold (f := fun a x => finishOpt (g x) ev u st a) (fun s x => finishOpt_frame _ _ _ _ _) l s).same .dram (by decide)

theorem switchStep_chans (c : Nat) (f : Bool) (s : State) : (switchStep c f s).dram.chans = s.dram.chans := by
  unfold switchStep
  split
  · rfl
  · split
    · dsimp only
      split
      · rw [(finish_frame _ _ _ _ _).same .dram (by decide)]
      · rfl
    · rfl

theorem failChannel_st (c cause : Nat) (s : State) : (dchanOf (failChannel c cause s) c).st = .failed := by
  unfold failChannel
  dsimp only
  rw [dchanOf_chans (switchStep_chans _ _ _), dchanOf_congr (finishFold_dram _ (fun x : DramLoc × Option Origin => x.2) _ _ _ _), dchanOf_congr ((raise_frame _ _ _).same .dram (by decide)), endChannelJobs_st, dchanOf_updDchan_same]

theorem storeResults_get (c sp : Nat) (s : State) : dchanOf (storeResults c sp s) c = { dchanOf s c with results := Tab.set none (dchanOf s c).results sp (some (Config.trainingRecord c sp s.free)) } := by
  unfold storeResults
  show dchanOf (updDchan c _ s) c = _
  rw [dchanOf_updDchan_same]

theorem plane_after (r k f : Nat) (c : Stored) (s : State) (h : (regionOf s r).st ≠ .running) :
    Tab.get 0 ((regionOf (compareFrame r k f c s) r).slot k).plane f = Tab.get 0 c.frames f := by
  unfold compareFrame
  dsimp only
  by_cases hd : Tab.get 0 ((regionOf s r).slot k).plane f ^^^ Tab.get 0 c.frames f = 0
  · rw [if_pos hd]
    generalize Tab.get 0 ((regionOf s r).slot k).plane f = a at hd ⊢
    have : a ^^^ Tab.get 0 c.frames f ^^^ Tab.get 0 c.frames f = 0#1024 ^^^ Tab.get 0 c.frames f := by rw [hd]; rfl
    rwa [BitVec.xor_assoc, BitVec.xor_self, BitVec.xor_zero, BitVec.zero_xor] at this
  · rw [if_neg hd]
    have hr : regionIs s r .running = false := by unfold regionIs; simpa using h
    rw [hr, Bool.false_and, if_neg (by simp)]
    unfold correctFrame
    rw [regionOf_updRegion_same]
    unfold Region.updSlot Region.slot
    dsimp only
    rw [Tab.get_upd_same]
    exact Tab.get_set_same _ _ _ _

theorem filter_get {α : Type} (p : Nat → Bool) (t : Tab (Option α)) (k : Nat) (h : p k = false) :
    Tab.get none (t.filter (fun e => p e.1)) k = none := by
  induction t with
  | nil => rfl
  | cons e t ih =>
    rw [List.filter_cons]
    split
    · rename_i he
      unfold Tab.get
      rw [if_neg (by intro e2; rw [← e2, h] at he; cases he)]
      exact ih
    · exact ih

theorem zeroed (first count l : Nat) (s t : State) (h1 : t.dram = (zeroLines first count s).dram) (h2 : t.prt.gen = s.prt.gen)
    (hl : first ≤ l) (hu : l < first + count) : (lineRead l t).1 = (0, false) := by
  unfold lineRead
  rw [h1]
  unfold zeroLines
  dsimp only
  have hc : ({ first := first, count := count, gen := s.prt.gen } : ZeroFill).covers l = true := by
    unfold ZeroFill.covers; simp; omega
  rw [filter_get (fun e => !({ first := first, count := count, gen := s.prt.gen } : ZeroFill).covers e) _ l (by rw [hc]; rfl)]
  dsimp only
  have hf : List.find? (fun f : ZeroFill => f.covers l) ({ first := first, count := count, gen := s.prt.gen } :: s.dram.fills) = some { first := first, count := count, gen := s.prt.gen } :=
    List.find?_cons_of_pos (p := fun f : ZeroFill => f.covers l) hc
  rw [hf]
  dsimp only
  rw [if_pos h2.symm]

end Sys2Proof.Machine
end

