-- ==== Sys2Proof/Laws/StepsLink.lean ====
section
/-! SUPPORT. Helper laws of the links. -/

set_option Elab.async false

open Sys2Proof Sys2Proof.Machine

namespace Sys2Proof.Machine

theorem maskPorts_nodup (m : Nat) : (maskPorts m).Nodup := by unfold maskPorts; exact List.nodup_range.filter _

theorem forEach_port_frame (l : List Nat) (f : Nat → Port → Port) (x : State) : Frame [.lnk] x (forEach l (fun p => updPort p (f p)) x) :=
  Frame.fold (f := fun s c => updPort c (f c) s) (fun s k => updPort_frame _ _ _) l x

/-- The states of the ports and the upstream port are the same. -/
def StKept (s t : State) : Prop := (∀ q, (portOf t q).st = (portOf s q).st) ∧ t.lnk.upstream = s.lnk.upstream

theorem StKept.trans {s t u : State} (h : StKept s t) (h2 : StKept t u) : StKept s u :=
  ⟨fun q => (h2.1 q).trans (h.1 q), h2.2.trans h.2⟩

theorem LnkKept.stKept {s t : State} (h : LnkKept s t) : StKept s t := ⟨fun q => h.st q, by rw [h.1]⟩

theorem resumeChan_st (s : State) (n : BitVec 16) : StKept s (resumeChan s n) := by
  unfold resumeChan; split <;> exact ⟨fun _ => rfl, rfl⟩

theorem raiseSched_st (ev : Ev) (p n : Nat) (l : List (BitVec 16)) (s : State) : StKept s (raiseSched ev p n l s) := by
  induction n generalizing l s with
  | zero => exact ⟨fun _ => rfl, rfl⟩
  | succ n ih =>
    unfold raiseSched
    split
    · exact ⟨fun _ => rfl, rfl⟩
    · exact (raise_lnk _ _ _).stKept.trans (ih _ _)

theorem checkFloors_st (p : Nat) (s : State) : StKept s (checkFloors p s) := by
  unfold checkFloors
  dsimp only
  have h0 : ∀ v, StKept s (updPort p (fun x => { x with stopped := v }) s) := by
    intro v
    refine ⟨fun q => ?_, rfl⟩
    by_cases h : q = p
    · subst h; rw [portOf_updPort_same]
    · rw [portOf_updPort_ne _ _ h]
  have hf : ∀ (l : List (BitVec 16)) x, StKept x (l.foldl resumeChan x) := by
    intro l
    induction l with
    | nil => intro x; exact ⟨fun _ => rfl, rfl⟩
    | cons k l ih => intro x; exact (resumeChan_st x k).trans (ih _)
  exact (((h0 _).trans (hf _ _)).trans (raiseSched_st _ _ _ _ _)).trans (raiseSched_st _ _ _ _ _)

theorem linkFall_st (p : Nat) (dest : LnkSt) (c : Nat) (s : State) :
    (∀ q, (portOf (linkFall p dest c s) q).st = if q = p then dest else (portOf s q).st) ∧
      (linkFall p dest c s).lnk.upstream = (if s.lnk.upstream = some p then none else s.lnk.upstream) := by
  unfold linkFall
  dsimp only
  have h1 : ∀ x q, (portOf (dropUpstream p x) q).st = (portOf x q).st := by
    intro x q; unfold dropUpstream; split <;> rfl
  have hk : ∀ x, StKept x (checkFloors p (faceClear p (raise .linkDown [(8, p), (8, c), (8, (portOf s p).st.code)] x))) := by
    intro x
    have hfc : ∀ y, StKept y (faceClear p y) := fun y => ⟨fun _ => rfl, rfl⟩
    exact ((raise_lnk _ _ _).stKept.trans (hfc _)).trans (checkFloors_st _ _)
  have hk2 := fun x => ((hk x).trans (finishOpt_lnk (portOf s p).cmdReset .lnkDone p .auth _).stKept).trans (finishOpt_lnk (portOf s p).cmdWiden .lnkDone p .state _).stKept
  constructor
  · intro q
    rw [(hk2 _).1 q, h1]
    by_cases h : q = p
    · subst h; rw [portOf_updPort_same, if_pos rfl]
    · rw [portOf_updPort_ne _ _ h, if_neg h]
  · rw [(hk2 _).2]
    unfold dropUpstream
    have e : ∀ f, (updPort p f s).lnk.upstream = s.lnk.upstream := fun _ => rfl
    rw [e]
    split
    · rfl
    · exact e _

theorem pllOf_plls {x y : State} (h : x.clk.plls = y.clk.plls) (k : Nat) : pllOf x k = pllOf y k := by unfold pllOf; rw [h]

theorem changeRole_pll (m : Bool) (s : State) : (pllOf (changeRole m s) 0).locked = false := by
  unfold changeRole
  dsimp only
  generalize allLinksFall 2 s = y
  refine (congrArg Pll.locked (pllOf_plls (y := updPll 0 (fun x => { x with locked := false }) y) rfl 0)).trans ?_
  rw [pllOf_updPll_same]

theorem raise_port (ev : Ev) (d : List (Nat × Nat)) (s : State) (p : Nat) :
    portOf (raise ev d s) p = { portOf s p with credMgmt := (portOf (raise ev d s) p).credMgmt, mgmtWait := (portOf (raise ev d s) p).mgmtWait } :=
  (raise_lnk ev d s).2 p

theorem failStep_port (p c : Nat) (s : State) : (portOf (failStep p c s) p).st = .detect ∧ (portOf (failStep p c s) p).retry = true ∧
    (portOf (failStep p c s) p).downCause = BitVec.ofNat 4 c := by
  unfold failStep
  dsimp only
  rw [raise_port]
  have h1 : ∀ x q, (portOf (dropUpstream p x) q) = (portOf x q) := by
    intro x q; unfold dropUpstream; split <;> rfl
  rw [h1, portOf_updPort_same]
  exact ⟨rfl, rfl, rfl⟩

/-- Everything of a port but what posting an event or checking the floors changes. -/
def Kept2 (s t : State) (p : Nat) : Prop :=
  portOf t p = { portOf s p with credMgmt := (portOf t p).credMgmt, mgmtWait := (portOf t p).mgmtWait, stopped := (portOf t p).stopped }

theorem Kept2.trans {s t u : State} {p : Nat} (h : Kept2 s t p) (h2 : Kept2 t u p) : Kept2 s u p := by
  unfold Kept2 at *
  rw [h2, h]

theorem LnkKept.kept2 {s t : State} (h : LnkKept s t) (p : Nat) : Kept2 s t p := by
  have := h.2 p
  unfold Kept2
  rw [this]

theorem Kept2.of_eq {s t : State} {p : Nat} (h : portOf t p = portOf s p) : Kept2 s t p := by unfold Kept2; rw [h]

theorem resumeChan_k (s : State) (n : BitVec 16) (p : Nat) : Kept2 s (resumeChan s n) p := by
  unfold resumeChan; split <;> exact Kept2.of_eq rfl

theorem raiseSched_k (ev : Ev) (p n : Nat) (l : List (BitVec 16)) (s : State) (q : Nat) : Kept2 s (raiseSched ev p n l s) q := by
  induction n generalizing l s with
  | zero => exact Kept2.of_eq rfl
  | succ n ih =>
    unfold raiseSched
    split
    · exact Kept2.of_eq rfl
    · exact ((raise_lnk _ _ _).kept2 q).trans (ih _ _)

theorem checkFloors_k (p : Nat) (s : State) (q : Nat) : Kept2 s (checkFloors p s) q := by
  unfold checkFloors
  dsimp only
  have h0 : ∀ v, Kept2 s (updPort p (fun x => { x with stopped := v }) s) q := by
    intro v
    unfold Kept2
    by_cases h : q = p
    · subst h; rw [portOf_updPort_same]
    · rw [portOf_updPort_ne _ _ h]
  have hf : ∀ (l : List (BitVec 16)) x, Kept2 x (l.foldl resumeChan x) q := by
    intro l
    induction l with
    | nil => intro x; exact Kept2.of_eq rfl
    | cons k l ih => intro x; exact (resumeChan_k x k q).trans (ih _)
  exact (((h0 _).trans (hf _ _)).trans (raiseSched_k _ _ _ _ _ _)).trans (raiseSched_k _ _ _ _ _ _)

theorem forEach_kept2 (l : List Nat) (f : Nat → State → State) (p : Nat) (h : ∀ k x, Kept2 x (f k x) p) (s : State) : Kept2 s (forEach l f s) p := by
  induction l generalizing s with
  | nil => exact Kept2.of_eq rfl
  | cons k l ih => rw [forEach_cons]; exact (h k s).trans (ih _)

theorem spare_bit (k : Fin 9) (h : k.val < 8) : (~~~(0 ||| (1#9 <<< k.val)) &&& ~~~(0#9)).getLsbD 8 = true := by
  revert k; decide

theorem good_ne (k : Fin 9) : widthFor (bitsOf (~~~(0 ||| (1#9 <<< k.val)) &&& ~~~(0#9))).length = 3 := by
  revert k; decide

theorem dropSwitch_st (r : Nat) (s : State) (j : Nat) : (regionOf (dropSwitch r s) j).st = (regionOf s j).st := by
  unfold dropSwitch
  split
  · rfl
  · rw [regionOf_congr ((finishOpt_frame ..).same .ctx (by decide))]
    by_cases h : j = r
    · subst h; rw [regionOf_updRegion_same]
    · rw [regionOf_updRegion_ne _ _ h]

theorem leaveRunning_st (r : Nat) (st : RegSt) (c : BitVec 4) (s : State) (j : Nat) :
    (regionOf (leaveRunning r st c s) j).st = if j = r then st else (regionOf s j).st := by
  unfold leaveRunning
  dsimp only
  split
  next h => subst h; rw [regionOf_updRegion_same]
  next h =>
    rw [regionOf_updRegion_ne _ _ h, regionOf_congr ((dropPartial_frame ..).same .ctx (by decide)), dropSwitch_st,
      regionOf_congr ((presentBorders_frame ..).same .ctx (by decide))]

theorem leaveAll_st (l : List Nat) (st : RegSt) (c : BitVec 4) (s : State) (j : Nat) :
    (regionOf (forEach l (fun r s => leaveRunning r st c s) s) j).st = if j ∈ l then st else (regionOf s j).st := by
  induction l generalizing s with
  | nil => rw [forEach_nil]; simp
  | cons k l ih =>
    rw [forEach_cons, ih, leaveRunning_st]
    by_cases h : j ∈ l <;> by_cases h2 : j = k <;> simp [h, h2]

theorem loseFabricClock_unlocked (c p : Nat) (s : State) : (pllOf (loseFabricClock c p s) 0).locked = false := by
  unfold loseFabricClock
  split
  · assumption
  · dsimp only
    rw [pllOf_congr ((raise_frame ..).same .clk (by decide))]
    rename_i h
    refine (congrArg Pll.locked (pllOf_plls (y := updPll 0 (fun x => { x with locked := false }) (forEach (runningRegions s) (fun r s => leaveRunning r .held 5 s) s)) rfl 0)).trans ?_
    rw [pllOf_updPll_same]

theorem loseFabricClock_regions (c p : Nat) (s : State) (h : (pllOf s 0).locked = true) : runningRegions (loseFabricClock c p s) = [] := by
  unfold loseFabricClock
  rw [if_neg (by rw [h]; decide)]
  dsimp only
  unfold runningRegions
  rw [List.filter_eq_nil_iff]
  intro j hj
  unfold regionIs
  rw [regionOf_congr ((raise_frame ..).same .ctx (by decide))]
  have e := leaveAll_st (runningRegions s) .held 5 s j
  have e2 : (regionOf (forEach (runningRegions s) (fun r s => leaveRunning r .held 5 s) s) j).st ≠ .running := by
    rw [e]
    split
    · decide
    next h => 
      intro hh
      exact h (List.mem_filter.mpr ⟨hj, by unfold regionIs; rw [hh]; rfl⟩)
  intro hh
  apply e2
  exact eq_of_beq hh

theorem beacon_each (l : List Nat) (hl : l.Nodup) (s : State) (p : Nat) :
    let t := forEach l (fun p s => updPort p (fun x => { x with errs := [] }) (sendBeacon p s)) s
    t.lnk.upstream = s.lnk.upstream ∧ (p ∉ l → portOf t p = portOf s p) ∧
      (p ∈ l → (portOf t p).errs = [] ∧ ((portOf s p).st = .up → s.lnk.upstream ≠ some p → (portOf t p).beacon.isSome = true)) := by
  induction l generalizing s with
  | nil => exact ⟨rfl, fun _ => rfl, fun h => by cases h⟩
  | cons k l ih =>
    have hk := List.nodup_cons.mp hl
    dsimp only
    rw [forEach_cons]
    have hu : (updPort k (fun x => { x with errs := [] }) (sendBeacon k s)).lnk.upstream = s.lnk.upstream := by
      unfold sendBeacon; dsimp only; split <;> rfl
    have hn : ∀ q, q ≠ k → portOf (updPort k (fun x => { x with errs := [] }) (sendBeacon k s)) q = portOf s q := by
      intro q hq
      rw [portOf_updPort_ne _ _ hq]
      unfold sendBeacon; dsimp only; split
      · rw [portOf_updPort_ne _ _ hq]; rfl
      · rfl
    obtain ⟨i1, i2, i3⟩ := ih hk.2 (updPort k (fun x => { x with errs := [] }) (sendBeacon k s))
    refine ⟨i1.trans hu, ?_, ?_⟩
    · intro hp
      rw [i2 (fun h => hp (List.mem_cons_of_mem _ h)), hn p (fun h => hp (h ▸ List.mem_cons_self ..))]
    · intro hp
      by_cases h : p = k
      · subst h
        rw [i2 hk.1, portOf_updPort_same]
        refine ⟨rfl, fun h1 h2 => ?_⟩
        dsimp only
        unfold sendBeacon
        dsimp only
        rw [if_pos ⟨h1, h2⟩, portOf_updPort_same]
        rfl
      · have hp' : p ∈ l := by
          rcases List.mem_cons.mp hp with e | e
          · exact absurd e h
          · exact e
        obtain ⟨a, b⟩ := i3 hp'
        rw [hn p h, hu] at b
        exact ⟨a, b⟩

theorem first_due (n : Nat) : BitVec.ofInt 64 ((n : Int) / 256) = BitVec.ofNat 64 (n / 256) := by
  rw [← BitVec.ofInt_natCast]; rfl

theorem beacon_first (s : State) (p : Fin 6) (time : W64) (frac : Byte) (a : Int) (c : Capability) (h1 : s.lnk.upstream = some p.val)
    (h2 : (portOf s p.val).st = .up) (h3 : (portOf s p.val).rxCut = false) (h4 : (pllOf s 0).locked = true) (h5 : s.clk.timeLocked = false)
    (h6 : (portOf s p.val).peer = some c) : ∃ t, execBeaconReceived p time frac a s = .next t ∧ t.clk.timeLocked = true ∧ t.clk.unsync = false ∧
      t.clk.chainId = c.chainId ∧
      t.clk.time = BitVec.ofNat 64 ((256 * time.toNat + frac.toNat + wireFrac s (portOf s p.val)) / 256) := by
  unfold execBeaconReceived
  dsimp only
  rw [if_neg (by simp [h1, h2, h3, h4]), if_pos h5, h6]
  generalize 256 * time.toNat + frac.toNat + wireFrac s (portOf s p.val) = n
  rw [first_due]
  generalize BitVec.ofNat 64 (n / 256) = v
  exact ⟨_, rfl, rfl, rfl, rfl, rfl⟩

theorem pathShut_dram {x y : State} (h1 : x.dram = y.dram) (h2 : x.pwr = y.pwr) (a b : Nat) (h : destOf y b = .dram) :
    pathShut x a b = pathShut y a b := by
  have e : targetRouter x b = targetRouter y b := by
    unfold targetRouter dramChanOf
    rw [destOf_congr (x := x) (y := y) (by rw [h1]) (by rw [h1]), h, h1]
  have e2 : ∀ o, optShut x o = optShut y o := by
    intro o; cases o
    · rfl
    · exact domShut_congr h2 _
  unfold pathShut
  rw [e, e2]
  simp only [domShut_congr h2]

theorem issue_dram (q : NocReq) (x : State) (h0 : q.src ≠ 71) (h1 : isAtomic q.op = false)
    (h2 : q.addr.toNat % 4096 + 8 * (q.len.val + 1) ≤ 4096) (h3 : destOf x q.addr.toNat = .dram) (h4 : x.start.engineFailed = false)
    (h5 : pathShut x q.src.toNat q.addr.toNat = false) :
    issueReq q x = { x with noc := { x.noc with out := x.noc.out ++ [q], mesh := x.noc.mesh ++ [q] } } := by
  unfold issueReq
  have hi : initiatorRefusal x q = none := by
    unfold initiatorRefusal
    dsimp only
    rw [if_neg (by rintro ⟨c, -⟩; exact h0 c), if_neg (by rw [h4]; simp), if_neg (by
        unfold reqBytes; rw [h1, h3]; simp; omega), if_neg (by rw [h1]; simp)]
  rw [hi]
  dsimp only
  rw [h5, if_neg (by decide)]
  unfold reachTarget
  dsimp only
  have hd : ∀ v, destOf { x with noc := v } q.addr.toNat = .dram := fun v => h3
  rw [hd]
  dsimp only
  rw [ite_self]

theorem cwinPort_of {x y : State} (h1 : x.lnk.cwins = y.lnk.cwins) (h2 : x.lnk.routes = y.lnk.routes) (j : Nat) : cwinPort x j = cwinPort y j := by
  unfold cwinPort routeOf
  have : ∀ n k, routeExtOf x n k = routeExtOf y n k := by
    intro n
    induction n with
    | zero => intro k; rfl
    | succ n ih => intro k; unfold routeExtOf; rw [h2]; simp only [ih]
  simp only [this, h1]

theorem rspLost_of {x y : State} (h1 : x.lnk.cwins = y.lnk.cwins) (h2 : x.lnk.routes = y.lnk.routes) (h3 : x.dram = y.dram) (h4 : x.pwr = y.pwr)
    (a b : Nat) : rspLost x a b = rspLost y a b := by
  have e : ∀ b, targetRouter x b = targetRouter y b := by
    intro b
    unfold targetRouter dramChanOf
    rw [destOf_congr (x := x) (y := y) (by rw [h3]) (by rw [h3]), h3]
    simp only [cwinPort_of h1 h2]
  unfold rspLost
  rw [e]
  simp only [domCut_congr h4]

end Sys2Proof.Machine
end

