-- ==== Sys2Proof/Laws/StepsMemory.lean ====
section
/-! SUPPORT. Helper laws of the NoC and the memory layer. -/

set_option Elab.async false

open Sys2Proof Sys2Proof.Machine

namespace Sys2Proof.Machine

theorem isReq_self (q : NocReq) : isReq q.src q.tag q = true := by unfold isReq; simp

theorem complete_other (q : NocReq) (st : Status) (data : List W64) (s : State) (h : 64 ≤ q.src.toNat) (h2 : q.src ≠ 70) (h3 : s.lnk.served = []) :
    completeReq q st data s = { s with noc := { s.noc with out := s.noc.out.filter (fun x => !isReq q.src q.tag x), done := s.noc.done ++ [{ src := q.src, tag := q.tag, status := st, data := data }] } } := by
  unfold completeReq
  dsimp only
  rw [if_neg (by omega), h3, List.find?_nil]
  dsimp only
  rw [if_neg (by rintro ⟨a, -⟩; exact h2 a)]

theorem settle_quiet (n : Nat) (s : State) (h1 : (nportOf s n).ord = []) (h2 : (nportOf s n).waiting = []) :
    nportOf (settle n s) n = nportOf s n := by
  unfold settle
  rw [h2]
  unfold settlePort
  dsimp only
  have e : nportOf (updNport n (fun p => fillRsp p.ord.length p) s) n = nportOf s n := by
    rw [nportOf_updNport_same, h1]
    rfl
  split
  · exact e
  · split
    next h _ => rw [e, h2] at h; cases h
    next => exact e

theorem faces_same (n : Nat) (f : Face → Face) (s : State) : Tab.get {} (updFace n f s).lnk.faces n = f (Tab.get {} s.lnk.faces n) := by
  unfold updFace updFaces
  exact Tab.get_upd_same _ _ _ _

/-- An operation of port A or B in a free fc on an available block. -/
theorem doPort_do {p : PortAB} {g : Nat} {idle : Bool} {op : Nat → Block → OpAns} {s : State} (h1 : fabricClock s = true)
    (h2 : unavailable s g = false) (h3 : (rspsOf p (blockNow s g)).any (fun r => r.from_ == s.clk.fc + 3) = false) :
    doPort p g idle op s =
      noteEcc g (portABCode p) 0xFF (op s.clk.fc (if idle then blockNow s g else { blockNow s g with abAt := some s.clk.fc })).ecc
        (updBlock g (fun _ => putRsp p
          { from_ := s.clk.fc + 3, data := (op s.clk.fc (if idle then blockNow s g else { blockNow s g with abAt := some s.clk.fc })).data,
            err := (op s.clk.fc (if idle then blockNow s g else { blockNow s g with abAt := some s.clk.fc })).err,
            valid := (op s.clk.fc (if idle then blockNow s g else { blockNow s g with abAt := some s.clk.fc })).valid,
            accept := (op s.clk.fc (if idle then blockNow s g else { blockNow s g with abAt := some s.clk.fc })).accept,
            level := (op s.clk.fc (if idle then blockNow s g else { blockNow s g with abAt := some s.clk.fc })).level }
          (op s.clk.fc (if idle then blockNow s g else { blockNow s g with abAt := some s.clk.fc })).block) s) := by
  unfold doPort
  dsimp only
  rw [h1, h3, h2, if_neg (by decide), if_neg (by decide)]

theorem rsps_put (p : PortAB) (r : PortRsp) (b : Block) : (rspsOf p (putRsp p r b)).head? = some r := by
  cases p <;> rfl

theorem put_keep (p : PortAB) (r : PortRsp) (b : Block) : (putRsp p r b).entries = b.entries ∧ (putRsp p r b).writes = b.writes ∧
    (putRsp p r b).words = b.words ∧ (putRsp p r b).credPend = b.credPend ∧ (putRsp p r b).ue = b.ue := by
  cases p <;> exact ⟨rfl, rfl, rfl, rfl, rfl⟩

theorem seen_abAt (t : Nat) (b : Block) (v : Option Nat) (a : Nat) : seenWord t { b with abAt := v } a = seenWord t b a := rfl

theorem insert_last (x : PWrite) (l : List PWrite) (h : ∀ w ∈ l, w.at_ < x.at_) : insertWrite x l = l ++ [x] := by
  induction l with
  | nil => rfl
  | cons y ys ih =>
    have hy := h y (List.mem_cons_self ..)
    unfold insertWrite
    rw [if_neg (by rintro ⟨e, -⟩; omega), ih (fun w hw => h w (List.mem_cons_of_mem _ hw))]
    rfl

theorem noteUe_block (g a port src : Nat) (s : State) : blockOf (noteUe g a port src s) g =
    { blockOf s g with ue := satAdd (blockOf s g).ue 1, ueWord := BitVec.ofNat 13 a, ueValid := true } := by
  unfold noteUe
  rw [blockOf_congr ((raise_frame ..).same .mem (by decide)), blockOf_updBlock_same]

theorem read_clean {t a : Nat} {b : Block} (h : isRam b a = true) (h2 : (seenWord t b a).ecc = .clean) :
    readOp a .none t b = { block := b, data := (seenWord t b a).data, err := 0, valid := true, ecc := some (seenWord t b a, a) } := by
  unfold readOp
  rw [if_pos h]
  have hs : struckRead t .none a b = (seenWord t b a, b) := rfl
  rw [hs]
  unfold errCode
  dsimp only
  rw [h2]

theorem note_clean (g port src : Nat) (w : MWord) (a : Nat) (s : State) (h : w.ecc = .clean) : noteEcc g port src (some (w, a)) s = s := by
  unfold noteEcc; dsimp only; rw [h]

theorem meshReq_one {s : State} {q : NocReq} (h : s.noc.mesh = [q]) : meshReq s q.src q.tag = some q := by
  unfold meshReq
  rw [h, List.find?_cons_of_pos (by simp)]

theorem dropMesh_one {s : State} {q : NocReq} (h : s.noc.mesh = [q]) : dropMesh q s = { s with noc := { s.noc with mesh := [] } } := by
  unfold dropMesh
  rw [h]
  simp

theorem respond_go {s : State} {q : NocReq} (st : Status) (d : List W64) (h : rspLost s q.src.toNat q.addr.toNat = false) :
    respond q st d s = { s with noc := { s.noc with rsps := s.noc.rsps ++ [{ src := q.src, tag := q.tag, status := st, data := d }] } } := by
  unfold respond
  rw [h, if_neg (by decide)]

theorem rspLost_noc (s : State) (v : Noc) (a b : Nat) : rspLost { s with noc := v } a b = rspLost s a b :=
  by
  refine rspLost_of ?_ ?_ ?_ ?_ a b <;> rfl

theorem leaveFifo_blocks (g k : Nat) (s : State) : blockOf (leaveFifo g s) k = blockOf s k := blockOf_congr ((leaveFifo_frame ..).same .mem (by decide)) k

theorem clear_each (l : List Nat) (hl : l.Nodup) (s : State) (g : Nat) :
    blockOf (forEach l (fun g s => leaveFifo g (updBlock g clearedBlock s)) s) g = if g ∈ l then clearedBlock (blockOf s g) else blockOf s g := by
  refine forEach_get (get := blockOf) (op := fun g s => leaveFifo g (updBlock g clearedBlock s)) (f := fun _ => clearedBlock) ?_ ?_ g l s hl
  · intro k x
    rw [leaveFifo_blocks, blockOf_updBlock_same]
  · intro i j x h
    rw [leaveFifo_blocks, blockOf_updBlock_ne _ _ h]

theorem clear_clearing (l : List Nat) (s : State) : (forEach l (fun g s => leaveFifo g (updBlock g clearedBlock s)) s).mem.clearing = s.mem.clearing := by
  induction l generalizing s with
  | nil => rfl
  | cons k l ih =>
    rw [forEach_cons, ih, (leaveFifo_frame ..).same .mem (by decide)]
    rfl

theorem setMode_block (g : Nat) (m : QMode) (c i : Nat) (pe : Bool) (s : State) :
    ∃ W, blockOf (setMode g m c i pe s) g = { blockNow s g with words := W, mode := m, capLog2 := c, creditInit := i, credits := i, credPend := 0, patrolEn := pe, entries := [], inb := [], outb := [], closed := none, dirty := false, occStart := 0, enqFc := 0 } := by
  refine ⟨if (blockNow s g).dirty then freedWords s.free (blockNow s g) else (blockNow s g).words, ?_⟩
  unfold setMode
  dsimp only
  split
  · rw [blockOf_updBlock_same]
  · rw [leaveFifo_blocks, blockOf_updBlock_same]

theorem answerWrite_none {src : BitVec 8} {a : Nat} {st : Status} {s : State} (h : s.noc.mesh = []) : answerWrite src a st s = s := by
  unfold answerWrite
  rw [h]
  rfl

theorem unavailable_congr {x s : State} (e1 : x.mem = s.mem) (e2 : x.pwr = s.pwr) (e3 : x.start = s.start) (g : Nat) : unavailable x g = unavailable s g := by
  unfold unavailable blockRetired skipOf
  rw [domCut_congr e2, e1, e3, blockOf_congr e1]

theorem qctlWords_congr {x s : State} (e1 : x.mem = s.mem) (e2 : x.dsp = s.dsp) (e3 : x.clk = s.clk) (g : Nat) (b : Bool) : qctlWords x g b = qctlWords s g b := by
  have e : inboxLimit x g = inboxLimit s g := by unfold inboxLimit; rw [blockOf_congr e1, e2]
  unfold qctlWords blockNow
  rw [e, e3, blockOf_congr e1]

end Sys2Proof.Machine
end

