-- ==== Sys2Proof/Laws/StepsSystem.lean ====
section
/-! SUPPORT. Helper laws of security, the task dispatcher and the pins. -/

set_option Elab.async false

open Sys2Proof Sys2Proof.Machine

namespace Sys2Proof.Machine

theorem cutOff_idle {s : State} (h1 : s.sec.pending = none) (h2 : s.tag.job = none) : cutOff s = useFree 1 s := by
  unfold cutOff
  have e1 : (useFree 1 s).sec.pending = none := h1
  have e2 : (useFree 1 s).tag.job = none := h2
  dsimp only
  rw [e1]
  dsimp only
  rw [e2]

theorem tamper_facts {s : State} {c : Byte} {on : Bool} (h1 : s.sec.wiping = false) (h2 : s.sec.pending = none) (h3 : s.tag.job = none)
    (h4 : domOn s 2 = true) : (takeTamper c on s).prt.key = false ∧ (takeTamper c on s).sec = { s.sec with
      vault := [], wiping := true, tampers := satAdd s.sec.tampers 1, lastCause := c, redraw := true, tamper := s.sec.tamper || on } := by
  unfold takeTamper
  dsimp only
  rw [if_neg (by rw [h1, h2]; simp)]
  have hb : ∀ x, x.pwr = s.pwr → beginWipe x = updSec (fun y => { y with vault := [], wiping := true }) (zeroiseKey x) := by
    intro x hx
    unfold beginWipe
    have : domOn x 2 = true := by
      rw [← h4]
      unfold domOn
      rw [domOf_congr (x := x) (y := s) hx]
    dsimp only
    rw [this, if_pos rfl]
  rw [hb (updSec _ s) rfl]
  rw [cutOff_idle (by exact h2) (by exact h3)]
  constructor
  · rw [(raise_frame ..).same .prt (by decide)]
    rfl
  · rw [(raise_frame ..).same .sec (by decide)]
    rfl

theorem drawKey_key (s : State) : (drawKey s).prt.key = true ∧ (drawKey s).sec = s.sec := by
  constructor
  · unfold drawKey
    dsimp only
    have : ∀ (l : List Origin) (x : State), (l.foldl (fun a o => finish o .prtDone noUnit .state a) x).prt = x.prt := by
      intro l
      induction l with
      | nil => intro x; rfl
      | cons o l ih => intro x; rw [List.foldl_cons, ih, (finish_frame ..).same .prt (by decide)]
    rw [this]
    rfl
  · exact (drawKey_frame s).same .sec (by decide)

theorem te_facts (old new : BitVec 3) (x : State) : (transitionEffects old new x).sec.life = x.sec.life ∧
    (transitionEffects old new x).sec.groups = x.sec.groups ∧ (transitionEffects old new x).sec.pending = x.sec.pending ∧
    (new = 4 → (transitionEffects old new x).load.store = [] ∧ (transitionEffects old new x).load.inits = [] ∧
      (transitionEffects old new x).tag.lock = 0xFF) := by
  have hr : ∀ b y, (revokeSlots b y).life = y.life := by intro b y; unfold revokeSlots; dsimp only
  have hg : ∀ b y, (revokeSlots b y).groups = y.groups := by intro b y; unfold revokeSlots; dsimp only
  have hp : ∀ b y, (revokeSlots b y).pending = y.pending := by intro b y; unfold revokeSlots; dsimp only
  unfold transitionEffects
  split
  next h => exact ⟨hr .., hg .., hp .., fun _ => ⟨rfl, rfl, rfl⟩⟩
  next h =>
    split
    · exact ⟨hr .., hg .., hp .., fun e => absurd e h⟩
    · exact ⟨rfl, rfl, rfl, fun e => absurd e h⟩

theorem sigOk_congr {x s : State} (h : x.sec = s.sec) (c : Nat) (a : List Byte) (k g : Nat) (key : List Byte) : sigOk x c a k g key = sigOk s c a k g key := by
  unfold sigOk ownerSlot
  rw [h]

theorem tooHot_congr {x s : State} (h : x.thm = s.thm) : tooHot x = tooHot s := by
  unfold tooHot; rw [sensorOf_congr h]

theorem keyset_revoke (s : State) (r : Req) (slot : BitVec 2) (ki : BitVec 3) (sig : BitVec 768) (key : List Byte) (h : ready s r 0x0F03 = true)
      (h1 : key.length = 97) (h2 : s.sec.life = 2) (h3 : (keySlot s slot.toNat).revoked = false) (h4 : tooHot s = false) (h5 : s.sec.trngStopped = false)
      (h6 : sigOk s 0x0F03 (keySetArgs slot.toNat 1 ki.toNat key) ki.toNat sig.toNat key = true) :
    Replies (execSecKeySet r slot true ki sig key s) r 0x0F03 .ok [] { s with
      sec := { s.sec with keys := Tab.set {} s.sec.keys slot.toNat { keySlot s slot.toNat with revoked := true },
                          nonce := (freeNow s).extractLsb' 0 384, drbg := s.sec.drbg + 1 }
      free := s.free + 1 } := by
  unfold execSecKeySet
  generalize packRecord _ _ = args
  have b : ∀ q x, x.sec = s.sec → x.thm = s.thm → x.free = s.free → bodySecKeySet slot.toNat (bit true) ki.toNat sig.toNat key q x =
      done { x with sec := { s.sec with keys := Tab.set {} s.sec.keys slot.toNat { keySlot s slot.toNat with revoked := true }, nonce := (freeNow s).extractLsb' 0 384, drbg := s.sec.drbg + 1 }, free := s.free + 1 } := by
    intro q x e1 e2 e3
    have ek : keySlot x slot.toNat = keySlot s slot.toNat := by unfold keySlot; rw [e1]
    have hk : keySet slot.toNat 1 ki.toNat sig.toNat key x = done (updSec (fun c => { c with keys := Tab.set {} c.keys slot.toNat { keySlot s slot.toNat with revoked := true } }) x) := by
      unfold keySet
      dsimp only
      rw [if_neg (by rw [if_pos rfl]; simp [h1]), e1, if_neg (by rw [h2]; simp), if_pos rfl, sigOk_congr e1, h6, if_neg (by decide), ek, h3, if_neg (by simp), tooHot_congr e2, h4, if_neg (by decide), if_pos rfl]
    unfold bodySecKeySet
    change afterSig (keySet slot.toNat 1 ki.toNat sig.toNat key x) = _
    rw [hk]
    unfold afterSig done drawNonce updSec useFree freeNow
    dsimp only
    rw [e1, h5, if_neg (by decide), e3]
  generalize Tab.set (α := KeySlot) _ _ _ _ = V at b ⊢
  exact serve_ok h (b _ _ rfl rfl rfl)

theorem keyset_write (s : State) (r : Req) (slot : BitVec 2) (ki : BitVec 3) (sig : BitVec 768) (rec : List Byte) (k : BitVec 256)
      (h : ready s r 0x0F03 = true) (h1 : rec.length = 254) (h2 : s.sec.life = 2) (h3 : (keySlot s slot.toNat).revoked = false)
      (h3' : (keySlot s slot.toNat).written = false) (h4 : tooHot s = false) (h5 : s.sec.trngStopped = false)
      (h6 : sigOk s 0x0F03 (keySetArgs slot.toNat 0 ki.toNat rec) ki.toNat sig.toNat (rec.drop 157) = true)
      (h7 : Config.unwrapKey slot.toNat (rec.take 157) = some k) :
    Replies (execSecKeySet r slot false ki sig rec s) r 0x0F03 .ok [] { s with
      sec := { s.sec with keys := Tab.set {} s.sec.keys slot.toNat { keySlot s slot.toNat with key := k, written := true },
                          nonce := (freeNow s).extractLsb' 0 384, drbg := s.sec.drbg + 1 }
      free := s.free + 1 } := by
  unfold execSecKeySet
  generalize packRecord _ _ = args
  have b : ∀ q x, x.sec = s.sec → x.thm = s.thm → x.free = s.free → bodySecKeySet slot.toNat (bit false) ki.toNat sig.toNat rec q x =
      done { x with sec := { s.sec with keys := Tab.set {} s.sec.keys slot.toNat { keySlot s slot.toNat with key := k, written := true }, nonce := (freeNow s).extractLsb' 0 384, drbg := s.sec.drbg + 1 }, free := s.free + 1 } := by
    intro q x e1 e2 e3
    have ek : keySlot x slot.toNat = keySlot s slot.toNat := by unfold keySlot; rw [e1]
    have hk : keySet slot.toNat 0 ki.toNat sig.toNat rec x = done (updSec (fun c => { c with keys := Tab.set {} c.keys slot.toNat { keySlot s slot.toNat with key := k, written := true } }) x) := by
      unfold keySet
      dsimp only
      simp only [show ((0 : Nat) = 1) = False from by simp, if_false]
      rw [if_neg (by simp [h1]), e1, if_neg (by rw [h2]; simp), sigOk_congr e1, h6, if_neg (by decide), ek, h3, h3', if_neg (by simp), tooHot_congr e2, h4, if_neg (by decide), h7]
    unfold bodySecKeySet
    change afterSig (keySet slot.toNat 0 ki.toNat sig.toNat rec x) = _
    rw [hk]
    unfold afterSig done drawNonce updSec useFree freeNow
    dsimp only
    rw [e1, h5, if_neg (by decide), e3]
  generalize Tab.set (α := KeySlot) _ _ _ _ = V at b ⊢
  exact serve_ok h (b _ _ rfl rfl rfl)

theorem keyset_auth (s : State) (r : Req) (slot : BitVec 2) (ki : BitVec 3) (sig : BitVec 768) (key : List Byte) (h : ready s r 0x0F03 = true)
      (h1 : key.length = 97) (h2 : s.sec.life = 2) (h5 : s.sec.trngStopped = false)
      (h6 : sigOk s 0x0F03 (keySetArgs slot.toNat 1 ki.toNat key) ki.toNat sig.toNat key = false) :
    Replies (execSecKeySet r slot true ki sig key s) r 0x0F03 .auth [] { s with
      sec := { s.sec with nonce := (freeNow s).extractLsb' 0 384, drbg := s.sec.drbg + 1 }
      free := s.free + 1 } := by
  unfold execSecKeySet
  generalize packRecord _ _ = args
  have b : ∀ q x, x.sec = s.sec → x.free = s.free → bodySecKeySet slot.toNat (bit true) ki.toNat sig.toNat key q x =
      { state := { x with sec := { s.sec with nonce := (freeNow s).extractLsb' 0 384, drbg := s.sec.drbg + 1 }, free := s.free + 1 }, status := .auth } := by
    intro q x e1 e3
    have hk : keySet slot.toNat 1 ki.toNat sig.toNat key x = refuse x .auth := by
      unfold keySet
      dsimp only
      rw [if_neg (by rw [if_pos rfl]; simp [h1]), e1, if_neg (by rw [h2]; simp), if_pos rfl, sigOk_congr e1, h6, if_pos rfl]
    unfold bodySecKeySet
    change afterSig (keySet slot.toNat 1 ki.toNat sig.toNat key x) = _
    rw [hk]
    unfold afterSig refuse drawNonce updSec useFree freeNow
    dsimp only
    rw [e1, h5, if_neg (by decide), e3]
  have := serve_replies (args := args) h (b _ _ rfl rfl) (by decide) (by intro e; cases e) rfl rfl rfl
  exact this

theorem owner_write (s : State) (r : Req) (slot ki : BitVec 3) (digest : BitVec 384) (sig : BitVec 768) (key : List Byte)
      (h : ready s r 0x0F04 = true) (h1 : key.length = 97) (h2 : s.sec.life = 2) (h3 : (ownerSlot s slot.toNat).revoked = false)
      (h3' : (ownerSlot s slot.toNat).written = false) (h4 : tooHot s = false) (h5 : s.sec.trngStopped = false)
      (h6 : sigOk s 0x0F04 (packRecord [(3, slot.toNat), (1, 0), (3, ki.toNat), (384, digest.toNat)] key) ki.toNat sig.toNat key = true) :
    Replies (execSecOwner r slot false ki digest sig key s) r 0x0F04 .ok [] { s with
      sec := { s.sec with owners := Tab.upd {} s.sec.owners slot.toNat (fun o => { o with digest := digest, written := true }),
                          nonce := (freeNow s).extractLsb' 0 384, drbg := s.sec.drbg + 1 }
      free := s.free + 1 } := by
  unfold execSecOwner
  generalize packRecord [(3, slot.toNat), (1, bit false), (3, ki.toNat), (384, digest.toNat), (768, sig.toNat)] key = args
  have b : ∀ q x, x.sec = s.sec → x.thm = s.thm → x.free = s.free → bodySecOwner slot.toNat (bit false) ki.toNat digest.toNat sig.toNat key q x =
      done { x with sec := { s.sec with owners := Tab.upd {} s.sec.owners slot.toNat (fun o => { o with digest := digest, written := true }), nonce := (freeNow s).extractLsb' 0 384, drbg := s.sec.drbg + 1 }, free := s.free + 1 } := by
    intro q x e1 e2 e3
    have ek : ownerSlot x slot.toNat = ownerSlot s slot.toNat := by unfold ownerSlot; rw [e1]
    have hk : ownerOwned slot.toNat 0 ki.toNat digest.toNat sig.toNat key x = done (writeOwner slot.toNat digest.toNat x) := by
      unfold ownerOwned
      dsimp only
      rw [if_neg (by simp [h1]), sigOk_congr e1, h6, if_neg (by decide), ek, h3, h3', if_neg (by simp), tooHot_congr e2, h4, if_neg (by decide), if_neg (by decide)]
    unfold bodySecOwner
    rw [if_neg (by rw [e1, h2]; decide), if_pos (by rw [e1, h2])]
    change afterSig (ownerOwned slot.toNat 0 ki.toNat digest.toNat sig.toNat key x) = _
    rw [hk]
    unfold afterSig done writeOwner drawNonce updSec useFree freeNow
    dsimp only
    rw [e1, h5, if_neg (by decide), e3, BitVec.ofNat_toNat, BitVec.setWidth_eq]
  generalize Tab.upd (α := OwnerSlot) _ _ _ _ = V at b ⊢
  exact serve_ok h (b _ _ rfl rfl rfl)

theorem life_begin (s : State) (r : Req) (target ki : BitVec 3) (sig : BitVec 768) (key : List Byte) (h : ready s r 0x0F05 = true)
      (h1 : lifeStep s.sec.life.toNat target.toNat = true)
      (h2 : ∀ g, g < 32 → regionIs s g .running = false ∧ regionIs s g .held = false) (h3 : s.sec.pending = none) (h4 : s.load.job = none)
      (h5 : tooHot s = false) (h6 : s.sec.trngStopped = false) (h7 : domOn s 2 = true)
      (h8 : s.sec.life = 1 ∨ sigOk s 0x0F05 (packRecord [(3, target.toNat), (3, ki.toNat)] key) ki.toNat sig.toNat key = true) :
    Replies (execSecLifecycle r target ki sig key s) r 0x0F05 .pending [] (withPend r 0x0F05 1 { s with
      prt := { s.prt with key := false }
      sec := { s.sec with pending := some (some (originOf r 0x0F05), s.sec.life, target), vault := [], wiping := true,
                          nonce := (freeNow s).extractLsb' 0 384, drbg := s.sec.drbg + 1 }
      free := s.free + 1 }) := by
  unfold execSecLifecycle
  generalize packRecord [(3, target.toNat), (3, ki.toNat), (768, sig.toNat)] key = args
  have b : ∀ q x, x.sec = s.sec → x.thm = s.thm → x.free = s.free → x.ctx = s.ctx → x.load = s.load → x.pwr = s.pwr → x.prt = s.prt →
      bodySecLifecycle target.toNat ki.toNat sig.toNat key q x = { state := { x with prt := { s.prt with key := false }, sec := { s.sec with pending := some (some q, s.sec.life, target), vault := [], wiping := true, nonce := (freeNow s).extractLsb' 0 384, drbg := s.sec.drbg + 1 }, free := s.free + 1 }, status := .pending } := by
    intro q x e1 e2 e3 e4 e5 e6 e7
    have hk : lifecycle target.toNat ki.toNat sig.toNat key q x = { state := beginTransition (some q) target x, status := .pending } := by
      unfold lifecycle
      rw [e1, h1, if_neg (by decide), if_neg, e5, h4, if_neg (by simp), tooHot_congr e2, h5, if_neg (by decide), if_neg, BitVec.ofNat_toNat, BitVec.setWidth_eq]
      · rintro ⟨a, b⟩
        rcases h8 with c | c
        · exact a c
        · rw [sigOk_congr e1, c] at b; cases b
      · rintro (a | a)
        · rw [List.any_eq_true] at a
          obtain ⟨g, hg, hh⟩ := a
          obtain ⟨c, d⟩ := h2 g (List.mem_range.mp hg)
          have c' : regionIs x g .running = false := by rw [← c]; unfold regionIs; rw [regionOf_congr e4]
          have d' : regionIs x g .held = false := by rw [← d]; unfold regionIs; rw [regionOf_congr e4]
          rw [c', d'] at hh
          cases hh
        · exact a h3
    have hw : domOn (updSec (fun y => { y with pending := some (some q, y.life, target) }) x) 2 = true := by
      rw [← h7]; unfold domOn; rw [domOf_congr (x := updSec _ x) (y := s) e6]
    unfold bodySecLifecycle
    rw [hk]
    unfold beginTransition beginWipe
    dsimp only
    rw [hw, if_pos rfl]
    unfold afterSig drawNonce zeroiseKey updPrt updSec useFree freeNow
    dsimp only
    rw [e1, h6, if_neg (by decide), e3, e7]
  exact serve_open h (b _ _ rfl rfl rfl rfl rfl rfl rfl)

theorem takeTamper_facts (c : Byte) (on : Bool) (s : State) : (takeTamper c on s).prt.key = false ∧ (takeTamper c on s).sec.lastCause = c ∧
    (takeTamper c on s).sec.redraw = true ∧ (takeTamper c on s).sec.tampers = satAdd s.sec.tampers 1 ∧ (takeTamper c on s).mbx.chans = s.mbx.chans := by
  have hc : ∀ x : State, (cutOff x).prt = x.prt ∧ (cutOff x).sec.lastCause = x.sec.lastCause ∧ (cutOff x).sec.redraw = x.sec.redraw ∧
      (cutOff x).sec.tampers = x.sec.tampers ∧ (cutOff x).mbx.chans = x.mbx.chans := by
    intro x
    have key : ∀ (y : State) (o : Option Origin) (ev : Ev), (finishOpt o ev noUnit .internal y).prt = y.prt ∧ (finishOpt o ev noUnit .internal y).sec = y.sec ∧
        (finishOpt o ev noUnit .internal y).mbx.chans = y.mbx.chans := fun y o ev =>
      ⟨(finishOpt_frame ..).same .prt (by decide), (finishOpt_frame ..).same .sec (by decide), (finishOpt_frame ..).same .chans (by decide)⟩
    unfold cutOff
    dsimp only
    split
    next p _ _ =>
      split
      · split
        · split <;> refine ⟨?_, ?_, ?_, ?_, ?_⟩ <;> first | rfl | (rw [(key _ _ _).1]; rfl) | (rw [(key _ _ _).2.1]; rfl) | (rw [(key _ _ _).2.2]; rfl)
        · refine ⟨rfl, rfl, rfl, rfl, rfl⟩
      · split
        · split <;> refine ⟨?_, ?_, ?_, ?_, ?_⟩ <;> simp only [(key _ _ _).1, (key _ _ _).2.1, (key _ _ _).2.2] <;> rfl
        · refine ⟨?_, ?_, ?_, ?_, ?_⟩ <;> simp only [(key _ _ _).1, (key _ _ _).2.1, (key _ _ _).2.2] <;> rfl
    next =>
      split
      · split <;> refine ⟨?_, ?_, ?_, ?_, ?_⟩ <;> first | rfl | (rw [(key _ _ _).1]; rfl) | (rw [(key _ _ _).2.1]; rfl) | (rw [(key _ _ _).2.2]; rfl)
      · refine ⟨rfl, rfl, rfl, rfl, rfl⟩
  unfold takeTamper
  dsimp only
  rw [(raise_frame ..).same .prt (by decide), (raise_frame ..).same .sec (by decide)]
  have hr := (raise_frame .tamper [(8, c.toNat)] (cutOff (if s.sec.wiping = true ∨ s.sec.pending ≠ none then zeroiseKey (updSec (fun x => { x with tampers := satAdd x.tampers 1, lastCause := c, redraw := true, tamper := x.tamper || on }) s) else beginWipe (updSec (fun x => { x with tampers := satAdd x.tampers 1, lastCause := c, redraw := true, tamper := x.tamper || on }) s)))).same .chans (by decide)
  refine ⟨?_, ?_, ?_, ?_, hr.trans ?_⟩
  all_goals
    first
      | rw [(hc _).1] | rw [(hc _).2.1] | rw [(hc _).2.2.1] | rw [(hc _).2.2.2.1] | rw [(hc _).2.2.2.2]
    split
    · rfl
    · unfold beginWipe
      dsimp only
      split <;> rfl

theorem popTok_src {k : Nat} (h : k < 64) (s : State) : (popTok k s) = updDspSrc k (fun x => { x with head := none, stalled := false }) s := by
  unfold popTok; rw [if_pos h]

theorem dspSrc_upd (k : Nat) (f : DspSource → DspSource) (s : State) : dspSrc (updDspSrc k f s) k = f (dspSrc s k) := by
  unfold dspSrc updDspSrc updDsp
  exact Tab.get_upd_same ..

theorem take_act {mine : Nat → Bool} {act : Nat → Token → State → State} {s : State} {k : Nat} {t : Token} (h1 : dspUp s = true)
    (h2 : nextTok s = some (k, t)) (h3 : mine (tkKind t) = true) (h4 : tkMalformed t = false) (h5 : doneOnly s k = false ∨ tkKind t = 3)
    (h6 : mustHold s k t = false) (h7 : k < 64) :
    takeTok mine act s = updDspSrc k (fun x => { x with head := none, stalled := false }) (act k t (updDsp (fun d => { d with rot := k }) s)) := by
  unfold takeTok
  rw [h1, if_neg (by decide), h2]
  dsimp only
  rw [h3, if_neg (by decide), h4, h6, if_neg (by rcases h5 with a | a; rw [a]; simp; rw [a]; simp), if_neg (by decide), popTok_src h7]

theorem discard_facts (k c : Nat) (t : Token) (s : State) : (discard k c t s).dsp.flows = s.dsp.flows ∧ (discard k c t s).dsp.items = s.dsp.items ∧
    Tab.get 0 (discard k c t s).dsp.errs c = satAdd (Tab.get 0 s.dsp.errs c) 1 ∧ (discard k c t s).dsp.sources = s.dsp.sources := by
  have h1 : ∀ x : State, x.dsp.errs = Tab.upd 0 s.dsp.errs c (fun n => satAdd n 1) → Tab.get 0 x.dsp.errs c = satAdd (Tab.get 0 s.dsp.errs c) 1 := by
    intro x e; rw [e, Tab.get_upd_same]
  have hr : ∀ (l : List (Nat × Nat)) (x : State), (raise .dspToken l x).dsp = x.dsp := fun l x => (raise_frame ..).same .dsp (by decide)
  unfold discard
  dsimp only
  split
  · rw [if_pos rfl, hr]
    exact ⟨rfl, rfl, h1 _ rfl, rfl⟩
  · split
    · rw [hr]
      exact ⟨rfl, rfl, h1 _ rfl, rfl⟩
    · exact ⟨rfl, rfl, h1 _ rfl, rfl⟩

theorem dead_groups_alive {s : State} {x : Item} {f : FlowEnt} (h : eligibleItems s = [x]) (h2 : flowOf s x.flow = some f)
    (h3 : groupAlive s f.group = true) : noteDeadGroups s = s := by
  unfold noteDeadGroups
  rw [h, List.foldl_cons, List.foldl_nil, h2]
  dsimp only
  rw [h3]
  rfl

theorem endService_of {k : BitVec 32} {x s : State} (h : x.dsp = s.dsp) : endService k x = { x with dsp := (endService k s).dsp } := by
  have h1 : ∀ (y z : State), y.dsp = z.dsp → ∀ f, (updDsp f y) = { y with dsp := f z.dsp } := by intro y z e f; unfold updDsp; rw [e]
  have hm : ∀ y z : State, y.dsp = z.dsp → makeEligible k y = { y with dsp := (makeEligible k z).dsp } := by
    intro y z e
    unfold makeEligible flowOf
    rw [e]
    split
    · split
      · rw [← e]
      · split
        · rw [← e]
        · unfold updItem updDsp
          dsimp only
          rw [e]
    · rw [← e]
  have hf : ∀ y z : State, y.dsp = z.dsp → freeFlow k y = { y with dsp := (freeFlow k z).dsp } := by
    intro y z e
    unfold freeFlow flowOf
    rw [e]
    split
    · split
      · unfold updDsp
        dsimp only
        rw [e]
      · rw [← e]
    · rw [← e]
  unfold endService
  have hu : (updFlow k (fun f => { f with tag := none }) x) = { x with dsp := (updFlow k (fun f => { f with tag := none }) s).dsp } := by
    unfold updFlow updDsp
    dsimp only
    rw [h]
  rw [hu]
  have e2 := hm { x with dsp := (updFlow k (fun f => { f with tag := none }) s).dsp } (updFlow k (fun f => { f with tag := none }) s) rfl
  rw [e2]
  exact hf { x with dsp := (makeEligible k (updFlow k (fun f => { f with tag := none }) s)).dsp } (makeEligible k (updFlow k (fun f => { f with tag := none }) s)) rfl

theorem dspUp_congr {x s : State} (h : x.pwr = s.pwr) : dspUp x = dspUp s := by unfold dspUp; rw [domCut_congr h]

theorem dspStatus_congr {x s : State} (h1 : x.dsp = s.dsp) (h2 : x.pwr = s.pwr) (h3 : x.mem = s.mem) (h4 : x.start = s.start) (h5 : x.clk = s.clk) :
    dspCfgWords x = dspCfgWords s ∧ engWord x = engWord s ∧ srcWord x = srcWord s := by
  have hd : ∀ e, dspEng x e = dspEng s e := by intro e; unfold dspEng; rw [h1]
  have hs : ∀ e, dspSrc x e = dspSrc s e := by intro e; unfold dspSrc; rw [h1]
  have hb : ∀ g, blockNow x g = blockNow s g := by
    intro g
    unfold blockNow inboxLimit
    rw [blockOf_congr h3, h1, h5]
  have hf : ∀ e, engFree x e = engFree s e := by
    intro e
    unfold engFree wordsDue
    simp only [hd, hb, h1, unavailable_congr h3 h2 h4]
  refine ⟨?_, ?_, ?_⟩
  · unfold dspCfgWords; rw [h1]
  · funext e; unfold engWord; rw [hd, hf]
  · funext e; unfold srcWord; rw [hs]

theorem boundElse_congr {x s : State} (h : x.dsp = s.dsp) (a b : Option Nat) (g : Nat) : boundElse x a b g = boundElse s a b g := by
  unfold boundElse; rw [h]

theorem blockRetired_congr {x s : State} (h : x.start = s.start) (g : Nat) : blockRetired x g = blockRetired s g := by
  unfold blockRetired skipOf; rw [h]

theorem fresh_room {time u : Nat} {rise coin unsync : Bool} {y : Pin} {tick : Int} (h : y.fifo.length < 16) :
    (Pin.commit.fresh time u rise coin unsync y tick).fifo = y.fifo ++ [{ time := BitVec.ofInt 64 (tick / 16), tick := BitVec.ofInt 4 (tick % 16), rise := rise, coin := coin, merged := false, ovf := false, unsync := unsync, from_ := u + 4 + glitchFc y }] ∧
    (Pin.commit.fresh time u rise coin unsync y tick).total = satAdd y.total 1 ∧ (Pin.commit.fresh time u rise coin unsync y tick).level = y.level := by
  unfold Pin.commit.fresh Pin.see
  dsimp only
  rw [if_pos h]
  exact ⟨rfl, rfl, rfl⟩

theorem fresh_full {time u : Nat} {rise coin unsync : Bool} {y : Pin} {tick : Int} (h : 16 ≤ y.fifo.length) :
    (Pin.commit.fresh time u rise coin unsync y tick).fifo = y.fifo ∧
    (Pin.commit.fresh time u rise coin unsync y tick).lost = satAdd y.lost 1 ∧ (Pin.commit.fresh time u rise coin unsync y tick).ovfDue = true := by
  unfold Pin.commit.fresh Pin.see
  dsimp only
  rw [if_neg (by omega)]
  exact ⟨rfl, rfl, rfl⟩

theorem bankPins_nodup (nn : Nat) : ((List.range 48).map (fun m => 48 * nn + m)).Nodup := by
  refine List.Pairwise.map _ ?_ List.nodup_range
  intro a b h hab
  exact h (by omega)

theorem updBankPins_pin (nn m : Nat) (hm : m < 48) (f : Nat → Pin → Pin) (s : State) :
    pinOf (updBankPins nn f s) (48 * nn + m) = f (48 * nn + m) (pinOf s (48 * nn + m)) := by
  unfold updBankPins
  rw [pinOf_forEach (bankPins_nodup nn), if_pos (List.mem_map.mpr ⟨m, List.mem_range.mpr hm, rfl⟩)]

theorem updBankPins_bank (nn k : Nat) (f : Nat → Pin → Pin) (s : State) : bankOf (updBankPins nn f s) k = bankOf s k := by
  unfold updBankPins
  generalize (List.range 48).map (fun m => 48 * nn + m) = l
  induction l generalizing s with
  | nil => rfl
  | cons a l ih => rw [forEach_cons, ih]; rfl

theorem maskPins_nodup (nn m : Nat) : (maskPins nn m).Nodup := by
  unfold maskPins
  refine List.Pairwise.map _ ?_ (List.nodup_range.filter _)
  intro a b h hab
  exact h (by omega)

theorem pinNow_congr {x s : State} (e1 : x.pins = s.pins) (e2 : x.clk = s.clk) (p : Nat) : pinNow x p = pinNow s p := by
  have h1 : ∀ q, settleEdge x q = settleEdge s q := by
    intro q; unfold settleEdge seenFc; rw [e2]
  have h2 : ∀ q, settleWin x q = settleWin s q := by
    intro q; unfold settleWin winResult; rw [e2]
  unfold pinNow
  rw [h1, h2, pinOf_congr e1]

theorem bankWord_congr {x s : State} (e1 : x.pins = s.pins) (e5 : x.pwr = s.pwr) (e6 : x.load = s.load) (n : Nat) : bankWord x n = bankWord s n := by
  unfold bankWord domOn
  rw [bankOf_congr e1, domOf_congr e5, e6]

theorem pinState_congr {x s : State} (e1 : x.pins = s.pins) (e2 : x.clk = s.clk) (e3 : x.ext = s.ext) (e4 : x.start = s.start) (e5 : x.pwr = s.pwr)
    (e6 : x.load = s.load) (e7 : x.ctx = s.ctx) (p : Nat) : pinState x p = pinState s p := by
  unfold pinState pinUnpowered pinProbed bankReleased domOn regionIs
  rw [bankOf_congr e1, pinOf_congr e1, domOf_congr e5, regionOf_congr e7, e1, e2, e3, e4, e6]

theorem pinStatus_congr {x s : State} (e1 : x.pins = s.pins) (e2 : x.clk = s.clk) (e3 : x.ext = s.ext) (e4 : x.start = s.start) (e5 : x.pwr = s.pwr)
    (e6 : x.load = s.load) (e7 : x.ctx = s.ctx) (p : Nat) : pinStatusWord x p = pinStatusWord s p := by
  unfold pinStatusWord
  rw [pinNow_congr e1 e2, pinState_congr e1 e2 e3 e4 e5 e6 e7]

theorem pinCount_congr {x s : State} (e1 : x.pins = s.pins) (e2 : x.clk = s.clk) (p : Nat) : pinCountWord x p = pinCountWord s p := by
  unfold pinCountWord
  rw [pinNow_congr e1 e2]

theorem pins_mbx (l : List Nat) (f : Nat → Pin → Pin) (s : State) : (forEach l (fun p => updPin p (f p)) s).mbx = s.mbx := by
  induction l generalizing s with
  | nil => rfl
  | cons a l ih => rw [forEach_cons, ih]; rfl

end Sys2Proof.Machine
end

