-- ==== Sys2Proof/Laws/StepsRepair.lean ====
section
/-! SUPPORT. Helper laws of test, repair and the loader. -/

set_option Elab.async false

open Sys2Proof Sys2Proof.Machine

namespace Sys2Proof.Machine

theorem finishOpt_start (o : Option Origin) (ev : Ev) (u : Nat) (st : Status) (s : State) : (finishOpt o ev u st s).start = s.start :=
  (finishOpt_frame ..).same .start (by decide)

theorem finish_start (o : Origin) (ev : Ev) (u : Nat) (st : Status) (s : State) : (finish o ev u st s).start = s.start :=
  (finish_frame ..).same .start (by decide)

theorem useSpare_used (g : TsvGroup) (k : Nat) (s : State) : (useSpare g k s).start.tsvUsed = s.start.tsvUsed ++ [g] := by
  unfold useSpare
  rw [(raise_frame ..).same .start (by decide)]
  rfl

theorem endSwapHold_start (r : Nat) (s : State) : (endSwapHold r s).start = s.start := (endSwapHold_frame ..).same .start (by decide)

theorem writeRecord_map (f : RepairRec → RepairRec) (s : State) : (writeRecord f s).start.map = s.start.map := by
  unfold writeRecord
  dsimp only
  by_cases h : tooHot s = true
  · rw [if_pos h]
  · rw [if_neg h]

theorem addMap_map (e : W64) (a b : Nat) (s : State) (h1 : s.start.map = []) (h2 : persistentCause (rmCause e) = true)
    (h3 : (recordNow s).map.length < 256) : (addMap e a b s).start.map = [persistentEntry e] := by
  unfold addMap
  rw [if_neg (by rw [h1]; simp)]
  dsimp only
  have k : s.start.map.length < 4096 := by rw [h1]; simp
  simp only [h2, k, h3, decide_true, if_true, Bool.and_self, writeRecord_map]
  rw [h1]
  rfl

theorem cause_of (A : Nat) (h : A < 8589934592) : (A + 25769803776) % 2 ^ 64 / 2 ^ 33 % 2 ^ 4 = 3 := by
  simp only [Nat.reducePow]
  omega

theorem tileEntry_word (B P r : Nat) : fieldsWord [(0, 0 % 16), (4, 0 % 32), (9, r % 32), (14, B), (16, 0 % 4096), (28, P % 32),
    (33, 3 % 16), (37, bit false)] = r % 32 * 512 + B * 16384 + P % 32 * 268435456 + 25769803776 := by
  simp [fieldsWord, bit]

theorem tileEntry_cause (s : State) (l : Bool) (c r : Nat) : rmCause (tileEntry s l c r 3) = 3 := by
  have h1 : bit l ≤ 1 := by cases l <;> decide
  unfold tileEntry rmCause mapEntry field
  rw [BitVec.toNat_ofNat]
  generalize bit l = B at *
  generalize physOf (skipOf s l) c = P
  rw [tileEntry_word]
  refine cause_of _ ?_
  omega

theorem holdAll_kept (l : List Nat) (s : State) (r : Nat) (h : (regionOf s r).st = .held) :
    (regionOf (forEach l (fun r s => if regionIs s r .running then leaveRunning r .held 6 s else s) s) r).st = .held := by
  induction l generalizing s with
  | nil => exact h
  | cons k l ih =>
    rw [forEach_cons]
    apply ih
    split
    · rw [leaveRunning_st]; split <;> simp [h]
    · exact h

theorem holdAll_st (l : List Nat) (s : State) (r : Nat) (h : regionIs s r .running = true) (hm : r ∈ l) :
    (regionOf (forEach l (fun r s => if regionIs s r .running then leaveRunning r .held 6 s else s) s) r).st = .held := by
  induction l generalizing s with
  | nil => cases hm
  | cons k l ih =>
    rw [forEach_cons]
    by_cases hk : r = k
    · subst hk
      apply holdAll_kept
      rw [if_pos h, leaveRunning_st, if_pos rfl]
    · refine ih _ ?_ (by simpa [hk] using hm)
      split
      · unfold regionIs at h ⊢
        rw [leaveRunning_st, if_neg hk]
        exact h
      · exact h

theorem setTest_get (r : Nat) (v : Byte) (s : State) : Tab.get 0 (setTest r v s).start.results r = v :=
  Tab.get_set_same (0 : Byte) s.start.results r v

theorem startTests_none (s : State) (h : s.start.tests = []) : startTests s = s := by
  unfold startTests startTestsGo updStart
  rw [h]
  dsimp only
  conv => lhs; rw [← h]

theorem clearAll_start (l : List Nat) (s : State) : (forEach l (fun g => updBlock g clearedBlock) s).start = s.start := by
  induction l generalizing s with
  | nil => rfl
  | cons k l ih => rw [forEach_cons, ih]; rfl

theorem mem_count (b n g : Nat) : g ∈ (List.range n).map (fun i => b + i) ↔ b ≤ g ∧ g < b + n := by
  simp only [List.mem_map, List.mem_range]
  constructor
  · rintro ⟨i, h1, rfl⟩; omega
  · rintro ⟨h1, h2⟩; exact ⟨g - b, by omega, by omega⟩

theorem count_nodup (b n : Nat) : ((List.range n).map (fun i => b + i)).Nodup := by
  refine List.Pairwise.map _ ?_ List.nodup_range
  intro x y h e
  exact h (by omega)

theorem mask_one : ∀ i : Fin 32, maskRegions (1#32 <<< i.val).toNat = [i.val] := by decide

theorem recordNow_write (f : RepairRec → RepairRec) (s : State) : ∃ g, recordNow (writeRecord f s) = { f (recordNow s) with gen := g } := by
  unfold writeRecord recordNow
  dsimp only
  by_cases h : tooHot s = true
  · rw [if_pos h]; exact ⟨_, rfl⟩
  · rw [if_neg h]; exact ⟨_, rfl⟩

theorem recordNow_congr {x s : State} (h : x.start = s.start) : recordNow x = recordNow s := by unfold recordNow; rw [h]

theorem startTestsGo_one (t : RegionTest) (s : State) (h : t.running = false) (h2 : t.parallel = 1) :
    startTestsGo [] [t] s = updStart (fun x => { x with tests := [{ t with running := true }] }) (zeroCarryOver t.region (updRegion t.region (fun g => { g with slots := [] }) s)) := by
  unfold startTestsGo
  rw [if_neg (by rw [h]; decide), if_pos (by rw [h2]; decide)]
  rfl

theorem analogAllowed_congr {x s : State} (h1 : x.lnk = s.lnk) (h2 : x.pwr = s.pwr) (h3 : x.dram = s.dram) (h4 : x.load = s.load) (u i : Nat) :
    analogAllowed x u i = analogAllowed s u i := by
  unfold analogAllowed domOn
  rw [portOf_congr h1, h3, h4]
  simp only [domOf_congr h2]

theorem reportedMap_congr {x s : State} (h : x.start = s.start) : reportedMap x = reportedMap s := by
  unfold reportedMap reported skipOf
  rw [h]

theorem addMap_rr (e : W64) (a b : Nat) (s : State) (h1 : s.start.map = []) (h2 : persistentCause (rmCause e) = true)
    (h3 : (recordNow s).map.length < 256) (h4 : tooHot s = false) : (addMap e a b s).start.rr.map = (recordNow s).map ++ [persistentEntry e] := by
  unfold addMap
  rw [if_neg (by rw [h1]; simp)]
  dsimp only
  have k : s.start.map.length < 4096 := by rw [h1]; simp
  simp only [h2, k, h3, decide_true, if_true, Bool.and_self]
  unfold writeRecord
  dsimp only
  rw [if_neg (by change ¬ (tooHot s = true); rw [h4]; decide)]
  rfl

theorem dropSame (n : W64) (s : State) (h : s.start.map = []) : updStart (fun y => { y with map := y.map.filter (fun z => !sameResource n z) }) s = s := by
  cases s with
  | mk e st =>
    cases st
    unfold updStart
    dsimp only at h ⊢
    rw [h]
    rfl

theorem dropPartial_st (r : Nat) (s : State) (c : Nat) : (chanOf (dropPartial r s) c).st = (chanOf s c).st := by
  have h : ∀ k : Nat, (chanOf (updChan k (fun ch => { ch with reqQ := wholeRequests ch.reqQ }) s) c).st = (chanOf s c).st := by
    intro k
    by_cases hk : c = k
    · subst hk; rw [chanOf_updChan_same]
    · rw [chanOf_updChan_ne _ _ hk]
  unfold dropPartial mbxIn
  split
  · exact h 8
  · split
    · exact h 9
    · split
      · exact h 10
      · split
        · exact h 11
        · rfl

theorem loseSlot_ch (r k : Nat) (cause : BitVec 4) (s : State) (c : Nat) : (chanOf (loseSlot r k cause s) c).st = (chanOf s c).st := by
  unfold loseSlot
  split
  · unfold faultRegion
    dsimp only
    rw [chanOf_congr ((raise_frame ..).same .chans (by decide)), chanOf_congr ((clearSlot_frame ..).same .chans (by decide))]
    split
    · unfold leaveRunning
      dsimp only
      rw [chanOf_congr ((updRegion_frame ..).same .chans (by decide)), dropPartial_st, chanOf_congr ((dropSwitch_frame ..).same .chans (by decide)),
        chanOf_congr ((presentBorders_frame ..).same .chans (by decide))]
    · rfl
  · rw [chanOf_congr ((invalidateSlot_frame ..).same .chans (by decide))]

theorem forEach_keep {α : Type} (g : State → α) (f : Nat → State → State) (h : ∀ k s, g (f k s) = g s) (l : List Nat) (s : State) :
    g (forEach l f s) = g s := by
  induction l generalizing s with
  | nil => rfl
  | cons k l ih => rw [forEach_cons, ih, h]

theorem applyRetire_ch (e : W64) (s : State) (c : Nat) : (chanOf (applyRetire e s) c).st = (chanOf s c).st := by
  unfold applyRetire
  refine forEach_keep (fun s => (chanOf s c).st) _ (fun r s => ?_) _ _
  refine forEach_keep (fun s => (chanOf s c).st) _ (fun k s => ?_) _ _
  dsimp only
  split
  · split
    · exact loseSlot_ch ..
    · rfl
  · rfl

theorem consume_shape (n : Nat) (s : State) (j : LoadJob) (h : s.load.job = some j) :
    ∃ l : Load, l.store = s.load.store ∧ l.boot = s.load.boot ∧ l.job = some { j with bytes := j.bytes + n } ∧ consume n s = { s with load := l } := by
  unfold consume
  rw [h]
  dsimp only
  split
  · exact ⟨{ s.load with job := some { j with bytes := j.bytes + n }, rptr := s.load.rptr + BitVec.ofNat 64 n }, rfl, rfl, rfl, rfl⟩
  · split
    · exact ⟨{ s.load with job := some { j with bytes := j.bytes + n }, jtagBytes := s.load.jtagBytes.drop n }, rfl, rfl, rfl, rfl⟩
    · exact ⟨{ s.load with job := some { j with bytes := j.bytes + n } }, rfl, rfl, rfl, rfl⟩

theorem updJob_some (f : LoadJob → LoadJob) (s : State) (j : LoadJob) (h : s.load.job = some j) :
    updJob f s = { s with load := { s.load with job := some (f j) } } := by
  unfold updJob
  rw [h]

theorem endFailed_service (x : LoadFail) (s : State) (j : LoadJob) (h : s.load.job = some j) (hb : j.boot = false) :
    ∃ t, endFailed x s = t ∧ t.load.job = none ∧ t.load.result.status = x.status ∧ t.load.result.check = x.check ∧ t.load.store = s.load.store := by
  unfold endFailed
  rw [h]
  dsimp only
  rw [if_neg (by rw [hb]; decide)]
  refine ⟨_, rfl, ?_, ?_, ?_, ?_⟩
  · rw [(finishOpt_frame ..).same .load (by decide)]; rfl
  · rw [(finishOpt_frame ..).same .load (by decide)]; rfl
  · rw [(finishOpt_frame ..).same .load (by decide)]; rfl
  · rw [(finishOpt_frame ..).same .load (by decide)]; rfl

theorem slot_upd (r k : Nat) (f : Slot → Slot) (s : State) : (regionOf (updRegion r (fun g => g.updSlot k f) s) r).slot k = f ((regionOf s r).slot k) := by
  rw [regionOf_updRegion_same]
  exact Tab.get_upd_same ..

theorem setLoad_init (es : List BlockEntry) (s : State) : (es.foldl applyEntry s).load = s.load := by
  rw [(Frame.fold (fun s a => applyEntry_frame ..) es s).same .load (by decide)]

theorem clearBusy_init (l : List Nat) (s : State) : (forEach l (fun g => updBlock g (fun b => { b with initBusy := false })) s).mem.init = s.mem.init := by
  exact forEach_keep (fun s => s.mem.init) (fun g => updBlock g (fun b => { b with initBusy := false })) (fun k s => rfl) l s

theorem useNone_set {α : Type} [DecidableEq α] (d : α) (t : Tab α) (k : Nat) (v : α) : Tab.get d (Tab.set d t k v) k = v := Tab.get_set_same ..

theorem bootCheck_done (s : State) (h : s.load.boot = .complete) : bootCheck s = s := by
  unfold bootCheck
  rw [h]
  split <;> first | rfl | (rename_i h1 h2; cases h2)

theorem pruneFold_ctx (l : List (Nat × Option ChanUse)) (s : State) (f : State → Nat × Option ChanUse → State) (hf : ∀ s e, (f s e).ctx = s.ctx) :
    (l.foldl f s).ctx = s.ctx := by
  induction l generalizing s with
  | nil => rfl
  | cons a l ih => rw [List.foldl_cons, ih, hf]

theorem emptySlot_queue (r k : Nat) (s : State) : (emptySlot r k s).ctx.queue = s.ctx.queue := by
  unfold emptySlot clearSlot
  rw [(pruneChans_frame ..).same .ctx (by decide)]
  rfl

theorem verifySlot_load (r : Nat) (k : Fin 4) (x : BitVec 4) (c : Stored) (s : State) : (verifySlot r k x c s).load = s.load :=
  (verifySlot_frame ..).same .load (by decide)

theorem verifySlot_queue (r : Nat) (k : Fin 4) (x : BitVec 4) (c : Stored) (s : State) : (verifySlot r k x c s).ctx.queue = s.ctx.queue := by
  unfold verifySlot
  dsimp only
  split
  · rw [(presentBorders_frame ..).same .ctx (by decide)]; rfl
  · rfl

theorem verifySlot_slot (r : Nat) (k : Fin 4) (x : BitVec 4) (c : Stored) (s : State) :
    ((regionOf (verifySlot r k x c s) r).slot k.val).st = .verified ∧ ((regionOf (verifySlot r k x c s) r).slot k.val).plane = c.frames := by
  have e : ∀ (q : Slot) (g g0 : Region), g.slots = Tab.upd {} g0.slots k.val (fun _ => q) → g.slot k.val = q := by
    intro q g g0 hg
    unfold Region.slot
    rw [hg]
    exact Tab.get_upd_same ({} : Slot) g0.slots k.val (fun _ => q)
  let q : Slot := { st := .verified, ctx := x, desc := some c.desc, chans := c.chans, plane := c.frames }
  let Q : Slot := { q with regs := initRegs q }
  unfold verifySlot
  dsimp only
  split
  · rw [regionOf_congr ((presentBorders_frame ..).same .ctx (by decide)), regionOf_updRegion_same, regionOf_updRegion_same]
    exact ⟨congrArg Slot.st (e Q _ (regionOf s r) rfl), congrArg Slot.plane (e Q _ (regionOf s r) rfl)⟩
  · rw [regionOf_updRegion_same]
    exact ⟨congrArg Slot.st (e Q _ (regionOf s r) rfl), congrArg Slot.plane (e Q _ (regionOf s r) rfl)⟩

theorem verifySlot_st (r : Nat) (k : Fin 4) (x : BitVec 4) (c : Stored) (s : State) :
    (regionOf (verifySlot r k x c s) r).st = if (regionOf s r).st = .blank then .ready else (regionOf s r).st := by
  unfold verifySlot
  dsimp only
  split
  · rw [regionOf_congr ((presentBorders_frame ..).same .ctx (by decide)), regionOf_updRegion_same, regionOf_updRegion_same]
  · rw [regionOf_updRegion_same]

theorem contextUsed_congr {x s : State} (h : x.ctx = s.ctx) (r c : Nat) : contextUsed x r c = contextUsed s r c := by
  unfold contextUsed
  rw [h, regionOf_congr h]

theorem loadingContext_congr {x s : State} (h : x.load = s.load) (r c : Nat) : loadingContext x r c = loadingContext s r c := by
  unfold loadingContext
  rw [h]

end Sys2Proof.Machine
end

