-- ==== Sys2Proof/Laws/StepsWhole.lean ====
section
/-! SUPPORT. Helper laws over all commands: the moves of the life-cycle state, packed arguments, and updates that touch one pin, block or DRAM channel. -/

set_option Elab.async false

open Sys2Proof Sys2Proof.Machine

namespace Sys2Proof.Machine

theorem NextFrame.of {w W : List Part} {s t : State} {o : Host.Outcome State Fault Refusal} (h : NextFrame w s o) (e : o = .next t)
    (hw : Part.sub w W = true := by rfl) : Frame W s t := by
  obtain ⟨u, hu, f⟩ := h
  rw [e] at hu
  cases hu
  exact f.after (Frame.refl _ _) hw

theorem NextFrame.ans {W : List Part} {s : State} {o : Host.Outcome State Fault Refusal} (h : NextFrame W s o)
    (hp : W.contains .pending = false) : ∃ t, o = .next t ∧ t.pending = s.pending := by
  obtain ⟨u, hu, f⟩ := h
  exact ⟨u, hu, f.same .pending hp⟩

structure Moves (s t : State) : Prop where
  go : lifeInv s → t.sec.life = s.sec.life ∨ legalTransition s.sec.life t.sec.life = true

theorem Moves.keep {s t : State} (h : t.sec.life = s.sec.life) : Moves s t := ⟨fun _ => .inl h⟩

theorem Moves.after {W : List Part} {s x y : State} (f : Frame W x y) (m : Moves s x) (hw : W.contains .life = false := by rfl) : Moves s y := by
  refine ⟨fun hi => ?_⟩
  have e : y.sec.life = x.sec.life := f.same .life hw
  rw [e]
  exact m.go hi

theorem Moves.before {W : List Part} {s x y : State} (f : Frame W s x) (m : Moves x y) (hw : W.contains .life = false := by rfl)
    (hv : W.contains .inv = false := by rfl) : Moves s y := by
  refine ⟨fun hi => ?_⟩
  have e : x.sec.life = s.sec.life := f.same .life hw
  rw [← e]
  exact m.go (f.same .inv hv hi)

theorem transitionEffects_life (o n : BitVec 3) (s : State) : (transitionEffects o n s).sec.life = s.sec.life :=
  (transitionEffects_frame ..).same .life rfl

theorem cutTransition_moves (b : Bool) (s : State) : Moves s (cutTransition b s) := by
  refine ⟨fun hi => ?_⟩
  unfold cutTransition
  split
  · rename_i g o n hp
    obtain ⟨h1, h2⟩ := hi _ _ _ hp
    split
    · rw [transitionEffects_life]
      subst h1
      exact .inr h2
    · exact .inl rfl
  · exact .inl rfl

theorem cutWrites_moves (s : State) : Moves s (cutWrites s) := by
  unfold cutWrites
  have h (v : Nat → Bool) : Moves s (cutTag (v 1) (cutTransition (v 0) (useFree 1 s))) :=
    (Moves.before (useFree_frame ..) (cutTransition_moves ..)).after (cutTag_frame ..)
  dsimp only
  split
  · exact ((h (freeNow s).getLsbD).after (updMbx_frame (f := fun m => { m with fwUpdate := none }) (fun _ => rfl) (fun _ => rfl) _)).after (putSlot_frame ..)
  · exact h (freeNow s).getLsbD

theorem powerLost_moves (s : State) : Moves s (powerLost s) :=
  ⟨((cutWrites_moves s).after (lasting_frame ..)).go⟩

theorem fullReset_moves (s : State) : Moves s (fullReset s) :=
  ⟨((cutWrites_moves s).after (lasting_frame ..)).go⟩

theorem dropCore_moves (s : State) : Moves s (dropCore s) :=
  ⟨(cutWrites_moves s).go⟩

theorem trip_moves (n : Fin 20) (temp : Int) (s t : State) (e : execPrivilegedTrip n temp s = .next t) : Moves s t := by
  unfold execPrivilegedTrip at e
  dsimp only [setPwr_eq] at e
  split at e
  · cases e; exact .keep rfl
  · have e := Host.Outcome.next.inj e
    subst e
    refine Moves.after (queueHw_frame ..) ?_
    have h1 : Frame [.start, .clk, .pwr, .load, .ctx, .fab, .mem, .noc, .dram, .prt, .lnk, .dsp, .pins, .mbx, .chans, .evt, .free] s (dropTraffic (banksOff (dropLinks (dropDram (dropStore (dropTests (regionsDark s))))))) :=
      (dropTraffic_frame ..).after ((banksOff_frame ..).after ((dropLinks_frame ..).after ((dropDram_frame ..).after ((dropStore_frame ..).after ((dropTests_frame ..).after ((regionsDark_frame ..).after (Frame.refl _ _)))))))
    have h2 := ((((Moves.before h1 (dropCore_moves _)).after (dropBarista_frame ..)).after (dropClocks_frame ..)).after (domainsOff_frame ..))
    exact h2.after (setPwr_frame ..)

theorem done_moves (s t : State) (e : execLifecycleDone s = .next t) : Moves s t := by
  refine ⟨fun hi => ?_⟩
  unfold execLifecycleDone at e
  split at e
  · cases e; exact .inl rfl
  · rename_i o old new hp
    obtain ⟨h1, h2⟩ := hi _ _ _ hp
    subst h1
    dsimp only at e
    split at e
    · cases e; exact .inl rfl
    cases e
    refine .inr ?_
    have hl : ∀ x : State, x.sec.life = new → legalTransition s.sec.life x.sec.life = true := fun x e => by rw [e]; exact h2
    apply hl
    refine ((finishOpt_frame ..).same .life rfl).trans ?_
    refine ((raise_frame ..).same .life rfl).trans ?_
    exact transitionEffects_life ..

theorem lifestep_no (l t : BitVec 3) (h : legalTransition l t = false ∨ t = 2 ∨ l = 0) : lifeStep l.toNat t.toNat = false := by
  revert h; revert l t; decide

theorem bytesLE_length (n v : Nat) : (bytesLE n v).length = n := by
  induction n generalizing v with
  | zero => rfl
  | succ n ih => simp [bytesLE, ih]

theorem natLE_bytesLE' (n v : Nat) (h : v < 256 ^ n) : natLE (bytesLE n v) = v := by
  rw [natLE_bytesLE, Nat.mod_eq_of_lt h]

theorem two_pow_argSize (w : Nat) : 2 ^ w ≤ 256 ^ argSize w := by
  have : w ≤ 8 * argSize w := by unfold argSize; split <;> (try split) <;> (try split) <;> (try split) <;> omega
  calc 2 ^ w ≤ 2 ^ (8 * argSize w) := Nat.pow_le_pow_right (by omega) this
    _ = 256 ^ argSize w := by rw [Nat.pow_mul]

theorem argAlign_cases (w : Nat) : argAlign w = 1 ∨ argAlign w = 2 ∨ argAlign w = 4 ∨ argAlign w = 8 := by
  unfold argAlign argSize; repeat' split
  all_goals omega

theorem le_alignUp (n w : Nat) : n ≤ alignUp n (argAlign w) := by
  unfold alignUp
  rcases argAlign_cases w with e | e | e | e <;> rw [e] <;> omega

theorem packOne_length (acc : List Byte) (f : Nat × Nat) : (packOne acc f).length = alignUp acc.length (argAlign f.1) + argSize f.1 := by
  unfold packOne
  have := le_alignUp acc.length f.1
  simp [bytesLE_length]; omega

theorem fold_prefix (l : List (Nat × Nat)) (acc : List Byte) : ∃ y, l.foldl packOne acc = acc ++ y := by
  induction l generalizing acc with
  | nil => exact ⟨[], by simp⟩
  | cons f l ih =>
    obtain ⟨y, h⟩ := ih (packOne acc f)
    refine ⟨List.replicate (alignUp acc.length (argAlign f.1) - acc.length) 0 ++ bytesLE (argSize f.1) (f.2 % 2 ^ f.1) ++ y, ?_⟩
    show l.foldl packOne (packOne acc f) = _
    rw [h]; unfold packOne; simp

theorem allZero_rep (n : Nat) : allZero (List.replicate n (0 : Byte)) = true := by
  unfold allZero; simp

theorem unpack_pack (l : List (Nat × Nat)) (hl : ∀ f ∈ l, 1 ≤ f.1 ∧ f.2 < 2 ^ f.1) (acc rest : List Byte) :
    unpackFrom (l.foldl packOne acc ++ rest) acc.length (l.map (·.1)) = some (l.map (·.2), (l.foldl packOne acc).length) := by
  induction l generalizing acc with
  | nil => rfl
  | cons f l ih =>
    have i := ih (fun g hg => hl g (by simp [hg])) (packOne acc f)
    have hf := hl f (by simp)
    obtain ⟨y, hy⟩ := fold_prefix l (packOne acc f)
    have hle := le_alignUp acc.length f.1
    simp only [List.foldl_cons, List.map_cons]
    unfold unpackFrom
    dsimp only
    have e : l.foldl packOne (packOne acc f) ++ rest = acc ++ List.replicate (alignUp acc.length (argAlign f.1) - acc.length) 0 ++ bytesLE (argSize f.1) (f.2 % 2 ^ f.1) ++ (y ++ rest) := by
      rw [hy]; unfold packOne; simp
    have d : (l.foldl packOne (packOne acc f) ++ rest).drop (alignUp acc.length (argAlign f.1)) = bytesLE (argSize f.1) (f.2 % 2 ^ f.1) ++ (y ++ rest) := by
      rw [e, List.append_assoc, List.drop_append_of_le_length (by simp; omega), List.drop_eq_nil_of_le (by simp; omega), List.nil_append]
    have v : natLE (((l.foldl packOne (packOne acc f) ++ rest).drop (alignUp acc.length (argAlign f.1))).take (argSize f.1)) = f.2 := by
      rw [d, List.take_append_of_le_length (by simp [bytesLE_length]), List.take_of_length_le (by simp [bytesLE_length]), natLE_bytesLE', Nat.mod_eq_of_lt hf.2]
      rw [Nat.mod_eq_of_lt hf.2]; exact Nat.lt_of_lt_of_le hf.2 (two_pow_argSize _)
    have z : ((l.foldl packOne (packOne acc f) ++ rest).drop acc.length).take (alignUp acc.length (argAlign f.1) - acc.length) = List.replicate (alignUp acc.length (argAlign f.1) - acc.length) 0 := by
      rw [e, List.append_assoc, List.append_assoc, List.drop_left, List.take_append_of_le_length (by simp), List.take_of_length_le (by simp)]
    have g : ¬ (l.foldl packOne (packOne acc f) ++ rest).length < alignUp acc.length (argAlign f.1) + argSize f.1 := by
      rw [hy, List.length_append, List.length_append, packOne_length]; omega
    rw [if_neg g, z, allZero_rep, if_neg (by decide), v, if_neg (by omega)]
    rw [packOne_length] at i
    rw [i]

structure PinsBut (p : Nat) (s t : State) : Prop where
  go : ∀ q, q ≠ p → pinOf t q = pinOf s q

theorem PinsBut.refl (p : Nat) (s : State) : PinsBut p s s := ⟨fun _ _ => rfl⟩

theorem PinsBut.frame {p : Nat} {W : List Part} {s x y : State} (f : Frame W x y) (h : PinsBut p s x) (hw : W.contains .pins = false := by rfl) : PinsBut p s y :=
  ⟨fun q hq => by rw [pinOf_congr (f.same .pins hw)]; exact h.go q hq⟩

theorem PinsBut.upd {p : Nat} {s x : State} (g : Pin → Pin) (h : PinsBut p s x) : PinsBut p s (updPin p g x) :=
  ⟨fun q hq => by rw [pinOf_updPin_ne _ _ hq]; exact h.go q hq⟩

theorem PinsBut.pol {p : Nat} {s x : State} (l : List (Nat × Option Origin × Bool)) (h : PinsBut p s x) : PinsBut p s { x with pins := { x.pins with polarity := l } } :=
  ⟨fun q hq => h.go q hq⟩

structure BlocksBut (g : Nat) (s t : State) : Prop where
  go : ∀ k, k ≠ g → blockOf t k = blockOf s k

theorem BlocksBut.refl (p : Nat) (s : State) : BlocksBut p s s := ⟨fun _ _ => rfl⟩

theorem BlocksBut.frame {p : Nat} {W : List Part} {s x y : State} (f : Frame W x y) (h : BlocksBut p s x) (hw : W.contains .mem = false := by rfl) : BlocksBut p s y :=
  ⟨fun q hq => by rw [blockOf_congr (f.same .mem hw)]; exact h.go q hq⟩

theorem BlocksBut.upd {p : Nat} {s x : State} (g : Block → Block) (h : BlocksBut p s x) : BlocksBut p s (updBlock p g x) :=
  ⟨fun q hq => by rw [blockOf_updBlock_ne _ _ hq]; exact h.go q hq⟩

theorem BlocksBut.ecc {g : Nat} {s x : State} (port src : Nat) (e) (h : BlocksBut g s x) : BlocksBut g s (noteEcc g port src e x) := by
  unfold noteEcc
  split
  · exact h
  · split
    · exact h
    · unfold noteCe
      exact ⟨fun k hk => (h.upd (fun b => { b with ce := satAdd b.ce 1 })).go k hk⟩
    · exact (h.upd _).frame (raise_frame ..)

theorem BlocksBut.port {g : Nat} {s x : State} (p idle op) (h : BlocksBut g s x) : BlocksBut g s (doPort p g idle op x) := by
  unfold doPort
  dsimp only
  split
  · exact h
  · split
    · exact h.upd _
    · exact (h.upd _).ecc ..

structure LinesBut (l : Nat) (s t : State) : Prop where
  go : ∀ k, k ≠ l → Tab.get none t.dram.lines k = Tab.get none s.dram.lines k

structure LinesAll (s t : State) : Prop where
  go : t.dram.lines = s.dram.lines

theorem LinesAll.frame {W : List Part} {s x y : State} (f : Frame W x y) (h : LinesAll s x) (hw : W.contains .dram = false := by rfl) : LinesAll s y :=
  ⟨by rw [f.same .dram hw]; exact h.go⟩

theorem LinesAll.upd {s x : State} (c f) (h : LinesAll s x) : LinesAll s (updDchan c f x) := ⟨h.go⟩

theorem LinesAll.sub {s x : State} (c b f) (h : LinesAll s x) : LinesAll s (updSub c b f x) := ⟨h.go⟩

theorem LinesAll.hold {s x : State} (c) (h : LinesAll s x) : LinesAll s (holdBank c x) := by
  unfold holdBank
  split
  · exact h.sub ..
  · exact h

theorem LinesAll.cand {s x : State} (c y) (h : LinesAll s x) : LinesAll s (candidate c y x) := by
  unfold candidate
  dsimp only
  split
  · exact h
  · split
    · unfold askRepair
      exact (((h.upd ..).frame (raise_frame ..)).upd ..).hold _
    · exact (h.upd ..).frame (raise_frame ..)

theorem LinesAll.ce {s x : State} (c y) (h : LinesAll s x) : LinesAll s (dramCorrected c y x) := by
  unfold dramCorrected
  dsimp only
  split
  · exact (h.upd ..).cand ..
  · exact h.upd ..

theorem LinesAll.ue {s x : State} (c y) (h : LinesAll s x) : LinesAll s (dramUncorrectable c y x) := by
  unfold dramUncorrectable
  exact ((h.upd ..).frame (raise_frame ..)).cand ..

theorem LinesAll.endJob {s x : State} (j) (h : LinesAll s x) : LinesAll s (endJob j x) := by
  unfold Machine.endJob
  exact LinesAll.frame (respond_frame ..) ⟨h.go⟩

theorem LinesAll.fin {s x : State} (l : List (DramLoc × Option Origin)) (h : LinesAll s x) : LinesAll s (l.foldl (fun a x => finishOpt x.2 .drmDone noUnit .state a) x) := by
  induction l generalizing x with
  | nil => exact h
  | cons a l ih => exact ih (h.frame (finishOpt_frame ..))

theorem LinesAll.jobs {s x : State} (l : List DramJob) (st) (h : LinesAll s x) : LinesAll s (l.foldl (fun a j => Machine.endJob { j with status := st } a) x) := by
  induction l generalizing x with
  | nil => exact h
  | cons a l ih => exact ih (h.endJob _)

theorem LinesAll.ops {s x : State} (ids) (h : LinesAll s x) : LinesAll s (dropOps ids x) := by
  unfold dropOps forEach
  generalize List.range 8 = l
  induction l generalizing x with
  | nil => exact h
  | cons a l ih => exact ih ((h.sub ..).sub ..)

theorem LinesAll.step {s x : State} (c f) (h : LinesAll s x) : LinesAll s (switchStep c f x) := by
  unfold switchStep
  split
  · exact h
  · split
    · dsimp only
      split
      · exact LinesAll.frame (finish_frame ..) ⟨h.go⟩
      · exact ⟨h.go⟩
    · exact h

theorem LinesAll.fail {s x : State} (c f) (h : LinesAll s x) : LinesAll s (failChannel c f x) := by
  unfold failChannel endChannelJobs
  exact ((((h.upd ..).ops _).jobs _ _).frame (raise_frame ..) |>.fin _).step ..

theorem LinesAll.store {s x : State} (c f) (h : LinesAll s x) : LinesAll s (storeResults c f x) := by
  unfold storeResults
  exact (h.upd ..).frame (useFree_frame ..)

theorem LinesBut.of {l : Nat} {s x y : State} (h : LinesBut l s x) (g : LinesAll x y) : LinesBut l s y :=
  ⟨fun k hk => by rw [g.go]; exact h.go k hk⟩

theorem LinesBut.refl (l : Nat) (s : State) : LinesBut l s s := ⟨fun _ _ => rfl⟩

theorem LinesAll.refl (s : State) : LinesAll s s := ⟨rfl⟩

theorem LinesBut.store {l : Nat} {s x : State} (d b) (h : LinesBut l s x) : LinesBut l s (lineStore l d b x) :=
  ⟨fun k hk => by unfold lineStore; rw [Tab.get_set_ne _ _ _ hk]; exact h.go k hk⟩

theorem raiseCounter_lines {i l : Nat} {s x : State} (e : raiseCounter i l s = .done x) : LinesAll s x :=
  (LinesAll.refl s).frame (raiseCounter_frame e)

theorem writeLine_lines (l : Nat) (d) (s : State) : LinesBut l s (writeLine l d s).2 := by
  unfold writeLine
  split
  · exact (LinesBut.refl l s).store ..
  · split
    · rename_i h
      have := raiseCounter_lines h
      exact (((LinesBut.refl l s).of this).store ..).of ((LinesAll.refl _).frame (updPrt_frame (f := fun x => { x with mbPoison := Tab.set false x.mbPoison l false }) (fun _ => rfl) _))
    · exact .refl ..

theorem lineRead_lines (l : Nat) (s : State) : LinesAll s (lineRead l s).2 := by
  unfold lineRead
  repeat' split
  all_goals first | exact .refl _ | exact (LinesAll.refl _).frame (useFree_frame ..)

theorem performLine_lines (c o q u) (s : State) : LinesBut o.line s (performLine c o q u s).2.2 := by
  unfold performLine
  split
  · exact writeLine_lines ..
  · have h0 : LinesBut o.line s (strikeLine u o.line s) := by
      unfold strikeLine
      split
      · exact (LinesBut.refl ..).store ..
      · exact .refl ..
    generalize strikeLine u o.line s = s0 at h0
    have h1 : LinesBut o.line s (lineRead o.line s0).2 := h0.of (lineRead_lines ..)
    dsimp only
    generalize lineRead o.line s0 = x at h1
    obtain ⟨⟨d, bad⟩, s1⟩ := x
    dsimp only at h1 ⊢
    split
    · have h2 : LinesBut o.line s (dramUncorrectable c o.loc s1) := h1.of ((LinesAll.refl _).ue ..)
      split
      · exact h2.of ((LinesAll.refl _).frame (lineFails_frame ..))
      · exact h2
    · have h2 : LinesBut o.line s (if u = .corrected then dramCorrected c o.loc s1 else s1) := by
        split
        · exact h1.of ((LinesAll.refl _).ce ..)
        · exact h1
      split
      · exact h2
      · refine ⟨fun k hk => ?_⟩
        exact ((writeLine_lines ..).go k hk).trans (h2.go k hk)

end Sys2Proof.Machine
end

