-- ==== Sys2Proof/WellFormed.lean ====
section
/-! DEFINITION. Which commands the spec's widths and counts admit: what the types of Syntax.lean leave open of the operands,
checked by name. exec answers a command that is not well formed as well: a mailbox record of another length, for one, with
ST_BAD_ARG. -/

namespace Sys2Proof

/-- A firmware image's signature is two 48-byte numbers, and LENGTH counts its code bytes (Table MBX-1). -/
def FwImage.wf (f : FwImage) : Bool := f.signature.length == 96 && f.code.length == f.length.toNat

/-- No image, or a well-formed one. -/
def fwSlotWf (f : Option FwImage) : Bool :=
  match f with
  | none => true
  | some x => x.wf

/-- A failing test names one of the rows 1 to 18 of Table BRG-3. -/
def BistFail.wf (f : BistFail) : Bool := decide (1 ≤ f.row.val)

/-- The byte strings of an image header (Table CFG-2): a 97-byte public key, a 96-byte signature, and the 416 bytes that the
signature covers (R198). -/
def ImgHeader.wf (h : ImgHeader) : Bool :=
  h.signerKey.length == 97 && h.signature.length == 96 && h.signedBytes.length == 416

/-- The essential bits of a frame: runs lie within its 1,024 bits (Table CFG-11). -/
def MapFrame.wf (m : MapFrame) : Bool :=
  match m with
  | .runs l => l.all (fun r => decide (r.1 + r.2 ≤ 1024))
  | _ => true

/-- A tile map describes frames of one tile, each once (Table CFG-10). -/
def TileMap.wf (m : TileMap) : Bool :=
  m.frames.all (fun f => decide (f.1 < 1024) && f.2.wf) && decide (m.frames.map (fun f => f.1)).Nodup

/-- A stream element carries what its own counts say (Tables CFG-8 to CFG-10, MEM-10). -/
def LoadItem.wf (x : LoadItem) : Bool :=
  match x with
  | .tileMap _ _ m => m.wf
  | .blockEntry e => e.data.length == e.wordCount.toNat
  | _ => true

/-- The data words of a request by its operation (Table NOC-4): none for a read, LEN + 1 for a write, one for a fetch-and-add
or a swap, two for a compare-and-swap. -/
def NocReq.words (q : NocReq) : Nat :=
  match q.op with
  | .read => 0
  | .write => q.len.val + 1
  | .fetchAdd => 1
  | .swap => 1
  | .compareSwap => 2

/-- A request comes from one of the 74 sources (Table NOC-1) and carries its data words. -/
def NocReq.wf (q : NocReq) : Bool := decide (q.src.toNat < 74) && q.data.length == q.words

/-- Writes of 32-bit registers carry 32 bits; the NoC writes 64 (R457, R461, R462). -/
def writerWf (w : Writer) (value : W64) : Bool :=
  match w with
  | .noc _ _ => true
  | _ => decide (value.toNat < 2 ^ 32)

/-- The operands of a command are such as the spec's widths and counts admit. -/
def Instr.wf (c : Instr) : Bool :=
  match c with
  | .resetNRelease _ fails a b dimms _ _ =>
    fails.all BistFail.wf && fwSlotWf a && fwSlotWf b && dimms.all (fun d => decide (d.1 < 16)) &&
      decide (dimms.map (fun d => d.1)).Nodup
  | .bistRoundDone fails _ => fails.all BistFail.wf
  | .regionTestDone _ fails _ => fails.all BistFail.wf
  | .lockstepRestartDone _ _ a b => fwSlotWf a && fwSlotWf b
  | .loadImageHeader h => h.wf
  | .loadFrameReceived x => x.wf
  | .nocRequestIssue q => q.wf
  | .registerWrite w _ v => writerWf w v
  | .sensorSample l => l.length == 72
  | .privilegedTrip _ temp => decide (-32768 ≤ temp ∧ temp < 32768)
  | .smbusBlockWrite l _ => decide (1 ≤ l.length ∧ l.length ≤ 32)
  | .linkDetectStep _ _ lanes => lanes.length == 9
  | .linkFrameReceived _ _ flits bad corrected _ =>
    flits.length == 64 && bad.all (fun e => decide (e.1 < 8)) && decide (corrected.length ≤ 8)
  | .agePromotion _ _ pick => decide (pick < 128)
  | .drmTrainImport _ _ _ x => decide (x.length ≤ 4096)
  | .secKeySet _ _ action _ _ x => x.length == (if action then 97 else 254)
  | .secOwner _ _ _ _ _ _ x => x.length == 97 || x.isEmpty
  | .secLifecycle _ _ _ _ x => x.length == 97 || x.isEmpty
  | .tagWrite _ _ x => decide (1 ≤ x.length ∧ x.length ≤ 64)
  | _ => true

end Sys2Proof
end

