-- ==== Sys2Proof/Tests/Slice0.lean ====
section
/-! SUPPORT. Tests of the model: commands that Instr.wf refuses, values from the spec's worked examples and tables, and for
each obligation with hypotheses concrete states and operands that meet them (theorems meets_<obligation>, one clause for each
clause of the obligation; where a hypothesis asks an opaque constant for its answer, it is a premise of the clause). -/

set_option maxRecDepth 10000
open Sys2Proof Sys2Proof.Machine
namespace Sys2Proof.Tests

/-- A device that serves: every domain on, the PLLs locked, every region BLANK, life-cycle state OWNED. -/
def live : State :=
  { State.reset with
    ext := { resetReleased := true, done := true }
    start := { step := 9, bistDone := true }
    align := { busy := false, running := false }
    clk := { plls := [(0, { locked := true }), (1, { locked := true }), (2, { locked := true }), (3, { locked := true })],
             unsync := false, timeLocked := true, fc := 4096, time := 4096 }
    pwr := { doms := (List.range 96).map (fun d => (d, { st := .on })) }
    ctx := { regions := (List.range 32).map (fun r => (r, { st := .blank })) }
    load := { boot := .complete }
    mbx := { barista := .serving, fw := some { version := 0x10000, ifRev := 1, svn := 0, slot := some false, trial := false } }
    sec := { life := 2 }
    prt := { key := true }
    thm := { sensors := (List.range 72).map (fun n => (n, { temp := 320 })) } }

/-- A requester on channel 0. -/
def r0 : Req := { channel := 0, seq := 1 }

/-- A slot that holds a verified context of region r. -/
def okSlot (r : Fin 32) : Slot := { st := .verified, desc := some { region := r, action := 0, footprint := [] } }

/-- The serving device with every region running its slot 0; slot 1 is verified too. -/
def busy : State :=
  { live with
    ctx := { regions := (List.finRange 32).map (fun r => (r.val,
      { st := .running, present := some 0, ran := true, slots := [(0, okSlot r), (1, okSlot r)] })) } }

/-- The serving device with one channel of DRAM in service: channel 0, one DIMM, 16 GiB. -/
def withDram : State :=
  { live with
    dram := { list := [0], k := 16,
              chans := [(0, { st := .inService, inList := true, capGb := 128, dimms := [some default] })] }
    prt := { key := true, capGib := 16, carve := 2 ^ 34, gen := 1 } }

/-- A NoC read of one word from Barista. -/
def readAt (src : BitVec 8) (a : BitVec 48) : NocReq := { (default : NocReq) with src := src, op := .read, addr := a }

theorem succ_ne (x : BitVec 32) : x + 1 ≠ x := fun h => by
  have := congrArg BitVec.toNat h
  bv_omega

/-! ### Commands that are not well formed are refused by Instr.wf, one for each check -/

theorem test_wf_plain : (Instr.powerCycle).wf = true := by decide
theorem test_wf_reset_row : (Instr.resetNRelease 0 [{ (default : BistFail) with row := 0 }] none none [] 0 []).wf = false := by decide
theorem test_wf_reset_slot :
    (Instr.resetNRelease 0 [] (some { (default : FwImage) with signature := [] }) none [] 0 []).wf = false := by decide
theorem test_wf_reset_dimm : (Instr.resetNRelease 0 [] none none [(16, default)] 0 []).wf = false := by decide
theorem test_wf_reset_twice : (Instr.resetNRelease 0 [] none none [(0, default), (0, default)] 0 []).wf = false := by decide
theorem test_wf_reset_good : (Instr.resetNRelease 0 [{ (default : BistFail) with row := 1 }] none none [(15, default)] 0 []).wf = true := by
  decide
theorem test_wf_round_row : (Instr.bistRoundDone [{ (default : BistFail) with row := 0 }] 0).wf = false := by decide
theorem test_wf_region_row : (Instr.regionTestDone 0 [{ (default : BistFail) with row := 0 }] false).wf = false := by decide
theorem test_wf_restart_slot : (Instr.lockstepRestartDone true false none (some default)).wf = false := by decide
theorem test_wf_header_key : (Instr.loadImageHeader default).wf = false := by decide
theorem test_wf_tile_map_run :
    (Instr.loadFrameReceived (.tileMap 0 0 { flags := 0, frames := [(0, .runs [(1000, 25)])] })).wf = false := by decide
theorem test_wf_tile_map_frame : (Instr.loadFrameReceived (.tileMap 0 0 { flags := 0, frames := [(1024, .all)] })).wf = false := by decide
theorem test_wf_tile_map_twice :
    (Instr.loadFrameReceived (.tileMap 0 0 { flags := 0, frames := [(3, .all), (3, .none)] })).wf = false := by decide
theorem test_wf_tile_map_good :
    (Instr.loadFrameReceived (.tileMap 0 0 { flags := 0, frames := [(3, .runs [(1000, 24)])] })).wf = true := by decide
theorem test_wf_block_entry :
    (Instr.loadFrameReceived (.blockEntry { (default : BlockEntry) with wordCount := 2, data := [0] })).wf = false := by decide
theorem test_wf_noc_source : (Instr.nocRequestIssue { (default : NocReq) with src := 74 }).wf = false := by decide
theorem test_wf_noc_words : (Instr.nocRequestIssue { (default : NocReq) with src := 0, op := .write, len := 1, data := [0] }).wf = false := by
  decide
theorem test_wf_noc_swap_words : (Instr.nocRequestIssue { (default : NocReq) with src := 0, op := .compareSwap, data := [0] }).wf = false := by
  decide
theorem test_wf_noc_good : (Instr.nocRequestIssue { (default : NocReq) with src := 73, op := .swap, data := [0] }).wf = true := by decide
theorem test_wf_register_wide : (Instr.registerWrite .bar0 0 0x100000000).wf = false := by decide
theorem test_wf_sensor_count : (Instr.sensorSample [none]).wf = false := by decide
theorem test_wf_trip_range : (Instr.privilegedTrip 0 40000).wf = false := by decide
theorem test_wf_smbus_empty : (Instr.smbusBlockWrite [] true).wf = false := by decide
theorem test_wf_smbus_long : (Instr.smbusBlockWrite (List.replicate 33 0) true).wf = false := by decide
theorem test_wf_detect_lanes : (Instr.linkDetectStep 0 .receiver []).wf = false := by decide
theorem test_wf_frame_flits : (Instr.linkFrameReceived 0 default [] [] [] false).wf = false := by decide
theorem test_wf_frame_lane : (Instr.linkFrameReceived 0 default (List.replicate 64 default) [(8, 0)] [] false).wf = false := by decide
theorem test_wf_frame_counts :
    (Instr.linkFrameReceived 0 default (List.replicate 64 default) [] (List.replicate 9 0) false).wf = false := by decide
theorem test_wf_frame_good :
    (Instr.linkFrameReceived 0 default (List.replicate 64 default) [(7, 0)] (List.replicate 8 0) false).wf = true := by decide
theorem test_wf_age_pick : (Instr.agePromotion 0 false 128).wf = false := by decide
theorem test_wf_train_record : (Instr.drmTrainImport default 0 0 (List.replicate 4097 0)).wf = false := by
  show decide ((List.replicate 4097 (0 : Byte)).length ≤ 4096) = false
  rw [List.length_replicate]
  decide
theorem test_wf_key_record : (Instr.secKeySet default 0 true 0 0 []).wf = false := by decide
theorem test_wf_owner_record : (Instr.secOwner default 0 false 0 0 0 [0]).wf = false := by decide
theorem test_wf_life_record : (Instr.secLifecycle default 0 0 0 [0]).wf = false := by decide
theorem test_wf_tag_empty : (Instr.tagWrite default 0 []).wf = false := by decide
theorem test_wf_tag_long : (Instr.tagWrite default 0 (List.replicate 65 0)).wf = false := by decide
theorem test_wf_tag_good : (Instr.tagWrite default 0 [1]).wf = true := by decide

/-! ### Values from the spec's worked examples and tables, and from arithmetic by hand -/

/-- What a command leaves of a state. -/
def after (c : Instr) (s : State) : State :=
  match exec c s with
  | .next t => t
  | _ => State.reset

/-- The check value of CRC-32C, which R204 names, over the nine digits. -/
theorem test_crc32c : crc32c [0x31, 0x32, 0x33, 0x34, 0x35, 0x36, 0x37, 0x38, 0x39] = 0xE3069283#32 := by decide

/-- The DRAM channels of the worked example of chapter 8: eight channels of two 64 GB modules of two ranks. -/
def eightChannels : State :=
  let d : Dimm := { (default : Dimm) with ranks2 := true }
  { live with
    dram := { list := [0, 1, 2, 3, 4, 5, 6, 7], k := 128,
              chans := (List.range 8).map (fun c => (c, { st := .inService, inList := true, dimms := [some d, some d] })) }
    prt := { key := true, capGib := 256, carve := 0xF6DB6DB700 } }

/-- Table DRM-8. -/
theorem test_dram_address :
    lineChan eightChannels (0x0010056C95C0 / 64) = (5, true, 67197733) ∧
      lineLoc eightChannels 5 true 67197733 =
        { sub := true, dimm := 0, rank := 1, cid := 0, bg := 3, ba := 2, row := 4101, col := 37 } := by decide

/-- The example's carve-out (Table PRT-7). -/
theorem test_carve_out : macBase (2 ^ 40) 256 9 = 0x00F6DB6DB700 := by decide

/-- Table PRT-8: the counter block, the MAC block and the tree nodes of the line at 0x0012_3456_7A40. -/
theorem test_metadata :
    ctrAddr eightChannels 0x1234567 = 0x00FF243F10C0 ∧ macAddr eightChannels (0x001234567A40 / 64) = 0x00F921F88640 ∧
      nodeAddr eightChannels 1 0x2468AC = 0x00FFE487E200 ∧ nodeAddr eightChannels 8 1 = 0x00FFFFFFFF40 := by decide

/-- The route word of chapter 7's example names ports 1 and 2, then the device itself. -/
theorem test_route : routeSel 0x191 0 = 1 ∧ routeSel 0x191 1 = 2 ∧ routeSel 0x191 2 = 6 := by decide

/-- Chapter 5's example: block 969 lies in sector 4, and at 0x0800_03C9_0000. -/
theorem test_block_place : sectorOf 969 = 4 ∧ destOf live 0x080003C90000 = .sector 969 := by decide

/-- Chapter 12's example: IO_B04_10 belongs to region 1.0, IO_B17_33 to region 1.10. -/
theorem test_pin_regions : pinRegion (48 * 4 + 10) = 0 ∧ pinRegion (48 * 17 + 33) = 10 := by decide

/-- CH5 is endpoint 1 of router (7, 2) (Table NOC-1). -/
theorem test_dram_router : dramRouter 5 = (7, 2) := by decide

/-- A device in a given fc, with the FIFO of Table MEM-12 holding n visible entries at its start. -/
def fifoAt (fc n : Nat) : State :=
  updBlock 969 (fun g => { g with
      mode := .fifo, opFc := fc, occStart := n
      entries := (List.range n).map (fun i => { word := { data := BitVec.ofNat 64 (i + 1) }, level := 0, due := 0, vis := true }) })
    { live with clk := { live.clk with fc := fc, time := BitVec.ofNat 64 fc } }

/-- Table MEM-12 step 2: the enqueue against 16 entries is discarded, and its response in fc 104 has ACCEPT 0. -/
theorem test_fifo_full_enqueue :
    let b := blockOf (after (.portEnq .a 969 99 0) (fifoAt 101 16)) 969
    b.entries.length = 16 ∧ b.rspA.map (fun r => (r.from_, r.accept)) = [(104, false)] := by decide

/-- Table MEM-12 step 2: the dequeue takes the head entry, which its response in fc 104 carries. -/
theorem test_fifo_dequeue :
    let b := blockOf (after (.portDeq .b 969 .none) (fifoAt 101 16)) 969
    b.entries.length = 15 ∧ b.rspB.map (fun r => (r.from_, r.data, r.valid)) = [(104, 1, true)] := by decide

/-- Chapter 5's example: a dequeue of an empty FIFO in fc 202 answers VALID 0 and RDATA 0 in fc 205. -/
theorem test_fifo_empty :
    (blockOf (after (.portDeq .b 969 .none) (fifoAt 202 0)) 969).rspB.map (fun r => (r.from_, r.data, r.valid)) =
      [(205, 0, false)] := by decide

/-- Table PIN-10 step 4: the edge is recorded with its EV_TIME, EV_TICK and direction. -/
theorem test_pin_edge :
    (pinNow (after (.pinEdge (Fin.ofNat 1152 (48 * 17 + 33)) true 7 false)
        { live with clk := { live.clk with fc := 8000045, time := 8000045 } }) (48 * 17 + 33)).fifo.map
      (fun r => (r.time, r.tick, r.rise, r.coin)) = [(8000045, 7, true, false)] := by decide

/-- Table DSP-8 step 3: a ready item of two values goes out as a group of 2 + 2 words, and its flow is in service. -/
theorem test_dispatch :
    let s := updBlock 25 (fun g => { g with mode := .inbox, capLog2 := 8 })
      { live with dsp := { live.dsp with
          engines := [(2, { block := 25, thresh := 6, en := true, bound := true })], groups := [(2, 4)],
          flows := [{ key := 0x42A17, group := 2, last := some 2, pinned := true, tag := none }],
          items := [{ tag := 0x10003, flow := 0x42A17, classIn := 1, cls := 1, slots := 3, filled := 3, arg := 17,
                      values := [(0, 7), (1, 8)], bypass := 0, ready := some 0, eligible := some 0, entered := 0 }] } }
    let t := after (.dspDispatch none) s
    t.dsp.items = [] ∧ t.dsp.flows.map (fun f => f.tag) = [some 0x10003] ∧
      t.dsp.groupQ.map (fun w => (w.engine, w.words.length)) = [(2, 4)] := by decide

/-- R552: a device leaves the factory in BLANK; Table CTX-1: no region is usable before power comes. -/
theorem test_reset_state : State.reset.sec.life = 1 ∧ (regionOf State.reset 0).st = .off ∧ State.reset.clk.unsync = true := by decide

/-- The status byte of the response that a channel holds. -/
def statusIn (s : State) (c : Nat) : Nat := field (chanOf s c).rspHdr.toNat 48 8

/-- LOG.ALERT_LEVEL takes levels 0 to 4 (Table MBX-29): 5 is answered with ST_BAD_ARG. -/
theorem test_alert_level_top : statusIn (after (.logAlertLevel r0 4) live) 0 = 0x00 := by decide
theorem test_alert_level_bad : statusIn (after (.logAlertLevel r0 5) live) 0 = 0x11 := by decide

/-- R553: BLANK to OWNED is made by SEC.OWNER, not by SEC.LIFECYCLE: ST_DENIED. -/
theorem test_lifecycle_denied :
    statusIn (after (.secLifecycle r0 2 0 0 []) { live with sec := { live.sec with life := 1 } }) 0 = 0x12 := by decide

/-- R364: PRT.RANGE_SET of a locked range is refused with ST_STATE. -/
theorem test_range_locked :
    statusIn (after (.prtRangeSet r0 0 0 1 true false) { live with prt := { live.prt with ranges := [(0, { lock := true })] } }) 0 =
      0x13 := by decide

/-- CLK.AUX takes N from 2 to 4,096. -/
theorem test_aux_low : statusIn (after (.clkAux r0 0 1 0 true) live) 0 = 0x11 := by decide
theorem test_aux_high : statusIn (after (.clkAux r0 0 4096 0 true) live) 0 = 0x00 := by decide

/-- A ring on an idle channel makes it busy and puts it in Barista's order. -/
theorem test_ring :
    let t := after (.mbxRing 1) live
    (chanOf t 1).st = .busy ∧ t.mbx.order = [1] := by decide

/-- The fabric clock counts on by one fc, and chain time with it. -/
theorem test_fabric_clock : (after .fabricClockCycle live).clk.fc = 4097 ∧ (after .fabricClockCycle live).clk.time = 4097 := by decide

/-- A drop of RESET_N clears DONE and ERROR. -/
theorem test_reset_assert : (after .resetNAssert live).ext.done = false ∧ (after .resetNAssert live).ext.error = false := by decide

/-- A response that no request waits for is not delivered, and a request waits no more once its response is. -/
theorem test_noc_delivered :
    (after (.nocResponseDelivered 72 0) { live with noc := { live.noc with
        rsps := [{ src := 72, tag := 0, status := .ok, data := [] }], out := [readAt 72 0x081000000000] } }).noc.out = [] := by decide

/-- A write to QCTL_CREDIT_ADD adds to a credit queue (R179), and not to a FIFO. -/
theorem test_credit_add :
    (blockOf (after (.qctlCreditReturnWrite 72 5 3) (updBlock 5 (fun g => { g with mode := .credit }) live)) 5).credPend = 3 ∧
      (blockOf (after (.qctlCreditReturnWrite 72 5 3) (updBlock 5 (fun g => { g with mode := .fifo }) live)) 5).credPend = 0 := by
  decide

/-- The queue: a step takes the command in front, and idles without one. -/
theorem test_step :
    step { live with pending := [.mbxRing 1, .mbxRing 2] } = exec (.mbxRing 1) { live with pending := [.mbxRing 2] } ∧
      step live = .next live := ⟨rfl, rfl⟩

/-! ### The hypotheses of every obligation can be met -/

theorem meets_StepRunsFrontCommand :
    (∃ (s : State) (c : Instr) (rest : List Instr), s.pending = c :: rest) := by
  exact ⟨{ live with pending := [.windowBoundary] }, .windowBoundary, [], by decide⟩

theorem meets_EmptyQueueIdles :
    (∃ (s : State), s.pending = []) := by
  exact ⟨live, by decide⟩

theorem meets_QueueDrains :
    (∃ (s : State) (n : Nat), s.pending.length ≤ n) := by
  exact ⟨live, 0, by decide⟩

theorem meets_AddressedFrames :
    (∃ (c : Instr) (p : Fin 1152), ((∃ rise tick coin, c = .pinEdge p rise tick coin) ∨ (∃ d oe ofs, c = .pinOutputLaunch p d oe ofs) ∨ c = .pinEventPop p ∨ (∃ a l, c = .pinWindowOpen p a l) ∨ c = .pinWindowResult p ∨ (∃ l, c = .pinShort p l) ∨ (∃ l, c = .pinOvervoltage p l) ∨ (∃ st l, c = .pinPolarityCheck p st l))) ∧
    (∃ (c : Instr) (g : Fin 1152), ((∃ p, c = .portNop p g) ∨ (∃ p a u, c = .portRead p g a u) ∨ (∃ p a d, c = .portWrite p g a d) ∨ (∃ p d a, c = .portEnq p g d a) ∨ (∃ p u, c = .portDeq p g u) ∨ (∃ p u, c = .portPeek p g u) ∨ (∃ p a, c = .portReturn p g a) ∨ c = .queueEntryVisible g ∨ (∃ u, c = .patrolRead g u) ∨ c = .patrolWriteback g)) ∧
    (∃ (c : Instr) (k : Fin 8), ((∃ sub pick, c = .agePromotion k sub pick) ∨ (∃ sub, c = .refreshTimer k sub) ∨ (∃ ok, c = .periodicRetrain k ok) ∨ (∃ ok, c = .setpointSwitchDone k ok) ∨ c = .softRepairDone k ∨ (∃ b, c = .dramChannelFailed k b))) := by
  refine ⟨?_, ?_, ?_⟩
  · exact ⟨.pinEventPop 0, 0, .inr (.inr (.inl rfl))⟩
  · exact ⟨.patrolWriteback 0, 0, .inr (.inr (.inr (.inr (.inr (.inr (.inr (.inr (.inr rfl))))))))⟩
  · exact ⟨.softRepairDone 0, 0, .inr (.inr (.inr (.inr (.inl rfl))))⟩

theorem meets_LifeCycleMoves :
    (∃ (s : State), lifeInv s) ∧
    (∃ (s : State) (r : Req) (target : BitVec 3), ready s r 0x0F05 = true ∧ s.sec.trngStopped = false ∧ (legalTransition s.sec.life target = false ∨ target = 2 ∨ s.sec.life = 0)) := by
  refine ⟨?_, ?_⟩
  · exact ⟨live, fun _ _ _ h => nomatch h⟩
  · exact ⟨live, r0, 0, by decide⟩

theorem meets_MemoriesStayCanonical :
    (∃ (s : State), memWf s) := by
  exact ⟨live, ⟨rfl, rfl, rfl, rfl⟩⟩

theorem meets_LockedRangesStay :
    (∃ (c : Instr), c ≠ .resetNAssert ∧ c ≠ .powerCycle ∧ c ≠ .supplyOutOfTolerance ∧ c ≠ .pwrGoodRise) ∧
    (∃ (s : State) (r : Req) (m : BitVec 4), ready s r 0x0805 = true ∧ (Tab.get {} s.prt.ranges m.toNat).lock = true) := by
  refine ⟨?_, ?_⟩
  · exact ⟨.windowBoundary, by decide⟩
  · exact ⟨{ live with prt := { live.prt with ranges := [(0, { lock := true })] } }, r0, 0, by decide⟩

theorem meets_ArgumentsRoundTrip :
    (∃ (l : List (Nat × Nat)), ((∀ f ∈ l, 1 ≤ f.1 ∧ f.2 < 2 ^ f.1))) ∧
    (∃ (l : List (Nat × Nat)), ((∀ f ∈ l, 1 ≤ f.1 ∧ f.2 < 2 ^ f.1))) := by
  refine ⟨?_, ?_⟩
  · exact ⟨[], by decide⟩
  · exact ⟨[], by decide⟩

theorem meets_PlacesFollowTheRules :
    (∃ (s : Nat) (c : Nat), c < s) ∧
    (∃ (s : Nat) (c : Nat), s ≤ c) ∧
    (∃ (column : Nat) (row : Nat) (b : Nat), column < 24 ∧ row < 24 ∧ b < 2) ∧
    (∃ (column : Nat) (row : Nat) (b : Nat), column < 24 ∧ row < 24 ∧ b < 2) ∧
    (∃ (nn : Nat) (mm : Nat), nn < 24 ∧ mm < 48) := by
  refine ⟨?_, ?_, ?_, ?_, ?_⟩
  · exact ⟨1, 0, by decide⟩
  · exact ⟨0, 0, by decide⟩
  · exact ⟨0, 0, 0, by decide⟩
  · exact ⟨0, 0, 0, by decide⟩
  · exact ⟨0, 0, by decide⟩

theorem meets_SelectsPassInputs :
    (∃ (l : Sel), l.length ≠ 1) ∧
    (∃ (n : Nat), n < 4) := by
  refine ⟨?_, ?_⟩
  · exact ⟨default, by decide⟩
  · exact ⟨0, by decide⟩

theorem meets_TrackingSteps :
    (∃ (s : State), s.align.busy = false ∧ (pllOf s 0).locked = true ∧ ((∀ a, s.align.stepAt = some a → a + 1024 ≤ s.clk.fc))) ∧
    (∃ (s : State), s.align.busy = false ∧ (pllOf s 0).locked = true ∧ ((∀ a, s.align.stepAt2 = some a → a + 1024 ≤ s.clk.fc))) ∧
    (∃ (s : State) (a : _), s.align.busy = false ∧ (pllOf s 0).locked = true ∧ s.align.stepAt = some a ∧ s.clk.fc < a + 1024) ∧
    (∃ (s : State) (a : _), s.align.busy = false ∧ (pllOf s 0).locked = true ∧ s.align.stepAt2 = some a ∧ s.clk.fc < a + 1024) ∧
    (∃ (s : State), s.align.busy = false ∧ (pllOf s 0).locked = true) := by
  refine ⟨?_, ?_, ?_, ?_, ?_⟩
  · exact ⟨live, by decide⟩
  · exact ⟨live, by decide⟩
  · exact ⟨{ live with align := { busy := false, running := true, stepAt := some 4096 } }, 4096, by decide⟩
  · exact ⟨{ live with align := { busy := false, running := true, stepAt2 := some 4096 } }, 4096, by decide⟩
  · exact ⟨live, by decide⟩

theorem meets_PowerResetAndStart :
    (∃ (s : State), s.ext.pwrGood = true ∧ writesIdle s = true) ∧
    (∃ (s : State), s.ext.pwrGood = true ∧ writesIdle s = true) ∧
    (∃ (s : State), s.ext.pwrGood = false) ∧
    (∃ (s : State), s.ext.pwrGood = true ∧ s.ext.resetReleased = true ∧ writesIdle s = true) ∧
    (∃ (s : State) (fails : List BistFail), s.ext.pwrGood = true ∧ s.ext.resetReleased = false ∧ fails.any rowFatal = true) ∧
    (∃ (s : State), s.ext.pwrGood = true ∧ s.ext.resetReleased = false ∧ s.mbx.selected = none) := by
  refine ⟨?_, ?_, ?_, ?_, ?_, ?_⟩
  · exact ⟨live, by decide⟩
  · exact ⟨live, by decide⟩
  · exact ⟨{ live with ext := { pwrGood := false } }, by decide⟩
  · exact ⟨live, by decide⟩
  · exact ⟨State.reset, [{ (default : BistFail) with row := 1 }], by decide⟩
  · exact ⟨State.reset, by decide⟩

theorem meets_PllAndReferenceRows :
    (∃ (s : State) (g : Fin 4) (ref : PllRef), (domOf s (90 + g.val)).st = .on ∧ s.pwr.deepIdle = false ∧ s.pwr.tripRetention = false ∧ refAllowed s g.val ref = true ∧ (pllOf s g.val).locked = false) ∧
    (∃ (s : State) (edges : BitVec 12), s.pwr.tripRetention = false ∧ s.pwr.deepIdle = false ∧ 950 ≤ edges.toNat ∧ edges.toNat ≤ 1050 ∧ s.clk.refLost = false) ∧
    (∃ (s : State) (edges : BitVec 12), s.pwr.tripRetention = false ∧ s.pwr.deepIdle = false ∧ (edges.toNat < 950 ∨ 1050 < edges.toNat) ∧ s.clk.refBad = false) ∧
    (∃ (s : State) (edges : BitVec 12), s.pwr.tripRetention = false ∧ s.pwr.deepIdle = false ∧ (edges.toNat < 950 ∨ 1050 < edges.toNat) ∧ s.clk.refBad = true ∧ s.clk.refLost = false) ∧
    (∃ (s : State) (edges : BitVec 12), s.pwr.tripRetention = false ∧ s.pwr.deepIdle = false ∧ 950 ≤ edges.toNat ∧ edges.toNat ≤ 1050 ∧ s.clk.refLost = true ∧ s.clk.refGood = true) := by
  refine ⟨?_, ?_, ?_, ?_, ?_⟩
  · exact ⟨(updPll 0 (fun g => { g with locked := false }) live), 0, default, by decide⟩
  · exact ⟨live, 1000, by decide⟩
  · exact ⟨live, 0, by decide⟩
  · exact ⟨{ live with clk := { live.clk with refBad := true } }, 0, by decide⟩
  · exact ⟨{ live with clk := { live.clk with refLost := true, refGood := true } }, 1000, by decide⟩

theorem meets_ClkCommandsReply :
    (∃ (s : State) (r : Req), ready s r 0x0501 = true) ∧
    (∃ (s : State) (r : Req) (n : BitVec 13), ready s r 0x0503 = true ∧ s.pwr.baseReset = false ∧ 2 ≤ n.toNat ∧ n.toNat ≤ 4096 ∧ domOn s 95 = true) ∧
    (∃ (s : State) (r : Req) (m : BitVec 7), ready s r 0x0502 = true ∧ s.pwr.baseReset = false ∧ 16 ≤ m.toNat ∧ m.toNat ≤ Config.mMax ∧ s.lnk.member = false ∧ fabricIdle s = true ∧ s.clk.fabricCmd = none ∧ m ≠ s.clk.m ∧ ((∀ p, linkUpAt s p = false))) := by
  refine ⟨?_, ?_, ?_⟩
  · exact ⟨live, r0, by decide⟩
  · exact ⟨live, r0, 2, by decide⟩
  · exact ⟨{ live with clk := { live.clk with m := 17 } }, r0, 16, ⟨rfl, rfl, by decide, by unfold Config.mMax; split <;> decide, rfl, by decide, rfl, by decide, fun p => by rw [linkUpAt, portOf]; rfl⟩⟩

theorem meets_DeepIdleAndWakeRows :
    (∃ (s : State), s.pwr.deepEn = true ∧ s.pwr.deepIdle = false ∧ s.pwr.waking = false ∧ s.pwr.tripRetention = false ∧ s.mbx.barista = .serving ∧ ((∀ d, d < 96 → idleDom s d = true)) ∧ ((∀ p, p < 6 → linkUpAt s p = false)) ∧ commandsIdle s = true) ∧
    (∃ (s : State), s.pwr.deepIdle = true ∧ s.pwr.wakeSources.getLsbD 0 = true ∧ s.pwr.onQueue = [] ∧ s.pwr.wakeSet = 0) ∧
    (∃ (s : State), s.pwr.waking = true ∧ wakeOver s = true) ∧
    (∃ (s : State) (r : Req), ready s r 0x0406 = true) := by
  refine ⟨?_, ?_, ?_, ?_⟩
  · exact ⟨{ live with pwr := { live.pwr with deepEn := true, doms := [(0, { st := .on }), (1, { st := .on }), (21, { st := .on })] }, ctx := {} }, by decide⟩
  · exact ⟨{ live with pwr := { live.pwr with deepIdle := true, wakeSources := 1 } }, by decide⟩
  · exact ⟨{ live with pwr := { live.pwr with waking := true } }, by decide⟩
  · exact ⟨live, r0, by decide⟩

theorem meets_PartResets :
    (∃ (s : State) (r : Req), ready s r 0x0407 = true ∧ s.pwr.baseReset = false) ∧
    (∃ (s : State), s.pwr.baseDue = true ∧ s.pwr.baseReset = false) ∧
    (∃ (s : State), domOn s 22 = true ∧ s.pwr.baseReset = false) ∧
    (∃ (s : State), s.pwr.baseReset = true) := by
  refine ⟨?_, ?_, ?_, ?_⟩
  · exact ⟨live, r0, by decide⟩
  · exact ⟨{ live with pwr := { live.pwr with baseDue := true } }, by decide⟩
  · exact ⟨live, by decide⟩
  · exact ⟨{ live with pwr := { live.pwr with baseReset := true } }, by decide⟩

theorem meets_ChannelRows :
    (∃ (s : State) (c : Fin 16), doorLive s c.val = true ∧ s.mbx.barista = .serving ∧ (chanOf s c.val).st = .busy) ∧
    (∃ (s : State) (c : Fin 16), doorLive s c.val = true ∧ s.mbx.barista = .serving ∧ (chanOf s c.val).st ≠ .busy ∧ (chanOf s c.val).enable = true) ∧
    (∃ (s : State) (c : Fin 16), doorLive s c.val = true ∧ s.mbx.barista = .serving ∧ (chanOf s c.val).st ≠ .busy ∧ (chanOf s c.val).enable = false) ∧
    (∃ (s : State) (c : Fin 16), doorLive s c.val = true ∧ s.mbx.barista = .serving ∧ (chanOf s c.val).st = .response) ∧
    (∃ (s : State) (c : Fin 16), doorLive s c.val = true ∧ s.mbx.barista = .serving ∧ ((chanOf s c.val).st = .response ∨ (chanOf s c.val).st = .part)) ∧
    (∃ (s : State), hostLive s = true ∧ s.evt.lostNew = 0) ∧
    (∃ (s : State), regsLive s = true) ∧
    (∃ (s : State) (src : BitVec 8) (tag : BitVec 12), meshReq s src tag = none ∧ protDenied s src.toNat 0x082002000000 = false ∧ wsWriter s src.toNat = true) := by
  refine ⟨?_, ?_, ?_, ?_, ?_, ?_, ?_, ?_⟩
  · exact ⟨(updChan 0 (fun g => { g with st := .busy }) live), 0, by decide⟩
  · exact ⟨live, 0, by decide⟩
  · exact ⟨(updChan 0 (fun g => { g with enable := false }) live), 0, by decide⟩
  · exact ⟨(updChan 0 (fun g => { g with st := .response }) live), 0, by decide⟩
  · exact ⟨(updChan 0 (fun g => { g with st := .response }) live), 0, by decide⟩
  · exact ⟨live, by decide⟩
  · exact ⟨live, by decide⟩
  · exact ⟨live, 70, 1, by decide⟩

theorem meets_ImageRows :
    (∃ (s : State) (dr : W64), regsLive s = true ∧ dr.getLsbD 63 = false) ∧
    (∃ (s : State) (dr : W64), regsLive s = true ∧ dr.getLsbD 63 = true ∧ (dr.extractLsb' 32 16).toNat = 0x00C) ∧
    (∃ (s : State), regsLive s = true) ∧
    (∃ (s : State) (k : Fin 64), regsLive s = true ∧ s.mbx.smbPtr = BitVec.ofNat 16 (0x100 + 4 * k.val) ∧ (chanOf s 13).st ≠ .busy) ∧
    (∃ (s : State), regsLive s = true) ∧
    (∃ (s : State), regsLive s = true) := by
  refine ⟨?_, ?_, ?_, ?_, ?_, ?_⟩
  · exact ⟨live, 0, by decide⟩
  · exact ⟨live, BitVec.ofNat 64 (2 ^ 63 + 0x00C * 2 ^ 32), by decide⟩
  · exact ⟨live, by decide⟩
  · exact ⟨{ live with mbx := { live.mbx with smbPtr := 0x100 } }, 0, by decide⟩
  · exact ⟨live, by decide⟩
  · exact ⟨live, by decide⟩

theorem meets_RingAndFabricMailboxRows :
    (∃ (s : State) (v : BitVec 32), hostLive s = true ∧ s.evt.lostNew = 0 ∧ v.getLsbD 5 = true ∧ 6 ≤ (v.extractLsb' 0 5).toNat ∧ (v.extractLsb' 0 5).toNat ≤ 16 ∧ s.evt.ringEn = false) ∧
    (∃ (s : State) (v : BitVec 32), hostLive s = true ∧ s.evt.lostNew = 0 ∧ (s.evt.head - v).toNat ≤ 2 ^ s.evt.ringLog2.toNat) ∧
    (∃ (s : State) (v : BitVec 32), hostLive s = true ∧ s.evt.lostNew = 0 ∧ 2 ^ s.evt.ringLog2.toNat < (s.evt.head - v).toNat) ∧
    (∃ (s : State), hostLive s = true ∧ s.evt.lostNew = 0) ∧
    (∃ (s : State) (k : Fin 4), chanReach s (8 + k.val) = true ∧ ((∀ a ∈ (chanOf s (8 + k.val)).accepts, a.1 ≠ s.clk.fc + 4)) ∧ (chanOf s (8 + k.val)).closed = false ∧ (chanOf s (8 + k.val)).reqQ.length < 64) ∧
    (∃ (s : State) (k : Fin 4) (w : W64) (l : Bool) (q : List (W64 × Bool)), chanReach s (8 + k.val) = true ∧ ((∀ a ∈ (chanOf s (8 + k.val)).pops, a.1 ≠ s.clk.fc + 4)) ∧ (chanOf s (8 + k.val)).rspQ = (w, l) :: q ∧ (chanOf s (8 + k.val)).rspWait = none) := by
  refine ⟨?_, ?_, ?_, ?_, ?_, ?_⟩
  · exact ⟨live, 0x26, by decide⟩
  · exact ⟨live, 0, by decide⟩
  · exact ⟨live, 1, by decide⟩
  · exact ⟨live, by decide⟩
  · exact ⟨busy, 0, by decide⟩
  · exact ⟨(updChan 8 (fun g => { g with rspQ := [(0, true)] }) busy), 0, 0, true, [], by decide⟩

theorem meets_BaristaExecuteRow :
    (∃ (s : State) (c : Nat) (rest : List Nat), s.mbx.barista = .serving ∧ s.mbx.order = c :: rest ∧ isRegChan c = true ∧ canExecute s c = true ∧ (chanOf s c).st = .busy ∧ (chanOf s c).parts = none ∧ (chanOf s c).rest = none ∧ (regRequest s c).flags = 0 ∧ (regRequest s c).target = 0 ∧ (regRequest s c).len ≤ 256 ∧ cmdOf (regRequest s c).cmd.toNat = none) ∧
    (∃ (s : State) (c : Nat) (rest : List Nat) (k : _), s.mbx.barista = .serving ∧ s.mbx.order = c :: rest ∧ isRegChan c = true ∧ canExecute s c = true ∧ (chanOf s c).st = .busy ∧ (chanOf s c).parts = none ∧ (chanOf s c).rest = none ∧ (regRequest s c).flags = 0 ∧ (regRequest s c).target = 0 ∧ (regRequest s c).len ≤ 256 ∧ cmdOf (regRequest s c).cmd.toNat = some k) := by
  refine ⟨?_, ?_⟩
  · exact ⟨(updChan 0 (fun g => { g with st := .busy, reqHdr := 0x9999 }) { live with mbx := { live.mbx with order := [0] } }), 0, [], by decide⟩
  · exact ⟨(updChan 0 (fun g => { g with st := .busy, reqHdr := 0x1105 }) { live with mbx := { live.mbx with order := [0] } }), 0, [], (cmdOf (regRequest (updChan 0 (fun g => { g with st := .busy, reqHdr := 0x1105 }) { live with mbx := { live.mbx with order := [0] } }) 0).cmd.toNat).get (by decide), ⟨rfl, rfl, by decide, by decide, by decide, by decide, by decide, by decide, by decide, by decide, (Option.some_get _).symm⟩⟩

theorem meets_SysCommandsReply :
    (∃ (s : State) (r : Req) (rev : BitVec 8), ready s r 0x0101 = true ∧ rev ≠ 0) ∧
    (∃ (s : State) (r : Req), ready s r 0x0102 = true) ∧
    (∃ (s : State) (r : Req), ready s r 0x0106 = true ∧ s.mbx.slotA = none ∧ s.mbx.slotB = none) ∧
    (∃ (s : State) (r : Req) (c : BitVec 4), ready s r 0x0108 = true ∧ r.channel.val ≠ c.toNat) ∧
    (∃ (s : State) (r : Req) (c : BitVec 4), ready s r 0x0108 = true ∧ r.channel.val = c.toNat) ∧
    (∃ (s : State) (r : Req) (ms : BitVec 14), ready s r 0x0109 = true ∧ 1 ≤ ms.toNat ∧ ms.toNat ≤ 10000) := by
  refine ⟨?_, ?_, ?_, ?_, ?_, ?_⟩
  · exact ⟨live, r0, 1, by decide⟩
  · exact ⟨live, r0, by decide⟩
  · exact ⟨live, r0, by decide⟩
  · exact ⟨live, r0, 1, by decide⟩
  · exact ⟨live, r0, 0, by decide⟩
  · exact ⟨live, r0, 1, by decide⟩

theorem meets_FirmwareRows :
    (∃ (s : State) (org : Origin) (f : FwImage), s.mbx.fwUpdate = some (org, f)) ∧
    (∀ (s : State) (r : Req) (b : Bool), s = ({ live with mbx := { live.mbx with slotA := some default } } : State) → r = (r0 : Req) → b = (false : Bool) → slotValid s b = true → ready s r 0x0105 = true ∧ tooHot s = false) ∧
    (∃ (s : State) (r : Req), ready s r 0x0107 = true) ∧
    (∃ (s : State), (s.mbx.barista = .serving ∨ s.mbx.barista = .rom)) ∧
    (∃ (s : State) (f : FwRun), s.mbx.barista = .restarting ∧ s.mbx.fw = some f ∧ f.trial = false ∧ s.mbx.reload = false) ∧
    (∃ (s : State) (f : FwRun), s.mbx.barista = .restarting ∧ s.mbx.fw = some f ∧ f.trial = false) ∧
    (∃ (s : State) (f : FwRun), s.mbx.barista = .serving ∧ s.mbx.fw = some f ∧ f.trial = true ∧ slotValid s (!(f.slot.getD false)) = false) := by
  refine ⟨?_, ?_, ?_, ?_, ?_, ?_, ?_⟩
  · exact ⟨{ live with mbx := { live.mbx with fwUpdate := some (default, default) } }, default, default, by decide⟩
  · exact by intros; subst_vars; decide
  · exact ⟨live, r0, by decide⟩
  · exact ⟨live, by decide⟩
  · exact ⟨{ live with mbx := { live.mbx with barista := .restarting } }, { version := 0x10000, ifRev := 1, svn := 0, slot := some false, trial := false }, by decide⟩
  · exact ⟨{ live with mbx := { live.mbx with barista := .restarting } }, { version := 0x10000, ifRev := 1, svn := 0, slot := some false, trial := false }, by decide⟩
  · exact ⟨{ live with mbx := { live.mbx with fw := some { (default : FwRun) with trial := true } } }, { (default : FwRun) with trial := true }, by decide⟩

theorem meets_LogCommandsReply :
    (∃ (s : State) (r : Req) (n : BitVec 32) (count : BitVec 8), ready s r 0x1101 = true ∧ 1 ≤ count.toNat ∧ count.toNat ≤ 63 ∧ n ≠ 0 ∧ later n s.evt.post = true) ∧
    (∃ (s : State) (r : Req) (n : BitVec 32) (count : BitVec 8) (e : BitVec 32 × EvRec) (l : List (BitVec 32 × EvRec)), ready s r 0x1101 = true ∧ 1 ≤ count.toNat ∧ count.toNat ≤ 63 ∧ n ≠ 0 ∧ later n s.evt.post = false ∧ s.evt.log = e :: l ∧ later e.1 n = false) ∧
    (∃ (s : State) (r : Req), ready s r 0x1102 = true) ∧
    (∃ (s : State) (r : Req) (n : BitVec 3), ready s r 0x1103 = true ∧ n.toNat ≤ 4) ∧
    (∃ (s : State) (r : Req) (h : BitVec 12) (n : BitVec 3), ready s r 0x1104 = true ∧ n.toNat ≤ 4 ∧ ((h = 0 ∨ routeOf s h.toNat ≠ none))) ∧
    (∃ (s : State) (r : Req), ready s r 0x1105 = true) := by
  refine ⟨?_, ?_, ?_, ?_, ?_, ?_⟩
  · exact ⟨live, r0, 1, 1, by decide⟩
  · exact ⟨{ live with evt := { live.evt with post := 1, log := [(0, default)] } }, r0, 1, 1, (0, default), [], by decide⟩
  · exact ⟨live, r0, by decide⟩
  · exact ⟨live, r0, 0, by decide⟩
  · exact ⟨live, r0, 0, 0, by decide⟩
  · exact ⟨live, r0, by decide⟩

theorem meets_PwrThmCommandsReply :
    (∃ (s : State) (r : Req), ready s r 0x0401 = true) ∧
    (∃ (s : State) (r : Req) (mask : BitVec 96) (d : Nat), ready s r 0x0402 = true ∧ s.pwr.baseReset = false ∧ bitsOf mask = [d] ∧ (domOf s d).st = .off ∧ ((∀ n, tripNow s n = false)) ∧ ((∀ n ∈ needsAll d, domOn s n = true)) ∧ ((∀ n ∈ needsOf d, domOn s n = true)) ∧ s.pwr.onQueue = [] ∧ switching s < 8) ∧
    (∃ (s : State) (r : Req) (mask : BitVec 96) (d : Nat), ready s r 0x0403 = true ∧ s.pwr.baseReset = false ∧ bitsOf mask = [d] ∧ (domOf s d).st = .on ∧ d ≠ 0 ∧ d ≠ 1 ∧ d ≠ 21 ∧ hasFence d = true ∧ (domOf s d).tamped = false ∧ offRefused s d = false ∧ s.pwr.onQueue = []) ∧
    (∃ (s : State) (r : Req) (mask : BitVec 96) (d : Nat), ready s r 0x0404 = true ∧ s.pwr.baseReset = false ∧ bitsOf mask = [d] ∧ (domOf s d).st = .on ∧ d ≠ 0 ∧ d ≠ 1 ∧ d ≠ 21 ∧ hasFence d = true ∧ (domOf s d).tamped = false ∧ s.pwr.onQueue = []) ∧
    (∃ (s : State) (r : Req) (mask : BitVec 96) (d : Nat), ready s r 0x0405 = true ∧ s.pwr.baseReset = false ∧ bitsOf mask = [d] ∧ isRegionDom d = true ∧ (domOf s d).st = .on ∧ (regionOf s (d - 58)).st = .ready ∧ s.pwr.onQueue = []) ∧
    (∃ (s : State) (r : Req), ready s r 0x0601 = true) ∧
    (∃ (s : State) (r : Req) (first : BitVec 7) (count : BitVec 7), ready s r 0x0602 = true ∧ 1 ≤ count.toNat ∧ first.toNat + count.toNat ≤ 72) ∧
    (∃ (s : State) (r : Req) (w : BitVec 8) (h : BitVec 8), ready s r 0x0603 = true ∧ 60 ≤ w.toNat ∧ w.toNat ≤ h.toNat ∧ w.toNat ≤ 95 ∧ h.toNat ≤ 100) := by
  refine ⟨?_, ?_, ?_, ?_, ?_, ?_, ?_, ?_⟩
  · exact ⟨live, r0, by decide⟩
  · exact ⟨{ (updDom 49 (fun g => { g with st := .off }) live) with thm := {} }, r0, BitVec.ofNat 96 (2 ^ 49), 49, ⟨rfl, rfl, by decide, rfl, fun n => List.any_eq_false.2 (fun k _ => by show ¬ false = true; decide), by decide, by decide, rfl, by decide⟩⟩
  · exact ⟨live, r0, BitVec.ofNat 96 (2 ^ 22), 22, by decide⟩
  · exact ⟨live, r0, BitVec.ofNat 96 (2 ^ 22), 22, by decide⟩
  · exact ⟨(updRegion 0 (fun g => { g with st := .ready }) live), r0, BitVec.ofNat 96 (2 ^ 58), 58, by decide⟩
  · exact ⟨live, r0, by decide⟩
  · exact ⟨live, r0, 0, 1, by decide⟩
  · exact ⟨live, r0, 60, 60, by decide⟩

theorem meets_DomainAndThermalRows :
    (∃ (s : State) (d : Fin 96), (domOf s d.val).st = .poweringUp ∧ upReady s d.val = true ∧ s.pwr.onQueue = []) ∧
    (∃ (s : State) (d : Fin 96), (domOf s d.val).st = .isolated ∧ (domOf s d.val).waitOn = [] ∧ s.pwr.onQueue = []) ∧
    (∃ (s : State) (d : Fin 96), (domOf s d.val).fenced = true ∧ (domOf s d.val).tamped = false ∧ (domOf s d.val).st = .on ∧ tampClear s d.val = true) ∧
    (∃ (s : State) (r : Fin 32), (domOf s (58 + r.val)).waitRetain ≠ [] ∧ (domOf s (58 + r.val)).st = .on ∧ (regionOf s r.val).st = .ready) ∧
    (∃ (s : State) (l : List (Option Int)) (n : Nat) (v : Int), s.ext.pwrGood = true ∧ s.pwr.tripRetention = false ∧ n < 72 ∧ validReading l n = some v) ∧
    (∃ (s : State), belowBy3 s s.thm.throttleC = true) ∧
    (∃ (s : State), belowBy3 s s.thm.warnC = true) ∧
    (∃ (s : State) (temp : Int), s.ext.pwrGood = true ∧ s.pwr.tripRetention = false ∧ 920 ≤ temp) ∧
    (∃ (s : State), s.pwr.tripRetention = true) ∧
    (∃ (s : State), s.pwr.tripRetention = false) := by
  refine ⟨?_, ?_, ?_, ?_, ?_, ?_, ?_, ?_, ?_, ?_⟩
  · exact ⟨(updDom 49 (fun g => { g with st := .poweringUp }) live), 49, by decide⟩
  · exact ⟨(updDom 49 (fun g => { g with st := .isolated }) live), 49, by decide⟩
  · exact ⟨(updDom 49 (fun g => { g with fenced := true }) live), 49, by decide⟩
  · exact ⟨(updRegion 0 (fun g => { g with st := .ready }) (updDom 58 (fun g => { g with waitRetain := [default] }) live)), 0, by decide⟩
  · exact ⟨live, [some 320], 0, 320, by decide⟩
  · exact ⟨live, by decide⟩
  · exact ⟨live, by decide⟩
  · exact ⟨live, 920, by decide⟩
  · exact ⟨{ live with pwr := { live.pwr with tripRetention := true } }, by decide⟩
  · exact ⟨live, by decide⟩

theorem meets_RegionSwitchRows :
    (∃ (s : State) (r : Fin 32) (k : Fin 4), (regionOf s r.val).st = .running ∧ (regionOf s r.val).pendSw = none ∧ runnable s r.val k.val = true) ∧
    (∃ (s : State) (r : Fin 32) (w : PendSw), (regionOf s r.val).st = .running ∧ (regionOf s r.val).pendSw = some w ∧ s.clk.fc < w.at_ + 4) ∧
    (∃ (s : State) (r : Fin 32) (k : Fin 4), (regionOf s r.val).st = .running ∧ (regionOf s r.val).pendSw = none ∧ runnable s r.val k.val = false) ∧
    (∃ (s : State) (r : Fin 32) (w : PendSw), (regionOf s r.val).st = .running ∧ (regionOf s r.val).pendSw = some w ∧ w.at_ + 4 ≤ s.clk.fc) ∧
    (∃ (s : State) (r : Fin 32) (k : Fin 4) (e : Nat) (b : Bool), (regionOf s r.val).resetEnd = some (e, b) ∧ (regionOf s r.val).present = some k ∧ e ≤ s.clk.fc ∧ (regionOf s r.val).st = .held) ∧
    (∃ (s : State) (a : Armed), s.ctx.armed = [a] ∧ a.kind = .switch ∧ a.b.toNat ≤ s.clk.time.toNat ∧ (regionOf s a.region).st = .running ∧ (regionOf s a.region).pendSw = none ∧ runnable s a.region a.slot.val = true ∧ (regionOf s a.region).fabReqAt ≠ some s.clk.fc ∧ (regionOf s a.region).effectAt ≠ some s.clk.fc) ∧
    (∃ (s : State) (a : Armed), s.ctx.armed = [a] ∧ a.kind = .hold ∧ a.b.toNat + 4 ≤ s.clk.time.toNat ∧ (regionOf s a.region).st = .running) ∧
    (∃ (s : State), ((∀ a ∈ s.ctx.armed, armedDue s.clk.time.toNat a = false))) := by
  refine ⟨?_, ?_, ?_, ?_, ?_, ?_, ?_, ?_⟩
  · exact ⟨busy, 0, 1, by decide⟩
  · exact ⟨(updRegion 0 (fun g => { g with pendSw := some { slot := 1, init := false, at_ := 4096, org := none } }) busy), 0, { slot := 1, init := false, at_ := 4096, org := none }, by decide⟩
  · exact ⟨busy, 0, 2, by decide⟩
  · exact ⟨(updRegion 0 (fun g => { g with pendSw := some { slot := 1, init := false, at_ := 4000, org := none } }) busy), 0, { slot := 1, init := false, at_ := 4000, org := none }, by decide⟩
  · exact ⟨(updRegion 0 (fun g => { g with st := .held, resetEnd := some (4000, true) }) busy), 0, 0, 4000, true, by decide⟩
  · exact ⟨{ busy with ctx := { busy.ctx with armed := [{ org := none, kind := .switch, region := 0, slot := 1, init := false, b := 4096 }] } }, { org := none, kind := .switch, region := 0, slot := 1, init := false, b := 4096 }, by decide⟩
  · exact ⟨{ busy with ctx := { busy.ctx with armed := [{ org := none, kind := .hold, region := 0, slot := 1, init := false, b := 4092 }] } }, { org := none, kind := .hold, region := 0, slot := 1, init := false, b := 4092 }, by decide⟩
  · exact ⟨live, by decide⟩

theorem meets_ArmedCommandsReply :
    (∃ (s : State) (r : Req) (mask : BitVec 32) (at_ : W64) (b : Nat), ready s r 0x0302 = true ∧ bitsOf mask ≠ [] ∧ armTime s at_.toNat = .ok b) ∧
    (∃ (s : State) (r : Req) (mask : BitVec 32) (at_ : W64) (b : Nat), ready s r 0x0303 = true ∧ bitsOf mask ≠ [] ∧ armTime s at_.toNat = .ok b) ∧
    (∃ (s : State) (r : Req) (mask : BitVec 32) (at_ : W64) (b : Nat), ready s r 0x0304 = true ∧ bitsOf mask ≠ [] ∧ armTime s at_.toNat = .ok b) ∧
    (∃ (s : State) (r : Req) (mask : BitVec 32) (at_ : W64) (b : Nat), ready s r 0x0305 = true ∧ bitsOf mask ≠ [] ∧ armTime s at_.toNat = .ok b) ∧
    (∃ (s : State) (r : Req) (mask : BitVec 32) (at_ : W64) (b : Nat), ready s r 0x0307 = true ∧ bitsOf mask ≠ [] ∧ armTime s at_.toNat = .ok b) ∧
    (∃ (s : State) (r : Req) (mask : BitVec 32) (at_ : W64) (b : Nat), ready s r 0x0306 = true ∧ bitsOf mask ≠ [] ∧ ((∀ n ∈ bitsOf mask, (regionOf s n).st ≠ .held)) ∧ armTime s at_.toNat = .ok b) ∧
    (∃ (s : State) (r : Req) (mask : BitVec 32), ready s r 0x0306 = true ∧ bitsOf mask ≠ [] ∧ ((∀ n ∈ bitsOf mask, (regionOf s n).st = .held))) := by
  refine ⟨?_, ?_, ?_, ?_, ?_, ?_, ?_⟩
  · exact ⟨busy, r0, 1, 8192, 8192, ⟨by decide, by decide, rfl⟩⟩
  · exact ⟨busy, r0, 1, 8192, 8192, ⟨by decide, by decide, rfl⟩⟩
  · exact ⟨busy, r0, 1, 8192, 8192, ⟨by decide, by decide, rfl⟩⟩
  · exact ⟨busy, r0, 1, 8192, 8192, ⟨by decide, by decide, rfl⟩⟩
  · exact ⟨busy, r0, 1, 8192, 8192, ⟨by decide, by decide, rfl⟩⟩
  · exact ⟨busy, r0, 1, 8192, 8192, ⟨by decide, by decide, by decide, rfl⟩⟩
  · exact ⟨(updRegion 0 (fun g => { g with st := .held }) busy), r0, 1, by decide⟩

theorem meets_ContextCommandsReply :
    (∃ (s : State) (r : Req) (mask : BitVec 32) (n : Nat) (c : BitVec 4) (k : BitVec 2), ready s r 0x0301 = true ∧ bitsOf mask = [n] ∧ domCut s 49 = false ∧ s.load.lost = false ∧ stageRefusal s n c.toNat k.toNat = none ∧ waitingStages s < 64) ∧
    (∃ (s : State) (r : Req) (mask : BitVec 32), ready s r 0x0308 = true ∧ bitsOf mask ≠ [] ∧ ((∀ n ∈ bitsOf mask, ((regionOf s n).st = .ready ∨ (regionOf s n).st = .held ∨ (regionOf s n).st = .faulted) ∧ stagingOf s n = false))) ∧
    (∃ (s : State) (r : Req) (mask : BitVec 32) (n : Nat) (k : BitVec 2), ready s r 0x0309 = true ∧ bitsOf mask = [n] ∧ verified s n k.toNat = true ∧ (regionOf s n).pendSw = none ∧ runsOrHolds (regionOf s n) k.toNat = false) ∧
    (∃ (s : State) (r : Req) (mask : BitVec 32), ready s r 0x030A = true ∧ bitsOf mask ≠ []) ∧
    (∃ (s : State) (r : Req) (p : BitVec 5), ready s r 0x030B = true ∧ 10 ≤ p.toNat ∧ p.toNat ≤ 20 ∧ s.ctx.armed = []) := by
  refine ⟨?_, ?_, ?_, ?_, ?_⟩
  · exact ⟨{ live with load := { live.load with store := [(0, some default)] } }, r0, 1, 0, 0, 0, by decide⟩
  · exact ⟨(updRegion 0 (fun g => { g with st := .ready }) live), r0, 1, by decide⟩
  · exact ⟨busy, r0, 1, 0, 1, by decide⟩
  · exact ⟨live, r0, 1, by decide⟩
  · exact ⟨live, r0, 10, by decide⟩

theorem meets_DramTrafficRows :
    (∃ (s : State) (src : BitVec 8) (tag : BitVec 12) (q : NocReq) (l : Nat), meshReq s src tag = some q ∧ destOf s q.addr.toNat = .dram ∧ targetShut s q.addr.toNat = false ∧ protDenied s src.toNat q.addr.toNat = false ∧ s.start.engineFailed = false ∧ s.prt.key = true ∧ domCut s 2 = false ∧ inCarve s q.addr.toNat (8 * dramWords q) = false ∧ dramLines q = [l] ∧ metaFailed s l = false ∧ irOfPage s (l / 64) = none ∧ (subOf s (lineChan s l).1 (lineChan s l).2.1).queue.length < 128) ∧
    (∃ (s : State) (c : Fin 8) (sub : Bool) (o : LineOp) (j : DramJob), (dchanOf s c.val).st = .inService ∧ domCut s (7 + c.val) = false ∧ pickOp s (subOf s c.val sub) = some o ∧ jobById s o.job = some j ∧ j.left = [o.line] ∧ j.req.op = .read ∧ irOfPage s (o.line / 64) = none ∧ (lineRead o.line s).1.2 = false ∧ j.status = .ok ∧ rspLost s j.req.src.toNat j.req.addr.toNat = false) ∧
    (∃ (s : State) (c : Fin 8) (sub : Bool) (o : LineOp) (j : DramJob), (dchanOf s c.val).st = .inService ∧ domCut s (7 + c.val) = false ∧ pickOp s (subOf s c.val sub) = some o ∧ jobById s o.job = some j ∧ coversLine j.req o.line = true ∧ irOfPage s (o.line / 64) = none) ∧
    (∃ (s : State) (c : Fin 8) (sub : Bool) (pick : Nat) (o : LineOp), (subOf s c.val sub).queue[pick]? = some o) ∧
    (∃ (s : State) (c : Fin 8), (dchanOf s c.val).st = .inService) ∧
    (∃ (s : State), s.dram.dmaCmds ≠ [] ∧ ((∀ q ∈ s.noc.out, q.src ≠ 70))) := by
  refine ⟨?_, ?_, ?_, ?_, ?_, ?_⟩
  · exact ⟨{ withDram with noc := { withDram.noc with mesh := [readAt 72 0] } }, 72, 0, readAt 72 0, 0, by decide⟩
  · exact ⟨(updDchan 0 (fun g => { g with subs := [(0, { queue := [{ job := 0, line := 0, loc := default, cls := 0, promoted := false }] })] }) { withDram with dram := { withDram.dram with jobs := [{ id := 0, req := { readAt 72 0 with op := .read, len := 7, beFirst := 0xFF, beLast := 0xFF }, left := [0], got := [], status := .ok }] } }), 0, false, { job := 0, line := 0, loc := default, cls := 0, promoted := false }, { id := 0, req := { readAt 72 0 with op := .read, len := 7, beFirst := 0xFF, beLast := 0xFF }, left := [0], got := [], status := .ok }, by decide⟩
  · exact ⟨(updDchan 0 (fun g => { g with subs := [(0, { queue := [{ job := 0, line := 0, loc := default, cls := 0, promoted := false }] })] }) { withDram with dram := { withDram.dram with jobs := [{ id := 0, req := { readAt 72 0 with op := .write, len := 7, beFirst := 0xFF, beLast := 0xFF }, left := [0], got := [], status := .ok }] } }), 0, false, { job := 0, line := 0, loc := default, cls := 0, promoted := false }, { id := 0, req := { readAt 72 0 with op := .write, len := 7, beFirst := 0xFF, beLast := 0xFF }, left := [0], got := [], status := .ok }, by decide⟩
  · exact ⟨(updDchan 0 (fun g => { g with subs := [(0, { queue := [{ job := 0, line := 0, loc := default, cls := 0, promoted := false }] })] }) { withDram with dram := { withDram.dram with jobs := [{ id := 0, req := { readAt 72 0 with op := .write, len := 7, beFirst := 0xFF, beLast := 0xFF }, left := [0], got := [], status := .ok }] } }), 0, false, 0, { job := 0, line := 0, loc := default, cls := 0, promoted := false }, by decide⟩
  · exact ⟨withDram, 0, by decide⟩
  · exact ⟨{ withDram with dram := { withDram.dram with dmaCmds := [default] } }, by decide⟩

theorem meets_DramChannelRows :
    (∃ (s : State) (c : Fin 8), ((dchanOf s c.val).st = .inService ∨ (dchanOf s c.val).st = .switching)) ∧
    (∃ (s : State) (c : Fin 8), (dchanOf s c.val).st = .inService) ∧
    (∃ (s : State) (c : Fin 8), (dchanOf s c.val).st = .inService) ∧
    (∃ (s : State) (org : Origin) (sp : BitVec 2), s.dram.queued = some (org, sp) ∧ gatheringAny s = false ∧ inServiceChans s ≠ []) ∧
    (∃ (s : State) (c : Fin 8) (org : Origin) (sp : BitVec 2) (left : List Nat) (f : Bool), s.dram.switch = some (org, sp, left, f) ∧ left.contains c.val = true) ∧
    (∃ (s : State) (c : Fin 8) (x : DramLoc) (org : Option Origin), (dchanOf s c.val).repair = [(x, org)]) := by
  refine ⟨?_, ?_, ?_, ?_, ?_, ?_⟩
  · exact ⟨withDram, 0, by decide⟩
  · exact ⟨withDram, 0, by decide⟩
  · exact ⟨withDram, 0, by decide⟩
  · exact ⟨{ withDram with dram := { withDram.dram with queued := some (default, 0) } }, default, 0, by decide⟩
  · exact ⟨{ withDram with dram := { withDram.dram with switch := some (default, 0, [0], false) } }, 0, default, 0, [0], false, by decide⟩
  · exact ⟨(updDchan 0 (fun g => { g with repair := [(default, none)] }) withDram), 0, default, none, by decide⟩

theorem meets_DrmCommandsReply :
    (∃ (s : State) (r : Req) (sp : BitVec 2), ready s r 0x0702 = true ∧ inServiceChans s ≠ [] ∧ (spSpeed s sp.toNat).toNat ≤ topSpeedAll s ∧ gatheringAny s = false) ∧
    (∃ (s : State) (r : Req) (sp : BitVec 2) (speed : BitVec 3), ready s r 0x0703 = true ∧ speed.toNat ≤ 4 ∧ speed.toNat ≤ topSpeedAll s ∧ spInUse s sp.toNat = false) ∧
    (∃ (s : State) (r : Req) (age : BitVec 16), ready s r 0x0704 = true ∧ 50 ≤ age.toNat) ∧
    (∃ (s : State) (r : Req) (e : BitVec 5), ready s r 0x0705 = true ∧ 9 ≤ e.toNat ∧ e.toNat ≤ 16) ∧
    (∃ (s : State) (r : Req) (c : BitVec 3) (sub : Bool) (dimm : Bool) (rank : Bool) (cid : BitVec 3) (bg : BitVec 3) (ba : BitVec 2) (row : BitVec 18) (x : DramLoc), ready s r 0x0706 = true ∧ x = { sub := sub, dimm := bit dimm, rank := bit rank, cid := cid.toNat, bg := bg.toNat, ba := ba.toNat, row := row.toNat, col := 0 } ∧ (dchanOf s c.toNat).st = .inService ∧ rowExists s c.toNat x = true ∧ (dchanOf s c.toNat).noSpare.contains x.group = false) ∧
    (∃ (s : State) (r : Req), ready s r 0x0707 = true) ∧
    (∃ (s : State) (r : Req), ready s r 0x0708 = true ∧ tooHot s = false) ∧
    (∃ (s : State) (r : Req), ready s r 0x0709 = true ∧ tooHot s = false) ∧
    (∃ (s : State) (r : Req) (c : BitVec 3) (sp : BitVec 2) (x : List Byte), ready s r 0x070A = true ∧ Tab.get none (dchanOf s c.toNat).results sp.toNat = some x) ∧
    (∀ (s : State) (r : Req) (c : BitVec 3) (sp : BitVec 2) (x : List Byte) (d : Dimm), s = ((updDchan 0 (fun g => { g with inList := false, dimms := [some { (default : Dimm) with serial := Config.recordSerial [] }] }) withDram) : State) → r = (r0 : Req) → c = (0 : BitVec 3) → sp = (0 : BitVec 2) → x = ([] : List Byte) → d = ({ (default : Dimm) with serial := Config.recordSerial [] } : Dimm) → Config.recordCrcOk x = true → ready s r 0x070B = true ∧ some d ∈ (dchanOf s c.toNat).dimms ∧ d.serial = Config.recordSerial x ∧ spInUse s sp.toNat = false) ∧
    (∃ (s : State) (r : Req), ready s r 0x070C = true) ∧
    (∃ (s : State) (r : Req), ready s r 0x0701 = true) ∧
    (∃ (s : State) (r : Req), ready s r 0x070D = true) := by
  refine ⟨?_, ?_, ?_, ?_, ?_, ?_, ?_, ?_, ?_, ?_, ?_, ?_, ?_⟩
  · exact ⟨withDram, r0, 0, by decide⟩
  · exact ⟨live, r0, 0, 0, by decide⟩
  · exact ⟨live, r0, 50, by decide⟩
  · exact ⟨live, r0, 9, by decide⟩
  · exact ⟨withDram, r0, 0, false, false, false, 0, 0, 0, 0, { sub := false, dimm := 0, rank := 0, cid := 0, bg := 0, ba := 0, row := 0, col := 0 }, by decide⟩
  · exact ⟨live, r0, by decide⟩
  · exact ⟨live, r0, by decide⟩
  · exact ⟨live, r0, by decide⟩
  · exact ⟨(updDchan 0 (fun g => { g with results := [(0, some [])] }) live), r0, 0, 0, [], by decide⟩
  · exact by intros; subst_vars; exact ⟨by decide, List.mem_cons_self, rfl, by decide⟩
  · exact ⟨live, r0, by decide⟩
  · exact ⟨live, r0, by decide⟩
  · exact ⟨live, r0, by decide⟩

theorem meets_FabricAndScrubRows :
    (∃ (s : State), fabricClock s = true) ∧
    (∃ (s : State), fabricClock s = false) ∧
    (∃ (s : State) (r : Fin 32) (k : Fin 4), ((regionOf s r.val).slot k.val).st ≠ .empty) ∧
    (∃ (s : State) (layer : Bool) (column : Fin 24) (row : Fin 24) (c : Fin 256) (w : Fin 16), s.start.bondPads.contains (bondSignal layer column.val row.val c.val w.val) = false) ∧
    (∃ (s : State) (x : Stored), scrubRuns s = true ∧ shareLent s = false ∧ onPlane (scrubPlace s) = true ∧ Tab.get none s.load.store (16 * (scrubPlace s).region + ((regionOf s (scrubPlace s).region).slot (scrubPlace s).slot).ctx.toNat) = some x ∧ x.damaged.contains (scrubPlace s).frame = false ∧ (regionOf s (scrubPlace s).region).st ≠ .running) ∧
    (∃ (s : State), scrubRuns s = true ∧ onPlane (scrubPlace s) = false ∧ (scrubPlace s).deferred = [] ∧ ((∃ r, r < 32 ∧ anyVerified (regionOf s r) = true))) ∧
    (∃ (s : State), scrubRuns s = true) ∧
    (∃ (s : State) (r : Fin 32) (c : Fin 16) (tile : Fin 36) (f : Fin 1024) (x : Stored), Tab.get none s.load.store (16 * r.val + c.val) = some x ∧ domOn s 48 = true ∧ x.damaged.contains (1024 * tile.val + f.val) = false ∧ ((∀ k, k < 4 → verified s r.val k = true → ((regionOf s r.val).slot k).ctx.toNat ≠ c.val))) ∧
    (∃ (s : State) (r : Req), ready s r 0x0206 = true) := by
  refine ⟨?_, ?_, ?_, ?_, ?_, ?_, ?_, ?_, ?_⟩
  · exact ⟨live, by decide⟩
  · exact ⟨State.reset, by decide⟩
  · exact ⟨busy, 0, 0, by decide⟩
  · exact ⟨live, false, 0, 0, 0, 0, by decide⟩
  · exact ⟨{ live with load := { live.load with store := [(0, some default)] }, scrub := {}, ctx := { regions := [(0, { st := .ready, slots := [(0, okSlot 0)] })] } }, default, by decide⟩
  · exact ⟨{ live with load := { live.load with store := [(0, some default)] }, scrub := { region := 32 }, ctx := { regions := [(0, { st := .ready, slots := [(0, okSlot 0)] })] } }, by decide⟩
  · exact ⟨live, by decide⟩
  · exact ⟨{ live with load := { live.load with store := [(0, some default)] } }, 0, 0, 0, 0, default, by decide⟩
  · exact ⟨live, r0, by decide⟩

theorem meets_IntegrityRows :
    (∃ (s : State) (i : Fin 8), s.prt.key = true ∧ (irOf s i.val).st = .converting ∧ (irOf s i.val).reinit = none ∧ poisonOf s ((irOf s i.val).conv.toNat / 4096) = none ∧ convAtEnd { irOf s i.val with conv := (irOf s i.val).conv + 4096 } = false) ∧
    (∃ (s : State) (i : Fin 8), s.prt.key = true ∧ (irOf s i.val).st = .converting ∧ (irOf s i.val).reinit = none ∧ convAtEnd { irOf s i.val with conv := (irOf s i.val).conv + 4096 } = true ∧ (irOf s i.val).queued = []) ∧
    (∃ (s : State) (i : Fin 8) (org : Origin), (irOf s i.val).cmd = some org ∧ s.prt.key = true ∧ (irOf s i.val).st = .changing) ∧
    (∃ (s : State) (i : Fin 8) (org : Origin) (first : Nat) (count : Nat), (irOf s i.val).reinit = some (org, first, count) ∧ s.prt.key = true) := by
  refine ⟨?_, ?_, ?_, ?_⟩
  · exact ⟨(updIr 0 (fun g => { g with st := .converting }) withDram), 0, by decide⟩
  · exact ⟨(updIr 0 (fun g => { g with st := .converting, conv := BitVec.ofNat 48 (2 ^ 30 - 4096) }) withDram), 0, by decide⟩
  · exact ⟨(updIr 0 (fun g => { g with st := .changing, cmd := some default }) withDram), 0, default, by decide⟩
  · exact ⟨(updIr 0 (fun g => { g with reinit := some (default, 0, 0) }) withDram), 0, default, 0, 0, by decide⟩

theorem meets_PrtCommandsReply :
    (∃ (s : State) (r : Req), ready s r 0x0801 = true) ∧
    (∃ (s : State) (r : Req) (p : BitVec 11), ready s r 0x0802 = true ∧ capacityOk p.toNat = true ∧ tooHot s = false) ∧
    (∃ (s : State) (r : Req) (i : BitVec 3) (base : BitVec 10) (k : BitVec 4), ready s r 0x0803 = true ∧ s.prt.key = true ∧ (irOf s i.toNat).en = false ∧ (irOf s i.toNat).st ≠ .changing ∧ (irOf s i.toNat).st ≠ .converting ∧ irFits s i.toNat base.toNat k.toNat = true) ∧
    (∃ (s : State) (r : Req) (i : BitVec 3) (first : BitVec 36) (count : BitVec 36), ready s r 0x0804 = true ∧ s.prt.key = true ∧ (irOf s i.toNat).en = true ∧ (irOf s i.toNat).st = .inService ∧ count ≠ 0 ∧ (irOf s i.toNat).firstPage ≤ first.toNat ∧ first.toNat + count.toNat ≤ (irOf s i.toNat).firstPage + (irOf s i.toNat).numPages ∧ s.prt.poison = [] ∧ (irOf s i.toNat).epoch ≠ BitVec.allOnes 32) ∧
    (∃ (s : State) (r : Req) (m : BitVec 4) (base : BitVec 36) (limit : BitVec 36), ready s r 0x0805 = true ∧ (Tab.get {} s.prt.ranges m.toNat).lock = false ∧ base.toNat ≤ limit.toNat) ∧
    (∃ (s : State) (r : Req) (m : BitVec 4), ready s r 0x0805 = true ∧ (Tab.get {} s.prt.ranges m.toNat).lock = true) ∧
    (∃ (s : State) (r : Req) (mask : BitVec 256), ready s r 0x0806 = true ∧ mask.getLsbD 70 = false ∧ mask.getLsbD 71 = false) := by
  refine ⟨?_, ?_, ?_, ?_, ?_, ?_, ?_⟩
  · exact ⟨live, r0, by decide⟩
  · exact ⟨live, r0, 0, by decide⟩
  · exact ⟨withDram, r0, 0, 0, 0, by decide⟩
  · exact ⟨(updIr 0 (fun g => { g with en := true, st := .inService, sizeLog2 := 0 }) withDram), r0, 0, 0, 1, by decide⟩
  · exact ⟨live, r0, 0, 0, 0, by decide⟩
  · exact ⟨{ live with prt := { live.prt with ranges := [(0, { lock := true })] } }, r0, 0, by decide⟩
  · exact ⟨live, r0, 0, by decide⟩

theorem meets_LnkPortCommandsReply :
    (∃ (s : State) (r : Req), ready s r 0x0901 = true) ∧
    (∃ (s : State) (r : Req) (mask : BitVec 6), ready s r 0x0902 = true ∧ maskPorts mask.toNat ≠ []) ∧
    (∃ (s : State) (r : Req) (mask : BitVec 6), ready s r 0x0903 = true ∧ ((∀ p ∈ maskPorts mask.toNat, (portOf s p).slots = [] ∧ s.lnk.upstream ≠ some p))) ∧
    (∃ (s : State) (r : Req) (member : Bool), ready s r 0x0904 = true ∧ s.lnk.member ≠ member ∧ ((∀ n, n < 32 → (regionOf s n).st = .off ∨ (regionOf s n).st = .blank ∨ (regionOf s n).st = .retired))) ∧
    (∃ (s : State) (r : Req) (mask : BitVec 6), ready s r 0x0908 = true ∧ maskPorts mask.toNat ≠ [] ∧ ((∀ p ∈ maskPorts mask.toNat, (portOf s p).st = .up ∧ (portOf s p).cmdReset = none))) ∧
    (∃ (s : State) (r : Req) (mask : BitVec 6), ready s r 0x0909 = true ∧ maskPorts mask.toNat ≠ [] ∧ ((∀ p ∈ maskPorts mask.toNat, (portOf s p).st = .up ∧ (portOf s p).cmdWiden = none))) ∧
    (∃ (s : State) (r : Req) (port : BitVec 3) (pattern : BitVec 3) (mode : BitVec 2) (e : BitVec 6) (b : BitVec 7), ready s r 0x090A = true ∧ testLegal port.toNat pattern.toNat mode.toNat e.toNat b.toNat = true ∧ portIdle s port.toNat = true) ∧
    (∃ (s : State) (r : Req) (port : BitVec 3) (c : TestCfg), ready s r 0x090B = true ∧ port.toNat < 6 ∧ (portOf s port.toNat).test = some c) ∧
    (∃ (s : State) (r : Req) (port : BitVec 3) (lane : BitVec 3) (n : BitVec 4) (m : BitVec 16), ready s r 0x090F = true ∧ port.toNat < 6 ∧ n ≠ 0 ∧ n.toNat ≤ 8 ∧ m ≠ 0 ∧ (portOf s port.toNat).st = .up ∧ lane.toNat < widthLanes (portOf s port.toNat).txWidth) ∧
    (∃ (s : State) (r : Req) (limit : BitVec 16), ready s r 0x0910 = true ∧ limit ≠ 0) := by
  refine ⟨?_, ?_, ?_, ?_, ?_, ?_, ?_, ?_, ?_, ?_⟩
  · exact ⟨live, r0, by decide⟩
  · exact ⟨live, r0, 1, by decide⟩
  · exact ⟨live, r0, 0, by decide⟩
  · exact ⟨live, r0, true, by decide⟩
  · exact ⟨(updPort 0 (fun g => { g with st := .up }) live), r0, 1, by decide⟩
  · exact ⟨(updPort 0 (fun g => { g with st := .up }) live), r0, 1, by decide⟩
  · exact ⟨(updPort 0 (fun g => { g with enabled := false, st := .disabled }) live), r0, 0, 0, 0, 0, 0, by decide⟩
  · exact ⟨(updPort 0 (fun g => { g with test := some default }) live), r0, 0, default, by decide⟩
  · exact ⟨(updPort 0 (fun g => { g with st := .up, txWidth := 3 }) live), r0, 0, 0, 1, 1, by decide⟩
  · exact ⟨live, r0, 1, by decide⟩

theorem meets_LnkTableCommandsReply :
    (∃ (s : State) (r : Req) (h : BitVec 12) (route : W64) (next : BitVec 12), ready s r 0x0905 = true ∧ h ≠ 0 ∧ route.toNat < 2 ^ 63 ∧ ((usesNext route = true → next ≠ 0)) ∧ reaches s h.toNat 4096 next.toNat = false) ∧
    (∃ (s : State) (r : Req), ready s r 0x0906 = true) ∧
    (∃ (s : State) (r : Req) (h : BitVec 12), ready s r 0x0907 = true ∧ (h = 0 ∨ (Tab.get {} s.lnk.routes h.toNat).present = true)) ∧
    (∃ (s : State) (r : Req), ready s r 0x090C = true) ∧
    (∃ (s : State) (r : Req) (port : BitVec 3) (ps : BitVec 16), ready s r 0x090D = true ∧ port.toNat < 6 ∧ ps.toInt.natAbs ≤ 5000) ∧
    (∃ (s : State) (r : Req) (port : BitVec 3), ready s r 0x090E = true ∧ port.toNat < 6) := by
  refine ⟨?_, ?_, ?_, ?_, ?_, ?_⟩
  · exact ⟨live, r0, 1, 0, 0, by decide⟩
  · exact ⟨live, r0, by decide⟩
  · exact ⟨live, r0, 0, by decide⟩
  · exact ⟨live, r0, by decide⟩
  · exact ⟨live, r0, 0, 0, by decide⟩
  · exact ⟨live, r0, 0, by decide⟩

theorem meets_LinkTrainingRows :
    (∃ (s : State) (p : Fin 6) (lanes : List DetectFind), canTrain s p.val = true ∧ (portOf s p.val).retry = false ∧ (portOf s p.val).st = .detect ∧ ((∀ f ∈ lanes.take 9, f ≠ .transmitter)) ∧ 2 ≤ ((lanes.take 9).filter (fun f => f == .receiver)).length) ∧
    (∃ (s : State) (p : Fin 6), (portOf s p.val).st = .clock) ∧
    (∃ (s : State) (p : Fin 6) (o : TrainObs), (portOf s p.val).st = .lanes ∧ o.miswired = false) ∧
    (∃ (s : State) (p : Fin 6), (portOf s p.val).st = .equalise) ∧
    (∃ (s : State) (p : Fin 6), (portOf s p.val).st = .exchange ∧ (portOf s p.val).role ≠ 0) ∧
    (∃ (s : State) (p : Fin 6) (o : TrainObs), (portOf s p.val).st = .key ∧ (portOf s p.val).ready = false ∧ o.keyOk = true) ∧
    (∃ (s : State) (p : Fin 6), ((portOf s p.val).st = .clock ∨ (portOf s p.val).st = .equalise ∨ (portOf s p.val).st = .exchange)) ∧
    (∃ (s : State) (p : Fin 6) (c : Capability), (portOf s p.val).st = .exchange ∧ s.lnk.member = false ∧ c.root = false ∧ s.clk.timeLocked = false ∧ s.lnk.upstream = none) ∧
    (∃ (s : State) (p : Fin 6) (c : Capability), (portOf s p.val).peer = some c ∧ (portOf s p.val).ready = true ∧ (portOf s p.val).st ≠ .up) := by
  refine ⟨?_, ?_, ?_, ?_, ?_, ?_, ?_, ?_, ?_⟩
  · exact ⟨live, 0, [.receiver, .receiver], by decide⟩
  · exact ⟨(updPort 0 (fun g => { g with st := .clock }) live), 0, by decide⟩
  · exact ⟨(updPort 0 (fun g => { g with st := .lanes }) live), 0, default, by decide⟩
  · exact ⟨(updPort 0 (fun g => { g with st := .equalise }) live), 0, by decide⟩
  · exact ⟨(updPort 0 (fun g => { g with st := .exchange, role := 1 }) live), 0, by decide⟩
  · exact ⟨(updPort 0 (fun g => { g with st := .key }) live), 0, { (default : TrainObs) with keyOk := true }, by decide⟩
  · exact ⟨(updPort 0 (fun g => { g with st := .clock }) live), 0, by decide⟩
  · exact ⟨(updPort 0 (fun g => { g with st := .exchange }) { live with clk := { live.clk with timeLocked := false } }), 0, default, by decide⟩
  · exact ⟨(updPort 0 (fun g => { g with peer := some default, ready := true }) live), 0, default, by decide⟩

theorem meets_LinkLaneRows :
    (∃ (s : State) (p : Fin 6) (k : Fin 9), (portOf s p.val).st = .up ∧ (portOf s p.val).rxMap.contains k.val = false) ∧
    (∃ (s : State) (p : Fin 6) (k : Fin 9), (portOf s p.val).st = .up ∧ (portOf s p.val).rxMap.contains k.val = true ∧ (portOf s p.val).txStep = none ∧ (portOf s p.val).rxWidth = 3 ∧ (portOf s p.val).rxSpare = false ∧ (portOf s p.val).rxReversed = false ∧ (portOf s p.val).rxFailed = 0 ∧ (portOf s p.val).spareBad = false ∧ k.val < 8) ∧
    (∃ (s : State) (p : Fin 6) (k : Fin 9), (portOf s p.val).st = .up ∧ (portOf s p.val).txStep = none ∧ (portOf s p.val).txSpare = false ∧ (portOf s p.val).txMap.contains k.val = true) ∧
    (∃ (s : State) (p : Fin 6) (code : BitVec 2), (portOf s p.val).st = .up ∧ (portOf s p.val).txStep = none ∧ code ≠ 0) ∧
    (∃ (s : State) (p : Fin 6) (st : LaneStep), (portOf s p.val).rxStep = some st) ∧
    (∃ (s : State) (p : Fin 6) (st : LaneStep), (portOf s p.val).txStep = some st ∧ st.switch.isSome = true) ∧
    (∃ (s : State) (p : Fin 6) (st : LaneStep), (portOf s p.val).rxStep = some st ∧ st.switch.isSome = true) ∧
    (∃ (s : State) (p : Fin 6) (n : BitVec 32), (portOf s p.val).st = .up ∧ (portOf s p.val).rxSpare = false ∧ (portOf s p.val).spareBad = false ∧ s.thm.throttle = false ∧ 16 < n.toNat) ∧
    (∃ (s : State) (p : Fin 6) (good : BitVec 9) (org : Origin), (portOf s p.val).cmdWiden = some org ∧ (portOf s p.val).rxStep = none ∧ (portOf s p.val).txStep = none ∧ (portOf s p.val).rxWidth < (widthStep (portOf s p.val) (good ||| BitVec.ofNat 9 (fieldsWord ((portOf s p.val).rxMap.map (fun k => (k, 1))))) 0xFF true).width) ∧
    (∃ (s : State) (p : Fin 6), ((portOf s p.val).st = .measure ∨ (portOf s p.val).st = .up)) ∧
    (∃ (s : State) (p : Fin 6), ((portOf s p.val).st = .measure ∨ (portOf s p.val).st = .up) ∧ (portOf s p.val).asym = 0) ∧
    (∃ (s : State) (p : Fin 6), (portOf s p.val).st = .up) := by
  refine ⟨?_, ?_, ?_, ?_, ?_, ?_, ?_, ?_, ?_, ?_, ?_, ?_⟩
  · exact ⟨(updPort 0 (fun g => { g with st := .up, rxWidth := 3 }) live), 0, 0, by decide⟩
  · exact ⟨(updPort 0 (fun g => { g with st := .up, rxWidth := 3, rxMap := [0, 1, 2, 3, 4, 5, 6, 7] }) live), 0, 0, by decide⟩
  · exact ⟨(updPort 0 (fun g => { g with st := .up, txMap := [0] }) live), 0, 0, by decide⟩
  · exact ⟨(updPort 0 (fun g => { g with st := .up, rxWidth := 3 }) live), 0, 1, by decide⟩
  · exact ⟨(updPort 0 (fun g => { g with rxStep := some default }) live), 0, default, by decide⟩
  · exact ⟨(updPort 0 (fun g => { g with txStep := some { (default : LaneStep) with switch := some 1 } }) live), 0, { (default : LaneStep) with switch := some 1 }, by decide⟩
  · exact ⟨(updPort 0 (fun g => { g with rxStep := some { (default : LaneStep) with switch := some 1 } }) live), 0, { (default : LaneStep) with switch := some 1 }, by decide⟩
  · exact ⟨(updPort 0 (fun g => { g with st := .up, rxWidth := 3 }) live), 0, 17, by decide⟩
  · exact ⟨(updPort 0 (fun g => { g with cmdWiden := some default, rxWidth := 1 }) live), 0, 0xFF, default, by decide⟩
  · exact ⟨(updPort 0 (fun g => { g with st := .up, rxWidth := 3 }) live), 0, by decide⟩
  · exact ⟨(updPort 0 (fun g => { g with st := .up, rxWidth := 3 }) live), 0, by decide⟩
  · exact ⟨(updPort 0 (fun g => { g with st := .up, rxWidth := 3 }) live), 0, by decide⟩

theorem meets_LinkClockRows :
    (∃ (s : State) (p : Nat), s.lnk.upstream = some p ∧ (portOf s p).st = .up ∧ p < 6) ∧
    (∃ (s : State), (pllOf s 0).locked = true) ∧
    (∃ (s : State), s.clk.timeLocked = true ∧ s.clk.time.toNat % 2 ^ 20 = 0 ∧ s.lnk.beaconAt ≠ some s.clk.time) ∧
    (∃ (s : State) (p : Fin 6) (c : Capability), s.lnk.upstream = some p.val ∧ (portOf s p.val).st = .up ∧ (portOf s p.val).rxCut = false ∧ (pllOf s 0).locked = true ∧ s.clk.timeLocked = false ∧ (portOf s p.val).peer = some c) := by
  refine ⟨?_, ?_, ?_, ?_⟩
  · exact ⟨(updPort 0 (fun g => { g with st := .up }) { live with lnk := { live.lnk with upstream := some 0 } }), 0, by decide⟩
  · exact ⟨live, by decide⟩
  · exact ⟨{ live with clk := { live.clk with time := 0 } }, by decide⟩
  · exact ⟨(updPort 0 (fun g => { g with st := .up, peer := some default }) { live with lnk := { live.lnk with upstream := some 0 }, clk := { live.clk with timeLocked := false } }), 0, default, by decide⟩

theorem meets_LinkTrafficRows :
    (∃ (s : State) (p : Fin 6), (portOf s p.val).st ≠ .up) ∧
    (∃ (s : State) (p : Fin 6), (portOf s p.val).st = .up ∧ (portOf s p.val).rxCut = true) ∧
    (∃ (s : State) (p : Fin 6) (k : TxnPkt) (op : NocOp) (tag : BitVec 12), (portOf s p.val).txnIn = [(false, k)] ∧ txnOp k.op.toNat = some op ∧ isAtomic op = false ∧ k.addr.toNat % 4096 + 8 * (k.len.val + 1) ≤ 4096 ∧ s.pwr.baseReset = false ∧ freeTag s (BitVec.ofNat 8 (64 + p.val)) = some tag ∧ destOf s k.addr.toNat = .dram ∧ s.start.engineFailed = false ∧ pathShut s (64 + p.val) k.addr.toNat = false) ∧
    (∃ (s : State) (p : Fin 6) (k : TxnPkt) (x : Remote) (q : NocReq), (portOf s p.val).txnIn = [(true, k)] ∧ s.lnk.remote = [x] ∧ x.txTag = k.tag ∧ s.noc.out.find? (isReq x.src x.tag) = some q ∧ rspLost s q.src.toNat q.addr.toNat = false) ∧
    (∃ (s : State) (p : Fin 6) (m : MgmtMsg), mgmtHead s p.val .request = some m ∧ serving s = true ∧ (chanOf s (if s.lnk.upstream = some p.val then 14 else 15)).enable = true ∧ (chanOf s (if s.lnk.upstream = some p.val then 14 else 15)).msgs.length < 8) ∧
    (∃ (s : State) (p : Fin 6) (m : MgmtMsg) (f : Fwd), mgmtHead s p.val .response = some m ∧ serving s = true ∧ s.mbx.fwd = [f] ∧ f.handle = m.handle ∧ (f.org.cmd.toNat, f.org.seq.toNat) = cmdSeq m.header ∧ f.drop = true) ∧
    (∃ (s : State) (p : Fin 6) (m : MgmtMsg), mgmtHead s p.val .event = some m ∧ serving s = true ∧ m.handle = 0 ∧ s.evt.lostNew = 0) ∧
    (∃ (s : State) (f : Fwd) (fs : List Fwd), s.mbx.fwd = f :: fs ∧ serving s = true ∧ f.drop = true) := by
  refine ⟨?_, ?_, ?_, ?_, ?_, ?_, ?_, ?_⟩
  · exact ⟨live, 0, by decide⟩
  · exact ⟨(updPort 0 (fun g => { g with st := .up, rxCut := true }) live), 0, by decide⟩
  · exact ⟨(updPort 0 (fun g => { g with txnIn := [(false, { (default : TxnPkt) with op := 1 })] }) withDram), 0, { (default : TxnPkt) with op := 1 }, .read, 0, by decide⟩
  · exact ⟨(updPort 0 (fun g => { g with txnIn := [(true, default)] }) { live with lnk := { live.lnk with remote := [{ txTag := 0, src := 72, tag := 0, port := 0, op := .read, len := 0 }] }, noc := { live.noc with out := [readAt 72 0x100000000000] } }), 0, default, { txTag := 0, src := 72, tag := 0, port := 0, op := .read, len := 0 }, readAt 72 0x100000000000, by decide⟩
  · exact ⟨(updPort 0 (fun g => { g with mgmtIn := [{ (default : MgmtMsg) with kind := .request }] }) live), 0, { (default : MgmtMsg) with kind := .request }, by decide⟩
  · exact ⟨(updPort 0 (fun g => { g with mgmtIn := [{ (default : MgmtMsg) with kind := .response }] }) { live with mbx := { live.mbx with fwd := [{ (default : Fwd) with drop := true }] } }), 0, { (default : MgmtMsg) with kind := .response }, { (default : Fwd) with drop := true }, by decide⟩
  · exact ⟨(updPort 0 (fun g => { g with mgmtIn := [{ (default : MgmtMsg) with kind := .event }] }) live), 0, { (default : MgmtMsg) with kind := .event }, by decide⟩
  · exact ⟨{ live with mbx := { live.mbx with fwd := [{ (default : Fwd) with drop := true }] } }, { (default : Fwd) with drop := true }, [], by decide⟩

theorem meets_NocRows :
    (∃ (s : State) (q : NocReq), 64 ≤ q.src.toNat ∧ q.src.toNat < 74 ∧ q.src ≠ 71 ∧ s.pwr.baseReset = false ∧ tagBusy s q.src q.tag.toNat = false ∧ isAtomic q.op = false ∧ q.addr.toNat % 4096 + 8 * (q.len.val + 1) ≤ 4096 ∧ destOf s q.addr.toNat = .dram ∧ s.start.engineFailed = false ∧ pathShut s q.src.toNat q.addr.toNat = false) ∧
    (∃ (s : State) (q : NocReq), 64 ≤ q.src.toNat ∧ q.src.toNat < 74 ∧ s.pwr.baseReset = false ∧ tagBusy s q.src q.tag.toNat = false ∧ s.start.engineFailed = false ∧ destOf s q.addr.toNat = .nowhere ∧ q.src ≠ 70 ∧ q.src ≠ 71 ∧ s.lnk.served = []) ∧
    (∃ (s : State) (r : NocRsp) (q : NocReq), s.noc.rsps = [r] ∧ s.noc.lateTags.contains (r.src, r.tag) = false ∧ s.noc.out = [q] ∧ isReq r.src r.tag q = true ∧ rspLost s r.src.toNat q.addr.toNat = false ∧ 64 ≤ r.src.toNat ∧ r.src ≠ 70 ∧ s.lnk.served = []) ∧
    (∃ (s : State) (r : NocRsp), s.noc.rsps = [r] ∧ s.noc.lateTags.contains (r.src, r.tag) = true) ∧
    (∃ (s : State) (q : NocReq), s.noc.out = [q] ∧ 64 ≤ q.src.toNat ∧ q.src ≠ 70 ∧ s.lnk.served = []) ∧
    (∃ (s : State) (src : BitVec 8) (tag : BitVec 12), 64 ≤ src.toNat ∧ s.noc.lateTags = [(src, tag)] ∧ s.lnk.remote = []) ∧
    (∃ (s : State) (n : Fin 64), faceLive s n.val = true ∧ (nportOf s n.val).accepts = [] ∧ (nportCounts (nportOf s n.val)).1 < 64) ∧
    (∃ (s : State) (n : Fin 64), faceLive s n.val = true ∧ (nportOf s n.val).accepts = [] ∧ 64 ≤ (nportCounts (nportOf s n.val)).1) ∧
    (∃ (s : State) (n : Fin 64), faceLive s n.val = true ∧ (nportOf s n.val).pops = [] ∧ (nportOf s n.val).rspQ = []) ∧
    (∃ (s : State) (n : Fin 64) (w : W64) (l : Bool) (rest : List (W64 × Bool)), faceLive s n.val = true ∧ (nportOf s n.val).pops = [] ∧ (nportOf s n.val).rspQ = (w, l) :: rest ∧ (nportOf s n.val).ord = [] ∧ (nportOf s n.val).waiting = []) ∧
    (∃ (s : State) (n : Fin 64) (c : ChanUse), chanAt s n.val false = some c ∧ fabricClock s = true ∧ chanStopped s c = false ∧ (Tab.get {} s.lnk.faces n.val).sent = []) ∧
    (∃ (s : State) (n : Fin 64) (c : ChanUse) (d : W64) (v : Bool), chanAt s n.val true = some c ∧ fabricClock s = true ∧ chanStopped s c = false ∧ (portOf s c.port).rxCut = false ∧ (Tab.get {} s.lnk.faces n.val).padding = [(s.clk.time, v, d)]) ∧
    (∃ (s : State) (n : Fin 64) (c : ChanUse), chanAt s n.val true = some c ∧ fabricClock s = true ∧ (Tab.get {} s.lnk.faces n.val).padding = []) ∧
    (∃ (s : State) (n : Fin 64) (o : Origin) (w : Weights), (routerOf s n.val).reconfig = some (o, w)) ∧
    (∃ (s : State) (n : Fin 64), (routerOf s n.val).failed = false) := by
  refine ⟨?_, ?_, ?_, ?_, ?_, ?_, ?_, ?_, ?_, ?_, ?_, ?_, ?_, ?_, ?_⟩
  · exact ⟨withDram, readAt 72 0, by decide⟩
  · exact ⟨live, readAt 72 0x200000000000, by decide⟩
  · exact ⟨{ live with noc := { live.noc with rsps := [{ src := 72, tag := 0, status := .ok, data := [] }], out := [readAt 72 0x081000000000] } }, { src := 72, tag := 0, status := .ok, data := [] }, readAt 72 0x081000000000, by decide⟩
  · exact ⟨{ live with noc := { live.noc with rsps := [{ src := 72, tag := 0, status := .ok, data := [] }], lateTags := [(72, 0)] } }, { src := 72, tag := 0, status := .ok, data := [] }, by decide⟩
  · exact ⟨{ live with noc := { live.noc with out := [readAt 72 0] } }, readAt 72 0, by decide⟩
  · exact ⟨{ live with noc := { live.noc with lateTags := [(72, 0)] } }, 72, 0, by decide⟩
  · exact ⟨busy, 0, by decide⟩
  · exact ⟨(updNport 0 (fun g => { g with words := List.replicate 64 0 }) busy), 0, by decide⟩
  · exact ⟨busy, 0, by decide⟩
  · exact ⟨(updNport 0 (fun g => { g with rspQ := [(0, true)] }) busy), 0, 0, true, [], by decide⟩
  · exact ⟨{ live with lnk := { live.lnk with chans := [(0, some { desc := { (default : ChanDesc) with nocPort := 0 }, natural := 0, port := 0, first := 0 })] } }, 0, { desc := { (default : ChanDesc) with nocPort := 0 }, natural := 0, port := 0, first := 0 }, by decide⟩
  · exact ⟨{ live with lnk := { live.lnk with chans := [(0, some { desc := { (default : ChanDesc) with nocPort := 0, dest := true }, natural := 0, port := 0, first := 0 })], faces := [(0, { padding := [(4096, true, 5)] })] } }, 0, { desc := { (default : ChanDesc) with nocPort := 0, dest := true }, natural := 0, port := 0, first := 0 }, 5, true, by decide⟩
  · exact ⟨{ live with lnk := { live.lnk with chans := [(0, some { desc := { (default : ChanDesc) with nocPort := 0, dest := true }, natural := 0, port := 0, first := 0 })] } }, 0, { desc := { (default : ChanDesc) with nocPort := 0, dest := true }, natural := 0, port := 0, first := 0 }, by decide⟩
  · exact ⟨(updRouter 0 (fun g => { g with reconfig := some (default, {}) }) live), 0, default, {}, by decide⟩
  · exact ⟨live, 0, by decide⟩

theorem meets_NocCommandsReply :
    (∃ (s : State) (r : Req), ready s r 0x0C01 = true) ∧
    (∃ (s : State) (r : Req) (k : BitVec 8) (us : BitVec 20), ready s r 0x0C02 = true ∧ k.toNat < 74 ∧ 10 ≤ us.toNat ∧ us.toNat ≤ 1000000) ∧
    (∃ (s : State) (r : Req) (k : BitVec 8) (us : BitVec 20), ready s r 0x0C02 = true ∧ (74 ≤ k.toNat ∨ us.toNat < 10 ∨ 1000000 < us.toNat)) ∧
    (∃ (s : State) (r : Req) (n : BitVec 6) (rt : BitVec 4) (hi : BitVec 4) (norm : BitVec 4) (bulk : BitVec 4), ready s r 0x0C03 = true ∧ rt.toNat ≠ 0 ∧ hi.toNat ≠ 0 ∧ norm.toNat ≠ 0 ∧ bulk.toNat ≠ 0 ∧ (routerOf s n.toNat).reconfig = none ∧ Nat.testBit (routerWord s n.toNat) 17 = false) ∧
    (∃ (s : State) (r : Req) (rt : BitVec 4) (hi : BitVec 4) (norm : BitVec 4) (bulk : BitVec 4), ready s r 0x0C03 = true ∧ (rt.toNat = 0 ∨ hi.toNat = 0 ∨ norm.toNat = 0 ∨ bulk.toNat = 0)) ∧
    (∃ (s : State) (r : Req) (k : BitVec 8), ready s r 0x0C04 = true ∧ k.toNat < 74) ∧
    (∃ (s : State) (r : Req) (k : BitVec 8), ready s r 0x0C04 = true ∧ k.toNat < 74) := by
  refine ⟨?_, ?_, ?_, ?_, ?_, ?_, ?_⟩
  · exact ⟨live, r0, by decide⟩
  · exact ⟨live, r0, 0, 10, by decide⟩
  · exact ⟨live, r0, 0, 0, by decide⟩
  · exact ⟨live, r0, 0, 1, 1, 1, 1, by decide⟩
  · exact ⟨live, r0, 0, 0, 0, 0, by decide⟩
  · exact ⟨live, r0, 0, by decide⟩
  · exact ⟨live, r0, 0, by decide⟩

theorem meets_PortRows :
    (∃ (s : State) (p : PortAB) (g : Fin 1152), fabricClock s = true ∧ unavailable s g.val = false ∧ (rspsOf p (blockNow s g.val)).any (fun r => r.from_ == s.clk.fc + 3) = false) ∧
    (∃ (s : State) (p : PortAB) (g : Fin 1152) (a : BitVec 13), fabricClock s = true ∧ unavailable s g.val = false ∧ (rspsOf p (blockNow s g.val)).any (fun r => r.from_ == s.clk.fc + 3) = false ∧ isRam (blockNow s g.val) a.toNat = true ∧ (seenWord s.clk.fc (blockNow s g.val) a.toNat).ecc = .clean) ∧
    (∃ (s : State) (p : PortAB) (g : Fin 1152) (a : BitVec 13), fabricClock s = true ∧ unavailable s g.val = false ∧ (rspsOf p (blockNow s g.val)).any (fun r => r.from_ == s.clk.fc + 3) = false ∧ isRam (blockNow s g.val) a.toNat = true) ∧
    (∃ (s : State) (p : PortAB) (g : Fin 1152) (a : BitVec 13), fabricClock s = true ∧ unavailable s g.val = false ∧ (rspsOf p (blockNow s g.val)).any (fun r => r.from_ == s.clk.fc + 3) = false ∧ isRam (blockNow s g.val) a.toNat = true ∧ ((∀ w ∈ (blockNow s g.val).writes, w.at_ < s.clk.fc))) ∧
    (∃ (s : State) (p : PortAB) (g : Fin 1152), fabricClock s = true ∧ unavailable s g.val = false ∧ (rspsOf p (blockNow s g.val)).any (fun r => r.from_ == s.clk.fc + 3) = false ∧ (blockNow s g.val).mode = .fifo ∧ (blockNow s g.val).occStart + (blockNow s g.val).enqFc < (blockNow s g.val).cap) ∧
    (∃ (s : State) (p : PortAB) (g : Fin 1152), fabricClock s = true ∧ unavailable s g.val = false ∧ (rspsOf p (blockNow s g.val)).any (fun r => r.from_ == s.clk.fc + 3) = false ∧ (blockNow s g.val).mode = .fifo ∧ (blockNow s g.val).cap ≤ (blockNow s g.val).occStart + (blockNow s g.val).enqFc) ∧
    (∃ (s : State) (p : PortAB) (g : Fin 1152) (e : QEnt) (es : List QEnt), fabricClock s = true ∧ unavailable s g.val = false ∧ (rspsOf p (blockNow s g.val)).any (fun r => r.from_ == s.clk.fc + 3) = false ∧ (blockNow s g.val).mode = .fifo ∧ (blockNow s g.val).entries = e :: es ∧ e.vis = true ∧ e.word.ecc = .clean) ∧
    (∃ (s : State) (p : PortAB) (g : Fin 1152) (e : QEnt) (es : List QEnt), fabricClock s = true ∧ unavailable s g.val = false ∧ (rspsOf p (blockNow s g.val)).any (fun r => r.from_ == s.clk.fc + 3) = false ∧ (blockNow s g.val).mode = .fifo ∧ (blockNow s g.val).entries = e :: es ∧ e.vis = true ∧ e.word.ecc = .clean) ∧
    (∃ (s : State) (p : PortAB) (g : Fin 1152), fabricClock s = true ∧ unavailable s g.val = false ∧ (rspsOf p (blockNow s g.val)).any (fun r => r.from_ == s.clk.fc + 3) = false ∧ (blockNow s g.val).mode = .credit) ∧
    (∃ (s : State) (g : Fin 1152) (e : QEnt) (es : List QEnt), (blockNow s g.val).entries = e :: es ∧ e.due ≤ s.clk.fc) := by
  refine ⟨?_, ?_, ?_, ?_, ?_, ?_, ?_, ?_, ?_, ?_⟩
  · exact ⟨live, .a, 0, by decide⟩
  · exact ⟨live, .a, 0, 0, by decide⟩
  · exact ⟨live, .a, 0, 0, by decide⟩
  · exact ⟨live, .a, 0, 0, by decide⟩
  · exact ⟨(updBlock 0 (fun g => { g with mode := .fifo }) live), .a, 0, by decide⟩
  · exact ⟨(updBlock 0 (fun g => { g with mode := .fifo, occStart := 16, opFc := 4096 }) live), .a, 0, by decide⟩
  · exact ⟨(updBlock 0 (fun g => { g with mode := .fifo, entries := [{ word := {}, level := 0, due := 0, vis := true }] }) live), .a, 0, { word := {}, level := 0, due := 0, vis := true }, [], by decide⟩
  · exact ⟨(updBlock 0 (fun g => { g with mode := .fifo, entries := [{ word := {}, level := 0, due := 0, vis := true }] }) live), .a, 0, { word := {}, level := 0, due := 0, vis := true }, [], by decide⟩
  · exact ⟨(updBlock 0 (fun g => { g with mode := .credit }) live), .a, 0, by decide⟩
  · exact ⟨(updBlock 0 (fun g => { g with entries := [{ word := {}, level := 0, due := 0, vis := true }] }) live), 0, { word := {}, level := 0, due := 0, vis := true }, [], by decide⟩

theorem meets_BlockRows :
    (∃ (s : State) (q : NocReq) (g : Nat), s.noc.mesh = [q] ∧ destOf s q.addr.toNat = .sector g ∧ sectorRefusal s g q = none) ∧
    (∃ (s : State) (q : NocReq) (g : Nat) (st : Status), s.noc.mesh = [q] ∧ destOf s q.addr.toNat = .sector g ∧ sectorRefusal s g q = some st ∧ rspLost s q.src.toNat q.addr.toNat = false) ∧
    (∃ (s : State) (g : Fin 1152) (q : NocReq), fabricClock s = true ∧ (blockNow s g.val).nAt = none ∧ s.dsp.groupQ = [] ∧ (blockNow s g.val).nq = [{ req := q, done := 0, data := [], poison := false, held := [], atomic := none }] ∧ unavailable s g.val = false ∧ (blockNow s g.val).abAt = none ∧ (blockNow s g.val).mode = .ram ∧ q.op = .read ∧ q.len = 0 ∧ (seenWord s.clk.fc (blockNow s g.val) (firstWord q)).ecc = .clean ∧ rspLost s q.src.toNat q.addr.toNat = false) ∧
    (∃ (s : State) (g : Fin 1152) (q : NReq), fabricClock s = true ∧ (blockNow s g.val).nAt = none ∧ s.dsp.groupQ = [] ∧ (blockNow s g.val).nq = [q] ∧ unavailable s g.val = false ∧ (blockNow s g.val).abAt = some s.clk.fc) ∧
    (∃ (s : State) (g : Fin 1152), fabricClock s = true ∧ unavailable s g.val = false ∧ (blockNow s g.val).patrolEn = true ∧ (blockNow s g.val).abAt = none ∧ (blockNow s g.val).nAt = none ∧ (blockNow s g.val).nq = [] ∧ (blockNow s g.val).patrolAt = none ∧ (blockNow s g.val).mode = .ram ∧ (seenWord s.clk.fc (blockNow s g.val) (blockNow s g.val).patrol.toNat).ecc = .clean) ∧
    (∃ (s : State) (g : Fin 1152) (a : Nat) (p : Nat), fabricClock s = true ∧ unavailable s g.val = false ∧ s.clk.fc = p + 2 ∧ (blockNow s g.val).patrolFix = some (a, p) ∧ (blockNow s g.val).writes = []) ∧
    (∃ (s : State) (g : Fin 1152) (gr : Fin 9) (c : Fin 64), 16 ≤ Tab.get 0 s.mem.colErrs (576 * g.val + 64 * gr.val + c.val) ∧ s.mem.colDone.contains (576 * g.val + 64 * gr.val + c.val) = false ∧ spareInUse s g.val gr.val 0 = false ∧ (recordNow s).cols.length < 512 ∧ tooHot s = false) ∧
    (∃ (s : State) (k : Fin 8), s.mem.clearing = [k.val]) := by
  refine ⟨?_, ?_, ?_, ?_, ?_, ?_, ?_, ?_⟩
  · exact ⟨{ live with noc := { live.noc with mesh := [readAt 72 0x080000000000] } }, readAt 72 0x080000000000, 0, by decide⟩
  · exact ⟨(updDom 50 (fun g => { g with fenced := true }) { live with noc := { live.noc with mesh := [readAt 72 0x080000000000] } }), readAt 72 0x080000000000, 0, .domainOff, by decide⟩
  · exact ⟨(updBlock 0 (fun g => { g with nq := [{ req := readAt 72 0x080000000000, done := 0, data := [], poison := false, held := [], atomic := none }] }) live), 0, readAt 72 0x080000000000, by decide⟩
  · exact ⟨(updBlock 0 (fun g => { g with nq := [default], abAt := some 4096 }) live), 0, default, by decide⟩
  · exact ⟨live, 0, by decide⟩
  · exact ⟨(updBlock 0 (fun g => { g with patrolFix := some (0, 4094) }) live), 0, 0, 4094, by decide⟩
  · exact ⟨{ live with mem := { live.mem with colErrs := [(0, 16)] } }, 0, 0, 0, by decide⟩
  · exact ⟨{ live with mem := { live.mem with clearing := [0] } }, 0, by decide⟩

theorem meets_MemCommandsReply :
    (∃ (s : State) (r : Req) (g : BitVec 11) (m : BitVec 3) (c : BitVec 4) (i : BitVec 14) (mode : QMode), ready s r 0x0221 = true ∧ legalMode m.toNat c.toNat i.toNat = some mode ∧ g.toNat < 1152 ∧ blockRetired s g.toNat = false ∧ domCut s (sectorDom (sectorOf g.toNat)) = false ∧ blockInUse s g.toNat = false) ∧
    (∃ (s : State) (r : Req) (m : BitVec 3) (c : BitVec 4) (i : BitVec 14), ready s r 0x0221 = true ∧ legalMode m.toNat c.toNat i.toNat = none) ∧
    (∃ (s : State) (r : Req) (g : BitVec 11), ready s r 0x0222 = true ∧ g.toNat < 1152) ∧
    (∃ (s : State) (r : Req) (k : BitVec 16) (im : InitImage), ready s r 0x0220 = true ∧ k.toNat < 256 ∧ Tab.get none s.load.inits k.toNat = some im ∧ domCut s 49 = false ∧ ((∀ g ∈ initBlocks im.entries, domCut s (sectorDom (sectorOf g)) = false ∧ blockInUse s g = false)) ∧ s.mem.init = none) ∧
    (∃ (s : State) (src : BitVec 8) (g : Fin 1152), protDenied s src.toNat (qctlAddr g.val + 0xC) = false ∧ s.noc.mesh = [] ∧ (blockNow s g.val).mode = .credit) ∧
    (∃ (s : State), s.noc.mesh = []) ∧
    (∃ (s : State) (src : BitVec 8), src ≠ 72 ∧ s.noc.mesh = []) ∧
    (∃ (s : State), s.noc.mesh = []) ∧
    (∃ (s : State) (r : Req), ready s r 0x1120 = true) := by
  refine ⟨?_, ?_, ?_, ?_, ?_, ?_, ?_, ?_, ?_⟩
  · exact ⟨live, r0, 0, 0, 4, 0, .ram, by decide⟩
  · exact ⟨live, r0, 0, 0, 0, by decide⟩
  · exact ⟨live, r0, 0, by decide⟩
  · exact ⟨{ live with load := { live.load with inits := [(0, some default)] } }, r0, 0, default, by decide⟩
  · exact ⟨(updBlock 0 (fun g => { g with mode := .credit }) live), 0, 0, by decide⟩
  · exact ⟨live, by decide⟩
  · exact ⟨live, 0, by decide⟩
  · exact ⟨live, by decide⟩
  · exact ⟨live, r0, by decide⟩

theorem meets_SecurityRows :
    (∃ (s : State), 2 ^ 20 ≤ s.sec.drbg ∧ s.sec.trngStopped = false) ∧
    (∃ (s : State) (cause : BitVec 8), (cause = 1 ∨ cause = 2) ∧ s.sec.wiping = false ∧ s.sec.pending = none ∧ s.tag.job = none ∧ domOn s 2 = true) ∧
    (∃ (s : State), s.sec.wiping = false ∧ s.sec.pending = none ∧ s.tag.job = none ∧ domOn s 2 = true) ∧
    (∃ (s : State), s.sec.redraw = true ∧ s.sec.wiping = false ∧ s.sec.waiting = none ∧ domOn s 2 = true) ∧
    (∃ (s : State), s.sec.trngStopped = true ∧ s.sec.waiting = none) ∧
    (∃ (s : State), s.sec.wiping = true ∧ s.sec.pending = none) ∧
    (∃ (s : State) (q : NocReq), s.noc.mesh = [q] ∧ destOf s q.addr.toNat = .vault ∧ targetShut s q.addr.toNat = false ∧ vaultAllows s q.src.toNat = false ∧ rspLost s q.src.toNat q.addr.toNat = false) ∧
    (∃ (s : State) (q : NocReq), s.noc.mesh = [q] ∧ destOf s q.addr.toNat = .vault ∧ targetShut s q.addr.toNat = false ∧ vaultAllows s q.src.toNat = true ∧ s.sec.wiping = true ∧ rspLost s q.src.toNat q.addr.toNat = false) ∧
    (∃ (s : State) (q : NocReq), s.noc.mesh = [q] ∧ destOf s q.addr.toNat = .vault ∧ targetShut s q.addr.toNat = false ∧ vaultAllows s q.src.toNat = true ∧ s.sec.wiping = false ∧ q.op = .read ∧ rspLost s q.src.toNat q.addr.toNat = false) ∧
    (∃ (s : State) (org : Option Origin) (old : BitVec 3) (new : BitVec 3), s.sec.pending = some (org, old, new) ∧ s.sec.wiping = false) ∧
    (∃ (s : State), s.sec.life ≠ 3 ∧ s.sec.life ≠ 4 ∧ s.sec.pending = none ∧ s.tag.job = none) ∧
    (∃ (s : State), (s.sec.life = 3 ∨ s.sec.life = 4)) ∧
    (∃ (s : State), ((∀ b, b < 24 → bankReleased s b = false)) ∧ ((∀ p, p < 6 → linkUpAt s p = false))) := by
  refine ⟨?_, ?_, ?_, ?_, ?_, ?_, ?_, ?_, ?_, ?_, ?_, ?_, ?_⟩
  · exact ⟨{ live with sec := { live.sec with drbg := 2 ^ 20 } }, by decide⟩
  · exact ⟨live, 1, by decide⟩
  · exact ⟨live, by decide⟩
  · exact ⟨{ live with sec := { live.sec with redraw := true } }, by decide⟩
  · exact ⟨{ live with sec := { live.sec with trngStopped := true } }, by decide⟩
  · exact ⟨{ live with sec := { live.sec with wiping := true } }, by decide⟩
  · exact ⟨{ live with noc := { live.noc with mesh := [readAt 70 0x081000000000] }, sec := { live.sec with life := 2 } }, readAt 70 0x081000000000, by decide⟩
  · exact ⟨{ live with noc := { live.noc with mesh := [readAt 72 0x081000000000] }, sec := { live.sec with wiping := true } }, readAt 72 0x081000000000, by decide⟩
  · exact ⟨{ live with noc := { live.noc with mesh := [readAt 72 0x081000000000] }, sec := { live.sec with life := 2 } }, readAt 72 0x081000000000, by decide⟩
  · exact ⟨{ live with sec := { live.sec with pending := some (none, 2, 3) } }, none, 2, 3, by decide⟩
  · exact ⟨live, by decide⟩
  · exact ⟨{ live with sec := { live.sec with life := 3 } }, by decide⟩
  · exact ⟨live, by decide⟩

theorem meets_SecCommandsReply :
    (∃ (s : State) (r : Req), ready s r 0x0F01 = true) ∧
    (∃ (s : State) (r : Req), ready s r 0x0F02 = true) ∧
    (∀ (s : State) (r : Req) (slot : BitVec 2) (ki : BitVec 3) (sig : BitVec 768) (key : List Byte), s = ({ live with sec := { live.sec with owners := [(0, { digest := Config.sha384 (List.replicate 97 0), written := true })] } } : State) → r = (r0 : Req) → slot = (0 : BitVec 2) → ki = (0 : BitVec 3) → sig = (0 : BitVec 768) → key = ((List.replicate 97 0) : List Byte) → sigOk s 0x0F03 (keySetArgs slot.toNat 1 ki.toNat key) ki.toNat sig.toNat key = true → ready s r 0x0F03 = true ∧ key.length = 97 ∧ s.sec.life = 2 ∧ (keySlot s slot.toNat).revoked = false ∧ tooHot s = false ∧ s.sec.trngStopped = false) ∧
    (∀ (s : State) (r : Req) (slot : BitVec 2) (ki : BitVec 3) (sig : BitVec 768) (rec : List Byte) (k : BitVec 256), s = ({ live with sec := { live.sec with owners := [(0, { digest := Config.sha384 ((List.replicate 254 0).drop 157), written := true })] } } : State) → r = (r0 : Req) → slot = (0 : BitVec 2) → ki = (0 : BitVec 3) → sig = (0 : BitVec 768) → rec = ((List.replicate 254 0) : List Byte) → sigOk s 0x0F03 (keySetArgs slot.toNat 0 ki.toNat rec) ki.toNat sig.toNat (rec.drop 157) = true → Config.unwrapKey slot.toNat (rec.take 157) = some k → ready s r 0x0F03 = true ∧ rec.length = 254 ∧ s.sec.life = 2 ∧ (keySlot s slot.toNat).revoked = false ∧ (keySlot s slot.toNat).written = false ∧ tooHot s = false ∧ s.sec.trngStopped = false) ∧
    (∀ (s : State) (r : Req) (slot : BitVec 2) (ki : BitVec 3) (sig : BitVec 768) (key : List Byte), s = ({ live with sec := { live.sec with owners := [(0, { digest := Config.sha384 (List.replicate 97 0), written := true })] } } : State) → r = (r0 : Req) → slot = (0 : BitVec 2) → ki = (0 : BitVec 3) → sig = (0 : BitVec 768) → key = ((List.replicate 97 0) : List Byte) → sigOk s 0x0F03 (keySetArgs slot.toNat 1 ki.toNat key) ki.toNat sig.toNat key = false → ready s r 0x0F03 = true ∧ key.length = 97 ∧ s.sec.life = 2 ∧ s.sec.trngStopped = false) ∧
    (∀ (s : State) (r : Req) (slot : BitVec 3) (ki : BitVec 3) (digest : BitVec 384) (sig : BitVec 768) (key : List Byte), s = ({ live with sec := { live.sec with owners := [(0, { digest := Config.sha384 (List.replicate 97 0), written := true })] } } : State) → r = (r0 : Req) → slot = (1 : BitVec 3) → ki = (0 : BitVec 3) → digest = (0 : BitVec 384) → sig = (0 : BitVec 768) → key = ((List.replicate 97 0) : List Byte) → sigOk s 0x0F04 (packRecord [(3, slot.toNat), (1, 0), (3, ki.toNat), (384, digest.toNat)] key) ki.toNat sig.toNat key = true → ready s r 0x0F04 = true ∧ key.length = 97 ∧ s.sec.life = 2 ∧ (ownerSlot s slot.toNat).revoked = false ∧ (ownerSlot s slot.toNat).written = false ∧ tooHot s = false ∧ s.sec.trngStopped = false) ∧
    (∃ (s : State) (r : Req) (target : BitVec 3) (ki : BitVec 3) (sig : BitVec 768) (key : List Byte), ready s r 0x0F05 = true ∧ lifeStep s.sec.life.toNat target.toNat = true ∧ ((∀ g, g < 32 → regionIs s g .running = false ∧ regionIs s g .held = false)) ∧ s.sec.pending = none ∧ s.load.job = none ∧ tooHot s = false ∧ s.sec.trngStopped = false ∧ domOn s 2 = true ∧ ((s.sec.life = 1 ∨ sigOk s 0x0F05 (packRecord [(3, target.toNat), (3, ki.toNat)] key) ki.toNat sig.toNat key = true))) ∧
    (∃ (s : State) (r : Req), ready s r 0x0F06 = true) := by
  refine ⟨?_, ?_, ?_, ?_, ?_, ?_, ?_, ?_⟩
  · exact ⟨live, r0, by decide⟩
  · exact ⟨live, r0, by decide⟩
  · exact by intros; subst_vars; decide
  · exact by intros; subst_vars; decide
  · exact by intros; subst_vars; decide
  · exact by intros; subst_vars; decide
  · exact ⟨{ live with sec := { live.sec with life := 1 } }, r0, 4, 0, 0, [], by decide⟩
  · exact ⟨live, r0, by decide⟩

theorem meets_TagCommands :
    (∃ (dr : W64), dr.getLsbD 62 = false) ∧
    (∃ (dr : W64), dr.getLsbD 62 = true) ∧
    (∃ (s : State) (j : TagJob), s.tag.job = some j ∧ j.org = none) ∧
    (∃ (s : State) (r : Req) (o : BitVec 13) (l : BitVec 13), ready s r 0x1001 = true ∧ 1 ≤ l.toNat ∧ l.toNat ≤ 4096 ∧ o.toNat + l.toNat ≤ 8192) ∧
    (∃ (s : State) (r : Req) (o : BitVec 13) (d : List Byte), ready s r 0x1002 = true ∧ 1 ≤ d.length ∧ o.toNat % 64 + d.length ≤ 64 ∧ s.tag.lock.getLsbD (o.toNat / 1024) = false ∧ s.sec.life ≠ 4 ∧ tooHot s = false ∧ domOn s 2 = true ∧ s.tag.job = none) ∧
    (∃ (s : State) (r : Req) (o : BitVec 13) (d : List Byte), ready s r 0x1002 = true ∧ 1 ≤ d.length ∧ o.toNat % 64 + d.length ≤ 64 ∧ s.tag.lock.getLsbD (o.toNat / 1024) = true) ∧
    (∃ (s : State) (r : Req), ready s r 0x1003 = true ∧ tooHot s = false ∧ s.tag.job = none) ∧
    (∃ (s : State) (r : Req), ready s r 0x1004 = true) := by
  refine ⟨?_, ?_, ?_, ?_, ?_, ?_, ?_, ?_⟩
  · exact ⟨0, by decide⟩
  · exact ⟨BitVec.ofNat 64 (2 ^ 62), by decide⟩
  · exact ⟨{ live with tag := { live.tag with job := some { (default : TagJob) with org := none } } }, { (default : TagJob) with org := none }, by decide⟩
  · exact ⟨live, r0, 0, 1, by decide⟩
  · exact ⟨live, r0, 0, [0], by decide⟩
  · exact ⟨{ live with tag := { live.tag with lock := 1 } }, r0, 0, [0], by decide⟩
  · exact ⟨live, r0, by decide⟩
  · exact ⟨live, r0, by decide⟩

theorem meets_TokenRows :
    (∃ (s : State) (k : Nat) (t : Token), dspUp s = true ∧ nextTok s = some (k, t) ∧ k < 64 ∧ tkKind t = 1 ∧ tkMalformed t = false ∧ doneOnly s k = false ∧ itemOf s (tkTag t) = none ∧ flowOf s (tkFlow t) = none ∧ s.dsp.items.length < 65536 ∧ s.dsp.flows.length < 65536 ∧ tkSlots t ≠ 0) ∧
    (∃ (s : State) (k : Nat) (t : Token) (x : Item), dspUp s = true ∧ nextTok s = some (k, t) ∧ k < 64 ∧ tkKind t = 2 ∧ tkMalformed t = false ∧ doneOnly s k = false ∧ s.dsp.items = [x] ∧ x.tag = tkTag t ∧ x.slots.getLsbD (tkSlot t) = true ∧ x.filled.getLsbD (tkSlot t) = false ∧ x.filled ||| (1#4 <<< tkSlot t) ≠ x.slots) ∧
    (∃ (s : State) (k : Nat) (t : Token) (f : FlowEnt), dspUp s = true ∧ nextTok s = some (k, t) ∧ k < 64 ∧ tkKind t = 3 ∧ tkMalformed t = false ∧ s.dsp.flows = [f] ∧ f.key = tkFlow t ∧ f.tag = some (tkTag t) ∧ s.dsp.items = []) ∧
    (∃ (s : State) (k : Nat) (t : Token), dspUp s = true ∧ nextTok s = some (k, t) ∧ k < 64 ∧ tkKind t = 3 ∧ tkMalformed t = false ∧ flowOf s (tkFlow t) = none) ∧
    (∃ (s : State) (q : NocReq), s.noc.mesh = [q] ∧ 0x082007000000 ≤ q.addr.toNat ∧ q.addr.toNat + 8 * q.len.val ≤ 0x0820070000FF ∧ q.op = .write ∧ targetShut s q.addr.toNat = false ∧ protDenied s q.src.toNat q.addr.toNat = false ∧ s.dsp.tokenHeld = false ∧ tokenForm q = true) ∧
    (∃ (s : State) (q : NocReq), s.noc.mesh = [q] ∧ 0x082007001000 ≤ q.addr.toNat ∧ q.addr.toNat + 8 * q.len.val ≤ 0x0820070010FF ∧ q.op = .write ∧ targetShut s q.addr.toNat = false ∧ protDenied s q.src.toNat q.addr.toNat = false ∧ s.dsp.tokenHeld = false ∧ tokenForm q = true) ∧
    (∃ (s : State) (k : Nat) (x : QEnt) (y : QEnt) (r : List QEnt), dspUp s = true ∧ fabricClock s = true ∧ k = (s.dsp.rot + 1) % 64 ∧ srcReady s k = true ∧ twoHeads (blockNow s (dspSrc s k).block) = some (x, y, r) ∧ x.word.ecc = .clean ∧ y.word.ecc = .clean ∧ (blockNow s (dspSrc s k).block).nAt = none ∧ nUnit (blockNow s (dspSrc s k).block) = false ∧ (blockNow s (dspSrc s k).block).abAt = none) := by
  refine ⟨?_, ?_, ?_, ?_, ?_, ?_, ?_⟩
  · exact ⟨{ live with dsp := { live.dsp with sources := [(0, { bound := true, en := true, head := some (30064771121, 9) })] } }, 0, (30064771121, 9), by decide⟩
  · exact ⟨{ live with dsp := { live.dsp with sources := [(0, { bound := true, en := true, head := some (30064771074, 9) })], items := [{ tag := 7, flow := 9, classIn := 0, cls := 0, slots := 3, filled := 0, arg := 0, values := [], bypass := 0, ready := none, eligible := none, entered := 0 }] } }, 0, (30064771074, 9), { tag := 7, flow := 9, classIn := 0, cls := 0, slots := 3, filled := 0, arg := 0, values := [], bypass := 0, ready := none, eligible := none, entered := 0 }, by decide⟩
  · exact ⟨{ live with dsp := { live.dsp with sources := [(0, { bound := true, en := true, head := some (30064771075, 9) })], flows := [{ key := 9, group := 0, last := none, pinned := false, tag := some 7 }] } }, 0, (30064771075, 9), { key := 9, group := 0, last := none, pinned := false, tag := some 7 }, by decide⟩
  · exact ⟨{ live with dsp := { live.dsp with sources := [(0, { bound := true, en := true, head := some (30064771075, 9) })] } }, 0, (30064771075, 9), by decide⟩
  · exact ⟨{ live with noc := { live.noc with mesh := [{ readAt 72 0x082007000000 with op := .write, len := 1, beFirst := 0xFF, beLast := 0xFF, data := [1, 0] }] } }, { readAt 72 0x082007000000 with op := .write, len := 1, beFirst := 0xFF, beLast := 0xFF, data := [1, 0] }, by decide⟩
  · exact ⟨{ live with noc := { live.noc with mesh := [{ readAt 72 0x082007001000 with op := .write, len := 1, beFirst := 0xFF, beLast := 0xFF, data := [1, 0] }] } }, { readAt 72 0x082007001000 with op := .write, len := 1, beFirst := 0xFF, beLast := 0xFF, data := [1, 0] }, by decide⟩
  · exact ⟨(updBlock 0 (fun g => { g with mode := .fifo, entries := [{ word := {}, level := 0, due := 0, vis := true }, { word := {}, level := 0, due := 0, vis := true }] }) { live with dsp := { live.dsp with sources := [(2, { bound := true, en := true })] } }), 2, { word := {}, level := 0, due := 0, vis := true }, { word := {}, level := 0, due := 0, vis := true }, [], by decide⟩

theorem meets_DispatchRows :
    (∃ (s : State) (x : Item) (f : FlowEnt) (e : Nat) (a : Bool), dspUp s = true ∧ s.dsp.groupQ.length < 16 ∧ s.dsp.items = [x] ∧ s.dsp.flows = [f] ∧ f.key = x.flow ∧ eligibleItems s = [x] ∧ groupAlive s f.group = true ∧ pickEngine s f = some (e, a)) ∧
    (∃ (s : State), dspUp s = true ∧ 16 ≤ s.dsp.groupQ.length ∧ eligibleItems s = []) ∧
    (∃ (s : State) (e : Fin 256) (w : Group), s.dsp.groupQ = [w] ∧ w.engine = e.val ∧ dspUp s = true ∧ fabricClock s = true ∧ unavailable s w.block = false ∧ (blockNow s w.block).mode = .inbox ∧ (blockNow s w.block).nAt = none ∧ nUnit (blockNow s w.block) = false ∧ (blockNow s w.block).abAt = none ∧ w.done = 0 ∧ 1 < w.words.length) ∧
    (∃ (s : State) (e : Fin 256) (w : Group), s.dsp.groupQ = [w] ∧ w.engine = e.val ∧ dspUp s = true ∧ fabricClock s = true ∧ unavailable s w.block = false ∧ (blockNow s w.block).mode = .inbox ∧ (blockNow s w.block).nAt = none ∧ nUnit (blockNow s w.block) = false ∧ (blockNow s w.block).abAt = none ∧ w.done ≠ 0 ∧ w.done + 1 = w.words.length) := by
  refine ⟨?_, ?_, ?_, ?_⟩
  · exact ⟨(updBlock 0 (fun g => { g with mode := .inbox }) { live with dsp := { live.dsp with engines := [(0, { en := true, bound := true, thresh := 0 })], groups := [(0, 1)], items := [{ tag := 7, flow := 9, classIn := 0, cls := 0, slots := 3, filled := 0, arg := 0, values := [], bypass := 0, ready := none, eligible := some 0, entered := 0 }], flows := [{ key := 9, group := 0, last := none, pinned := false, tag := some 7 }] } }), { tag := 7, flow := 9, classIn := 0, cls := 0, slots := 3, filled := 0, arg := 0, values := [], bypass := 0, ready := none, eligible := some 0, entered := 0 }, { key := 9, group := 0, last := none, pinned := false, tag := some 7 }, 0, false, by decide⟩
  · exact ⟨{ live with dsp := { live.dsp with groupQ := List.replicate 16 default } }, by decide⟩
  · exact ⟨(updBlock 0 (fun g => { g with mode := .inbox }) { live with dsp := { live.dsp with groupQ := [{ engine := 0, block := 0, group := 0, words := [1, 2, 3], done := 0 }] } }), 0, { engine := 0, block := 0, group := 0, words := [1, 2, 3], done := 0 }, by decide⟩
  · exact ⟨(updBlock 0 (fun g => { g with mode := .inbox }) { live with dsp := { live.dsp with groupQ := [{ engine := 0, block := 0, group := 0, words := [1, 2, 3], done := 2 }] } }), 0, { engine := 0, block := 0, group := 0, words := [1, 2, 3], done := 2 }, by decide⟩

theorem meets_DspCommandsReply :
    (∃ (s : State) (r : Req), ready s r 0x0B01 = true ∧ dspUp s = true) ∧
    (∃ (s : State) (r : Req) (t0 : BitVec 8) (t1 : BitVec 8) (t2 : BitVec 8), ready s r 0x0B02 = true ∧ dspUp s = true ∧ t0.toNat ≠ 0 ∧ t1.toNat ≠ 0 ∧ t2.toNat ≠ 0) ∧
    (∃ (s : State) (r : Req) (t0 : BitVec 8) (t1 : BitVec 8) (t2 : BitVec 8), ready s r 0x0B02 = true ∧ (t0.toNat = 0 ∨ t1.toNat = 0 ∨ t2.toNat = 0)) ∧
    (∃ (s : State) (r : Req) (e : BitVec 8) (g : BitVec 11) (th : BitVec 13), ready s r 0x0B03 = true ∧ dspUp s = true ∧ g.toNat < 1152 ∧ th.toNat + 6 ≤ (blockOf s g.toNat).cap ∧ blockRetired s g.toNat = false ∧ (blockOf s g.toNat).mode = .inbox ∧ boundElse s (some e.toNat) none g.toNat = false) ∧
    (∃ (s : State) (r : Req), ready s r 0x0B04 = true ∧ dspUp s = true) ∧
    (∃ (s : State) (r : Req) (k : BitVec 6) (g : BitVec 11), ready s r 0x0B05 = true ∧ dspUp s = true ∧ g.toNat < 1152 ∧ (blockOf s g.toNat).mode = .fifo ∧ boundElse s none (some k.toNat) g.toNat = false) ∧
    (∃ (s : State) (r : Req) (fl : BitVec 32), ready s r 0x0B06 = true ∧ dspUp s = true ∧ flowOf s fl = none ∧ s.dsp.flows.length < 65536) ∧
    (∃ (s : State) (r : Req) (fl : BitVec 32) (f : FlowEnt), ready s r 0x0B07 = true ∧ dspUp s = true ∧ flowOf s fl = some f) ∧
    (∃ (s : State) (r : Req) (fl : BitVec 32) (f : FlowEnt), ready s r 0x0B08 = true ∧ dspUp s = true ∧ flowOf s fl = some f ∧ f.tag.isSome = true) ∧
    (∃ (s : State) (r : Req) (fl : BitVec 32), ready s r 0x0B08 = true ∧ dspUp s = true ∧ flowOf s fl = none) ∧
    (∃ (s : State) (r : Req) (fl : BitVec 32) (f : FlowEnt), ready s r 0x0B09 = true ∧ dspUp s = true ∧ flowOf s fl = some f ∧ f.tag = none ∧ s.dsp.items.any (fun x => x.flow == fl) = false) ∧
    (∃ (s : State) (r : Req), ready s r 0x0B0A = true ∧ dspUp s = true) := by
  refine ⟨?_, ?_, ?_, ?_, ?_, ?_, ?_, ?_, ?_, ?_, ?_, ?_⟩
  · exact ⟨live, r0, by decide⟩
  · exact ⟨live, r0, 1, 1, 1, by decide⟩
  · exact ⟨live, r0, 0, 0, 0, by decide⟩
  · exact ⟨(updBlock 0 (fun g => { g with mode := .inbox }) live), r0, 0, 0, 0, by decide⟩
  · exact ⟨live, r0, by decide⟩
  · exact ⟨(updBlock 0 (fun g => { g with mode := .fifo }) live), r0, 0, 0, by decide⟩
  · exact ⟨live, r0, 0, by decide⟩
  · exact ⟨{ live with dsp := { live.dsp with flows := [{ key := 9, group := 0, last := none, pinned := false, tag := some 7 }] } }, r0, 9, { key := 9, group := 0, last := none, pinned := false, tag := some 7 }, by decide⟩
  · exact ⟨{ live with dsp := { live.dsp with flows := [{ key := 9, group := 0, last := none, pinned := false, tag := some 7 }] } }, r0, 9, { key := 9, group := 0, last := none, pinned := false, tag := some 7 }, by decide⟩
  · exact ⟨live, r0, 0, by decide⟩
  · exact ⟨{ live with dsp := { live.dsp with flows := [{ key := 9, group := 0, last := none, pinned := false, tag := none }] } }, r0, 9, { key := 9, group := 0, last := none, pinned := false, tag := none }, by decide⟩
  · exact ⟨live, r0, by decide⟩

theorem meets_PinRows :
    (∃ (s : State) (p : Fin 1152) (rise : Bool) (q : Pin), pinNow s p.val = q ∧ pinSenses s p.val = true ∧ q.level ≠ rise ∧ fabricClock s = true ∧ q.glitch.toNat < 2 ∧ (if rise then q.evRise else q.evFall) = true ∧ q.lastEdge = none ∧ q.fifo.length < 16) ∧
    (∃ (s : State) (p : Fin 1152) (rise : Bool) (q : Pin), pinNow s p.val = q ∧ pinSenses s p.val = true ∧ q.level ≠ rise ∧ fabricClock s = true ∧ q.glitch.toNat < 2 ∧ (if rise then q.evRise else q.evFall) = true ∧ q.lastEdge = none ∧ 16 ≤ q.fifo.length) ∧
    (∃ (s : State) (p : Fin 1152) (rise : Bool), (pinNow s p.val).level = rise) ∧
    (∃ (s : State) (p : Fin 1152), regionIs s (pinRegion p.val) .running = true ∧ fabricClock s = true) ∧
    (∃ (s : State) (p : Fin 1152) (r : PinRec) (rs : List PinRec), regionIs s (pinRegion p.val) .running = true ∧ fabricClock s = true ∧ (pinNow s p.val).pops = [] ∧ (pinNow s p.val).fifo = r :: rs ∧ r.from_ ≤ s.clk.fc) ∧
    (∃ (s : State) (p : Fin 1152), regionIs s (pinRegion p.val) .running = true ∧ fabricClock s = true ∧ (pinNow s p.val).pops = [] ∧ (pinNow s p.val).fifo = []) ∧
    (∃ (s : State) (p : Fin 1152) (l : BitVec 20), regionIs s (pinRegion p.val) .running = true ∧ fabricClock s = true ∧ l ≠ 0 ∧ domOn s (bankDom (pinBank p.val)) = true ∧ (pinNow s p.val).ahead = []) ∧
    (∃ (s : State) (p : Fin 1152) (w : Window), (pinOf s p.val).held = none ∧ (pinOf s p.val).win = some w ∧ windowDone (pinOf s p.val) w ≤ s.clk.time.toNat) ∧
    (∃ (s : State) (b : Fin 24), s.ext.resetReleased = true ∧ domOn s (bankDom b.val) = true ∧ (bankOf s b.val).original = none) ∧
    (∃ (s : State) (b : Fin 24) (mv : BitVec 12) (l : BitVec 3), s.ext.resetReleased = true ∧ domOn s (bankDom b.val) = true ∧ (bankOf s b.val).original = some l ∧ l ≠ levelOf mv.toNat ∧ (bankOf s b.val).lost = false) ∧
    (∃ (s : State) (b : Fin 24), (bankOf s b.val).lost = true ∧ (bankOf s b.val).original = some (bankOf s b.val).level ∧ domOn s (bankDom b.val) = true) ∧
    (∃ (s : State) (p : Fin 1152) (l : Bool) (d : Bool), pinDrives s p.val = some d ∧ d ≠ l) ∧
    (∃ (s : State) (p : Fin 1152), pinSenses s p.val = true ∧ (pinOf s p.val).safe ≠ 2) ∧
    (∃ (s : State) (j : ProbeJob) (p : Nat) (ps : List Nat), s.pins.probe = some j ∧ j.pins = p :: ps ∧ j.up = none) ∧
    (∃ (s : State) (j : ProbeJob) (p : Nat) (u : Bool × Bool), s.pins.probe = some j ∧ j.pins = [p] ∧ j.up = some u) ∧
    (∃ (s : State) (p : Fin 1152) (l : Bool), s.pins.polarity = [(p.val, none, false)] ∧ l ≠ (pinOf s p.val).diffIdle) := by
  refine ⟨?_, ?_, ?_, ?_, ?_, ?_, ?_, ?_, ?_, ?_, ?_, ?_, ?_, ?_, ?_, ?_⟩
  · exact ⟨live, 0, true, pinNow live 0, by decide⟩
  · exact ⟨(updPin 0 (fun g => { g with fifo := List.replicate 16 { time := 1, tick := 0, rise := true, coin := false, merged := false, ovf := false, unsync := false, from_ := 4096 } }) live), 0, true, pinNow (updPin 0 (fun g => { g with fifo := List.replicate 16 { time := 1, tick := 0, rise := true, coin := false, merged := false, ovf := false, unsync := false, from_ := 4096 } }) live) 0, by decide⟩
  · exact ⟨live, 0, false, by decide⟩
  · exact ⟨busy, 0, by decide⟩
  · exact ⟨(updPin 0 (fun g => { g with fifo := [{ time := 1, tick := 0, rise := true, coin := false, merged := false, ovf := false, unsync := false, from_ := 4096 }] }) busy), 0, { time := 1, tick := 0, rise := true, coin := false, merged := false, ovf := false, unsync := false, from_ := 4096 }, [], by decide⟩
  · exact ⟨busy, 0, by decide⟩
  · exact ⟨busy, 0, 1, by decide⟩
  · exact ⟨(updPin 0 (fun g => { g with win := some { s := 0, e := 16, count := 0, firstRise := false, coinS := false, coinE := false, lost := false, unsync := false } }) live), 0, { s := 0, e := 16, count := 0, firstRise := false, coinS := false, coinE := false, lost := false, unsync := false }, by decide⟩
  · exact ⟨live, 0, by decide⟩
  · exact ⟨(updBank 0 (fun g => { g with original := some 2, level := 2 }) live), 0, 1800, 2, by decide⟩
  · exact ⟨(updBank 0 (fun g => { g with lost := true, original := some 2, level := 2 }) live), 0, by decide⟩
  · exact ⟨(updPin 0 (fun g => { g with drvOe := true, drvD := true }) { busy with load := { live.load with released := [(0, some 0)] }, pins := { live.pins with banks := [(0, { level := 2, original := some 2, measured := true })] } }), 0, false, true, by decide⟩
  · exact ⟨live, 0, by decide⟩
  · exact ⟨{ live with pins := { live.pins with probe := some { org := default, pins := [0], all := [0], us := 1, expect := false, up := none } } }, { org := default, pins := [0], all := [0], us := 1, expect := false, up := none }, 0, [], by decide⟩
  · exact ⟨{ live with pins := { live.pins with probe := some { org := default, pins := [0], all := [0], us := 1, expect := false, up := some (true, false) } } }, { org := default, pins := [0], all := [0], us := 1, expect := false, up := some (true, false) }, 0, (true, false), by decide⟩
  · exact ⟨{ live with pins := { live.pins with polarity := [(0, none, false)] } }, 0, true, by decide⟩

theorem meets_PinCommandsReply :
    (∃ (s : State) (r : Req) (nn : BitVec 5) (mask : BitVec 48) (cfg : W64), ready s r 0x0A01 = true ∧ nn.toNat < 24 ∧ cfgLegal s nn.toNat mask.toNat cfg.toNat = true) ∧
    (∃ (s : State) (r : Req) (nn : BitVec 5) (mask : BitVec 48) (cfg : W64), ready s r 0x0A01 = true ∧ (24 ≤ nn.toNat ∨ cfgLegal s nn.toNat mask.toNat cfg.toNat = false)) ∧
    (∃ (s : State) (r : Req) (nn : BitVec 5), ready s r 0x0A02 = true ∧ nn.toNat < 24) ∧
    (∃ (s : State) (r : Req) (nn : BitVec 5), ready s r 0x0A03 = true ∧ nn.toNat < 24) ∧
    (∃ (s : State) (r : Req) (set : BitVec 1152) (us : BitVec 8) (ps : List Nat), ready s r 0x0A04 = true ∧ us.toNat ≠ 0 ∧ s.pins.probe = none ∧ ((List.range 1152).filter (fun p => Nat.testBit set.toNat p)).filter (fun p => !probeSkips s p) = ps ∧ ps ≠ []) ∧
    (∃ (s : State) (r : Req) (nn : BitVec 5) (mask : BitVec 48), ready s r 0x0A05 = true ∧ nn.toNat < 24 ∧ ((∀ p ∈ maskPins nn.toNat mask.toNat, p % 2 = 0 ∧ (pinOf s p).mode = 2 ∧ (pinOf s p).polAuto = true)) ∧ maskPins nn.toNat mask.toNat ≠ []) ∧
    (∃ (s : State) (r : Req) (nn : BitVec 5), ready s r 0x0A06 = true ∧ nn.toNat < 24) := by
  refine ⟨?_, ?_, ?_, ?_, ?_, ?_, ?_⟩
  · exact ⟨{ live with pins := { live.pins with banks := [(0, { level := 2, original := some 2, measured := true })] } }, r0, 0, 0, BitVec.ofNat 64 (2 ^ 36), by decide⟩
  · exact ⟨live, r0, 0, 0, 0, by decide⟩
  · exact ⟨live, r0, 0, by decide⟩
  · exact ⟨live, r0, 0, by decide⟩
  · exact ⟨{ live with pins := { live.pins with banks := [(0, { level := 2, original := some 2, measured := true })] } }, r0, 1, 1, [0], by decide⟩
  · exact ⟨(updPin 0 (fun g => { g with mode := 2 }) live), r0, 0, 1, by decide⟩
  · exact ⟨live, r0, 0, by decide⟩

theorem meets_RepairRows :
    (∃ (s : State) (r : Nat) (ex : BitVec 32), s.start.round = [r] ∧ fabricClock s = true ∧ domOn s (regionDom r) = true ∧ ex.getLsbD r = false ∧ s.start.map = [] ∧ s.start.toTest = [] ∧ s.start.again = [] ∧ s.start.bistFailed = false ∧ s.start.bistDone = false ∧ s.start.step = 8 ∧ s.start.held = false ∧ anyRor s = false ∧ s.thm.throttle = false) ∧
    (∃ (s : State), fabricClock s = true ∧ s.start.bistDone = true ∧ s.lnk.member = false ∧ s.align.busy = true ∧ s.align.running = false) ∧
    (∃ (s : State) (p1 : BitVec 6) (p2 : BitVec 6), s.align.running = true ∧ fabricClock s = true ∧ phaseOk p1 = true ∧ phaseOk p2 = true) ∧
    (∃ (s : State) (c : CrossObs) (p1 : BitVec 6) (p2 : BitVec 6), s.align.running = true ∧ fabricClock s = true ∧ phaseOk p1 = true ∧ phaseOk p2 = true ∧ c.latency = statedLatency c ∧ c.spared = true ∧ (crossGroup c).bundle ≠ .l1l2 ∧ s.start.tsvUsed.contains (crossGroup c) = false) ∧
    (∃ (s : State), s.align.busy = false ∧ (pllOf s 0).locked = true ∧ mayStep s.clk.fc s.align.stepAt = true) ∧
    (∃ (s : State), s.align.busy = false ∧ (pllOf s 0).locked = true ∧ mayStep s.clk.fc s.align.stepAt2 = true) ∧
    (∃ (s : State) (n : Nat), s.align.stepAt = some n ∧ s.clk.fc < n + 1024) ∧
    (∃ (s : State) (ph : BitVec 8), s.align.busy = false ∧ (ph.toNat < 8 ∨ 24 < ph.toNat)) ∧
    (∃ (s : State) (g : TsvGroup) (r : Nat), g.bundle ≠ .l1l2 ∧ s.start.tsvSwap.contains g = false ∧ tsvOwner g = some r ∧ regionIs s r .running = true) ∧
    (∃ (s : State) (g : TsvGroup), s.start.tsvSwap.contains g = true ∧ tsvOwner g = none ∧ s.start.tsvUsed.contains g = false) ∧
    (∃ (s : State) (g : TsvGroup), s.start.tsvSwap.contains g = true ∧ tsvOwner g = none) ∧
    (∃ (s : State) (g : TsvGroup), s.start.tsvUsed.contains g = true ∧ g.bundle = .l0l1 ∧ regionIs s (regionAt false g.column.val g.row.val) .running = false ∧ s.start.map = [] ∧ (recordNow s).map.length < 256) ∧
    (∃ (s : State) (r : Fin 32) (t : RegionTest), s.start.tests = [t] ∧ t.region = r.val ∧ t.running = true) ∧
    (∃ (s : State) (r : Fin 32) (t : RegionTest), s.start.tests = [t] ∧ t.region = r.val ∧ t.running = true) ∧
    (∃ (s : State) (o : Origin) (b : Nat) (n : Nat), s.start.memTest = some (o, b, n)) ∧
    (∃ (s : State) (o : Option Origin) (u : Nat) (i : Nat), s.start.anaTest = some (o, u, i)) ∧
    (∃ (s : State) (o : Option Origin), s.start.skipCmd = some (o, false) ∧ s.align.record = []) ∧
    (∃ (s : State) (x : RepairRec), s.start.deferred = some x ∧ tooHot s = false) ∧
    (∃ (s : State), (tooHot s = true ∨ s.start.deferred = none)) := by
  refine ⟨?_, ?_, ?_, ?_, ?_, ?_, ?_, ?_, ?_, ?_, ?_, ?_, ?_, ?_, ?_, ?_, ?_, ?_, ?_⟩
  · exact ⟨{ live with start := { step := 8, round := [0] } }, 0, 0, by decide⟩
  · exact ⟨{ live with align := { live.align with busy := true } }, by decide⟩
  · exact ⟨{ live with align := { live.align with running := true } }, 16, 16, by decide⟩
  · exact ⟨{ live with align := { live.align with running := true } }, { (default : CrossObs) with latency := 1, spared := true }, 16, 16, by decide⟩
  · exact ⟨live, by decide⟩
  · exact ⟨live, by decide⟩
  · exact ⟨{ live with align := { live.align with stepAt := some 4096 } }, 4096, by decide⟩
  · exact ⟨live, 0, by decide⟩
  · exact ⟨busy, default, 0, by decide⟩
  · exact ⟨{ live with start := { live.start with tsvSwap := [{ bundle := .l3l4, column := 0, row := 0, group := 0 }] } }, { bundle := .l3l4, column := 0, row := 0, group := 0 }, by decide⟩
  · exact ⟨{ live with start := { live.start with tsvSwap := [{ bundle := .l3l4, column := 0, row := 0, group := 0 }] } }, { bundle := .l3l4, column := 0, row := 0, group := 0 }, by decide⟩
  · exact ⟨{ live with start := { live.start with tsvUsed := [{ bundle := .l0l1, column := 0, row := 0, group := 0 }] } }, { bundle := .l0l1, column := 0, row := 0, group := 0 }, by decide⟩
  · exact ⟨{ live with start := { live.start with tests := [{ org := default, region := 0, parallel := 1, running := true }] } }, 0, { org := default, region := 0, parallel := 1, running := true }, by decide⟩
  · exact ⟨{ live with start := { live.start with tests := [{ org := default, region := 0, parallel := 1, running := true }] } }, 0, { org := default, region := 0, parallel := 1, running := true }, by decide⟩
  · exact ⟨{ live with start := { live.start with memTest := some (default, 0, 1) } }, default, 0, 1, by decide⟩
  · exact ⟨{ live with start := { live.start with anaTest := some (none, 0, 0) } }, none, 0, 0, by decide⟩
  · exact ⟨{ live with start := { live.start with skipCmd := some (none, false) } }, none, by decide⟩
  · exact ⟨{ live with start := { live.start with deferred := some {} } }, {}, by decide⟩
  · exact ⟨live, by decide⟩

theorem meets_TstRprCommandsReply :
    (∃ (s : State) (r : Req) (i : Fin 32), ready s r 0x0D02 = true ∧ s.thm.throttle = false ∧ domOn s 94 = true ∧ s.start.bistFailed = false ∧ s.pwr.vccFabOk = true ∧ regionIs s i.val .blank = true ∧ (regionOf s i.val).bistBusy = false ∧ s.start.tests = []) ∧
    (∃ (s : State) (r : Req) (n : BitVec 3), ready s r 0x0D02 = true ∧ (n = 0 ∨ 4 < n.toNat)) ∧
    (∃ (s : State) (r : Req) (g : Fin 1152), ready s r 0x0D03 = true ∧ domOn s (sectorDom (sectorOf g.val)) = true ∧ s.start.memTest = none ∧ blockInUse s g.val = false ∧ dspBound s g.val = false ∧ (blockOf s g.val).initBusy = false ∧ s.mem.clearing.contains (sectorOf g.val) = false) ∧
    (∃ (s : State) (r : Req) (u : BitVec 2) (i : BitVec 5), ready s r 0x0D04 = true ∧ analogAllowed s u.toNat i.toNat = some true ∧ s.start.anaTest = none) ∧
    (∃ (s : State) (r : Req) (u : BitVec 2) (i : BitVec 5), ready s r 0x0D04 = true ∧ analogAllowed s u.toNat i.toNat = none) ∧
    (∃ (s : State) (r : Req), ready s r 0x0D01 = true) ∧
    (∃ (s : State) (r : Req), ready s r 0x0E01 = true) ∧
    (∃ (s : State) (r : Req) (n : BitVec 8), ready s r 0x0E02 = true ∧ 1 ≤ n.toNat ∧ n.toNat ≤ 32) ∧
    (∃ (s : State) (r : Req) (p : BitVec 5), ready s r 0x0E03 = true ∧ p.toNat ≤ 24) ∧
    (∃ (s : State) (r : Req) (p : BitVec 5), ready s r 0x0E03 = true ∧ p.toNat ≤ 24 ∧ maintenance s true = true ∧ s.start.skipCmd = none ∧ s.align.busy = false) ∧
    (∃ (s : State) (r : Req) (p : BitVec 5), ready s r 0x0E03 = true ∧ 24 < p.toNat) ∧
    (∃ (s : State) (r : Req) (e : W64) (n : W64), ready s r 0x0E04 = true ∧ namedEntry s e = some n ∧ rmKind n ≠ 8 ∧ rmCause n = 4 ∧ (recordNow s).map.any (sameResource n) = false ∧ (recordNow s).map.length < 256 ∧ s.start.map = [] ∧ tooHot s = false) ∧
    (∃ (s : State) (r : Req) (e : W64) (n : W64), ready s r 0x0E04 = true ∧ namedEntry s e = some n ∧ (recordNow s).map.any (sameResource n) = true) ∧
    (∃ (s : State) (r : Req) (o : BitVec 13), ready s r 0x0E05 = true ∧ o.toNat < 6272) ∧
    (∃ (s : State) (r : Req) (v : BitVec 8), ready s r 0x0E05 = true ∧ 1 ≤ v.toNat ∧ v.toNat ≤ 8) ∧
    (∃ (s : State) (r : Req) (v : BitVec 8), ready s r 0x0E05 = true ∧ v.toNat ≤ 1) := by
  refine ⟨?_, ?_, ?_, ?_, ?_, ?_, ?_, ?_, ?_, ?_, ?_, ?_, ?_, ?_, ?_, ?_⟩
  · exact ⟨live, r0, 0, by decide⟩
  · exact ⟨live, r0, 0, by decide⟩
  · exact ⟨live, r0, 0, by decide⟩
  · exact ⟨(updPort 0 (fun g => { g with enabled := false }) live), r0, 0, 0, by decide⟩
  · exact ⟨live, r0, 0, 31, by decide⟩
  · exact ⟨live, r0, by decide⟩
  · exact ⟨live, r0, by decide⟩
  · exact ⟨live, r0, 1, by decide⟩
  · exact ⟨live, r0, 0, by decide⟩
  · exact ⟨live, r0, 0, by decide⟩
  · exact ⟨live, r0, 25, by decide⟩
  · exact ⟨live, r0, 0, tileEntry live false 0 0 4, by decide⟩
  · exact ⟨{ live with start := { live.start with rr := { map := [tileEntry live false 0 0 4] } } }, r0, 0, tileEntry live false 0 0 4, by decide⟩
  · exact ⟨live, r0, 0, by decide⟩
  · exact ⟨live, r0, 1, by decide⟩
  · exact ⟨live, r0, 0, by decide⟩

theorem meets_LoadRows :
    (∃ (s : State) (dir : BootDir), s.load.boot = .waiting ∧ s.load.job = none ∧ s.align.busy = false ∧ s.start.bistDone = true ∧ s.start.held = false ∧ s.start.nocFailed = false ∧ s.start.storeFailed = false ∧ domCut s 49 = false ∧ s.mbx.fw ≠ none ∧ s.ext.mode = 0 ∧ dir.magic = 0x4442414B ∧ dir.version = 1 ∧ 1 ≤ dir.entryCount.toNat ∧ dir.entryCount.toNat ≤ 32 ∧ dir.entries.length = dir.entryCount.toNat) ∧
    (∃ (s : State) (dir : BootDir), s.load.boot = .waiting ∧ s.load.job = none ∧ s.align.busy = false ∧ s.start.bistDone = true ∧ s.start.held = false ∧ s.start.nocFailed = false ∧ s.start.storeFailed = false ∧ domCut s 49 = false ∧ s.mbx.fw ≠ none ∧ s.ext.mode = 0 ∧ dir.magic ≠ 0x4442414B) ∧
    (∃ (s : State), s.load.boot = .waiting ∧ s.load.job = none ∧ s.align.busy = false ∧ s.start.bistDone = true ∧ s.start.held = false ∧ s.start.nocFailed = false ∧ s.start.storeFailed = false ∧ domCut s 49 = false ∧ s.mbx.fw ≠ none ∧ (s.ext.mode = 1 ∨ s.ext.mode = 2)) ∧
    (∃ (s : State), s.load.boot = .starting ∧ s.load.bootFault = none ∧ ((∀ x ∈ s.load.flagged, regionIs s x.1 .running = true))) ∧
    (∀ (s : State) (j : LoadJob) (h : ImgHeader), s = ({ live with load := { live.load with job := some ({ (default : LoadJob) with source := 2 } : LoadJob) } } : State) → j = ({ (default : LoadJob) with source := 2 } : LoadJob) → h = ({ (default : ImgHeader) with magic := 0x4D49414B, hdrVersion := 1, imageType := 1, regionMask := 1, contractRev := 1, sectionCount := 1, sectionTableOffset := 512, reservedZero := true } : ImgHeader) → headerAuth s h = true → s.load.job = some j ∧ j.hdr = none ∧ ringHas s j 512 = true ∧ headerForm h = true ∧ j.images = [] ∧ h.contractRev = 1 ∧ j.boot = false ∧ loadRefusal s j h = none) ∧
    (∀ (s : State) (j : LoadJob) (h : ImgHeader), s = ({ live with load := { live.load with job := some ({ (default : LoadJob) with source := 2 } : LoadJob) } } : State) → j = ({ (default : LoadJob) with source := 2 } : LoadJob) → h = ({ (default : ImgHeader) with imageType := 1, regionMask := 1, contractRev := 1 } : ImgHeader) → headerAuth s h = false → s.load.job = some j ∧ j.hdr = none ∧ ringHas s j 512 = true ∧ j.boot = false) ∧
    (∀ (s : State) (j : LoadJob) (h : ImgHeader) (r : Fin 32) (tile : Fin 36) (f : Fin 1024) (d : BitVec 1024) (crc : BitVec 32), s = ({ live with load := { live.load with job := some ({ (default : LoadJob) with hdr := some { (default : ImgHeader) with imageType := 1, regionMask := 1, contractRev := 1 } } : LoadJob) } } : State) → j = ({ (default : LoadJob) with hdr := some { (default : ImgHeader) with imageType := 1, regionMask := 1, contractRev := 1 } } : LoadJob) → h = ({ (default : ImgHeader) with imageType := 1, regionMask := 1, contractRev := 1 } : ImgHeader) → r = (0 : Fin 32) → tile = (0 : Fin 36) → f = (0 : Fin 1024) → d = (0 : BitVec 1024) → crc = (frameCrc (0 : Fin 32).val (0 : Fin 36).val (0 : Fin 1024).val 0 : BitVec 32) → frameCheck r.val tile.val f.val d crc = none → s.load.job = some j ∧ j.hdr = some h ∧ j.fail = none ∧ h.imageType = 1 ∧ h.regionMask.getLsbD r.val = true ∧ Tab.get 0 j.nextFrame r.val = 1024 * tile.val + f.val ∧ ringHas s j 132 = true) ∧
    (∃ (s : State) (j : LoadJob) (h : ImgHeader) (r : Fin 32) (tile : Fin 36) (f : Fin 1024) (d : BitVec 1024) (crc : BitVec 32), s.load.job = some j ∧ j.hdr = some h ∧ j.fail = none ∧ h.imageType = 1 ∧ h.regionMask.getLsbD r.val = true ∧ Tab.get 0 j.nextFrame r.val = 1024 * tile.val + f.val ∧ crc ≠ frameCrc r.val tile.val f.val d ∧ ringHas s j 132 = true) ∧
    (∃ (s : State) (j : LoadJob) (h : ImgHeader) (ok : Bool) (r : Nat), s.load.job = some j ∧ j.hdr = some h ∧ ringHas s j (h.imageLen.toNat - j.bytes) = true ∧ (h.flags.getLsbD 0 = false ∨ ok = true) ∧ j.fail = none ∧ imageWhole h j = true ∧ j.boot = false ∧ h.imageType = 1 ∧ bitsOf h.regionMask = [r]) ∧
    (∃ (s : State) (j : LoadJob) (h : ImgHeader) (dg : BitVec 384) (ok : Bool), s.load.job = some j ∧ j.hdr = some h ∧ ringHas s j (h.imageLen.toNat - j.bytes) = true ∧ (dg ≠ h.payloadDigest ∨ (h.flags.getLsbD 0 = true ∧ ok = false)) ∧ j.boot = false) ∧
    (∃ (s : State) (j : StageJob) (c : Stored), nextStage s = some j ∧ s.ctx.queue = [j] ∧ Tab.get none s.load.store (16 * j.region + j.ctx.toNat) = some c ∧ c.chans = [] ∧ (regionOf s j.region).pendSw = none ∧ runsOrHolds (regionOf s j.region) j.slot.val = false ∧ footprintCheck s c.desc.footprint = none ∧ s.load.boot = .complete) ∧
    (∃ (s : State) (j : StageJob) (c : Stored) (rg : Fin 32), s.ctx.queue = [j] ∧ j.granted = true ∧ j.region = rg.val ∧ framePaused s rg.val = false ∧ Tab.get none s.load.store (16 * j.region + j.ctx.toNat) = some c ∧ c.damaged = [] ∧ s.load.boot = .complete) ∧
    (∃ (s : State) (j : InitJob) (o : Origin), s.mem.init = some j ∧ j.org = some o) ∧
    (∃ (s : State) (src : BitVec 8) (v : W64), protDenied s src.toNat wptrAddr = false ∧ wsWriter s src.toNat = true ∧ s.noc.mesh = [] ∧ s.load.wptr.toNat ≤ v.toNat ∧ v.toNat ≤ s.load.rptr.toNat + 2 ^ 27) ∧
    (∃ (s : State) (src : BitVec 8) (v : W64), protDenied s src.toNat wptrAddr = false ∧ wsWriter s src.toNat = true ∧ s.noc.mesh = [] ∧ (v.toNat < s.load.wptr.toNat ∨ s.load.rptr.toNat + 2 ^ 27 < v.toNat)) ∧
    (∃ (s : State) (src : BitVec 8), s.noc.mesh = [] ∧ wsWriter s src.toNat = false) ∧
    (∃ (s : State) (j : LoadJob), s.load.job = some j ∧ j.source = 2 ∧ s.load.jtagBits = []) ∧
    (∃ (s : State), s.load.job = none) ∧
    (∃ (s : State) (j : ReadJob) (rest : List ReadJob), s.ctx.reads = j :: rest) := by
  refine ⟨?_, ?_, ?_, ?_, ?_, ?_, ?_, ?_, ?_, ?_, ?_, ?_, ?_, ?_, ?_, ?_, ?_, ?_, ?_⟩
  · exact ⟨{ live with load := { live.load with boot := .waiting } }, { magic := 0x4442414B, version := 1, entryCount := 1, entries := [(0, 0)] }, by decide⟩
  · exact ⟨{ live with load := { live.load with boot := .waiting } }, default, by decide⟩
  · exact ⟨{ { live with load := { live.load with boot := .waiting } } with ext := { live.ext with mode := 1 } }, by decide⟩
  · exact ⟨{ live with load := { live.load with boot := .starting } }, by decide⟩
  · exact by intros; subst_vars; decide
  · exact by intros; subst_vars; decide
  · exact by rintro _ _ _ _ _ _ _ _ rfl rfl rfl rfl rfl rfl rfl rfl _; exact ⟨rfl, rfl, rfl, rfl, by decide, rfl, rfl⟩
  · exact ⟨{ live with load := { live.load with job := some ({ (default : LoadJob) with hdr := some { (default : ImgHeader) with imageType := 1, regionMask := 1, contractRev := 1 } } : LoadJob) } }, { (default : LoadJob) with hdr := some { (default : ImgHeader) with imageType := 1, regionMask := 1, contractRev := 1 } }, { (default : ImgHeader) with imageType := 1, regionMask := 1, contractRev := 1 }, 0, 0, 0, 0, frameCrc (0 : Fin 32).val (0 : Fin 36).val (0 : Fin 1024).val 0 + 1, ⟨rfl, rfl, rfl, rfl, by decide, rfl, succ_ne _, rfl⟩⟩
  · exact ⟨{ live with load := { live.load with job := some ({ (default : LoadJob) with hdr := some { (default : ImgHeader) with imageType := 1, regionMask := 1, contractRev := 1 }, sections := [default], nextFrame := [(0, 36864)], descs := [0] } : LoadJob) } }, { (default : LoadJob) with hdr := some { (default : ImgHeader) with imageType := 1, regionMask := 1, contractRev := 1 }, sections := [default], nextFrame := [(0, 36864)], descs := [0] }, { (default : ImgHeader) with imageType := 1, regionMask := 1, contractRev := 1 }, false, 0, by decide⟩
  · exact ⟨{ live with load := { live.load with job := some ({ (default : LoadJob) with hdr := some { (default : ImgHeader) with imageType := 1, regionMask := 1, contractRev := 1 } } : LoadJob) } }, { (default : LoadJob) with hdr := some { (default : ImgHeader) with imageType := 1, regionMask := 1, contractRev := 1 } }, { (default : ImgHeader) with imageType := 1, regionMask := 1, contractRev := 1 }, 1, false, by decide⟩
  · exact ⟨{ live with load := { live.load with store := [(0, some default)] }, ctx := { live.ctx with queue := [{ org := none, region := 0, slot := 0, ctx := 0, fast := false, granted := false }] } }, { org := none, region := 0, slot := 0, ctx := 0, fast := false, granted := false }, default, by decide⟩
  · exact ⟨{ live with load := { live.load with store := [(0, some default)] }, ctx := { live.ctx with queue := [{ org := none, region := 0, slot := 0, ctx := 0, fast := false, granted := true }] } }, { org := none, region := 0, slot := 0, ctx := 0, fast := false, granted := true }, default, 0, by decide⟩
  · exact ⟨{ live with mem := { live.mem with init := some { (default : InitJob) with org := some default } } }, { (default : InitJob) with org := some default }, default, by decide⟩
  · exact ⟨live, 72, 0, by decide⟩
  · exact ⟨live, 72, BitVec.ofNat 64 (2 ^ 27 + 1), by decide⟩
  · exact ⟨live, 0, by decide⟩
  · exact ⟨{ live with load := { live.load with job := some ({ (default : LoadJob) with source := 2 } : LoadJob) } }, { (default : LoadJob) with source := 2 }, by decide⟩
  · exact ⟨live, by decide⟩
  · exact ⟨{ live with ctx := { live.ctx with reads := [default] } }, default, [], by decide⟩

theorem meets_CfgCommandsReply :
    (∃ (s : State) (r : Req) (src : BitVec 2), ready s r 0x0201 = true ∧ src ≠ 3 ∧ domCut s 49 = false ∧ s.load.job = none ∧ s.load.boot = .complete) ∧
    (∃ (s : State) (r : Req), ready s r 0x0201 = true) ∧
    (∃ (s : State) (r : Req) (src : BitVec 2), ready s r 0x0201 = true ∧ src ≠ 3 ∧ domCut s 49 = false ∧ s.load.job ≠ none) ∧
    (∃ (s : State) (r : Req), ready s r 0x0202 = true) ∧
    (∃ (s : State) (r : Req) (g : BitVec 5) (here : List (Nat × Stored)), ready s r 0x0203 = true ∧ (List.range 16).filterMap (fun c => (Tab.get none s.load.store (16 * g.toNat + c)).map (fun x => (c, x))) = here) ∧
    (∃ (s : State) (r : Req) (mask : BitVec 32) (c : BitVec 4) (g : Nat), ready s r 0x0204 = true ∧ maskRegions mask.toNat = [g] ∧ Tab.get none s.load.store (16 * g + c.toNat) ≠ none ∧ contextUsed s g c.toNat = false ∧ loadingContext s g c.toNat = false) ∧
    (∃ (s : State) (r : Req) (mask : BitVec 32) (c : BitVec 4), ready s r 0x0204 = true ∧ (maskRegions mask.toNat = [] ∨ (∃ g ∈ maskRegions mask.toNat, Tab.get none s.load.store (16 * g + c.toNat) = none))) ∧
    (∃ (s : State) (r : Req) (g : BitVec 5) (n : BitVec 4) (tile : BitVec 11) (f : BitVec 10) (k : BitVec 11) (o : BitVec 27) (x : Stored), ready s r 0x0205 = true ∧ tileOfCode g.toNat tile.toNat ≠ none ∧ k ≠ 0 ∧ f.toNat + k.toNat ≤ 1024 ∧ o.toNat + 132 * k.toNat ≤ 2 ^ 27 ∧ domCut s 49 = false ∧ Tab.get none s.load.store (16 * g.toNat + n.toNat) = some x ∧ x.encrypted = false ∧ s.sec.life ≠ 3 ∧ s.sec.life ≠ 4) ∧
    (∃ (s : State) (r : Req) (g : BitVec 5) (n : BitVec 4) (tile : BitVec 11) (f : BitVec 10) (k : BitVec 11) (o : BitVec 27) (x : Stored), ready s r 0x0205 = true ∧ tileOfCode g.toNat tile.toNat ≠ none ∧ k ≠ 0 ∧ f.toNat + k.toNat ≤ 1024 ∧ o.toNat + 132 * k.toNat ≤ 2 ^ 27 ∧ domCut s 49 = false ∧ Tab.get none s.load.store (16 * g.toNat + n.toNat) = some x ∧ (x.encrypted = true ∨ s.sec.life = 3 ∨ s.sec.life = 4)) := by
  refine ⟨?_, ?_, ?_, ?_, ?_, ?_, ?_, ?_, ?_⟩
  · exact ⟨live, r0, 0, by decide⟩
  · exact ⟨live, r0, by decide⟩
  · exact ⟨{ live with load := { live.load with job := some ({ (default : LoadJob) with source := 2 } : LoadJob) } }, r0, 0, by decide⟩
  · exact ⟨live, r0, by decide⟩
  · exact ⟨live, r0, 0, [], by decide⟩
  · exact ⟨{ live with load := { live.load with store := [(0, some default)] } }, r0, 1, 0, 0, by decide⟩
  · exact ⟨live, r0, 0, 0, by decide⟩
  · exact ⟨{ live with load := { live.load with store := [(0, some default)] } }, r0, 0, 0, 0, 0, 1, 0, default, by decide⟩
  · exact ⟨{ live with load := { live.load with store := [(0, some { (default : Stored) with encrypted := true })] } }, r0, 0, 0, 0, 0, 1, 0, { (default : Stored) with encrypted := true }, by decide⟩

/-- A CREATE token at source 0, with any items in the store. -/
def createAt (l : List Item) : State :=
  { live with dsp := { live.dsp with
      items := l, rot := 65, sources := [(0, { bound := true, en := true, head := some (0x700000031#64, 9) })] } }

theorem createAt_next (l : List Item) : nextTok (createAt l) = some (0, (0x700000031#64, 9)) := by
  have h0 : (createAt l).dsp.rot = 65 := rfl
  have h1 : headTok (createAt l) 0 = some (0x700000031#64, 9) := rfl
  have h2 : tokHeld (createAt l) 0 = false := rfl
  rw [nextTok]
  refine List.findSome?_eq_some_iff.2 ⟨[], 0, (List.range 66).drop 1, by decide, ?_, by simp⟩
  simp only [h0, h1, h2, Bool.false_and, if_neg Bool.false_ne_true]

/-- A state with 65,536 items in the dispatcher's store, and a CREATE token of another tag at source 0. -/
theorem meets_TokenRows_full :
    ∃ (s : State) (k : Nat) (t : Token), dspUp s = true ∧ nextTok s = some (k, t) ∧ k < 64 ∧ tkKind t = 1 ∧ tkMalformed t = false ∧
      doneOnly s k = false ∧ itemOf s (tkTag t) = none ∧ 65536 ≤ s.dsp.items.length := by
  refine ⟨createAt (List.replicate 65536 default), 0, (0x700000031#64, 9), rfl, createAt_next _, by decide, by decide, by decide,
    rfl, ?_, ?_⟩
  · rw [itemOf, List.find?_eq_none]
    intro x hx
    rw [List.eq_of_mem_replicate hx]
    decide
  · show 65536 ≤ (List.replicate 65536 (default : Item)).length
    exact Nat.le_of_eq List.length_replicate.symm

/-- A firmware image of one byte of code, and a device in ROM mode that holds its slot bytes in block 0. -/
def oneByteFw : FwImage :=
  { magic := fwMagic, version := 0, ifRev := 1, svn := 0, length := 1, digest := 0, signature := List.replicate 96 0,
    reservedZero := true, code := [0] }

def slotWords : Tab MWord := [(0, { data := 0x5746414B }), (1, { data := 0x100000001 })]

def holdsFw (b : BaristaState) : State :=
  updBlock 0 (fun g => { g with words := slotWords })
    { live with mbx := { barista := b } }

/-- Byte i of the slot image. -/
def fwByte (i : Nat) : Byte := BitVec.ofNat 8 (field (Tab.get {} slotWords (i / 8)).data.toNat (8 * (i % 8)) 8)

theorem holdsFw_byte (b : BaristaState) (i : Nat) (h : i < 513) : layerByte (holdsFw b) i = some (fwByte i) := by
  have h0 : i / 65536 = 0 := by omega
  have h1 : i % 65536 = i := by omega
  have hc : (1152 ≤ 0 ∨ domOn (holdsFw b) (sectorDom (sectorOf 0)) = false ∨ unavailable (holdsFw b) 0 ∨
      blockRetired (holdsFw b) 0) = False := by cases b <;> decide
  have hb : (blockNow (holdsFw b) 0).writes = [] ∧ (blockNow (holdsFw b) 0).words = slotWords := by cases b <;> decide
  have he : ∀ a, (Tab.get {} slotWords a).ecc ≠ .bad := by
    intro a
    simp only [slotWords, Tab.get]
    split
    · exact (by decide)
    · split <;> exact (by decide)
  simp only [layerByte, h0, h1, hc, if_false, seenWord, hb.1, hb.2, List.filter_nil, List.foldl_nil, he, fwByte]

theorem mapM_some (f : Nat → Option Byte) (g : Nat → Byte) :
    ∀ l : List Nat, (∀ i ∈ l, f i = some (g i)) → l.mapM f = some (l.map g)
  | [], _ => rfl
  | a :: l, h => by
    rw [List.mapM_cons, h a (List.mem_cons_self ..), mapM_some f g l fun i hi => h i (List.mem_cons_of_mem _ hi)]
    rfl

theorem holdsFw_parses (b : BaristaState) : (readBytes (holdsFw b) 0x080000000000 513).bind parseFw = some oneByteFw := by
  have h : readBytes (holdsFw b) 0x080000000000 513 = some ((List.range 513).map fwByte) := by
    rw [readBytes, if_pos (by decide)]
    refine mapM_some _ _ _ fun i hi => ?_
    rw [Nat.sub_self, Nat.zero_add, holdsFw_byte b i (List.mem_range.1 hi)]
  rw [h]
  decide

theorem holdsFw_reads (b : BaristaState) (h : fwValid (holdsFw b) oneByteFw = true) :
    readImage (holdsFw b) 0x080000000000 513 = .ok oneByteFw := by
  unfold readImage
  rw [holdsFw_parses]
  show (if _ then _ else if fwValid (holdsFw b) oneByteFw = true then _ else _) = _
  rw [if_neg (by decide), if_pos h]

/-- An image that the firmware key signs is read, in ROM mode and while firmware serves. -/
theorem meets_FirmwareRows_image :
    (fwValid (holdsFw .rom) oneByteFw = true → ∃ (s : State) (r : Req) (a : BitVec 48) (n : BitVec 20) (f : FwImage),
      ready s r 0x0103 = true ∧ s.mbx.barista = .rom ∧ s.mbx.fw = none ∧ s.start.obs = none ∧
        readImage s a.toNat n.toNat = .ok f) ∧
    (fwValid (holdsFw .serving) oneByteFw = true → ∃ (s : State) (r : Req) (a : BitVec 48) (n : BitVec 20) (f : FwImage),
      ready s r 0x0104 = true ∧ s.mbx.barista = .serving ∧ s.mbx.fwUpdate = none ∧ readImage s a.toNat n.toNat = .ok f) :=
  ⟨fun h => ⟨holdsFw .rom, r0, 0x080000000000, 513, oneByteFw, by decide, rfl, rfl, rfl, holdsFw_reads _ h⟩,
   fun h => ⟨holdsFw .serving, r0, 0x080000000000, 513, oneByteFw, by decide, rfl, rfl, holdsFw_reads _ h⟩⟩

/-- A trial image runs and the other slot is valid. -/
theorem meets_FirmwareRows_fallback (f : FwImage) (h : fwValid live f = true) :
    ∃ (s : State) (x : FwRun), s.mbx.barista = .serving ∧ s.mbx.fw = some x ∧ x.trial = true ∧
      slotValid s (!(x.slot.getD false)) = true :=
  ⟨{ live with mbx := { live.mbx with slotB := some f, fw := some { (default : FwRun) with trial := true } } },
    { (default : FwRun) with trial := true }, rfl, rfl, rfl, h⟩

end Sys2Proof.Tests
end

/-! The doorbell, acknowledge and clear rows of a register channel, and REGISTER_WRITE by each of its writers (R457 to R459,
R461, R462, R476, R600). -/

namespace Sys2Proof.Machine

/-! ## The rows of a channel that its sender reaches -/

theorem exec_mbxRing_live {c : Fin 16} {s : State} (h : doorLive s c.val = true) :
    exec (.mbxRing c) s = .next (ringChan c.val s) := by
  show execMbxRing c s = _
  rw [execMbxRing, if_pos h]
  rfl

theorem exec_mbxAck_live {c : Fin 16} {s : State} (h : doorLive s c.val = true) :
    exec (.mbxAck c) s = .next (ackChan c.val s) := by
  show execMbxAck c s = _
  rw [execMbxAck, if_pos h]
  rfl

theorem exec_mbxClear_live {c : Fin 16} {s : State} (h : doorLive s c.val = true) :
    exec (.mbxClear c) s = .next (clearChan c.val s) := by
  show execMbxClear c s = _
  rw [execMbxClear, if_pos h]

theorem isRegChan_of_doorLive {s : State} {c : Nat} (h : doorLive s c = true) : isRegChan c = true := by
  rw [doorLive, Bool.and_eq_true] at h
  exact h.1

/-! ## The doorbell -/

theorem ringChan_busy {c : Nat} {s : State} (hr : s.mbx.barista ≠ .inReset) (hb : (chanOf s c).st = .busy) :
    ringChan c s = updChan c (fun ch => { ch with overrun := true }) s := by
  rw [ringChan, if_neg hr, if_pos hb]

theorem ringChan_disabled {c : Nat} {s : State} (hr : s.mbx.barista ≠ .inReset) (hb : (chanOf s c).st ≠ .busy)
    (he : (chanOf s c).enable = false) :
    ringChan c s = answerHw (regRequest (updChan c Chan.rung s) c) .denied (updChan c Chan.rung s) := by
  rw [ringChan, if_neg hr, if_neg hb, if_pos he]

theorem chanOf_raiseRsp (c d : Nat) (s : State) : chanOf (raiseRsp c s) d = chanOf s d :=
  chanOf_congr (congrArg Mbx.chans (raiseRsp_chans c s)) d

/-- The last part of a response on a register channel that waits for it. -/
theorem deliver_last {c : Nat} {via : Option MgmtMsg} {p : Rsp} {s : State} (hc : isRegChan c = true)
    (hb : (chanOf s c).st = .busy) :
    (chanOf (deliver c via false p s) c).st = .response ∧ (deliver c via false p s).mbx.order = s.mbx.order := by
  unfold deliver deliverRaw
  rw [if_pos hc, if_pos hb, chanOf_raiseRsp, raiseRsp_chans, chanOf_updChan_same]
  exact ⟨rfl, rfl⟩

theorem answerHw_response {q : Request} {st : Status} {s : State} (hc : isRegChan q.channel = true)
    (hb : (chanOf s q.channel).st = .busy) :
    (chanOf (answerHw q st s) q.channel).st = .response ∧ (answerHw q st s).mbx.order = s.mbx.order := by
  rw [answerHw, answerWith, if_neg (by decide)]
  exact deliver_last hc hb

/-- The answer of a disabled channel stands in its response registers, and nothing joins the requests that wait for Barista (R457). -/
theorem ringChan_disabled_response {c : Nat} {s : State} (hc : isRegChan c = true) (hr : s.mbx.barista ≠ .inReset)
    (hb : (chanOf s c).st ≠ .busy) (he : (chanOf s c).enable = false) :
    (chanOf (ringChan c s) c).st = .response ∧ (ringChan c s).mbx.order = s.mbx.order := by
  have hrung : (chanOf (updChan c Chan.rung s) c).st = .busy := by rw [chanOf_updChan_same]; rfl
  rw [ringChan_disabled hr hb he]
  exact answerHw_response (q := regRequest (updChan c Chan.rung s) c) hc hrung

/-! ## MBX_ACK and MBX_CLEAR -/

theorem ackChan_response {c : Nat} {s : State} (h : (chanOf s c).st = .response) :
    ackChan c s = updChan c (fun ch => { ch with st := .idle }) s :=
  updChan_congr (if_pos h)

theorem ackChan_ignored {c : Nat} {s : State} (h : (chanOf s c).st ≠ .response) : ackChan c s = updChan c id s :=
  updChan_congr (if_neg h)

theorem clearChan_ended {c : Nat} {s : State} (h : (chanOf s c).st = .response ∨ (chanOf s c).st = .part) :
    clearChan c s = updChan c (fun ch => { ch with st := .idle, parts := none, rest := none }) s :=
  updChan_congr (if_pos h)

theorem clearChan_ignored {c : Nat} {s : State} (h : ¬((chanOf s c).st = .response ∨ (chanOf s c).st = .part)) :
    clearChan c s = updChan c id s :=
  updChan_congr (if_neg h)

/-! ## REGISTER_WRITE -/

/-- The interrupt mask lies in bits 8 to 10 of EVT_IRQ_MASK, which the low half of the value holds (Table MBX-15). -/
theorem bar0Write_irqMask {s : State} (v : W64) (h : s.evt.lostNew = 0) :
    bar0Write 0x8024 (v.extractLsb' 0 32) s = { s with evt := { s.evt with irqMask := v.extractLsb' 8 3 } } := by
  have hmask : (v.extractLsb' 0 32).extractLsb' 8 3 = v.extractLsb' 8 3 := BitVec.extractLsb'_extractLsb'_of_le (by decide)
  rw [bar0Write, if_neg (by decide), if_neg (by decide), if_pos (by decide), ← hmask]
  exact hostEvt_quiet (f := evtWrite 0x24 (v.extractLsb' 0 32)) h

theorem exec_registerWrite_bar0 {s : State} (h : hostLive s = true) (addr : BitVec 48) (v : W64) :
    exec (.registerWrite .bar0 addr v) s = .next (bar0Write addr.toNat (v.extractLsb' 0 32) s) := by
  show Host.Outcome.next (if hostLive s then _ else s) = _
  rw [if_pos h]

theorem exec_registerWrite_jtag {s : State} (h : regsLive s = true) (addr : BitVec 48) (v : W64) :
    exec (.registerWrite .jtag addr v) s = .next (imageWrite 12 addr.toNat (v.extractLsb' 0 32).toNat s) := by
  show Host.Outcome.next (if regsLive s then _ else s) = _
  rw [if_pos h]

theorem exec_registerWrite_smbus {s : State} (h : regsLive s = true) (addr : BitVec 48) (v : W64) :
    exec (.registerWrite .smbus addr v) s = .next (imageWrite 13 addr.toNat (v.extractLsb' 0 32).toNat s) := by
  show Host.Outcome.next (if regsLive s then _ else s) = _
  rw [if_pos h]

theorem imageWrite_irqMask (c : Nat) (v : W64) (s : State) :
    imageWrite c 0x00C (v.extractLsb' 0 32).toNat s = updChan c (fun ch => { ch with irqMask := v.getLsbD 0 }) s := by
  rw [image_mask, testBit0_extract]

/-- The workspace write pointer takes a write that the mesh does not hold as one whole word (R213, R600). -/
theorem nocRegWrite_wptr {s : State} {src : BitVec 8} {tag : BitVec 12} (v : W64) (hm : meshReq s src tag = none)
    (hp : protDenied s src.toNat 0x082002000000 = false) (hw : wsWriter s src.toNat = true) :
    nocRegWrite src tag 0x082002000000#48 v s = setWptr v s := by
  have ha : (0x082002000000#48).toNat = 0x082002000000 := by decide
  have hreg : isRegister s 0x082002000000 = true := by
    rw [isRegister, dest_wptr]
    rfl
  have hhigh : decide (0x082002000000 % 8 = 4) = false := by decide
  rw [nocRegWrite, hm]
  dsimp only
  rw [ha, if_pos hreg, hhigh]
  exact ctlWrite_wptr s _ v rfl rfl rfl rfl hp hw

/-! ## The obligation -/

/-- Settles O20: each row is one operation on the channel, whose case is that of the channel's state; a register write
reaches one register, at the address that its writer gives. -/
theorem channelRows : Obligations.ChannelRows := by
  unfold Obligations.ChannelRows
  refine ⟨fun s c hd hs => ?_, ?_, ?_, ?_⟩
  · have hr : s.mbx.barista ≠ .inReset := by rw [hs]; decide
    rw [exec_mbxRing_live hd, exec_mbxAck_live hd, exec_mbxClear_live hd]
    refine ⟨fun hb => ⟨?_, ?_, ?_⟩, fun hb he => ?_, fun hb he => ?_, fun h => ?_, fun h => ?_⟩
    · rw [ringChan_busy hr hb]
    · rw [ackChan_ignored (by rw [hb]; decide)]
    · rw [clearChan_ignored (by rw [hb]; decide)]
    · rw [ringChan_posts (.inl hs) hb he]; rfl
    · exact ⟨_, rfl, ringChan_disabled_response (isRegChan_of_doorLive hd) hr hb he⟩
    · rw [ackChan_response h]
    · rw [clearChan_ended h]
  · intro s v hl h0
    rw [exec_registerWrite_bar0 hl]
    exact congrArg _ (bar0Write_irqMask v h0)
  · intro s v hl
    rw [exec_registerWrite_jtag hl, exec_registerWrite_smbus hl]
    exact ⟨congrArg _ (imageWrite_irqMask 12 v s), congrArg _ (imageWrite_irqMask 13 v s)⟩
  · intro s src tag v hm hp hw
    exact congrArg _ (nocRegWrite_wptr v hm hp hw)

end Sys2Proof.Machine

/-! The rows of the fabric (a clock cycle, the parity of carry-over registers, upsets and bond pads: R15, R33, R50, R69), and
those of the scrubber and the store patrol (R196, R228 to R236). -/

namespace Sys2Proof.Machine

/-! ## The fabric clock -/

theorem clockFabric_markUnsync_clk (s : State) : (clockFabric (markUnsync s)).clk = s.clk :=
  ((clockFabric_frame _).same .clk rfl).trans ((markUnsync_frame s).same .clk rfl)

theorem exec_fabricClockCycle_clk {s : State} (h : fabricClock s = true) :
    ∃ t, exec .fabricClockCycle s = .next t ∧
      t.clk = { s.clk with fc := s.clk.fc + 1, sinceLock := s.clk.sinceLock + 1, time := s.clk.time + 1 } := by
  refine ⟨_, if_pos h, ?_⟩
  dsimp only
  rw [clockFabric_markUnsync_clk]

theorem exec_fabricClockCycle_stopped {s : State} (h : fabricClock s = false) : exec .fabricClockCycle s = .next s :=
  if_neg (ne_true_of_eq_false h)

/-! ## Carry-over registers and configuration upsets -/

/-- Both outcomes of the check leave the registers and the parity with the upset in them (R50). -/
theorem exec_carryoverParity_fab (layer : Bool) (column row : Fin 24) (g : Fin 4) (upset : BitVec 17) (s : State) :
    ∃ t, exec (.carryoverParity layer column row g upset) s = .next t ∧
      t.fab = { s.fab with
        co := Tab.set 0 s.fab.co (576 * bit layer + 24 * row.val + column.val)
          (Tab.get 0 s.fab.co (576 * bit layer + 24 * row.val + column.val) ^^^
            ((upset.extractLsb' 0 16).zeroExtend 64 <<< (16 * g.val)))
        coPar := Tab.set 0 s.fab.coPar (576 * bit layer + 24 * row.val + column.val)
          (Tab.get 0 s.fab.coPar (576 * bit layer + 24 * row.val + column.val) ^^^
            ((upset.extractLsb' 16 1).zeroExtend 4 <<< g.val)) } := by
  show ∃ t, execCarryoverParity layer column row g upset s = .next t ∧ _
  rw [execCarryoverParity]
  dsimp only
  split
  · exact ⟨_, rfl, rfl⟩
  · exact ⟨_, rfl, (raise_frame ..).same .fab rfl⟩

/-- An upset in a resident plane flips one bit of the plane's frame (R69). -/
theorem exec_configurationUpset_resident {s : State} {r : Fin 32} {k : Fin 4}
    (h : ((regionOf s r.val).slot k.val).st ≠ .empty) (tile : Fin 36) (f b : Fin 1024) :
    exec (.configurationUpset r k tile f b) s =
      .next (updRegion r.val (fun g => g.updSlot k.val (fun x =>
        { x with plane := Tab.upd 0 x.plane (1024 * tile.val + f.val) (fun v => v ^^^ (1#1024 <<< b.val)) })) s) :=
  if_neg h

/-! ## One frame of a scrub pass -/

/-- A frame of a plane that is not running, with its golden frame readable, goes from the scrubber's place to the comparison. -/
theorem exec_scrubFrameCheck_compares {s : State} {x : Stored} (hr : scrubRuns s = true) (hl : shareLent s = false)
    (hp : onPlane (scrubPlace s) = true)
    (hx : Tab.get none s.load.store (16 * (scrubPlace s).region +
      ((regionOf s (scrubPlace s).region).slot (scrubPlace s).slot).ctx.toNat) = some x)
    (hd : x.damaged.contains (scrubPlace s).frame = false) :
    exec (.scrubFrameCheck false false false) s =
      .next (compareFrame (scrubPlace s).region (scrubPlace s).slot (scrubPlace s).frame x
        (updScrub scrubAdvance { s with scrub := scrubPlace s })) := by
  have hgo : ¬(scrubRuns s = false ∨ shareLent s = true) := by simp [hr, hl]
  show execScrubFrameCheck false false false s = _
  rw [execScrubFrameCheck, if_neg hgo]
  simp only [hp, if_true, hx, hd, Bool.false_eq_true, if_false]
  exact congrArg (fun y => Host.Outcome.next (compareFrame _ _ _ (Option.getD y x) _)) hx

/-! ## The end of a pass, and a stall -/

theorem exec_scrubPassEnd_done {s : State} (us : BitVec 32) (hr : scrubRuns s = true) (hp : onPlane (scrubPlace s) = false)
    (hd : (scrubPlace s).deferred = []) (hv : ∃ r, r < 32 ∧ anyVerified (regionOf s r) = true) :
    exec (.scrubPassEnd us) s = .next { s with scrub := { scrubPlace s with
      region := 0, slot := 0, frame := 0, back := [], late := false, passes := satAdd (scrubPlace s).passes 1, lastUs := us } } := by
  obtain ⟨r, hr32, hany⟩ := hv
  exact if_pos ⟨hr, hp, hd, List.any_eq_true.2 ⟨r, List.mem_range.2 hr32, hany⟩⟩

theorem exec_scrubStallTimeout_stalls {s : State} (hr : scrubRuns s = true) :
    ∃ t, exec .scrubStallTimeout s = .next t ∧ t.scrub = { s.scrub with stalled := true } :=
  ⟨_, if_pos hr, (raise_frame ..).same .scrub rfl⟩

/-! ## The store patrol -/

theorem get_updStored_same {s : State} {key : Nat} {c : Stored} (h : Tab.get none s.load.store key = some c)
    (f : Stored → Stored) : Tab.get none (updStored key f s).load.store key = some (f c) := by
  rw [updStored, h]
  dsimp only
  rw [Tab.get_set_same]

/-- The patrol reads a frame that is not damaged yet and that no scrub pass reads: an uncorrectable error marks it, and each
error counts once, as what it is (R196). -/
theorem exec_storePatrolRead_counts {s : State} {r : Fin 32} {c : Fin 16} {tile : Fin 36} {f : Fin 1024} (corr ue : Bool)
    {x : Stored} (hx : Tab.get none s.load.store (16 * r.val + c.val) = some x) (hon : domOn s 48 = true)
    (hd : x.damaged.contains (1024 * tile.val + f.val) = false)
    (hns : ∀ k, k < 4 → verified s r.val k = true → ((regionOf s r.val).slot k).ctx.toNat ≠ c.val) :
    ∃ t, exec (.storePatrolRead r c tile f corr ue) s = .next t ∧
      Tab.get none t.load.store (16 * r.val + c.val) =
        some { x with damaged := if ue then x.damaged ++ [1024 * tile.val + f.val] else x.damaged } ∧
      t.scrub.storeUe = (if ue then satAdd s.scrub.storeUe 1 else s.scrub.storeUe) ∧
      t.scrub.storeCe = (if corr && !ue then satAdd s.scrub.storeCe 1 else s.scrub.storeCe) := by
  have hgo : ¬(domOn s 48 = false ∨ x.damaged.contains (1024 * tile.val + f.val) = true ∨
      (List.range 4).any (fun k => verified s r.val k && ((regionOf s r.val).slot k).ctx.toNat == c.val) = true) := by
    simpa [hon] using And.intro hd hns
  show ∃ t, execStorePatrolRead r c tile f corr ue s = .next t ∧ _
  simp only [execStorePatrolRead, hx]
  rw [if_neg hgo]
  cases ue with
  | true =>
    refine ⟨_, rfl, ?_, ?_, ?_⟩
    · rw [(raise_frame ..).same .load rfl]
      exact get_updStored_same hx _
    · rw [(raise_frame ..).same .scrub rfl, updScrub]
      dsimp only
      rw [(updStored_frame ..).same .scrub rfl, if_pos rfl]
    · rw [(raise_frame ..).same .scrub rfl, updScrub]
      dsimp only
      rw [(updStored_frame ..).same .scrub rfl, Bool.not_true, Bool.and_false, if_neg Bool.false_ne_true]
  | false =>
    cases corr with
    | true => exact ⟨_, rfl, hx, rfl, rfl⟩
    | false => exact ⟨_, rfl, hx, rfl, rfl⟩

/-! ## The obligation -/

/-- Settles O35: each row is one operation, whose branch its hypotheses choose; what it changes is read from that operation,
and what a posted event leaves alone from the frame of the event. -/
theorem fabricAndScrubRows : Obligations.FabricAndScrubRows := by
  unfold Obligations.FabricAndScrubRows
  refine ⟨⟨fun s h => exec_fabricClockCycle_clk h, fun s h => exec_fabricClockCycle_stopped h, ?_, ?_, ?_⟩,
    ?_, fun s us hr hp hd hv => exec_scrubPassEnd_done us hr hp hd hv, fun s hr => exec_scrubStallTimeout_stalls hr,
    fun s r c tile f corr ue x hx hon hd hns => exec_storePatrolRead_counts corr ue hx hon hd hns,
    fun s r h => serve_report h rfl⟩
  · intro s layer column row g upset
    obtain ⟨t, hexec, hfab⟩ := exec_carryoverParity_fab layer column row g upset s
    refine ⟨t, hexec, ?_, ?_⟩ <;> rw [hfab] <;> exact Tab.get_set_same ..
  · intro s r k tile f b hne
    refine ⟨_, exec_configurationUpset_resident hne tile f b, ?_, fun n hn => ?_⟩
    · rw [slot_upd]
      dsimp only
      rw [Tab.get_upd_same]
    · rw [slot_upd]
      dsimp only
      rw [Tab.get_upd_ne _ _ _ hn]
  · intro s layer column row c w hfirst
    exact ⟨_, if_neg (ne_true_of_eq_false hfirst), rfl, rfl, rfl⟩
  · intro s x hr hl hp hx hd hst
    exact ⟨_, exec_scrubFrameCheck_compares hr hl hp hx hd, plane_after _ _ _ _ _ hst⟩

end Sys2Proof.Machine

/-! Where things lie on the device (R71, R148, R415), and what a select passes in the routing and in the mux tree of a tile
(R37, R38, R67). -/

namespace Sys2Proof.Machine

/-! ## Columns and the skip position -/

theorem physOf_of_lt {skip c : Nat} (h : c < skip) : physOf skip c = c := if_pos h

theorem physOf_of_le {skip c : Nat} (h : skip ≤ c) : physOf skip c = c + 1 := if_neg (Nat.not_lt.2 h)

/-! ## Blocks and their sectors -/

/-- A footprint entry names the block of index b above (column, row); its fields hold every such place (R148, Table CFG-8). -/
theorem fpBlock_ofNat (kind : BitVec 4) (layer : Bool) {column row b : Nat} (hc : column < 24) (hr : row < 24) (hb : b < 2) :
    fpBlock { kind, column := BitVec.ofNat 5 column, row := BitVec.ofNat 5 row, layer, index := BitVec.ofNat 12 b } =
      2 * (24 * row + column) + b := by
  have hcol : (BitVec.ofNat 5 column).toNat = column := (BitVec.toNat_ofNat ..).trans (Nat.mod_eq_of_lt (by omega))
  have hrow : (BitVec.ofNat 5 row).toNat = row := (BitVec.toNat_ofNat ..).trans (Nat.mod_eq_of_lt (by omega))
  have hidx : (BitVec.ofNat 12 b).toNat = b := (BitVec.toNat_ofNat ..).trans (Nat.mod_eq_of_lt (by omega))
  rw [fpBlock, hcol, hrow, hidx, Nat.mod_eq_of_lt hb]

/-- The sector of a block, by the tile position that its number holds: the row in the quotient by 24, the column in the
remainder (R148). -/
theorem sectorOf_block {column b : Nat} (row : Nat) (hc : column < 24) (hb : b < 2) :
    sectorOf (2 * (24 * row + column) + b) = 4 * (row / 12) + column / 6 := by
  have htile : (2 * (24 * row + column) + b) / 2 = 24 * row + column := by omega
  have hrow : (24 * row + column) / 24 = row := by omega
  have hcol : (24 * row + column) % 24 = column := by omega
  rw [sectorOf, htile, hrow, hcol]

/-! ## Pins and their driving regions -/

/-- The driving region of pin mm of bank nn (R415). -/
theorem pinRegion_bank {mm : Nat} (nn : Nat) (hm : mm < 48) : pinRegion (48 * nn + mm) = 4 * (mm / 12) + nn / 6 := by
  have hpin : (48 * nn + mm) % 48 = mm := by omega
  have hbank : (48 * nn + mm) / 48 = nn := by omega
  rw [pinRegion, hpin, hbank]

/-- Settles O12: a block's number and a pin's number each hold the place they were made from, as quotient and remainder. -/
theorem placesFollowTheRules : Obligations.PlacesFollowTheRules := by
  unfold Obligations.PlacesFollowTheRules
  exact ⟨fun _ _ => ⟨physOf_of_lt, physOf_of_le⟩,
    fun _ row _ hc hr hb => ⟨fpBlock_ofNat 1 true hc hr hb, sectorOf_block row hc hb⟩,
    fun nn _ _ hm => pinRegion_bank nn hm⟩

/-! ## Selects -/

@[simp] theorem mux_singleton (f : Src → Bool) (x : Src) : mux f [x] = f x := rfl

theorem mux_of_length_ne_one (f : Src → Bool) {sel : Sel} (h : sel.length ≠ 1) : mux f sel = false := by
  match sel with
  | [] => rfl
  | [_] => exact absurd rfl h
  | _ :: _ :: _ => rfl

/-- The first select line of each level of the mux tree, which has 8, 4, 2 and 1 groups (R37). -/
theorem muxTree_succ (o6 : List Bool) (line : Nat → Bool) {n : Nat} (k : Nat) (h : n < 4) :
    muxTree o6 line (n + 1) k =
      if line ((if n = 0 then 0 else if n = 1 then 8 else if n = 2 then 12 else 14) + k) then muxTree o6 line n (2 * k + 1)
      else muxTree o6 line n (2 * k) := by
  match n, h with
  | 0, _ => rfl
  | 1, _ => rfl
  | 2, _ => rfl
  | 3, _ => rfl

/-- Settles O13: a select by its length, and a tree node by its level. -/
theorem selectsPassInputs : Obligations.SelectsPassInputs := by
  unfold Obligations.SelectsPassInputs
  exact ⟨mux_singleton, fun f _ h => mux_of_length_ne_one f h, fun o6 line _ k h => muxTree_succ o6 line k h⟩

end Sys2Proof.Machine

/-! The tracking of the vertical phases (R87). -/

namespace Sys2Proof.Machine

/-! ## A tracking step -/

/-- A phase may step where its last step, if there was one, lies 1,024 fc or more back (R87). -/
theorem mayStep_of_forall_le {t : Nat} {o : Option Nat} (h : ∀ a, o = some a → a + 1024 ≤ t) : mayStep t o = true := by
  cases o with
  | none => rfl
  | some a => exact decide_eq_true (h a rfl)

theorem mayStep_some_of_lt {t a : Nat} (h : t < a + 1024) : mayStep t (some a) = false := decide_eq_false (Nat.not_le.2 h)

theorem exec_valignTrackStep_lower {s : State} (up : Bool) (hb : s.align.busy = false) (hl : (pllOf s 0).locked = true)
    (hm : mayStep s.clk.fc s.align.stepAt = true) :
    exec (.valignTrackStep false up) s = .next { s with align := { s.align with
      phi := if up then s.align.phi + 1 else s.align.phi - 1, stepAt := some s.clk.fc } } := by
  show execValignTrackStep false up s = _
  simp only [execValignTrackStep, hb, hl, hm, if_true, Bool.false_eq_true, Bool.true_eq_false, or_self, if_false]
  rfl

theorem exec_valignTrackStep_upper {s : State} (up : Bool) (hb : s.align.busy = false) (hl : (pllOf s 0).locked = true)
    (hm : mayStep s.clk.fc s.align.stepAt2 = true) :
    exec (.valignTrackStep true up) s = .next { s with align := { s.align with
      phi2 := if up then s.align.phi2 + 1 else s.align.phi2 - 1, stepAt2 := some s.clk.fc } } := by
  show execValignTrackStep true up s = _
  simp only [execValignTrackStep, hb, hl, hm, if_true, Bool.false_eq_true, Bool.true_eq_false, or_self, if_false]
  rfl

/-- A phase that may not step yet is left alone, whatever the alignment and the PLL are doing (R87). -/
theorem exec_valignTrackStep_early {s : State} (upper up : Bool)
    (hm : mayStep s.clk.fc (if upper then s.align.stepAt2 else s.align.stepAt) = false) :
    exec (.valignTrackStep upper up) s = .next s := by
  show execValignTrackStep upper up s = _
  cases upper with
  | false => simp only [Bool.false_eq_true, if_false] at hm; simp [execValignTrackStep, hm]
  | true => simp only [if_true] at hm; simp [execValignTrackStep, hm]

/-- A tracking step measures no crossing again (R87). -/
theorem exec_valignTrackStep_record {s t : State} {upper up : Bool} (h : exec (.valignTrackStep upper up) s = .next t) :
    t.align.record = s.align.record := by
  change execValignTrackStep upper up s = _ at h
  simp only [execValignTrackStep] at h
  split at h
  next => cases h; rfl
  next =>
    cases upper with
    | false =>
      simp only [Bool.false_eq_true, if_false] at h
      split at h <;> cases h <;> rfl
    | true =>
      simp only [if_true] at h
      split at h <;> cases h <;> rfl

/-- Settles O14: the limit of 1,024 fc is the guard of the step of each phase. -/
theorem trackingSteps : Obligations.TrackingSteps := by
  unfold Obligations.TrackingSteps
  refine fun s up hb hl => ⟨fun h => exec_valignTrackStep_lower up hb hl (mayStep_of_forall_le h),
    fun h => exec_valignTrackStep_upper up hb hl (mayStep_of_forall_le h), fun a ha hlt => ?_, fun a ha hlt => ?_,
    fun _ _ ht => exec_valignTrackStep_record ht⟩
  · exact exec_valignTrackStep_early false up (by rw [if_neg Bool.false_ne_true, ha]; exact mayStep_some_of_lt hlt)
  · exact exec_valignTrackStep_early true up (by rw [if_pos rfl, ha]; exact mayStep_some_of_lt hlt)

end Sys2Proof.Machine

/-! The event ring as a host writes its registers (R475, R477), and the queues of a fabric mailbox (R94, R95, R465). -/

namespace Sys2Proof.Machine

/-! ## The event ring's registers -/

theorem exec_evtRingEnable_live {s : State} (h : hostLive s = true) (v : BitVec 32) :
    exec (.evtRingEnable v) s = .next (hostEvt (setRingCfg v) s) := congrArg _ (if_pos h)

theorem exec_evtRingTailWrite_live {s : State} (h : hostLive s = true) (v : BitVec 32) :
    exec (.evtRingTailWrite v) s = .next (hostEvt (setRingTail v) s) := congrArg _ (if_pos h)

theorem exec_evtAlertAckWrite_live {s : State} (h : hostLive s = true) (v : BitVec 32) :
    exec (.evtAlertAckWrite v) s = .next (hostEvt (setAlertAck v) s) := congrArg _ (if_pos h)

/-- A ring that is enabled anew starts empty, with a size from 6 to 16 (R475). -/
theorem setRingCfg_enable {v : BitVec 32} {e : Evt} (hen : v.getLsbD 5 = true) (h6 : 6 ≤ (v.extractLsb' 0 5).toNat)
    (h16 : (v.extractLsb' 0 5).toNat ≤ 16) (hoff : e.ringEn = false) :
    setRingCfg v e = { e with ringLog2 := v.extractLsb' 0 5, ringEn := true, head := 0, tail := 0 } := by
  simp only [setRingCfg, hen, hoff, h6, h16, and_self, if_true]

theorem setRingTail_of_le {v : BitVec 32} {e : Evt} (h : (e.head - v).toNat ≤ 2 ^ e.ringLog2.toNat) :
    setRingTail v e = { e with tail := v } := if_pos h

theorem setRingTail_of_lt {v : BitVec 32} {e : Evt} (h : 2 ^ e.ringLog2.toNat < (e.head - v).toNat) :
    setRingTail v e = e := if_neg (Nat.not_le.2 h)

/-! ## A fabric mailbox -/

/-- An answer list that holds nothing for fc t leaves the fc free for one operation (R94, R95). -/
theorem any_fst_eq_false {α : Type} {t : Nat} {l : List (Nat × α)} (h : ∀ a ∈ l, a.1 ≠ t) :
    l.any (fun a => a.1 == t) = false :=
  List.any_eq_false.2 fun a ha => by simpa using h a ha

/-- The channel after a word that its request queue accepts, with the ACCEPT of fc t (R95). -/
def Chan.takeWord (t : Nat) (w : W64) (last : Bool) (ch : Chan) : Chan :=
  { ch with accepts := ((t, true) :: ch.accepts).take 5, reqQ := ch.reqQ ++ [(w, last)] }

/-- A word with room in the request queue is accepted, and a last word completes its request (R95, R465). -/
theorem exec_mbxReqPush_room {s : State} {k : Fin 4} (w : W64) (last : Bool) (hr : chanReach s (8 + k.val) = true)
    (hf : ∀ a ∈ (chanOf s (8 + k.val)).accepts, a.1 ≠ s.clk.fc + 4) (hc : (chanOf s (8 + k.val)).closed = false)
    (hq : (chanOf s (8 + k.val)).reqQ.length < 64) :
    exec (.mbxReqPush k w last) s = .next (if last then
        takeFabRequest (8 + k.val) (updChan (8 + k.val) (Chan.takeWord (s.clk.fc + 4) w last) s)
      else updChan (8 + k.val) (Chan.takeWord (s.clk.fc + 4) w last) s) := by
  show execMbxReqPush k w last s = _
  simp only [execMbxReqPush, hr, any_fst_eq_false hf, hc, hq, Bool.true_eq_false, Bool.false_eq_true, or_self, if_false,
    Bool.not_false, decide_true, Bool.and_self, true_and, if_true]
  rfl

/-- A serving Barista finds a complete request in its order (R465). -/
theorem takeFabRequest_serving {c : Nat} {s : State} (h : s.mbx.barista = .serving) : takeFabRequest c s = pushOrder c s := by
  rw [takeFabRequest, if_neg (by rw [h]; decide), if_neg (by rw [h]; decide)]

/-- A pop takes the first response word, where no response waits for the room (R94, R465). -/
theorem exec_mbxRspPop_word {s : State} {k : Fin 4} {w : W64} {l : Bool} {q : List (W64 × Bool)}
    (hr : chanReach s (8 + k.val) = true) (hf : ∀ a ∈ (chanOf s (8 + k.val)).pops, a.1 ≠ s.clk.fc + 4)
    (hq : (chanOf s (8 + k.val)).rspQ = (w, l) :: q) (hw : (chanOf s (8 + k.val)).rspWait = none) :
    exec (.mbxRspPop k) s = .next (updChan (8 + k.val) (fun ch =>
      { ch with rspQ := q, pops := ((s.clk.fc + 4, w, true, l) :: ch.pops).take 5 }) s) := by
  have hgo : ¬(chanReach s (8 + k.val) = false ∨
      (chanOf s (8 + k.val)).pops.any (fun a => a.1 == s.clk.fc + 4) = true) := by simp [hr, any_fst_eq_false hf]
  refine (if_neg hgo).trans (congrArg _ (updChan_congr ?_))
  simp only [hq, fillMbx, hw]

/-! ## The obligation -/

/-- Settles O22: a write of a ring register changes the event state alone, since no record was lost; a push and a pop change
one channel, and a last word joins Barista's order. -/
theorem ringAndFabricMailboxRows : Obligations.RingAndFabricMailboxRows := by
  unfold Obligations.RingAndFabricMailboxRows
  refine ⟨fun s hl h0 => ⟨fun v hen h6 h16 hoff => ?_, fun v hle => ?_, fun v hlt => ?_, fun v => ?_⟩,
    fun s k hr => ⟨fun w hf hc hq => ⟨?_, fun hb => ?_⟩, fun w l q hf hq hw => exec_mbxRspPop_word hr hf hq hw⟩⟩
  · have hcfg := setRingCfg_enable hen h6 h16 hoff
    rw [exec_evtRingEnable_live hl, hostEvt_quiet (by rw [hcfg]; exact h0), hcfg]
  · have htail := setRingTail_of_le hle
    rw [exec_evtRingTailWrite_live hl, hostEvt_quiet (by rw [htail]; exact h0), htail]
  · have htail := setRingTail_of_lt hlt
    rw [exec_evtRingTailWrite_live hl, hostEvt_quiet (by rw [htail]; exact h0), htail]
  · rw [exec_evtAlertAckWrite_live hl, hostEvt_quiet h0]
    rfl
  · rw [exec_mbxReqPush_room w false hr hf hc hq]
    rfl
  · rw [exec_mbxReqPush_room w true hr hf hc hq, if_pos rfl, takeFabRequest_serving (s := updChan _ _ s) hb]
    exact ⟨_, rfl, rfl, congrArg Chan.reqQ (chanOf_updChan_same ..)⟩

end Sys2Proof.Machine

/-! Ports A and B of a memory block (R82, R157, R158, R169, R176, R179): an operation is its answer, which the port
presents 3 fc later, its block, and what the check of a word that it returned counts. -/

namespace Sys2Proof.Machine

/-! ## One operation of a port -/

/-- The response that a port presents from fc t on for an answer. -/
def OpAns.rsp (t : Nat) (a : OpAns) : PortRsp :=
  { from_ := t, data := a.data, err := a.err, valid := a.valid, accept := a.accept, level := a.level }

/-- The check of the word that an answer returns, if it returns one, finds no error. -/
def OpAns.errorFree (a : OpAns) : Prop := ∀ w ∈ a.ecc, w.1.ecc = .clean

theorem noteEcc_of_forall_clean {g port src : Nat} {e : Option (MWord × Nat)} (s : State) (h : ∀ w ∈ e, w.1.ecc = .clean) :
    noteEcc g port src e s = s := by
  match e with
  | none => rfl
  | some (w, a) => exact note_clean g port src w a s (h (w, a) rfl)

theorem noteEcc_bad {g port src a : Nat} {w : MWord} (s : State) (h : w.ecc = .bad) :
    noteEcc g port src (some (w, a)) s = noteUe g a port src s := by
  rw [noteEcc]
  simp only [h]

/-- The block on which an operation of this fc other than NOP acts: port A or B counts as active in the fc. -/
def portBlock (s : State) (g : Nat) : Block := { blockNow s g with abAt := some s.clk.fc }

section
variable {p : PortAB} {g : Nat} {s : State} (hclk : fabricClock s = true) (hav : unavailable s g = false)
  (hfree : (rspsOf p (blockNow s g)).any (fun r => r.from_ == s.clk.fc + 3) = false)
include hclk hav hfree

/-- A NOP counts as no activity of the port, and its response is all 0 (R158). -/
theorem doPort_nop : doPort p g true (fun _ b => undefinedOp b) s = updBlock g (fun _ => putRsp p
    { from_ := s.clk.fc + 3, data := 0, err := 0, valid := false, accept := false, level := 0 } (blockNow s g)) s :=
  doPort_do hclk hav hfree

variable {op : Nat → Block → OpAns} {a : OpAns} (ha : op s.clk.fc (portBlock s g) = a)
include ha

/-- An operation other than NOP in a free fc, by its answer on the block as it stands in this fc. -/
theorem doPort_of_answer : doPort p g false op s =
    noteEcc g (portABCode p) 0xFF a.ecc (updBlock g (fun _ => putRsp p (a.rsp (s.clk.fc + 3)) a.block) s) := by
  subst ha
  exact doPort_do hclk hav hfree

theorem doPort_of_errorFree (hc : a.errorFree) :
    doPort p g false op s = updBlock g (fun _ => putRsp p (a.rsp (s.clk.fc + 3)) a.block) s :=
  (doPort_of_answer hclk hav hfree ha).trans (noteEcc_of_forall_clean _ hc)

theorem blockOf_doPort_of_errorFree (hc : a.errorFree) :
    blockOf (doPort p g false op s) g = putRsp p (a.rsp (s.clk.fc + 3)) a.block := by
  rw [doPort_of_errorFree hclk hav hfree ha hc, blockOf_updBlock_same]

/-- An uncorrectable word that an operation returns is counted with its address (R169). -/
theorem blockOf_doPort_of_bad {w : MWord} {x : Nat} (he : a.ecc = some (w, x)) (hw : w.ecc = .bad) :
    blockOf (doPort p g false op s) g = { putRsp p (a.rsp (s.clk.fc + 3)) a.block with
      ue := satAdd a.block.ue 1, ueWord := BitVec.ofNat 13 x, ueValid := true } := by
  obtain ⟨-, -, -, -, hue⟩ := put_keep p (a.rsp (s.clk.fc + 3)) a.block
  rw [doPort_of_answer hclk hav hfree ha, he, noteEcc_bad _ hw, noteUe_block, blockOf_updBlock_same, hue]

end

/-! ## What each operation answers -/

/-- A read that meets an uncorrectable word returns the word with ERR 0b10 (R168, R169). -/
theorem readOp_multi {t a : Nat} {b : Block} (v : W64) (h : isRam b a = true) :
    ∃ c : Block, c.ue = b.ue ∧ readOp a (.multi v) t b = {
      block := c, data := v, err := 2, valid := true, ecc := some ({ data := v, ecc := .bad }, a) } := by
  rw [readOp, if_pos h]
  exact ⟨(struckRead t (.multi v) a b).2, rfl, rfl⟩

theorem spoilAtomic_eq (a : Nat) (b : Block) : ∃ q, spoilAtomic a b = { b with nq := q } := by
  unfold spoilAtomic
  split
  · split
    · exact ⟨_, rfl⟩
    · exact ⟨_, rfl⟩
  · exact ⟨_, rfl⟩

/-- A write joins the writes presented before it, in a block where no other write of its fc stands (R90, R157). -/
theorem writeOp_ram {p : PortAB} {a t : Nat} {b : Block} (d : W64) (h : isRam b a = true) (hw : ∀ w ∈ b.writes, w.at_ < t) :
    ∃ c : Block, writeOp p a d t b = { block := c, accept := true } ∧ c.words = b.words ∧
      c.writes = b.writes ++ [{ at_ := t, port := port3Of p, addr := a, word := { data := d } }] := by
  rw [writeOp, if_pos h, insert_last _ _ hw]
  obtain ⟨q, hq⟩ := spoilAtomic_eq a
    { b with writes := b.writes ++ [{ at_ := t, port := port3Of p, addr := a, word := { data := d } }] }
  exact ⟨_, rfl, by rw [hq], by rw [hq]⟩

/-- An enqueue that fits joins the queue, to be visible 4 fc later (R176). -/
theorem enqOp_fits {t : Nat} {b : Block} (d : W64) (arg : BitVec 3) (hm : b.mode = .fifo) (h : b.occStart + b.enqFc < b.cap) :
    ∃ c : Block, enqOp d arg t b = { block := c, accept := true } ∧
      c.entries = b.entries ++ [{ word := { data := d }, level := 0, due := t + 4, vis := false }] := by
  have hfits : enqFits b = true := by rw [enqFits, hm, decide_eq_true h]; rfl
  rw [enqOp, hm]
  exact ⟨_, if_pos hfits, rfl⟩

/-- An enqueue at a full queue is not accepted (R176). -/
theorem enqOp_full {t : Nat} {b : Block} (d : W64) (arg : BitVec 3) (hm : b.mode = .fifo) (h : b.cap ≤ b.occStart + b.enqFc) :
    enqOp d arg t b = undefinedOp b := by
  have hfull : enqFits b = false := by rw [enqFits, decide_eq_false (Nat.not_lt.2 h), Bool.false_and]
  rw [enqOp, hm]
  exact if_neg (ne_true_of_eq_false hfull)

theorem errCode_of_clean {w : MWord} (h : w.ecc = .clean) : errCode w = 0 := by rw [errCode, h]

/-- A dequeue, and a peek, of a FIFO queue with a visible head returns the head, which only the dequeue removes (R170,
R176). -/
theorem deqOp_head {t : Nat} {b : Block} {e : QEnt} {es : List QEnt} (remove : Bool) (n : Nat) (hm : b.mode = .fifo)
    (hl : b.entries = e :: es) (hv : e.vis = true) (hc : e.word.ecc = .clean) :
    ∃ x, deqOp remove .none n t b = {
      block := { b with entries := if remove then es else e :: es }, data := e.word.data, valid := true,
      ecc := some (e.word, x) } := by
  have hdeq : deqEntries b = e :: es := by rw [deqEntries, hm, if_neg (by decide), hl]
  have hhead : headIdx b.mode (e :: es) = some 0 := by rw [hm]; exact if_pos hv
  have hset : ∀ l, setDeqEntries l b = { b with entries := l } := fun l => by rw [setDeqEntries, hm, if_neg (by decide)]
  have herr : errCode (strike .none e.word) = 0 := errCode_of_clean hc
  refine ⟨entryAddr n b e, ?_⟩
  rw [deqOp, hdeq]
  simp only [hhead, hset, List.getD_cons_zero, herr]
  rw [hm]
  cases remove <;> rfl

/-- Credits are returned at a credit queue (R179). -/
theorem returnOp_credit {t : Nat} {b : Block} (arg : BitVec 3) (hm : b.mode = .credit) :
    returnOp arg t b = { block := { b with credPend := b.credPend + arg.toNat + 1 }, accept := true } := if_pos hm

/-! ## The words that a read sees, and entries that are due -/

/-- What a read sees follows from the words and the writes of a block; a write is seen 2 fc after it, at its address and at
no other (R82, R157, R163). -/
theorem seenWord_of_append {b c : Block} {x : PWrite} (hwords : c.words = b.words) (hwrites : c.writes = b.writes ++ [x])
    {t : Nat} (ht : x.at_ + 2 ≤ t) (a : Nat) :
    seenWord t c a = if a = x.addr then x.word else seenWord t b a := by
  rw [seenWord, hwords, hwrites, List.filter_append]
  split
  next h => rw [List.filter_cons_of_pos (by simp [ht, h])]; simp
  next h => rw [List.filter_cons_of_neg (by simp [Ne.symm h])]; simp [seenWord]

/-- The first entry becomes visible when it is due (R82). -/
theorem showDue_head {t : Nat} {e : QEnt} {es : List QEnt} (h : e.due ≤ t) :
    (showDue t (e :: es)).head? = some { e with vis := true } := by
  rw [showDue, if_pos h]
  rfl

/-! ## A dequeue and a peek at a port -/

/-- DEQ and PEEK take the number of a free value, and present the head with no error (R170, R176). -/
theorem doPort_deqOp_head {s : State} {p : PortAB} {g : Nat} {e : QEnt} {es : List QEnt} (hclk : fabricClock s = true)
    (hav : unavailable s g = false) (hfree : (rspsOf p (blockNow s g)).any (fun r => r.from_ == s.clk.fc + 3) = false)
    (hm : (blockNow s g).mode = .fifo) (hl : (blockNow s g).entries = e :: es) (hv : e.vis = true)
    (hc : e.word.ecc = .clean) (remove : Bool) :
    (blockOf (doPort p g false (deqOp remove .none s.free) (useFree 1 s)) g).entries = (if remove then es else e :: es) ∧
      (rspsOf p (blockOf (doPort p g false (deqOp remove .none s.free) (useFree 1 s)) g)).head? =
        some { from_ := s.clk.fc + 3, data := e.word.data, err := 0, valid := true, accept := false, level := 0 } := by
  obtain ⟨x, hdeq⟩ := deqOp_head (b := portBlock s g) remove s.free hm hl hv hc
  rw [blockOf_doPort_of_errorFree (s := useFree 1 s) hclk hav hfree hdeq (by rintro _ ⟨⟩; exact hc)]
  exact ⟨(put_keep ..).1, rsps_put ..⟩

/-! ## The obligation -/

/-- Settles O46: each clause is the answer of one operation on the block as it stands in this fc. -/
theorem portRows : Obligations.PortRows := by
  unfold Obligations.PortRows
  refine ⟨?nop, ?read, ?readMulti, ?write, ?enq, ?enqFull, ?deqPeek, ?credits, ?visible⟩
  case nop =>
    intro s p g hclk hav hfree
    exact congrArg _ (doPort_nop hclk hav hfree)
  case read =>
    intro s p g a hclk hav hfree hram hclean
    exact congrArg _ (doPort_of_errorFree hclk hav hfree (read_clean (b := portBlock s g.val) hram hclean)
      (by rintro _ ⟨⟩; exact hclean))
  case readMulti =>
    intro s p g a v hclk hav hfree hram
    obtain ⟨c, hue, hread⟩ := readOp_multi (b := portBlock s g.val) v hram
    refine ⟨_, rfl, ?_⟩
    rw [blockOf_doPort_of_bad hclk hav hfree hread rfl rfl]
    refine ⟨rfl, BitVec.ofNat_toNat .., congrArg (satAdd · 1) hue, ?_⟩
    cases p <;> rfl
  case write =>
    intro s p g a d hclk hav hfree hram hw
    obtain ⟨c, hwrite, hwords, hwrites⟩ := writeOp_ram (b := portBlock s g.val) d hram hw
    have hblock := blockOf_doPort_of_errorFree hclk hav hfree hwrite (by rintro _ ⟨⟩)
    obtain ⟨-, hputWrites, hputWords, -, -⟩ := put_keep p (OpAns.rsp (s.clk.fc + 3) { block := c, accept := true }) c
    have hseen := seenWord_of_append (hputWords.trans hwords) (hputWrites.trans hwrites) (Nat.le_refl (s.clk.fc + 2))
    refine ⟨_, rfl, ?_, fun b hb => ?_, ?_⟩ <;> rw [hblock]
    · exact (hseen a.toNat).trans (if_pos rfl)
    · exact (hseen b).trans (if_neg hb)
    · exact rsps_put ..
  case enq =>
    intro s p g d arg hclk hav hfree hm hroom
    obtain ⟨c, henq, hentries⟩ := enqOp_fits (b := portBlock s g.val) d arg hm hroom
    have hblock := blockOf_doPort_of_errorFree hclk hav hfree henq (by rintro _ ⟨⟩)
    refine ⟨_, rfl, ?_, ?_⟩ <;> rw [hblock]
    · exact (put_keep ..).1.trans hentries
    · exact rsps_put ..
  case enqFull =>
    intro s p g d arg hclk hav hfree hm hfull
    have hblock := blockOf_doPort_of_errorFree hclk hav hfree (enqOp_full (b := portBlock s g.val) d arg hm hfull) (by rintro _ ⟨⟩)
    refine ⟨_, rfl, ?_, ?_⟩ <;> rw [hblock]
    · exact (put_keep ..).1
    · exact rsps_put ..
  case deqPeek =>
    intro s p g e es hclk hav hfree hm hl hv hclean
    have hans := doPort_deqOp_head hclk hav hfree hm hl hv hclean
    exact ⟨⟨_, rfl, hans true⟩, ⟨_, rfl, hans false⟩⟩
  case credits =>
    intro s p g arg hclk hav hfree hm
    have hblock := blockOf_doPort_of_errorFree hclk hav hfree (returnOp_credit (b := portBlock s g.val) arg hm) (by rintro _ ⟨⟩)
    obtain ⟨-, -, -, hcred, -⟩ := put_keep p _ _
    exact ⟨_, rfl, (congrArg Block.credPend hblock).trans hcred⟩
  case visible =>
    intro s g e es hl hdue
    refine ⟨_, rfl, ?_⟩
    rw [blockOf_updBlock_same]
    dsimp only
    rw [hl, showDue_head hdue]

end Sys2Proof.Machine

/-! Requests of the on-chip network at their initiators (R370, R372, R380 to R382), the faces of a NOC_PORT (R94, R97, R99,
R378) and the routers (R383, R384, R389). -/

namespace Sys2Proof.Machine

/-! ## Requests of an initiator other than a NOC_PORT -/

theorem isReq_iff {src : BitVec 8} {tag : BitVec 12} {q : NocReq} : isReq src tag q = true ↔ q.src = src ∧ q.tag = tag := by
  simp [isReq]

/-- An initiator outside the NOC_PORTs issues under a tag that is free, unless the NoC is in a base warm reset (R372,
R382). -/
theorem exec_nocRequestIssue_free {s : State} {q : NocReq} (h64 : 64 ≤ q.src.toNat) (h74 : q.src.toNat < 74)
    (hr : s.pwr.baseReset = false) (hb : tagBusy s q.src q.tag.toNat = false) :
    exec (.nocRequestIssue q) s = .next (issueReq q s) := by
  show execNocRequestIssue q s = _
  rw [execNocRequestIssue, if_neg (by simp [hr, h74]), if_neg (Nat.not_lt.2 h64), if_neg (ne_true_of_eq_false hb)]

/-- An address that names nothing is refused with ST_BAD_ARG by the initiator itself (R370, R372). -/
theorem issueReq_nowhere {s : State} {q : NocReq} (hd : destOf s q.addr.toNat = .nowhere) (he : s.start.engineFailed = false)
    (hj : q.src ≠ 71) : issueReq q s = completeReq q .badArg [] s := by
  have hrefused : initiatorRefusal s q = some .badArg := by
    rw [initiatorRefusal, if_neg (fun h => hj h.1), if_neg (by simp [he]), if_pos (.inl hd)]
  rw [issueReq, hrefused]

theorem dropRsp_one {s : State} {r : NocRsp} (h : s.noc.rsps = [r]) :
    dropRsp r s = { s with noc := { s.noc with rsps := [] } } := by
  rw [dropRsp, h, List.erase_cons_head]

theorem filter_out_one {s : State} {q : NocReq} (h : s.noc.out = [q]) :
    s.noc.out.filter (fun x => !isReq q.src q.tag x) = [] := by
  rw [h, List.filter_cons_of_neg (by simp [isReq_self]), List.filter_nil]

/-- A response of a tag that timed out is discarded and counted, and frees the tag (R382). -/
theorem exec_nocResponseDelivered_late {s : State} {r : NocRsp} (hr : s.noc.rsps = [r])
    (hl : s.noc.lateTags.contains (r.src, r.tag) = true) :
    exec (.nocResponseDelivered r.src r.tag) s = .next { s with noc := { s.noc with
      rsps := [], lateTags := s.noc.lateTags.erase (r.src, r.tag),
      late := Tab.upd 0 s.noc.late r.src.toNat (fun c => satAdd c 1) } } := by
  have hfind : s.noc.rsps.find? (fun x => x.src == r.src && x.tag == r.tag) = some r := by simp [hr]
  show execNocResponseDelivered r.src r.tag s = _
  rw [execNocResponseDelivered, hfind]
  dsimp only
  rw [if_pos hl, dropRsp_one hr]

/-- A response on time completes the one request of its source and tag (R380). -/
theorem exec_nocResponseDelivered_onTime {s : State} {r : NocRsp} {q : NocReq} (hr : s.noc.rsps = [r])
    (hl : s.noc.lateTags.contains (r.src, r.tag) = false) (ho : s.noc.out = [q]) (hq : isReq r.src r.tag q = true)
    (hp : rspLost s r.src.toNat q.addr.toNat = false) (h64 : 64 ≤ r.src.toNat) (h70 : r.src ≠ 70) (hv : s.lnk.served = []) :
    exec (.nocResponseDelivered r.src r.tag) s =
      .next { s with noc := { s.noc with rsps := [], out := [], done := s.noc.done ++ [r] } } := by
  have hfind : s.noc.rsps.find? (fun x => x.src == r.src && x.tag == r.tag) = some r := by simp [hr]
  have hreq : s.noc.out.find? (isReq r.src r.tag) = some q := by rw [ho, List.find?_cons_of_pos hq]
  obtain ⟨hsrc, htag⟩ := isReq_iff.1 hq
  show execNocResponseDelivered r.src r.tag s = _
  rw [execNocResponseDelivered, hfind]
  dsimp only
  rw [if_neg (ne_true_of_eq_false hl), hreq]
  dsimp only
  rw [if_neg (ne_true_of_eq_false hp), if_neg (Nat.not_lt.2 h64), dropRsp_one hr,
    complete_other q _ _ { s with noc := { s.noc with rsps := [] } } (hsrc ▸ h64) (hsrc ▸ h70) hv]
  dsimp only
  rw [filter_out_one ho, hsrc, htag]

/-- A timeout completes the request with ST_TIMEOUT, and its tag waits for the late response (R381, R382). -/
theorem exec_nocRequestTimeout_one {s : State} {q : NocReq} (ho : s.noc.out = [q]) (h64 : 64 ≤ q.src.toNat) (h70 : q.src ≠ 70)
    (hv : s.lnk.served = []) :
    exec (.nocRequestTimeout q.src q.tag) s = .next { s with noc := { s.noc with
      out := [], done := s.noc.done ++ [{ src := q.src, tag := q.tag, status := .timeout, data := [] }],
      lateTags := s.noc.lateTags ++ [(q.src, q.tag)],
      timeouts := Tab.upd 0 s.noc.timeouts q.src.toNat (fun c => satAdd c 1) } } := by
  have hreq : s.noc.out.find? (isReq q.src q.tag) = some q := by rw [ho, List.find?_cons_of_pos (isReq_self q)]
  show execNocRequestTimeout q.src q.tag s = _
  rw [execNocRequestTimeout, hreq]
  dsimp only
  rw [if_neg (Nat.not_lt.2 h64), complete_other q _ _ _ h64 h70 hv]
  dsimp only
  rw [filter_out_one ho]

/-- The freed tag is no longer late, and no request left along the chain under it (R382). -/
theorem exec_timedOutTagFree_one {s : State} {src : BitVec 8} {tag : BitVec 12} (h64 : 64 ≤ src.toNat)
    (hl : s.noc.lateTags = [(src, tag)]) (hr : s.lnk.remote = []) :
    exec (.timedOutTagFree src tag) s = .next { s with noc := { s.noc with lateTags := [] } } := by
  have hlate : s.noc.lateTags.filter (fun x => !(x == (src, tag))) = [] := by simp [hl]
  have hremote : (if s.noc.lateTags.contains (src, tag) then
      s.lnk.remote.filter (fun x => !(x.src == src && x.tag == tag)) else s.lnk.remote) = s.lnk.remote := by simp [hr]
  show execTimedOutTagFree src tag s = _
  rw [execTimedOutTagFree]
  dsimp only
  rw [if_neg (Nat.not_lt.2 h64), hlate, hremote]

/-! ## The fabric face of a NOC_PORT -/

theorem updNport_congr {n : Nat} {f g : NPort → NPort} {s : State} (h : f (nportOf s n) = g (nportOf s n)) :
    updNport n f s = updNport n g s := by
  rw [nportOf] at h
  rw [updNport, updNport, Tab.upd, Tab.upd, h]

/-- A word with room in the request queue is accepted (R378). -/
theorem exec_nocPortReqPush_room {s : State} {n : Fin 64} (w : W64) (hl : faceLive s n.val = true)
    (ha : (nportOf s n.val).accepts = []) (hq : (nportCounts (nportOf s n.val)).1 < 64) :
    exec (.nocPortReqPush n w false) s = .next (updNport n.val (fun p =>
      { p with words := p.words ++ [w], accepts := [(s.clk.fc + 4, true)] }) s) := by
  show execNocPortReqPush n w false s = _
  rw [execNocPortReqPush]
  dsimp only
  rw [if_neg (by simp [hl, ha]), if_neg (Nat.not_le.2 hq), if_neg Bool.false_ne_true]
  refine congrArg _ (updNport_congr ?_)
  simp [ha]

/-- A word at a full request queue is refused, with the words of its request (R378, R379). -/
theorem exec_nocPortReqPush_full {s : State} {n : Fin 64} (w : W64) (last : Bool) (hl : faceLive s n.val = true)
    (ha : (nportOf s n.val).accepts = []) (hq : 64 ≤ (nportCounts (nportOf s n.val)).1) :
    exec (.nocPortReqPush n w last) s = .next (updNport n.val (fun p =>
      { p with words := [], accepts := [(s.clk.fc + 4, false)] }) s) := by
  show execNocPortReqPush n w last s = _
  rw [execNocPortReqPush]
  dsimp only
  rw [if_neg (by simp [hl, ha]), if_pos hq]
  refine congrArg _ (updNport_congr ?_)
  simp [ha]

theorem exec_nocPortRspPop_empty {s : State} {n : Fin 64} (hl : faceLive s n.val = true) (hp : (nportOf s n.val).pops = [])
    (hq : (nportOf s n.val).rspQ = []) :
    exec (.nocPortRspPop n) s =
      .next (updNport n.val (fun p => { p with pops := [(s.clk.fc + 4, 0, false, false)] }) s) := by
  show execNocPortRspPop n s = _
  rw [execNocPortRspPop]
  rw [if_neg (by simp [hl, hp]), hq]
  refine congrArg _ (updNport_congr ?_)
  simp [hp]

/-- A pop takes the first response word, and nothing else of the port moves while no request waits in it (R94, R378). -/
theorem exec_nocPortRspPop_word {s : State} {n : Fin 64} {w : W64} {l : Bool} {rest : List (W64 × Bool)}
    (hl : faceLive s n.val = true) (hp : (nportOf s n.val).pops = []) (hq : (nportOf s n.val).rspQ = (w, l) :: rest)
    (ho : (nportOf s n.val).ord = []) (hw : (nportOf s n.val).waiting = []) :
    ∃ t, exec (.nocPortRspPop n) s = .next t ∧
      nportOf t n.val = { nportOf s n.val with rspQ := rest, pops := [(s.clk.fc + 4, w, true, l)] } := by
  show ∃ t, execNocPortRspPop n s = .next t ∧ _
  rw [execNocPortRspPop]
  dsimp only
  rw [if_neg (by simp [hl, hp]), hq]
  refine ⟨_, rfl, ?_⟩
  rw [settle_quiet _ _ (by rw [nportOf_updNport_same]; exact ho) (by rw [nportOf_updNport_same]; exact hw),
    nportOf_updNport_same, hp]
  rfl

/-! ## The SCHED face of a NOC_PORT -/

/-- A word launched on a channel that runs is recorded with its chain time, cut to the channel's width (R97). -/
theorem exec_schedWordSend_runs {s : State} {n : Fin 64} {c : ChanUse} (w : W64) (v : Bool) (hc : chanAt s n.val false = some c)
    (hclk : fabricClock s = true) (hs : chanStopped s c = false) (hf : (Tab.get {} s.lnk.faces n.val).sent = []) :
    ∃ t, exec (.schedWordSend n w v) s = .next t ∧ (Tab.get {} t.lnk.faces n.val).sent =
      [(s.clk.time, v, BitVec.ofNat 64 (w.toNat % 2 ^ c.desc.width.toNat))] := by
  have hfirst : (Tab.get {} s.lnk.faces n.val).sent.any (fun x => x.1 == s.clk.time) = false := by rw [hf]; rfl
  show ∃ t, execSchedWordSend n w v s = .next t ∧ _
  rw [execSchedWordSend, hc]
  dsimp only
  rw [if_neg (by rw [hclk, hs, hfirst]; decide)]
  refine ⟨_, rfl, ?_⟩
  rw [faces_same]
  dsimp only
  rw [hf, lastN, List.nil_append, List.length_singleton, Nat.sub_eq_zero_of_le (by decide), List.drop_zero]

/-- The word due in this fc is presented on a channel that is neither stopped nor poisoned (R97, R99). -/
theorem exec_schedWordDeliver_due {s : State} {n : Fin 64} {c : ChanUse} {x : W64 × Bool × W64}
    (hc : chanAt s n.val true = some c) (hclk : fabricClock s = true) (hs : chanStopped s c = false)
    (hcut : (portOf s c.port).rxCut = false)
    (hdue : (Tab.get {} s.lnk.faces n.val).padding.find? (fun y => y.1.toNat == s.clk.time.toNat) = some x) :
    ∃ t, exec (.schedWordDeliver n) s = .next t ∧ Tab.get {} t.lnk.faces n.val = { Tab.get {} s.lnk.faces n.val with
      padding := (Tab.get {} s.lnk.faces n.val).padding.filter (fun y => decide (s.clk.time.toNat < y.1.toNat))
      rvalid := x.2.1
      rdata := x.2.2 } := by
  show ∃ t, execSchedWordDeliver n s = .next t ∧ _
  rw [execSchedWordDeliver, hc]
  dsimp only
  rw [if_neg (by rw [hclk]; decide), hdue, hs, hcut]
  exact ⟨_, rfl, faces_same ..⟩

/-- With no word due VALID is 0 and the data 0 (R99). -/
theorem exec_schedWordDeliver_none {s : State} {n : Fin 64} {c : ChanUse} (hc : chanAt s n.val true = some c)
    (hclk : fabricClock s = true)
    (hdue : (Tab.get {} s.lnk.faces n.val).padding.find? (fun y => y.1.toNat == s.clk.time.toNat) = none) :
    ∃ t, exec (.schedWordDeliver n) s = .next t ∧ (Tab.get {} t.lnk.faces n.val).rvalid = false ∧
      (Tab.get {} t.lnk.faces n.val).rdata = 0 := by
  show ∃ t, execSchedWordDeliver n s = .next t ∧ _
  rw [execSchedWordDeliver, hc]
  dsimp only
  rw [if_neg (by rw [hclk]; decide), hdue]
  refine ⟨_, rfl, ?_⟩
  rw [faces_same]
  exact ⟨rfl, rfl⟩

/-! ## Routers -/

/-- The new weights apply where the router is empty, and the request for them ends either way (R383, R384). -/
theorem exec_routerReconfigDone_pending {s : State} {n : Fin 64} {o : Origin} {w : Weights} (empty : Bool)
    (h : (routerOf s n.val).reconfig = some (o, w)) :
    ∃ t, exec (.routerReconfigDone n empty) s = .next t ∧
      routerOf t n.val = { routerOf s n.val with w := if empty then w else (routerOf s n.val).w, reconfig := none } := by
  show ∃ t, execRouterReconfigDone n empty s = .next t ∧ _
  rw [execRouterReconfigDone, h]
  refine ⟨_, rfl, ?_⟩
  rw [routerOf_congr ((finish_frame ..).same .noc rfl), routerOf_updRouter_same]

/-- A router's failure is recorded and fatal (R389). -/
theorem exec_nocRouterFailed_first {s : State} {n : Fin 64} (h : (routerOf s n.val).failed = false) :
    ∃ t, exec (.nocRouterFailed n) s = .next t ∧ (routerOf t n.val).failed = true ∧ t.ext.error = true := by
  refine ⟨_, if_neg (ne_true_of_eq_false h), ?_, ?_⟩
  · rw [routerOf_congr ((raise_frame ..).same .noc rfl)]
    exact congrArg Router.failed (routerOf_updRouter_same ..)
  · rw [(raise_frame ..).same .ext rfl]
    rfl

/-! ## The obligation -/

/-- Settles O44: each row is one operation at the request's initiator, at the face or at the router. -/
theorem nocRows : Obligations.NocRows := by
  unfold Obligations.NocRows
  refine ⟨⟨?issue, ?nowhere, ?onTime, ?late, ?timeout, ?tagFree⟩,
    ?room, ?full, ?popEmpty, ?popWord, ?send, ?deliver, ?deliverNone, ?reconfig, ?failed⟩
  case issue =>
    intro s q h64 h74 h71 hr hb ha hpage hd he hp
    rw [exec_nocRequestIssue_free h64 h74 hr hb, issue_dram q s h71 ha hpage hd he hp]
  case nowhere =>
    intro s q h64 h74 hr hb he hd h70 h71 hv
    rw [exec_nocRequestIssue_free h64 h74 hr hb, issueReq_nowhere hd he h71, complete_other q _ _ s h64 h70 hv]
    exact ⟨_, rfl, rfl⟩
  case onTime => exact fun s r q hr hl ho hq hp h64 h70 hv => exec_nocResponseDelivered_onTime hr hl ho hq hp h64 h70 hv
  case late => exact fun s r hr hl => exec_nocResponseDelivered_late hr hl
  case timeout => exact fun s q ho h64 h70 hv => exec_nocRequestTimeout_one ho h64 h70 hv
  case tagFree => exact fun s src tag h64 hl hr => exec_timedOutTagFree_one h64 hl hr
  case room => exact fun s n w hl ha hq => exec_nocPortReqPush_room w hl ha hq
  case full => exact fun s n w last hl ha hq => exec_nocPortReqPush_full w last hl ha hq
  case popEmpty => exact fun s n hl hp hq => exec_nocPortRspPop_empty hl hp hq
  case popWord => exact fun s n w l rest hl hp hq ho hw => exec_nocPortRspPop_word hl hp hq ho hw
  case send => exact fun s n w v c hc hclk hs hf => exec_schedWordSend_runs w v hc hclk hs hf
  case deliver =>
    intro s n c d v hc hclk hs hcut hpad
    have hdue : (Tab.get {} s.lnk.faces n.val).padding.find? (fun y => y.1.toNat == s.clk.time.toNat) =
        some (s.clk.time, v, d) := by
      rw [hpad]
      exact List.find?_cons_of_pos (beq_self_eq_true s.clk.time.toNat)
    obtain ⟨t, hexec, hface⟩ := exec_schedWordDeliver_due hc hclk hs hcut hdue
    rw [hpad, List.filter_cons_of_neg (by simp), List.filter_nil] at hface
    exact ⟨t, hexec, congrArg Face.rvalid hface, congrArg Face.rdata hface, congrArg Face.padding hface⟩
  case deliverNone => exact fun s n c hc hclk hpad => exec_schedWordDeliver_none hc hclk (by rw [hpad, List.find?_nil])
  case reconfig =>
    intro s n empty o w h
    obtain ⟨t, hexec, hrouter⟩ := exec_routerReconfigDone_pending empty h
    exact ⟨t, hexec, congrArg Router.reconfig hrouter, congrArg Router.w hrouter⟩
  case failed => exact fun s n h => exec_nocRouterFailed_first h

end Sys2Proof.Machine

/-! Self-test at a start and in service (R524 to R531, R545), the vertical alignment (R86 to R88), the TSVs and their spares
(R17, R536 to R541) and the deferred repair record (R544). -/

namespace Sys2Proof.Machine

/-! ## The last round of start-up BIST -/

/-- A region without a failing test leaves its round BLANK, with RESULT 1 (R524, R528). -/
theorem endRegionTest_passed {s : State} {r : Nat} {ex : BitVec 32} (hd : domOn s (regionDom r) = true)
    (he : ex.getLsbD r = false) (hm : s.start.map = []) :
    endRegionTest [] ex r s = setTest r 1 (updRegion r (fun g => { g with st := .blank, bistBusy := false }) s) := by
  have hkept : ¬ s.start.map.any (fun e => rmKind e == 8 && rmIndex e == r) = true := by simp [hm]
  rw [endRegionTest]
  dsimp only
  rw [if_neg (by rw [hd]; decide), if_neg (ne_true_of_eq_false he), List.filter_nil, if_pos rfl, List.foldl_nil,
    testedRegion, if_neg hkept]

theorem autoSkip_of_map_nil {s : State} (layer : Bool) (hm : s.start.map = []) : autoSkip layer s = s := by
  rw [autoSkip, hm]
  rfl

/-- The start-up record after step 8 of Table BRG-1. -/
def Start.bistEnded (x : Start) : Start := { x with toTest := [], again := [], bistDone := true, step := 9 }

/-- With an empty map no layer chooses a skip position, and start-up BIST just ends (R534). -/
theorem finishBist_of_map_nil {s : State} (hf : s.start.bistFailed = false) (hm : s.start.map = []) :
    finishBist s = updStart Start.bistEnded s := by
  rw [finishBist, if_neg (ne_true_of_eq_false hf)]
  have hskip : ∀ layer, autoSkip layer (updStart Start.bistEnded s) = updStart Start.bistEnded s :=
    fun layer => autoSkip_of_map_nil layer hm
  exact (congrArg (autoSkip true) (hskip false)).trans (hskip true)

/-- With no region left to test, and nothing that holds a round, start-up BIST ends (R524, R526). -/
theorem startRound_last {s : State} (hd : s.start.bistDone = false) (hs : s.start.step = 8) (hh : s.start.held = false)
    (hr : s.start.round = []) (hclk : fabricClock s = true) (hror : anyRor s = false) (ht : s.thm.throttle = false)
    (hto : s.start.toTest = []) (ha : s.start.again = []) : startRound s = finishBist s := by
  rw [startRound, if_neg (by simp [hd, hs, hh, hr, hclk, hror, ht])]
  dsimp only
  rw [hto, ha, ite_self, if_pos (.inl rfl)]

/-- The state after a round of one region that passes, before the next round. -/
def roundPassed (r : Nat) (s : State) : State :=
  updStart (fun x => { x with round := [] })
    (setTest r 1 (updRegion r (fun g => { g with st := .blank, bistBusy := false }) s))

/-- The last round of start-up BIST, of one region that passes (R524 to R526). -/
theorem exec_bistRoundDone_last {s : State} {r : Nat} {ex : BitVec 32} (hr : s.start.round = [r]) (hclk : fabricClock s = true)
    (hd : domOn s (regionDom r) = true) (he : ex.getLsbD r = false) (hm : s.start.map = []) (hto : s.start.toTest = [])
    (ha : s.start.again = []) (hf : s.start.bistFailed = false) (hb : s.start.bistDone = false) (hs : s.start.step = 8)
    (hh : s.start.held = false) (hror : anyRor s = false) (ht : s.thm.throttle = false) :
    exec (.bistRoundDone [] ex) s = .next (updStart Start.bistEnded (roundPassed r s)) := by
  have hlast : startRound (roundPassed r s) = updStart Start.bistEnded (roundPassed r s) :=
    (startRound_last (s := roundPassed r s) hb hs hh rfl hclk hror ht hto ha).trans
      (finishBist_of_map_nil (s := roundPassed r s) hf hm)
  show execBistRoundDone [] ex s = _
  rw [execBistRoundDone, if_neg (by simp [hr, hclk]), hr]
  dsimp only
  rw [List.filter_nil, List.foldl_nil, forEach_cons, forEach_nil, endRegionTest_passed hd he hm]
  exact congrArg _ hlast

/-! ## The vertical alignment -/

theorem exec_valignStart_begins {s : State} (hclk : fabricClock s = true) (hb : s.start.bistDone = true)
    (hm : s.lnk.member = false) (ha : s.align.busy = true) (hr : s.align.running = false) :
    exec .valignStart s = .next { s with
      align := { s.align with running := true }, fab := { s.fab with vx := [], vm1 := [], vm2 := [] },
      start := { s.start with tsvUsed := [] } } :=
  if_neg (by simp [hclk, hb, hm, ha, hr])

/-- The state in which the crossings of an alignment have been taken, its record begun anew (R86). -/
def crossingsTaken (cs : List CrossObs) (s : State) : State :=
  cs.foldl (fun a c => takeCrossing c a) { s with align := { s.align with record := [] } }

/-- The alignment ends with its two phases and what its crossings left (R86). -/
theorem exec_valignDone_ends {s : State} {p1 p2 : BitVec 6} (cs : List CrossObs) (hr : s.align.running = true)
    (hclk : fabricClock s = true) (h1 : phaseOk p1 = true) (h2 : phaseOk p2 = true) :
    ∃ t, exec (.valignDone cs p1 p2) s = .next t ∧ t.clk.fabricCmd = none ∧ t.start = (crossingsTaken cs s).start ∧
      t.align = { (crossingsTaken cs s).align with
        busy := false, running := false, phi := p1, phi2 := p2, stepAt := none, stepAt2 := none } := by
  refine ⟨_, if_neg (by simp [hr, hclk, h1, h2]), ?_, ?_, ?_⟩
  · rw [(finishOpt_frame ..).same .clk rfl]
  · rw [finishOpt_start]
    rfl
  · rw [(finishOpt_frame ..).same .align rfl]
    rfl

/-- A crossing that needs the free spare of its group takes it (R16, R17). -/
theorem takeCrossing_spare {c : CrossObs} {s : State} (hl : c.latency = statedLatency c) (hs : c.spared = true)
    (hb : (crossGroup c).bundle ≠ .l1l2) (hu : s.start.tsvUsed.contains (crossGroup c) = false) :
    takeCrossing c s = useSpare (crossGroup c) c.index.toNat s := by
  rw [takeCrossing]
  dsimp only
  rw [if_neg (not_not_intro hl), if_pos hs, if_neg (by rw [hu]; simpa using hb)]

/-- The regions that cross an interface: all of them at L1, those of the upper layer at L2 (R88). -/
theorem mem_lostRegions {upper : Bool} {r : Nat} (hr : r < 32) (hu : upper = true → 16 ≤ r) :
    r ∈ if upper then (List.range 16).map (fun i => 16 + i) else List.range 32 := by
  cases upper with
  | false => exact List.mem_range.2 hr
  | true => exact (mem_count 16 16 r).2 ⟨hu rfl, hr⟩

/-- A phase outside 1/4 fc to 3/4 fc is recorded, and the running regions that it serves are HELD (R88). -/
theorem exec_valignLost_holds {s : State} {ph : BitVec 8} (upper : Bool) (hb : s.align.busy = false)
    (hp : ph.toNat < 8 ∨ 24 < ph.toNat) :
    ∃ t, exec (.valignLost upper ph) s = .next t ∧ (∀ r, r < 32 → (upper = true → 16 ≤ r) → regionIs s r .running = true →
      (regionOf t r).st = .held) ∧ (if upper then t.align.phi2 else t.align.phi) = ph.setWidth 6 := by
  have hgo : ¬(s.align.busy = true ∨ (8 ≤ ph.toNat ∧ ph.toNat ≤ 24)) := by rw [hb]; simp; omega
  refine ⟨_, if_neg hgo, fun r hr hu hrun => ?_, ?_⟩
  · rw [regionOf_congr ((raise_frame ..).same .ctx rfl)]
    exact holdAll_st _ s r hrun (mem_lostRegions hr hu)
  · rw [(raise_frame ..).same .align rfl]
    cases upper <;> rfl

/-! ## TSV groups in service -/

theorem useSpare_start (g : TsvGroup) (k : Nat) (s : State) :
    (useSpare g k s).start = { s.start with tsvUsed := s.start.tsvUsed ++ [g] } := (raise_frame ..).same .start rfl

/-- A suspect group of a running region holds the region for the swap (R538). -/
theorem exec_tsvGroupSuspect_holds {s : State} {g : TsvGroup} {r : Nat} (hb : g.bundle ≠ .l1l2)
    (hs : s.start.tsvSwap.contains g = false) (ho : tsvOwner g = some r) (hr : regionIs s r .running = true) :
    ∃ t, exec (.tsvGroupSuspect g) s = .next t ∧ t.start.tsvSwap = s.start.tsvSwap ++ [g] ∧ (regionOf t r).st = .held ∧
      (regionOf t r).swapHeld = true := by
  show ∃ t, execTsvGroupSuspect g s = .next t ∧ _
  rw [execTsvGroupSuspect, if_neg (by rw [hs]; simpa using hb), ho]
  dsimp only
  refine ⟨_, if_pos hr, ?_, ?_, ?_⟩
  · exact congrArg Start.tsvSwap ((leaveRunning_frame r .held 4 _).same .start rfl)
  · rw [regionOf_updRegion_same]
    exact (leaveRunning_st ..).trans (if_pos rfl)
  · rw [regionOf_updRegion_same]

/-- The state after a group's swap has left the queue of swaps, before its outcome. -/
def swapEnded (g : TsvGroup) (s : State) : State := updStart (fun x => { x with tsvSwap := x.tsvSwap.erase g }) s

/-- With no failed TSV the swap of a group that no region owns is counted as a bond-pad failure would be (R538). -/
theorem exec_tsvSwapDone_clean {s : State} {g : TsvGroup} (hs : s.start.tsvSwap.contains g = true) (ho : tsvOwner g = none) :
    exec (.tsvSwapDone g none) s = .next { swapEnded g s with
      mbx := { s.mbx with bondPadFails := satAdd s.mbx.bondPadFails 1 } } := by
  show execTsvSwapDone g none s = _
  rw [execTsvSwapDone, if_pos hs]
  dsimp only
  rw [ho]
  rfl

theorem exec_tsvSwapDone_failed {s : State} {g : TsvGroup} (k : BitVec 16) (hs : s.start.tsvSwap.contains g = true)
    (ho : tsvOwner g = none) : exec (.tsvSwapDone g (some k)) s = .next (walkTested g k.toNat (swapEnded g s)) := by
  show execTsvSwapDone g (some k) s = _
  rw [execTsvSwapDone, if_pos hs]
  dsimp only
  rw [ho]
  rfl

/-- A failed TSV moves onto the spare of its group while that is free (R17). -/
theorem walkTested_spare {s : State} {g : TsvGroup} (k : Nat) (hu : s.start.tsvUsed.contains g = false) :
    walkTested g k s = useSpare g k s := if_neg (ne_true_of_eq_false hu)

theorem retireVertical_l0l1 (column row index : Nat) (s : State) : retireVertical .l0l1 column row index s =
    retireResource (tileEntry s false column row 3) 0 (tileCode false column row) s := rfl

/-- A failed TSV of an L0–L1 group whose spare is in use retires the L1 tile, for the map and the record (R537, R541). -/
theorem walkTested_retires {s : State} {g : TsvGroup} (k : Nat) (hu : s.start.tsvUsed.contains g = true) (hb : g.bundle = .l0l1)
    (hm : s.start.map = []) (hl : (recordNow s).map.length < 256) :
    (walkTested g k s).start.map = [persistentEntry (tileEntry s false g.column.val g.row.val 3)] := by
  rw [walkTested, if_pos hu, hb, retireVertical_l0l1, retireResource, (applyRetire_frame ..).same .start rfl]
  exact addMap_map _ _ _ s hm (by rw [tileEntry_cause]; rfl) hl

/-- The walk test of a group whose spare is in use, while the region that owns it does not run (R537). -/
theorem exec_tsvWalkTest_failed {s : State} {g : TsvGroup} {r : Nat} (k : BitVec 16) (hu : s.start.tsvUsed.contains g = true)
    (ho : tsvOwner g = some r) (hr : regionIs s r .running = false) :
    exec (.tsvWalkTest g (some k)) s = .next (walkTested g k.toNat s) := by
  show execTsvWalkTest g (some k) s = _
  rw [execTsvWalkTest, ho]
  exact if_pos ⟨hu, hr⟩

/-! ## In-service tests -/

theorem find_running {s : State} {r : Nat} {t : RegionTest} (h : s.start.tests = [t]) (hr : t.region = r)
    (ht : t.running = true) : s.start.tests.find? (fun x => x.region == r && x.running) = some t := by
  rw [h, List.find?_cons_of_pos (by simp [hr, ht])]

/-- The state after the only test in service has ended with a RESULT, before its final event. -/
def testEnded (r : Nat) (v : Byte) (s : State) : State :=
  setTest r v (updRegion r (fun g => { g with bistBusy := false }) (updStart (fun x => { x with tests := [] }) s))

/-- The final event of the only test leaves what the test left, and no other test begins (R529, R530). -/
theorem startTests_finish_testEnded (r : Nat) (v : Byte) (o : Origin) (u : Nat) (st : Status) (s : State) :
    (startTests (finish o .tstDone u st (testEnded r v s))).start.tests = [] ∧
      Tab.get 0 (startTests (finish o .tstDone u st (testEnded r v s))).start.results r = v ∧
      (regionOf (startTests (finish o .tstDone u st (testEnded r v s))) r).bistBusy = false := by
  have hstart := finish_start o .tstDone u st (testEnded r v s)
  have htests : (finish o .tstDone u st (testEnded r v s)).start.tests = [] := congrArg Start.tests hstart
  rw [startTests_none _ htests]
  refine ⟨htests, ?_, ?_⟩
  · rw [hstart]
    exact setTest_get ..
  · rw [regionOf_congr ((finish_frame ..).same .ctx rfl)]
    exact congrArg Region.bistBusy (regionOf_updRegion_same ..)

theorem updStart_erase_one {s : State} {t : RegionTest} (h : s.start.tests = [t]) :
    updStart (fun x => { x with tests := x.tests.erase t }) s = updStart (fun x => { x with tests := [] }) s := by
  rw [updStart, updStart, h, List.erase_cons_head]

/-- A test in service that finds no fault ends with ST_OK (R530). -/
theorem exec_regionTestDone_passed {s : State} {r : Fin 32} {t : RegionTest} (h : s.start.tests = [t]) (hr : t.region = r.val)
    (ht : t.running = true) : exec (.regionTestDone r [] false) s =
      .next (startTests (finish t.org .tstDone r.val .ok (testEnded r.val 1 s))) := by
  show execRegionTestDone r [] false s = _
  rw [execRegionTestDone]
  dsimp only
  rw [find_running h hr ht]
  dsimp only
  rw [if_neg Bool.false_ne_true, List.filter_nil, if_pos rfl, if_pos rfl, updStart_erase_one h]
  rfl

/-- A supply excursion aborts a test in service, which has no result then (R531). -/
theorem exec_regionTestDone_excursion {s : State} {r : Fin 32} {t : RegionTest} (h : s.start.tests = [t])
    (hr : t.region = r.val) (ht : t.running = true) : exec (.regionTestDone r [] true) s =
      .next (startTests (finish t.org .tstDone r.val .state (testEnded r.val 3 s))) := by
  have hfind : s.start.tests.find? (fun x => x.region == r.val) = some t := by
    rw [h, List.find?_cons_of_pos (by simp [hr])]
  show execRegionTestDone r [] true s = _
  rw [execRegionTestDone]
  dsimp only
  rw [find_running h hr ht]
  dsimp only
  rw [if_pos rfl, abortTest, hfind]
  dsimp only
  rw [updStart_erase_one h]
  rfl

/-- A test of memory blocks leaves each of them cleared, and no other block changed (R545). -/
theorem exec_memoryTestDone_clears {s : State} {o : Origin} {b n : Nat} (h : s.start.memTest = some (o, b, n)) :
    ∃ t, exec (.memoryTestDone []) s = .next t ∧ t.start.memTest = none ∧
      ∀ g, blockOf t g = if b ≤ g ∧ g < b + n then clearedBlock (blockOf s g) else blockOf s g := by
  show ∃ t, execMemoryTestDone [] s = .next t ∧ _
  rw [execMemoryTestDone, h]
  refine ⟨_, rfl, ?_, fun g => ?_⟩
  · rw [finish_start, List.filter_nil, List.foldl_nil, clearAll_start]
    rfl
  · rw [blockOf_congr ((finish_frame ..).same .mem rfl), List.filter_nil, List.foldl_nil]
    refine (blockOf_forEach (count_nodup b n) (fun _ => clearedBlock) _ g).trans ?_
    simp only [mem_count]
    rfl

/-- A test of an analogue unit ends with its final event (R545). -/
theorem exec_analogTestDone_ends {s : State} {o : Option Origin} {u i : Nat} (ok : Bool) (h : s.start.anaTest = some (o, u, i)) :
    ∃ t, exec (.analogTestDone ok) s = .next t ∧ t.start.anaTest = none := by
  show ∃ t, execAnalogTestDone ok s = .next t ∧ _
  rw [execAnalogTestDone, h]
  refine ⟨_, rfl, ?_⟩
  rw [finishOpt_start]
  rfl

/-! ## The skip position and the repair record -/

/-- A write of the repair record, made or deferred, touches the record alone (R544). -/
theorem writeRecord_start (f : RepairRec → RepairRec) (s : State) : ∃ rr rrPrev deferred,
    (writeRecord f s).start = { s.start with rr := rr, rrPrev := rrPrev, deferred := deferred } := by
  rw [writeRecord]
  dsimp only
  split
  · exact ⟨_, _, _, rfl⟩
  · exact ⟨_, _, _, rfl⟩

/-- Recording the skip position of L1 leaves the position in force, and the command that waits (R536). -/
theorem recordSkip_lower (p : Nat) (s : State) : (recordSkip false p s).start.skipCmd = s.start.skipCmd ∧
    (recordSkip false p s).start.skip1 = s.start.skip1 ∧ (recordNow (recordSkip false p s)).skip1 = BitVec.ofNat 5 p := by
  have hwrite : recordSkip false p s = writeRecord (fun x => { x with skip1 := BitVec.ofNat 5 p }) s := rfl
  obtain ⟨rr, rrPrev, deferred, hstart⟩ := writeRecord_start (fun x => { x with skip1 := BitVec.ofNat 5 p }) s
  obtain ⟨gen, hrec⟩ := recordNow_write (fun x => { x with skip1 := BitVec.ofNat 5 p }) s
  rw [hwrite, hstart, hrec]
  exact ⟨rfl, rfl, rfl⟩

/-- The state in which the crossings of a layer are measured again after a change of its skip position (R536). -/
def skipChanged (layer : Bool) (s : State) : State :=
  { s with align := { s.align with record := s.align.record.filter (fun c => !crossOf layer c) },
           start := { s.start with skipCmd := none } }

/-- A change of the skip position of L1 takes effect, and is recorded for later starts (R536). -/
theorem exec_skipChangeDone_lower {s : State} {o : Option Origin} (h : s.start.skipCmd = some (o, false)) :
    ∃ t, exec (.skipChangeDone []) s = .next t ∧ t.start.skipCmd = none ∧ t.start.skip1 = s.start.skip1 ∧
      (recordNow t).skip1 = s.start.skip1 := by
  have hexec : exec (.skipChangeDone []) s = .next (finishOpt o .rprDone noUnit .ok
      (recordSkip false (skipOf (skipChanged false s) false) (skipChanged false s))) := by
    show execSkipChangeDone [] s = _
    rw [execSkipChangeDone, h]
    rfl
  obtain ⟨hcmd, hskip, hrec⟩ := recordSkip_lower (skipOf (skipChanged false s) false) (skipChanged false s)
  refine ⟨_, hexec, ?_⟩
  rw [recordNow_congr (finishOpt_start ..), finishOpt_start, hcmd, hskip, hrec]
  exact ⟨rfl, rfl, BitVec.ofNat_toNat ..⟩

/-- A deferred write of the repair record is made below the temperature limit (R544). -/
theorem exec_repairRecordWrite_deferred {s : State} {x : RepairRec} (h : s.start.deferred = some x) (ht : tooHot s = false) :
    exec .repairRecordWrite s = .next { s with start := { s.start with
      rr := { x with gen := s.start.rr.gen + 1 }, rrPrev := some s.start.rr, deferred := none } } := by
  show execRepairRecordWrite s = _
  rw [execRepairRecordWrite, h]
  dsimp only
  rw [if_neg (ne_true_of_eq_false ht), writeRecord, if_neg (ne_true_of_eq_false ht), h]
  rfl

theorem exec_repairRecordWrite_waits {s : State} (h : tooHot s = true ∨ s.start.deferred = none) :
    exec .repairRecordWrite s = .next s := by
  show execRepairRecordWrite s = _
  rw [execRepairRecordWrite]
  cases hd : s.start.deferred with
  | none => rfl
  | some x => exact if_pos (h.resolve_right (by simp [hd]))

/-! ## The obligation -/

/-- Settles O57: each row is one operation of self-test, alignment or repair, whose hypotheses choose its branch; what its
final event or its report leaves alone is read from their frames. -/
theorem repairRows : Obligations.RepairRows := by
  unfold Obligations.RepairRows
  refine ⟨?bist, ?start, ?done, ?doneSpare, ?lower, ?upper, ?early, ?lost, ?suspect, ?swapSpare, ?swapClean, ?walk, ?passed,
    ?excursion, ?memory, ?analog, ?skip, ?write, ?waits⟩
  case bist =>
    intro s r ex hr hclk hd he hm hto ha hf hb hs hh hror ht
    refine ⟨_, exec_bistRoundDone_last hr hclk hd he hm hto ha hf hb hs hh hror ht, rfl, rfl, rfl, ?_, setTest_get r 1 _⟩
    exact regionOf_updRegion_same ..
  case start => exact fun s hclk hb hm ha hr => ⟨_, exec_valignStart_begins hclk hb hm ha hr, rfl, rfl, rfl, rfl⟩
  case done =>
    intro s p1 p2 hr hclk h1 h2
    obtain ⟨t, hexec, hcmd, -, halign⟩ := exec_valignDone_ends [] hr hclk h1 h2
    refine ⟨t, hexec, ?_⟩
    rw [halign]
    exact ⟨rfl, rfl, rfl, rfl, rfl, hcmd⟩
  case doneSpare =>
    intro s c p1 p2 hr hclk h1 h2 hl hs hb hu
    obtain ⟨t, hexec, -, hstart, halign⟩ := exec_valignDone_ends [c] hr hclk h1 h2
    refine ⟨t, hexec, congrArg Align.busy halign, ?_⟩
    have htaken : crossingsTaken [c] s = useSpare (crossGroup c) c.index.toNat (crossingsTaken [] s) :=
      takeCrossing_spare hl hs hb hu
    rw [hstart, htaken, useSpare_start]
    rfl
  case lower => exact fun s up hb hl hm => exec_valignTrackStep_lower up hb hl hm
  case upper => exact fun s up hb hl hm => exec_valignTrackStep_upper up hb hl hm
  case early =>
    intro s n hn hlt up
    exact exec_valignTrackStep_early false up (by rw [if_neg Bool.false_ne_true, hn]; exact mayStep_some_of_lt hlt)
  case lost => exact fun s up ph hb hp => exec_valignLost_holds up hb hp
  case suspect => exact fun s g r hb hs ho hr => exec_tsvGroupSuspect_holds hb hs ho hr
  case swapSpare =>
    intro s g k hs ho hu
    refine ⟨_, exec_tsvSwapDone_failed k hs ho, ?_⟩
    rw [walkTested_spare (s := swapEnded g s) k.toNat hu, useSpare_start]
    exact ⟨rfl, rfl⟩
  case swapClean => exact fun s g hs ho => ⟨_, exec_tsvSwapDone_clean hs ho, rfl, rfl⟩
  case walk =>
    intro s g k hu hb hr hm hl
    have howner : tsvOwner g = some (regionAt false g.column.val g.row.val) := by rw [tsvOwner, hb]
    exact ⟨_, exec_tsvWalkTest_failed k hu howner hr, walkTested_retires k.toNat hu hb hm hl⟩
  case passed =>
    exact fun s r t h hr ht => ⟨_, exec_regionTestDone_passed h hr ht, startTests_finish_testEnded ..⟩
  case excursion =>
    exact fun s r t h hr ht => ⟨_, exec_regionTestDone_excursion h hr ht, startTests_finish_testEnded ..⟩
  case memory => exact fun s o b n h => exec_memoryTestDone_clears h
  case analog => exact fun s o u i ok h => exec_analogTestDone_ends ok h
  case skip => exact fun s o h _ => exec_skipChangeDone_lower h
  case write => exact fun s x h ht => exec_repairRecordWrite_deferred h ht
  case waits => exact fun s h => exec_repairRecordWrite_waits h

end Sys2Proof.Machine

/-! REGION_CTL, region resets and window boundaries (R116, R126 to R133). -/

namespace Sys2Proof.Machine

/-! ## A switch request at REGION_CTL -/

section
variable {s : State} {r : Fin 32} {k : Fin 4}

theorem exec_regionCtlSwitchRequest_accepted (init : Bool) (hst : (regionOf s r.val).st = .running)
    (hp : (regionOf s r.val).pendSw = none) (hr : runnable s r.val k.val = true) :
    exec (.regionCtlSwitchRequest r k init) s = .next (updRegion r.val (fun g => { g with fabReqAt := some s.clk.fc })
      (ackSwitch r.val 1 (updRegion r.val (fun g =>
        { g with pendSw := some { slot := k, init := init, at_ := s.clk.fc, org := none } }) s))) := by
  show execRegionCtlSwitchRequest r k init s = _
  rw [execRegionCtlSwitchRequest]
  simp [switchNow_idle hp, hst, hp, hr]

theorem exec_regionCtlSwitchRequest_busy {w : PendSw} (init : Bool) (hst : (regionOf s r.val).st = .running)
    (hp : (regionOf s r.val).pendSw = some w) (hw : s.clk.fc < w.at_ + 4) :
    exec (.regionCtlSwitchRequest r k init) s =
      .next (updRegion r.val (fun g => { g with fabReqAt := some s.clk.fc }) (ackSwitch r.val 2 s)) := by
  show execRegionCtlSwitchRequest r k init s = _
  rw [execRegionCtlSwitchRequest]
  simp [switchNow_early hp hw, hst, hp]

theorem exec_regionCtlSwitchRequest_refused (init : Bool) (hst : (regionOf s r.val).st = .running)
    (hp : (regionOf s r.val).pendSw = none) (hr : runnable s r.val k.val = false) :
    exec (.regionCtlSwitchRequest r k init) s = .next (ackSwitch r.val 3 s) := by
  show execRegionCtlSwitchRequest r k init s = _
  rw [execRegionCtlSwitchRequest]
  simp [switchNow_idle hp, hst, hp, hr]
end

@[simp] theorem regionOf_ackSwitch (r : Nat) (v : BitVec 2) (s : State) :
    regionOf (ackSwitch r v s) r = { regionOf s r with swAck := v, swAckAt := s.clk.fc + 1 } :=
  regionOf_updRegion_same ..

/-! ## The effect of a switch, and the end of a region reset -/

/-- A region after the switch that waits takes effect at fc n (R128). -/
def Region.switched (w : PendSw) (n : Nat) (g : Region) : Region :=
  { (if w.init then g.updSlot w.slot.val (fun q => { q with regs := initRegs q }) else g) with
    present := some w.slot, pendSw := none, effectAt := some n }

theorem Region.switched_st (w : PendSw) (n : Nat) (g : Region) : (g.switched w n).st = g.st := by
  rw [Region.switched]
  split <;> rfl

/-- Beside the region itself the effect reaches the fabric, the banks and the event of its command alone. -/
theorem regionOf_switchNow_due {s : State} {r : Nat} {w : PendSw} (hst : (regionOf s r).st = .running)
    (hp : (regionOf s r).pendSw = some w) (hw : w.at_ + 4 ≤ s.clk.fc) :
    regionOf (switchNow r s) r = (regionOf s r).switched w s.clk.fc := by
  rw [switchNow, hp]
  dsimp only
  rw [if_pos ⟨hw, hst⟩, regionOf_congr ((finishOpt_frame ..).same .ctx rfl),
    regionOf_congr ((releaseBanks_frame ..).same .ctx rfl), regionOf_congr ((zeroRouting_frame ..).same .ctx rfl),
    regionOf_updRegion_same]
  rfl

theorem regionOf_enterRunning (r : Nat) (k : Fin 4) (s : State) :
    regionOf (enterRunning r k false s) r = { regionOf s r with
      st := .running, present := some k, ran := true, runFrom := s.clk.fc, resetEnd := none, swapHeld := false } := by
  rw [enterRunning, regionOf_congr ((releaseBanks_frame ..).same .ctx rfl), regionOf_updRegion_same,
    if_neg Bool.false_ne_true]

theorem exec_regionResetEnd_ends {s : State} {r : Fin 32} {k : Fin 4} {e : Nat} {b : Bool}
    (hr : (regionOf s r.val).resetEnd = some (e, b)) (hp : (regionOf s r.val).present = some k) (he : e ≤ s.clk.fc)
    (hst : (regionOf s r.val).st = .held) :
    exec (.regionResetEnd r) s = .next
      (if b then updRegion r.val (fun g => { g with upsetAt := some s.clk.fc }) (enterRunning r.val k false s)
        else enterRunning r.val k false s) := by
  show execRegionResetEnd r s = _
  rw [execRegionResetEnd, hr, hp]
  exact if_pos ⟨he, hst⟩

/-! ## A window boundary -/

/-- No command is armed. -/
def disarmed (s : State) : State := { s with ctx := { s.ctx with armed := [] } }

/-- What an armed command does when it is due: a switch enters REGION_CTL, any other command acts and reports (R132, R133). -/
def performArmed (a : Armed) (s : State) : State :=
  if a.kind = .switch then windowSwitch a s else endArmed a (windowAct a s).1 (windowAct a s).2

theorem exec_windowBoundary_one {s : State} {a : Armed} (h : s.ctx.armed = [a]) (hd : armedDue s.clk.time.toNat a = true) :
    exec .windowBoundary s = .next (performArmed a (disarmed s)) := by
  show execWindowBoundary s = _
  rw [execWindowBoundary]
  dsimp only
  rw [h, List.filter_cons_of_pos hd, List.filter_cons_of_neg (by simp [hd])]
  rfl

theorem exec_windowBoundary_none {s : State} (h : ∀ a ∈ s.ctx.armed, armedDue s.clk.time.toNat a = false) :
    exec .windowBoundary s = .next s := by
  have hdue : s.ctx.armed.filter (armedDue s.clk.time.toNat) = [] := List.filter_eq_nil_iff.2 fun a ha => by simp [h a ha]
  have hkept : s.ctx.armed.filter (fun a => !armedDue s.clk.time.toNat a) = s.ctx.armed :=
    List.filter_eq_self.2 fun a ha => by simp [h a ha]
  show execWindowBoundary s = _
  rw [execWindowBoundary]
  dsimp only
  rw [hdue, hkept]
  rfl

theorem armedDue_switch {a : Armed} (h : a.kind = .switch) (t : Nat) : armedDue t a = decide (a.b.toNat ≤ t) := if_pos h

theorem armedDue_other {a : Armed} (h : a.kind ≠ .switch) (t : Nat) : armedDue t a = decide (a.b.toNat + 4 ≤ t) := if_neg h

theorem windowSwitch_accepted {s : State} {a : Armed} (hst : (regionOf s a.region).st = .running)
    (hp : (regionOf s a.region).pendSw = none) (hr : runnable s a.region a.slot.val = true)
    (hf : (regionOf s a.region).fabReqAt ≠ some s.clk.fc) (he : (regionOf s a.region).effectAt ≠ some s.clk.fc) :
    windowSwitch a s = updRegion a.region (fun g =>
      { g with pendSw := some { slot := a.slot, init := a.init, at_ := s.clk.fc, org := a.org } }) s := by
  rw [windowSwitch]
  rw [switchNow_idle hp, if_neg]
  simp [hst, hp, hr, hf, he]

/-! ## A region that leaves RUNNING, and the armed commands -/

theorem finishOpt_ctx (o : Option Origin) (ev : Ev) (u : Nat) (st : Status) (s : State) :
    (finishOpt o ev u st s).ctx = s.ctx :=
  (finishOpt_frame ..).same .ctx rfl

theorem dropSwitch_armed (r : Nat) (s : State) : (dropSwitch r s).ctx.armed = s.ctx.armed := by
  rw [dropSwitch]
  split
  · rfl
  · rw [finishOpt_ctx, updRegion_ctx_armed]

theorem leaveRunning_armed (r : Nat) (st : RegSt) (c : BitVec 4) (s : State) :
    (leaveRunning r st c s).ctx.armed = s.ctx.armed := by
  rw [leaveRunning]
  rw [updRegion_ctx_armed, (dropPartial_frame ..).same .ctx rfl, dropSwitch_armed, (presentBorders_frame ..).same .ctx rfl]

theorem endArmed_ok_ctx (a : Armed) (s : State) : (endArmed a .ok s).ctx = s.ctx := by
  rw [endArmed]
  split
  · exact (finish_frame ..).same .ctx rfl
  · rw [if_pos rfl]

theorem performArmed_hold {s : State} {a : Armed} (hk : a.kind = .hold) (hst : (regionOf s a.region).st = .running) :
    performArmed a s = endArmed a .ok (leaveRunning a.region .held 1 s) := by
  have hact : windowAct a s = (.ok, leaveRunning a.region .held 1 s) := by
    rw [windowAct, hk]
    exact if_pos hst
  rw [performArmed, if_neg (by simp [hk]), hact]

/-! ## The obligation -/

/-- Settles O29: the state of the region chooses the case of a request; an effect and a boundary reach one region, and what
their events and the banks leave alone is read from the frames. -/
theorem regionSwitchRows : Obligations.RegionSwitchRows := by
  unfold Obligations.RegionSwitchRows
  refine ⟨⟨?accepted, ?busy, ?refused, ?effect, ?reset⟩, ?switch, ?hold, fun s h => exec_windowBoundary_none h⟩
  case accepted =>
    intro s r k init hst hp hr
    refine ⟨_, exec_regionCtlSwitchRequest_accepted init hst hp hr, ?_⟩
    simp
  case busy =>
    intro s r k init w hst hp hw
    refine ⟨_, exec_regionCtlSwitchRequest_busy init hst hp hw, ?_⟩
    simp [hp]
  case refused =>
    intro s r k init hst hp hr
    refine ⟨_, exec_regionCtlSwitchRequest_refused init hst hp hr, ?_⟩
    simp [hp]
  case effect =>
    intro s r w hst hp hw
    refine ⟨_, rfl, ?_⟩
    rw [regionOf_switchNow_due hst hp hw, Region.switched_st, hst]
    exact ⟨rfl, rfl, rfl, rfl⟩
  case reset =>
    intro s r k e b hr hp he hst
    refine ⟨_, exec_regionResetEnd_ends hr hp he hst, ?_⟩
    cases b <;> simp [regionOf_enterRunning]
  case switch =>
    intro s a h hk hb hst hp hr hf he
    have hacc := windowSwitch_accepted (s := disarmed s) (a := a) hst hp hr hf he
    refine ⟨_, exec_windowBoundary_one h (by rw [armedDue_switch hk]; exact decide_eq_true hb), ?_⟩
    rw [performArmed, if_pos hk, hacc, regionOf_updRegion_same]
    exact ⟨rfl, rfl⟩
  case hold =>
    intro s a h hk hb hst
    have hne : a.kind ≠ .switch := by simp [hk]
    refine ⟨_, exec_windowBoundary_one h (by rw [armedDue_other hne]; exact decide_eq_true hb), ?_⟩
    rw [performArmed_hold (s := disarmed s) hk hst, regionOf_congr (endArmed_ok_ctx ..), endArmed_ok_ctx, leaveRunning_armed,
      leaveRunning_st, if_pos rfl]
    exact ⟨rfl, rfl⟩

end Sys2Proof.Machine

/-! The CTX commands: those armed for a window boundary (R131 to R134, R146), and those that act at once (R116, R118, R130,
R137, R138, R607). -/

namespace Sys2Proof.Machine

theorem bitsOf_nodup {w : Nat} (m : BitVec w) : (bitsOf m).Nodup := List.nodup_range.filter _

/-- A command that completes with ST_OK in a state that keeps the channels: its answer, and the regions as its body leaves
them. -/
theorem serve_done_ctx {s x : State} {r : Req} {cmd : Nat} {args : List Byte} {body : Origin → State → Ans} {W : List Part}
    (h : ready s r cmd = true) (ha : body (originOf r cmd) (taken r cmd args s) = done x)
    (hf : Frame W (taken r cmd args s) x) (hW : W.contains .chans = false := by rfl) (hc : cmd < 65536 := by decide) :
    ∃ t, Host.Outcome.next (φ := Fault) (ρ := Refusal) (serve r cmd args body s) = .next t ∧ answered t r cmd .ok [] ∧
      ∀ n, regionOf t n = regionOf x n := by
  obtain ⟨t, hexec, hans, hframe⟩ := serve_fact (a := done x) h ha (fun e => nomatch e) rfl rfl
    (taken_busy' r cmd args s x (hf.same .chans hW)) hc
  exact ⟨t, hexec, hans, fun n => regionOf_congr (hframe.same .ctx rfl) n⟩

/-- A command that stays open and has changed what the contexts hold alone. -/
theorem serve_open_ctx {s : State} {c : Ctx} {r : Req} {cmd units : Nat} {args : List Byte} {body : Origin → State → Ans}
    (h : ready s r cmd = true) (ha : body (originOf r cmd) (taken r cmd args s) =
      { state := { taken r cmd args s with ctx := c }, status := .pending, data := [], units := units })
    (hc : cmd < 65536 := by decide) :
    Replies (.next (serve r cmd args body s)) r cmd .pending [] (withPend r cmd units { s with ctx := c }) := by
  have hstate : withChans s.mbx.chans { taken r cmd args s with ctx := c } = { s with ctx := c } := by
    unfold taken withChans
    rfl
  have hreply := serve_open h ha hc
  rwa [hstate] at hreply

/-! ## Commands armed for a window boundary -/

/-- Arms a command for each region of a list (R131, R134). -/
def withArmed (kind : ArmKind) (rs : List Nat) (slot : Fin 4) (init : Bool) (b : Nat) (o : Origin) (s : State) : State :=
  { s with ctx := { s.ctx with armed := s.ctx.armed ++ rs.map (fun n =>
      { org := some o, kind := kind, region := n, slot := slot, init := init, b := BitVec.ofNat 64 b }) } }

theorem armAll_armed {kind : ArmKind} {rs : List Nat} {slot : Fin 4} {init : Bool} {at_ b : Nat} {o : Origin} {s : State}
    (h : armTime s at_ = .ok b) : armAll kind rs [] slot init at_ o s =
      { state := withArmed kind rs slot init b o s, status := .pending, data := [], units := rs.length } := by
  rw [armAll, h]
  rfl

theorem armTime_congr {x y : State} (hctx : x.ctx = y.ctx) (hclk : x.clk = y.clk) (at_ : Nat) :
    armTime x at_ = armTime y at_ := by
  rw [armTime, armTime, hctx, hclk]

section
variable {s : State} {r : Req} {cmd : Nat} {args : List Byte} {mask : BitVec 32} {at_ : W64} {b : Nat}

/-- A command whose body arms it for the regions of a list stays open with one unit for each of them (R146). -/
theorem serve_armAll {body : Origin → State → Ans} {kind : ArmKind} {rs : List Nat} {slot : Fin 4} {init : Bool}
    (h : ready s r cmd = true) (ht : armTime s at_.toNat = .ok b)
    (hbody : body (originOf r cmd) (taken r cmd args s) =
      armAll kind rs [] slot init at_.toNat (originOf r cmd) (taken r cmd args s)) (hc : cmd < 65536 := by decide) :
    Replies (.next (serve r cmd args body s)) r cmd .pending []
      (withPend r cmd rs.length (withArmed kind rs slot init b (originOf r cmd) s)) := by
  have htaken : armTime (taken r cmd args s) at_.toNat = .ok b := (armTime_congr rfl rfl _).trans ht
  exact serve_open_ctx h (hbody.trans (armAll_armed htaken)) hc

theorem bodyCtxArm_of_ne_nil (kind : ArmKind) (slot : Nat) (init : Bool) (o : Origin) (x : State) (hm : bitsOf mask ≠ []) :
    bodyCtxArm kind mask.toNat slot init at_.toNat o x = armAll kind (bitsOf mask) [] (slotFin slot) init at_.toNat o x := by
  rw [bodyCtxArm, maskRegions_of, if_neg hm]

/-- CTX.SWITCH, CTX.START, CTX.HOLD, CTX.RESUME and CTX.RESET (R132, R133). -/
theorem serve_ctxArm (kind : ArmKind) (slot : Nat) (init : Bool) (h : ready s r cmd = true) (hm : bitsOf mask ≠ [])
    (ht : armTime s at_.toNat = .ok b) (hc : cmd < 65536 := by decide) :
    Replies (.next (serve r cmd args (bodyCtxArm kind mask.toNat slot init at_.toNat) s)) r cmd .pending []
      (withPend r cmd (bitsOf mask).length (withArmed kind (bitsOf mask) (slotFin slot) init b (originOf r cmd) s)) :=
  serve_armAll h ht (bodyCtxArm_of_ne_nil _ _ _ _ _ hm) hc

theorem bodyCtxStop_no_held (o : Origin) {x : State} (hm : bitsOf mask ≠ [])
    (hn : ∀ n ∈ bitsOf mask, (regionOf x n).st ≠ .held) :
    bodyCtxStop mask.toNat at_.toNat o x = armAll .stop (bitsOf mask) [] 0 false at_.toNat o x := by
  have hnow : (bitsOf mask).filter (fun n => regionIs x n .held) = [] :=
    List.filter_eq_nil_iff.2 fun n hmem => by simpa [regionIs] using hn n hmem
  have hlater : (bitsOf mask).filter (fun n => !regionIs x n .held) = bitsOf mask :=
    List.filter_eq_self.2 fun n hmem => by simpa [regionIs] using hn n hmem
  rw [bodyCtxStop, maskRegions_of, if_neg hm, hlater, hnow, if_neg hm]

theorem bodyCtxStop_all_held (o : Origin) {x : State} (hm : bitsOf mask ≠ [])
    (hh : ∀ n ∈ bitsOf mask, (regionOf x n).st = .held) :
    bodyCtxStop mask.toNat at_.toNat o x = done (forEach (bitsOf mask) heldToReady x) := by
  have hlater : (bitsOf mask).filter (fun n => !regionIs x n .held) = [] :=
    List.filter_eq_nil_iff.2 fun n hmem => by simpa [regionIs] using hh n hmem
  have hnow : (bitsOf mask).filter (fun n => regionIs x n .held) = bitsOf mask :=
    List.filter_eq_self.2 fun n hmem => by simpa [regionIs] using hh n hmem
  rw [bodyCtxStop, maskRegions_of, if_neg hm, hlater, if_pos rfl, hnow]
end

theorem forEach_heldToReady_st {l : List Nat} (hl : l.Nodup) {n : Nat} (hn : n ∈ l) (s : State) :
    (regionOf (forEach l heldToReady s) n).st = .ready := by
  have hregion := regionOf_forEach hl (fun _ g => { g with st := .ready, resetEnd := none, swapHeld := false }) s n
  exact congrArg Region.st (hregion.trans (if_pos hn))

/-- Settles O30: each body arms its command for the regions of its mask, so the reply is that of a command that stays open;
regions that are all HELD stop in the body itself. -/
theorem armedCommandsReply : Obligations.ArmedCommandsReply := by
  unfold Obligations.ArmedCommandsReply
  refine ⟨fun s r mask k init at_ b h hm ht => serve_ctxArm .switch k.toNat init h hm ht,
    fun s r mask k init at_ b h hm ht => serve_ctxArm .start k.toNat init h hm ht,
    fun s r mask at_ b h hm ht => serve_ctxArm .hold 0 false h hm ht,
    fun s r mask at_ b h hm ht => serve_ctxArm .resume 0 false h hm ht,
    fun s r mask at_ b h hm ht => serve_ctxArm .reset 0 false h hm ht,
    fun s r mask at_ b h hm hn ht => serve_armAll h ht (bodyCtxStop_no_held _ hm hn), fun s r mask at_ h hm hh => ?_⟩
  obtain ⟨t, hexec, hans, hregion⟩ := serve_done_ctx h (bodyCtxStop_all_held _ hm hh)
    (Frame.forEach (fun x n => heldToReady_frame n x) _ (Frame.refl [.ctx] _))
  exact ⟨t, hexec, hans, fun n hmem => by rw [hregion, forEach_heldToReady_st (bitsOf_nodup mask) hmem]⟩

/-! ## Commands that act at once -/

section
variable {mask : BitVec 32} {x : State}

/-- A staging of one region that the region takes joins the queue (R137, R138). -/
theorem bodyCtxStage_one {n : Nat} {c : BitVec 4} {k : BitVec 2} (fast : Bool) (o : Origin) (hm : bitsOf mask = [n])
    (hd : domCut x 49 = false) (hl : x.load.lost = false) (hr : stageRefusal x n c.toNat k.toNat = none)
    (hw : waitingStages x < 64) :
    bodyCtxStage mask.toNat c.toNat k.toNat fast o x =
      { state := { x with ctx := { x.ctx with queue := x.ctx.queue ++
          [{ org := some o, region := n, slot := slotFin k.toNat, ctx := c, fast := fast, granted := false }] } },
        status := .pending, data := [], units := 1 } := by
  have hgood : [n].filter (fun r => (stageRefusal x r c.toNat k.toNat).isNone) = [n] :=
    List.filter_cons_of_pos (by rw [hr]; rfl)
  have hbad : [n].filterMap (fun r => (stageRefusal x r c.toNat k.toNat).map (fun st => (r, st))) = [] := by
    rw [List.filterMap_cons, hr]
    rfl
  rw [bodyCtxStage, maskRegions_of, hm, hgood, hbad, if_neg (by simp), hd, if_neg (by simp), hl, if_neg (by simp),
    if_neg (by simp), if_neg (by simp; omega), BitVec.ofNat_toNat, BitVec.setWidth_eq]
  rfl

theorem stageRefusal_congr {x y : State} (hctx : x.ctx = y.ctx) (halign : x.align = y.align) (hstart : x.start = y.start)
    (hload : x.load = y.load) (r c k : Nat) : stageRefusal x r c k = stageRefusal y r c k := by
  rw [stageRefusal, stageRefusal, regionOf_congr hctx, loadingContext_congr hload, alignBusyFor, alignBusyFor, halign, hstart, hload]

theorem bodyCtxClear_done (o : Origin) (hm : bitsOf mask ≠ [])
    (hc : ∀ n ∈ bitsOf mask, ((regionOf x n).st = .ready ∨ (regionOf x n).st = .held ∨ (regionOf x n).st = .faulted) ∧
      stagingOf x n = false) :
    bodyCtxClear mask.toNat o x = done (forEach (bitsOf mask) clearRegion x) := by
  rw [bodyCtxClear, maskRegions_of, if_neg hm]
  refine if_pos (List.all_eq_true.2 fun n hmem => ?_)
  obtain ⟨hst, hq⟩ := hc n hmem
  simpa [regionIs, hq, or_assoc] using hst

theorem anyVerified_of_slots_nil {g : Region} (h : g.slots = []) : anyVerified g = false := by
  have hslot : ∀ k, g.slot k = {} := fun k => by rw [Region.slot, h]; rfl
  simp [anyVerified, hslot]

theorem bodyCtxEvict_one {n : Nat} {k : BitVec 2} (o : Origin) (hm : bitsOf mask = [n]) (hv : verified x n k.toNat = true)
    (hp : (regionOf x n).pendSw = none) (hr : runsOrHolds (regionOf x n) k.toNat = false) :
    bodyCtxEvict mask.toNat k.toNat o x = done (evictSlot k.toNat n x) := by
  simp [bodyCtxEvict, maskRegions_of, hm, hv, hp, hr, done, forEach]

theorem bodyCtxStatus_done (o : Origin) (hm : bitsOf mask ≠ []) :
    bodyCtxStatus mask.toNat o x = done x (packFields ((bitsOf mask).map (fun n => (64, regionStatus x n)))) := by
  rw [bodyCtxStatus, maskRegions_of, if_neg hm]

theorem bodyCtxWindow_done {p : BitVec 5} (o : Origin) (h10 : 10 ≤ p.toNat) (h20 : p.toNat ≤ 20) (ha : x.ctx.armed = []) :
    bodyCtxWindow p.toNat o x = done { x with ctx := { x.ctx with p := p } } := by
  rw [bodyCtxWindow, if_neg (by omega), if_neg (fun hne => hne ha), BitVec.ofNat_toNat, BitVec.setWidth_eq]
end

/-- An evicted slot is empty; the region may become BLANK beside it (R607). -/
theorem evictSlot_slot (r k : Nat) (s : State) : (regionOf (evictSlot k r s) r).slot k = {} := by
  have hempty : (regionOf (emptySlot r k s) r).slot k = {} := by
    rw [emptySlot, clearSlot, regionOf_congr ((pruneChans_frame _).same .ctx rfl), slot_upd]
  rw [evictSlot, regionOf_updRegion_same]
  split
  · exact hempty
  · exact hempty

/-- Settles O31: each body's answer under the hypotheses, and the reply that such an answer gives on a ready channel. -/
theorem contextCommandsReply : Obligations.ContextCommandsReply := by
  unfold Obligations.ContextCommandsReply
  refine ⟨fun s r mask n c k fast h hm hd hl hr hw => serve_open_ctx h (bodyCtxStage_one fast _ hm hd hl
      ((stageRefusal_congr rfl rfl rfl rfl _ _ _).trans hr) hw), ?clear, ?evict,
    fun s r mask h hm => serve_report h (bodyCtxStatus_done _ hm),
    fun s r p h h10 h20 ha => serve_ok h (bodyCtxWindow_done _ h10 h20 ha)⟩
  case clear =>
    intro s r mask h hm hc
    obtain ⟨t, hexec, hans, hregion⟩ := serve_done_ctx h (bodyCtxClear_done _ hm hc)
      (Frame.forEach (fun x n => clearRegion_frame n x) _ (Frame.refl [.ctx, .lnk, .mbx] _))
    refine ⟨t, hexec, hans, fun n hmem => ?_⟩
    obtain ⟨hblank, hslots⟩ := clearAll (bitsOf mask) _ n (.inl hmem)
    rw [hregion]
    exact ⟨hblank, anyVerified_of_slots_nil hslots⟩
  case evict =>
    intro s r mask n k h hm hv hp hr
    obtain ⟨t, hexec, hans, hregion⟩ := serve_done_ctx h (bodyCtxEvict_one _ hm hv hp hr) (evictSlot_frame ..)
    exact ⟨t, hexec, hans, by rw [hregion, evictSlot_slot]⟩

end Sys2Proof.Machine

/-! The rows of loads: the boot load, an image as it arrives, stagings, the workspace ring, CFG_STREAM and readbacks (R139,
R192, R198 to R226). -/

namespace Sys2Proof.Machine

theorem finish_load (o : Origin) (ev : Ev) (u : Nat) (st : Status) (s : State) : (finish o ev u st s).load = s.load :=
  (finish_frame ..).same .load rfl

theorem finishOpt_load (o : Option Origin) (ev : Ev) (u : Nat) (st : Status) (s : State) :
    (finishOpt o ev u st s).load = s.load :=
  (finishOpt_frame ..).same .load rfl

/-! ## The boot load (R210 to R218) -/

/-- The boot load can begin: nothing has begun it, no load runs, the start is over and firmware runs (R210, R444). -/
structure BootReady (s : State) : Prop where
  waiting : s.load.boot = .waiting
  noJob : s.load.job = none
  aligned : s.align.busy = false
  tested : s.start.bistDone = true
  notHeld : s.start.held = false
  noc : s.start.nocFailed = false
  store : s.start.storeFailed = false
  powered : domCut s 49 = false
  firmware : s.mbx.fw ≠ none

theorem BootReady.begins {s : State} (h : BootReady s) :
    ¬(s.load.boot ≠ .waiting ∨ s.load.job.isSome = true ∨ s.align.busy = true ∨ s.start.bistDone = false ∨ s.start.held = true ∨
      s.start.nocFailed = true ∨ s.start.storeFailed = true ∨ domCut s 49 = true ∨ s.mbx.fw = none) := by
  obtain ⟨hw, hj, ha, hb, hh, hn, hs, hd, hf⟩ := h
  simp [hw, hj, ha, hb, hh, hn, hs, hd, hf]

section
variable {s : State} {dir : BootDir}

theorem exec_bootLoadStart_flash (h : BootReady s) (hm : s.ext.mode = 0) (hmagic : dir.magic = 0x4442414B)
    (hv : dir.version = 1) (h1 : 1 ≤ dir.entryCount.toNat) (h32 : dir.entryCount.toNat ≤ 32)
    (hl : dir.entries.length = dir.entryCount.toNat) :
    exec (.bootLoadStart dir) s = .next (startLoad none 0 true dir.entries s) := by
  show execBootLoadStart dir s = _
  rw [execBootLoadStart, if_neg h.begins, hm]
  exact if_pos ⟨hmagic, hv, h1, h32, hl⟩

theorem exec_bootLoadStart_badMagic (h : BootReady s) (hm : s.ext.mode = 0) (hmagic : dir.magic ≠ 0x4442414B) :
    exec (.bootLoadStart dir) s = .next (endFailed (plainFail .badArg 0) (startLoad none 0 true dir.entries s)) := by
  show execBootLoadStart dir s = _
  rw [execBootLoadStart, if_neg h.begins, hm]
  exact if_neg fun hdir => hmagic hdir.1

theorem exec_bootLoadStart_ring (h : BootReady s) (hm : s.ext.mode = 1 ∨ s.ext.mode = 2) :
    exec (.bootLoadStart dir) s = .next (startLoad none 1 true [] s) := by
  show execBootLoadStart dir s = _
  rw [execBootLoadStart, if_neg h.begins]
  rcases hm with hm | hm
  · rw [hm]; rfl
  · rw [hm]; rfl
end

theorem endFailed_boot_error {s : State} {j : LoadJob} (x : LoadFail) (hj : s.load.job = some j) (hb : j.boot = true) :
    (endFailed x s).ext.error = true := by
  rw [endFailed, hj]
  dsimp only
  rw [if_pos hb, bootFail, (finishOpt_frame ..).same .ext rfl]
  rfl

theorem exec_bootLoadComplete_done {s : State} (hb : s.load.boot = .starting) (hf : s.load.bootFault = none)
    (hr : ∀ x ∈ s.load.flagged, regionIs s x.1 .running = true) :
    exec .bootLoadComplete s = .next (finishOpt s.load.bootOrg .cfgDone noUnit .ok
      { s with load := { s.load with boot := .complete, bootOrg := none, result := { s.load.result with status := .ok } }
               ext := { s.ext with done := true, error := false } }) :=
  if_pos ⟨hb, hf, List.all_eq_true.2 hr⟩

/-! ## The image header (R197 to R199) -/

/-- A change of the load in progress of which n bytes are then consumed: the store and the boot load stay (R225). -/
theorem consume_updJob (n : Nat) (f : LoadJob → LoadJob) {s : State} {j : LoadJob} (h : s.load.job = some j) :
    ∃ l : Load, l.store = s.load.store ∧ l.job = some { f j with bytes := (f j).bytes + n } ∧
      consume n (updJob f s) = { s with load := l } := by
  rw [updJob_some f s j h]
  obtain ⟨l, hstore, -, hjob, hl⟩ := consume_shape n { s with load := { s.load with job := some (f j) } } (f j) rfl
  exact ⟨l, hstore, hjob, hl⟩

section
variable {s : State} {j : LoadJob} {h : ImgHeader}

theorem exec_loadImageHeader_taken (hj : s.load.job = some j) (hn : j.hdr = none) (hr : ringHas s j 512 = true)
    (ha : headerAuth s h = true) (hf : headerForm h = true) (hi : j.images = []) (hc : h.contractRev = 1)
    (hb : j.boot = false) (hl : loadRefusal s j h = none) :
    exec (.loadImageHeader h) s = .next (consume 512 (updJob (fun j => { j with hdr := some h }) s)) := by
  show execLoadImageHeader h s = _
  rw [execLoadImageHeader, hj]
  simp [hn, hr, ha, hf, hi, hc, hb, hl]

theorem exec_loadImageHeader_noAuth (hj : s.load.job = some j) (hn : j.hdr = none) (hr : ringHas s j 512 = true)
    (ha : headerAuth s h = false) :
    exec (.loadImageHeader h) s =
      .next (endFailed (plainFail .auth 1) (consume 512 (updJob (fun j => { j with hdr := some h }) s))) := by
  show execLoadImageHeader h s = _
  rw [execLoadImageHeader, hj]
  simp [hn, hr, ha]

/-! ## Frames (R204) -/

theorem exec_loadFrameReceived_takes {x : LoadItem} (hj : s.load.job = some j) (hh : j.hdr = some h) (hf : j.fail = none)
    (hr : ringHas s j (itemBytes x) = true) :
    ∃ t k, exec (.loadFrameReceived x) s = .next t ∧ t.load.job = some k ∧
      k = { takeItem s h j x with bytes := (takeItem s h j x).bytes + itemBytes x } := by
  obtain ⟨l, -, hjob, hl⟩ := consume_updJob (itemBytes x) (fun j => if j.fail.isSome then j else takeItem s h j x) hj
  have hexec : exec (.loadFrameReceived x) s = .next (consume (itemBytes x)
      (updJob (fun j => if j.fail.isSome then j else takeItem s h j x) s)) := by
    show execLoadFrameReceived x s = _
    rw [execLoadFrameReceived, hj]
    simp [hh, hr]
  refine ⟨_, _, hexec, ?_, rfl⟩
  rw [hl]
  simpa [hf] using hjob

section
variable {r : Fin 32} {tile : Fin 36} {f : Fin 1024} {d : BitVec 1024} {crc : BitVec 32}

theorem region_in_image (ht : h.imageType = 1) (hm : h.regionMask.getLsbD r.val = true) :
    ¬((!(h.imageType == 1 && h.regionMask.getLsbD r.val)) = true) := by
  simp [ht, hm]

theorem takeItem_frame_stored (ht : h.imageType = 1) (hm : h.regionMask.getLsbD r.val = true)
    (hn : Tab.get 0 j.nextFrame r.val = 1024 * tile.val + f.val) (hc : frameCheck r.val tile.val f.val d crc = none) :
    takeItem s h j (.frame r tile f d crc) =
      updBuilt h r.val (fun c => { c with frames := Tab.set 0 c.frames (1024 * tile.val + f.val) d })
        { j with nextFrame := Tab.set 0 j.nextFrame r.val (1024 * tile.val + f.val + 1) } := by
  rw [takeItem]
  dsimp only
  rw [if_neg (region_in_image ht hm), if_neg (fun hne => hne hn), hc]

/-- A frame whose CRC is not that of its place and data fails check 2 (R204, Table SCH-13). -/
theorem takeItem_frame_crc (ht : h.imageType = 1) (hm : h.regionMask.getLsbD r.val = true)
    (hn : Tab.get 0 j.nextFrame r.val = 1024 * tile.val + f.val) (hc : crc ≠ frameCrc r.val tile.val f.val d) :
    takeItem s h j (.frame r tile f d crc) =
      { j with fail := some { status := .crc, check := 2, region := BitVec.ofNat 8 r.val,
                              tile := BitVec.ofNat 16 (regionTileCode r.val tile.val), frame := BitVec.ofNat 16 f.val } } := by
  have hcheck : frameCheck r.val tile.val f.val d crc = some (.crc, 2) := if_pos hc
  rw [takeItem]
  dsimp only
  rw [if_neg (region_in_image ht hm), if_neg (fun hne => hne hn), hcheck]
end

theorem builtOf_updBuilt (h : ImgHeader) (r : Nat) (f : Stored → Stored) (j : LoadJob) :
    builtOf h (updBuilt h r f j) r = f (builtOf h j r) := by
  rw [builtOf, updBuilt]
  dsimp only
  rw [Tab.get_set_same]
  rfl

/-! ## The end of an image (R198, R225) -/

theorem exec_loadImageEnd_passes {ok : Bool} (hj : s.load.job = some j) (hh : j.hdr = some h)
    (hr : ringHas s j (h.imageLen.toNat - j.bytes) = true) (hok : h.flags.getLsbD 0 = false ∨ ok = true)
    (hf : j.fail = none) (hw : imageWhole h j = true) :
    ∃ k, k = { j with bytes := j.bytes + (h.imageLen.toNat - j.bytes) } ∧ exec (.loadImageEnd h.payloadDigest ok) s =
      .next (afterImage k (setResult k noFail (commitImage h k (consume (h.imageLen.toNat - j.bytes) s)))) := by
  have htag : ¬(h.payloadDigest ≠ h.payloadDigest ∨ (h.flags.getLsbD 0 = true ∧ ok = false)) := by
    rintro (hne | ⟨henc, hno⟩)
    · exact hne rfl
    · rw [henc, hno] at hok
      exact hok.elim Bool.true_eq_false.mp Bool.false_ne_true
  refine ⟨_, rfl, ?_⟩
  show execLoadImageEnd h.payloadDigest ok s = _
  rw [execLoadImageEnd, hj]
  dsimp only
  rw [hh]
  dsimp only
  rw [hr, if_neg Bool.true_eq_false.mp, if_neg htag, hf]
  simp [hw]

theorem exec_loadImageEnd_noAuth {dg : BitVec 384} {ok : Bool} (hj : s.load.job = some j) (hh : j.hdr = some h)
    (hr : ringHas s j (h.imageLen.toNat - j.bytes) = true)
    (hbad : dg ≠ h.payloadDigest ∨ (h.flags.getLsbD 0 = true ∧ ok = false)) :
    exec (.loadImageEnd dg ok) s = .next (endFailed (plainFail .auth 1) (consume (h.imageLen.toNat - j.bytes) s)) := by
  show execLoadImageEnd dg ok s = _
  rw [execLoadImageEnd, hj]
  dsimp only
  rw [hh]
  dsimp only
  rw [hr, if_neg Bool.true_eq_false.mp, if_pos hbad]
end

theorem afterImage_service_load {j : LoadJob} (hb : j.boot = false) (s : State) :
    (afterImage j s).load = { s.load with job := none } := by
  rw [afterImage, hb]
  exact finishOpt_load ..

theorem commitImage_store_one {h : ImgHeader} {r : Nat} (ht : h.imageType = 1) (hm : bitsOf h.regionMask = [r]) (j : LoadJob)
    (s : State) : (commitImage h j s).load.store =
      Tab.set none s.load.store (16 * r + h.context.toNat) (some (builtOf h j r)) := by
  rw [commitImage, if_pos ht, hm]
  rfl

/-! ## Stagings (R139) -/

/-- A share is granted to the only staging, whose context has no channels and passes checks 6 and 7 (Table CTX-7). -/
theorem grantShare_stages {s : State} {j : StageJob} {c : Stored} (obs : List ChanObs) (hn : nextStage s = some j)
    (hq : s.ctx.queue = [j]) (hc : Tab.get none s.load.store (16 * j.region + j.ctx.toNat) = some c) (hch : c.chans = [])
    (hp : (regionOf s j.region).pendSw = none) (hr : runsOrHolds (regionOf s j.region) j.slot.val = false)
    (hf : footprintCheck s c.desc.footprint = none) :
    grantShare obs s = updRegion j.region (fun g => g.updSlot j.slot.val (fun _ => { st := .staging, ctx := j.ctx }))
      (emptySlot j.region j.slot.val
        { s with ctx := { s.ctx with queue := [{ j with granted := true, fast := effFast s j }] } }) := by
  rw [grantShare, hn]
  simp [hc, hch, hp, hr, hf, hq, channelCheck]

theorem exec_stagingShareGrant_serving {s : State} (obs : List ChanObs) (h : s.load.boot = .complete)
    (hl : (grantShare obs s).load = s.load) : exec (.stagingShareGrant obs) s = .next (grantShare obs s) :=
  congrArg Host.Outcome.next (bootCheck_done _ (by rw [hl, h]))

/-- The only staging ends with its slot verified (Table CTX-7). -/
theorem finishStaging_verifies {s : State} {j : StageJob} {c : Stored} {r : Nat} (hq : s.ctx.queue = [j])
    (hg : j.granted = true) (hr : j.region = r) (hp : framePaused s r = false)
    (hc : Tab.get none s.load.store (16 * j.region + j.ctx.toNat) = some c) (hd : c.damaged = []) :
    finishStaging r { crcOk := true, storeOk := true, readbackOk := true } s =
      endStage j .ok 0 0xFFFF (verifySlot j.region j.slot j.ctx c { s with ctx := { s.ctx with queue := [] } }) := by
  have hfind : s.ctx.queue.find? (fun j => j.granted && j.region == r && !framePaused s r) = some j := by
    rw [hq, List.find?_cons_of_pos (by simp [hg, hr, hp])]
  rw [finishStaging, hfind]
  simp [hc, hd, hq]

theorem exec_stagingDone_serving {s : State} {r : Fin 32} (obs : StageObs) (h : s.load.boot = .complete)
    (hl : (finishStaging r.val obs s).load = s.load) : exec (.stagingDone r obs) s = .next (finishStaging r.val obs s) :=
  congrArg Host.Outcome.next (bootCheck_done _ (by rw [hl, h]))

theorem endStage_ok_load (j : StageJob) (s : State) : (endStage j .ok 0 0xFFFF s).load = s.load := by
  rw [endStage, if_neg (by simp)]
  exact finish_load ..

/-! ## Initialisation, the workspace ring and CFG_STREAM -/

theorem endInit_init (j : InitJob) (ok : Bool) (n m : Nat) (s : State) : (endInit j ok n m s).mem.init = none := by
  rw [endInit]
  exact clearBusy_init ..

theorem exec_cfgWsWptrWrite_allowed {s : State} {src : BitVec 8} (v : W64) (hp : protDenied s src.toNat wptrAddr = false)
    (hw : wsWriter s src.toNat = true) (hm : s.noc.mesh = []) : exec (.cfgWsWptrWrite src v) s = .next (setWptr v s) := by
  have hmesh : (setWptr v s).noc.mesh = [] := by
    rw [setWptr]
    split
    · exact hm
    · exact hm
  show execCfgWsWptrWrite src v s = _
  rw [execCfgWsWptrWrite, if_neg (by simp [hp, hw]), answerWrite_none hmesh]

theorem exec_cfgWsWptrWrite_denied {s : State} {src : BitVec 8} (v : W64) (hm : s.noc.mesh = [])
    (hw : wsWriter s src.toNat = false) : exec (.cfgWsWptrWrite src v) s = .next s := by
  show execCfgWsWptrWrite src v s = _
  rw [execCfgWsWptrWrite, if_pos (.inr hw), answerWrite_none hm]

theorem bit_getLsbD {w : Nat} (b : BitVec w) (i : Nat) : bit (b.getLsbD i) = b.toNat / 2 ^ i % 2 := by
  rw [← Nat.toNat_testBit, BitVec.testBit_toNat]
  cases b.getLsbD i <;> rfl

/-- The bits of a byte, least significant first, make up the byte (R215). -/
theorem fieldsWord_bits_of_byte (b : Byte) :
    fieldsWord (((List.range 8).map (fun i => b.getLsbD i)).zipIdx.map (fun x => (x.2, bit x.1))) = b.toNat := by
  have hlt := b.isLt
  simp only [List.range, List.range.loop, List.map_cons, List.map_nil, List.zipIdx_cons, List.zipIdx_nil, fieldsWord_cons,
    fieldsWord_nil, bit_getLsbD]
  omega

theorem exec_jtagCfgStream_byte {s : State} {j : LoadJob} (b : Byte) (hj : s.load.job = some j) (hs : j.source = 2)
    (hb : s.load.jtagBits = []) :
    exec (.jtagCfgStream ((List.range 8).map (fun i => b.getLsbD i))) s = .next { s with load := { s.load with
      jtagBits := [], jtagBytes := s.load.jtagBytes ++ [b] } } := by
  have hbyte : bytesOfBits 8 ((List.range 8).map (fun i => b.getLsbD i)) = ([b], []) := by
    rw [bytesOfBits, if_neg (by simp), List.take_of_length_le (by simp), fieldsWord_bits_of_byte, BitVec.ofNat_toNat,
      BitVec.setWidth_eq]
    rfl
  show execJtagCfgStream _ s = _
  rw [execJtagCfgStream, hj]
  dsimp only
  rw [if_neg (fun hne => hne hs), hb, List.nil_append, List.length_map, List.length_range, List.length_nil, Nat.add_zero, hbyte]

/-! ## The obligation -/

/-- Settles O59: each row is one operation of the loader, whose branch its hypotheses choose; what its final event leaves
alone is read from the frame of the event. -/
theorem loadRows : Obligations.LoadRows := by
  unfold Obligations.LoadRows
  refine ⟨?flash, ?badMagic, ?ring, ?complete, ?header, ?headerAuth, ?frame, ?frameCrc, ?passes, ?digest, ?grant, ?verify,
    ?init, ?wptr, ?wptrErr, fun s src v hm hw => exec_cfgWsWptrWrite_denied v hm hw,
    fun s j b hj hs hb => exec_jtagCfgStream_byte b hj hs hb, ?noStream, ?readback⟩
  case flash =>
    intro s dir hw hj ha hb hh hn hs hd hf hm hmagic hv h1 h32 hl
    exact ⟨_, exec_bootLoadStart_flash ⟨hw, hj, ha, hb, hh, hn, hs, hd, hf⟩ hm hmagic hv h1 h32 hl, rfl, rfl, rfl⟩
  case badMagic =>
    intro s dir hw hj ha hb hh hn hs hd hf hm hmagic
    exact ⟨_, exec_bootLoadStart_badMagic ⟨hw, hj, ha, hb, hh, hn, hs, hd, hf⟩ hm hmagic, endFailed_boot_error _ rfl rfl⟩
  case ring =>
    intro s dir hw hj ha hb hh hn hs hd hf hm
    exact ⟨_, exec_bootLoadStart_ring ⟨hw, hj, ha, hb, hh, hn, hs, hd, hf⟩ hm, rfl, rfl, rfl, rfl⟩
  case complete =>
    intro s hb hf hr
    refine ⟨_, exec_bootLoadComplete_done hb hf hr, ?_⟩
    rw [finishOpt_load, (finishOpt_frame ..).same .ext rfl]
    exact ⟨rfl, rfl, rfl, rfl⟩
  case header =>
    intro s j h hj hn hr ha hf hi hc hb hl
    obtain ⟨l, hstore, hjob, hload⟩ := consume_updJob 512 (fun j => { j with hdr := some h }) hj
    refine ⟨_, exec_loadImageHeader_taken hj hn hr ha hf hi hc hb hl, ?_⟩
    rw [hload]
    exact ⟨hjob, hstore⟩
  case headerAuth =>
    intro s j h hj hn hr ha hb
    obtain ⟨l, hstore, hjob, hload⟩ := consume_updJob 512 (fun j => { j with hdr := some h }) hj
    obtain ⟨t, hfail, hnone, hst, hcheck, hkept⟩ := endFailed_service (plainFail .auth 1) { s with load := l } _ hjob hb
    refine ⟨t, ?_, hnone, hst, hcheck, hkept.trans hstore⟩
    rw [exec_loadImageHeader_noAuth hj hn hr ha, hload, hfail]
  case frame =>
    intro s j h r tile f d crc hj hh hf ht hm hn hc hr
    obtain ⟨t, k, hexec, hjob, rfl⟩ := exec_loadFrameReceived_takes (x := .frame r tile f d crc) hj hh hf hr
    rw [takeItem_frame_stored ht hm hn hc] at hjob
    have hbuilt := congrArg Stored.frames (builtOf_updBuilt h r.val
      (fun c => { c with frames := Tab.set 0 c.frames (1024 * tile.val + f.val) d })
      { j with nextFrame := Tab.set 0 j.nextFrame r.val (1024 * tile.val + f.val + 1) })
    exact ⟨t, _, hexec, hjob, hf, rfl, Tab.get_set_same 0 j.nextFrame r.val (1024 * tile.val + f.val + 1),
      (congrArg (Tab.get 0 · _) hbuilt).trans (Tab.get_set_same ..)⟩
  case frameCrc =>
    intro s j h r tile f d crc hj hh hf ht hm hn hc hr
    obtain ⟨t, k, hexec, hjob, rfl⟩ := exec_loadFrameReceived_takes (x := .frame r tile f d crc) hj hh hf hr
    rw [takeItem_frame_crc ht hm hn hc] at hjob
    exact ⟨t, _, hexec, hjob, rfl, rfl⟩
  case passes =>
    intro s j h ok r hj hh hr hok hf hw hb ht hm
    obtain ⟨k, hk, hexec⟩ := exec_loadImageEnd_passes hj hh hr hok hf hw
    refine ⟨_, hexec, ?_⟩
    rw [afterImage_service_load (by rw [hk]; exact hb)]
    refine ⟨rfl, rfl, ?_⟩
    show Tab.get none (commitImage h k _).load.store _ = _
    rw [commitImage_store_one ht hm, Tab.get_set_same, hk]
    rfl
  case digest =>
    intro s j h dg ok hj hh hr hbad hb
    obtain ⟨l, hstore, -, hjob, hload⟩ := consume_shape (h.imageLen.toNat - j.bytes) s j hj
    obtain ⟨t, hfail, hnone, hst, hcheck, hkept⟩ := endFailed_service (plainFail .auth 1) { s with load := l } _ hjob hb
    refine ⟨t, ?_, hnone, hst, hcheck, hkept.trans hstore⟩
    rw [exec_loadImageEnd_noAuth hj hh hr hbad, hload, hfail]
  case grant =>
    intro s j c obs hn hq hc hch hp hr hf hb
    have hgrant := grantShare_stages obs hn hq hc hch hp hr hf
    have hload : (grantShare obs s).load = s.load := by
      rw [hgrant, updRegion_load, (emptySlot_frame ..).same .load rfl]
    refine ⟨_, exec_stagingShareGrant_serving obs hb hload, ?_⟩
    rw [hgrant, updRegion_ctx_queue, emptySlot_queue, slot_upd]
    exact ⟨rfl, rfl, rfl⟩
  case verify =>
    intro s j c rg hq hg hr hp hc hd hb
    have hends := finishStaging_verifies hq hg hr hp hc hd
    have hload : (finishStaging rg.val { crcOk := true, storeOk := true, readbackOk := true } s).load = s.load := by
      rw [hends, endStage_ok_load, verifySlot_load]
    obtain ⟨hst, hplane⟩ := verifySlot_slot j.region j.slot j.ctx c { s with ctx := { s.ctx with queue := [] } }
    refine ⟨_, exec_stagingDone_serving _ hb hload, ?_⟩
    rw [hends, regionOf_congr ((endStage_frame ..).same .ctx rfl), (endStage_frame ..).same .ctx rfl, verifySlot_queue, ← hr,
      verifySlot_st]
    exact ⟨rfl, hst, hplane, rfl⟩
  case init =>
    intro s j o ok n m hi ho
    have hexec : exec (.memInitDone ok n m) s =
        .next (finish o .memInitDone noUnit (if ok then .ok else .crc) (endInit j ok n m s)) := by
      show execMemInitDone ok n m s = _
      rw [execMemInitDone, hi]
      dsimp only
      rw [ho]
    refine ⟨_, hexec, ?_⟩
    rw [(finish_frame ..).same .mem rfl, endInit_init]
  case wptr =>
    intro s src v hp hw hm hlo hhi
    rw [exec_cfgWsWptrWrite_allowed v hp hw hm, setWptr, if_neg (by omega)]
  case wptrErr =>
    intro s src v hp hw hm hout
    rw [exec_cfgWsWptrWrite_allowed v hp hw hm, setWptr, if_pos hout]
  case noStream =>
    intro s l hj
    show execJtagCfgStream l s = _
    rw [execJtagCfgStream, hj]
  case readback =>
    intro s j rest hr
    show ∃ t, execReadbackDone s = .next t ∧ _
    rw [execReadbackDone, hr]
    refine ⟨_, rfl, ?_, ?_⟩
    · rw [(finish_frame ..).same .ctx rfl]
    · rw [finish_load]

end Sys2Proof.Machine

/-! The CFG commands: loads, their result, the contexts of a region and readbacks (R114, R216, R221, R225 to R227, R237). -/

namespace Sys2Proof.Machine

/-! ## CFG.LOAD -/

section
variable {s : State} {src : BitVec 2}

/-- CFG.LOAD after a boot load that is complete begins a load in service (R216, R221). -/
theorem bodyCfgLoad_begins (off : BitVec 32) (o : Origin) (h3 : src ≠ 3) (hd : domCut s 49 = false) (hj : s.load.job = none)
    (hb : s.load.boot = .complete) :
    bodyCfgLoad src.toNat off.toNat o s =
      { state := startLoad (some o) src false (if src = 0 then [(off.setWidth 64, 0)] else []) s, status := .pending } := by
  have h3' : src.toNat ≠ 3 := fun e => h3 (BitVec.eq_of_toNat_eq e)
  have h0 : (src.toNat = 0) = (src = 0) := propext (BitVec.toNat_inj (y := 0#2))
  rw [bodyCfgLoad, hd, hj, hb, if_neg h3', if_neg Bool.false_ne_true]
  simp only [h0, BitVec.ofNat_toNat, BitVec.setWidth_eq]
  rfl

theorem bodyCfgLoad_busy (off : BitVec 32) (o : Origin) (h3 : src ≠ 3) (hd : domCut s 49 = false) (hj : s.load.job ≠ none) :
    bodyCfgLoad src.toNat off.toNat o s = refuse s .busy := by
  have h3' : src.toNat ≠ 3 := fun e => h3 (BitVec.eq_of_toNat_eq e)
  rw [bodyCfgLoad, hd, if_neg h3', if_neg Bool.false_ne_true, if_pos (by simp [Option.isSome_iff_ne_none.2 hj])]
end

/-! ## CFG.DELETE -/

section
variable {s : State} {mask : BitVec 32} {c : BitVec 4}

theorem bodyCfgDelete_one {g : Nat} (o : Origin) (hm : maskRegions mask.toNat = [g])
    (hc : Tab.get none s.load.store (16 * g + c.toNat) ≠ none) (hu : contextUsed s g c.toNat = false)
    (hl : loadingContext s g c.toNat = false) :
    bodyCfgDelete mask.toNat c.toNat o s = done { s with load := { s.load with
      store := Tab.set none s.load.store (16 * g + c.toNat) none } } := by
  rw [bodyCfgDelete, hm, if_neg (by simp [hc]), if_neg (by simp [hu, hl])]
  rfl

/-- An empty mask, or a region without the context, is refused (DEDUCED, log 33). -/
theorem bodyCfgDelete_absent (o : Origin) (h : maskRegions mask.toNat = [] ∨
      (∃ g ∈ maskRegions mask.toNat, Tab.get none s.load.store (16 * g + c.toNat) = none)) :
    bodyCfgDelete mask.toNat c.toNat o s = refuse s .badArg := by
  rw [bodyCfgDelete]
  refine if_pos (h.imp_right fun ⟨g, hg, hnone⟩ => List.any_eq_true.2 ⟨g, hg, ?_⟩)
  rw [hnone]
  rfl
end

/-! ## CFG.READBACK -/

section
variable {s : State} {g : BitVec 5} {n : BitVec 4} {tile : BitVec 11} {f : BitVec 10} {k : BitVec 11}
  {o : BitVec 27} {x : Stored}

/-- The operands of a readback of a stored context pass the first check (Table CFG-18). -/
theorem readback_operands_legal (ht : tileOfCode g.toNat tile.toNat ≠ none) (hk : k ≠ 0) (hf : f.toNat + k.toNat ≤ 1024)
    (ho : o.toNat + 132 * k.toNat ≤ 2 ^ 27) :
    ¬(0 = 3 ∨ (0 ≠ 0 ∧ 4 ≤ n.toNat) ∨ tileOfCode g.toNat tile.toNat = none ∨ k.toNat = 0 ∨
      (if 0 = 2 then 8 else 1024) < f.toNat + k.toNat ∨ 2 ^ 27 < o.toNat + 132 * k.toNat) := by
  have hk0 : k.toNat ≠ 0 := fun e => hk (BitVec.eq_of_toNat_eq e)
  simp [ht, hk0]
  omega

theorem readEncrypted_stored (hx : Tab.get none s.load.store (16 * g.toNat + n.toNat) = some x) :
    readEncrypted s g.toNat 0 n.toNat = x.encrypted := by
  rw [readEncrypted]
  simp only [if_true, hx]

theorem bodyCfgReadback_queued (org : Origin) (ht : tileOfCode g.toNat tile.toNat ≠ none) (hk : k ≠ 0)
    (hf : f.toNat + k.toNat ≤ 1024) (ho : o.toNat + 132 * k.toNat ≤ 2 ^ 27) (hd : domCut s 49 = false)
    (hx : Tab.get none s.load.store (16 * g.toNat + n.toNat) = some x) (he : x.encrypted = false) (h3 : s.sec.life ≠ 3)
    (h4 : s.sec.life ≠ 4) :
    bodyCfgReadback g.toNat 0 n.toNat tile.toNat f.toNat k.toNat o.toNat org s =
      { state := { s with ctx := { s.ctx with reads := s.ctx.reads ++ [
          { org := org, region := g.toNat, source := 0, number := n, tile := tile, frame := f, count := k, wsOffset := o }] } },
        status := .pending } := by
  rw [bodyCfgReadback, if_neg (readback_operands_legal ht hk hf ho), hd, if_neg Bool.false_ne_true, hx, if_neg (by simp),
    readEncrypted_stored hx, he, if_neg (not_or.2 ⟨h3, not_or.2 ⟨h4, Bool.false_ne_true⟩⟩), if_neg (by simp), if_neg (by simp)]
  simp only [BitVec.ofNat_toNat, BitVec.setWidth_eq]
  rfl

theorem bodyCfgReadback_denied (org : Origin) (ht : tileOfCode g.toNat tile.toNat ≠ none) (hk : k ≠ 0)
    (hf : f.toNat + k.toNat ≤ 1024) (ho : o.toNat + 132 * k.toNat ≤ 2 ^ 27) (hd : domCut s 49 = false)
    (hx : Tab.get none s.load.store (16 * g.toNat + n.toNat) = some x)
    (he : x.encrypted = true ∨ s.sec.life = 3 ∨ s.sec.life = 4) :
    bodyCfgReadback g.toNat 0 n.toNat tile.toNat f.toNat k.toNat o.toNat org s = refuse s .denied := by
  rw [bodyCfgReadback, if_neg (readback_operands_legal ht hk hf ho), hd, if_neg Bool.false_ne_true, hx, if_neg (by simp),
    readEncrypted_stored hx]
  exact if_pos (or_rotate.1 he)
end

/-! ## The obligation -/

/-- Settles O60: each body's answer under the hypotheses, and the reply that such an answer gives on a ready channel. -/
theorem cfgCommandsReply : Obligations.CfgCommandsReply := by
  unfold Obligations.CfgCommandsReply
  refine ⟨?load, fun s r off h => serve_refuse h rfl,
    fun s r src off h h3 hd hj => serve_refuse h (bodyCfgLoad_busy off _ h3 hd hj), fun s r h => serve_report h rfl, ?list,
    fun s r mask c g h hm hc hu hl => serve_ok h (bodyCfgDelete_one _ hm hc hu hl),
    fun s r mask c h ha => serve_refuse h (bodyCfgDelete_absent _ ha),
    fun s r g n tile f k o x h ht hk hf ho hd hx he h3 h4 =>
      serve_open_ctx h (bodyCfgReadback_queued _ ht hk hf ho hd hx he h3 h4),
    fun s r g n tile f k o x h ht hk hf ho hd hx he => serve_refuse h (bodyCfgReadback_denied _ ht hk hf ho hd hx he)⟩
  case load =>
    intro s r src off h h3 hd hj hb
    obtain ⟨t, hexec, hans, hframe⟩ := serve_fact_open h (bodyCfgLoad_begins off _ h3 hd hj hb) rfl rfl rfl
      (taken_busy' r 0x0201 _ s _ rfl)
    refine ⟨t, hexec, hans, ?_⟩
    rw [hframe.same .load rfl]
    exact ⟨rfl, rfl⟩
  case list =>
    rintro s r g here h rfl
    exact serve_report h rfl

end Sys2Proof.Machine

/-! Port N, the patrol reader, column repair and the clearing of a sector (R152, R160, R162, R173, R174, R187, R596). -/

namespace Sys2Proof.Machine

/-! ## A request at its sector endpoint -/

/-- A request at port N that has taken no cycle yet. -/
def NReq.fresh (q : NocReq) : NReq := { req := q, done := 0, data := [], poison := false, held := [], atomic := none }

section
variable {s : State} {q : NocReq} {g : Nat} (hm : s.noc.mesh = [q]) (hd : destOf s q.addr.toNat = .sector g)
include hm hd

/-- A request that its endpoint does not refuse waits at its block (R596). -/
theorem exec_nocBlockRequest_passed (hr : sectorRefusal s g q = none) :
    exec (.nocBlockRequest q.src q.tag) s = .next (updBlock g (fun b => { b with nq := b.nq ++ [NReq.fresh q] })
      { s with noc := { s.noc with mesh := [] } }) := by
  show execNocBlockRequest q.src q.tag s = _
  rw [execNocBlockRequest, meshReq_one hm]
  dsimp only
  rw [hd]
  dsimp only
  rw [hr, dropMesh_one hm]
  rfl

/-- A request that its endpoint refuses is answered by the endpoint (R596). -/
theorem exec_nocBlockRequest_refused {st : Status} (hr : sectorRefusal s g q = some st)
    (hl : rspLost s q.src.toNat q.addr.toNat = false) :
    exec (.nocBlockRequest q.src q.tag) s = .next { s with noc := { s.noc with
      mesh := [], rsps := s.noc.rsps ++ [{ src := q.src, tag := q.tag, status := st, data := [] }] } } := by
  show execNocBlockRequest q.src q.tag s = _
  rw [execNocBlockRequest, meshReq_one hm]
  dsimp only
  rw [hd]
  dsimp only
  rw [hr]
  show Host.Outcome.next (respond q st [] (dropMesh q s)) = _
  rw [dropMesh_one hm, respond_go _ _ ((rspLost_noc ..).trans hl)]
end

/-! ## A port N cycle -/

/-- The block on which the port N cycle of this fc acts. -/
def portNBlock (s : State) (g : Nat) : Block := { blockNow s g with nAt := some s.clk.fc }

section
variable {s : State} {g : Fin 1152} {u : WordUpset} {q : NReq} {qs : List NReq} (hclk : fabricClock s = true)
  (hn : (blockNow s g.val).nAt = none) (hg : s.dsp.groupQ = []) (hq : (blockNow s g.val).nq = q :: qs)
  (hav : unavailable s g.val = false)
include hclk hn hg hq hav

/-- A cycle in which port A or B is active is deferred and counted as a conflict (R160). -/
theorem exec_portNCycle_deferred (hab : (blockNow s g.val).abAt = some s.clk.fc) :
    exec (.portNCycle g u) s = .next (countConflict (sectorOf g.val) q.req.src.toNat
      (updBlock g.val (fun _ => portNBlock s g.val) s)) := by
  show execPortNCycle g u s = _
  rw [execPortNCycle]
  dsimp only
  rw [if_neg (by simp [hclk, hn, hg]), hq]
  dsimp only
  rw [if_neg (ne_true_of_eq_false hav), if_pos (.inl hab), ← hq]
  rfl

/-- A cycle that ends its request, and whose check finds no error, answers the request (R160, R162). -/
theorem exec_portNCycle_ends {x : NStep} {st : Status} {d : List W64} (hab : (blockNow s g.val).abAt = none)
    (hw : mergeWaits s.clk.fc q (blockNow s g.val) = false) (hx : nStep s.clk.fc u s.free q (portNBlock s g.val) = x)
    (hrsp : x.rsp = some (st, d)) (hecc : ∀ w ∈ x.ecc, w.1.ecc = .clean) :
    exec (.portNCycle g u) s = .next (respond q.req st d (updBlock g.val (fun _ => x.block) (useFree 1 s))) := by
  show execPortNCycle g u s = _
  rw [execPortNCycle]
  dsimp only
  rw [if_neg (by simp [hclk, hn, hg]), hq]
  dsimp only
  rw [if_neg (ne_true_of_eq_false hav), if_neg (by simp [hab, hw]), ← hq]
  generalize hy : nStep _ _ _ _ _ = y
  obtain rfl : y = x := hy.symm.trans hx
  rw [hrsp]
  dsimp only
  rw [noteEcc_of_forall_clean _ hecc]
end

/-- In plain dual-port RAM mode every form of read is served word by word (R162, Table MEM-5). -/
theorem nStep_of_ram_read {t n : Nat} {u : WordUpset} {q : NReq} {b : Block} (hm : b.mode = .ram) (hop : q.req.op = .read) :
    nStep t u n q b = nRead t u q b := by
  have hform : formCheck b q.req = none := by rw [formCheck]; exact if_pos hm
  have hram : isRam b (firstWord q.req) = true := by rw [isRam, hm]; rfl
  rw [nStep, hform, ite_self, hop]
  exact if_pos hram

/-- A read of one error-free word ends in its first cycle with the word (R163). -/
theorem nRead_one_word {t : Nat} {q : NocReq} {b : Block} (hop : q.op = .read) (hlen : q.len = 0)
    (hc : (seenWord t b (firstWord q)).ecc = .clean) :
    nRead t .none (NReq.fresh q) b = {
      block := { b with nq := b.nq.drop 1 }
      rsp := some (.ok, [(seenWord t b (firstWord q)).data])
      ecc := some (seenWord t b (firstWord q), firstWord q) } := by
  have hwords : reqWords q = 1 := by rw [reqWords, hop, hlen]; rfl
  have hstruck : struckRead t .none (firstWord q) b = (seenWord t b (firstWord q), b) := rfl
  simp only [nRead, NReq.fresh, Nat.add_zero, hstruck, hwords, hc]
  rfl

theorem rspLost_block (g n : Nat) (f : Block → Block) (s : State) (a b : Nat) :
    rspLost (updBlock g f (useFree n s)) a b = rspLost s a b := by
  refine rspLost_of ?_ ?_ ?_ ?_ a b <;> rfl

theorem countConflict_noc (k src : Nat) (s : State) : (countConflict k src s).noc = s.noc :=
  (countConflict_frame ..).same .noc rfl

theorem blockOf_countConflict (k src : Nat) (s : State) (g : Nat) : blockOf (countConflict k src s) g = blockOf s g := rfl

/-! ## The patrol reader -/

theorem nPut_of_no_writes {b : Block} (t a : Nat) (w : W64) (h : b.writes = []) :
    nPut t a w b = { b with writes := [{ at_ := t, port := .n, addr := a, word := { data := w } }] } := by
  rw [nPut, h]
  rfl

section
variable {s : State} {g : Fin 1152} (hclk : fabricClock s = true) (hav : unavailable s g.val = false)
include hclk hav

/-- In an idle port N cycle the patrol reader checks the next word, and where it finds no error just moves on (R173). -/
theorem exec_patrolRead_clean (hen : (blockNow s g.val).patrolEn = true) (hab : (blockNow s g.val).abAt = none)
    (hn : (blockNow s g.val).nAt = none) (hq : (blockNow s g.val).nq = []) (hp : (blockNow s g.val).patrolAt = none)
    (hm : (blockNow s g.val).mode = .ram)
    (hc : (seenWord s.clk.fc (blockNow s g.val) (blockNow s g.val).patrol.toNat).ecc = .clean) :
    exec (.patrolRead g .none) s = .next (updBlock g.val (fun _ => { blockNow s g.val with
      patrol := (blockNow s g.val).patrol + 1, patrolAt := some s.clk.fc, nAt := some s.clk.fc, patrolFix := none }) s) := by
  have hram : isRam (blockNow s g.val) (blockNow s g.val).patrol.toNat = true := by rw [isRam, hm]; rfl
  have hstruck : struckRead s.clk.fc .none (blockNow s g.val).patrol.toNat (blockNow s g.val) =
    (seenWord s.clk.fc (blockNow s g.val) (blockNow s g.val).patrol.toNat, blockNow s g.val) := rfl
  show execPatrolRead g .none s = _
  rw [execPatrolRead]
  dsimp only
  rw [if_neg (by simp [hclk, hav, hen, hab, hn, hq, hp]), if_pos hram, hstruck, note_clean _ _ _ _ _ _ hc]
  dsimp only
  rw [hc]
  rfl

/-- A corrected word is written 2 fc after its read, where no write is in flight (R174). -/
theorem exec_patrolWriteback_due {a p : Nat} (ht : s.clk.fc = p + 2) (hf : (blockNow s g.val).patrolFix = some (a, p))
    (hw : (blockNow s g.val).writes = []) :
    exec (.patrolWriteback g) s = .next (updBlock g.val (fun _ => { blockNow s g.val with
      patrolFix := none
      writes := [{ at_ := s.clk.fc, port := .n, addr := a, word := { data := (seenWord p (blockNow s g.val) a).data } }] }) s) := by
  show execPatrolWriteback g s = _
  rw [execPatrolWriteback]
  dsimp only
  rw [hf]
  dsimp only
  rw [if_neg (by simp [hclk, hav, ht])]
  have hmet : ¬(blockNow s g.val).writes.any (fun w => w.addr == a && (w.at_ == p || w.at_ == p + 1)) = true := by simp [hw]
  exact congrArg (fun b => Host.Outcome.next (updBlock g.val (fun _ => b) s))
    ((if_neg hmet).trans (nPut_of_no_writes (b := { blockNow s g.val with patrolFix := none }) _ _ _ hw))
end

/-! ## Column repair -/

/-- Below the temperature limit a change of the repair record is written at once (R544). -/
theorem writeRecord_rr_cols {s : State} (f : RepairRec → RepairRec) (ht : tooHot s = false) :
    (writeRecord f s).start.rr.cols = (f (recordNow s)).cols := by
  rw [writeRecord]
  exact congrArg (fun x : State => x.start.rr.cols) (if_neg (ne_true_of_eq_false ht))

/-- A column with 16 corrections is marked as done for this start, and takes the first spare of its group where that is free
(R187). -/
theorem exec_memColumn_repairs {s : State} {g : Fin 1152} {gr : Fin 9} {c : Fin 64} {k : Nat}
    (hk : k = 576 * g.val + 64 * gr.val + c.val) (h16 : 16 ≤ Tab.get 0 s.mem.colErrs k)
    (hd : s.mem.colDone.contains k = false) (hs : spareInUse s g.val gr.val 0 = false)
    (hroom : (recordNow s).cols.length < 512) (ht : tooHot s = false) :
    ∃ t, exec (.memColumn g gr c) s = .next t ∧ t.mem.colDone = s.mem.colDone ++ [k] ∧
      t.start.rr.cols = (recordNow s).cols ++ [colEntry g.val gr.val c.val 0] := by
  subst hk
  have hspare : (List.range 2).find? (fun i => !spareInUse s g.val gr.val i) = some 0 :=
    List.find?_cons_of_pos (by rw [hs]; rfl)
  show ∃ t, execMemColumn g gr c s = .next t ∧ _
  rw [execMemColumn]
  dsimp only
  rw [if_neg (by rw [hd]; simp; omega), hspare]
  dsimp only
  refine ⟨_, congrArg _ (congrArg _ (if_pos hroom)), ?_, ?_⟩
  · rw [(raise_frame ..).same .mem rfl, (writeRecord_frame ..).same .mem rfl]
  · rw [(raise_frame ..).same .start rfl]
    exact writeRecord_rr_cols _ ht

/-! ## The clearing of a sector -/

theorem sectorBlocks_nodup (k : Nat) : (sectorBlocks k).Nodup := List.nodup_range.filter _

theorem mem_sectorBlocks {g k : Nat} : g ∈ sectorBlocks k ↔ g < 1152 ∧ sectorOf g = k := by simp [sectorBlocks]

/-- The end of a sector's clearing, the only one in progress, leaves every block of the sector cleared (R152). -/
theorem exec_sectorClearDone_one {s : State} {k : Fin 8} (h : s.mem.clearing = [k.val]) :
    ∃ t, exec (.sectorClearDone k) s = .next t ∧ t.mem.clearing = [] ∧
      ∀ g, g < 1152 → sectorOf g = k.val → blockOf t g = clearedBlock (blockOf s g) := by
  refine ⟨_, if_pos (by simp [h]), ?_, fun g hg hsec => ?_⟩
  · rw [clear_clearing]
    simp [h]
  · rw [clear_each _ (sectorBlocks_nodup k.val), if_pos (mem_sectorBlocks.2 ⟨hg, hsec⟩)]
    rfl

/-! ## The obligation -/

/-- Settles O47: each row is one operation, whose branch its hypotheses choose. -/
theorem blockRows : Obligations.BlockRows := by
  unfold Obligations.BlockRows
  refine ⟨fun s q g hm hd hr => exec_nocBlockRequest_passed hm hd hr,
    fun s q g st hm hd hr hl => exec_nocBlockRequest_refused hm hd hr hl, ?read, ?deferred,
    fun s g hclk hav hen hab hn hq hp hm hc => exec_patrolRead_clean hclk hav hen hab hn hq hp hm hc,
    fun s g a p hclk hav ht hf hw => exec_patrolWriteback_due hclk hav ht hf hw,
    fun s g gr c h16 hd hs hroom ht => exec_memColumn_repairs rfl h16 hd hs hroom ht,
    fun s k h => exec_sectorClearDone_one h⟩
  case read =>
    intro s g q hclk hn hg hq hav hab hm hop hlen hc hl
    have hexec := exec_portNCycle_ends hclk hn hg hq hav hab (by simp [mergeWaits, hop])
      ((nStep_of_ram_read (b := portNBlock s g.val) hm hop).trans (nRead_one_word hop hlen hc)) rfl (by rintro _ ⟨⟩; exact hc)
    refine ⟨_, hexec, ?_, ?_⟩
    · rw [blockOf_congr ((respond_frame ..).same .mem rfl), blockOf_updBlock_same]
      exact congrArg (List.drop 1) hq
    · change (respond q _ _ _).noc.rsps = _
      rw [respond_go _ _ ((rspLost_block ..).trans hl)]
      rfl
  case deferred =>
    intro s g u q hclk hn hg hq hav hab
    refine ⟨_, exec_portNCycle_deferred hclk hn hg hq hav hab, ?_, countConflict_noc ..⟩
    rw [blockOf_countConflict, blockOf_updBlock_same]
    rfl

end Sys2Proof.Machine

/-! The commands and the registers of the memory layer (R166, R167, R179, R183, R184, R191, R192). -/

namespace Sys2Proof.Machine

/-! ## CFG.MEM_MODE -/

section
variable {s : State} {g : BitVec 11} {m : BitVec 3} {c : BitVec 4} {i : BitVec 14}

/-- Legal values are set on a block that is there, powered and in no region's use (R183, R192). -/
theorem bodyCfgMemMode_sets {mode : QMode} (pe : Bool) (o : Origin) (hl : legalMode m.toNat c.toNat i.toNat = some mode)
    (hg : g.toNat < 1152) (hr : blockRetired s g.toNat = false) (hd : domCut s (sectorDom (sectorOf g.toNat)) = false)
    (hu : blockInUse s g.toNat = false) :
    bodyCfgMemMode g.toNat m.toNat c.toNat i.toNat pe o s = done (setMode g.toNat mode c.toNat i.toNat pe s) := by
  rw [bodyCfgMemMode, hl]
  dsimp only
  rw [if_neg (Nat.not_le.2 hg), hr, if_neg Bool.false_ne_true, hd, if_neg Bool.false_ne_true, hu, if_neg Bool.false_ne_true]

theorem bodyCfgMemMode_illegal (pe : Bool) (o : Origin) (hl : legalMode m.toNat c.toNat i.toNat = none) :
    bodyCfgMemMode g.toNat m.toNat c.toNat i.toNat pe o s = refuse s .badArg := by
  rw [bodyCfgMemMode, hl]
end

/-- A block takes the mode, the capacity and the credits it is set to, and its queue is empty (R183). -/
theorem setMode_sets (g : Nat) (m : QMode) (c i : Nat) (pe : Bool) (s : State) :
    (blockOf (setMode g m c i pe s) g).mode = m ∧ (blockOf (setMode g m c i pe s) g).capLog2 = c ∧
      (blockOf (setMode g m c i pe s) g).credits = i ∧ (blockOf (setMode g m c i pe s) g).creditInit = i ∧
      (blockOf (setMode g m c i pe s) g).patrolEn = pe ∧ (blockOf (setMode g m c i pe s) g).entries = [] ∧
      (blockOf (setMode g m c i pe s) g).inb = [] ∧ (blockOf (setMode g m c i pe s) g).outb = [] := by
  obtain ⟨W, hblock⟩ := setMode_block g m c i pe s
  rw [hblock]
  exact ⟨rfl, rfl, rfl, rfl, rfl, rfl, rfl, rfl⟩

/-! ## CFG.MEM_INIT -/

theorem startInit_init (o : Option Origin) (k : Nat) (l : List BlockEntry) (s : State) :
    (startInit o k l s).mem.init = some { org := o, index := k, entries := l } :=
  forEach_keep (fun s => s.mem.init) (fun g => updBlock g (fun b => { b with initBusy := true })) (fun _ _ => rfl) _ _

/-- A stored image begins an initialisation of its blocks where all of them are powered and in no region's use, and no other
is in progress (R191). -/
theorem bodyCfgMemInit_begins {s : State} {k : BitVec 16} {im : InitImage} (o : Origin) (hk : k.toNat < 256)
    (hx : Tab.get none s.load.inits k.toNat = some im) (hd : domCut s 49 = false)
    (hb : ∀ g ∈ initBlocks im.entries, domCut s (sectorDom (sectorOf g)) = false ∧ blockInUse s g = false)
    (hi : s.mem.init = none) :
    bodyCfgMemInit k.toNat o s = { state := startInit (some o) k.toNat im.entries s, status := .pending } := by
  have hcut : (initBlocks im.entries).any (fun g => domCut s (sectorDom (sectorOf g))) = false :=
    List.any_eq_false.2 fun g hg => ne_true_of_eq_false (hb g hg).1
  have huse : (initBlocks im.entries).any (blockInUse s) = false :=
    List.any_eq_false.2 fun g hg => ne_true_of_eq_false (hb g hg).2
  rw [bodyCfgMemInit, if_pos hk, hx]
  dsimp only
  rw [hd, hcut, Bool.or_false, if_neg Bool.false_ne_true, huse, if_neg Bool.false_ne_true, hi]
  rfl

/-! ## Registers -/

theorem blockOf_addCreditWrite {s : State} {g : Nat} (v : Nat) (hm : (blockNow s g).mode = .credit) :
    blockOf (addCreditWrite g v s) g = { blockNow s g with credPend := (blockNow s g).credPend + v % 2 ^ 14 } := by
  rw [addCreditWrite, blockOf_updBlock_same]
  exact if_pos hm

theorem exec_qctlCreditReturnWrite_allowed {s : State} {src : BitVec 8} {g : Fin 1152} (v : BitVec 32)
    (hp : protDenied s src.toNat (qctlAddr g.val + 0xC) = false) (hm : s.noc.mesh = []) :
    exec (.qctlCreditReturnWrite src g v) s = .next (addCreditWrite g.val v.toNat s) := by
  show execQctlCreditReturnWrite src g v s = _
  rw [execQctlCreditReturnWrite, hp, if_neg Bool.false_ne_true, answerWrite_none (s := addCreditWrite g.val v.toNat s) hm]

/-- A counter whose source has been set counts that source (R166, R167). -/
theorem cselOf_setCsel (k i : Nat) (v : Byte) (s : State) : cselOf (setCsel k i v s) k i = v.toNat := by
  rw [cselOf, setCsel]
  dsimp only
  rw [Tab.get_set_same]
  by_cases h : v.toNat = i
  · rw [if_pos h]
    exact h.symm
  · rw [if_neg h]

/-- A counter whose source has been set begins at 0 (R167). -/
theorem ccnt_setCsel (k i : Nat) (v : Byte) (s : State) : Tab.get 0 (setCsel k i v s).mem.ccnt (64 * k + i) = 0 := by
  rw [setCsel, Tab.get_set_same]

section
variable {s : State} (k : Fin 8) (i : Fin 64) (v : BitVec 32) (hm : s.noc.mesh = [])
include hm

theorem exec_memCselWrite_barista :
    exec (.memCselWrite 72 k i v) s = .next (setCsel k.val i.val (v.extractLsb' 0 8) s) := by
  show execMemCselWrite 72 k i v s = _
  rw [execMemCselWrite, if_pos rfl, answerWrite_none (s := setCsel _ _ _ s) hm]

theorem exec_memCselWrite_denied {src : BitVec 8} (h : src ≠ 72) : exec (.memCselWrite src k i v) s = .next s := by
  show execMemCselWrite src k i v s = _
  rw [execMemCselWrite, if_neg h, answerWrite_none hm]

theorem exec_memCctlClear_barista :
    exec (.memCctlClear 72 k v) s = .next (if v.getLsbD 0 then clearConflicts k.val s else s) := by
  have hmesh : (if v.getLsbD 0 then clearConflicts k.val s else s).noc.mesh = [] := by
    split
    · exact hm
    · exact hm
  show execMemCctlClear 72 k v s = _
  rw [execMemCctlClear, if_pos rfl, answerWrite_none hmesh]

theorem exec_memCctlClear_denied {src : BitVec 8} (h : src ≠ 72) : exec (.memCctlClear src k v) s = .next s := by
  show execMemCctlClear src k v s = _
  rw [execMemCctlClear, if_neg h, answerWrite_none hm]
end

/-! ## LOG.MEM_CONFLICT -/

theorem clearConflicts_taken (k : Nat) (r : Req) (cmd : Nat) (args : List Byte) (s : State) :
    withChans s.mbx.chans (clearConflicts k (taken r cmd args s)) = clearConflicts k s := by
  unfold clearConflicts taken withChans
  rfl

/-! ## The obligation -/

/-- Settles O48: each body's answer under the hypotheses, and the reply that such an answer gives on a ready channel; a
register write is answered to no one, since the mesh is empty. -/
theorem memCommandsReply : Obligations.MemCommandsReply := by
  unfold Obligations.MemCommandsReply
  refine ⟨?mode, fun s r g m c i pe h hl => serve_refuse h (bodyCfgMemMode_illegal pe _ hl),
    fun s r g h hg => serve_report h (if_neg (Nat.not_le.2 hg)), ?init, ?credits, ?csel,
    fun s src k i v h hm => ⟨exec_memCselWrite_denied k i v hm h, exec_memCctlClear_denied k v hm h⟩,
    fun s k v hm => exec_memCctlClear_barista k v hm, ?conflicts⟩
  case mode =>
    intro s r g m c i pe mode h hl hg hr hd hu
    obtain ⟨t, hexec, hans, hframe⟩ := serve_fact h (bodyCfgMemMode_sets pe _ hl hg hr hd hu) (fun e => nomatch e) rfl rfl
      (taken_busy' r 0x0221 _ s _ ((setMode_frame ..).same .chans rfl))
    refine ⟨t, hexec, hans, ?_⟩
    rw [blockOf_congr (hframe.same .mem rfl)]
    exact setMode_sets ..
  case init =>
    intro s r k im h hk hx hd hb hi
    obtain ⟨t, hexec, hans, hframe⟩ := serve_fact_open h (bodyCfgMemInit_begins _ hk hx hd hb hi) rfl rfl rfl
      (taken_busy' r 0x0220 _ s _ ((startInit_frame ..).same .chans rfl))
    refine ⟨t, hexec, hans, ?_⟩
    rw [hframe.same .mem rfl]
    exact startInit_init ..
  case credits =>
    intro s src g v hp hm hmode
    refine ⟨_, exec_qctlCreditReturnWrite_allowed v hp hm, ?_⟩
    rw [blockOf_addCreditWrite _ hmode]
  case csel => exact fun s k i v hm => ⟨_, exec_memCselWrite_barista k i v hm, cselOf_setCsel .., ccnt_setCsel ..⟩
  case conflicts =>
    intro s r k c h
    cases c with
    | false => exact serve_report h rfl
    | true =>
      rw [if_pos rfl, ← clearConflicts_taken]
      exact serve_ok h rfl

end Sys2Proof.Machine

/-! Loss of power, the rise of PWR_GOOD, RESET_N and its release (R210, R443, R513, R522, R523, R554, R564, R570, R571). -/

namespace Sys2Proof.Machine

/-! ## What lasts, and what does not -/

theorem lasting_volatileReset (s : State) : VolatileReset (lasting s) :=
  ⟨rfl, rfl, rfl, rfl, rfl, rfl, rfl, rfl, rfl, rfl, rfl⟩

theorem lasting_nvmKept (s : State) : NvmKept s (lasting s) :=
  ⟨rfl, rfl, rfl, rfl, rfl, rfl, rfl, rfl, rfl, rfl, rfl, rfl⟩

/-- With no write in progress there is nothing to cut off, so what outlives a loss of power is what stood before it. -/
theorem lasting_cutWrites_nvmKept {s : State} (h : writesIdle s = true) : NvmKept s (lasting (cutWrites s)) := by
  rw [cutWrites_idle h]
  exact lasting_nvmKept (useFree 1 s)

theorem powerLost_volatileReset (s : State) : VolatileReset (powerLost s) := lasting_volatileReset (cutWrites s)

theorem powerLost_nvmKept {s : State} (h : writesIdle s = true) : NvmKept s (powerLost s) := lasting_cutWrites_nvmKept h

theorem domOf_powerLost (s : State) (d : Nat) : domOf (powerLost s) d = {} := rfl

theorem fullReset_volatileReset (s : State) : VolatileReset (fullReset s) := lasting_volatileReset (cutWrites s)

theorem fullReset_nvmKept {s : State} (h : writesIdle s = true) : NvmKept s (fullReset s) := lasting_cutWrites_nvmKept h

/-! ## The domains that RESET_N leaves -/

theorem latched_keptDoms (s : State) {d : Nat} (hd : d < 96) : (Tab.get {} (keptDoms s) d).latched = (domOf s d).latched := by
  rw [keptDoms, Tab.get_foldl_upd _ _ _ _ _ List.nodup_range, if_pos (List.mem_range.2 hd)]

/-- A latched trip keeps a domain off, except the three that are on under RESET_N (R513). -/
theorem st_keptDoms_of_latched (s : State) {d : Nat} (hd : d < 96) (hl : (domOf s d).latched = true)
    (h0 : d ≠ 0) (h1 : d ≠ 1) (h21 : d ≠ 21) : (Tab.get {} (keptDoms s) d).st = .tripped := by
  have hfixed : ¬(d = 0 ∨ d = 1 ∨ d = 21) := by omega
  rw [keptDoms, Tab.get_foldl_upd _ _ _ _ _ List.nodup_range, if_pos (List.mem_range.2 hd)]
  dsimp only
  rw [if_neg hfixed, if_pos hl]

theorem domOf_fullReset {s : State} (h : writesIdle s = true) (d : Nat) :
    domOf (fullReset s) d = Tab.get {} (keptDoms s) d := by
  rw [fullReset, cutWrites_idle h]
  rfl

/-! ## The rows of the supplies and of RESET_N -/

theorem exec_powerCycle_powered {s : State} (h : s.ext.pwrGood = true) : exec .powerCycle s = .next (powerLost s) := if_pos h

theorem exec_supplyOutOfTolerance_powered {s : State} (h : s.ext.pwrGood = true) :
    exec .supplyOutOfTolerance s = .next (powerLost s) := if_pos h

theorem exec_pwrGoodRise_unpowered {s : State} (h : s.ext.pwrGood = false) :
    exec .pwrGoodRise s = .next { lasting s with ext := { pwrGood := true } } := if_neg (ne_true_of_eq_false h)

theorem exec_resetNAssert_released {s : State} (hg : s.ext.pwrGood = true) (hr : s.ext.resetReleased = true) :
    exec .resetNAssert s = .next (fullReset s) := if_pos ⟨hg, hr⟩

/-! ## A start that stays in reset -/

theorem stayInReset_start {l : List BistFail} (hl : l ≠ []) (s : State) :
    (stayInReset l s).start.held = true ∧ (stayInReset l s).start.step = s.start.step ∧ (stayInReset l s).ext.error = true :=
  ⟨(stay_fold l s).2 (Or.inr hl), (stay_fold l s).1, rfl⟩

/-! ## The steps of a start -/

/-- The state of a start in step 3, with MODE sampled and what flash holds (R210). -/
def stepThree (mode : BitVec 3) (flashA flashB : Option FwImage) (s : State) : State :=
  updStart (fun x => { x with step := 3 }) (sampleMode mode flashA flashB s)

/-- The state in which the ROM looks for firmware: steps 4 and 5 are over, and what step 7 will meet is known. -/
def stepSix (fails : List BistFail) (o : StartObs) (s : State) : State :=
  updStart (fun x => { x with step := 6, obs := some o }) (stepsFourFive fails s)

/-- A release of RESET_N by its steps: a fatal failure ends the start in step 3, else the ROM looks for firmware. -/
theorem exec_resetNRelease_held {s : State} (mode : BitVec 3) (fails : List BistFail) (a b : Option FwImage)
    (dimms : List (Nat × Dimm)) (tf : BitVec 8) (pr : List (BitVec 64)) (hg : s.ext.pwrGood = true)
    (hr : s.ext.resetReleased = false) :
    exec (.resetNRelease mode fails a b dimms tf pr) s =
      if fails.filter rowFatal ≠ [] then .next (stayInReset (fails.filter rowFatal) (stepThree mode a b s))
      else .next (stepSeven (drainServing (startFirmware (stepSix fails
        { fails := fails, dimms := dimms, trainFail := tf, refused := pr } (stepThree mode a b s))))) := by
  have hstart : ¬(s.ext.pwrGood = false ∨ s.ext.resetReleased = true) := by simp [hg, hr]
  show execResetNRelease mode fails a b dimms tf pr s = _
  rw [execResetNRelease, if_neg hstart]
  rfl

/-! ## Steps 4 to 6 without a failing test -/

/-- The security core with nothing in its vault. -/
def emptyVault (x : Sec) : Sec := { x with vault := [], wiping := false }

theorem updSec_emptyVault_frame (s : State) : Frame [.sec] s (updSec emptyVault s) :=
  updSec_frame (f := emptyVault) (fun _ => rfl) (fun _ => rfl) (fun _ _ => rfl) s

/-- The security core as it starts in step 4, before the other domains (R554). -/
def securityStart (s : State) : State := drawNonce (updSec emptyVault (startDom 2 s))

theorem securityStart_frame (s : State) : Frame [.pwr, .sec, .free] s (securityStart s) :=
  (drawNonce_frame _).after ((updSec_emptyVault_frame _).after ((startDom_frame 2 s).after (Frame.refl _ s)))

theorem stepsFourFive_nil (s : State) :
    stepsFourFive [] s = updStart (fun x => { x with step := 5 })
      (forEach ([3, 4, 5, 6, 22, 90, 91, 92, 93] ++ (List.range 6).map portDom) startDom (securityStart s)) := rfl

theorem forEach_startDom_frame (l : List Nat) (s : State) : Frame [.pwr] s (forEach l startDom s) :=
  Frame.forEach (fun x k => startDom_frame k x) l (Frame.refl [.pwr] s)

theorem stepSix_nil_frame (o : StartObs) (s : State) : Frame [.start, .pwr, .sec, .free] s (stepSix [] o s) := by
  rw [stepSix, stepsFourFive_nil]
  exact (updStart_frame _ _).after ((updStart_frame _ _).after ((forEach_startDom_frame _ _).after
    ((securityStart_frame s).after (Frame.refl _ s))))

/-- The vault is empty from step 4 on (R554). -/
theorem stepSix_nil_vault (o : StartObs) (s : State) : (stepSix [] o s).sec.vault = [] := by
  rw [stepSix, stepsFourFive_nil, (updStart_frame _ _).same .sec rfl, (updStart_frame _ _).same .sec rfl,
    (forEach_startDom_frame _ _).same .sec rfl]
  rfl

/-! ## A start without firmware -/

section
variable {s : State}

theorem slotValid_false_of_empty {b : Bool} (h : slotImg s b = none) : slotValid s b = false := by
  rw [slotValid, h]

theorem startFirmware_empty (hsel : s.mbx.selected = none) (ha : s.mbx.slotA = none) (hb : s.mbx.slotB = none) :
    startFirmware s = enterRom s := by
  rw [startFirmware, hsel]
  dsimp only
  rw [slotValid_false_of_empty (b := false) ha, slotValid_false_of_empty (b := true) hb]
  rfl

theorem drainServing_rom (h : s.mbx.barista = .rom) : drainServing s = s := by
  rw [drainServing, serving, h]
  rfl

/-- Step 7 waits until firmware runs. -/
theorem stepSeven_of_noFirmware (h : s.mbx.fw = none) : stepSeven s = s := by
  rw [stepSeven, h]
  cases s.start.obs <;> rfl

/-- With no firmware in either slot a start ends in ROM mode at step 6 (R443, R522). -/
theorem start_noFirmware (o : StartObs) (hsel : s.mbx.selected = none) (ha : s.mbx.slotA = none) (hb : s.mbx.slotB = none) :
    stepSeven (drainServing (startFirmware (stepSix [] o s))) = enterRom (stepSix [] o s) := by
  have hmbx : (stepSix [] o s).mbx = s.mbx := (stepSix_nil_frame o s).same .mbx rfl
  rw [startFirmware_empty (by rw [hmbx, hsel]) (by rw [hmbx, ha]) (by rw [hmbx, hb]), drainServing_rom (enterRom_bar _),
    stepSeven_of_noFirmware (enterRom_fw _)]
end

/-! ## The obligation -/

/-- Settles O15: a loss of power and RESET_N leave what lasts and the default of the rest, with the latched domains added by
RESET_N; a release stops at a fatal failure, and without firmware in ROM mode. -/
theorem powerResetAndStart : Obligations.PowerResetAndStart := by
  unfold Obligations.PowerResetAndStart
  refine ⟨⟨?powerLoss, ?powerRise, ?reset⟩, ?fatal, ?noFirmware⟩
  case powerLoss =>
    intro s hg hidle
    have hlost : VolatileReset (powerLost s) ∧ NvmKept s (powerLost s) ∧ (powerLost s).ext.pwrGood = false ∧
        ∀ d, domOf (powerLost s) d = {} :=
      ⟨powerLost_volatileReset s, powerLost_nvmKept hidle, rfl, domOf_powerLost s⟩
    exact ⟨⟨_, exec_powerCycle_powered hg, hlost⟩, ⟨_, exec_supplyOutOfTolerance_powered hg, hlost⟩⟩
  case powerRise =>
    intro s hg
    exact ⟨_, exec_pwrGoodRise_unpowered hg, lasting_volatileReset s, lasting_nvmKept s, rfl, fun _ => rfl⟩
  case reset =>
    intro s hg hr hidle
    refine ⟨_, exec_resetNAssert_released hg hr, fullReset_volatileReset s, fullReset_nvmKept hidle, rfl, fun d hd => ?_⟩
    rw [domOf_fullReset hidle]
    exact ⟨latched_keptDoms s hd, st_keptDoms_of_latched s hd⟩
  case fatal =>
    intro s mode fails a b dimms tf pr hg hr hfatal
    have hbad : fails.filter rowFatal ≠ [] := by
      obtain ⟨f, hf, hrow⟩ := List.any_eq_true.1 hfatal
      exact List.ne_nil_of_mem (List.mem_filter.2 ⟨hf, hrow⟩)
    obtain ⟨hheld, hstep, herror⟩ := stayInReset_start hbad (stepThree mode a b s)
    exact ⟨_, (exec_resetNRelease_held mode fails a b dimms tf pr hg hr).trans (if_pos hbad), hheld, herror, hstep⟩
  case noFirmware =>
    intro s mode dimms tf pr hg hr hsel
    have hexec := (exec_resetNRelease_held mode [] none none dimms tf pr hg hr).trans (if_neg fun hbad => hbad rfl)
    rw [start_noFirmware (s := stepThree mode none none s) _ hsel rfl rfl] at hexec
    have hrom := (enterRom_frame (stepSix [] { fails := [], dimms := dimms, trainFail := tf, refused := pr }
      (stepThree mode none none s))).same
    have hext := (hrom .ext rfl).trans ((stepSix_nil_frame _ _).same .ext rfl)
    have hstart := hrom .start rfl
    refine ⟨_, hexec, congrArg Start.step hstart, enterRom_bar _, congrArg Ext.mode hext, congrArg Ext.resetReleased hext, ?_,
      congrArg (fun x => x.obs.isSome) hstart⟩
    rw [hrom .sec rfl]
    exact stepSix_nil_vault ..

end Sys2Proof.Machine

/-! PLL_LOCK (R276, R499, R500, R519) and the reference monitor (R503, R580). -/

namespace Sys2Proof.Machine

/-! ## The lock of a PLL group -/

theorem startRound_clk (s : State) : (startRound s).clk = s.clk := (startRound_frame s).same .clk rfl

/-- A group locked to a reference, with the VCO band of the present temperature (R499, R519). -/
def lockGroup (g : Nat) (ref : PllRef) (s : State) : State :=
  updClk (fun c => { c with comp := Tab.upd 0 c.comp 1 (fun n => n + 1) })
    (updPll g (fun x => { x with locked := true, ref := ref }) s)

theorem pllOf_lockGroup_same (g : Nat) (ref : PllRef) (s : State) :
    pllOf (lockGroup g ref s) g = { locked := true, ref := ref } :=
  pllOf_updPll_same g (fun x => { x with locked := true, ref := ref }) s

/-- The lock of the fabric PLL brings a change of chain time, and none of the groups. -/
theorem pllOf_fabricLock (s : State) (g : Nat) : pllOf (fabricLock s) g = pllOf s g := by
  unfold fabricLock
  split
  · rfl
  · rfl

/-- The lock of the fabric PLL of a root begins a chain epoch of its own (R276). -/
theorem fabricLock_root {s : State} (h : s.lnk.member = false) :
    (fabricLock s).clk =
      { s.clk with sinceLock := 0, time := 0, unsync := false, timeLocked := true, chainId := Config.serial } := by
  rw [fabricLock, if_neg (ne_true_of_eq_false h)]
  rfl

/-- A stopped group locks to an allowed reference (R499, R500). -/
theorem exec_pllLock_locks {s : State} {g : Fin 4} {ref : PllRef} (hd : (domOf s (90 + g.val)).st = .on)
    (hi : s.pwr.deepIdle = false) (hr : s.pwr.tripRetention = false) (ha : refAllowed s g.val ref = true)
    (hl : (pllOf s g.val).locked = false) :
    exec (.pllLock g ref false) s = .next (startRound
      (if g.val = 0 then fabricLock (lockGroup g.val ref s) else lockGroup g.val ref s)) := by
  show execPllLock g ref false s = _
  rw [execPllLock]
  dsimp only
  rw [if_neg (by simp [hd, hi, hr, ha]), if_neg (by simp), if_neg (ne_true_of_eq_false hl)]
  rfl

/-! ## The reference monitor -/

/-- The clock record after a window: whether it was bad, and whether it was good in a loss of reference (R503). -/
def windowSeen (bad good : Bool) (s : State) : State := updClk (fun c => { c with refBad := bad, refGood := good }) s

theorem exec_refMonitorWindow_good {s : State} {edges : BitVec 12} (hr : s.pwr.tripRetention = false)
    (hi : s.pwr.deepIdle = false) (hlo : 950 ≤ edges.toNat) (hhi : edges.toNat ≤ 1050) :
    exec (.refMonitorWindow edges) s = .next (if s.clk.refLost = true ∧ s.clk.refGood = true then
      takeRefclk { updClk (fun c => { c with refLost := false, refGood := false }) (windowSeen false s.clk.refLost s) with
        lnk := { s.lnk with refclk := true } }
      else windowSeen false s.clk.refLost s) := by
  have hbad : (decide (edges.toNat < 950) || decide (1050 < edges.toNat)) = false := by simp; omega
  show execRefMonitorWindow edges s = _
  rw [execRefMonitorWindow, hbad]
  dsimp only
  rw [if_neg (by simp [hr, hi]), if_neg Bool.false_ne_true]
  split
  · rfl
  · rfl

theorem exec_refMonitorWindow_bad {s : State} {edges : BitVec 12} (hr : s.pwr.tripRetention = false)
    (hi : s.pwr.deepIdle = false) (hb : edges.toNat < 950 ∨ 1050 < edges.toNat) :
    exec (.refMonitorWindow edges) s = .next (if s.clk.refBad = true ∧ s.clk.refLost = false then
      loseRef (windowSeen true false s) else windowSeen true false s) := by
  have hbad : (decide (edges.toNat < 950) || decide (1050 < edges.toNat)) = true := by simpa using hb
  show execRefMonitorWindow edges s = _
  rw [execRefMonitorWindow, hbad]
  dsimp only
  rw [if_neg (by simp [hr, hi]), if_pos rfl]
  rfl

theorem loseFabricClock_refLost (cause port : Nat) (s : State) : (loseFabricClock cause port s).clk.refLost = s.clk.refLost := by
  unfold loseFabricClock
  split
  · rfl
  · dsimp only
    rw [(raise_frame ..).same .clk rfl]
    exact forEach_keep (fun s => s.clk.refLost) (fun r s => leaveRunning r .held 5 s)
      (fun r s => congrArg Clk.refLost ((leaveRunning_frame r .held 5 s).same .clk rfl)) _ s

theorem holdRefclk_refLost (s : State) : (holdRefclk s).clk.refLost = s.clk.refLost := rfl

/-- A root and a member both record the loss (R500, R503). -/
theorem loseRef_refLost (s : State) : (loseRef s).clk.refLost = true := by
  unfold loseRef
  dsimp only
  split
  · split
    · rw [(raise_frame ..).same .clk rfl, holdRefclk_refLost]
      rfl
    · rfl
  · rw [(allLinksFall_frame ..).same .clk rfl, holdRefclk_refLost, updPll_clk_refLost, loseFabricClock_refLost]
    rfl

/-! ## The obligation -/

/-- Settles O16: a lock sets its group, and on a root chain time with that of the fabric; a window is good or bad, and what
it brings follows from the one before it. -/
theorem pllAndReferenceRows : Obligations.PllAndReferenceRows := by
  unfold Obligations.PllAndReferenceRows
  refine ⟨?lock, fun s edges hr hi => ⟨?good, ?bad, ?lost, ?back⟩⟩
  case lock =>
    intro s g ref hd hi hr ha hl
    have hpll : pllOf (startRound (if g.val = 0 then fabricLock (lockGroup g.val ref s) else lockGroup g.val ref s)) g.val =
        { locked := true, ref := ref } := by
      rw [pllOf_congr (startRound_clk _), ← pllOf_lockGroup_same g.val ref s]
      split
      · exact pllOf_fabricLock ..
      · rfl
    refine ⟨_, exec_pllLock_locks hd hi hr ha hl, congrArg Pll.locked hpll, congrArg Pll.ref hpll, ?_⟩
    rintro rfl hm
    rw [startRound_clk, if_pos (show (0 : Fin 4).val = 0 from rfl), fabricLock_root (s := lockGroup _ ref s) hm]
    exact ⟨rfl, rfl, rfl, rfl⟩
  case good =>
    intro hlo hhi hl
    rw [exec_refMonitorWindow_good hr hi hlo hhi, if_neg (by simp [hl]), hl]
    rfl
  case bad =>
    intro hb hbad
    rw [exec_refMonitorWindow_bad hr hi hb, if_neg (by simp [hbad])]
    rfl
  case lost =>
    intro hb hbad hl
    exact ⟨_, (exec_refMonitorWindow_bad hr hi hb).trans (congrArg _ (if_pos ⟨hbad, hl⟩)), loseRef_refLost _⟩
  case back =>
    intro hlo hhi hl hg
    exact ⟨_, (exec_refMonitorWindow_good hr hi hlo hhi).trans (congrArg _ (if_pos ⟨hl, hg⟩)), rfl, rfl⟩

end Sys2Proof.Machine

/-! Lanes, widths and delays of a link that is up, and poison notices (R254, R260 to R266, R279, R298). -/

namespace Sys2Proof.Machine

/-- An update of a port depends on the function at the present port only. -/
theorem updPort_congr {p : Nat} {f g : Port → Port} {s : State} (h : f (portOf s p) = g (portOf s p)) :
    updPort p f s = updPort p g s := by
  have hports : Tab.upd {} s.lnk.ports p f = Tab.upd {} s.lnk.ports p g :=
    congrArg (Tab.set ({} : Port) s.lnk.ports p) h
  rw [updPort, updPort, hports]

/-! ## Steps of the receive direction -/

/-- A port on which a receive lane has failed (R260). -/
def Port.laneLost (k : Nat) (x : Port) : Port := { x with rxFailed := x.rxFailed ||| (1#9 <<< k) }

/-- A failed lane outside the lane map is recorded, and nothing else changes (R260). -/
theorem exec_laneFailed_unused {s : State} {p : Fin 6} {k : Fin 9} (hup : (portOf s p.val).st = .up)
    (hmap : (portOf s p.val).rxMap.contains k.val = false) :
    exec (.laneFailed p k) s = .next (updPort p.val (Port.laneLost k.val) s) := by
  show execLaneFailed p k s = _
  rw [execLaneFailed]
  dsimp only
  rw [if_neg (not_not_intro hup), hmap, if_pos (show (!false) = true from rfl)]
  exact congrArg _ (updPort_congr rfl)

/-- Of a port without an earlier failure, and with a good spare, only the failed lane is not good. -/
theorem goodRx_laneLost {x : Port} {k : Nat} (hf : x.rxFailed = 0) (hb : x.spareBad = false) :
    goodRx (x.laneLost k) = ~~~(0 ||| (1#9 <<< k)) &&& ~~~(0#9) := by
  rw [goodRx, Port.laneLost, hf, hb]
  rfl

/-- The step in which the spare, lane 8, takes the place of a failed lane (R262). -/
def spareStep (k : Nat) (w : BitVec 2) (map : List Nat) : LaneStep :=
  { width := w, map := map.map (fun n => if n = k then 8 else n), spare := true, lane := BitVec.ofNat 8 k, widen := false,
    switch := none }

/-- At width 8 with the spare free a failed lane is replaced (R261). -/
theorem exec_laneFailed_replaced {s : State} {p : Fin 6} {k : Fin 9} (hup : (portOf s p.val).st = .up)
    (hmap : (portOf s p.val).rxMap.contains k.val = true) (htx : (portOf s p.val).txStep = none)
    (hw : (portOf s p.val).rxWidth = 3) (hs : (portOf s p.val).rxSpare = false) (hr : (portOf s p.val).rxReversed = false)
    (hf : (portOf s p.val).rxFailed = 0) (hb : (portOf s p.val).spareBad = false) (hk : k.val < 8) :
    exec (.laneFailed p k) s = .next (startStep p.val (spareStep k.val 3 (portOf s p.val).rxMap) 1 (BitVec.ofNat 48 k.val)
      (updPort p.val (fun _ => (portOf s p.val).laneLost k.val) s)) := by
  have hgood : goodRx { portOf s p.val with rxFailed := (portOf s p.val).rxFailed ||| (1#9 <<< k.val) } =
      ~~~(0 ||| (1#9 <<< k.val)) &&& ~~~(0#9) := goodRx_laneLost hf hb
  have hlanes : widthFor (bitsOf (~~~(0 ||| (1#9 <<< k.val)) &&& ~~~(0#9))).length ≠ 0 := by rw [good_ne k]; decide
  have hphys : ∀ n, physLane (portOf s p.val).rxReversed n = n := fun n => by rw [hr]; rfl
  show execLaneFailed p k s = _
  rw [execLaneFailed]
  dsimp only
  rw [hgood, if_neg (not_not_intro hup), hmap, if_neg (by simp),
    if_neg (not_or.2 ⟨by rw [htx]; exact Bool.false_ne_true, hlanes⟩), if_pos ⟨hw, hs, by rw [hphys]; exact spare_bit k hk⟩]
  simp only [hphys]
  rfl

/-- A step of the receive direction waits at its port, and its request is the last control word to go out (R262). -/
theorem portOf_startStep (p : Nat) (st : LaneStep) (code : Byte) (data : BitVec 48) (s : State) :
    portOf (startStep p st code data s) p = { portOf s p with
      rxStep := some st, rxTxn := none, rxMgmt := none, ctrlOut := (portOf s p).ctrlOut ++ [(code, data)] } :=
  portOf_updPort_same ..

/-- The lanes that are good after a check of those not in use (R265). -/
def checkedLanes (x : Port) (good : BitVec 9) : BitVec 9 :=
  good ||| BitVec.ofNat 9 (fieldsWord (x.rxMap.map (fun k => (k, 1))))

/-- The step to the widest width that the checked lanes allow (R265). -/
def widenStep (x : Port) (good : BitVec 9) : LaneStep := widthStep x (checkedLanes x good) 0xFF true

/-- A wider width is requested of the peer, and LNK.WIDEN stays open until it takes effect (R265). -/
theorem exec_widenPrbsCheckDone_widens {s : State} {p : Fin 6} {good : BitVec 9} {org : Origin}
    (hc : (portOf s p.val).cmdWiden = some org) (hrx : (portOf s p.val).rxStep = none) (htx : (portOf s p.val).txStep = none)
    (hw : (portOf s p.val).rxWidth < (widenStep (portOf s p.val) good).width) :
    exec (.widenPrbsCheckDone p good) s = .next (startStep p.val (widenStep (portOf s p.val) good) 2
      (widthRequestData (portOf s p.val) (widenStep (portOf s p.val) good).width (checkedLanes (portOf s p.val) good))
      (updPort p.val (fun x => { x with rxFailed := ~~~checkedLanes (portOf s p.val) good, spareBad := false }) s)) := by
  have hwide : ¬((widenStep (portOf s p.val) good).width ≤ (portOf s p.val).rxWidth ∨
      (portOf s p.val).txStep.isSome = true) := by
    simpa [htx] using hw
  show execWidenPrbsCheckDone p good s = _
  rw [execWidenPrbsCheckDone, hc]
  dsimp only
  rw [hrx, if_neg (by simp)]
  exact if_neg hwide

theorem exec_linkAcknowledge_port {s : State} {p : Fin 6} {st : LaneStep} (frame : BitVec 32)
    (h : (portOf s p.val).rxStep = some st) :
    ∃ t, exec (.linkAcknowledge p frame) s = .next t ∧
      portOf t p.val = { portOf s p.val with rxStep := some { st with switch := some frame } } :=
  ⟨_, rfl, by rw [portOf_updPort_same, h]⟩

theorem switchRx_kept (p : Nat) (st : LaneStep) (s : State) :
    Kept2 (updPort p (fun x => { x with
      rxWidth := st.width, rxMap := st.map, rxSpare := st.spare, rxStep := none, rxTxn := some [], rxMgmt := some [],
      cmdWiden := none }) s) (switchRx p st s) p := by
  have hstart : ∀ (v : Start) (x : State), Kept2 x { x with start := v } p := fun _ _ => Kept2.of_eq rfl
  have hend : ∀ (o : Option Origin) (b : Status) (x : State), Kept2 x (finishOpt o .lnkDone p b (checkFloors p x)) p :=
    fun o b x => (checkFloors_k p x p).trans ((finishOpt_lnk o .lnkDone p b _).kept2 p)
  rw [switchRx]
  dsimp only
  split
  · split
    · exact ((hstart ..).trans ((raise_lnk ..).kept2 p)).trans (hend ..)
    · exact ((raise_lnk ..).kept2 p).trans (hend ..)
  · split
    · exact ((hstart ..).trans ((raise_lnk ..).kept2 p)).trans (hend ..)
    · exact ((raise_lnk ..).kept2 p).trans (hend ..)

/-! ## Steps of the transmit direction -/

/-- A step of the transmit direction names its switch frame, and its acknowledgement is the last control word to go out (R262). -/
theorem portOf_acknowledge (p : Nat) (st : LaneStep) (failed : BitVec 9) (s : State) :
    portOf (acknowledge p st failed s) p = { portOf s p with
      txStep := some { st with switch := some (switchFrame s) }, txFailed := failed,
      ctrlOut := (portOf s p).ctrlOut ++ [(3, (switchFrame s).zeroExtend 48)] } :=
  portOf_updPort_same ..

theorem exec_spareRequest_taken {s : State} {p : Fin 6} {k : Fin 9} (hup : (portOf s p.val).st = .up)
    (htx : (portOf s p.val).txStep = none) (hs : (portOf s p.val).txSpare = false)
    (hmap : (portOf s p.val).txMap.contains k.val = true) :
    exec (.spareRequest p k) s = .next (acknowledge p.val (spareStep k.val (portOf s p.val).txWidth (portOf s p.val).txMap)
      ((portOf s p.val).txFailed ||| (1#9 <<< k.val)) s) :=
  if_neg (by simp [hup, htx, hs, -List.contains_eq_mem, hmap])

/-- The step that a width request asks of the transmit direction (R262). -/
def requestedStep (x : Port) (code : BitVec 2) (mask : BitVec 9) : LaneStep :=
  { width := code, map := (laneMap mask).2.1.take (widthLanes code), spare := (laneMap mask).2.2 && code == 3, lane := 0xFF,
    widen := decide (x.txWidth < code), switch := none }

theorem exec_widthRequest_taken {s : State} {p : Fin 6} {code : BitVec 2} (mask : BitVec 9) (hup : (portOf s p.val).st = .up)
    (htx : (portOf s p.val).txStep = none) (hc : code ≠ 0) :
    exec (.widthRequest p code mask) s =
      .next (acknowledge p.val (requestedStep (portOf s p.val) code mask) (~~~mask) s) :=
  if_neg (by simpa [hup, htx] using hc)

theorem switchTx_kept (p : Nat) (st : LaneStep) (s : State) :
    Kept2 (updPort p (fun x => { x with txWidth := st.width, txMap := st.map, txSpare := st.spare, txStep := none }) s)
      (switchTx p st s) p := by
  rw [switchTx]
  split
  · exact checkFloors_k p _ p
  · exact ((raise_lnk ..).kept2 p).trans (checkFloors_k p _ p)

/-- A step takes effect at the frame that the transmitter has named (R262). -/
theorem exec_laneMapSwitch_due {s : State} {p : Fin 6} {rx : Bool} {st : LaneStep}
    (h : (if rx then (portOf s p.val).rxStep else (portOf s p.val).txStep) = some st) (hs : st.switch.isSome = true) :
    exec (.laneMapSwitch p rx) s = .next (if rx then switchRx p.val st s else switchTx p.val st s) := by
  show execLaneMapSwitch p rx s = _
  rw [execLaneMapSwitch, h]
  exact if_neg (by rw [Option.isNone_eq_false_iff.2 hs]; exact Bool.false_ne_true)

/-! ## The check of the spare, delays and poison notices -/

theorem exec_spareLaneCheck_marks {s : State} {p : Fin 6} {n : BitVec 32} (hup : (portOf s p.val).st = .up)
    (hs : (portOf s p.val).rxSpare = false) (hb : (portOf s p.val).spareBad = false) (ht : s.thm.throttle = false)
    (hn : 16 < n.toNat) : ∃ t, exec (.spareLaneCheck p n) s = .next t ∧ (portOf t p.val).spareBad = true := by
  refine ⟨_, if_neg (by simp [hup, hs, hb, ht, hn]), ?_⟩
  rw [raise_port, portOf_updPort_same]

@[simp] theorem trimPs_zero (d : BitVec 32) : trimPs d 0 = d := by simp [trimPs]

/-- Without a trim the wire delay of both directions is half the round trip (R254; DEDUCED, log 57). -/
theorem exec_delayMeasurementReply_untrimmed {s : State} {p : Fin 6} (stamp now : BitVec 48)
    (h : (portOf s p.val).st = .measure ∨ (portOf s p.val).st = .up) (ha : (portOf s p.val).asym = 0) :
    ∃ t, exec (.delayMeasurementReply p stamp now) s = .next t ∧ portOf t p.val = { portOf s p.val with
      rxWire := BitVec.ofNat 32 ((now - stamp).toNat / 2), txWire := BitVec.ofNat 32 ((now - stamp).toNat / 2) } := by
  have htrim : ∀ d, trimPs d ((portOf s p.val).asym.toInt / 2) = d := fun d => by rw [ha]; exact trimPs_zero d
  have hneg : ∀ d, trimPs d (-((portOf s p.val).asym.toInt / 2)) = d := fun d => by rw [ha]; exact trimPs_zero d
  refine ⟨_, if_pos h, ?_⟩
  dsimp only
  rw [portOf_updPort_same, htrim, hneg]

/-! ## The obligation -/

/-- Settles O41: each row is one operation on the port; a step waits in its port until its frame, and the events that its
effect raises leave the port's widths and maps alone. -/
theorem linkLaneRows : Obligations.LinkLaneRows := by
  unfold Obligations.LinkLaneRows
  refine ⟨fun s p k hup hmap => exec_laneFailed_unused hup hmap, ?replaced, ?spare, ?width,
    fun s p frame st h => exec_linkAcknowledge_port frame h, ?switchTx, ?switchRx,
    fun s p n hup hs hb ht hn => exec_spareLaneCheck_marks hup hs hb ht hn,
    ?widen, fun s p a b h => if_pos h,
    fun s p a b h ha => exec_delayMeasurementReply_untrimmed a b h ha, fun s p b hup => if_pos hup⟩
  case replaced =>
    intro s p k hup hmap htx hw hs hr hf hb hk
    refine ⟨_, exec_laneFailed_replaced hup hmap htx hw hs hr hf hb hk, ?_⟩
    rw [portOf_startStep, portOf_updPort_same]
    exact ⟨rfl, _, rfl, rfl, rfl, rfl⟩
  case spare =>
    intro s p k hup htx hs hmap
    refine ⟨_, exec_spareRequest_taken hup htx hs hmap, ?_⟩
    rw [portOf_acknowledge]
    exact ⟨_, rfl, rfl, rfl, rfl, rfl⟩
  case width =>
    intro s p code mask hup htx hc
    refine ⟨_, exec_widthRequest_taken mask hup htx hc, ?_⟩
    rw [portOf_acknowledge]
    exact ⟨_, rfl, rfl, rfl, rfl⟩
  case switchTx =>
    intro s p st h hs
    refine ⟨_, exec_laneMapSwitch_due (rx := false) h hs, ?_⟩
    rw [if_neg Bool.false_ne_true, switchTx_kept p.val st s, portOf_updPort_same]
    exact ⟨rfl, rfl, rfl, rfl⟩
  case switchRx =>
    intro s p st h hs
    refine ⟨_, exec_laneMapSwitch_due (rx := true) h hs, ?_⟩
    rw [if_pos rfl, switchRx_kept p.val st s, portOf_updPort_same]
    exact ⟨rfl, rfl, rfl, rfl⟩
  case widen =>
    intro s p good org hc hrx htx hw
    refine ⟨_, exec_widenPrbsCheckDone_widens hc hrx htx hw, ?_⟩
    rw [portOf_startStep, portOf_updPort_same]
    exact ⟨rfl, hc⟩

end Sys2Proof.Machine

/-! The LNK commands over the tables and chain time (R279, R281, R284, R292, R604). -/

namespace Sys2Proof.Machine

/-- A command that completes with ST_OK in a state that keeps the channels: its answer, and every part but those of an answer
as its body leaves it. -/
theorem serve_done_kept {s x : State} {r : Req} {cmd : Nat} {args data : List Byte} {body : Origin → State → Ans}
    (h : ready s r cmd = true) (ha : body (originOf r cmd) (taken r cmd args s) = done x data)
    (hx : x.mbx.chans = (taken r cmd args s).mbx.chans := by rfl) (hc : cmd < 65536 := by decide) :
    ∃ t, Host.Outcome.next (φ := Fault) (ρ := Refusal) (serve r cmd args body s) = .next t ∧ answered t r cmd .ok data ∧
      Frame [.mbx, .chans, .evt, .sec] x t :=
  serve_fact (a := done x data) h ha (fun e => nomatch e) rfl rfl (taken_busy' r cmd args s x hx) hc

/-! ## The route table and the chain windows -/

theorem reaches_congr {x y : State} (h : x.lnk = y.lnk) (k n m : Nat) : reaches x k n m = reaches y k n m := by
  induction n generalizing m with
  | zero => rfl
  | succ n ih => rw [reaches, reaches, h, ih]

theorem reaches_taken (r : Req) (cmd : Nat) (args : List Byte) (s : State) (k n m : Nat) :
    reaches (taken r cmd args s) k n m = reaches s k n m :=
  reaches_congr (x := taken r cmd args s) (y := s) rfl k n m

/-- A route of 21 selectors whose extension does not lead back to its handle is set (R281, R284). -/
theorem bodyLnkRouteSet_done {x : State} {h next : BitVec 12} {route : W64} (o : Origin) (h0 : h ≠ 0)
    (hr : route.toNat < 2 ^ 63) (hn : usesNext route = true → next ≠ 0) (hc : reaches x h.toNat 4096 next.toNat = false) :
    bodyLnkRouteSet h.toNat route.toNat next.toNat o x = done { x with lnk := { x.lnk with
      routes := Tab.set {} x.lnk.routes h.toNat { route := route, next := next, present := true } } } := by
  have hlegal : ¬(h.toNat = 0 ∨ 2 ^ 63 ≤ route.toNat ∨ (usesNext route = true ∧ next.toNat = 0) ∨
      reaches x h.toNat 4096 next.toNat = true) := by
    rintro (hz | hz | ⟨hu, hz⟩ | hz)
    · exact h0 (BitVec.eq_of_toNat_eq hz)
    · omega
    · exact hn hu (BitVec.eq_of_toNat_eq hz)
    · exact ne_true_of_eq_false hc hz
  rw [bodyLnkRouteSet]
  simp only [BitVec.ofNat_toNat, BitVec.setWidth_eq]
  exact if_neg hlegal

/-- A window is set to a handle that is present, or disabled with handle 0 (R292). -/
theorem bodyLnkCwinSet_done {x : State} {j : BitVec 8} {h base : BitVec 12} (w a : Bool) (o : Origin)
    (hp : h = 0 ∨ (Tab.get {} x.lnk.routes h.toNat).present = true) :
    bodyLnkCwinSet j.toNat h.toNat base.toNat w a o x = done { x with lnk := { x.lnk with
      cwins := Tab.set {} x.lnk.cwins j.toNat { handle := h, base := base, writeEn := w, atomicEn := a } } } := by
  have hlegal : ¬(h.toNat ≠ 0 ∧ (Tab.get {} x.lnk.routes h.toNat).present = false) := by
    rintro ⟨h0, habs⟩
    rcases hp with rfl | hp
    · exact h0 rfl
    · exact ne_true_of_eq_false habs hp
  rw [bodyLnkCwinSet, if_neg hlegal]
  simp only [BitVec.ofNat_toNat, BitVec.setWidth_eq]

/-! ## Trims and slots -/

/-- A port with a trim; on a link that is up it applies to the delays measured (R279). -/
def Port.trimmed (v : BitVec 16) (x : Port) : Port :=
  if x.st = .up then
    { x with asym := v, rxWire := trimPs x.rxWire (v.toInt / 2 - x.asym.toInt / 2),
             txWire := trimPs x.txWire (-(v.toInt / 2 - x.asym.toInt / 2)) }
  else { x with asym := v }

theorem Port.trimmed_asym (v : BitVec 16) (x : Port) : (x.trimmed v).asym = v := by
  unfold Port.trimmed
  split
  · rfl
  · rfl

theorem bodyLnkTimeTrim_done {port : BitVec 3} {ps : BitVec 16} (o : Origin) (x : State) (hp : port.toNat < 6)
    (hv : ps.toInt.natAbs ≤ 5000) :
    bodyLnkTimeTrim port.toNat ps.toNat o x = done (updPort port.toNat (Port.trimmed ps) x) := by
  rw [bodyLnkTimeTrim, BitVec.ofNat_toNat, BitVec.setWidth_eq, if_neg (by omega)]
  rfl

theorem bodyLnkSlots_done {port : BitVec 3} (o : Origin) (x : State) (hp : port.toNat < 6) :
    bodyLnkSlots port.toNat o x = done x (packFields
      ((64, fieldsWord ((portOf x port.toNat).slots.map (fun e => (e.1, 1)))) :: (List.range 64).map (fun j =>
        (16, match Tab.get none (portOf x port.toNat).slots j with | some n => n.toNat | none => 0)))) :=
  if_neg (Nat.not_le.2 hp)

/-! ## The obligation -/

/-- Settles O39: each body's answer under the hypotheses, and the reply that such an answer gives on a ready channel. -/
theorem lnkTableCommandsReply : Obligations.LnkTableCommandsReply := by
  unfold Obligations.LnkTableCommandsReply
  refine ⟨fun s r h route next hr h0 h63 hn hc =>
      serve_ok hr (bodyLnkRouteSet_done _ h0 h63 hn ((reaches_taken ..).trans hc)),
    fun s r h hr => serve_report hr rfl, fun s r j h base w a hr hp => serve_ok hr (bodyLnkCwinSet_done w a _ hp),
    fun s r hr => serve_report hr rfl, ?trim,
    fun s r port hr hp => ⟨_, serve_report hr (bodyLnkSlots_done _ _ hp), rfl⟩⟩
  case trim =>
    intro s r port ps hr hp hv
    obtain ⟨t, hexec, hans, hframe⟩ := serve_done_kept hr (bodyLnkTimeTrim_done _ _ hp hv)
    have hport : portOf t port.toNat = (portOf s port.toNat).trimmed ps :=
      (portOf_congr (hframe.same .lnk rfl) _).trans (portOf_updPort_same ..)
    exact ⟨t, hexec, hans, by rw [hport, Port.trimmed_asym], fun hup => by rw [hport]; exact if_neg hup⟩

end Sys2Proof.Machine

/-! The LNK commands over ports (R240, R250, R260, R265, R295, R299 to R302, R604). -/

namespace Sys2Proof.Machine

/-- One change of every port that a mask names. -/
theorem portOf_forEach_mask {mask p : Nat} (f : Port → Port) (hp : p ∈ maskPorts mask) (s : State) :
    portOf (forEach (maskPorts mask) (fun q => updPort q f) s) p = f (portOf s p) :=
  (portOf_forEach (maskPorts_nodup mask) (fun _ => f) s p).trans (if_pos hp)

theorem isEmpty_maskPorts {mask : Nat} (h : maskPorts mask ≠ []) : (maskPorts mask).isEmpty = false :=
  List.isEmpty_eq_false_iff.2 h

/-! ## LNK.UP -/

/-- A port that LNK.UP enables (R250, R295). -/
def Port.upped (encrypt : Bool) (x : Port) : Port :=
  { x with enabled := true, st := .detect, retry := false, test := none, encReq := x.encReq || encrypt }

/-- The ports of a mask that LNK.UP enables. -/
def idlePorts (mask : Nat) (s : State) : List Nat := (maskPorts mask).filter (portIdle s)

/-- The final events of LNK.UP, one for each port of its mask (DEDUCED, log 63). -/
def upEvents (mask : Nat) (o : Origin) (x : State) : State → State :=
  forEach (maskPorts mask) (fun p => finish o .lnkDone p (if (idlePorts mask x).contains p then .ok else .state))

theorem bodyLnkUp_open {mask : Nat} (encrypt : Bool) (o : Origin) (x : State) (hm : maskPorts mask ≠ []) :
    bodyLnkUp mask encrypt o x =
      { state := forEach (idlePorts mask x) (fun p => updPort p (Port.upped encrypt)) x, status := .pending,
        units := (maskPorts mask).length, after := upEvents mask o x } := by
  rw [bodyLnkUp, isEmpty_maskPorts hm]
  rfl

theorem upEvents_chans (mask : Nat) (o : Origin) (x y : State) : (upEvents mask o x y).mbx.chans = y.mbx.chans :=
  (MbxKept.fold (f := fun a p => finish o .lnkDone p (if (idlePorts mask x).contains p then .ok else .state) a)
    (fun a p => finish_mbx o .lnkDone p _ a) _ y).chans

theorem upEvents_lnk (mask : Nat) (o : Origin) (x y : State) : LnkKept y (upEvents mask o x y) :=
  LnkKept.fold (f := fun a p => finish o .lnkDone p (if (idlePorts mask x).contains p then .ok else .state) a)
    (fun a p => finish_lnk o .lnkDone p _ a) _ y

theorem portOf_upped {mask p : Nat} {x : State} (encrypt : Bool) (hp : p ∈ maskPorts mask) (hi : portIdle x p = true) :
    portOf (forEach (idlePorts mask x) (fun q => updPort q (Port.upped encrypt)) x) p = (portOf x p).upped encrypt :=
  (portOf_forEach ((maskPorts_nodup mask).filter _) (fun _ => Port.upped encrypt) x p).trans
    (if_pos (List.mem_filter.2 ⟨hp, hi⟩))

/-! ## LNK.DOWN -/

/-- LNK.DOWN on one port: a port that is not disabled is, with the upstream clock lost where it came by that port (R250). -/
def takeDown (p : Nat) (s : State) : State :=
  if (portOf s p).st = .disabled then s
  else updPort p (fun x => { x with enabled := false, retry := false, test := none })
    (linkFall p .disabled 1 (if s.lnk.upstream = some p ∧ linkUpAt s p then loseUpstream s else s))

theorem bodyLnkDown_done {mask : Nat} (o : Origin) {x : State}
    (h : ∀ p ∈ maskPorts mask, (portOf x p).slots = [] ∧ x.lnk.upstream ≠ some p) :
    bodyLnkDown mask o x = done (forEach (maskPorts mask) takeDown x) := by
  refine if_neg (ne_true_of_eq_false (List.any_eq_false.2 fun p hp => ?_))
  obtain ⟨hs, hu⟩ := h p hp
  simp [hs, hu]

section
variable {p : Nat} {s : State} (hu : s.lnk.upstream ≠ some p)
include hu

theorem takeDown_of_active (hd : (portOf s p).st ≠ .disabled) :
    takeDown p s = updPort p (fun x => { x with enabled := false, retry := false, test := none }) (linkFall p .disabled 1 s) := by
  rw [takeDown, if_neg hd, if_neg (fun h => hu h.1)]

/-- A port that is not the upstream port goes down alone, and the upstream port stays. -/
theorem takeDown_alone : (∀ q, (portOf (takeDown p s) q).st = if q = p then .disabled else (portOf s q).st) ∧
    (takeDown p s).lnk.upstream = s.lnk.upstream ∧ (takeDown p s).mbx.chans = s.mbx.chans := by
  by_cases hd : (portOf s p).st = .disabled
  · rw [takeDown, if_pos hd]
    refine ⟨fun q => ?_, rfl, rfl⟩
    split
    next h => rw [h, hd]
    next => rfl
  · rw [takeDown_of_active hu hd]
    obtain ⟨hst, hup⟩ := linkFall_st p .disabled 1 s
    refine ⟨fun q => ?_, hup.trans (if_neg hu), (linkFall_frame p .disabled 1 s).same .chans rfl⟩
    rw [← hst q]
    by_cases hq : q = p
    · rw [hq, portOf_updPort_same]
    · rw [portOf_updPort_ne _ _ hq]
end

/-- Ports that are not the upstream port go down, and the channels stay. -/
theorem forEach_takeDown {l : List Nat} {s : State} (hu : ∀ p ∈ l, s.lnk.upstream ≠ some p) :
    (∀ q, (portOf (forEach l takeDown s) q).st = if q ∈ l then .disabled else (portOf s q).st) ∧
      (forEach l takeDown s).mbx.chans = s.mbx.chans := by
  induction l generalizing s with
  | nil => exact ⟨fun _ => rfl, rfl⟩
  | cons p l ih =>
    obtain ⟨hp, hl⟩ := List.forall_mem_cons.1 hu
    obtain ⟨hst, hup, hch⟩ := takeDown_alone hp
    obtain ⟨hst', hch'⟩ := ih (s := takeDown p s) (by rw [hup]; exact hl)
    refine ⟨fun q => ?_, hch'.trans hch⟩
    rw [forEach_cons, hst', hst]
    by_cases hm : q ∈ l
    · rw [if_pos hm, if_pos (List.mem_cons_of_mem p hm)]
    · simp [hm]

/-! ## LNK.ROLE -/

/-- With no context loaded the role changes (R240; DEDUCED, log 64). -/
theorem bodyLnkRole_done {member : Bool} (o : Origin) {x : State} (hm : x.lnk.member ≠ member)
    (hr : ∀ n, n < 32 → (regionOf x n).st = .off ∨ (regionOf x n).st = .blank ∨ (regionOf x n).st = .retired) :
    bodyLnkRole member o x = done (changeRole member x) := by
  have hidle : (List.range 32).any (fun r => !(regionIs x r .off || regionIs x r .blank || regionIs x r .retired)) = false :=
    List.any_eq_false.2 fun n hn => by
      rcases hr n (List.mem_range.1 hn) with h | h | h
      · simp [regionIs, h]
      · simp [regionIs, h]
      · simp [regionIs, h]
  rw [bodyLnkRole, hidle, if_neg Bool.false_ne_true, if_neg hm]

/-! ## LNK.RESET and LNK.WIDEN -/

/-- A command that stays open at every port of its mask: its answer, and the ports as it leaves them. -/
theorem serve_portsWait {s : State} {r : Req} {cmd mask : Nat} {args : List Byte} {body : Origin → State → Ans} {f : Port → Port}
    (h : ready s r cmd = true) (hbody : body (originOf r cmd) (taken r cmd args s) =
      { state := forEach (maskPorts mask) (fun p => updPort p f) (taken r cmd args s), status := .pending,
        units := (maskPorts mask).length }) (hc : cmd < 65536 := by decide) :
    ∃ t, Host.Outcome.next (φ := Fault) (ρ := Refusal) (serve r cmd args body s) = .next t ∧ answered t r cmd .pending [] ∧
      ∀ p ∈ maskPorts mask, portOf t p = f (portOf s p) := by
  obtain ⟨t, hexec, hans, hframe⟩ := serve_fact_open h hbody rfl rfl rfl (taken_busy' r cmd args s _
    ((forEach_port_frame (maskPorts mask) (fun _ => f) _).same .chans rfl)) hc
  exact ⟨t, hexec, hans, fun p hp => (portOf_congr (hframe.same .lnk rfl) p).trans (portOf_forEach_mask f hp _)⟩

/-- No port of a mask is down, or has the command of the field in progress. -/
theorem any_portTaken_eq_false {mask : Nat} {x : State} {field : Port → Option Origin}
    (h : ∀ p ∈ maskPorts mask, (portOf x p).st = .up ∧ field (portOf x p) = none) :
    (maskPorts mask).any (fun p => !linkUpAt x p || (field (portOf x p)).isSome) = false :=
  List.any_eq_false.2 fun p hp => by
    obtain ⟨hup, hc⟩ := h p hp
    simp [linkUpAt, hup, hc]

section
variable {mask : Nat} {x : State} (o : Origin) (hm : maskPorts mask ≠ [])
include hm

theorem bodyLnkReset_waits (h : ∀ p ∈ maskPorts mask, (portOf x p).st = .up ∧ (portOf x p).cmdReset = none) :
    bodyLnkReset mask o x =
      { state := forEach (maskPorts mask) (fun p => updPort p (fun x => { x with cmdReset := some o })) x, status := .pending,
        units := (maskPorts mask).length } := by
  rw [bodyLnkReset, isEmpty_maskPorts hm]
  exact if_neg (ne_true_of_eq_false (any_portTaken_eq_false (field := Port.cmdReset) h))

theorem bodyLnkWiden_waits (h : ∀ p ∈ maskPorts mask, (portOf x p).st = .up ∧ (portOf x p).cmdWiden = none) :
    bodyLnkWiden mask o x =
      { state := forEach (maskPorts mask) (fun p => updPort p (fun x => { x with cmdWiden := some o })) x, status := .pending,
        units := (maskPorts mask).length } := by
  rw [bodyLnkWiden, isEmpty_maskPorts hm]
  exact if_neg (ne_true_of_eq_false (any_portTaken_eq_false (field := Port.cmdWiden) h))
end

/-! ## LNK.TEST, LNK.TEST_RESULT, LNK.FEC_INJECT and LNK.LANE_LIMIT -/

/-- A port that LNK.TEST takes into TEST (R300). -/
def Port.tested (c : TestCfg) (x : Port) : Port := { x with st := .test, test := some c }

theorem bodyLnkTest_done {port pattern : BitVec 3} {mode : BitVec 2} {e : BitVec 6} {b : BitVec 7} {x : State}
    (mask : BitVec 10) (pam2 : Bool) (user : BitVec 160) (o : Origin)
    (hl : testLegal port.toNat pattern.toNat mode.toNat e.toNat b.toNat = true) (hi : portIdle x port.toNat = true) :
    bodyLnkTest port.toNat mask.toNat pattern.toNat pam2 user.toNat mode.toNat e.toNat b.toNat o x =
      done (updPort port.toNat (Port.tested
        { mask := mask, pattern := pattern, pam2 := pam2, user := user, inject := mode, e := e, b := b }) x) := by
  rw [bodyLnkTest, hl, if_neg Bool.noConfusion, hi, if_neg Bool.noConfusion]
  simp only [BitVec.ofNat_toNat, BitVec.setWidth_eq]
  rfl

/-- A reading of a test draws a value for each of the ten lanes (R301). -/
theorem bodyLnkTestResult_done {port : BitVec 3} {c : TestCfg} (o : Origin) {x : State} (hp : port.toNat < 6)
    (ht : (portOf x port.toNat).test = some c) :
    ∃ data, bodyLnkTestResult port.toNat o x =
      done (useFree 10 (updPort port.toNat (fun y => { y with testReads := y.testReads + 1 }) x)) data :=
  ⟨_, by rw [bodyLnkTestResult, if_neg (Nat.not_le.2 hp), ht]⟩

theorem bodyLnkFecInject_done {port lane : BitVec 3} {n : BitVec 4} {m : BitVec 16} (o : Origin) {x : State}
    (hp : port.toNat < 6) (h0 : n ≠ 0) (h8 : n.toNat ≤ 8) (hm : m ≠ 0) (hup : (portOf x port.toNat).st = .up)
    (hl : lane.toNat < widthLanes (portOf x port.toNat).txWidth) :
    bodyLnkFecInject port.toNat lane.toNat n.toNat m.toNat o x =
      done (updPort port.toNat (fun y => { y with fecInject := some (lane, n, m) }) x) := by
  have hn : n.toNat ≠ 0 := fun e => h0 (BitVec.eq_of_toNat_eq e)
  have hm' : m.toNat ≠ 0 := fun e => hm (BitVec.eq_of_toNat_eq e)
  rw [bodyLnkFecInject, if_neg (by omega), if_neg (by simp [linkUpAt, hup]), if_neg (Nat.not_le.2 hl)]
  simp only [BitVec.ofNat_toNat, BitVec.setWidth_eq]

theorem bodyLnkLaneLimit_done {limit : BitVec 16} (mask : Nat) (o : Origin) (x : State) (h : limit ≠ 0) :
    bodyLnkLaneLimit mask limit.toNat o x =
      done (forEach (maskPorts mask) (fun p => updPort p (fun y => { y with laneLimit := limit })) x) := by
  have h0 : limit.toNat ≠ 0 := fun e => h (BitVec.eq_of_toNat_eq e)
  rw [bodyLnkLaneLimit, if_neg h0, BitVec.ofNat_toNat, BitVec.setWidth_eq]

/-! ## The obligation -/

/-- Settles O38: each body's answer under the hypotheses, and the reply that such an answer gives on a ready channel; what a
port holds after it is what the body left there, which the answer and the final events leave alone. -/
theorem lnkPortCommandsReply : Obligations.LnkPortCommandsReply := by
  unfold Obligations.LnkPortCommandsReply
  refine ⟨fun s r mask h => serve_report h rfl, ?up, ?down, ?role, ?reset, ?widen, ?test, ?result, ?inject, ?limit⟩
  case up =>
    intro s r mask enc h hm
    obtain ⟨y, hexec, hans, hframe⟩ := serve_then h (bodyLnkUp_open enc _ _ hm) rfl rfl
      (taken_busy' r 0x0902 _ s _ ((forEach_port_frame _ (fun _ => Port.upped enc) _).same .chans rfl))
    refine ⟨_, congrArg Host.Outcome.next hexec, answered_same hans (upEvents_chans _ _ _ y), fun p hp hi => ?_⟩
    have hport : portOf y p = (portOf s p).upped enc :=
      (portOf_congr (hframe.same .lnk rfl) p).trans (portOf_upped enc hp hi)
    rw [(upEvents_lnk _ _ _ y).2 p, hport]
    exact ⟨rfl, rfl, rfl⟩
  case down =>
    intro s r mask h hs
    obtain ⟨hst, hch⟩ := forEach_takeDown (l := maskPorts mask.toNat)
      (s := taken r 0x0903 (packFields [(6, mask.toNat)]) s) (fun p hp => (hs p hp).2)
    obtain ⟨t, hexec, hans, hframe⟩ := serve_done_kept h (bodyLnkDown_done _ hs) hch
    refine ⟨t, hexec, hans, fun p hp => ?_⟩
    rw [portOf_congr (hframe.same .lnk rfl), hst, if_pos hp]
  case role =>
    intro s r member h hm hr
    obtain ⟨t, hexec, hans, hframe⟩ := serve_done_kept h (bodyLnkRole_done _ hm hr) ((changeRole_frame ..).same .chans rfl)
    have hclk := hframe.same .clk rfl
    exact ⟨t, hexec, hans, congrArg Lnk.member (hframe.same .lnk rfl),
      (congrArg Pll.locked (pllOf_congr hclk 0)).trans (changeRole_pll ..), congrArg Clk.timeLocked hclk⟩
  case reset =>
    intro s r mask h hm hp
    obtain ⟨t, hexec, hans, hport⟩ := serve_portsWait h (bodyLnkReset_waits _ hm hp)
    exact ⟨t, hexec, hans, fun p hmem => by rw [hport p hmem]⟩
  case widen =>
    intro s r mask h hm hp
    obtain ⟨t, hexec, hans, hport⟩ := serve_portsWait h (bodyLnkWiden_waits _ hm hp)
    exact ⟨t, hexec, hans, fun p hmem => by rw [hport p hmem]⟩
  case test =>
    intro s r port mask pattern pam2 user mode e b h hl hi
    obtain ⟨t, hexec, hans, hframe⟩ := serve_done_kept h (bodyLnkTest_done mask pam2 user _ hl hi)
    refine ⟨t, hexec, hans, ?_⟩
    rw [portOf_congr (hframe.same .lnk rfl), portOf_updPort_same]
    exact ⟨rfl, rfl⟩
  case result =>
    intro s r port c h hp ht
    obtain ⟨data, hbody⟩ := bodyLnkTestResult_done (originOf r 0x090B)
      (x := taken r 0x090B (packFields [(3, port.toNat)]) s) hp ht
    obtain ⟨t, hexec, hans, hframe⟩ := serve_done_kept h hbody
    refine ⟨t, data, hexec, hans, hframe.same .free rfl, ?_⟩
    rw [portOf_congr (hframe.same .lnk rfl)]
    exact congrArg Port.testReads (portOf_updPort_same ..)
  case inject =>
    intro s r port lane n m h hp h0 h8 hm hup hl
    obtain ⟨t, hexec, hans, hframe⟩ := serve_done_kept h (bodyLnkFecInject_done _ hp h0 h8 hm hup hl)
    exact ⟨t, hexec, hans, by rw [portOf_congr (hframe.same .lnk rfl), portOf_updPort_same]⟩
  case limit =>
    intro s r mask limit h h0
    obtain ⟨t, hexec, hans, hframe⟩ := serve_done_kept h (bodyLnkLaneLimit_done _ _ _ h0)
      ((forEach_port_frame _ (fun _ y => { y with laneLimit := limit }) _).same .chans rfl)
    exact ⟨t, hexec, hans, fun p hp => by rw [portOf_congr (hframe.same .lnk rfl), portOf_forEach_mask _ hp]⟩

end Sys2Proof.Machine

/-! The DRM commands (R308, R321, R323, R325, R328, R330, R331, R333, R336, R339, R340, R605). -/

namespace Sys2Proof.Machine

/-! ## Changes of several channels -/

/-- One change of several channels touches the channels alone. -/
theorem forEach_updDchan_chans (l : List Nat) (f : Chan8 → Chan8) (s : State) :
    ∃ chans, forEach l (fun c => updDchan c f) s = { s with dram := { s.dram with chans := chans } } := by
  induction l generalizing s with
  | nil => exact ⟨s.dram.chans, rfl⟩
  | cons c l ih => exact ih (updDchan c f s)

theorem dchanOf_forEach_mem {c : Nat} {l : List Nat} (hl : l.Nodup) (hc : c ∈ l) (f : Chan8 → Chan8) (s : State) :
    dchanOf (forEach l (fun k => updDchan k f) s) c = f (dchanOf s c) :=
  (dchanOf_forEach hl (fun _ => f) s c).trans (if_pos hc)

theorem maskChans_toNat (mask : BitVec 8) : maskChans mask.toNat = bitsOf mask := by
  rw [maskChans, BitVec.ofNat_toNat, BitVec.setWidth_eq]

/-! ## DRM.SETPOINT and DRM.SETPOINT_CFG -/

theorem inServiceChans_nodup (s : State) : (inServiceChans s).Nodup := List.nodup_range.filter _

/-- A switch starts on the channels in service, all of which it takes out of service (Table DRM-5 step 1). -/
theorem startSwitch_starts (org : Origin) (sp : BitVec 2) {s : State} (h : inServiceChans s ≠ []) :
    (startSwitch org sp s).dram.switch = some (org, sp, inServiceChans s, false) ∧
      (startSwitch org sp s).dram.queued = s.dram.queued ∧
      ∀ c ∈ inServiceChans s, (dchanOf (startSwitch org sp s) c).st = .switching := by
  obtain ⟨chans, hchans⟩ := forEach_updDchan_chans (inServiceChans s) (fun y => { y with st := .switching })
    { s with dram := { s.dram with switch := some (org, sp, inServiceChans s, false) } }
  rw [startSwitch, if_neg h]
  exact ⟨by rw [hchans], by rw [hchans], fun c hc => by rw [dchanOf_forEach_mem (inServiceChans_nodup s) hc]⟩

theorem bodyDrmSetpoint_starts {sp : BitVec 2} (o : Origin) {x : State} (hs : inServiceChans x ≠ [])
    (ht : (spSpeed x sp.toNat).toNat ≤ topSpeedAll x) (hg : gatheringAny x = false) :
    bodyDrmSetpoint sp.toNat o x = { state := startSwitch o sp x, status := .pending } := by
  rw [bodyDrmSetpoint, if_neg (fun h => hs h.1), if_neg (Nat.not_lt.2 ht), hg, if_neg Bool.false_ne_true,
    BitVec.ofNat_toNat, BitVec.setWidth_eq]

/-- A channel with the training results of a set point, or without any (R325, R330). -/
def Chan8.withResults (sp : Nat) (v : Option (List Byte)) (y : Chan8) : Chan8 :=
  { y with results := Tab.set none y.results sp v }

@[simp] theorem Chan8.get_withResults (sp : Nat) (v : Option (List Byte)) (y : Chan8) :
    Tab.get none (y.withResults sp v).results sp = v := Tab.get_set_same ..

/-- A set point with another speed (R325). -/
def withSpeed (sp : Nat) (speed : BitVec 3) (s : State) : State :=
  { s with dram := { s.dram with speeds := Tab.set 0 s.dram.speeds sp speed } }

theorem bodyDrmSetpointCfg_sets {sp : BitVec 2} {speed : BitVec 3} (o : Origin) {x : State} (h4 : speed.toNat ≤ 4)
    (ht : speed.toNat ≤ topSpeedAll x) (hu : spInUse x sp.toNat = false) :
    bodyDrmSetpointCfg sp.toNat speed.toNat o x =
      done (forEach (List.range 8) (fun c => updDchan c (Chan8.withResults sp.toNat none)) (withSpeed sp.toNat speed x)) := by
  rw [bodyDrmSetpointCfg, if_neg (not_or.2 ⟨Nat.not_lt.2 h4, Nat.not_lt.2 ht⟩), hu, if_neg Bool.false_ne_true,
    BitVec.ofNat_toNat, BitVec.setWidth_eq]
  rfl

/-! ## DRM.QOS, DRM.NRR and DRM.PPR_AUTO -/

theorem bodyDrmQos_sets {age : BitVec 16} (cls : Nat) (o : Origin) (x : State) (h : 50 ≤ age.toNat) :
    bodyDrmQos cls age.toNat o x = done { x with dram := { x.dram with ages := Tab.set none x.dram.ages cls (some age) } } := by
  rw [bodyDrmQos, if_neg (Nat.not_lt.2 h), BitVec.ofNat_toNat, BitVec.setWidth_eq]

theorem bodyDrmNrr_sets {e : BitVec 5} (mask : BitVec 8) (o : Origin) (x : State) (h9 : 9 ≤ e.toNat) (h16 : e.toNat ≤ 16) :
    bodyDrmNrr mask.toNat e.toNat o x = done (forEach (bitsOf mask) (fun c => updDchan c (fun y => { y with nrrExp := e })) x) := by
  rw [bodyDrmNrr, if_pos ⟨h9, h16⟩, maskChans_toNat, BitVec.ofNat_toNat, BitVec.setWidth_eq]

theorem bodyDrmPprAuto_disables (mask : BitVec 8) (o : Origin) (x : State) :
    bodyDrmPprAuto mask.toNat false o x =
      done (forEach (bitsOf mask) (fun c => updDchan c (fun y => { y with pprAuto := false })) x) := by
  rw [bodyDrmPprAuto, maskChans_toNat]
  rfl

/-- A command that completes by one change of the channels of its mask. -/
theorem serve_masked {s : State} {r : Req} {cmd : Nat} {args : List Byte} {mask : BitVec 8} {body : Origin → State → Ans}
    {f : Chan8 → Chan8} (h : ready s r cmd = true) (hbody : body (originOf r cmd) (taken r cmd args s) =
      done (forEach (bitsOf mask) (fun c => updDchan c f) (taken r cmd args s))) (hc : cmd < 65536 := by decide) :
    ∃ t, Host.Outcome.next (φ := Fault) (ρ := Refusal) (serve r cmd args body s) = .next t ∧ answered t r cmd .ok [] ∧
      ∀ c ∈ bitsOf mask, dchanOf t c = f (dchanOf s c) := by
  obtain ⟨chans, hchans⟩ := forEach_updDchan_chans (bitsOf mask) f (taken r cmd args s)
  obtain ⟨t, hexec, hans, hframe⟩ := serve_done_kept h hbody (by rw [hchans]) hc
  exact ⟨t, hexec, hans, fun c hc =>
    (dchanOf_congr (hframe.same .dram rfl) c).trans (dchanOf_forEach_mem (bitsOf_nodup mask) hc f _)⟩

/-! ## DRM.PPR -/

theorem holdBank_repair (c : Nat) (s : State) : (dchanOf (holdBank c s) c).repair = (dchanOf s c).repair := by
  unfold holdBank
  split
  · rw [updSub, dchanOf_updDchan_same]
  · rfl

/-- A repair that is asked for is the last of its channel (R332). -/
theorem askRepair_repair (c : Nat) (x : DramLoc) (o : Option Origin) (s : State) :
    (dchanOf (askRepair c x o s) c).repair = (dchanOf s c).repair ++ [(x.rowOnly, o)] := by
  rw [askRepair, holdBank_repair, dchanOf_updDchan_same]

theorem bodyDrmPpr_asks {c : Nat} {x : DramLoc} (o : Origin) {s : State} (hs : (dchanOf s c).st = .inService)
    (hr : rowExists s c x = true) (hn : (dchanOf s c).noSpare.contains x.group = false) :
    bodyDrmPpr c x o s = { state := askRepair c x (some o) s, status := .pending } := by
  rw [bodyDrmPpr, if_neg (not_or.2 ⟨not_not_intro hs, ne_false_of_eq_true hr⟩), hn, if_neg Bool.false_ne_true]

/-! ## DRM.EXCLUDE and DRM.INCLUDE -/

/-- Below the temperature limit a change of the repair record is written at once, as its next generation (R544). -/
theorem writeRecord_rr {s : State} (f : RepairRec → RepairRec) (ht : tooHot s = false) :
    (writeRecord f s).start.rr = { f (recordNow s) with gen := s.start.rr.gen + 1 } := by
  rw [writeRecord]
  exact congrArg (fun x : State => x.start.rr) (if_neg (ne_true_of_eq_false ht))

theorem bodyDrmExclude_writes (mask : BitVec 8) (o : Origin) (x : State) :
    bodyDrmExclude mask.toNat o x = done (writeRecord (fun y => { y with exclude := y.exclude ||| mask }) x) := by
  rw [bodyDrmExclude, BitVec.ofNat_toNat, BitVec.setWidth_eq]

theorem bodyDrmInclude_writes (mask : BitVec 8) (o : Origin) (x : State) :
    bodyDrmInclude mask.toNat o x = done (writeRecord (fun y => { y with exclude := y.exclude &&& ~~~mask }) x) := by
  rw [bodyDrmInclude, BitVec.ofNat_toNat, BitVec.setWidth_eq]

/-- A command that completes by a change of the repair record. -/
theorem serve_record {s : State} {r : Req} {cmd : Nat} {args : List Byte} {body : Origin → State → Ans} {f : RepairRec → RepairRec}
    (h : ready s r cmd = true) (ht : tooHot s = false)
    (hbody : body (originOf r cmd) (taken r cmd args s) = done (writeRecord f (taken r cmd args s)))
    (hc : cmd < 65536 := by decide) :
    ∃ t, Host.Outcome.next (φ := Fault) (ρ := Refusal) (serve r cmd args body s) = .next t ∧ answered t r cmd .ok [] ∧
      t.start.rr = { f (recordNow s) with gen := s.start.rr.gen + 1 } := by
  obtain ⟨t, hexec, hans, hframe⟩ := serve_done_kept h hbody ((writeRecord_frame ..).same .chans rfl) hc
  refine ⟨t, hexec, hans, ?_⟩
  rw [hframe.same .start rfl]
  exact writeRecord_rr (s := taken r cmd args s) f ht

/-! ## Training records -/

theorem bodyDrmTrainExport_stored {c sp : Nat} {record : List Byte} (o : Origin) {x : State}
    (h : Tab.get none (dchanOf x c).results sp = some record) : bodyDrmTrainExport c sp o x = done x record := by
  rw [bodyDrmTrainExport, h]

/-- A record whose serial number one of the channel's DIMMs has is stored for a set point that is not in use (R330). -/
theorem bodyDrmTrainImport_stores {c sp : Nat} {record : List Byte} {d : Dimm} (o : Origin) {x : State}
    (hcrc : Config.recordCrcOk record = true) (hd : some d ∈ (dchanOf x c).dimms) (hs : d.serial = Config.recordSerial record)
    (hu : spInUse x sp = false) :
    bodyDrmTrainImport c sp record o x =
      done (updDchan c (Chan8.withResults sp (some record)) x) := by
  rw [bodyDrmTrainImport]
  refine (if_neg (not_or.2 ⟨?crc, ?known⟩)).trans ?_
  · rw [hcrc]
    decide
  · exact ne_false_of_eq_true (List.any_eq_true.2 ⟨some d, hd, beq_iff_eq.2 hs⟩)
  · rw [hu, if_neg Bool.false_ne_true]
    rfl

/-! ## DRM.DMA_STOP, DRM.STATUS and DRM.ERRLOG -/

theorem bodyDrmDmaStop_stops (mask : BitVec 16) (o : Origin) (x : State) :
    bodyDrmDmaStop mask.toNat o x = { state := { x with dram := { x.dram with
      dmaStopped := x.dram.dmaStopped ||| mask, dmaCmds := x.dram.dmaCmds ++ [o] } }, status := .pending } := by
  rw [bodyDrmDmaStop, BitVec.ofNat_toNat, BitVec.setWidth_eq]

theorem bodyDrmStatus_reports (mask : BitVec 8) (o : Origin) (x : State) :
    bodyDrmStatus mask.toNat o x = done x (packFields ((bitsOf mask).flatMap (fun c =>
      (dramRegs x c).map (fun v => (64, v)) ++ dimmFields ((dchanOf x c).dimms.getD 0 none) ++
        dimmFields ((dchanOf x c).dimms.getD 1 none)))) := by
  rw [bodyDrmStatus, maskChans_toNat]

/-- The counts of the two lists that DRM.ERRLOG reports are those of the error log and of the channel's repair entries (DESIGN
CHOICE, log 39). -/
theorem bodyDrmErrlog_reports (c : Nat) (o : Origin) (x : State) :
    bodyDrmErrlog c o x = done x (packFields
      ([(8, (dchanOf x c).errLog.length), (16, ((recordNow x).ppr.filter (fun e => field e.toNat 0 3 == c)).length)] ++
        ((dchanOf x c).errLog.map (fun e => (pprEntry c e.1 (bit e.2)).toNat) ++
          ((recordNow x).ppr.filter (fun e => field e.toNat 0 3 == c)).map (fun e => e.toNat)).map (fun v => (64, v)))) := by
  rw [bodyDrmErrlog, List.length_map, List.length_map]

/-! ## The obligation -/

/-- Settles O34: each body's answer under the hypotheses, and the reply that such an answer gives on a ready channel; what a
channel or the repair record holds after it is what the body left there, which the answer leaves alone. -/
theorem drmCommandsReply : Obligations.DrmCommandsReply := by
  unfold Obligations.DrmCommandsReply
  refine ⟨?setpoint, ?config, fun s r cls age h ha => serve_ok h (bodyDrmQos_sets _ _ _ ha), ?nrr, ?ppr, ?auto, ?excluded,
    ?included, fun s r c sp x h hx => serve_report h (bodyDrmTrainExport_stored _ hx), ?imported,
    fun s r mask h => serve_open h (bodyDrmDmaStop_stops _ _ _),
    fun s r mask h => serve_report h (bodyDrmStatus_reports _ _ _), fun s r c h => serve_report h (bodyDrmErrlog_reports _ _ _)⟩
  case setpoint =>
    intro s r sp h hs ht hg
    obtain ⟨t, hexec, hans, hframe⟩ := serve_fact_open h (bodyDrmSetpoint_starts _ hs ht hg) rfl rfl rfl
      (taken_busy' r 0x0702 _ s _ ((startSwitch_frame ..).same .chans rfl))
    have hdram := hframe.same .dram rfl
    obtain ⟨hswitch, -, hst⟩ := startSwitch_starts (originOf r 0x0702) sp
      (s := taken r 0x0702 (packFields [(2, sp.toNat)]) s) hs
    exact ⟨t, hexec, hans, (congrArg Dram.switch hdram).trans hswitch, fun c hc => by
      rw [dchanOf_congr hdram]
      exact hst c hc⟩
  case config =>
    intro s r sp speed h h4 ht hu
    obtain ⟨chans, hchans⟩ := forEach_updDchan_chans (List.range 8) (Chan8.withResults sp.toNat none)
      (withSpeed sp.toNat speed (taken r 0x0703 (packFields [(2, sp.toNat), (3, speed.toNat)]) s))
    obtain ⟨t, hexec, hans, hframe⟩ := serve_done_kept h (bodyDrmSetpointCfg_sets _ h4 ht hu) (by rw [hchans]; rfl)
    have hdram := hframe.same .dram rfl
    refine ⟨t, hexec, hans, ?speed, fun c hc => ?results⟩
    case speed =>
      rw [spSpeed, hdram, hchans]
      exact Tab.get_set_same (0 : BitVec 3) _ _ _
    case results =>
      rw [dchanOf_congr hdram, dchanOf_forEach_mem List.nodup_range (List.mem_range.2 hc), Chan8.get_withResults]
  case nrr =>
    intro s r mask e h h9 h16
    obtain ⟨t, hexec, hans, hch⟩ := serve_masked h (bodyDrmNrr_sets mask _ _ h9 h16)
    exact ⟨t, hexec, hans, fun c hc => by rw [hch c hc]⟩
  case ppr =>
    rintro s r c sub dimm rank cid bg ba row x h rfl hs hr hn
    obtain ⟨t, hexec, hans, hframe⟩ := serve_fact_open h (bodyDrmPpr_asks _ hs hr hn) rfl rfl rfl
      (taken_busy' r 0x0706 _ s _ ((askRepair_frame ..).same .chans rfl))
    refine ⟨t, hexec, hans, ?_⟩
    rw [dchanOf_congr (hframe.same .dram rfl)]
    exact askRepair_repair ..
  case auto =>
    intro s r mask h
    obtain ⟨t, hexec, hans, hch⟩ := serve_masked h (bodyDrmPprAuto_disables mask _ _)
    exact ⟨t, hexec, hans, fun c hc => by rw [hch c hc]⟩
  case excluded =>
    intro s r mask h ht
    obtain ⟨t, hexec, hans, hrr⟩ := serve_record h ht (bodyDrmExclude_writes mask _ _)
    exact ⟨t, hexec, hans, hrr⟩
  case included =>
    intro s r mask h ht
    obtain ⟨t, hexec, hans, hrr⟩ := serve_record h ht (bodyDrmInclude_writes mask _ _)
    exact ⟨t, hexec, hans, hrr⟩
  case imported =>
    intro s r c sp x d h hcrc hd hs hu
    obtain ⟨t, hexec, hans, hframe⟩ := serve_done_kept h (bodyDrmTrainImport_stores _ hcrc hd hs hu)
    refine ⟨t, hexec, hans, ?_⟩
    rw [dchanOf_congr (hframe.same .dram rfl), dchanOf_updDchan_same, Chan8.get_withResults]

end Sys2Proof.Machine

/-! DRAM channels in service: failures, retraining, set point switches and soft repairs (R325, R327, R328, R332, R334). -/

namespace Sys2Proof.Machine

/-! ## Retraining -/

section
variable {s : State} {c : Fin 8} (hs : (dchanOf s c.val).st = .inService)
include hs

theorem exec_periodicRetrain_ok : exec (.periodicRetrain c true) s =
    .next (storeResults c.val (dchanOf s c.val).setpoint.toNat s) := by
  show execPeriodicRetrain c true s = _
  rw [execPeriodicRetrain, if_neg (not_not_intro hs), if_pos rfl]

theorem exec_periodicRetrain_failed : exec (.periodicRetrain c false) s = .next (failChannel c.val 3 s) := by
  show execPeriodicRetrain c false s = _
  rw [execPeriodicRetrain, if_neg (not_not_intro hs), if_neg Bool.false_ne_true]
end

/-! ## Set point switches -/

/-- A queued switch starts where nothing is gathering (R328). -/
theorem exec_setpointSwitchStart_queued {s : State} {org : Origin} {sp : BitVec 2} (hq : s.dram.queued = some (org, sp))
    (hg : gatheringAny s = false) : exec .setpointSwitchStart s =
      .next (startSwitch org sp { s with dram := { s.dram with queued := none } }) := by
  show execSetpointSwitchStart s = _
  rw [execSetpointSwitchStart, hq]
  dsimp only
  rw [hg, if_neg Bool.false_ne_true]

/-- A channel in service at a set point (R329). -/
def Chan8.switched (sp : BitVec 2) (speed : BitVec 3) (y : Chan8) : Chan8 :=
  { y with st := .inService, setpoint := sp, speed := speed }

/-- A channel that has trained for a new set point leaves the switch (R328, R329). -/
theorem exec_setpointSwitchDone_ok {s : State} {c : Fin 8} {org : Origin} {sp : BitVec 2} {left : List Nat} {f : Bool}
    (hw : s.dram.switch = some (org, sp, left, f)) (hl : left.contains c.val = true) :
    exec (.setpointSwitchDone c true) s = .next (switchStep c.val false (storeResults c.val sp.toNat
      (updDchan c.val (Chan8.switched sp (spSpeed s sp.toNat)) s))) := by
  show execSetpointSwitchDone c true s = _
  rw [execSetpointSwitchDone, hw]
  dsimp only
  rw [hl, if_neg (by decide), if_pos rfl]
  rfl

/-- A channel that leaves a switch ends it where it is the last (R328). -/
theorem switchStep_switch {s : State} {c : Nat} {org : Origin} {sp : BitVec 2} {left : List Nat} {f : Bool} (failed : Bool)
    (hw : s.dram.switch = some (org, sp, left, f)) (hl : left.contains c = true) :
    (switchStep c failed s).dram.switch = if left.erase c = [] then none else some (org, sp, left.erase c, f || failed) := by
  rw [switchStep, hw]
  dsimp only
  rw [if_pos hl]
  split
  · rw [(finish_frame ..).same .dram rfl]
  · rfl

/-! ## Soft repairs -/

/-- With no repair left no bank is held. -/
theorem holdBank_none {c : Nat} {s : State} (h : (dchanOf s c).repair = []) : holdBank c s = s := by
  rw [holdBank, h]

/-- A channel whose last repair, of row x, is done (R332). -/
def Chan8.repaired (x : DramLoc) (y : Chan8) : Chan8 :=
  { y with repair := [], rowErrs := Tab.set 0 y.rowErrs x.rowKey 0 }

/-- The last repair of a channel, of row x, is done: its bank is free (R332). -/
def repairEnded (c : Nat) (x : DramLoc) (s : State) : State :=
  updSub c x.sub (fun y => { y with heldBank := none }) (updDchan c (Chan8.repaired x) s)

theorem repairEnded_chan (c : Nat) (x : DramLoc) (s : State) :
    (dchanOf (repairEnded c x s) c).repair = [] ∧ Tab.get 0 (dchanOf (repairEnded c x s) c).rowErrs x.rowKey = 0 := by
  rw [repairEnded, updSub, dchanOf_updDchan_same, dchanOf_updDchan_same]
  exact ⟨rfl, Tab.get_set_same 0 (dchanOf s c).rowErrs x.rowKey 0⟩

/-- The repair record gains the hard repair of a row, where it has room (R332). -/
def recordRepair (c : Nat) (x : DramLoc) (s : State) : State :=
  if (recordNow s).ppr.length < 256 then writeRecord (fun y => { y with ppr := y.ppr ++ [pprEntry c x 1] }) s else s

theorem recordRepair_dram (c : Nat) (x : DramLoc) (s : State) : (recordRepair c x s).dram = s.dram := by
  unfold recordRepair
  split
  · exact (writeRecord_frame ..).same .dram rfl
  · rfl

theorem exec_softRepairDone_last {s : State} {c : Fin 8} {x : DramLoc} {org : Option Origin}
    (h : (dchanOf s c.val).repair = [(x, org)]) :
    ∃ t, exec (.softRepairDone c) s = .next t ∧ t.dram = (repairEnded c.val x s).dram := by
  have hexec : exec (.softRepairDone c) s = .next (finishOpt org .drmDone noUnit .ok
      (raise .dramPpr (locData c.val x ++ [(8, 4)]) (holdBank c.val (recordRepair c.val x (repairEnded c.val x s))))) := by
    show execSoftRepairDone c s = _
    rw [execSoftRepairDone, h]
    rfl
  have hdram := recordRepair_dram c.val x (repairEnded c.val x s)
  refine ⟨_, hexec, ?_⟩
  rw [(finishOpt_frame ..).same .dram rfl, (raise_frame ..).same .dram rfl,
    holdBank_none (by rw [dchanOf_congr hdram, (repairEnded_chan ..).1]), hdram]

/-! ## The obligation -/

/-- Settles O33: each row is one operation, whose branch its hypotheses choose. -/
theorem dramChannelRows : Obligations.DramChannelRows := by
  unfold Obligations.DramChannelRows
  refine ⟨fun s c cause h => ⟨_, if_pos h, failChannel_st ..⟩, ?retrained,
    fun s c h => ⟨_, exec_periodicRetrain_failed h, failChannel_st ..⟩, ?start, ?done, ?repaired⟩
  case retrained =>
    intro s c h
    refine ⟨_, exec_periodicRetrain_ok h, ?_⟩
    rw [storeResults_get]
    exact ⟨h, Chan8.get_withResults _ _ (dchanOf s c.val)⟩
  case start =>
    intro s org sp hq hg hs
    obtain ⟨hswitch, hqueued, hst⟩ := startSwitch_starts org sp (s := { s with dram := { s.dram with queued := none } }) hs
    exact ⟨_, exec_setpointSwitchStart_queued hq hg, hqueued, hswitch, hst⟩
  case done =>
    intro s c org sp left f hw hl
    refine ⟨_, exec_setpointSwitchDone_ok hw hl, ?_⟩
    rw [dchanOf_chans (switchStep_chans ..), storeResults_get, dchanOf_updDchan_same]
    refine ⟨rfl, rfl, rfl, ?_⟩
    refine (switchStep_switch false ?_ hl).trans (by rw [Bool.or_false])
    exact hw
  case repaired =>
    intro s c x org h
    obtain ⟨t, hexec, hdram⟩ := exec_softRepairDone_last h
    obtain ⟨hrepair, herrs⟩ := repairEnded_chan c.val x s
    rw [← dchanOf_congr hdram] at hrepair herrs
    refine ⟨t, hexec, hrepair, ?_, herrs⟩
    rw [subOf_congr hdram, repairEnded, subOf_updSub_same]

end Sys2Proof.Machine

/-! Requests, lines and refreshes at the DRAM (R311, R313, R317, R319 to R322, R340). -/

namespace Sys2Proof.Machine

/-! ## A request of one line -/

/-- A line on a channel that has not failed, outside every integrity region, goes to DRAM (Table PRT-4). -/
theorem judgeLines_one {q : NocReq} {l : Nat} {s : State} (find : EngineFind) (hm : metaFailed s l = false)
    (hir : irOfPage s (l / 64) = none) : judgeLines q find [l] s = { left := [l], status := .ok, state := s } := by
  have hj : judgeLine q find l s = (none, s) := by
    rw [judgeLine, hm, hir, if_neg Bool.false_ne_true]
  rw [judgeLines, hj]
  rfl

/-- Line l of a request as it stands in the queue of its sub-channel (R311, R319). -/
def lineOp (s : State) (q : NocReq) (l : Nat) : LineOp :=
  { job := s.dram.next, line := l, loc := lineLoc s (lineChan s l).1 (lineChan s l).2.1 (lineChan s l).2.2, cls := q.cls,
    promoted := false }

/-- A request of one line that has reached the DRAM side (R313). -/
def lineJob (s : State) (q : NocReq) (l : Nat) : DramJob :=
  { id := s.dram.next, req := q, left := [l], got := [], status := .ok }

/-- A request of one line takes its place at the DRAM side and in the queue of its sub-channel (R313, R319). -/
def enterLine (q : NocReq) (l : Nat) (s : State) : State :=
  updSub (lineChan s l).1 (lineChan s l).2.1 (fun y => { y with queue := y.queue ++ [lineOp s q l] })
    { dropMesh q s with dram := { s.dram with jobs := s.dram.jobs ++ [lineJob s q l], next := s.dram.next + 1 } }

/-- A request of one line has one line for its sub-channel. -/
theorem lineOp_counted (s : State) (q : NocReq) (l : Nat) : ([((lineChan s l).1, lineOp s q l)].filter
    (fun p => p.1 == (lineChan s l).1 && p.2.loc.sub == (lineOp s q l).loc.sub)).length = 1 := by
  rw [List.filter_cons_of_pos (by rw [beq_self_eq_true, beq_self_eq_true]; rfl), List.filter_nil]
  rfl

/-- Nothing bars a request from DRAM: neither domains, protected ranges, the engine nor the carve-out (Table PRT-4). -/
structure Unbarred (s : State) (src : BitVec 8) (q : NocReq) : Prop where
  dest : destOf s q.addr.toNat = .dram
  shut : targetShut s q.addr.toNat = false
  prot : protDenied s src.toNat q.addr.toNat = false
  engine : s.start.engineFailed = false
  key : s.prt.key = true
  cut : domCut s 2 = false
  carve : inCarve s q.addr.toNat (8 * dramWords q) = false

theorem exec_dramRequest_one {s : State} {src : BitVec 8} {tag : BitVec 12} {q : NocReq} {l : Nat} (find : EngineFind)
    (hq : meshReq s src tag = some q) (hu : Unbarred s src q) (hl : dramLines q = [l]) (hm : metaFailed s l = false)
    (hir : irOfPage s (l / 64) = none) (hroom : (subOf s (lineChan s l).1 (lineChan s l).2.1).queue.length < 128) :
    exec (.dramRequest src tag find) s = .next (enterLine q l s) := by
  show execDramRequest src tag find s = _
  rw [execDramRequest, hq]
  dsimp only
  rw [if_neg (not_not_intro hu.dest), hu.shut, if_neg Bool.false_ne_true, hu.prot, if_neg Bool.false_ne_true, hu.engine,
    if_neg Bool.false_ne_true, hu.key, hu.cut, if_neg (by decide), hu.carve, if_neg Bool.false_ne_true, hl,
    judgeLines_one find hm hir]
  have hfits : (subOf s (lineChan s l).1 (lineOp s q l).loc.sub).queue.length +
      ([((lineChan s l).1, lineOp s q l)].filter
        (fun p => p.1 == (lineChan s l).1 && p.2.loc.sub == (lineOp s q l).loc.sub)).length ≤ 128 := by
    rw [lineOp_counted]
    exact hroom
  exact (if_neg (ne_false_of_eq_true ((Bool.and_true _).trans (decide_eq_true hfits)))).trans rfl

/-! ## The line that a sub-channel picks -/

/-- A sub-channel that serves a line request: it leaves the queue, and its row is open (R319, R320). -/
def SubChan.opened (o : LineOp) (y : SubChan) : SubChan :=
  { y with queue := y.queue.erase o, openRows := Tab.set none y.openRows o.loc.bank (some o.loc.row) }

theorem SubChan.opened_row (o : LineOp) (y : SubChan) : Tab.get none (y.opened o).openRows o.loc.bank = some o.loc.row :=
  Tab.get_set_same none y.openRows o.loc.bank (some o.loc.row)

/-- A line request has left the queue of its sub-channel; what lines, requests and answers rest on is as before. -/
structure LineTaken (c : Nat) (sub : Bool) (o : LineOp) (s t : State) : Prop where
  sub : subOf t c sub = (subOf s c sub).opened o
  lines : t.dram.lines = s.dram.lines
  fills : t.dram.fills = s.dram.fills
  list : t.dram.list = s.dram.list
  k : t.dram.k = s.dram.k
  prt : t.prt = s.prt
  free : t.free = s.free
  noc : t.noc = s.noc
  pwr : t.pwr = s.pwr
  lnk : t.lnk = s.lnk

/-- A request after one of its lines has been performed (R313). -/
def DramJob.afterLine (l : Nat) (st : Status) (d : BitVec 512) (j : DramJob) : DramJob :=
  { j with left := j.left.erase l, got := Tab.set 0 j.got l d, status := worseStatus j.status st }

/-- The request of a line that has been performed: it is answered with its last line (R313). -/
def lineDone (o : LineOp) (j : DramJob) (p : Status × BitVec 512 × State) : State :=
  let j' := j.afterLine o.line p.1 p.2.1
  let s1 := { p.2.2 with dram := { p.2.2.dram with jobs := p.2.2.dram.jobs.map (fun x => if x.id = j.id then j' else x) } }
  if j'.left = [] then endJob j' s1 else s1

theorem serveOp_takes {s : State} {o : LineOp} {j : DramJob} (c : Nat) (sub : Bool) (u : LineUpset) (nrr : Bool)
    (hj : jobById s o.job = some j) : ∃ t, LineTaken c sub o s t ∧
      serveOp c sub o u nrr s = lineDone o j (performLine c o j.req u t) := by
  obtain ⟨t, ht, hjobs, hsub, hprt, hlines, hfills, hfree, hnoc, hpwr, hlist, hk, hlnk⟩ := serveOp_mid c sub nrr o s
  refine ⟨t, ⟨hsub, hlines, hfills, hlist, hk, hprt, hfree, hnoc, hpwr, hlnk⟩, ?_⟩
  rw [serveOp, ← ht, hjobs, hj]
  rfl

/-- A sub-channel of a channel in service serves the line that it picks. -/
theorem exec_dramServe_picks {s : State} {c : Fin 8} {sub : Bool} {o : LineOp} (u : LineUpset) (nrr : Bool)
    (hs : (dchanOf s c.val).st = .inService) (hd : domCut s (7 + c.val) = false)
    (hp : pickOp s (subOf s c.val sub) = some o) : exec (.dramServe c sub u nrr) s = .next (serveOp c.val sub o u nrr s) := by
  show execDramServe c sub u nrr s = _
  rw [execDramServe, if_neg (not_or.2 ⟨not_not_intro hs, ne_true_of_eq_false hd⟩), hp]

/-! ## Reading and writing a line -/

theorem lineRead_congr {x y : State} (hl : x.dram.lines = y.dram.lines) (hf : x.dram.fills = y.dram.fills) (hp : x.prt = y.prt)
    (hv : x.free = y.free) (l : Nat) : (lineRead l x).1 = (lineRead l y).1 := by
  rw [lineRead, lineRead, hl, hf, hp]
  have hnow : freeNow x = freeNow y := congrArg Config.freeValue hv
  split
  · split
    · rfl
    · rw [hnow]
  · split
    · split
      · rfl
      · rw [hnow]
    · rw [hnow]

theorem coversLine_read {q : NocReq} (l : Nat) (h : q.op = .read) : coversLine q l = false := by
  rw [coversLine, h]
  rfl

/-- A read without an error answers the line as it is (R316). -/
theorem performLine_read {c : Nat} {o : LineOp} {q : NocReq} {s : State} (hop : q.op = .read) (hb : (lineRead o.line s).1.2 = false) :
    performLine c o q .none s = (.ok, (lineRead o.line s).1.1, (lineRead o.line s).2) := by
  have hstrike : strikeLine .none o.line s = s := rfl
  generalize hread : lineRead o.line s = p at hb ⊢
  obtain ⟨⟨d, bad⟩, t⟩ := p
  rw [performLine, coversLine_read _ hop, if_neg Bool.false_ne_true, hstrike]
  dsimp only at hb ⊢
  rw [hread]
  dsimp only
  rw [hb, if_neg Bool.false_ne_true, if_pos hop, if_neg (by decide)]

theorem lineStore_get (l : Nat) (d : BitVec 512) (bad : Bool) (s : State) :
    Tab.get none (lineStore l d bad s).dram.lines l = some { data := d, gen := s.prt.gen, bad := bad } :=
  Tab.get_set_same none s.dram.lines l (some { data := d, gen := s.prt.gen, bad := bad })

/-- A write of a whole line outside every integrity region stores it unread (R317). -/
theorem performLine_write {c : Nat} {o : LineOp} {q : NocReq} {s : State} (u : LineUpset) (hc : coversLine q o.line = true)
    (hir : irOfPage s (o.line / 64) = none) :
    performLine c o q u s = (.ok, 0, lineStore o.line (mergeLine q o.line 0) false s) := by
  rw [performLine, if_pos hc, writeLine, hir]

/-! ## What the end of a line leaves -/

theorem lineDone_chans (o : LineOp) (j : DramJob) (st : Status) (d : BitVec 512) (s : State) :
    (lineDone o j (st, d, s)).dram.chans = s.dram.chans := by
  rw [lineDone]
  dsimp only
  split
  · rw [endJob_chans]
  · rfl

theorem lineDone_lines (o : LineOp) (j : DramJob) (st : Status) (d : BitVec 512) (s : State) :
    (lineDone o j (st, d, s)).dram.lines = s.dram.lines := by
  rw [lineDone]
  dsimp only
  split
  · exact (LinesAll.endJob _ (LinesAll.refl _)).go
  · rfl

/-- With its last line a request is answered (R313). -/
theorem lineDone_rsps {o : LineOp} {j : DramJob} {st : Status} {d : BitVec 512} {s : State} (hl : j.left = [o.line])
    (hr : rspLost s j.req.src.toNat j.req.addr.toNat = false) :
    (lineDone o j (st, d, s)).noc.rsps = s.noc.rsps ++
      [{ src := j.req.src, tag := j.req.tag, status := worseStatus j.status st, data := jobData (j.afterLine o.line st d) }] := by
  have hlast : (j.afterLine o.line st d).left = [] := by
    show j.left.erase o.line = []
    rw [hl, List.erase_cons_head]
  rw [lineDone]
  dsimp only
  rw [if_pos hlast, endJob, respond_go _ _ ?_]
  · rfl
  · refine Eq.trans (rspLost_congr ?_ ?_ ?_ ?_ _ _) hr
    all_goals rfl

/-! ## DRM.DMA_STOP -/

/-- With no request of PF1 outstanding the stops in progress end (R340; DEDUCED, log 41). -/
theorem exec_dmaStopDone_idle {s : State} (hne : s.dram.dmaCmds ≠ []) (hout : ∀ q ∈ s.noc.out, q.src ≠ 70) :
    exec .dmaStopDone s = .next (s.dram.dmaCmds.foldl (fun a o => finish o .drmDone noUnit .ok a)
      { s with dram := { s.dram with dmaCmds := [] } }) := by
  have hnone : s.noc.out.any (fun q => q.src == 70) = false := List.any_eq_false.2 fun q hq h => hout q hq (beq_iff_eq.1 h)
  show execDmaStopDone s = _
  rw [execDmaStopDone, if_neg (not_or.2 ⟨hne, ne_true_of_eq_false hnone⟩)]

theorem finishAll_frame (l : List Origin) (ev : Ev) (unit : Nat) (st : Status) (s : State) :
    Frame [.lnk, .mbx, .evt] s (l.foldl (fun a o => finish o ev unit st a) s) :=
  Frame.fold (f := fun a o => finish o ev unit st a) (fun a o => finish_frame o ev unit st a) l s

/-! ## The obligation -/

/-- Settles O32: each row is one operation, whose branch its hypotheses choose; a line is performed in the state that has
taken it from its queue, where it reads as before. -/
theorem dramTrafficRows : Obligations.DramTrafficRows := by
  unfold Obligations.DramTrafficRows
  refine ⟨?request, ?read, ?write, ?promotion, ?refresh, ?stopped⟩
  case request =>
    intro s src tag find q l hq hd hshut hprot heng hkey hcut hcarve hl hm hir hroom
    refine ⟨_, exec_dramRequest_one find hq ⟨hd, hshut, hprot, heng, hkey, hcut, hcarve⟩ hl hm hir hroom, rfl, rfl, ?_⟩
    rw [enterLine, subOf_updSub_same]
    rfl
  case read =>
    intro s c sub nrr o j hs hd hp hj hleft hop _ hb hst hr
    obtain ⟨x, hx, hserve⟩ := serveOp_takes c.val sub .none nrr hj
    have hread := lineRead_congr hx.lines hx.fills hx.prt hx.free o.line
    rw [performLine_read hop (by rw [hread, hb]), hread] at hserve
    refine ⟨_, exec_dramServe_picks .none nrr hs hd hp, ?_⟩
    rw [hserve]
    have hkept := lineRead_frame o.line x
    have hdram : (lineRead o.line x).2.dram = x.dram := hkept.same .dram rfl
    have hlost : rspLost (lineRead o.line x).2 j.req.src.toNat j.req.addr.toNat = false := by
      rw [rspLost_congr (by rw [hdram, hx.list]) (by rw [hdram, hx.k]) ((hkept.same .lnk rfl).trans hx.lnk)
        ((hkept.same .pwr rfl).trans hx.pwr), hr]
    have hsub : subOf (lineDone o j (.ok, (lineRead o.line s).1.1, (lineRead o.line x).2)) c.val sub = _ :=
      (subOf_chans ((lineDone_chans ..).trans (congrArg Dram.chans hdram)) ..).trans hx.sub
    refine ⟨?_, by rw [hsub]; rfl, by rw [hsub, SubChan.opened_row]⟩
    rw [lineDone_rsps hleft hlost, hkept.same .noc rfl, hx.noc, DramJob.afterLine, hleft, List.erase_cons_head, hst]
    rfl
  case write =>
    intro s c sub nrr o j hs hd hp hj hc hir
    obtain ⟨x, hx, hserve⟩ := serveOp_takes c.val sub .none nrr hj
    rw [performLine_write .none hc ((irOfPage_congr hx.prt _).trans hir)] at hserve
    refine ⟨_, exec_dramServe_picks .none nrr hs hd hp, ?_⟩
    rw [hserve, lineDone_lines, lineStore_get, hx.prt]
  case promotion =>
    intro s c sub pick o h
    have hexec : exec (.agePromotion c sub pick) s =
        .next (updSub c.val sub (fun y => { y with queue := promote s o y.queue }) s) := by
      show execAgePromotion c sub pick s = _
      rw [execAgePromotion, h]
    refine ⟨_, hexec, ?_⟩
    rw [subOf_updSub_same]
    exact ⟨rfl, promote_mem s o _ (List.mem_of_getElem? h)⟩
  case refresh =>
    intro s c sub h
    refine ⟨_, if_pos h, ?_⟩
    rw [subOf_updSub_same]
    exact ⟨rfl, rfl⟩
  case stopped =>
    intro s hne hout
    exact ⟨_, exec_dmaStopDone_idle hne hout, (finishAll_frame ..).same .dram rfl⟩

end Sys2Proof.Machine

/-! Protected ranges that are locked (R364). -/

namespace Sys2Proof.Machine

/-! ## What each command may change -/

theorem NextFrame.within {w W : List Part} {s : State} {o : Host.Outcome State Fault Refusal} (h : NextFrame w s o)
    (hw : Part.sub w W = true := by rfl) : NextFrame W s o :=
  h.imp fun _ ⟨e, f⟩ => ⟨e, f.after (Frame.refl _ _) hw⟩

/-- Every command keeps the parts that its entry of `writes` does not name: the frame of each arm of `exec`. -/
theorem exec_frame (c : Instr) (s : State) : NextFrame (writes c) s (exec c s) :=
  match c with
  | .pwrGoodRise => (execPwrGoodRise_frame ..).within
  | .powerCycle => (execPowerCycle_frame ..).within
  | .resetNAssert => (execResetNAssert_frame ..).within
  | .resetNRelease .. => (execResetNRelease_frame ..).within
  | .pllLock .. => (execPllLock_frame ..).within
  | .refMonitorWindow .. => (execRefMonitorWindow_frame ..).within
  | .bistRoundDone .. => (execBistRoundDone_frame ..).within
  | .valignStart => (execValignStart_frame ..).within
  | .valignDone .. => (execValignDone_frame ..).within
  | .valignTrackStep .. => (execValignTrackStep_frame ..).within
  | .valignLost .. => (execValignLost_frame ..).within
  | .fabricClockLost .. => (execFabricClockLost_frame ..).within
  | .bootLoadStart .. => (execBootLoadStart_frame ..).within
  | .loadImageHeader .. => (execLoadImageHeader_frame ..).within
  | .loadFrameReceived .. => (execLoadFrameReceived_frame ..).within
  | .loadImageEnd .. => (execLoadImageEnd_frame ..).within
  | .bootLoadComplete => (execBootLoadComplete_frame ..).within
  | .cfgWsWptrWrite .. => (execCfgWsWptrWrite_frame ..).within
  | .jtagCfgStream .. => (execJtagCfgStream_frame ..).within
  | .jtagMbxAccess .. => (execJtagMbxAccess_frame ..).within
  | .jtagTagAccess .. => (execJtagTagAccess_frame ..).within
  | .jtagScanBase => (execJtagScanBase_frame ..).within
  | .jtagBoundaryScan .. => (execJtagBoundaryScan_frame ..).within
  | .stagingShareGrant .. => (execStagingShareGrant_frame ..).within
  | .stagingDone .. => (execStagingDone_frame ..).within
  | .readbackDone => (execReadbackDone_frame ..).within
  | .scrubFrameCheck .. => (execScrubFrameCheck_frame ..).within
  | .scrubPassEnd .. => (execScrubPassEnd_frame ..).within
  | .scrubStallTimeout => (execScrubStallTimeout_frame ..).within
  | .storePatrolRead .. => (execStorePatrolRead_frame ..).within
  | .regionResetEnd .. => (execRegionResetEnd_frame ..).within
  | .regionCtlSwitchRequest .. => (execRegionCtlSwitchRequest_frame ..).within
  | .regionCtlSwitchEffect .. => (execRegionCtlSwitchEffect_frame ..).within
  | .windowBoundary => (execWindowBoundary_frame ..).within
  | .carryoverParity .. => (execCarryoverParity_frame ..).within
  | .tsvGroupSuspect .. => (execTsvGroupSuspect_frame ..).within
  | .tsvSwapDone .. => (execTsvSwapDone_frame ..).within
  | .tsvWalkTest .. => (execTsvWalkTest_frame ..).within
  | .portNop .. => (execPortNop_frame ..).within
  | .portRead .. => (execPortRead_frame ..).within
  | .portWrite .. => (execPortWrite_frame ..).within
  | .portEnq .. => (execPortEnq_frame ..).within
  | .portDeq .. => (execPortDeq_frame ..).within
  | .portPeek .. => (execPortPeek_frame ..).within
  | .portReturn .. => (execPortReturn_frame ..).within
  | .queueEntryVisible .. => (execQueueEntryVisible_frame ..).within
  | .nocBlockRequest .. => (execNocBlockRequest_frame ..).within
  | .portNCycle .. => (execPortNCycle_frame ..).within
  | .patrolRead .. => (execPatrolRead_frame ..).within
  | .patrolWriteback .. => (execPatrolWriteback_frame ..).within
  | .memColumn .. => (execMemColumn_frame ..).within
  | .sectorClearDone .. => (execSectorClearDone_frame ..).within
  | .memInitDone .. => (execMemInitDone_frame ..).within
  | .qctlCreditReturnWrite .. => (execQctlCreditReturnWrite_frame ..).within
  | .memCselWrite .. => (execMemCselWrite_frame ..).within
  | .memCctlClear .. => (execMemCctlClear_frame ..).within
  | .registerWrite .. => (execRegisterWrite_frame ..).within
  | .nocRequestIssue .. => (execNocRequestIssue_frame ..).within
  | .nocResponseDelivered .. => (execNocResponseDelivered_frame ..).within
  | .nocRequestTimeout .. => (execNocRequestTimeout_frame ..).within
  | .nocPortReqPush .. => (execNocPortReqPush_frame ..).within
  | .nocPortRspPop .. => (execNocPortRspPop_frame ..).within
  | .schedWordSend .. => (execSchedWordSend_frame ..).within
  | .schedWordDeliver .. => (execSchedWordDeliver_frame ..).within
  | .routerReconfigDone .. => (execRouterReconfigDone_frame ..).within
  | .nocRouterFailed .. => (execNocRouterFailed_frame ..).within
  | .tampComplete .. => (execTampComplete_frame ..).within
  | .domainPowerUpDone .. => (execDomainPowerUpDone_frame ..).within
  | .domainPowerDownDone .. => (execDomainPowerDownDone_frame ..).within
  | .baseWarmReset => (execBaseWarmReset_frame ..).within
  | .pcieHotReset => (execPcieHotReset_frame ..).within
  | .pf0FunctionReset => (execPf0FunctionReset_frame ..).within
  | .pf1FunctionReset => (execPf1FunctionReset_frame ..).within
  | .deepIdleEnter => (execDeepIdleEnter_frame ..).within
  | .wakeEvent .. => (execWakeEvent_frame ..).within
  | .wakeDone => (execWakeDone_frame ..).within
  | .sensorSample .. => (execSensorSample_frame ..).within
  | .thermalClear .. => (execThermalClear_frame ..).within
  | .privilegedTrip .. => (execPrivilegedTrip_frame ..).within
  | .privilegedRestart => (execPrivilegedRestart_frame ..).within
  | .compensationStep .. => (execCompensationStep_frame ..).within
  | .tamper .. => (execTamper_frame ..).within
  | .bootKeyRedraw => (execBootKeyRedraw_frame ..).within
  | .trngHealthFail => (execTrngHealthFail_frame ..).within
  | .trngOutputTimeout => (execTrngOutputTimeout_frame ..).within
  | .drbgReseed => (execDrbgReseed_frame ..).within
  | .vaultAccess .. => (execVaultAccess_frame ..).within
  | .vaultWipeDone => (execVaultWipeDone_frame ..).within
  | .dramRequest .. => (execDramRequest_frame ..).within
  | .conversionPage .. => (execConversionPage_frame ..).within
  | .irSetDone .. => (execIrSetDone_frame ..).within
  | .dramServe .. => (execDramServe_frame ..).within
  | .agePromotion .. => (execAgePromotion_frame ..).within
  | .refreshTimer .. => (execRefreshTimer_frame ..).within
  | .periodicRetrain .. => (execPeriodicRetrain_frame ..).within
  | .setpointSwitchStart => (execSetpointSwitchStart_frame ..).within
  | .setpointSwitchDone .. => (execSetpointSwitchDone_frame ..).within
  | .softRepairDone .. => (execSoftRepairDone_frame ..).within
  | .dramChannelFailed .. => (execDramChannelFailed_frame ..).within
  | .dmaStopDone => (execDmaStopDone_frame ..).within
  | .linkDetectStep .. => (execLinkDetectStep_frame ..).within
  | .linkTrainingStepDone .. => (execLinkTrainingStepDone_frame ..).within
  | .linkStepTimeout .. => (execLinkStepTimeout_frame ..).within
  | .linkRetryTimer .. => (execLinkRetryTimer_frame ..).within
  | .linkUp .. => (execLinkUp_frame ..).within
  | .linkFrameReceived .. => (execLinkFrameReceived_frame ..).within
  | .beaconSend => (execBeaconSend_frame ..).within
  | .beaconReceived .. => (execBeaconReceived_frame ..).within
  | .spareRequest .. => (execSpareRequest_frame ..).within
  | .widthRequest .. => (execWidthRequest_frame ..).within
  | .linkAcknowledge .. => (execLinkAcknowledge_frame ..).within
  | .delayMeasurementRequest .. => (execDelayMeasurementRequest_frame ..).within
  | .delayMeasurementReply .. => (execDelayMeasurementReply_frame ..).within
  | .poisonNotice .. => (execPoisonNotice_frame ..).within
  | .capabilityWord .. => (execCapabilityWord_frame ..).within
  | .laneFailed .. => (execLaneFailed_frame ..).within
  | .laneMapSwitch .. => (execLaneMapSwitch_frame ..).within
  | .spareLaneCheck .. => (execSpareLaneCheck_frame ..).within
  | .upstreamClockLost => (execUpstreamClockLost_frame ..).within
  | .clockLossRetrain => (execClockLossRetrain_frame ..).within
  | .txnRequestReceived .. => (execTxnRequestReceived_frame ..).within
  | .txnResponseReceived .. => (execTxnResponseReceived_frame ..).within
  | .mgmtMessageReceived .. => (execMgmtMessageReceived_frame ..).within
  | .mgmtEventMessage .. => (execMgmtEventMessage_frame ..).within
  | .forwardTimeout => (execForwardTimeout_frame ..).within
  | .dspTokenWrite .. => (execDspTokenWrite_frame ..).within
  | .dspDoneWrite .. => (execDspDoneWrite_frame ..).within
  | .dspSourceDequeue => (execDspSourceDequeue_frame ..).within
  | .dspCreate => (execDspCreate_frame ..).within
  | .dspOperand => (execDspOperand_frame ..).within
  | .dspDone => (execDspDone_frame ..).within
  | .dspDispatch .. => (execDspDispatch_frame ..).within
  | .dspGroupWrite .. => (execDspGroupWrite_frame ..).within
  | .pinEdge .. => (execPinEdge_frame ..).within
  | .pinOutputLaunch .. => (execPinOutputLaunch_frame ..).within
  | .pinEventPop .. => (execPinEventPop_frame ..).within
  | .pinWindowOpen .. => (execPinWindowOpen_frame ..).within
  | .pinWindowResult .. => (execPinWindowResult_frame ..).within
  | .bankLevelMeasure .. => (execBankLevelMeasure_frame ..).within
  | .bankPowerRecover .. => (execBankPowerRecover_frame ..).within
  | .pinShort .. => (execPinShort_frame ..).within
  | .pinOvervoltage .. => (execPinOvervoltage_frame ..).within
  | .pinProbePhase .. => (execPinProbePhase_frame ..).within
  | .pinPolarityCheck .. => (execPinPolarityCheck_frame ..).within
  | .mbxRing .. => (execMbxRing_frame ..).within
  | .mbxAck .. => (execMbxAck_frame ..).within
  | .mbxClear .. => (execMbxClear_frame ..).within
  | .mbxReqPush .. => (execMbxReqPush_frame ..).within
  | .mbxRspPop .. => (execMbxRspPop_frame ..).within
  | .smbusPointerWrite .. => (execSmbusPointerWrite_frame ..).within
  | .smbusBlockWrite .. => (execSmbusBlockWrite_frame ..).within
  | .smbusBlockRead => (execSmbusBlockRead_frame ..).within
  | .smbusArp .. => (execSmbusArp_frame ..).within
  | .baristaExecute => (execBaristaExecute_frame ..).within
  | .evtRingEnable .. => (execEvtRingEnable_frame ..).within
  | .evtRingTailWrite .. => (execEvtRingTailWrite_frame ..).within
  | .evtAlertAckWrite .. => (execEvtAlertAckWrite_frame ..).within
  | .lockstepMismatch => (execLockstepMismatch_frame ..).within
  | .lockstepRestartDone .. => (execLockstepRestartDone_frame ..).within
  | .fwTrialTimeout => (execFwTrialTimeout_frame ..).within
  | .regionTestDone .. => (execRegionTestDone_frame ..).within
  | .memoryTestDone .. => (execMemoryTestDone_frame ..).within
  | .analogTestDone .. => (execAnalogTestDone_frame ..).within
  | .skipChangeDone .. => (execSkipChangeDone_frame ..).within
  | .repairRecordWrite => (execRepairRecordWrite_frame ..).within
  | .tagWriteDone => (execTagWriteDone_frame ..).within
  | .lifecycleDone => (execLifecycleDone_frame ..).within
  | .sysHello .. => (execSysHello_frame ..).within
  | .sysVersion .. => (execSysVersion_frame ..).within
  | .sysFwLoad .. => (execSysFwLoad_frame ..).within
  | .sysFwUpdate .. => (execSysFwUpdate_frame ..).within
  | .sysFwActivate .. => (execSysFwActivate_frame ..).within
  | .sysFwStatus .. => (execSysFwStatus_frame ..).within
  | .sysRestart .. => (execSysRestart_frame ..).within
  | .sysChannelPolicy .. => (execSysChannelPolicy_frame ..).within
  | .sysFwdTimeout .. => (execSysFwdTimeout_frame ..).within
  | .cfgLoad .. => (execCfgLoad_frame ..).within
  | .cfgStatus .. => (execCfgStatus_frame ..).within
  | .cfgList .. => (execCfgList_frame ..).within
  | .cfgDelete .. => (execCfgDelete_frame ..).within
  | .cfgReadback .. => (execCfgReadback_frame ..).within
  | .cfgScrubStatus .. => (execCfgScrubStatus_frame ..).within
  | .cfgMemInit .. => (execCfgMemInit_frame ..).within
  | .cfgMemMode .. => (execCfgMemMode_frame ..).within
  | .cfgMemStatus .. => (execCfgMemStatus_frame ..).within
  | .ctxStage .. => (execCtxStage_frame ..).within
  | .ctxSwitch .. => (execCtxSwitch_frame ..).within
  | .ctxStart .. => (execCtxStart_frame ..).within
  | .ctxHold .. => (execCtxHold_frame ..).within
  | .ctxResume .. => (execCtxResume_frame ..).within
  | .ctxStop .. => (execCtxStop_frame ..).within
  | .ctxReset .. => (execCtxReset_frame ..).within
  | .ctxClear .. => (execCtxClear_frame ..).within
  | .ctxEvict .. => (execCtxEvict_frame ..).within
  | .ctxStatus .. => (execCtxStatus_frame ..).within
  | .ctxWindow .. => (execCtxWindow_frame ..).within
  | .pwrStatus .. => (execPwrStatus_frame ..).within
  | .pwrOn .. => (execPwrOn_frame ..).within
  | .pwrOff .. => (execPwrOff_frame ..).within
  | .pwrTamp .. => (execPwrTamp_frame ..).within
  | .pwrRetain .. => (execPwrRetain_frame ..).within
  | .pwrWakeCfg .. => (execPwrWakeCfg_frame ..).within
  | .pwrBaseReset .. => (execPwrBaseReset_frame ..).within
  | .clkStatus .. => (execClkStatus_frame ..).within
  | .clkFabric .. => (execClkFabric_frame ..).within
  | .clkAux .. => (execClkAux_frame ..).within
  | .thmStatus .. => (execThmStatus_frame ..).within
  | .thmSensors .. => (execThmSensors_frame ..).within
  | .thmLimits .. => (execThmLimits_frame ..).within
  | .drmStatus .. => (execDrmStatus_frame ..).within
  | .drmSetpoint .. => (execDrmSetpoint_frame ..).within
  | .drmSetpointCfg .. => (execDrmSetpointCfg_frame ..).within
  | .drmQos .. => (execDrmQos_frame ..).within
  | .drmNrr .. => (execDrmNrr_frame ..).within
  | .drmPpr .. => (execDrmPpr_frame ..).within
  | .drmPprAuto .. => (execDrmPprAuto_frame ..).within
  | .drmExclude .. => (execDrmExclude_frame ..).within
  | .drmInclude .. => (execDrmInclude_frame ..).within
  | .drmTrainExport .. => (execDrmTrainExport_frame ..).within
  | .drmTrainImport .. => (execDrmTrainImport_frame ..).within
  | .drmDmaStop .. => (execDrmDmaStop_frame ..).within
  | .drmErrlog .. => (execDrmErrlog_frame ..).within
  | .prtStatus .. => (execPrtStatus_frame ..).within
  | .prtCapacity .. => (execPrtCapacity_frame ..).within
  | .prtIrSet .. => (execPrtIrSet_frame ..).within
  | .prtReinit .. => (execPrtReinit_frame ..).within
  | .prtRangeSet .. => (execPrtRangeSet_frame ..).within
  | .prtPriv .. => (execPrtPriv_frame ..).within
  | .lnkStatus .. => (execLnkStatus_frame ..).within
  | .lnkUp .. => (execLnkUp_frame ..).within
  | .lnkDown .. => (execLnkDown_frame ..).within
  | .lnkRole .. => (execLnkRole_frame ..).within
  | .lnkRouteSet .. => (execLnkRouteSet_frame ..).within
  | .lnkRouteGet .. => (execLnkRouteGet_frame ..).within
  | .lnkCwinSet .. => (execLnkCwinSet_frame ..).within
  | .lnkReset .. => (execLnkReset_frame ..).within
  | .lnkWiden .. => (execLnkWiden_frame ..).within
  | .lnkTest .. => (execLnkTest_frame ..).within
  | .lnkTestResult .. => (execLnkTestResult_frame ..).within
  | .lnkTime .. => (execLnkTime_frame ..).within
  | .lnkTimeTrim .. => (execLnkTimeTrim_frame ..).within
  | .lnkSlots .. => (execLnkSlots_frame ..).within
  | .lnkFecInject .. => (execLnkFecInject_frame ..).within
  | .lnkLaneLimit .. => (execLnkLaneLimit_frame ..).within
  | .pinConfig .. => (execPinConfig_frame ..).within
  | .pinStatus .. => (execPinStatus_frame ..).within
  | .pinClear .. => (execPinClear_frame ..).within
  | .pinProbe .. => (execPinProbe_frame ..).within
  | .pinPolarity .. => (execPinPolarity_frame ..).within
  | .pinBank .. => (execPinBank_frame ..).within
  | .dspStatus .. => (execDspStatus_frame ..).within
  | .dspConfig .. => (execDspConfig_frame ..).within
  | .dspEngineSet .. => (execDspEngineSet_frame ..).within
  | .dspGroupSet .. => (execDspGroupSet_frame ..).within
  | .dspSourceSet .. => (execDspSourceSet_frame ..).within
  | .dspFlowSet .. => (execDspFlowSet_frame ..).within
  | .dspFlowGet .. => (execDspFlowGet_frame ..).within
  | .dspFlowRelease .. => (execDspFlowRelease_frame ..).within
  | .dspFlowClear .. => (execDspFlowClear_frame ..).within
  | .dspFlush .. => (execDspFlush_frame ..).within
  | .nocStatus .. => (execNocStatus_frame ..).within
  | .nocTimeout .. => (execNocTimeout_frame ..).within
  | .nocRouterCfg .. => (execNocRouterCfg_frame ..).within
  | .nocCounters .. => (execNocCounters_frame ..).within
  | .tstStatus .. => (execTstStatus_frame ..).within
  | .tstRegion .. => (execTstRegion_frame ..).within
  | .tstMemory .. => (execTstMemory_frame ..).within
  | .tstAnalog .. => (execTstAnalog_frame ..).within
  | .rprStatus .. => (execRprStatus_frame ..).within
  | .rprMap .. => (execRprMap_frame ..).within
  | .rprSkip .. => (execRprSkip_frame ..).within
  | .rprRetire .. => (execRprRetire_frame ..).within
  | .rprRecord .. => (execRprRecord_frame ..).within
  | .secStatus .. => (execSecStatus_frame ..).within
  | .secCert .. => (execSecCert_frame ..).within
  | .secKeySet .. => (execSecKeySet_frame ..).within
  | .secOwner .. => (execSecOwner_frame ..).within
  | .secLifecycle .. => (execSecLifecycle_frame ..).within
  | .secZeroise .. => (execSecZeroise_frame ..).within
  | .tagRead .. => (execTagRead_frame ..).within
  | .tagWrite .. => (execTagWrite_frame ..).within
  | .tagLock .. => (execTagLock_frame ..).within
  | .tagIdentity .. => (execTagIdentity_frame ..).within
  | .logEvents .. => (execLogEvents_frame ..).within
  | .logAlertAck .. => (execLogAlertAck_frame ..).within
  | .logAlertLevel .. => (execLogAlertLevel_frame ..).within
  | .logEventRoute .. => (execLogEventRoute_frame ..).within
  | .logCounters .. => (execLogCounters_frame ..).within
  | .logMemConflict .. => (execLogMemConflict_frame ..).within
  | .fabricClockCycle => (execFabricClockCycle_frame ..).within
  | .configurationUpset .. => (execConfigurationUpset_frame ..).within
  | .bondPadFailure .. => (execBondPadFailure_frame ..).within
  | .mgmtResponseReceived .. => (execMgmtResponseReceived_frame ..).within
  | .timedOutTagFree .. => (execTimedOutTagFree_frame ..).within
  | .baseWarmResetDone => (execBaseWarmResetDone_frame ..).within
  | .widenPrbsCheckDone .. => (execWidenPrbsCheckDone_frame ..).within
  | .reinitZeroFillDone .. => (execReinitZeroFillDone_frame ..).within
  | .fwUpdateDone .. => (execFwUpdateDone_frame ..).within
  | .regionRetentionEntered .. => (execRegionRetentionEntered_frame ..).within
  | .supplyOutOfTolerance => (execSupplyOutOfTolerance_frame ..).within

theorem frame_of_exec {c : Instr} {s t : State} (h : exec c s = .next t) : Frame (writes c) s t := by
  obtain ⟨u, hu, hframe⟩ := exec_frame c s
  rw [h] at hu
  cases hu
  exact hframe

/-- Locked ranges may change only where RESET_N is asserted and where power is lost or returns (R364). -/
theorem writes_locked {c : Instr} (hreset : c ≠ .resetNAssert) (hcycle : c ≠ .powerCycle) (hsupply : c ≠ .supplyOutOfTolerance)
    (hrise : c ≠ .pwrGoodRise) : (writes c).contains .locked = false := by
  cases c
  case resetNAssert => exact absurd rfl hreset
  case powerCycle => exact absurd rfl hcycle
  case supplyOutOfTolerance => exact absurd rfl hsupply
  case pwrGoodRise => exact absurd rfl hrise
  all_goals rfl

/-! ## PRT.RANGE_SET on a locked range -/

theorem bodyPrtRangeSet_locked {m : Nat} (base limit en lock : Nat) (o : Origin) {x : State}
    (h : (Tab.get {} x.prt.ranges m).lock = true) : bodyPrtRangeSet m base limit en lock o x = refuse x .state := by
  rw [bodyPrtRangeSet, if_pos h]

/-- PRT.RANGE_SET answers ST_STATE for a locked range, which stays as it is (R364). -/
theorem exec_prtRangeSet_locked {s : State} {r : Req} {m : BitVec 4} (base limit : BitVec 36) (en lock : Bool)
    (h : ready s r 0x0805 = true) (hm : (Tab.get {} s.prt.ranges m.toNat).lock = true) :
    Replies (exec (.prtRangeSet r m base limit en lock) s) r 0x0805 .state [] s :=
  serve_refuse h (bodyPrtRangeSet_locked _ _ _ _ _ hm)

/-! ## The obligation -/

/-- Settles O10: every other command keeps the locked ranges by its frame, and PRT.RANGE_SET refuses a locked range. -/
theorem lockedRangesStay : Obligations.LockedRangesStay := by
  unfold Obligations.LockedRangesStay
  refine ⟨?kept, fun s r m base limit en lock h hm => exec_prtRangeSet_locked base limit en lock h hm⟩
  case kept =>
    intro c s t m hreset hcycle hsupply hrise hexec hlock
    exact (frame_of_exec hexec).same .locked (writes_locked hreset hcycle hsupply hrise) m hlock

end Sys2Proof.Machine

/-! The conversion of an integrity region, and the zero-fills that end its creation, its deletion and a PRT.REINIT (R347,
R348, R355, R356, R362). -/

namespace Sys2Proof.Machine

/-! ## The pages of a region -/

@[simp] theorem pageOf_updPage_same (p : Nat) (f : Page → Page) (s : State) : pageOf (updPage p f s) p = f (pageOf s p) :=
  Tab.get_upd_same ..

/-- A conversion leaves the page under the region's present epoch (R355, R356). -/
theorem pageCurrent_convertPage (i p : Nat) (s : State) : pageCurrent (convertPage i p s) i p = true := by
  rw [pageCurrent, convertPage, pageOf_updPage_same]
  exact beq_self_eq_true _

theorem pageOf_congr {x y : State} (h : x.prt.pages = y.prt.pages) (p : Nat) : pageOf x p = pageOf y p := by
  rw [pageOf, pageOf, h]

/-! ## The converter -/

/-- A region with its conversion pointer one page on (R356). -/
def IntRegion.nextPage (x : IntRegion) : IntRegion := { x with conv := x.conv + 4096 }

theorem IntRegion.nextPage_epoch (x : IntRegion) : x.nextPage.epoch = x.epoch := by
  rw [nextPage]

/-- The state in which the page at the pointer of region i is done: it is rewritten under the new epoch, unless it is so
already or lies under a poison list entry (R356, R362). -/
def pageDone (i : Nat) (s : State) : State :=
  let p := (irOf s i).conv.toNat / 4096
  if pageCurrent s i p ∨ (poisonOf s p).isSome then s else convertPage i p s

theorem irOf_pageDone (i : Nat) (s : State) (j : Nat) : irOf (pageDone i s) j = irOf s j := by
  unfold pageDone
  dsimp only
  split
  · rfl
  · rfl

theorem pageCurrent_pageDone {i : Nat} {s : State} (h : poisonOf s ((irOf s i).conv.toNat / 4096) = none) :
    pageCurrent (pageDone i s) i ((irOf s i).conv.toNat / 4096) = true := by
  unfold pageDone
  dsimp only
  split
  case isTrue hskip => exact hskip.resolve_right (by rw [h]; decide)
  case isFalse => exact pageCurrent_convertPage ..

/-- The pointer of a region moves one page on; no page's epoch changes. -/
theorem pageCurrent_nextPage (i p : Nat) (s : State) :
    pageCurrent (updIr i IntRegion.nextPage s) i p = pageCurrent s i p := by
  rw [pageCurrent, pageCurrent, irOf_updIr_same, IntRegion.nextPage_epoch,
    pageOf_congr (x := updIr i IntRegion.nextPage s) (y := s) rfl]

theorem irOf_nextPage (i : Nat) (s : State) :
    irOf (updIr i IntRegion.nextPage (pageDone i s)) i = { irOf s i with conv := (irOf s i).conv + 4096 } := by
  rw [irOf_updIr_same, irOf_pageDone, IntRegion.nextPage]

/-- CONVERSION_PAGE at a region under conversion, with no zero-fill before it (R356): the page is done and the pointer moves
on; past the last page the conversion ends. -/
theorem exec_conversionPage {s : State} {i : Fin 8} (hk : s.prt.key = true) (hst : (irOf s i.val).st = .converting)
    (hr : (irOf s i.val).reinit = none) : exec (.conversionPage i) s = .next
      (if convAtEnd { irOf s i.val with conv := (irOf s i.val).conv + 4096 } then
        endConversion i.val (updIr i.val IntRegion.nextPage (pageDone i.val s))
       else updIr i.val IntRegion.nextPage (pageDone i.val s)) := by
  show execConversionPage i s = _
  rw [execConversionPage]
  refine (if_neg ?_).trans ?_
  · rw [hk, hst, hr]
    decide
  · rw [← irOf_nextPage]
    rfl

/-- Where no advance is queued, a conversion that ends leaves its region in service under the same epoch (Table PRT-3
step 3). -/
theorem irOf_endConversion {i : Nat} {s : State} (h : (irOf s i).queued = []) :
    irOf (endConversion i s) i = { irOf s i with st := .inService, conv := 0 } := by
  have hraised (d : List (Nat × Nat)) (x : State) : irOf (raise .epochAdvanced d x) i = irOf x i :=
    irOf_congr ((raise_frame ..).same .prt rfl) i
  rw [endConversion, nextAdvance, hraised, irOf_updIr_same, h]
  dsimp only
  rw [hraised, irOf_updIr_same]

/-! ## Zero-fills -/

theorem finish_prt (o : Origin) (ev : Ev) (unit : Nat) (st : Status) (s : State) : (finish o ev unit st s).prt = s.prt :=
  (finish_frame ..).same .prt rfl

theorem finish_dram (o : Origin) (ev : Ev) (unit : Nat) (st : Status) (s : State) : (finish o ev unit st s).dram = s.dram :=
  (finish_frame ..).same .dram rfl

/-- Lines that a zero-fill has covered read as zero after the final event of its command. -/
theorem lineRead_finish_zero {first count l : Nat} {s x : State} {o : Origin} {ev : Ev} {unit : Nat} {st : Status}
    (hdram : x.dram = (zeroLines first count s).dram) (hgen : x.prt.gen = s.prt.gen) (hl : first ≤ l) (hu : l < first + count) :
    (lineRead l (finish o ev unit st x)).1 = (0, false) :=
  zeroed first count l s _ ((finish_dram ..).trans hdram) ((congrArg Prt.gen (finish_prt ..)).trans hgen) hl hu

/-- A region whose PRT.IR_SET is done: off where it was deleted, else in service (R347, R348). -/
def IntRegion.setDone (x : IntRegion) : IntRegion :=
  if x.deleting then { x with en := false, st := .off, cmd := none, deleting := false }
  else { x with st := .inService, cmd := none }

theorem IntRegion.setDone_fields (x : IntRegion) : x.setDone.cmd = none ∧
    x.setDone.st = (if x.deleting then .off else .inService) ∧ x.setDone.en = (if x.deleting then false else x.en) := by
  unfold setDone
  cases x.deleting
  · exact ⟨rfl, rfl, rfl⟩
  · exact ⟨rfl, rfl, rfl⟩

/-- IR_SET_DONE at a region under creation or deletion: its lines are zero-filled, its counters dropped, and its command
completes (R347, R348). -/
theorem exec_irSetDone {s : State} {i : Fin 8} {org : Origin} (hc : (irOf s i.val).cmd = some org) (hk : s.prt.key = true)
    (hst : (irOf s i.val).st = .changing) : exec (.irSetDone i) s = .next (finish org .prtDone noUnit .ok
      (updIr i.val IntRegion.setDone (dropPages (irOf s i.val).firstPage (irOf s i.val).numPages
        (zeroLines (64 * (irOf s i.val).firstPage) (64 * (irOf s i.val).numPages) s)))) := by
  show execIrSetDone i s = _
  rw [execIrSetDone, hc]
  refine if_neg ?_
  rw [hk, hst]
  decide

/-- The engine when the zero-fill of a PRT.REINIT of region i is done: the pages of the range count as written under the
region's epoch, and the region's poison list entries that the range covers are gone (R362, Table PRT-3). -/
def Prt.refilled (s : State) (i first count : Nat) (y : Prt) : Prt :=
  { y with
    pages := newPages ((irOf s i).epoch.getLsbD 0) first count y.pages
    poison := y.poison.filter (fun e => !(e.ir == i && coversPoison s first count e)) }

/-- REINIT_ZERO_FILL_DONE at a region with a PRT.REINIT in progress: the range is zero-filled and the command completes
(R362, R366). -/
theorem exec_reinitZeroFillDone {s : State} {i : Fin 8} {org : Origin} {first count : Nat}
    (hr : (irOf s i.val).reinit = some (org, first, count)) (hk : s.prt.key = true) :
    exec (.reinitZeroFillDone i) s = .next (finish org .prtDone noUnit .ok (updIr i.val (fun y => { y with reinit := none })
      (updPrt (Prt.refilled s i.val first count) (dropPages first count (zeroLines (64 * first) (64 * count) s))))) := by
  show execReinitZeroFillDone i s = _
  rw [execReinitZeroFillDone, hr]
  exact if_neg (ne_false_of_eq_true hk)

/-! ## The obligation -/

/-- Settles O36: the page at the pointer is done before the pointer moves, and each zero-fill ends in a state that reads its
lines as zero, since the final event leaves the engine and the lines alone. -/
theorem integrityRows : Obligations.IntegrityRows := by
  unfold Obligations.IntegrityRows
  refine ⟨?page, ?last, ?set, ?reinit⟩
  case page =>
    intro s i hk hst hr hp hend
    have hexec := exec_conversionPage hk hst hr
    rw [if_neg (ne_true_of_eq_false hend)] at hexec
    refine ⟨_, hexec, by rw [irOf_nextPage], by rw [irOf_nextPage, hst], ?_⟩
    rw [pageCurrent_nextPage, pageCurrent_pageDone hp]
  case last =>
    intro s i hk hst hr hend hq
    have hexec := exec_conversionPage hk hst hr
    rw [if_pos hend] at hexec
    have hdone := irOf_endConversion (i := i.val) (s := updIr i.val IntRegion.nextPage (pageDone i.val s))
      (by rw [irOf_nextPage, hq])
    exact ⟨_, hexec, by rw [hdone], by rw [hdone], by rw [hdone, irOf_nextPage]⟩
  case set =>
    intro s i org hc hk hst
    refine ⟨_, exec_irSetDone hc hk hst, ?_⟩
    rw [irOf_congr (finish_prt ..), irOf_updIr_same]
    obtain ⟨hcmd, hst', hen⟩ := (irOf s i.val).setDone_fields
    exact ⟨hcmd, hst', hen, fun l hl hu => lineRead_finish_zero rfl rfl hl hu⟩
  case reinit =>
    intro s i org first count hr hk
    refine ⟨_, exec_reinitZeroFillDone hr hk, ?_, fun l hl hu => lineRead_finish_zero rfl rfl hl hu⟩
    rw [irOf_congr (finish_prt ..), irOf_updIr_same]

end Sys2Proof.Machine

/-! The PRT commands (R346, R348, R355, R361, R362, R364, R366). -/

namespace Sys2Proof.Machine

/-! ## Commands that change the engine only -/

theorem withChans_updPrt (X : Tab Chan) (f : Prt → Prt) (s : State) :
    withChans X (updPrt f s) = updPrt f (withChans X s) := by
  unfold updPrt withChans
  rfl

/-- A command on a ready channel that completes with ST_OK and changes the engine only. -/
theorem serve_updPrt {s : State} {r : Req} {cmd : Nat} {args : List Byte} {body : Origin → State → Ans} {f : Prt → Prt}
    (h : ready s r cmd = true)
    (hbody : body (originOf r cmd) (taken r cmd args s) = done (updPrt f (taken r cmd args s))) (hc : cmd < 65536 := by decide) :
    Replies (.next (serve r cmd args body s)) r cmd .ok [] (updPrt f s) := by
  have hreplies := serve_ok h hbody hc
  rwa [withChans_updPrt, withChans_taken] at hreplies

/-- A command on a ready channel that stays open and changes the engine only: a region is as the command's body leaves it. -/
theorem serve_open_ir {s x : State} {r : Req} {cmd i : Nat} {args : List Byte} {body : Origin → State → Ans} {y : IntRegion}
    (h : ready s r cmd = true)
    (hbody : body (originOf r cmd) (taken r cmd args s) = { state := x, status := .pending })
    (hx : Frame [.prt] (taken r cmd args s) x) (hy : irOf x i = y) (hc : cmd < 65536 := by decide) :
    ∃ t, Host.Outcome.next (φ := Fault) (ρ := Refusal) (serve r cmd args body s) = .next t ∧ answered t r cmd .pending [] ∧
      irOf t i = y := by
  obtain ⟨t, hexec, hans, hframe⟩ := serve_fact_open h hbody rfl rfl rfl (taken_busy' r cmd args s x (hx.same .chans rfl)) hc
  exact ⟨t, hexec, hans, (irOf_congr (hframe.same .prt rfl) i).trans hy⟩

/-! ## PRT.CAPACITY -/

theorem bodyPrtCapacity_writes {p : BitVec 11} (o : Origin) (x : State) (h : capacityOk p.toNat = true) :
    bodyPrtCapacity p.toNat o x = done (writeRecord (fun y => { y with prtCap := p.zeroExtend 16 }) x) := by
  rw [bodyPrtCapacity, if_pos h, BitVec.ofNat_toNat]

/-! ## PRT.IR_SET -/

/-- A region whose creation begins: it has its place and keeps its failure counts (R347, R348). -/
def IntRegion.created (org : Origin) (base : BitVec 10) (k : BitVec 4) (x : IntRegion) : IntRegion :=
  { en := true, sizeLog2 := k, baseGib := base, st := .changing, cmd := some org, macFail := x.macFail,
    nodeFail := x.nodeFail }

theorem irFits_congr {x y : State} (h : x.prt = y.prt) (i base k : Nat) : irFits x i base k = irFits y i base k := by
  unfold irFits irOf
  rw [h]

/-- PRT.IR_SET begins the creation of a region that is off and fits (R347, R348). -/
theorem bodyPrtIrSet_creates {i : BitVec 3} {base : BitVec 10} {k : BitVec 4} (o : Origin) {s x : State} (hx : x.prt = s.prt)
    (hk : s.prt.key = true) (hen : (irOf s i.toNat).en = false) (hch : (irOf s i.toNat).st ≠ .changing)
    (hco : (irOf s i.toNat).st ≠ .converting) (hfit : irFits s i.toNat base.toNat k.toNat = true) :
    bodyPrtIrSet i.toNat (bit true) base.toNat k.toNat o x =
      { state := updIr i.toNat (IntRegion.created o base k) x, status := .pending } := by
  rw [bodyPrtIrSet, irOf_congr hx, irFits_congr hx, hx, hk, hen, hfit, if_neg (by simp [hch, hco]), if_neg (by decide),
    if_neg (by simp), if_neg (by decide), if_neg (by decide), BitVec.ofNat_toNat, BitVec.ofNat_toNat, BitVec.setWidth_eq,
    BitVec.setWidth_eq, ← irOf_congr hx]
  rfl

/-! ## PRT.REINIT -/

/-- A region whose PRT.REINIT is zero-filling its range (R366). -/
def IntRegion.refilling (org : Origin) (first count : Nat) (x : IntRegion) : IntRegion :=
  { x with reinit := some (org, first, count) }

/-- PRT.REINIT at a region in service begins an advance, with its range to be zero-filled (R355, R362). -/
theorem bodyPrtReinit_begins {i : Nat} {first count : BitVec 36} (o : Origin) {s x : State} (hx : x.prt = s.prt)
    (hk : s.prt.key = true) (hen : (irOf s i).en = true) (hst : (irOf s i).st = .inService) (hcount : count ≠ 0)
    (hlo : (irOf s i).firstPage ≤ first.toNat)
    (hhi : first.toNat + count.toNat ≤ (irOf s i).firstPage + (irOf s i).numPages) (hp : s.prt.poison = [])
    (he : (irOf s i).epoch ≠ BitVec.allOnes 32) : bodyPrtReinit i first.toNat count.toNat o x =
      { state := updIr i (IntRegion.refilling o first.toNat count.toNat) (beginAdvance i x), status := .pending } := by
  have hpos : count.toNat ≠ 0 := fun h => hcount (BitVec.eq_of_toNat_eq h)
  rw [bodyPrtReinit, irOf_congr hx, hx, hk, hen, hst, hp, if_neg (by decide), if_neg (by omega), List.any_nil,
    if_neg Bool.false_ne_true, if_neg he, if_neg (by decide)]
  rfl

theorem irOf_beginAdvance (i : Nat) (s : State) : irOf (beginAdvance i s) i =
    { irOf s i with
      epoch := (irOf s i).epoch + 1, st := .converting, conv := BitVec.ofNat 48 (4096 * (irOf s i).firstPage)
      advances := satAdd (irOf s i).advances 1 } := by
  rw [beginAdvance, irOf_updIr_same]

/-! ## PRT.RANGE_SET and PRT.PRIV -/

theorem bodyPrtRangeSet_sets {m : Nat} {base limit : BitVec 36} (en lock : Bool) (o : Origin) {x : State}
    (h : (Tab.get {} x.prt.ranges m).lock = false) (hle : base.toNat ≤ limit.toNat) :
    bodyPrtRangeSet m base.toNat limit.toNat (bit en) (bit lock) o x =
      done (updPrt (fun y => { y with
        ranges := Tab.set {} y.ranges m { base := base, limit := limit, en := en, lock := lock } }) x) := by
  have hbit (b : Bool) : (bit b == 1) = b := by cases b <;> rfl
  rw [bodyPrtRangeSet, if_neg (ne_true_of_eq_false h), if_neg (Nat.not_lt.2 hle), hbit, hbit, BitVec.ofNat_toNat,
    BitVec.ofNat_toNat, BitVec.setWidth_eq, BitVec.setWidth_eq]

theorem bodyPrtPriv_sets {mask : BitVec 256} (o : Origin) (x : State) (hpf1 : mask.getLsbD 70 = false)
    (hjtag : mask.getLsbD 71 = false) : bodyPrtPriv mask.toNat o x = done (updPrt (fun y => { y with priv := mask }) x) := by
  rw [bodyPrtPriv, BitVec.testBit_toNat, BitVec.testBit_toNat, hpf1, hjtag, if_neg (by decide), BitVec.ofNat_toNat,
    BitVec.setWidth_eq]

/-! ## The obligation -/

/-- Settles O37: each body's answer under the hypotheses, and the reply that such an answer gives on a ready channel; what a
region or the repair record holds after it is what the body left there, which the answer leaves alone. How PRT.STATUS lays out
the poison list is the model's choice (log 42). -/
theorem prtCommandsReply : Obligations.PrtCommandsReply := by
  unfold Obligations.PrtCommandsReply
  refine ⟨fun s r h => serve_report h rfl, ?capacity, ?create, ?reinit,
    fun s r m base limit en lock h hm hle => serve_updPrt h (bodyPrtRangeSet_sets en lock _ hm hle),
    fun s r m base limit en lock h hm => exec_prtRangeSet_locked base limit en lock h hm,
    fun s r mask h hpf1 hjtag => serve_updPrt h (bodyPrtPriv_sets _ _ hpf1 hjtag)⟩
  case capacity =>
    intro s r p h hp ht
    obtain ⟨t, hexec, hans, hrr⟩ := serve_record h ht (bodyPrtCapacity_writes _ _ hp)
    exact ⟨t, hexec, hans, hrr⟩
  case create =>
    intro s r i base k h hk hen hch hco hfit
    obtain ⟨t, hexec, hans, hir⟩ := serve_open_ir
      (args := packFields [(3, i.toNat), (1, bit true), (10, base.toNat), (4, k.toNat)]) h
      (bodyPrtIrSet_creates (originOf r 0x0803) rfl hk hen hch hco hfit) (updIr_frame ..) (irOf_updIr_same ..)
    refine ⟨t, hexec, hans, ?_⟩
    rw [hir]
    exact ⟨rfl, rfl, rfl, rfl, rfl⟩
  case reinit =>
    intro s r i first count h hk hen hst hcount hlo hhi hp he
    obtain ⟨t, hexec, hans, hir⟩ := serve_open_ir
      (args := packFields [(3, i.toNat), (36, first.toNat), (36, count.toNat)]) h
      (bodyPrtReinit_begins (originOf r 0x0804) rfl hk hen hst hcount hlo hhi hp he)
      ((updIr_frame ..).after (beginAdvance_frame ..)) (irOf_updIr_same ..)
    refine ⟨t, hexec, hans, ?_⟩
    rw [hir, irOf_beginAdvance]
    exact ⟨rfl, rfl, rfl⟩

end Sys2Proof.Machine

/-! The NOC commands (R381, R383, R384, R390, R606). -/

namespace Sys2Proof.Machine

/-! ## What the bodies answer -/

section
variable {s : State} (o : Origin)

/-- A defined source takes a time from 10 µs to 1,000,000 µs (R381). -/
theorem bodyNocTimeout_sets {k : Nat} {us : BitVec 20} (hk : k < 74) (hlo : 10 ≤ us.toNat) (hhi : us.toNat ≤ 1000000) :
    bodyNocTimeout k us.toNat o s =
      done { s with noc := { s.noc with timeout := Tab.set 0x186A0 s.noc.timeout k us } } := by
  rw [bodyNocTimeout, if_neg (by omega), BitVec.ofNat_toNat, BitVec.setWidth_eq]

theorem bodyNocTimeout_refuses {k us : Nat} (h : 74 ≤ k ∨ us < 10 ∨ 1000000 < us) :
    bodyNocTimeout k us o s = refuse s .badArg := if_pos h

/-- A router whose request for weights waits until it is empty (R383). -/
def Router.reweighted (org : Origin) (w : Weights) (x : Router) : Router := { x with reconfig := some (org, w) }

/-- A router that is on and has no request waiting takes weights other than 0 (R383). -/
theorem bodyNocRouterCfg_waits {n : Nat} {rt hi norm bulk : BitVec 4} (hrt : rt.toNat ≠ 0) (hhi : hi.toNat ≠ 0)
    (hnorm : norm.toNat ≠ 0) (hbulk : bulk.toNat ≠ 0) (hr : (routerOf s n).reconfig = none)
    (hon : Nat.testBit (routerWord s n) 17 = false) :
    bodyNocRouterCfg n rt.toNat hi.toNat norm.toNat bulk.toNat o s =
      { state := updRouter n (Router.reweighted o { rt := rt, hi := hi, norm := norm, bulk := bulk }) s,
        status := .pending } := by
  have hfree : ¬((routerOf s n).reconfig.isSome = true ∨ Nat.testBit (routerWord s n) 17 = true) := by simp [hr, hon]
  rw [bodyNocRouterCfg, if_neg (by omega), if_neg hfree]
  simp only [BitVec.ofNat_toNat, BitVec.setWidth_eq]
  rfl

theorem bodyNocRouterCfg_refuses {n rt hi norm bulk : Nat} (h : rt = 0 ∨ hi = 0 ∨ norm = 0 ∨ bulk = 0) :
    bodyNocRouterCfg n rt hi norm bulk o s = refuse s .badArg := if_pos h

/-- A read of a defined source's counters tells them, and clears them where CLEAR is 1 (R390). -/
theorem bodyNocCounters_reports {k : Nat} (clear : Bool) (hk : k < 74) :
    bodyNocCounters k clear o s = done (if clear then
      { s with noc := { s.noc with timeouts := Tab.del s.noc.timeouts k, late := Tab.del s.noc.late k } } else s)
      (packFields [(64, srcStatWord s k)]) := if_neg (Nat.not_le.2 hk)
end

/-! ## Commands that change the NoC only -/

theorem withChans_taken_noc (r : Req) (cmd : Nat) (args : List Byte) (s : State) (n : Noc) :
    withChans s.mbx.chans { taken r cmd args s with noc := n } = { s with noc := n } := by
  unfold withChans taken
  rfl

/-- A command on a ready channel that completes with ST_OK and changes the NoC only. -/
theorem serve_noc {s : State} {r : Req} {cmd : Nat} {args data : List Byte} {body : Origin → State → Ans} {n : Noc}
    (h : ready s r cmd = true)
    (hbody : body (originOf r cmd) (taken r cmd args s) = done { taken r cmd args s with noc := n } data)
    (hc : cmd < 65536 := by decide) :
    Replies (.next (serve r cmd args body s)) r cmd .ok data { s with noc := n } := by
  rw [← withChans_taken_noc r cmd args s n]
  exact serve_ok h hbody hc

/-- A command on a ready channel that stays open and changes a router only. -/
theorem serve_open_router {s : State} {r : Req} {cmd units n : Nat} {args : List Byte} {body : Origin → State → Ans}
    {f : Router → Router} (h : ready s r cmd = true)
    (hbody : body (originOf r cmd) (taken r cmd args s) =
      { state := updRouter n f (taken r cmd args s), status := .pending, units := units })
    (hc : cmd < 65536 := by decide) :
    Replies (.next (serve r cmd args body s)) r cmd .pending [] (withPend r cmd units (updRouter n f s)) := by
  have hstate : withChans s.mbx.chans (updRouter n f (taken r cmd args s)) = updRouter n f s :=
    withChans_taken_noc r cmd args s (updRouter n f s).noc
  rw [← hstate]
  exact serve_open h hbody hc

/-! ## The obligation -/

/-- Settles O45: each body's answer under the hypotheses, and the reply that such an answer gives on a ready channel. -/
theorem nocCommandsReply : Obligations.NocCommandsReply := by
  unfold Obligations.NocCommandsReply
  exact ⟨fun s r h => serve_report h rfl,
    fun s r k us h hk hlo hhi => serve_noc h (bodyNocTimeout_sets _ hk hlo hhi),
    fun s r k us h hbad => serve_refuse h (bodyNocTimeout_refuses _ hbad),
    fun s r n rt hi norm bulk h hrt hhi hnorm hbulk hr hon =>
      serve_open_router h (bodyNocRouterCfg_waits _ hrt hhi hnorm hbulk hr hon),
    fun s r n rt hi norm bulk h hzero => serve_refuse h (bodyNocRouterCfg_refuses _ hzero),
    fun s r k h hk => serve_report h (bodyNocCounters_reports _ false hk),
    fun s r k h hk => serve_noc h (bodyNocCounters_reports _ true hk)⟩

end Sys2Proof.Machine

/-! The rows of the power domains (R386, R483, R486, R492) and the thermal rows (R507, R508, R512, R514 to R516, R519). -/

namespace Sys2Proof.Machine

/-! ## Power domains -/

/-- A domain that is ready to be ON: its fence opens and the commands that wait for it end (R386, R483). -/
theorem exec_domainPowerUpDone_ready {s : State} {d : Fin 96} (hst : (domOf s d.val).st = .poweringUp)
    (hready : upReady s d.val = true) (hq : s.pwr.onQueue = []) :
    ∃ t, exec (.domainPowerUpDone d) s = .next t ∧ t.pwr = (setOn d.val s).pwr := by
  have hgo : ¬((domOf s d.val).st ≠ .poweringUp ∨ upReady s d.val = false) := by simp [hst, hready]
  have hpwr := (finish_fold_pwr (domOf s d.val).waitOn .pwrDone d.val .ok (upEffects d.val (setOn d.val s))).trans
    ((upEffects_frame d.val (setOn d.val s)).same .pwr rfl)
  refine ⟨_, if_neg hgo, ?_⟩
  rw [pump_idle (by rw [hpwr]; exact hq), hpwr]

/-- A domain that nothing waits to power on again is OFF once it is isolated (R486). -/
theorem exec_domainPowerDownDone_off {s : State} {d : Fin 96} (hst : (domOf s d.val).st = .isolated)
    (hon : (domOf s d.val).waitOn = []) (hq : s.pwr.onQueue = []) :
    ∃ t, exec (.domainPowerDownDone d) s = .next t ∧
      domOf t d.val = { domOf s d.val with st := .off, waitOff := none } := by
  have hgo : ¬(domOf s d.val).st ≠ .isolated := by simp [hst]
  have hdrop := dropEffects_pwr d.val 1 s
  have hpwr {f : Domain → Domain} := (finishOpt_frame (domOf s d.val).waitOff .pwrDone d.val .ok
    (updDom d.val f (dropEffects d.val 1 s))).same .pwr rfl
  refine ⟨_, if_neg hgo, ?_⟩
  rw [if_pos hon, pump_idle, domOf_congr hpwr, domOf_updDom_same, domOf_congr hdrop]
  rw [hpwr, updDom_pwr_onQueue, hdrop, hq]

/-- A clear tamp of a domain that stays on: the commands that wait for it end (R386). -/
theorem exec_tampComplete_on {s : State} {d : Fin 96} (hf : (domOf s d.val).fenced = true)
    (ht : (domOf s d.val).tamped = false) (hst : (domOf s d.val).st = .on) (hclear : tampClear s d.val = true) :
    ∃ t, exec (.tampComplete d) s = .next t ∧ domOf t d.val = { domOf s d.val with tamped := true, waitTamp := [] } := by
  have hgo : ¬((domOf s d.val).fenced = false ∨ (domOf s d.val).tamped = true ∨
      (!((domOf s d.val).st == .on || (domOf s d.val).st == .stopping)) = true ∨ tampClear s d.val = false) := by
    simp [hf, ht, hst, hclear]
  refine ⟨_, if_neg hgo, ?_⟩
  rw [if_neg (by simp [hst]), domOf_congr (finish_fold_pwr ..), domOf_updDom_same]

/-- The domain of a READY region enters retention, and the region stays READY (R492). -/
theorem exec_regionRetentionEntered_ready {s : State} {r : Fin 32} (hw : (domOf s (58 + r.val)).waitRetain ≠ [])
    (hst : (domOf s (58 + r.val)).st = .on) (hready : (regionOf s r.val).st = .ready) :
    ∃ t, exec (.regionRetentionEntered r) s = .next t ∧
      domOf t (58 + r.val) = { domOf s (58 + r.val) with waitRetain := [], st := .retention } ∧
      regionOf t r.val = { regionOf s r.val with retention := true } := by
  have hgo : ¬((domOf s (58 + r.val)).waitRetain = [] ∨ (domOf s (58 + r.val)).st ≠ .on) := by simp [hw, hst]
  refine ⟨_, if_neg hgo, ?_, ?_⟩
  · rw [domOf_congr (finish_fold_pwr ..), hready]
    exact domOf_updDom_same ..
  · rw [regionOf_congr ((finishAll_frame ..).same .ctx rfl), hready]
    exact regionOf_updRegion_same ..

/-! ## Samples and limits -/

theorem tripSensors_thm (l : List Nat) (s : State) : (l.foldl tripSensor s).thm = s.thm :=
  (Frame.fold tripSensor_frame l s).same .thm rfl

/-- A sample converts every sensor once; what the sample brings about leaves the readings alone (R507). -/
theorem exec_sensorSample_converts {s : State} (l : List (Option Int)) {n : Nat} (hg : s.ext.pwrGood = true)
    (hr : s.pwr.tripRetention = false) (hn : n < 72) :
    ∃ t, exec (.sensorSample l) s = .next t ∧
      sensorOf t n = sampled s.thm.warnC s.thm.throttleC l n (sensorOf s n) := by
  have hgo : ¬(s.ext.pwrGood = false ∨ s.pwr.tripRetention = true) := by simp [hg, hr]
  refine ⟨_, if_neg hgo, ?_⟩
  rw [sensorOf_congr ((startRound_frame _).same .thm rfl), sensorOf_congr ((bootCheck_frame _).same .thm rfl),
    sensorOf_congr ((pump_frame _).same .thm rfl), sensorOf_congr (tripSensors_thm ..), deviceLimits_sensors,
    sampleAll _ _ List.nodup_range, if_pos (List.mem_range.2 hn)]

theorem sampled_valid {l : List (Option Int)} {n : Nat} {v : Int} (warnC throttleC : Byte) (x : Sensor)
    (h : validReading l n = some v) :
    (sampled warnC throttleC l n x).temp = BitVec.ofInt 12 v ∧ (sampled warnC throttleC l n x).fault = false := by
  rw [sampled, h]
  exact ⟨rfl, rfl⟩

theorem exec_thermalClear_throttle {s : State} (h : belowBy3 s s.thm.throttleC = true) :
    exec (.thermalClear true) s = .next (startRound (updThm (fun t => { t with throttle := false }) s)) := if_pos h

theorem exec_thermalClear_warning {s : State} (h : belowBy3 s s.thm.warnC = true) :
    exec (.thermalClear false) s = .next (updThm (fun t => { t with warning := false }) s) := if_pos h

/-! ## The privileged trip and its restart -/

theorem domOf_domainsOff_aon (s : State) : (domOf (domainsOff s) 0).st = .retention := by
  rw [domainsOff, domOf_updDom_same]

/-- Every domain but AON goes off, and one that a sensor has tripped stays so (R514). -/
theorem domOf_domainsOff_other (s : State) {d : Nat} (h0 : 0 < d) (hd : d < 96) :
    (domOf (domainsOff s) d).st = .off ∨ (domOf (domainsOff s) d).st = .tripped := by
  have hmem : d ∈ (List.range 96).filter (fun d => d != 0) := by simp [hd]; omega
  rw [domainsOff, domOf_updDom_ne _ _ (by omega), domOf_forEach (List.nodup_range.filter _), if_pos hmem]
  dsimp only
  split
  · exact .inr rfl
  · exact .inl rfl

/-- What a privileged trip loses before the domains are off (R514, R516). -/
def tripLosses (s : State) : State :=
  dropClocks (dropBarista (dropCore (dropTraffic (banksOff (dropLinks (dropDram (dropStore (dropTests (regionsDark s)))))))))

/-- The power record in trip retention, with the comparator that tripped and the ports that were enabled (R514, R515). -/
def Pwr.retained (sensor : BitVec 7) (ports : BitVec 6) (p : Pwr) : Pwr :=
  { p with
    onQueue := [], thermtrip := true, deepIdle := false, waking := false, baseDue := false, baseReset := false
    tripRetention := true, tripSensor := sensor, portsBefore := ports }

theorem domOf_retained (sensor : BitVec 7) (ports : BitVec 6) (s : State) (d : Nat) :
    domOf (updPwr (Pwr.retained sensor ports) s) d = domOf s d := rfl

/-- A privileged trip at 115 °C: all is lost, the domains go off, and one event is queued (R512, R514, R516). -/
theorem exec_privilegedTrip_hot {s : State} (k : Fin 20) {temp : Int} (hg : s.ext.pwrGood = true)
    (hr : s.pwr.tripRetention = false) (ht : 920 ≤ temp) :
    ∃ ev, exec (.privilegedTrip k temp) s = .next (queueHw ev none
      (updPwr (Pwr.retained (BitVec.ofNat 7 k.val) (enabledPorts s)) (domainsOff (tripLosses s)))) := by
  have hgo : ¬(s.ext.pwrGood = false ∨ s.pwr.tripRetention = true ∨ temp < 920) := by simp [hg, hr, ht]
  exact ⟨_, if_neg hgo⟩

/-- AON out of trip retention, with the readings before the trip forgotten (R515, R516). -/
def aonRestarted (s : State) : State :=
  updThm (fun t => { t with restarted := true, sensors := t.sensors.map (fun e => (e.1, { e.2 with hist := [] })) })
    (updPwr (fun p => { p with tripRetention := false, thermtrip := latchedDoms s != [] })
      (updDom 0 (fun x => { x with st := .on }) s))

/-- The domains that a restart powers on after the firmware has started (R515, Table PWR-11). -/
def restartDoms (s : State) : List Nat := [21, 90, 91, 92, 93] ++ (bitsOf s.pwr.portsBefore).map portDom

theorem aon_notMem_restartDoms (s : State) : 0 ∉ restartDoms s := by
  simp [restartDoms, portDom]

/-- A restart up to its event: the firmware starts with AON on, and the other domains follow (R515, R516). -/
def restartedState (s : State) : State :=
  forEach (restartDoms s) privOn (drainServing (startFirmware (forEach [1] privOn (aonRestarted s))))

theorem exec_privilegedRestart_retention {s : State} (h : s.pwr.tripRetention = true) :
    exec .privilegedRestart s = .next (raise .thermalRestart
      [(8, s.pwr.tripSensor.toNat), (96, domMask (latchedDoms s))] (restartedState s)) :=
  if_neg (by simp [h])

theorem drainServing_startFirmware_frame (s : State) :
    Frame [.lnk, .mbx, .barista, .evt] s (drainServing (startFirmware s)) :=
  (drainServing_frame _).after (startFirmware_frame s)

theorem restartedState_thm (s : State) : (restartedState s).thm = (aonRestarted s).thm := by
  rw [restartedState, (forEach_priv_frame _ _).same .thm rfl, (drainServing_startFirmware_frame _).same .thm rfl,
    (forEach_priv_frame _ _).same .thm rfl]

theorem restartedState_tripRetention (s : State) : (restartedState s).pwr.tripRetention = false := by
  rw [restartedState, pwr_forEach_priv, (drainServing_startFirmware_frame _).same .pwr rfl, pwr_forEach_priv]
  rfl

theorem restartedState_aon (s : State) : (domOf (restartedState s) 0).st = .on := by
  have haon : (domOf (aonRestarted s) 0).st = .on :=
    congrArg Domain.st (domOf_updDom_same 0 (fun x => { x with st := .on }) s)
  rw [restartedState, dom0_forEach _ (aon_notMem_restartDoms s),
    domOf_congr ((drainServing_startFirmware_frame _).same .pwr rfl), dom0_forEach [1] (by decide), haon]

/-! ## The obligation -/

/-- Settles O28: each row is one operation, whose branch its hypotheses choose; what follows it, as events, final events and
the rounds that it lets begin, leaves the domains or the readings alone. -/
theorem domainAndThermalRows : Obligations.DomainAndThermalRows := by
  unfold Obligations.DomainAndThermalRows
  refine ⟨⟨?up, ?down, ?tamp, ?retain⟩, ?sample, ?throttle, fun s h => exec_thermalClear_warning h, ?trip, ?restart, ?comp⟩
  case up =>
    intro s d hst hready hq
    obtain ⟨t, hexec, hpwr⟩ := exec_domainPowerUpDone_ready hst hready hq
    refine ⟨t, hexec, ?_⟩
    rw [domOf_congr hpwr, setOn, domOf_updDom_same]
    exact ⟨rfl, rfl, rfl, rfl⟩
  case down =>
    intro s d hst hon hq
    obtain ⟨t, hexec, hdom⟩ := exec_domainPowerDownDone_off hst hon hq
    exact ⟨t, hexec, congrArg Domain.st hdom, congrArg Domain.waitOff hdom⟩
  case tamp =>
    intro s d hf ht hst hclear
    obtain ⟨t, hexec, hdom⟩ := exec_tampComplete_on hf ht hst hclear
    exact ⟨t, hexec, congrArg Domain.tamped hdom, congrArg Domain.waitTamp hdom⟩
  case retain =>
    intro s r hw hst hready
    obtain ⟨t, hexec, hdom, hregion⟩ := exec_regionRetentionEntered_ready hw hst hready
    exact ⟨t, hexec, congrArg Domain.st hdom, congrArg Region.retention hregion, (congrArg Region.st hregion).trans hready⟩
  case sample =>
    intro s l n v hg hr hn hv
    obtain ⟨t, hexec, hsensor⟩ := exec_sensorSample_converts l hg hr hn
    refine ⟨t, hexec, ?_⟩
    rw [hsensor]
    exact sampled_valid _ _ _ hv
  case throttle => exact fun s h => ⟨_, exec_thermalClear_throttle h, (startRound_frame _).same .thm rfl⟩
  case trip =>
    intro s k temp hg hr ht
    obtain ⟨ev, hexec⟩ := exec_privilegedTrip_hot k hg hr ht
    have hpwr := (queueHw_frame ev none (updPwr (Pwr.retained (BitVec.ofNat 7 k.val) (enabledPorts s))
      (domainsOff (tripLosses s)))).same .pwr rfl
    refine ⟨_, hexec, congrArg Pwr.tripRetention hpwr, congrArg Pwr.thermtrip hpwr, ?_, fun d h0 hd => ?_⟩
    · rw [domOf_congr hpwr, domOf_retained, domOf_domainsOff_aon]
    · rw [domOf_congr hpwr, domOf_retained]
      exact domOf_domainsOff_other _ h0 hd
  case restart =>
    intro s h
    have hpwr := (raise_frame .thermalRestart [(8, s.pwr.tripSensor.toNat), (96, domMask (latchedDoms s))]
      (restartedState s)).same
    refine ⟨_, exec_privilegedRestart_retention h, ?_, ?_, ?_⟩
    · rw [hpwr .pwr rfl, restartedState_tripRetention]
    · rw [domOf_congr (hpwr .pwr rfl), restartedState_aon]
    · rw [hpwr .thm rfl, restartedState_thm]
      rfl
  case comp => exact fun s h => if_neg (by simp [h, compAllowed])

end Sys2Proof.Machine

/-! Packed arguments (R453, R454). -/

namespace Sys2Proof.Machine

/-- Reading the fields back ends where the fields end, whatever follows them. -/
theorem unpackFrom_packFields {l : List (Nat × Nat)} (h : ∀ f ∈ l, 1 ≤ f.1 ∧ f.2 < 2 ^ f.1) (rest : List Byte) :
    unpackFrom (packFields l ++ rest) 0 (l.map (fun f => f.1)) = some (l.map (fun f => f.2), (packFields l).length) :=
  unpack_pack l h [] rest

theorem le_alignUp_eight (n : Nat) : n ≤ alignUp n 8 := by
  unfold alignUp
  omega

/-- Settles O11: the fields are read back in order, the padding to the record reads as zero, and what follows it is the
record. -/
theorem argumentsRoundTrip : Obligations.ArgumentsRoundTrip := by
  unfold Obligations.ArgumentsRoundTrip
  intro l rec h
  refine ⟨?record, ?plain⟩
  case record =>
    have hle := le_alignUp_eight (packFields l).length
    have hpad : (List.replicate (alignUp (packFields l).length 8 - (packFields l).length) (0 : Byte)).length =
        alignUp (packFields l).length 8 - (packFields l).length := List.length_replicate
    have hrec : packRecord l rec = packFields l ++
        (List.replicate (alignUp (packFields l).length 8 - (packFields l).length) 0 ++ rec) := List.append_assoc ..
    rw [unpackArgs, hrec, unpackFrom_packFields h]
    dsimp only
    rw [if_pos rfl, List.drop_left, List.take_left' hpad, if_pos (allZero_rep _),
      ← List.append_assoc, List.drop_left' (by rw [List.length_append, hpad]; omega)]
  case plain =>
    have hfields := unpackFrom_packFields h []
    rw [List.append_nil] at hfields
    rw [unpackArgs, hfields]
    dsimp only
    rw [if_neg Bool.false_ne_true, if_pos rfl]

end Sys2Proof.Machine

/-! The step and what every command keeps: the next state and the queue, the frame, the canonical memories, and the moves of
the life-cycle state (R553, Table SEC-3). -/

namespace Sys2Proof.Machine

/-! ## One step -/

theorem step_nil {s : State} (h : s.pending = []) : step s = .next s := by
  rw [step, h]

theorem step_cons {s : State} {c : Instr} {rest : List Instr} (h : s.pending = c :: rest) :
    step s = exec c { s with pending := rest } := by
  rw [step, h]

/-- A step that answers a next state idles on an empty queue, or runs the front command on the state with the rest. -/
theorem step_cases {s t : State} (h : step s = .next t) :
    t = s ∨ ∃ c rest, exec c { s with pending := rest } = .next t := by
  cases hp : s.pending with
  | nil =>
    rw [step_nil hp] at h
    exact .inl (Host.Outcome.next.inj h).symm
  | cons c rest => exact .inr ⟨c, rest, (step_cons hp).symm.trans h⟩

/-! ## What every command keeps -/

/-- No command may change the queue, or break the canonical form of the memories or the life-cycle invariant. -/
theorem writes_everywhereKept (c : Instr) : (writes c).contains .pending = false ∧ (writes c).contains .canon = false ∧
    (writes c).contains .inv = false := by
  cases c
  all_goals exact ⟨rfl, rfl, rfl⟩

theorem exec_next (c : Instr) (s : State) : ∃ t, exec c s = .next t ∧ t.pending = s.pending :=
  (exec_frame c s).ans (writes_everywhereKept c).1

theorem exec_memWf {c : Instr} {s t : State} (h : exec c s = .next t) (hs : memWf s) : memWf t :=
  (frame_of_exec h).same .canon (writes_everywhereKept c).2.1 hs

theorem exec_lifeInv {c : Instr} {s t : State} (h : exec c s = .next t) (hs : lifeInv s) : lifeInv t :=
  (frame_of_exec h).same .inv (writes_everywhereKept c).2.2 hs

/-! ## Runs -/

theorem run_succ {n : Nat} {s u : State} (h : step s = .next u) : core.run (n + 1) s = core.run n u := by
  have hstep : core.step s = .next u := h
  exact (Host.Core.run.eq_2 core s n).trans (by rw [hstep])

theorem run_of_empty (m : Nat) {s : State} (h : s.pending = []) : core.run m s = .next s := by
  induction m with
  | zero => rfl
  | succ m ih => exact (run_succ (step_nil h)).trans ih

/-- As many steps as commands wait, or more, empty the queue: each takes one command, and no command adds one. -/
theorem run_drains (n : Nat) (s : State) (h : s.pending.length ≤ n) : ∃ t, core.run n s = .next t ∧ t.pending = [] := by
  induction n generalizing s with
  | zero => exact ⟨s, rfl, List.length_eq_zero_iff.1 (Nat.le_zero.1 h)⟩
  | succ n ih =>
    cases hp : s.pending with
    | nil => exact ⟨s, run_of_empty _ hp, hp⟩
    | cons c rest =>
      obtain ⟨u, hu, hrest⟩ := exec_next c { s with pending := rest }
      obtain ⟨t, ht, hempty⟩ := ih u (by
        rw [hp, List.length_cons] at h
        rw [hrest]
        exact Nat.le_of_succ_le_succ h)
      exact ⟨t, (run_succ ((step_cons hp).trans hu)).trans ht, hempty⟩

/-! ## The life cycle -/

/-- A command that has an effect or none. -/
theorem moves_of_ite {p : Prop} [Decidable p] {s u t : State} (hu : Moves s u)
    (h : (if p then .next u else .next s : Host.Outcome State Fault Refusal) = .next t) : Moves s t := by
  split at h
  · cases h
    exact hu
  · cases h
    exact .keep rfl

/-- The end of a transition, and the losses that cut one off or complete it, are the commands that may move the life-cycle
state. -/
theorem exec_moves {c : Instr} {s t : State} (h : exec c s = .next t) : Moves s t := by
  by_cases hw : (writes c).contains .life = false
  · exact .keep ((frame_of_exec h).same .life hw)
  · cases c
    case powerCycle => exact moves_of_ite (powerLost_moves s) h
    case supplyOutOfTolerance => exact moves_of_ite (powerLost_moves s) h
    case resetNAssert => exact moves_of_ite (fullReset_moves s) h
    case privilegedTrip k temp => exact trip_moves k temp s t h
    case lifecycleDone => exact done_moves s t h
    all_goals exact absurd rfl hw

theorem lifecycle_denied {l target : BitVec 3} {x : State} (k sig : Nat) (rec : List Byte) (o : Origin) (hl : x.sec.life = l)
    (h : legalTransition l target = false ∨ target = 2 ∨ l = 0) :
    lifecycle target.toNat k sig rec o x = refuse x .denied := by
  rw [lifecycle, hl, if_pos (lifestep_no _ _ h)]

/-- SEC.LIFECYCLE is refused with a new NONCE for a transition that it may not make (R553, R554). -/
theorem exec_secLifecycle_denied {s : State} {r : Req} {target : BitVec 3} (k : BitVec 3) (sig : BitVec 768) (rec : List Byte)
    (h : ready s r 0x0F05 = true) (htrng : s.sec.trngStopped = false)
    (hno : legalTransition s.sec.life target = false ∨ target = 2 ∨ s.sec.life = 0) :
    Replies (exec (.secLifecycle r target k sig rec) s) r 0x0F05 .denied [] (drawNonce s) := by
  have hbody (x : State) (hx : x.sec = s.sec) :
      bodySecLifecycle target.toNat k.toNat sig.toNat rec (originOf r 0x0F05) x =
        { state := drawNonce x, status := .denied } := by
    rw [bodySecLifecycle, lifecycle_denied _ _ _ _ (congrArg Sec.life hx) hno]
    exact if_neg (by rw [refuse, hx, htrng]; decide)
  exact serve_replies h (hbody (taken r 0x0F05 _ s) rfl) (by decide) (by simp) rfl rfl rfl

/-! ## The obligations -/

/-- Settles O1: the step's branch on a queue with a command in front. -/
theorem stepRunsFrontCommand : Obligations.StepRunsFrontCommand := by
  unfold Obligations.StepRunsFrontCommand
  exact fun s c rest h => step_cons h

/-- Settles O2: the step's branch on an empty queue. -/
theorem emptyQueueIdles : Obligations.EmptyQueueIdles := by
  unfold Obligations.EmptyQueueIdles
  exact fun s h => step_nil h

/-- Settles O3: every command has a frame, and no frame names the queue. -/
theorem commandsAnswerNext : Obligations.CommandsAnswerNext := by
  unfold Obligations.CommandsAnswerNext
  exact exec_next

/-- Settles O4, by induction on the number of steps. -/
theorem queueDrains : Obligations.QueueDrains := by
  unfold Obligations.QueueDrains
  intro s n h
  obtain ⟨t, hrun, hempty⟩ := run_drains n s h
  exact ⟨t, hrun, hempty, fun m => run_of_empty m hempty⟩

/-- Settles O5: the frame of each arm of `exec`. -/
theorem commandFrames : Obligations.CommandFrames := by
  unfold Obligations.CommandFrames
  exact fun c s t h => frame_of_exec h

/-- Settles O7: every command keeps the life-cycle invariant by its frame, and under the invariant only a legal transition is
taken; the refusal is the first test of SEC.LIFECYCLE. -/
theorem lifeCycleMoves : Obligations.LifeCycleMoves := by
  unfold Obligations.LifeCycleMoves
  refine ⟨?moves, fun s r target k sig rec h htrng hno => exec_secLifecycle_denied k sig rec h htrng hno⟩
  case moves =>
    intro s t hs hstep
    obtain rfl | ⟨c, rest, hexec⟩ := step_cases hstep
    · exact ⟨hs, .inl rfl⟩
    · have hrest : lifeInv { s with pending := rest } := hs
      exact ⟨exec_lifeInv hexec hrest, (exec_moves hexec).go hrest⟩

/-- Settles O8: no command's frame names the canonical form of the memories. -/
theorem memoriesStayCanonical : Obligations.MemoriesStayCanonical := by
  unfold Obligations.MemoriesStayCanonical
  intro s t hs hstep
  obtain rfl | ⟨c, rest, hexec⟩ := step_cases hstep
  · exact hs
  · exact exec_memWf hexec hs

/-- Settles O9: no transition is in progress at reset, and the tables of the addressed memories are empty. -/
theorem resetMeetsInvariants : Obligations.ResetMeetsInvariants := by
  unfold Obligations.ResetMeetsInvariants
  refine ⟨?life, ⟨rfl, rfl, rfl, rfl⟩, rfl, rfl, rfl⟩
  case life =>
    intro org old new h
    cases h

end Sys2Proof.Machine

/-! What a row of one pin, one memory block or one DRAM channel leaves alone. -/

namespace Sys2Proof.Machine

/-! ## Pins -/

section
variable {s t : State} {p : Fin 1152}

/-- A row that has an effect or none. -/
theorem PinsBut.ite {c : Prop} [Decidable c] {x : State} (hx : PinsBut p.val s x)
    (h : (if c then .next s else .next x : Host.Outcome State Fault Refusal) = .next t) : PinsBut p.val s t := by
  split at h
  · cases h
    exact .refl ..
  · cases h
    exact hx

theorem execPinEdge_but {rise : Bool} {tick : Fin 16} {coin : Bool} (h : execPinEdge p rise tick coin s = .next t) :
    PinsBut p.val s t :=
  .ite ((PinsBut.refl ..).upd _) h

theorem execPinOutputLaunch_but {d oe : Bool} {ofs : BitVec 4} (h : execPinOutputLaunch p d oe ofs s = .next t) :
    PinsBut p.val s t := by
  unfold execPinOutputLaunch at h
  split at h
  · cases h
    exact (PinsBut.refl ..).upd _
  · cases h
    exact .refl ..

theorem execPinEventPop_but (h : execPinEventPop p s = .next t) : PinsBut p.val s t := by
  unfold execPinEventPop at h
  dsimp only at h
  split at h
  · cases h
    exact .refl ..
  · split at h
    · split at h
      · cases h
        exact (PinsBut.refl ..).upd _
      · cases h
        exact (PinsBut.refl ..).upd _
    · cases h
      exact (PinsBut.refl ..).upd _

theorem execPinWindowOpen_but {a l : BitVec 20} (h : execPinWindowOpen p a l s = .next t) : PinsBut p.val s t :=
  .ite ((PinsBut.refl ..).upd _) h

theorem execPinWindowResult_but (h : execPinWindowResult p s = .next t) : PinsBut p.val s t := by
  cases h
  exact (PinsBut.refl ..).upd _

theorem execPinShort_but {l : Bool} (h : execPinShort p l s = .next t) : PinsBut p.val s t := by
  unfold execPinShort at h
  dsimp only at h
  split at h
  · cases h
    exact .refl ..
  · exact .ite (((PinsBut.refl ..).upd _).frame (raise_frame ..)) h

theorem execPinOvervoltage_but {l : Bool} (h : execPinOvervoltage p l s = .next t) : PinsBut p.val s t :=
  .ite (((PinsBut.refl ..).upd _).frame (raise_frame ..)) h

theorem execPinPolarityCheck_but {st l : Bool} (h : execPinPolarityCheck p st l s = .next t) : PinsBut p.val s t := by
  unfold execPinPolarityCheck at h
  dsimp only at h
  split at h
  · cases h
    exact .refl ..
  next org failed rest _ =>
    have hchecked (c : Bool) (ps : List (Nat × Option Origin × Bool)) (d : List (Nat × Nat)) :
        PinsBut p.val s (if c then raise .pinPolarity d (updPin p.val (fun q => { q with rxInv := true })
          { s with pins := { s.pins with polarity := ps } }) else { s with pins := { s.pins with polarity := ps } }) := by
      split
      · exact (((PinsBut.refl ..).pol ps).upd _).frame (raise_frame ..)
      · exact (PinsBut.refl ..).pol ps
    cases h
    split
    · split
      · exact hchecked ..
      · exact (hchecked ..).frame (finish_frame ..)
    · exact hchecked ..

end

/-- The rows of one pin leave every other pin as it is. -/
theorem pinRow_but {s t : State} {c : Instr} {p : Fin 1152}
    (hc : (∃ rise tick coin, c = .pinEdge p rise tick coin) ∨ (∃ d oe ofs, c = .pinOutputLaunch p d oe ofs) ∨
      c = .pinEventPop p ∨ (∃ a l, c = .pinWindowOpen p a l) ∨ c = .pinWindowResult p ∨ (∃ l, c = .pinShort p l) ∨
      (∃ l, c = .pinOvervoltage p l) ∨ (∃ st l, c = .pinPolarityCheck p st l))
    (h : exec c s = .next t) : PinsBut p.val s t := by
  obtain ⟨_, _, _, rfl⟩ | ⟨_, _, _, rfl⟩ | rfl | ⟨_, _, rfl⟩ | rfl | ⟨_, rfl⟩ | ⟨_, rfl⟩ | ⟨_, _, rfl⟩ := hc
  · exact execPinEdge_but h
  · exact execPinOutputLaunch_but h
  · exact execPinEventPop_but h
  · exact execPinWindowOpen_but h
  · exact execPinWindowResult_but h
  · exact execPinShort_but h
  · exact execPinOvervoltage_but h
  · exact execPinPolarityCheck_but h

/-! ## Memory blocks -/

section
variable {s t : State} {g : Fin 1152}

theorem doPort_but {p : PortAB} {idle : Bool} {op : Nat → Block → OpAns}
    (h : (Host.Outcome.next (doPort p g.val idle op s) : Host.Outcome State Fault Refusal) = .next t) : BlocksBut g.val s t := by
  cases h
  exact (BlocksBut.refl ..).port ..

theorem doPort_useFree_but {p : PortAB} {idle : Bool} {op : Nat → Block → OpAns}
    (h : (Host.Outcome.next (doPort p g.val idle op (useFree 1 s)) : Host.Outcome State Fault Refusal) = .next t) :
    BlocksBut g.val s t := by
  cases h
  exact ((BlocksBut.refl ..).frame (useFree_frame ..)).port ..

theorem execQueueEntryVisible_but (h : execQueueEntryVisible g s = .next t) : BlocksBut g.val s t := by
  cases h
  exact (BlocksBut.refl ..).upd _

/-- A row that has an effect or none. -/
theorem BlocksBut.ite {c : Prop} [Decidable c] {x : State} (hx : BlocksBut g.val s x)
    (h : (if c then .next s else .next x : Host.Outcome State Fault Refusal) = .next t) : BlocksBut g.val s t := by
  split at h
  · cases h
    exact .refl ..
  · cases h
    exact hx

theorem execPatrolRead_but {u : WordUpset} (h : execPatrolRead g u s = .next t) : BlocksBut g.val s t :=
  .ite (((BlocksBut.refl ..).upd _).ecc ..) h

theorem execPatrolWriteback_but (h : execPatrolWriteback g s = .next t) : BlocksBut g.val s t := by
  unfold execPatrolWriteback at h
  dsimp only at h
  split at h
  · cases h
    exact .refl ..
  · exact .ite ((BlocksBut.refl ..).upd _) h

end

/-- The rows of one block leave every other block as it is. -/
theorem blockRow_but {s t : State} {c : Instr} {g : Fin 1152}
    (hc : (∃ p, c = .portNop p g) ∨ (∃ p a u, c = .portRead p g a u) ∨ (∃ p a d, c = .portWrite p g a d) ∨
      (∃ p d a, c = .portEnq p g d a) ∨ (∃ p u, c = .portDeq p g u) ∨ (∃ p u, c = .portPeek p g u) ∨
      (∃ p a, c = .portReturn p g a) ∨ c = .queueEntryVisible g ∨ (∃ u, c = .patrolRead g u) ∨ c = .patrolWriteback g)
    (h : exec c s = .next t) : BlocksBut g.val s t := by
  obtain ⟨_, rfl⟩ | ⟨_, _, _, rfl⟩ | ⟨_, _, _, rfl⟩ | ⟨_, _, _, rfl⟩ | ⟨_, _, rfl⟩ | ⟨_, _, rfl⟩ | ⟨_, _, rfl⟩ | rfl | ⟨_, rfl⟩ |
    rfl := hc
  · exact doPort_but h
  · exact doPort_but h
  · exact doPort_but h
  · exact doPort_but h
  · exact doPort_useFree_but h
  · exact doPort_useFree_but h
  · exact doPort_but h
  · exact execQueueEntryVisible_but h
  · exact execPatrolRead_but h
  · exact execPatrolWriteback_but h

/-! ## DRAM lines -/

/-- Serving an operation changes no line but its own. -/
theorem serveOp_lines (c : Nat) (sub : Bool) (o : LineOp) (u : LineUpset) (nrr : Bool) (s : State) :
    LinesBut o.line s (serveOp c sub o u nrr s) := by
  cases hj : jobById s o.job with
  | none =>
    obtain ⟨x, hx, hjobs, -, -, hlines, -⟩ := serveOp_mid c sub nrr o s
    have hserve : serveOp c sub o u nrr s = x := by rw [serveOp, ← hx, hjobs, hj]
    rw [hserve]
    exact (LinesBut.refl ..).of ⟨hlines⟩
  | some j =>
    obtain ⟨x, hx, hserve⟩ := serveOp_takes c sub u nrr hj
    rw [hserve]
    have hline := ((LinesBut.refl o.line s).of ⟨hx.lines⟩).go
    refine ⟨fun k hk => ?_⟩
    rw [lineDone_lines, (performLine_lines c o j.req u x).go k hk, hline k hk]

theorem execDramServe_lines {s t : State} {c : Fin 8} {sub nrr : Bool} {u : LineUpset} (h : execDramServe c sub u nrr s = .next t)
    {l : Nat} (hl : ∀ o, pickOp s (subOf s c.val sub) = some o → o.line ≠ l) :
    Tab.get none t.dram.lines l = Tab.get none s.dram.lines l := by
  unfold execDramServe at h
  dsimp only at h
  split at h
  · cases h
    rfl
  · split at h
    · cases h
      rfl
    next o hpick =>
      cases h
      exact (serveOp_lines ..).go l (hl o hpick).symm

theorem execAgePromotion_lines {s t : State} {k : Fin 8} {sub : Bool} {pick : Nat}
    (h : execAgePromotion k sub pick s = .next t) : LinesAll s t := by
  unfold execAgePromotion at h
  split at h
  · cases h
    exact .refl _
  · cases h
    exact (LinesAll.refl _).sub ..

theorem execRefreshTimer_lines {s t : State} {k : Fin 8} {sub : Bool} (h : execRefreshTimer k sub s = .next t) :
    LinesAll s t := by
  unfold execRefreshTimer at h
  split at h
  · cases h
    exact (LinesAll.refl _).sub ..
  · cases h
    exact .refl _

theorem execPeriodicRetrain_lines {s t : State} {k : Fin 8} {ok : Bool} (h : execPeriodicRetrain k ok s = .next t) :
    LinesAll s t := by
  unfold execPeriodicRetrain at h
  dsimp only at h
  split at h
  · cases h
    exact .refl _
  · split at h
    · cases h
      exact (LinesAll.refl _).store ..
    · cases h
      exact (LinesAll.refl _).fail ..

theorem execSetpointSwitchDone_lines {s t : State} {k : Fin 8} {ok : Bool} (h : execSetpointSwitchDone k ok s = .next t) :
    LinesAll s t := by
  unfold execSetpointSwitchDone at h
  dsimp only at h
  split at h
  · cases h
    exact .refl _
  · split at h
    · cases h
      exact .refl _
    · split at h
      · cases h
        exact (((LinesAll.refl _).upd ..).store ..).step ..
      · cases h
        exact (LinesAll.refl _).fail ..

theorem execSoftRepairDone_lines {s t : State} {k : Fin 8} (h : execSoftRepairDone k s = .next t) : LinesAll s t := by
  unfold execSoftRepairDone at h
  dsimp only at h
  split at h
  · cases h
    exact .refl _
  · cases h
    refine ((LinesAll.hold _ ?_).frame (raise_frame ..)).frame (finishOpt_frame ..)
    split
    · exact (((LinesAll.refl _).upd ..).sub ..).frame (writeRecord_frame ..)
    · exact ((LinesAll.refl _).upd ..).sub ..

theorem execDramChannelFailed_lines {s t : State} {k : Fin 8} {b : BitVec 8} (h : execDramChannelFailed k b s = .next t) :
    LinesAll s t := by
  unfold execDramChannelFailed at h
  dsimp only at h
  split at h
  · cases h
    exact (LinesAll.refl _).fail ..
  · cases h
    exact .refl _

/-! ## The obligation -/

/-- Settles O6: each row is a composition of updates of its own pin, block or channel with operations whose frames leave the
pins, the blocks or the lines alone. -/
theorem addressedFrames : Obligations.AddressedFrames := by
  unfold Obligations.AddressedFrames
  refine ⟨fun s t c p hc h => (pinRow_but hc h).go, fun s t c g hc h => (blockRow_but hc h).go,
    fun s t c sub nrr u h l hl => execDramServe_lines h hl, ?channel⟩
  case channel =>
    intro s t c k hc h
    obtain ⟨_, _, rfl⟩ | ⟨_, rfl⟩ | ⟨_, rfl⟩ | ⟨_, rfl⟩ | rfl | ⟨_, rfl⟩ := hc
    · exact (execAgePromotion_lines h).go
    · exact (execRefreshTimer_lines h).go
    · exact (execPeriodicRetrain_lines h).go
    · exact (execSetpointSwitchDone_lines h).go
    · exact (execSoftRepairDone_lines h).go
    · exact (execDramChannelFailed_lines h).go

end Sys2Proof.Machine

/-! The tokens of the dispatcher (R394, R395, R397 to R401, R408). -/

namespace Sys2Proof.Machine

/-! ## CREATE -/

/-- The item that a CREATE enters (R399). -/
def newItem (t : Token) : Item :=
  { tag := tkTag t, flow := tkFlow t, classIn := tkClass t, cls := tkClass t, slots := BitVec.ofNat 4 (tkSlots t), filled := 0,
    arg := tkArg t, values := [], bypass := 0, ready := none, eligible := none, entered := 0 }

/-- The flow that the first CREATE of a flow enters (R400). -/
def newFlow (s : State) (t : Token) : FlowEnt :=
  { key := tkFlow t, group := s.dsp.defGroup.toNat, last := none, pinned := false, tag := none }

section
variable {s : State} {k : Nat} {t : Token}

theorem createTok_new (hi : itemOf s (tkTag t) = none) (hf : flowOf s (tkFlow t) = none) (hs : tkSlots t ≠ 0) :
    createTok k t s = updDsp (fun d => { d with items := d.items ++ [newItem t], flows := d.flows ++ [newFlow s t] }) s := by
  unfold createTok
  dsimp only
  rw [if_neg (by rw [hi]; decide), if_neg hs, if_neg (by rw [hf]; decide)]
  rfl

theorem mustHold_room (hi : s.dsp.items.length < 65536) (hf : s.dsp.flows.length < 65536) : mustHold s k t = false := by
  simp [mustHold, createFits, dspMax, hi, hf]

theorem mustHold_full (hk : tkKind t = 1) (hm : tkMalformed t = false) (hd : doneOnly s k = false)
    (hi : itemOf s (tkTag t) = none) (hfull : 65536 ≤ s.dsp.items.length) : mustHold s k t = true := by
  have hroom : ¬s.dsp.items.length < dspMax := Nat.not_lt.2 hfull
  simp [mustHold, createFits, hk, hm, hd, hi, hroom]

theorem mustHold_of_kind (hk : tkKind t ≠ 1) : mustHold s k t = false := by
  simp [mustHold, hk]

/-- A CREATE that finds no entry is held at its source (R408). -/
theorem takeTok_held {mine : Nat → Bool} {act : Nat → Token → State → State} (hup : dspUp s = true) (hn : nextTok s = some (k, t))
    (hmine : mine (tkKind t) = true) (hm : tkMalformed t = false) (hd : doneOnly s k = false) (hold : mustHold s k t = true) :
    takeTok mine act s = holdTok k t (updDsp (fun d => { d with rot := k }) s) := by
  unfold takeTok
  rw [hup, if_neg (by decide), hn]
  dsimp only
  rw [hmine, if_neg (by decide), hm, hd, if_neg (by simp), if_pos hold]

/-- A held token stays at the head of its source, and the store that is full is reported so (R408). -/
theorem holdTok_facts (hk : k < 64) : (holdTok k t s).dsp.items = s.dsp.items ∧ (holdTok k t s).dsp.flows = s.dsp.flows ∧
    dspSrc (holdTok k t s) k = { dspSrc s k with stalled := true } ∧
    (holdTok k t s).dsp.storeFull = (s.dsp.storeFull || decide (dspMax ≤ s.dsp.items.length)) := by
  have hdsp : (holdTok k t s).dsp = { (updDspSrc k (fun x => { x with stalled := true }) s).dsp with
      storeFull := s.dsp.storeFull || decide (dspMax ≤ s.dsp.items.length)
      flowFull := s.dsp.flowFull || ((flowOf s (tkFlow t)).isNone && decide (dspMax ≤ s.dsp.flows.length)) } := by
    unfold holdTok
    dsimp only
    rw [if_pos hk]
    split
    · rw [(raise_frame ..).same .dsp rfl]
      rfl
    · rfl
  refine ⟨by rw [hdsp]; rfl, by rw [hdsp]; rfl, ?_, by rw [hdsp]⟩
  rw [dspSrc, hdsp]
  exact dspSrc_upd k (fun x => { x with stalled := true }) s

/-! ## OPERAND -/

theorem operandTok_fills {x : Item} (hx : s.dsp.items = [x]) (ht : x.tag = tkTag t) (hs : x.slots.getLsbD (tkSlot t) = true)
    (hf : x.filled.getLsbD (tkSlot t) = false) (hmore : x.filled ||| (1#4 <<< tkSlot t) ≠ x.slots) :
    operandTok k t s = updItem x.tag (fun y =>
      { y with filled := x.filled ||| (1#4 <<< tkSlot t), values := Tab.set 0 y.values (tkSlot t) t.2 }) s := by
  have hitem : itemOf s (tkTag t) = some x := by
    rw [itemOf, hx, List.find?_cons_of_pos (by simp [ht])]
  unfold operandTok
  rw [hitem]
  dsimp only
  rw [if_neg (by simp [hs, hf]), if_neg hmore]

/-! ## DONE -/

theorem makeEligible_empty {key : BitVec 32} (hi : s.dsp.items = []) : makeEligible key s = s := by
  unfold makeEligible
  rw [hi]
  split
  · rfl
  · rfl

/-- The only flow leaves service; with no item left it stays only where it is pinned (R400, R401). -/
theorem endService_alone {f : FlowEnt} (hf : s.dsp.flows = [f]) (hi : s.dsp.items = []) :
    (endService f.key s).dsp.flows = if f.pinned then [{ f with tag := none }] else [] := by
  have hflow : flowOf (updFlow f.key (fun f => { f with tag := none }) s) f.key = some { f with tag := none } := by
    simp [flowOf, updFlow, updDsp, hf]
  have hitems : (updFlow f.key (fun f => { f with tag := none }) s).dsp.items = [] := hi
  rw [endService, makeEligible_empty hitems, freeFlow, hflow]
  dsimp only
  cases hp : f.pinned
  · rw [hitems]
    simp [updFlow, updDsp, hf]
  · simp [updFlow, updDsp, hf, hp]

theorem doneTok_ends {f : FlowEnt} (hf : flowOf s (tkFlow t) = some f) (ht : f.tag = some (tkTag t)) :
    doneTok k t s = endService f.key s := by
  rw [doneTok, hf]
  exact if_pos ht

theorem doneTok_discards (hf : flowOf s (tkFlow t) = none) : doneTok k t s = discard k 4 t s := by
  rw [doneTok, hf]

end

/-! ## The token ports -/

/-- A write of tokens in form, in the window of a port that answers, joins the port (R397). -/
theorem tokenWrite_joins {s : State} {q : NocReq} {lo hi : Nat} (put : TokenWrite → Dsp → Dsp) (hm : s.noc.mesh = [q])
    (hlo : lo ≤ q.addr.toNat) (hhi : q.addr.toNat + 8 * q.len.val ≤ hi) (hop : q.op = .write)
    (hshut : targetShut s q.addr.toNat = false) (hprot : protDenied s q.src.toNat q.addr.toNat = false)
    (hheld : s.dsp.tokenHeld = false) (hform : tokenForm q = true) :
    tokenWrite lo hi put q.src q.tag s = updDsp (put
      { src := q.src, tag := q.tag, stream := q.stream, tokens := tokensOf (q.data.take (q.len.val + 1)) })
      { s with noc := { s.noc with mesh := [] } } := by
  have hwindow : ¬(q.addr.toNat < lo ∨ hi < q.addr.toNat ∨ q.op ≠ .write) := by
    rintro (h | h | h)
    · omega
    · omega
    · exact h hop
  have hgood : ¬(tokenForm q = false ∨ hi < q.addr.toNat + 8 * q.len.val) := by
    rintro (h | h)
    · rw [hform] at h
      cases h
    · omega
  rw [tokenWrite, meshReq_one hm]
  dsimp only
  rw [if_neg hwindow, hshut, if_neg (by decide), hprot, if_neg (by decide), hheld, if_neg (by decide), if_neg hgood,
    dropMesh_one hm]

/-! ## The sources -/

theorem findSome_next {n : Nat} (f : Nat → Option Nat) {k : Nat} (h : f 0 = some k) : (List.range (n + 1)).findSome? f = some k := by
  rw [List.range_succ_eq_map, List.findSome?_cons, h]

/-- The source whose turn it is gives its two oldest words (R395, R397). -/
theorem exec_dspSourceDequeue_gives {s : State} {k : Nat} {x y : QEnt} {r : List QEnt} (hup : dspUp s = true)
    (hclk : fabricClock s = true) (hk : k = (s.dsp.rot + 1) % 64) (hr : srcReady s k = true)
    (hq : twoHeads (blockNow s (dspSrc s k).block) = some (x, y, r)) (hx : x.word.ecc = .clean) (hy : y.word.ecc = .clean)
    (hn : (blockNow s (dspSrc s k).block).nAt = none) (hu : nUnit (blockNow s (dspSrc s k).block) = false)
    (hab : (blockNow s (dspSrc s k).block).abAt = none) :
    exec .dspSourceDequeue s = .next (updDspSrc k (fun z => { z with head := some (x.word.data, y.word.data) })
      (updBlock (dspSrc s k).block (fun _ => { blockNow s (dspSrc s k).block with nAt := some s.clk.fc, entries := r })
        (useFree 2 s))) := by
  have hfind : (List.range 64).findSome? (fun i =>
      let k := (s.dsp.rot + 1 + i) % 64
      if srcReady s k then some k else none) = some k := by
    refine findSome_next (n := 63) _ ?_
    dsimp only
    rw [Nat.add_zero, ← hk, if_pos hr]
  show execDspSourceDequeue s = _
  unfold execDspSourceDequeue
  rw [if_neg (by simp [hup, hclk]), hfind]
  dsimp only
  rw [if_neg (by simp [hn, hu]), if_neg (by simp [hab]), hq]
  dsimp only
  rw [note_clean _ _ _ _ _ _ hx, note_clean _ _ _ _ _ _ hy]

/-! ## The obligation -/

/-- Settles O52: the token whose turn it is meets the branch of its kind that the hypotheses choose, and leaves its source. -/
theorem tokenRows : Obligations.TokenRows := by
  unfold Obligations.TokenRows
  refine ⟨?create, ?held, ?operand, ?done, ?other, ?token, ?doneWrite, ?dequeue⟩
  case create =>
    intro s k t hup hn hk hkind hm hd hi hf hitems hflows hs
    have htake := take_act (act := createTok) (mine := fun k => k == 1 || k == 0) hup hn (by rw [hkind]; rfl) hm (.inl hd)
      (mustHold_room hitems hflows) hk
    rw [createTok_new (by exact hi) (by exact hf) hs] at htake
    refine ⟨_, congrArg Host.Outcome.next htake, rfl, rfl, ?_, rfl⟩
    rw [dspSrc_upd]
  case held =>
    intro s k t hup hn hk hkind hm hd hi hfull
    have htake := takeTok_held (act := createTok) (mine := fun k => k == 1 || k == 0) hup hn (by rw [hkind]; rfl) hm hd
      (mustHold_full hkind hm hd hi hfull)
    obtain ⟨hitems, hflows, hsrc, hstore⟩ := holdTok_facts (t := t) (s := updDsp (fun d => { d with rot := k }) s) hk
    rw [← htake] at hitems hflows hsrc hstore
    refine ⟨_, rfl, hitems, hflows, by rw [hsrc], by rw [hsrc]; rfl, ?_⟩
    exact hstore.trans (by simp [updDsp, dspMax, hfull])
  case operand =>
    intro s k t x hup hn hk hkind hm hd hx ht hs hf hmore
    have htake := take_act (act := operandTok) (mine := fun k => k == 2) hup hn (by rw [hkind]; rfl) hm (.inl hd)
      (mustHold_of_kind (by rw [hkind]; decide)) hk
    rw [operandTok_fills (by exact hx) ht hs hf hmore] at htake
    refine ⟨_, congrArg Host.Outcome.next htake, ?_, by rw [dspSrc_upd]⟩
    simp [updDspSrc, updItem, updDsp, hx]
  case done =>
    intro s k t f hup hn hk hkind hm hf hkey ht hi
    have htake := take_act (act := doneTok) (mine := fun k => k == 3) hup hn (by rw [hkind]; rfl) hm (.inr hkind)
      (mustHold_of_kind (by rw [hkind]; decide)) hk
    have hflow : flowOf s (tkFlow t) = some f := by rw [flowOf, hf, List.find?_cons_of_pos (by simp [hkey])]
    rw [doneTok_ends (by exact hflow) ht] at htake
    have hflows := endService_alone (s := updDsp (fun d => { d with rot := k }) s) hf hi
    exact ⟨_, congrArg Host.Outcome.next htake, hflows, by rw [dspSrc_upd]⟩
  case other =>
    intro s k t hup hn hk hkind hm hf
    have htake := take_act (act := doneTok) (mine := fun k => k == 3) hup hn (by rw [hkind]; rfl) hm (.inr hkind)
      (mustHold_of_kind (by rw [hkind]; decide)) hk
    rw [doneTok_discards (by exact hf)] at htake
    obtain ⟨hflows, hitems, herrs, -⟩ := discard_facts k 4 t (updDsp (fun d => { d with rot := k }) s)
    exact ⟨_, congrArg Host.Outcome.next htake, hflows, hitems, herrs, by rw [dspSrc_upd]⟩
  case token =>
    intro s q hm hlo hhi hop hshut hprot hheld hform
    exact ⟨_, congrArg Host.Outcome.next (tokenWrite_joins _ hm hlo hhi hop hshut hprot hheld hform), rfl, rfl⟩
  case doneWrite =>
    intro s q hm hlo hhi hop hshut hprot hheld hform
    exact ⟨_, congrArg Host.Outcome.next (tokenWrite_joins _ hm hlo hhi hop hshut hprot hheld hform), rfl, rfl⟩
  case dequeue =>
    intro s k x y r hup hclk hk hr hq hx hy hn hu hab
    refine ⟨_, exec_dspSourceDequeue_gives hup hclk hk hr hq hx hy hn hu hab, ?_, ?_⟩
    · rw [dspSrc_upd]
    · exact congrArg Block.entries (blockOf_updBlock_same ..)

end Sys2Proof.Machine

/-! Picking an engine, dispatch and the writing of token groups (R403 to R407). -/

namespace Sys2Proof.Machine

/-! ## Dispatch -/

section
variable {s : State} {x : Item} {f : FlowEnt} {e : Nat} {a : Bool}

/-- With no other item in the store a dispatch overtakes none (R406). -/
theorem overtake_alone (hx : s.dsp.items = [x]) : overtake x s = s := by
  simp [overtake, hx]

/-- The group that a dispatch joins to those that wait to be written (R407). -/
def dispatchGroup (s : State) (x : Item) (f : FlowEnt) (e : Nat) (a : Bool) : Group :=
  { engine := e, block := (dspEng s e).block, group := f.group, words := groupWords x e a, done := 0 }

/-- The dispatcher after the dispatch of its only item (R403 to R407). -/
def Dsp.dispatched (s : State) (x : Item) (f : FlowEnt) (e : Nat) (a : Bool) (d : Dsp) : Dsp :=
  { d with
    items := [], flows := [{ f with last := some e, tag := some x.tag }], groupQ := d.groupQ ++ [dispatchGroup s x f e a]
    rr := Tab.set 0 d.rr f.group e, dispatches := satAdd d.dispatches 1, storeFull := false }

theorem dispatchTo_alone (hx : s.dsp.items = [x]) (hf : s.dsp.flows = [f]) (hkey : f.key = x.flow) :
    dispatchTo x f.group e a s = updDsp (Dsp.dispatched s x f e a) s := by
  simp [dispatchTo, overtake_alone hx, updFlow, updDsp, Dsp.dispatched, dispatchGroup, hx, hf, hkey]

theorem flowOf_alone (hf : s.dsp.flows = [f]) (hkey : f.key = x.flow) : flowOf s x.flow = some f := by
  rw [flowOf, hf, List.find?_cons_of_pos (by simp [hkey])]

/-- The only eligible item goes to the engine that the rules pick (R403 to R405). -/
theorem exec_dspDispatch_one (hup : dspUp s = true) (hq : s.dsp.groupQ.length < 16) (hx : s.dsp.items = [x])
    (hf : s.dsp.flows = [f]) (hkey : f.key = x.flow) (hel : eligibleItems s = [x]) (hg : groupAlive s f.group = true)
    (hp : pickEngine s f = some (e, a)) : exec (.dspDispatch none) s = .next (updDsp (Dsp.dispatched s x f e a) s) := by
  have hflow := flowOf_alone hf hkey
  show execDspDispatch none s = _
  rw [execDspDispatch, loseEntry, dead_groups_alive hel hflow hg, if_neg (by simp [hup])]
  dsimp only
  rw [if_neg (Nat.not_le.2 hq), hel, List.findSome?_cons, hflow]
  dsimp only
  rw [hp]
  exact congrArg Host.Outcome.next (dispatchTo_alone hx hf hkey)

theorem exec_dspDispatch_full (hup : dspUp s = true) (hq : 16 ≤ s.dsp.groupQ.length) (hel : eligibleItems s = []) :
    exec (.dspDispatch none) s = .next s := by
  have hdead : noteDeadGroups s = s := by rw [noteDeadGroups, hel, List.foldl_nil]
  show execDspDispatch none s = _
  rw [execDspDispatch, loseEntry, hdead, if_neg (by simp [hup])]
  exact if_pos hq

end

/-! ## The writing of a group -/

/-- The inbox of the engine of group w can take a word of it in this fc. -/
structure InboxOpen (s : State) (w : Group) : Prop where
  up : dspUp s = true
  clock : fabricClock s = true
  available : unavailable s w.block = false
  inbox : (blockNow s w.block).mode = .inbox
  portN : (blockNow s w.block).nAt = none
  unit : nUnit (blockNow s w.block) = false
  portAB : (blockNow s w.block).abAt = none

/-- The inbox of a group's engine with the word of this fc: the first word brings the entries of the group, which the others
fill (R407). -/
def inboxWritten (s : State) (w : Group) : Block :=
  let b := { blockNow s w.block with nAt := some s.clk.fc }
  if w.done = 0 then { b with entries := b.entries ++ groupEntries w.words, dirty := true } else b

section
variable {s : State} {e : Fin 256} {w : Group}

/-- A step of the writing of the only group that waits (R407). -/
theorem exec_dspGroupWrite_word (hq : s.dsp.groupQ = [w]) (he : w.engine = e.val) (hopen : InboxOpen s w) :
    exec (.dspGroupWrite e) s =
      if w.done + 1 < w.words.length then
        .next (updDsp (fun d => { d with groupQ := setGroup e.val (some { w with done := w.done + 1 }) d.groupQ })
          (updBlock w.block (fun _ => inboxWritten s w) s))
      else
        .next (updDsp (fun d => { d with groupQ := setGroup e.val none d.groupQ })
          (updBlock w.block (fun _ =>
            { inboxWritten s w with entries := showGroup (s.clk.fc + 4) (inboxWritten s w).entries }) s)) := by
  obtain ⟨hup, hclk, hun, hinbox, hn, hu, hab⟩ := hopen
  have hlive : ¬(domCut s (sectorDom (sectorOf w.block)) || blockRetired s w.block || (blockNow s w.block).mode != .inbox) = true := by
    simp only [unavailable, Bool.or_eq_false_iff] at hun
    obtain ⟨⟨⟨hcut, -⟩, hret⟩, -⟩ := hun
    simp [hcut, hret, hinbox]
  show execDspGroupWrite e s = _
  unfold execDspGroupWrite
  dsimp only
  rw [hq, List.find?_cons_of_pos (by simp [he])]
  dsimp only
  rw [if_neg (by simp [hup, hclk]), if_neg hlive, if_neg (by simp [hun, hn, hu]), if_neg (by simp [hab])]
  rfl

theorem inboxWritten_first (h : w.done = 0) :
    (inboxWritten s w).entries = (blockNow s w.block).entries ++ groupEntries w.words := by
  rw [inboxWritten, if_pos h]

theorem inboxWritten_later (h : w.done ≠ 0) : (inboxWritten s w).entries = (blockNow s w.block).entries := by
  rw [inboxWritten, if_neg h]

theorem setGroup_alone (he : w.engine = e.val) (o : Option Group) : setGroup e.val o [w] = o.toList := by
  rw [setGroup, if_pos he, List.append_nil]

end

/-! ## The obligation -/

/-- Settles O53: with one item and one flow the item that is picked is that one, and a group's word is written where its
inbox is open. -/
theorem dispatchRows : Obligations.DispatchRows := by
  unfold Obligations.DispatchRows
  refine ⟨?dispatch, fun s hup hq hel => exec_dspDispatch_full hup hq hel, ?first, ?last⟩
  case dispatch =>
    intro s x f e a hup hq hx hf hkey hel hg hp
    exact ⟨_, exec_dspDispatch_one hup hq hx hf hkey hel hg hp, rfl, rfl, rfl, Tab.get_set_same .., rfl⟩
  case first =>
    intro s e w hq he hup hclk hun hinbox hn hu hab hdone hmore
    have hexec := exec_dspGroupWrite_word hq he ⟨hup, hclk, hun, hinbox, hn, hu, hab⟩
    rw [if_pos (by omega)] at hexec
    refine ⟨_, hexec, ?_, (congrArg Block.entries (blockOf_updBlock_same ..)).trans (inboxWritten_first hdone)⟩
    rw [hdone]
    exact (congrArg (setGroup e.val _) hq).trans (setGroup_alone he _)
  case last =>
    intro s e w hq he hup hclk hun hinbox hn hu hab hdone hlast
    have hexec := exec_dspGroupWrite_word hq he ⟨hup, hclk, hun, hinbox, hn, hu, hab⟩
    rw [if_neg (by omega)] at hexec
    refine ⟨_, hexec, ?_, (congrArg Block.entries (blockOf_updBlock_same ..)).trans
      (congrArg (showGroup _) (inboxWritten_later hdone))⟩
    exact (congrArg (setGroup e.val _) hq).trans (setGroup_alone he _)

end Sys2Proof.Machine

/-! The DSP commands (R395, R400 to R402, R410). -/

namespace Sys2Proof.Machine

/-! ## The bodies -/

section
variable {x : State} (o : Origin)

theorem withDsp_up {a : Ans} (h : dspUp x = true) : withDsp x a = a := by
  rw [withDsp, if_pos h]

theorem bit_beq_one (b : Bool) : (bit b == 1) = b := by
  cases b
  · rfl
  · rfl

theorem bodyDspConfig_sets {t0 t1 t2 : BitVec 8} {g : BitVec 5} (hup : dspUp x = true) (h0 : t0.toNat ≠ 0) (h1 : t1.toNat ≠ 0)
    (h2 : t2.toNat ≠ 0) : bodyDspConfig t0.toNat t1.toNat t2.toNat g.toNat o x =
      done (updDsp (fun d => { d with t0 := t0, t1 := t1, t2 := t2, defGroup := g }) x) := by
  rw [bodyDspConfig, if_neg (by simp [h0, h1, h2]), withDsp_up hup]
  simp only [BitVec.ofNat_toNat, BitVec.setWidth_eq]

theorem bodyDspConfig_refuses {t0 t1 t2 g : Nat} (h : t0 = 0 ∨ t1 = 0 ∨ t2 = 0) :
    bodyDspConfig t0 t1 t2 g o x = refuse x .badArg := if_pos h

theorem bodyDspEngineSet_binds {e g thresh : Nat} (en : Bool) (hup : dspUp x = true) (hg : g < 1152)
    (hcap : thresh + 6 ≤ (blockOf x g).cap) (hret : blockRetired x g = false) (hmode : (blockOf x g).mode = .inbox)
    (hbound : boundElse x (some e) none g = false) : bodyDspEngineSet e g thresh (bit en) o x =
      done (updDsp (fun d => { d with
        engines := Tab.set {} d.engines e { block := g, thresh := thresh, en := en, bound := true } }) x) := by
  rw [bodyDspEngineSet, if_neg (by omega), hret, if_neg (by decide), if_neg (by simp [hmode, hbound]), bit_beq_one]
  exact withDsp_up hup

theorem bodyDspGroupSet_sets {g : Nat} {m : BitVec 256} (hup : dspUp x = true) : bodyDspGroupSet g m.toNat o x =
    done (updDsp (fun d => { d with groups := Tab.set 0 d.groups g m }) x) := by
  rw [bodyDspGroupSet, withDsp_up hup, BitVec.ofNat_toNat, BitVec.setWidth_eq]

theorem bodyDspFlush_empties (hup : dspUp x = true) : bodyDspFlush o x =
    done (updDsp (fun d => { d with items := [], flows := [], storeFull := false, flowFull := false }) x) := by
  rw [bodyDspFlush, withDsp_up hup, emptyStore]

/-- A source bound to a block (R395). -/
def DspSource.boundTo (g : Nat) (role en : Bool) (x : DspSource) : DspSource :=
  { x with block := g, role := role, en := en, bound := true }

theorem bodyDspSourceSet_binds {k g : Nat} (role en : Bool) (hup : dspUp x = true) (hg : g < 1152)
    (hmode : (blockOf x g).mode = .fifo) (hbound : boundElse x none (some k) g = false) :
    bodyDspSourceSet k g (bit role) (bit en) o x = done (updDspSrc k (DspSource.boundTo g role en) x) := by
  rw [bodyDspSourceSet, if_neg (Nat.not_le.2 hg), if_neg (by simp [hmode, hbound]), withDsp_up hup, bit_beq_one, bit_beq_one]
  rfl

theorem bodyDspFlowSet_enters {fl : BitVec 32} {g : Nat} (hup : dspUp x = true) (hf : flowOf x fl = none)
    (hroom : x.dsp.flows.length < 65536) : bodyDspFlowSet fl.toNat g o x = done (updDsp (fun d => { d with
      flows := d.flows ++ [{ key := fl, group := g, last := none, pinned := true, tag := none }] }) x) := by
  have hkey : BitVec.ofNat 32 fl.toNat = fl := by rw [BitVec.ofNat_toNat, BitVec.setWidth_eq]
  rw [bodyDspFlowSet, hkey, hf, if_neg (by decide), if_neg (by simpa [dspMax] using hroom), withDsp_up hup]

theorem bodyDspFlowGet_reports {fl : BitVec 32} {f : FlowEnt} (hup : dspUp x = true) (hf : flowOf x fl = some f) :
    bodyDspFlowGet fl.toNat o x = done x (packFields [(8, f.group), (16, f.last.getD 0xFFFF), (8, bit f.pinned),
      (8, bit f.tag.isSome), (32, (f.tag.getD 0).toNat), (32, (x.dsp.items.filter (fun y => y.flow == f.key)).length)]) := by
  rw [bodyDspFlowGet, BitVec.ofNat_toNat, BitVec.setWidth_eq, hf]
  exact withDsp_up hup

theorem bodyDspFlowRelease_ends {fl : BitVec 32} {f : FlowEnt} (hup : dspUp x = true) (hf : flowOf x fl = some f)
    (ht : f.tag.isSome = true) : bodyDspFlowRelease fl.toNat o x = done (endService f.key x) := by
  rw [bodyDspFlowRelease, BitVec.ofNat_toNat, BitVec.setWidth_eq, hf]
  exact (if_pos ht).trans (withDsp_up hup)

theorem bodyDspFlowRelease_refuses {fl : BitVec 32} (hup : dspUp x = true) (hf : flowOf x fl = none) :
    bodyDspFlowRelease fl.toNat o x = refuse x .state := by
  rw [bodyDspFlowRelease, BitVec.ofNat_toNat, BitVec.setWidth_eq, hf]
  exact withDsp_up hup

theorem bodyDspFlowClear_drops {fl : BitVec 32} {f : FlowEnt} (hup : dspUp x = true) (hf : flowOf x fl = some f)
    (ht : f.tag = none) (hi : x.dsp.items.any (fun y => y.flow == fl) = false) : bodyDspFlowClear fl.toNat o x =
      done (updDsp (fun d => { d with flows := d.flows.filter (fun y => y.key != fl), flowFull := false }) x) := by
  have hkey : BitVec.ofNat 32 fl.toNat = fl := by rw [BitVec.ofNat_toNat, BitVec.setWidth_eq]
  rw [bodyDspFlowClear, hkey, hf]
  dsimp only
  rw [hi, if_neg (by simp [ht]), withDsp_up hup]

end

/-! ## Commands that change the dispatcher only -/

theorem withChans_updDsp (X : Tab Chan) (f : Dsp → Dsp) (s : State) :
    withChans X (updDsp f s) = updDsp f (withChans X s) := by
  unfold updDsp withChans
  rfl

/-- A command on a ready channel that completes with ST_OK and changes the dispatcher only. -/
theorem serve_updDsp {s : State} {r : Req} {cmd : Nat} {args : List Byte} {body : Origin → State → Ans} {f : Dsp → Dsp}
    (h : ready s r cmd = true)
    (hbody : body (originOf r cmd) (taken r cmd args s) = done (updDsp f (taken r cmd args s))) (hc : cmd < 65536 := by decide) :
    Replies (.next (serve r cmd args body s)) r cmd .ok [] (updDsp f s) := by
  have hreplies := serve_ok h hbody hc
  rwa [withChans_updDsp, withChans_taken] at hreplies

/-- A flow leaves service in the state that has taken the command as in the state before. -/
theorem endService_taken (key : BitVec 32) (r : Req) (cmd : Nat) (args : List Byte) (s : State) :
    withChans s.mbx.chans (endService key (taken r cmd args s)) = endService key s := by
  rw [endService_of (x := taken r cmd args s) (s := s) rfl]
  refine Eq.trans ?_ (endService_of (x := s) (s := s) rfl).symm
  unfold withChans taken
  rfl

/-- A command on a ready channel that completes with ST_OK and takes a flow out of service. -/
theorem serve_endService {s : State} {r : Req} {cmd : Nat} {args : List Byte} {body : Origin → State → Ans} {key : BitVec 32}
    (h : ready s r cmd = true)
    (hbody : body (originOf r cmd) (taken r cmd args s) = done (endService key (taken r cmd args s)))
    (hc : cmd < 65536 := by decide) :
    Replies (.next (serve r cmd args body s)) r cmd .ok [] (endService key s) := by
  have hreplies := serve_ok h hbody hc ((endService_frame ..).same .chans rfl)
  rwa [endService_taken] at hreplies

/-! ## The obligation -/

/-- Settles O54: each body's answer under the hypotheses, and the reply that such an answer gives on a ready channel. How
DSP.FLOW_GET lays out its answer is the model's choice (log 42). -/
theorem dspCommandsReply : Obligations.DspCommandsReply := by
  unfold Obligations.DspCommandsReply
  refine ⟨?status, fun s r t0 t1 t2 g h hup h0 h1 h2 => serve_updDsp h (bodyDspConfig_sets _ hup h0 h1 h2),
    fun s r t0 t1 t2 g h hzero => serve_refuse h (bodyDspConfig_refuses _ hzero),
    fun s r e g th en h hup hg hcap hret hmode hbound =>
      serve_updDsp h (bodyDspEngineSet_binds _ en hup hg hcap hret hmode hbound),
    fun s r g m h hup => serve_updDsp h (bodyDspGroupSet_sets _ hup),
    fun s r k g ro en h hup hg hmode hbound => serve_updDsp h (bodyDspSourceSet_binds _ ro en hup hg hmode hbound),
    fun s r fl g h hup hf hroom => serve_updDsp h (bodyDspFlowSet_enters _ hup hf hroom),
    fun s r fl f h hup hf => serve_report h (bodyDspFlowGet_reports _ hup hf),
    fun s r fl f h hup hf ht => serve_endService h (bodyDspFlowRelease_ends _ hup hf ht),
    fun s r fl h hup hf => serve_refuse h (bodyDspFlowRelease_refuses _ hup hf),
    fun s r fl f h hup hf ht hi => serve_updDsp h (bodyDspFlowClear_drops _ hup hf ht hi),
    fun s r h hup => serve_updDsp h (bodyDspFlush_empties _ hup)⟩
  case status =>
    intro s r h hup
    obtain ⟨hcfg, heng, hsrc⟩ := dspStatus_congr (x := taken r 0x0B01 [] s) (s := s) rfl rfl rfl rfl rfl
    refine serve_report h ?_
    rw [bodyDspStatus, withDsp_up (x := taken r 0x0B01 [] s) hup, hcfg, heng, hsrc]

end Sys2Proof.Machine

/-! Replies of commands on a ready channel, by the state that the command makes (R449, R456). -/

namespace Sys2Proof.Machine

/-- An update of the state that neither reads nor writes the channels. -/
def ChansApart (g : State → State) : Prop := ∀ X y, withChans X (g y) = g (withChans X y)

theorem ChansApart.chans {g : State → State} (hg : ChansApart g) (y : State) : (g y).mbx.chans = y.mbx.chans := by
  have hself : withChans y.mbx.chans (g y) = g y := hg y.mbx.chans y
  exact (congrArg (fun z => z.mbx.chans) hself).symm

section
variable {s x : State} {r : Req} {cmd units : Nat} {args data : List Byte} {body : Origin → State → Ans} {g : State → State}

/-- A command that completes with ST_OK and updates the state apart from the channels. -/
theorem serve_does (h : ready s r cmd = true)
    (ha : body (originOf r cmd) (taken r cmd args s) = done (g (taken r cmd args s)) data)
    (hg : ChansApart g := by intro _ _; rfl) (hc : cmd < 65536 := by decide) :
    Replies (.next (serve r cmd args body s)) r cmd .ok data (g s) := by
  have hreplies := serve_ok h ha hc (hg.chans _)
  rwa [hg, withChans_taken] at hreplies

/-- A command that updates the state apart from the channels and stays open. -/
theorem serve_begins (h : ready s r cmd = true)
    (ha : body (originOf r cmd) (taken r cmd args s) =
      { state := g (taken r cmd args s), status := .pending, data := data, units := units })
    (hg : ChansApart g := by intro _ _; rfl) (hc : cmd < 65536 := by decide) :
    Replies (.next (serve r cmd args body s)) r cmd .pending data (withPend r cmd units (g s)) := by
  have hreplies := serve_open h ha hc (hg.chans _)
  rwa [hg, withChans_taken] at hreplies

/-- A command that stays open in a state that keeps the channels: its answer, and every part but those of an answer as its
body leaves it. -/
theorem serve_open_kept (h : ready s r cmd = true)
    (ha : body (originOf r cmd) (taken r cmd args s) = { state := x, status := .pending, data := data, units := units })
    (hx : x.mbx.chans = (taken r cmd args s).mbx.chans := by rfl) (hc : cmd < 65536 := by decide) :
    ∃ t, Host.Outcome.next (φ := Fault) (ρ := Refusal) (serve r cmd args body s) = .next t ∧ answered t r cmd .pending data ∧
      Frame [.mbx, .chans, .evt, .sec] x t :=
  serve_fact_open (a := { state := x, status := .pending, data := data, units := units }) h ha rfl rfl rfl
    (taken_busy' r cmd args s x hx) hc

end

end Sys2Proof.Machine

/-! Pin events, launches, windows, banks and probes (R412 to R414, R425, R428 to R435). -/

namespace Sys2Proof.Machine

/-! ## Edges -/

section
variable {s : State} {p : Fin 1152} {rise coin : Bool} {tick : Fin 16} {q : Pin}

/-- With no edge before it, a committed edge of an enabled direction makes a new record (R428). -/
theorem commit_fresh {time u : Nat} {tau : Int} {unsync : Bool} (hev : (if rise then q.evRise else q.evFall) = true)
    (hlast : q.lastEdge = none) :
    q.commit time u tau rise coin unsync = Pin.commit.fresh time u rise coin unsync q (tau - q.deskew.toInt) := by
  rw [Pin.commit, if_neg (by simp [hev]), hlast]

/-- The pin with the level after an edge, which its capture register shows 4 fc later. -/
def edgeLevel (s : State) (rise : Bool) (q : Pin) : Pin :=
  { q with level := rise, inQ := ((s.clk.fc + 4, rise) :: q.inQ).take 8 }

/-- The pin after an edge that the glitch filter does not hold. -/
def edgeRecorded (s : State) (rise coin : Bool) (tick : Nat) (q : Pin) : Pin :=
  Pin.commit.fresh s.clk.time.toNat s.clk.fc rise coin s.clk.unsync (edgeLevel s rise q)
    (16 * (s.clk.time.toNat : Int) + tick - q.deskew.toInt)

theorem exec_pinEdge_recorded (hq : pinNow s p.val = q) (hs : pinSenses s p.val = true) (hl : q.level ≠ rise)
    (hclk : fabricClock s = true) (hg : q.glitch.toNat < 2) (hev : (if rise then q.evRise else q.evFall) = true)
    (hlast : q.lastEdge = none) :
    exec (.pinEdge p rise tick coin) s = .next (updPin p.val (fun _ => edgeRecorded s rise coin tick.val q) s) := by
  show execPinEdge p rise tick coin s = _
  rw [execPinEdge, hq, if_neg (by simp [hs, hl])]
  dsimp only
  rw [if_pos hclk, Pin.edge, if_pos hg, commit_fresh (q := { q with level := rise, inQ := _ }) hev hlast]
  rfl

theorem exec_pinEdge_same (hl : (pinNow s p.val).level = rise) : exec (.pinEdge p rise tick coin) s = .next s := by
  show execPinEdge p rise tick coin s = _
  rw [execPinEdge]
  exact if_pos (Or.inr hl)

end

/-! ## Pops and windows -/

section
variable {s : State} {p : Fin 1152}

theorem exec_pinEventPop_record {r : PinRec} {rs : List PinRec} (hr : regionIs s (pinRegion p.val) .running = true)
    (hclk : fabricClock s = true) (hpops : (pinNow s p.val).pops = []) (hfifo : (pinNow s p.val).fifo = r :: rs)
    (hfrom : r.from_ ≤ s.clk.fc) :
    exec (.pinEventPop p) s = .next (updPin p.val (fun _ =>
      { pinNow s p.val with
        fifo := rs, ovfDue := false, pops := [(s.clk.fc + 5, some { r with ovf := (pinNow s p.val).ovfDue })] }) s) := by
  show execPinEventPop p s = _
  rw [execPinEventPop, if_neg (by simp [hr, hclk, hpops])]
  dsimp only
  rw [hfifo]
  dsimp only
  rw [if_pos hfrom, hpops]
  rfl

theorem exec_pinEventPop_empty (hr : regionIs s (pinRegion p.val) .running = true)
    (hclk : fabricClock s = true) (hpops : (pinNow s p.val).pops = []) (hfifo : (pinNow s p.val).fifo = []) :
    exec (.pinEventPop p) s = .next (updPin p.val (fun _ => { pinNow s p.val with pops := [(s.clk.fc + 5, none)] }) s) := by
  show execPinEventPop p s = _
  rw [execPinEventPop, if_neg (by simp [hr, hclk, hpops])]
  dsimp only
  rw [hfifo]
  dsimp only
  rw [hpops]
  rfl

/-- With no edge in advance of the time line, a window opens with no edge seen (R430). -/
theorem exec_pinWindowOpen_opens {a l : BitVec 20} (hr : regionIs s (pinRegion p.val) .running = true)
    (hclk : fabricClock s = true) (hl : l ≠ 0) (hdom : domOn s (bankDom (pinBank p.val)) = true)
    (hahead : (pinNow s p.val).ahead = []) :
    ∃ t, exec (.pinWindowOpen p a l) s = .next t ∧ (pinOf t p.val).win = some {
        s := 16 * (s.clk.time.toNat + 3) + a.toNat, e := 16 * (s.clk.time.toNat + 3) + a.toNat + l.toNat, count := 0
        firstRise := false, coinS := false, coinE := false, lost := (bankOf s (pinBank p.val)).lost, unsync := false } := by
  show ∃ t, execPinWindowOpen p a l s = .next t ∧ _
  rw [execPinWindowOpen, if_neg (by simpa [hr, hclk, hdom] using hl)]
  dsimp only
  rw [hahead, List.foldl_nil]
  exact ⟨_, rfl, by rw [pinOf_updPin_same]⟩

/-- A pin with no held edge, whose window is over, has its result (R431). -/
theorem pinNow_result {k : Nat} {w : Window} (hheld : (pinOf s k).held = none) (hwin : (pinOf s k).win = some w)
    (hdone : windowDone (pinOf s k) w ≤ s.clk.time.toNat) :
    pinNow s k = { pinOf s k with win := none, winLost := false, result := some (winResult s (pinOf s k) w) } := by
  have hedge : settleEdge s (pinOf s k) = pinOf s k := by rw [settleEdge, hheld]
  rw [pinNow, hedge, settleWin, hwin]
  exact if_pos hdone

end

/-! ## Banks -/

/-- The pin updates that a measured level makes leave every bank as it is. -/
theorem bankOf_measured {c d : Prop} [Decidable c] [Decidable d] (nn k : Nat) (f g : Nat → Pin → Pin) (x : State) :
    bankOf (if c then updBankPins nn f (if d then updBankPins nn g x else x) else (if d then updBankPins nn g x else x)) k =
      bankOf x k := by
  split <;> split <;> simp only [updBankPins_bank]

@[simp] theorem pinOf_updBank (nn k : Nat) (f : Bank → Bank) (x : State) : pinOf (updBank nn f x) k = pinOf x k := rfl

section
variable {s : State} {b : Fin 24} {mv : BitVec 12}

/-- A bank whose level no region has taken as its own takes the measured one (R412). -/
theorem exec_bankLevelMeasure_level (hrel : s.ext.resetReleased = true) (hdom : domOn s (bankDom b.val) = true)
    (horig : (bankOf s b.val).original = none) :
    ∃ t, exec (.bankLevelMeasure b mv) s = .next t ∧ (bankOf t b.val).level = levelOf mv.toNat ∧ (bankOf t b.val).mv = mv ∧
      (bankOf t b.val).lost = (bankOf s b.val).lost := by
  show ∃ t, execBankLevelMeasure b mv s = .next t ∧ _
  rw [execBankLevelMeasure, if_neg (by simp [hrel, hdom])]
  dsimp only
  rw [if_neg (by simp [horig])]
  refine ⟨_, rfl, ?_⟩
  rw [bankOf_measured, bankOf_updBank_same]
  exact ⟨rfl, rfl, rfl⟩

/-- A bank whose level is no longer the original one has lost its power (R414). -/
theorem exec_bankLevelMeasure_loses {l : BitVec 3} (hrel : s.ext.resetReleased = true) (hdom : domOn s (bankDom b.val) = true)
    (horig : (bankOf s b.val).original = some l) (hl : l ≠ levelOf mv.toNat) (hlost : (bankOf s b.val).lost = false) :
    ∃ t, exec (.bankLevelMeasure b mv) s = .next t ∧ (bankOf t b.val).lost = true := by
  show ∃ t, execBankLevelMeasure b mv s = .next t ∧ _
  rw [execBankLevelMeasure, if_neg (by simp [hrel, hdom])]
  dsimp only
  rw [if_pos (by simp [horig, hl, hlost])]
  refine ⟨_, rfl, ?_⟩
  rw [bankOf_congr ((raise_frame ..).same .pins rfl), bankOf_updBank_same]

/-- The return of the original level ends a loss of power, and the pins have the levels on them (R414). -/
theorem exec_bankPowerRecover_ends {v : BitVec 48} (hlost : (bankOf s b.val).lost = true)
    (horig : (bankOf s b.val).original = some (bankOf s b.val).level) (hdom : domOn s (bankDom b.val) = true) :
    ∃ t, exec (.bankPowerRecover b v) s = .next t ∧ (bankOf t b.val).lost = false ∧
      ∀ m, m < 48 → (pinOf t (48 * b.val + m)).level = v.getLsbD m := by
  show ∃ t, execBankPowerRecover b v s = .next t ∧ _
  rw [execBankPowerRecover]
  dsimp only
  rw [if_pos ⟨hlost, horig, hdom⟩]
  refine ⟨_, rfl, by rw [bankOf_updBank_same], fun m hm => ?_⟩
  have hmod : (48 * b.val + m) % 48 = m := by omega
  rw [pinOf_updBank, updBankPins_pin _ _ hm]
  dsimp only
  rw [hmod]

end

/-! ## Unsafe pins, probes and polarity checks -/

/-- The probe under way is no part of a pin. -/
theorem pinOf_probe (j : Option ProbeJob) (x : State) (k : Nat) :
    pinOf { x with pins := { x.pins with probe := j } } k = pinOf x k := rfl

section
variable {s : State} {p : Fin 1152} {l : Bool}

theorem exec_pinShort_safe {d : Bool} (hd : pinDrives s p.val = some d) (hl : d ≠ l) :
    ∃ t, exec (.pinShort p l) s = .next t ∧ (pinOf t p.val).safe = 1 ∧ (pinOf t p.val).shortFlag = true := by
  show ∃ t, execPinShort p l s = .next t ∧ _
  rw [execPinShort, hd]
  dsimp only
  rw [if_neg hl]
  refine ⟨_, rfl, ?_⟩
  rw [pinOf_congr ((raise_frame ..).same .pins rfl), pinOf_updPin_same]
  exact ⟨rfl, rfl⟩

theorem exec_pinOvervoltage_safe (hs : pinSenses s p.val = true) (hsafe : (pinOf s p.val).safe ≠ 2) :
    ∃ t, exec (.pinOvervoltage p l) s = .next t ∧ (pinOf t p.val).safe = 2 ∧ (pinOf t p.val).ovFlag = true := by
  show ∃ t, execPinOvervoltage p l s = .next t ∧ _
  rw [execPinOvervoltage, if_neg (by simpa [hs] using hsafe)]
  refine ⟨_, rfl, ?_⟩
  rw [pinOf_congr ((raise_frame ..).same .pins rfl), pinOf_updPin_same]
  exact ⟨rfl, rfl⟩

theorem exec_pinProbePhase_up {j : ProbeJob} {k : Nat} {ks : List Nat} {x y : Bool} (hj : s.pins.probe = some j)
    (hk : j.pins = k :: ks) (hup : j.up = none) :
    exec (.pinProbePhase x y) s = .next { s with pins := { s.pins with probe := some { j with up := some (x, y) } } } := by
  show execPinProbePhase x y s = _
  rw [execPinProbePhase, hj]
  dsimp only
  rw [hk, hup]

/-- The second phase on the last pin classifies it and ends the probe (R433). -/
theorem exec_pinProbePhase_last {j : ProbeJob} {k : Nat} {u : Bool × Bool} {x y : Bool} (hj : s.pins.probe = some j)
    (hk : j.pins = [k]) (hup : j.up = some u) :
    ∃ t, exec (.pinProbePhase x y) s = .next t ∧ (pinOf t k).probe = probeClass u (x, y) ∧ t.pins.probe = none := by
  show ∃ t, execPinProbePhase x y s = .next t ∧ _
  rw [execPinProbePhase, hj]
  dsimp only
  rw [hk, hup]
  dsimp only
  rw [if_pos List.isEmpty_nil, if_pos List.isEmpty_nil]
  refine ⟨_, rfl, ?_, ?_⟩
  · rw [pinOf_congr ((finish_frame ..).same .pins rfl), pinOf_probe]
    split
    · rw [pinOf_congr ((raise_frame ..).same .pins rfl), pinOf_updPin_same]
    · rw [pinOf_updPin_same]
  · rw [(finish_frame ..).same .pins rfl]

/-- The only waiting polarity check finds the receiver against its idle level and inverts it (R434). -/
theorem exec_pinPolarityCheck_inverts (hpol : s.pins.polarity = [(p.val, none, false)]) (hl : l ≠ (pinOf s p.val).diffIdle) :
    ∃ t, exec (.pinPolarityCheck p true l) s = .next t ∧ (pinOf t p.val).rxInv = true ∧ t.pins.polarity = [] := by
  have htake : takeCheck p.val s.pins.polarity = some ((none, false), []) := by rw [hpol, takeCheck, if_pos rfl]
  show ∃ t, execPinPolarityCheck p true l s = .next t ∧ _
  rw [execPinPolarityCheck, htake]
  dsimp only
  rw [if_pos (by simp [hl])]
  refine ⟨_, rfl, ?_, ?_⟩
  · rw [pinOf_congr ((raise_frame ..).same .pins rfl), pinOf_updPin_same]
  · rw [(raise_frame ..).same .pins rfl]
    rfl

end

/-! ## The obligation -/

/-- Settles O55: the outcome of each row under its hypotheses. -/
theorem pinRows : Obligations.PinRows := by
  unfold Obligations.PinRows
  refine ⟨?recorded, ?lost, fun s p rise tick coin hl => exec_pinEdge_same hl,
    fun s p d oe ofs hr hclk => if_pos ⟨hr, hclk⟩, ?pop, ?popEmpty,
    fun s p a l hr hclk hl hdom hahead => exec_pinWindowOpen_opens hr hclk hl hdom hahead, ?result,
    fun s b mv hrel hdom horig => exec_bankLevelMeasure_level hrel hdom horig,
    fun s b mv l hrel hdom horig hl hlost => exec_bankLevelMeasure_loses hrel hdom horig hl hlost,
    fun s b v hlost horig hdom => exec_bankPowerRecover_ends hlost horig hdom,
    fun s p l d hd hl => exec_pinShort_safe hd hl,
    fun s p l hs hsafe => exec_pinOvervoltage_safe hs hsafe,
    fun s j p ps a b hj hps hup => exec_pinProbePhase_up hj hps hup,
    fun s j p u a b hj hps hup => exec_pinProbePhase_last hj hps hup,
    fun s p l hpol hl => exec_pinPolarityCheck_inverts hpol hl⟩
  case recorded =>
    intro s p rise tick coin q hq hs hl hclk hg hev hlast hroom
    obtain ⟨hfifo, htotal, hlevel⟩ := fresh_room (time := s.clk.time.toNat) (u := s.clk.fc) (rise := rise) (coin := coin)
      (unsync := s.clk.unsync) (tick := 16 * (s.clk.time.toNat : Int) + tick.val - q.deskew.toInt) (y := edgeLevel s rise q) hroom
    refine ⟨_, exec_pinEdge_recorded hq hs hl hclk hg hev hlast, ?_⟩
    rw [pinOf_updPin_same]
    exact ⟨hlevel, htotal, hfifo⟩
  case lost =>
    intro s p rise tick coin q hq hs hl hclk hg hev hlast hfull
    obtain ⟨hfifo, hlost, hovf⟩ := fresh_full (time := s.clk.time.toNat) (u := s.clk.fc) (rise := rise) (coin := coin)
      (unsync := s.clk.unsync) (tick := 16 * (s.clk.time.toNat : Int) + tick.val - q.deskew.toInt) (y := edgeLevel s rise q) hfull
    refine ⟨_, exec_pinEdge_recorded hq hs hl hclk hg hev hlast, ?_⟩
    rw [pinOf_updPin_same]
    exact ⟨hlost, hfifo, hovf⟩
  case pop =>
    intro s p r rs hr hclk hpops hfifo hfrom
    refine ⟨_, exec_pinEventPop_record hr hclk hpops hfifo hfrom, ?_⟩
    rw [pinOf_updPin_same]
    exact ⟨rfl, rfl⟩
  case popEmpty =>
    intro s p hr hclk hpops hfifo
    exact ⟨_, exec_pinEventPop_empty hr hclk hpops hfifo, by rw [pinOf_updPin_same]⟩
  case result =>
    intro s p w hheld hwin hdone
    refine ⟨updPin p.val (fun _ => pinNow s p.val) s, rfl, ?_⟩
    rw [pinOf_updPin_same, pinNow_result hheld hwin hdone]
    exact ⟨rfl, rfl⟩

end Sys2Proof.Machine

/-! The PIN commands on a ready channel (R419, R421, R423, R433 to R437). -/

namespace Sys2Proof.Machine

/-! ## What the reports and the checks read -/

section
variable {x s : State}

theorem cfgLegal_congr (h : x.pins = s.pins) (nn mask cfg : Nat) : cfgLegal x nn mask cfg = cfgLegal s nn mask cfg := by
  unfold cfgLegal
  rw [bankOf_congr h]

theorem probeSkips_taken (r : Req) (cmd : Nat) (args : List Byte) (p : Nat) :
    probeSkips (taken r cmd args s) p = probeSkips s p := by
  unfold probeSkips domOn
  rw [pinState_congr (x := taken r cmd args s) (s := s) rfl rfl rfl rfl rfl rfl rfl,
    bankOf_congr (x := taken r cmd args s) (y := s) rfl, domOf_congr (x := taken r cmd args s) (y := s) rfl]

/-- The status and count words of pins, and their bank's, are those of the state before the command was taken. -/
theorem pinWords_taken (r : Req) (cmd : Nat) (args : List Byte) (ps : List Nat) (nn : Nat) :
    ps.flatMap (fun p => [(64, pinStatusWord (taken r cmd args s) p), (64, pinCountWord (taken r cmd args s) p)]) ++
        [(64, bankWord (taken r cmd args s) nn)] =
      ps.flatMap (fun p => [(64, pinStatusWord s p), (64, pinCountWord s p)]) ++ [(64, bankWord s nn)] := by
  have hstatus (p : Nat) : pinStatusWord (taken r cmd args s) p = pinStatusWord s p :=
    pinStatus_congr (x := taken r cmd args s) (s := s) rfl rfl rfl rfl rfl rfl rfl p
  have hcount (p : Nat) : pinCountWord (taken r cmd args s) p = pinCountWord s p := pinCount_congr (x := taken r cmd args s) (s := s) rfl rfl p
  rw [bankWord_congr (x := taken r cmd args s) (s := s) rfl rfl rfl]
  simp only [hstatus, hcount]

end

/-! ## The bodies -/

section
variable {x : State} {nn : BitVec 5} {mask : BitVec 48} (o : Origin)

theorem bodyPinConfig_sets {cfg : W64} (hn : nn.toNat < 24) (hl : cfgLegal x nn.toNat mask.toNat cfg.toNat = true) :
    bodyPinConfig nn.toNat mask.toNat cfg.toNat o x =
      done (forEach (maskPins nn.toNat mask.toNat) (fun p => updPin p (fun _ => configPin cfg.toNat (pinNow x p))) x) :=
  if_neg (by simp [hn, hl])

theorem bodyPinConfig_refuses {cfg : W64} (hbad : 24 ≤ nn.toNat ∨ cfgLegal x nn.toNat mask.toNat cfg.toNat = false) :
    bodyPinConfig nn.toNat mask.toNat cfg.toNat o x = refuse x .badArg :=
  if_pos hbad

theorem bodyPinStatus_reports (hn : nn.toNat < 24) :
    bodyPinStatus nn.toNat mask.toNat (bit false) o x = done x (packFields ((maskPins nn.toNat mask.toNat).flatMap
      (fun p => [(64, pinStatusWord x p), (64, pinCountWord x p)]) ++ [(64, bankWord x nn.toNat)])) :=
  if_neg (Nat.not_le.2 hn)

theorem bodyPinClear_ends (hn : nn.toNat < 24) :
    bodyPinClear nn.toNat mask.toNat o x =
      done (forEach (maskPins nn.toNat mask.toNat) (fun p => updPin p (fun q => { q with safe := 0 })) x) :=
  if_neg (Nat.not_le.2 hn)

theorem bodyPinBank_reports (hn : nn.toNat < 24) :
    bodyPinBank nn.toNat o x = done x (packFields [(64, bankWord x nn.toNat)]) :=
  if_neg (Nat.not_le.2 hn)

/-- The state in which the probe j of some named pins has begun: the class of none of them is known (R433). -/
def probeBegun (named : List Nat) (j : ProbeJob) (x : State) : State :=
  let s1 := forEach named (fun p => updPin p (fun q => { q with probe := 0 })) x
  { s1 with pins := { s1.pins with probe := some j } }

theorem probeBegun_mbx (named : List Nat) (j : ProbeJob) : (probeBegun named j x).mbx = x.mbx :=
  pins_mbx named (fun _ q => { q with probe := 0 }) x

theorem probeBegun_probe (named : List Nat) (j : ProbeJob) : (probeBegun named j x).pins.probe = some j := rfl

theorem bodyPinProbe_begins {set : BitVec 1152} {us : BitVec 8} {ex : Bool} {named ps : List Nat} (hus : us.toNat ≠ 0)
    (hidle : x.pins.probe = none) (hnamed : (List.range 1152).filter (fun p => Nat.testBit set.toNat p) = named)
    (hps : named.filter (fun p => !probeSkips x p) = ps) (hne : ps ≠ []) :
    bodyPinProbe set.toNat us.toNat (bit ex) o x =
      { state := probeBegun named { org := o, pins := ps, all := ps, us := us, expect := ex, up := none } x
        status := .pending } := by
  have hex : (bit ex == 1) = ex := by cases ex <;> rfl
  rw [bodyPinProbe, if_neg hus, if_neg (by rw [hidle]; decide), hnamed]
  dsimp only
  rw [hps, if_neg (by simpa using hne), hex, BitVec.ofNat_toNat, BitVec.setWidth_eq]
  rfl

/-- The state in which polarity checks of the pins ps have begun for a command (R434). -/
def polarityBegun (o : Origin) (ps : List Nat) (x : State) : State :=
  { x with pins := { x.pins with polarity := x.pins.polarity ++ ps.map (fun p => (p, some o, false)) } }

/-- A polarity check of even pins that are differential and whose polarity is automatic begins and stays open (R434). -/
theorem bodyPinPolarity_begins (hn : nn.toNat < 24)
    (hps : ∀ p ∈ maskPins nn.toNat mask.toNat, p % 2 = 0 ∧ (pinOf x p).mode = 2 ∧ (pinOf x p).polAuto = true)
    (hne : maskPins nn.toNat mask.toNat ≠ []) :
    bodyPinPolarity nn.toNat mask.toNat o x =
      { state := polarityBegun o (maskPins nn.toNat mask.toNat) x, status := .pending } := by
  have hbad : (maskPins nn.toNat mask.toNat).any (fun p => p % 2 == 1 || (pinOf x p).mode != 2) = false := by
    rw [List.any_eq_false]
    intro p hp
    obtain ⟨heven, hmode, -⟩ := hps p hp
    simp [heven, hmode]
  have hall : (maskPins nn.toNat mask.toNat).filter (fun p => (pinOf x p).polAuto) = maskPins nn.toNat mask.toNat :=
    List.filter_eq_self.2 fun p hp => (hps p hp).2.2
  rw [bodyPinPolarity]
  dsimp only
  rw [if_neg (by rw [hbad]; simp [hn]), hall, if_neg (by simpa using hne)]
  rfl

end

/-! ## The obligation -/

/-- Settles O56: each body's answer under the hypotheses, and what such an answer leaves in the pins. -/
theorem pinCommandsReply : Obligations.PinCommandsReply := by
  unfold Obligations.PinCommandsReply
  refine ⟨?config, ?refused, ?status, ?clear, ?probe,
    fun s r nn mask h hn hps hne => serve_begins h (bodyPinPolarity_begins _ hn hps hne), ?bank⟩
  case config =>
    intro s r nn mask cfg h hn hl
    obtain ⟨t, hexec, hans, hframe⟩ := serve_done_kept h (args := packFields [(5, nn.toNat), (48, mask.toNat), (64, cfg.toNat)])
      (bodyPinConfig_sets _ hn ((cfgLegal_congr rfl ..).trans hl)) (congrArg Mbx.chans (pins_mbx ..))
    refine ⟨t, hexec, hans, fun p => ?_⟩
    rw [pinOf_congr (hframe.same .pins rfl), pinOf_forEach (maskPins_nodup ..)]
    exact congrArg (ite _ · _) (congrArg _ (pinNow_congr rfl rfl p))
  case refused =>
    intro s r nn mask cfg h hbad
    exact serve_refuse h (bodyPinConfig_refuses _ (hbad.imp_right (cfgLegal_congr (x := taken r 0x0A01 _ s) (s := s) rfl ..).trans))
  case status =>
    intro s r nn mask h hn
    refine serve_report h ?_
    rw [bodyPinStatus_reports _ hn, pinWords_taken]
  case clear =>
    intro s r nn mask h hn
    obtain ⟨t, hexec, hans, hframe⟩ := serve_done_kept h (args := packFields [(5, nn.toNat), (48, mask.toNat)])
      (bodyPinClear_ends _ hn) (congrArg Mbx.chans (pins_mbx ..))
    refine ⟨t, hexec, hans, fun p => ?_⟩
    rw [pinOf_congr (hframe.same .pins rfl), pinOf_forEach (maskPins_nodup ..) (fun _ q => { q with safe := 0 })]
    rfl
  case probe =>
    intro s r set us ex ps h hus hidle hps hne
    generalize hnamed : (List.range 1152).filter (fun p => Nat.testBit set.toNat p) = named at hps
    obtain ⟨t, hexec, hans, hframe⟩ := serve_open_kept h (args := packFields [(1152, set.toNat), (8, us.toNat), (1, bit ex)])
      (bodyPinProbe_begins _ hus hidle hnamed (by simpa only [probeSkips_taken] using hps) hne)
      (congrArg Mbx.chans (probeBegun_mbx ..))
    exact ⟨t, hexec, hans, by rw [hframe.same .pins rfl, probeBegun_probe]⟩
  case bank =>
    intro s r nn h hn
    refine serve_report h ?_
    rw [bodyPinBank_reports _ hn, bankWord_congr (x := taken r 0x0A06 _ s) (s := s) rfl rfl rfl]

end Sys2Proof.Machine

/-! Resets of parts, and the register images of JTAG and SMBus (R460 to R462, R496, R497, R594). -/

namespace Sys2Proof.Machine

/-! ## The channels of the host -/

/-- A reset of the host's channels leaves every one of them IDLE, and no channel else changed (R460). -/
theorem resetHostChans_chan (s : State) (c : Nat) :
    chanOf (resetHostChans s) c =
      if c < 8 then { chanOf s c with st := .idle, parts := none, rest := none } else chanOf s c := by
  have hchan := chanOf_forEach (List.nodup_range (n := 8)) (fun _ ch => { ch with st := .idle, parts := none, rest := none }) s c
  simp only [List.mem_range] at hchan
  unfold resetHostChans chanOf
  unfold chanOf at hchan
  dsimp only
  rw [hchan]

theorem resetHostChans_ring (s : State) : (resetHostChans s).evt.ringEn = false := rfl

/-- No request of a host channel is left in the order of arrival. -/
theorem resetHostChans_order {s : State} {c : Nat} (h : c ∈ (resetHostChans s).mbx.order) : 8 ≤ c := by
  unfold resetHostChans at h
  obtain ⟨-, hc⟩ := List.mem_filter.1 h
  exact of_decide_eq_true hc

/-! ## PF1 and the base warm reset -/

theorem exec_pf1FunctionReset_drops (s : State) :
    ∃ t, exec .pf1FunctionReset s = .next t ∧ (∀ q ∈ s.noc.out, q.src = 70 → q.tag ∈ t.noc.pf1Drop) ∧
      ∀ d ∈ t.noc.done, d.src ≠ 70 := by
  refine ⟨_, rfl, fun q hq hsrc => ?_, fun d hd => ?_⟩
  · have htag : q.tag ∈ (s.noc.out.filter (fun q => q.src == 70)).map (fun q => q.tag) :=
      List.mem_map.2 ⟨q, List.mem_filter.2 ⟨hq, by simp [hsrc]⟩, rfl⟩
    dsimp only
    by_cases hold : q.tag ∈ s.noc.pf1Drop
    · exact List.mem_append_left _ hold
    · exact List.mem_append_right _ (List.mem_filter.2 ⟨htag, by simp [hold]⟩)
  · obtain ⟨-, hne⟩ := List.mem_filter.1 hd
    simpa using hne

section
variable {s : State}

/-- A warm reset that is due begins (R496). -/
theorem exec_baseWarmReset_begins (hdue : s.pwr.baseDue = true) (hno : s.pwr.baseReset = false) :
    exec .baseWarmReset s = .next (warmReset s) := by
  show execBaseWarmReset s = _
  rw [execBaseWarmReset, if_neg (by simp [hdue]), if_neg (by simp [hno])]

/-- A hot reset of the port begins a warm reset (R594). -/
theorem exec_pcieHotReset_begins (hdom : domOn s 22 = true) (hno : s.pwr.baseReset = false) :
    exec .pcieHotReset s = .next (warmReset s) :=
  if_neg (by simp [hdom, hno])

theorem exec_baseWarmResetDone_clears (h : s.pwr.baseReset = true) :
    ∃ t, exec .baseWarmResetDone s = .next t ∧ t.pwr.baseReset = false := by
  show ∃ t, execBaseWarmResetDone s = .next t ∧ _
  rw [execBaseWarmResetDone, if_neg (by simp [h])]
  refine ⟨_, rfl, ?_⟩
  have hdchans : ∀ (x : State) (c : Nat), Frame [.dram] x
      (if (dchanOf x c).st = .selfRefresh ∧ domOn x (7 + c) = true then
        updDchan c (fun y => { y with st := .inService }) x else x) := by
    intro x c
    split
    · exact updDchan_frame ..
    · exact Frame.refl _ _
  rw [(Frame.forEach (fun x k => settle_frame k x) _ (Frame.refl _ _)).same .pwr rfl,
    (Frame.forEach hdchans _ (Frame.refl _ _)).same .pwr rfl]
  rfl

theorem bodyPwrBaseReset_does (o : Origin) (hno : s.pwr.baseReset = false) :
    bodyPwrBaseReset o s = done (updPwr (fun p => { p with baseDue := true }) s) :=
  if_neg (by simp [inBaseReset, hno])

end

/-- Settles O19: what a reset of the host's channels leaves, and the begin and the end of a warm reset. -/
theorem partResets : Obligations.PartResets := by
  unfold Obligations.PartResets
  refine ⟨?pf0, exec_pf1FunctionReset_drops, fun s r h hno => serve_does h (bodyPwrBaseReset_does _ hno), ?warm, ?hot,
    fun s h => exec_baseWarmResetDone_clears h⟩
  case pf0 =>
    intro s
    refine ⟨resetHostChans s, rfl, fun c hc => ?_, fun c hc => ?_, resetHostChans_ring s, fun c hc => resetHostChans_order hc⟩
    · rw [resetHostChans_chan, if_pos hc]
    · rw [resetHostChans_chan, if_neg (Nat.not_lt.2 hc)]
  case warm =>
    intro s hdue hno
    obtain ⟨hreset, hdue', hchans⟩ := warm_facts s
    exact ⟨_, exec_baseWarmReset_begins hdue hno, hreset, hdue', hchans⟩
  case hot =>
    intro s hdom hno
    obtain ⟨hreset, -, hchans⟩ := warm_facts s
    exact ⟨_, exec_pcieHotReset_begins hdom hno, hreset, hchans⟩

/-! ## Register images -/

section
variable {s : State}

theorem exec_jtagMbxAccess_read {dr : W64} (h : dr.getLsbD 63 = false) :
    exec (.jtagMbxAccess dr) s =
      .next { s with mbx := { s.mbx with jtagMbx := BitVec.ofNat 32 (imageReg s 12 (dr.extractLsb' 32 16).toNat) } } :=
  if_neg (by rw [h]; decide)

/-- A write of offset 0x00C writes the interrupt mask of channel 12 (R461, Table MBX-9). -/
theorem exec_jtagMbxAccess_mask {dr : W64} (hlive : regsLive s = true) (h : dr.getLsbD 63 = true)
    (hoff : (dr.extractLsb' 32 16).toNat = 0x00C) :
    exec (.jtagMbxAccess dr) s = .next (updChan 12 (fun ch => { ch with irqMask := dr.getLsbD 0 }) s) := by
  show execJtagMbxAccess dr s = _
  rw [execJtagMbxAccess]
  dsimp only
  rw [if_pos h, if_pos hlive, hoff, image_mask, testBit0_extract]

theorem exec_smbusPointerWrite_sets (v : BitVec 16) (hlive : regsLive s = true) :
    exec (.smbusPointerWrite v true) s = .next { s with mbx := { s.mbx with smbPtr := v } } :=
  congrArg Host.Outcome.next (if_pos ⟨hlive, rfl⟩)

theorem exec_smbusBlockRead_returns (hlive : regsLive s = true) :
    exec .smbusBlockRead s = .next { s with mbx := { s.mbx with
      smbOut := (List.range 32).map (fun i => imageByte s ((s.mbx.smbPtr.toNat + i) % 65536))
      smbPtr := s.mbx.smbPtr + 32 } } :=
  congrArg Host.Outcome.next (if_pos hlive)

theorem exec_smbusArp_assigns (a : BitVec 7) (hlive : regsLive s = true) :
    exec (.smbusArp (some a)) s = .next { s with mbx := { s.mbx with smbAddr := a } } :=
  if_neg (by simp [hlive])

/-- A word of the request buffer of a channel that is not BUSY is written (R457). -/
theorem imageWrite_reqBuf {c : Nat} (k : Fin 64) (v : Nat) (hidle : (chanOf s c).st ≠ .busy) :
    imageWrite c (0x100 + 4 * k.val) v s =
      updChan c (fun ch => { ch with reqBuf := putBytes ch.reqBuf (4 * k.val) (bytesLE 4 v) }) s := by
  have hk := k.isLt
  rw [imageWrite, if_pos (by omega), chanWrite]
  dsimp only
  rw [if_neg (by omega), if_neg (by omega), if_neg (by omega), if_neg (by omega), if_neg (by omega), if_pos (by omega),
    if_neg hidle, Nat.add_sub_cancel_left]

/-- Four bytes at a register's address, and no others, are one write of it (R462). -/
theorem smbusWord_whole {off : Nat} (a b c d : Byte) (hoff : 0x10 ≤ off) :
    smbusWord [(off, a), (off + 1, b), (off + 2, c), (off + 3, d)] off s = imageWrite 13 off (natLE [a, b, c, d]) s := by
  rw [smbusWord]
  dsimp only
  rw [if_neg (by omega)]
  simp

/-- The SMBus pointer is no part of a channel. -/
theorem chanOf_updMbx_smbPtr (g : BitVec 16 → BitVec 16) (c : Nat) (x : State) :
    chanOf (updMbx (fun m => { m with smbPtr := g m.smbPtr }) x) c = chanOf x c := rfl

theorem exec_smbusBlockWrite_word (k : Fin 64) (a b c d : Byte) (hlive : regsLive s = true)
    (hptr : s.mbx.smbPtr = BitVec.ofNat 16 (0x100 + 4 * k.val)) (hidle : (chanOf s 13).st ≠ .busy) :
    exec (.smbusBlockWrite [a, b, c, d] true) s = .next (updMbx (fun m => { m with smbPtr := m.smbPtr + 4 })
      (updChan 13 (fun ch => { ch with reqBuf := putBytes ch.reqBuf (4 * k.val) [a, b, c, d] }) s)) := by
  have hk := k.isLt
  have hp : s.mbx.smbPtr.toNat = 0x100 + 4 * k.val := by
    rw [hptr, BitVec.toNat_ofNat, Nat.mod_eq_of_lt (by omega)]
  have haddr : ([a, b, c, d].zipIdx.map (fun x => ((0x100 + 4 * k.val + x.2) % 65536, x.1)) : List (Nat × Byte)) =
      [(0x100 + 4 * k.val, a), (0x100 + 4 * k.val + 1, b), (0x100 + 4 * k.val + 2, c), (0x100 + 4 * k.val + 3, d)] := by
    simp only [List.zipIdx_cons, List.zipIdx_nil, List.map_cons, List.map_nil]
    rw [Nat.mod_eq_of_lt (by omega), Nat.mod_eq_of_lt (by omega), Nat.mod_eq_of_lt (by omega), Nat.mod_eq_of_lt (by omega)]
    rfl
  have hwords : ([(0x100 + 4 * k.val, a), (0x100 + 4 * k.val + 1, b), (0x100 + 4 * k.val + 2, c),
      (0x100 + 4 * k.val + 3, d)].map (fun x : Nat × Byte => x.1 / 4 * 4)).eraseDups = [0x100 + 4 * k.val] := by
    have hround (j : Nat) (hj : j < 4) : (0x100 + 4 * k.val + j) / 4 * 4 = 0x100 + 4 * k.val := by omega
    simp only [List.map_cons, List.map_nil, hround 1 (by decide), hround 2 (by decide),
      hround 3 (by decide), show (0x100 + 4 * k.val) / 4 * 4 = 0x100 + 4 * k.val from hround 0 (by decide)]
    simp [List.eraseDups_cons]
  show execSmbusBlockWrite [a, b, c, d] true s = _
  rw [execSmbusBlockWrite, if_neg (by simp [hlive])]
  dsimp only
  rw [hp, haddr, hwords, forEach_cons, forEach_nil, smbusWord_whole _ _ _ _ (by omega), imageWrite_reqBuf k _ hidle]
  rw [show bytesLE 4 (natLE [a, b, c, d]) = [a, b, c, d] from bytesLE_natLE [a, b, c, d]]
  rfl

end

/-- Settles O21: each access to a register image. The clause of a JTAG write is the one of offset 0x00C, which is
MBX_IRQ_MASK (Table MBX-9). -/
theorem imageRows : Obligations.ImageRows := by
  unfold Obligations.ImageRows
  intro s hlive
  refine ⟨fun dr h => exec_jtagMbxAccess_read h, fun dr h hoff => exec_jtagMbxAccess_mask hlive h hoff,
    fun v => exec_smbusPointerWrite_sets v hlive, ?write, exec_smbusBlockRead_returns hlive,
    fun a => exec_smbusArp_assigns a hlive⟩
  case write =>
    intro k a b c d hptr hidle
    have hk := k.isLt
    refine ⟨_, exec_smbusBlockWrite_word k a b c d hlive hptr hidle, ?_, ?_⟩
    · rw [chanOf_updMbx_smbPtr (· + 4), chanOf_updChan_same]
    · show s.mbx.smbPtr + BitVec.ofNat 16 4 = _
      rw [hptr, ← BitVec.ofNat_add, Nat.add_right_comm]

end Sys2Proof.Machine

/-! BARISTA_EXECUTE on the first request of a register channel (R449, R452, R454). -/

namespace Sys2Proof.Machine

/-- An answer on a register channel that is BUSY stands as a response. -/
theorem answer_response {q : Request} {st : Status} {data : List Byte} {s : State} (hreg : isRegChan q.channel = true)
    (hbusy : (chanOf s q.channel).st = .busy) : (chanOf (answer q st data s) q.channel).st = .response := by
  have hdeliver (p : Rsp) : (chanOf (deliver q.channel q.via false p s) q.channel).st = .response := by
    unfold deliver deliverRaw
    rw [if_pos hreg, if_pos hbusy, chanOf_congr (congrArg Mbx.chans (raiseRsp_chans ..)), chanOf_updChan_same]
    rfl
  rw [answer, chanOf_congr (confirmTrial_chans _)]
  unfold answerWith
  dsimp only
  split
  · rw [chanOf_updChan_same]
    exact hdeliver _
  · exact hdeliver _

/-- An answer on a register channel leaves the order of arrival as it is. -/
theorem answer_order {q : Request} {st : Status} {data : List Byte} {s : State} (hreg : isRegChan q.channel = true) :
    (answer q st data s).mbx.order = s.mbx.order := by
  obtain ⟨X, f, b, i, m, v, hform, -⟩ := answer_form q st data s hreg
  rw [hform]
  rfl

/-- The command of a request of one part. -/
def onePart (q : Request) : PartReq := { cmd := q.cmd, seq := q.seq, target := q.target, count := 1, args := q.args }

section
variable {q : Request} {s : State}

/-- A request of one part with FLAGS and TARGET 0 is a whole command for the die. -/
theorem performReq_local (hparts : (chanOf s q.channel).parts = none) (hflags : q.flags = 0) (htarget : q.target = 0)
    (hlen : q.len ≤ 256) :
    performReq q true s = performLocal q (onePart q) (updChan q.channel Chan.noParts s) := by
  have hlegal : ¬(true = false ∨ 4 ≤ q.flags.toNat ∨ (q.target ≠ 0 ∧ 14 ≤ q.channel)) := by simp [hflags, htarget]
  have hmore : ¬(q.flags.getLsbD 1 = true) := by simp [hflags]
  rw [performReq, if_neg hlegal, hparts, joinParts]
  dsimp only
  rw [if_neg (not_not_intro htarget), if_neg (Nat.not_lt.2 hlen), if_neg hmore, onePart]

theorem performLocal_undefined (hflags : q.flags = 0) (hargs : q.args.length ≤ 4096) (hnone : cmdOf q.cmd.toNat = none) :
    performLocal q (onePart q) s = answer q .badCmd [] s := by
  rw [performLocal, onePart, if_neg (by simpa using hargs), if_neg (by simp [hflags]), hnone]

theorem performLocal_defined {k : Cmd} (hflags : q.flags = 0) (hargs : q.args.length ≤ 4096)
    (hk : cmdOf q.cmd.toNat = some k) : performLocal q (onePart q) s = perform q (bodyOf k q.args) s := by
  rw [performLocal, onePart, if_neg (by simpa using hargs), if_neg (by simp [hflags]), hk]

end

section
variable {s : State} {c : Nat} {rest : List Nat}

/-- The state in which the request at the head of the order has been taken from channel c. -/
def headTaken (c : Nat) (s : State) : State := updChan c Chan.noParts (dropOrder c s)

theorem headTaken_order (horder : s.mbx.order = c :: rest) : (headTaken c s).mbx.order = rest := by
  show s.mbx.order.erase c = rest
  rw [horder, List.erase_cons_head]

theorem noParts_self {ch : Chan} (hparts : ch.parts = none) (hrest : ch.rest = none) : Chan.noParts ch = ch := by
  cases ch
  cases hparts
  cases hrest
  rfl

/-- A channel that holds no part of a request and no rest of an answer is as it was. -/
theorem headTaken_chan (hparts : (chanOf s c).parts = none) (hrest : (chanOf s c).rest = none) (d : Nat) :
    chanOf (headTaken c s) d = chanOf s d := by
  by_cases hd : d = c
  · subst hd
    exact (chanOf_updChan_same ..).trans (noParts_self hparts hrest)
  · exact chanOf_updChan_ne _ _ hd

theorem regRequest_args (hlen : (regRequest s c).len ≤ 256) : (regRequest s c).args.length ≤ 4096 := by
  have htab : (regRequest s c).args.length = min (regRequest s c).len 256 := by simp [regRequest, parseReq, tabBytes]
  omega

theorem exec_baristaExecute_head (hserve : s.mbx.barista = .serving) (horder : s.mbx.order = c :: rest)
    (hreg : isRegChan c = true) (hcan : canExecute s c = true) :
    exec .baristaExecute s = .next (performReq (regRequest s c) true (dropOrder c s)) := by
  show execBaristaExecute s = _
  rw [execBaristaExecute, if_pos (Or.inl hserve), horder, List.find?_cons_of_pos hcan]
  dsimp only
  rw [takeReq, if_pos hreg]

end

/-- Settles O23: the request at the head of the order is a whole command, and its code says whether a body performs it. -/
theorem baristaExecuteRow : Obligations.BaristaExecuteRow := by
  unfold Obligations.BaristaExecuteRow
  intro s c rest hserve horder hreg hcan hbusy hparts hrest hflags htarget hlen
  have hchan := headTaken_chan hparts hrest
  have hargs := regRequest_args hlen
  have hexec : exec .baristaExecute s = .next (performLocal (regRequest s c) (onePart (regRequest s c)) (headTaken c s)) :=
    (exec_baristaExecute_head hserve horder hreg hcan).trans (congrArg Host.Outcome.next
      (performReq_local (q := regRequest s c) hparts hflags htarget hlen))
  constructor
  · intro hnone
    rw [performLocal_undefined hflags hargs hnone] at hexec
    refine ⟨_, hexec, ?_, ?_⟩
    · rw [answer_order (q := regRequest s c) hreg, headTaken_order horder]
    · exact answer_response (q := regRequest s c) hreg ((congrArg Chan.st (hchan c)).trans hbusy)
  · intro k hk
    rw [performLocal_defined hflags hargs hk] at hexec
    exact ⟨headTaken c s, hexec, headTaken_order horder, hchan, rfl⟩

end Sys2Proof.Machine

/-! The SYS and LOG commands that report or set (R451, R468, R470, R477 to R479, R602). -/

namespace Sys2Proof.Machine

/-! ## The SYS bodies -/

section
variable {x : State} {r : Req} {cmd : Nat}

/-- SYS.HELLO keeps the revision used in the channel of the command (R470). -/
theorem bodySysHello_uses {rev : BitVec 8} (hrev : rev ≠ 0) :
    bodySysHello rev.toNat (originOf r cmd) x =
      done (updChan r.channel.val (fun ch => { ch with ifRev := BitVec.ofNat 8 (min rev.toNat (revMax x)) }) x)
        (packFields [(8, min rev.toNat (revMax x)), (8, revMax x), (8, if Config.grade2C then 2 else 1), (8, r.channel.val),
          (32, fwVersion x), (64, Config.serial.toNat), (8, bit x.lnk.member)]) := by
  have hne : rev.toNat ≠ 0 := fun h => hrev (BitVec.eq_of_toNat_eq h)
  have hchan : (originOf r cmd).channel.toNat = r.channel.val := chan_lt r
  rw [bodySysHello, if_neg hne, hchan]

theorem bodySysVersion_reports (o : Origin) :
    bodySysVersion o x = done x (packFields [(32, fwVersion x),
      (16, match x.mbx.fw with | some f => f.svn.toNat | none => 0),
      (8, match x.mbx.fw with | some f => bit (f.slot.getD false) | none => 0), (32, Config.romVersion.toNat),
      (8, revMax x)]) := by
  unfold bodySysVersion
  cases x.mbx.fw <;> rfl

theorem bodySysFwStatus_empty (o : Origin) (ha : x.mbx.slotA = none) (hb : x.mbx.slotB = none) :
    bodySysFwStatus o x = done x (packFields [(8, 0), (32, 0), (16, 0), (8, 0), (32, 0), (16, 0),
      (8, match x.mbx.selected with | some b => bit b | none => 0xFF), (8, bit x.mbx.selTrial),
      (8, bit x.mbx.fallback)]) := by
  have hslotA : slotImg x false = none := ha
  have hslotB : slotImg x true = none := hb
  rw [bodySysFwStatus]
  dsimp only
  rw [hslotA, hslotB]
  rfl

theorem bodySysChannelPolicy_sets {c : BitVec 4} {mask : BitVec 32} (hreg : isRegChan r.channel.val = true)
    (hc : r.channel.val ≠ c.toNat) :
    bodySysChannelPolicy c.toNat mask.toNat (originOf r cmd) x =
      done (updMbx (fun m => { m with groupMask := Tab.set 0x0003FFFE#32 m.groupMask c.toNat mask }) x) := by
  have hchan : (originOf r cmd).channel.toNat = r.channel.val := chan_lt r
  rw [bodySysChannelPolicy, hchan, if_neg (by simp [hreg, hc]), BitVec.ofNat_toNat, BitVec.setWidth_eq]

theorem bodySysChannelPolicy_denies {c : BitVec 4} {mask : BitVec 32} (hc : r.channel.val = c.toNat) :
    bodySysChannelPolicy c.toNat mask.toNat (originOf r cmd) x = refuse x .denied :=
  if_pos (Or.inr ((chan_lt r).trans hc))

theorem bodySysFwdTimeout_sets {ms : BitVec 14} (o : Origin) (hlo : 1 ≤ ms.toNat) (hhi : ms.toNat ≤ 10000) :
    bodySysFwdTimeout ms.toNat o x = done (updMbx (fun m => { m with fwdMs := ms }) x) := by
  rw [bodySysFwdTimeout, if_neg (by omega), BitVec.ofNat_toNat, BitVec.setWidth_eq]

end

/-- Settles O24: each body's answer, and the reply that such an answer gives on a ready channel. -/
theorem sysCommandsReply : Obligations.SysCommandsReply := by
  unfold Obligations.SysCommandsReply
  exact ⟨⟨fun s r rev h hrev => serve_own _ h (bodySysHello_uses hrev) (fun _ => rfl),
      fun s r h => serve_report h (bodySysVersion_reports _),
      fun s r h ha hb => serve_report h (bodySysFwStatus_empty _ ha hb)⟩,
    fun s r c mask h hc => serve_does h (bodySysChannelPolicy_sets (ready_facts h).1 hc),
    fun s r mask c h hc => serve_refuse h (bodySysChannelPolicy_denies hc),
    fun s r ms h hlo hhi => serve_does h (bodySysFwdTimeout_sets _ hlo hhi)⟩

/-! ## The LOG bodies -/

section
variable {x : State} (o : Origin)

/-- A first record later than the last one leaves nothing to return (R602). -/
theorem bodyLogEvents_none {n : BitVec 32} {count : BitVec 8} (hlo : 1 ≤ count.toNat) (hhi : count.toNat ≤ 63) (hn : n ≠ 0)
    (hlate : later n x.evt.post = true) :
    bodyLogEvents n.toNat count.toNat o x = done x (packRecord [(32, n.toNat), (8, 0), (8, 0)] []) := by
  have hne : n.toNat ≠ 0 := fun h => hn (BitVec.eq_of_toNat_eq h)
  rw [bodyLogEvents, if_neg (by omega), if_neg hne, BitVec.ofNat_toNat, BitVec.setWidth_eq]
  exact if_pos hlate

/-- The records from n on, where the oldest one held is not later than n: no gap (R602). -/
theorem bodyLogEvents_from {n : BitVec 32} {count : BitVec 8} {e : BitVec 32 × EvRec} {l : List (BitVec 32 × EvRec)}
    (hlo : 1 ≤ count.toNat) (hhi : count.toNat ≤ 63) (hn : n ≠ 0) (hlate : later n x.evt.post = false)
    (hlog : x.evt.log = e :: l) (hold : later e.1 n = false) :
    bodyLogEvents n.toNat count.toNat o x = done x
      (packRecord [(32, n.toNat), (8, ((x.evt.log.filter (fun y => !later n y.1)).take count.toNat).length), (8, 0)]
        (((x.evt.log.filter (fun y => !later n y.1)).take count.toNat).flatMap (fun y => evBytes y.2))) := by
  have hne : n.toNat ≠ 0 := fun h => hn (BitVec.eq_of_toNat_eq h)
  rw [bodyLogEvents, if_neg (by omega), if_neg hne, BitVec.ofNat_toNat, BitVec.setWidth_eq]
  dsimp only
  rw [hlate, if_neg (by decide), hlog]
  dsimp only
  rw [hold]
  rfl

theorem bodyLogAlertAck_sets {n : BitVec 32} :
    bodyLogAlertAck n.toNat o x = done (updEvt (fun e => updAlert { e with alertAck := n }) x) := by
  rw [bodyLogAlertAck, BitVec.ofNat_toNat, BitVec.setWidth_eq]

theorem bodyLogAlertLevel_sets {n : BitVec 3} (hn : n.toNat ≤ 4) :
    bodyLogAlertLevel n.toNat o x = done (updEvt (fun e => updAlert { e with alertLevel := n }) x) := by
  rw [bodyLogAlertLevel, if_neg (Nat.not_lt.2 hn), BitVec.ofNat_toNat, BitVec.setWidth_eq]

theorem lnk_taken (r : Req) (cmd : Nat) (args : List Byte) (s : State) : (taken r cmd args s).lnk = s.lnk := rfl

theorem routeExtOf_congr {y z : State} (h : y.lnk = z.lnk) (n k : Nat) : routeExtOf y n k = routeExtOf z n k := by
  induction n generalizing k with
  | zero => rfl
  | succ n ih => simp only [routeExtOf, h, ih]

theorem routeOf_congr {y z : State} (h : y.lnk = z.lnk) (k : Nat) : routeOf y k = routeOf z k := by
  rw [routeOf, routeOf, routeExtOf_congr h]

/-- A route that is set stays so once a command is taken. -/
theorem routeOf_taken_ne (r : Req) (cmd : Nat) (args : List Byte) {s : State} {k : Nat} (h : routeOf s k ≠ none) :
    routeOf (taken r cmd args s) k ≠ none := by
  rwa [routeOf_congr (lnk_taken r cmd args s)]

theorem bodyLogEventRoute_sets {h : BitVec 12} {n : BitVec 3} (hn : n.toNat ≤ 4) (hr : h = 0 ∨ routeOf x h.toNat ≠ none) :
    bodyLogEventRoute h.toNat n.toNat o x = done (updMbx (fun m => { m with routeHandle := h, routeMin := n }) x) := by
  have hlegal : ¬(4 < n.toNat ∨ (h.toNat ≠ 0 ∧ routeOf x h.toNat = none)) := by
    rintro (hbad | ⟨hne, hnone⟩)
    · exact absurd hn (Nat.not_le.2 hbad)
    · exact hr.elim (fun h0 => hne (congrArg BitVec.toNat h0)) (fun hsome => hsome hnone)
  rw [bodyLogEventRoute, if_neg hlegal, BitVec.ofNat_toNat, BitVec.setWidth_eq, BitVec.ofNat_toNat, BitVec.setWidth_eq]

/-- The state with the counters of LOG.COUNTERS at 0 where it clears them. -/
def countersRead (clear : Bool) (x : State) : State :=
  if clear then updMbx (fun m => { m with bondPadFails := 0, logRestarts := 0, hwLostTotal := 0, fwdTimeouts := 0 }) x else x

theorem bodyLogCounters_reads (clear : Bool) :
    bodyLogCounters clear o x = done (countersRead clear x) (packFields [(32, x.mbx.bondPadFails.toNat),
      (16, x.mbx.logRestarts.toNat), (32, x.mbx.hwLostTotal.toNat), (32, x.mbx.fwdTimeouts.toNat)]) := rfl

theorem countersRead_apart (clear : Bool) : ChansApart (countersRead clear) := by
  intro X y
  cases clear <;> rfl

end

/-- Settles O26: each body's answer, and the reply that such an answer gives on a ready channel. Which number is later than
another is the model's choice (log 20). -/
theorem logCommandsReply : Obligations.LogCommandsReply := by
  unfold Obligations.LogCommandsReply
  exact ⟨fun s r n count h hlo hhi hn hlate => serve_report h (bodyLogEvents_none _ hlo hhi hn hlate),
    fun s r n count e l h hlo hhi hn hlate hlog hold => serve_report h (bodyLogEvents_from _ hlo hhi hn hlate hlog hold),
    fun s r n h => serve_does h (bodyLogAlertAck_sets _),
    fun s r n h hn => serve_does h (bodyLogAlertLevel_sets _ hn),
    fun s r hd n h hn hr => serve_does h (bodyLogEventRoute_sets _ hn (hr.imp_right (routeOf_taken_ne _ _ _))),
    fun s r clear h => serve_does (g := countersRead clear) h (bodyLogCounters_reads _ clear) (countersRead_apart clear)⟩

end Sys2Proof.Machine

/-! Firmware images and restarts of Barista (R441, R443 to R446, R479). -/

namespace Sys2Proof.Machine

/-! ## Loads and updates -/

section
variable {s : State} {r : Req} {a n : Nat} {f : FwImage}

/-- What follows the answer to SYS.FW_LOAD. -/
def fwLoaded (a n : Nat) (o : Origin) (t : State) : State :=
  match readImage t a n with
  | .ok f => finish o .sysDone noUnit .ok (stepSeven (drainServing (runImage f none false t)))
  | .error st => finish o .sysDone noUnit st t

theorem bodySysFwLoad_opens {o : Origin} (hrom : s.mbx.barista = .rom) :
    bodySysFwLoad a n o s = { state := s, status := .pending, after := fwLoaded a n o } :=
  if_neg (not_not_intro hrom)

/-- An image that is read runs, and its channels are as they were (R443). -/
theorem fwLoaded_runs {o : Origin} {t : State} (hobs : t.start.obs = none) (himg : readImage t a n = .ok f) :
    (fwLoaded a n o t).mbx.barista = .serving ∧ (fwLoaded a n o t).mbx.chans = t.mbx.chans := by
  have hstart : (drainServing (runImage f none false t)).start = t.start :=
    ((drainServing_frame _).same .start rfl).trans ((runImage_frame ..).same .start rfl)
  have hseven : stepSeven (drainServing (runImage f none false t)) = drainServing (runImage f none false t) := by
    rw [stepSeven, hstart, hobs]
  rw [fwLoaded, himg]
  dsimp only
  rw [hseven]
  constructor
  · exact ((finish_frame ..).same .barista rfl).trans (((drainServing_frame _).same .barista rfl).trans (runImage_bar ..))
  · exact ((finish_frame ..).same .chans rfl).trans (((drainServing_frame _).same .chans rfl).trans
      ((runImage_frame ..).same .chans rfl))

/-- With no firmware running, an answer leaves what an image is read from. -/
theorem readImage_answered {q : Request} {st : Status} (Y : Tab Chan) (l : List Pend) (hreg : isRegChan q.channel = true)
    (hfw : s.mbx.fw = none) :
    readImage (answer q st [] (withChans Y { s with mbx := { s.mbx with pend := l } })) a n = readImage s a n := by
  obtain ⟨X, i, m, hform⟩ := answer_nofw q st (withChans Y { s with mbx := { s.mbx with pend := l } }) hreg hfw
  rw [hform]
  exact readImage_answer ..

/-- In ROM mode an image that is read loads after the answer, which stands (R443). -/
theorem serve_fwLoad {args : List Byte} (h : ready s r 0x0103 = true) (hrom : s.mbx.barista = .rom) (hfw : s.mbx.fw = none)
    (hobs : s.start.obs = none) (himg : readImage s a n = .ok f) :
    (serve r 0x0103 args (bodySysFwLoad a n) s).mbx.barista = .serving ∧
      answered (serve r 0x0103 args (bodySysFwLoad a n) s) r 0x0103 .pending [] := by
  have hreg := (ready_facts h).1
  have hbody := bodySysFwLoad_opens (s := taken r 0x0103 args s) (a := a) (n := n) (o := originOf r 0x0103) hrom
  have hserve := serve_pending h (by decide) args (bodySysFwLoad a n) (by rw [hbody]) (by rw [hbody])
  rw [hbody] at hserve
  have hans := answer_answered (t := withPend r 0x0103 1 (taken r 0x0103 args s)) r 0x0103 args s .pending [] hreg
    (taken_busy' r 0x0103 args s _ rfl)
  have hread := (readImage_answered (q := takenReq r 0x0103 args s) (st := .pending) (a := a) (n := n)
    (taken r 0x0103 args s).mbx.chans (withPend r 0x0103 1 s).mbx.pend hreg hfw).trans himg
  have hstart := (answer_reg_frame (takenReq r 0x0103 args s) .pending []
    (withPend r 0x0103 1 (taken r 0x0103 args s)) hreg).same .start rfl
  obtain ⟨hbar, hchans⟩ := fwLoaded_runs (o := originOf r 0x0103) ((congrArg Start.obs hstart).trans hobs) hread
  rw [hserve]
  exact ⟨hbar, answered_same hans hchans⟩

theorem readImage_withChans (X : Tab Chan) : readImage (withChans X s) a n = readImage s a n := rfl

theorem bodySysFwUpdate_begins {o : Origin} (hserving : s.mbx.barista = .serving) (hidle : s.mbx.fwUpdate = none)
    (himg : readImage s a n = .ok f) :
    bodySysFwUpdate a n o s = { state := updMbx (fun m => { m with fwUpdate := some (o, f) }) s, status := .pending } := by
  rw [bodySysFwUpdate, if_neg (by simp [hserving, hidle]), himg]

/-- Slot b after a write of it. -/
theorem slotImg_putSlot (b c : Bool) (g : Option FwImage) (x : State) :
    slotImg (putSlot b g x) c = if c = b then g else slotImg x c := by
  cases b <;> cases c <;> rfl

theorem slotImg_kept {x y : State} (h : MbxKept x y) (b : Bool) : slotImg y b = slotImg x b := by
  unfold slotImg
  rw [h]

/-- The end of the flash write fills the slot not in use, or leaves it empty (R444). -/
theorem exec_fwUpdateDone_writes {org : Origin} {ok : Bool} (hup : s.mbx.fwUpdate = some (org, f)) :
    ∃ t, exec (.fwUpdateDone ok) s = .next t ∧ t.mbx.fwUpdate = none ∧
      slotImg t (spareSlot s) = (if ok then some f else none) ∧ slotImg t (!spareSlot s) = slotImg s (!spareSlot s) := by
  have hkept := finish_mbx org .sysDone noUnit (if ok then .ok else .internal)
    (putSlot (spareSlot s) (if ok then some f else none) (updMbx (fun m => { m with fwUpdate := none }) s))
  have hdone : (putSlot (spareSlot s) (if ok then some f else none)
      (updMbx (fun m => { m with fwUpdate := none }) s)).mbx.fwUpdate = none := by cases spareSlot s <;> rfl
  show ∃ t, execFwUpdateDone ok s = .next t ∧ _
  rw [execFwUpdateDone, hup]
  refine ⟨_, rfl, by rw [hkept]; exact hdone, ?_, ?_⟩
  · rw [slotImg_kept hkept, slotImg_putSlot, if_pos rfl]
  · rw [slotImg_kept hkept, slotImg_putSlot, if_neg (by simp)]
    rfl

theorem bodySysFwActivate_selects {o : Origin} {b : Bool} (hvalid : slotValid s b = true) (hcool : tooHot s = false) :
    bodySysFwActivate b o s = done (updMbx (fun m => { m with selected := some b, selTrial := true }) s) := by
  rw [bodySysFwActivate, if_neg (by simp [hvalid]), if_neg (by simp [hcool])]

end

/-! ## Restarts -/

section
variable {s : State} {f : FwRun}

/-- A restart that a command begins follows its answer (R445). -/
theorem serve_restart {r : Req} (h : ready s r 0x0107 = true) :
    (serve r 0x0107 [] bodySysRestart s).mbx.barista = .restarting := by
  have hbody : bodySysRestart (originOf r 0x0107) (taken r 0x0107 [] s) =
      { state := taken r 0x0107 [] s, status := .ok, after := beginRestart true } := rfl
  have hok : Status.ok ≠ .pending := by decide
  have hserve := serve_done h (by decide) [] bodySysRestart (by rw [hbody]; exact hok) (by rw [hbody])
  rw [hbody] at hserve
  rw [hserve]
  dsimp only
  rw [beginRestart_bar]

theorem exec_lockstepMismatch_restarts (h : s.mbx.barista = .serving ∨ s.mbx.barista = .rom) :
    ∃ t, exec .lockstepMismatch s = .next t ∧ t.mbx.barista = .restarting :=
  ⟨_, if_pos h, beginRestart_bar ..⟩

/-- The end of a restart: Barista is as the firmware started leaves it. -/
theorem exec_lockstepRestartDone_barista {code third : Bool} {a b : Option FwImage} (h : s.mbx.barista = .restarting) :
    ∃ t, exec (.lockstepRestartDone code third a b) s = .next t ∧
      t.mbx.barista = (restartFirmware code third a b s).1.mbx.barista := by
  show ∃ t, execLockstepRestartDone code third a b s = .next t ∧ _
  rw [execLockstepRestartDone, if_neg (not_not_intro h)]
  exact ⟨_, rfl, ((drainServing_frame _).same .barista rfl).trans ((raise_frame ..).same .barista rfl)⟩

/-- Code in working memory whose digest holds is run again (R446). -/
theorem restartFirmware_same {a b : Option FwImage} (hf : s.mbx.fw = some f) (htrial : f.trial = false)
    (hreload : s.mbx.reload = false) : (restartFirmware true false a b s).1 = setBarista .serving s := by
  rw [restartFirmware, hf]
  dsimp only
  rw [if_neg (by decide), if_neg (by simp [htrial]), if_pos ⟨rfl, hreload⟩]

/-- The state with both firmware slots empty. -/
def slotsEmpty (s : State) : State := updMbx (fun m => { m with slotA := none, slotB := none }) s

theorem slotValid_slotsEmpty (b : Bool) : slotValid (slotsEmpty s) b = false :=
  slotValid_false_of_empty (by cases b <;> rfl)

/-- With no valid slot a start of the firmware ends in ROM mode (R443). -/
theorem startFirmware_slotsEmpty : startFirmware (slotsEmpty s) = enterRom (slotsEmpty s) := by
  unfold startFirmware
  split
  · rw [slotValid_slotsEmpty, if_neg (by decide), fallBack, slotValid_slotsEmpty, if_neg (by decide)]
  · rw [slotValid_slotsEmpty, slotValid_slotsEmpty, if_neg (by decide), if_neg (by decide)]

theorem restartFirmware_rom (hf : s.mbx.fw = some f) (htrial : f.trial = false) :
    (restartFirmware false false none none s).1 = enterRom (slotsEmpty s) := by
  rw [restartFirmware, hf]
  dsimp only
  rw [if_neg (by decide), if_neg (by simp [htrial]), if_neg (by simp)]
  exact startFirmware_slotsEmpty

/-! ## Trials -/

theorem exec_fwTrialTimeout_trial (hserving : s.mbx.barista = .serving) (hf : s.mbx.fw = some f) (htrial : f.trial = true) :
    exec .fwTrialTimeout s = .next (fallBack (f.slot.getD false) 2 s) := by
  show execFwTrialTimeout s = _
  rw [execFwTrialTimeout, hserving, hf]
  exact if_pos htrial

/-- Running the image of a slot leaves whether the firmware fell back. -/
theorem bootSlot_fallback (b tr : Bool) (x : State) : (bootSlot b tr x).mbx.fallback = x.mbx.fallback := by
  have hset (c : BaristaState) (y : State) : (setBarista c y).mbx.fallback = y.mbx.fallback := by
    unfold setBarista
    split <;> rfl
  unfold bootSlot
  split
  · exact hset ..
  · exact hset ..

theorem fallBack_valid {failed : Bool} {cause : Nat} (h : slotValid s (!failed) = true) :
    (fallBack failed cause s).mbx.barista = .serving ∧ (fallBack failed cause s).mbx.fallback = true := by
  rw [fallBack, if_pos h]
  constructor
  · rw [(raise_frame ..).same .barista rfl]
    exact bootSlot_valid h
  · rw [raise_mbx]
    exact bootSlot_fallback ..

theorem fallBack_invalid {failed : Bool} {cause : Nat} (h : slotValid s (!failed) = false) :
    fallBack failed cause s = enterRom s := by
  rw [fallBack, if_neg (by simp [h])]

end

/-- Settles O25: loads and updates of images, and where each restart and each trial ends. SYS.FW_LOAD answering PENDING and
serving at once, a failed update leaving its slot empty, and the outcomes of ROM mode are the model's choices (logs 10, 101,
102, 105). -/
theorem firmwareRows : Obligations.FirmwareRows := by
  unfold Obligations.FirmwareRows
  refine ⟨⟨fun s r a n f h hrom hfw hobs himg => ⟨_, rfl, serve_fwLoad h hrom hfw hobs himg⟩, ?update,
      fun s org f ok hup => exec_fwUpdateDone_writes hup,
      fun s r b h hvalid hcool => serve_does h (bodySysFwActivate_selects hvalid hcool)⟩,
    fun s r h => ⟨_, rfl, serve_restart h⟩, fun s h => exec_lockstepMismatch_restarts h, ?again, ?rom, ?trial⟩
  case update =>
    intro s r a n f h hserving hidle himg
    exact serve_begins h (bodySysFwUpdate_begins hserving hidle ((readImage_withChans _).trans himg))
  case again =>
    intro s f a b h hf htrial hreload
    obtain ⟨t, hexec, hbar⟩ := exec_lockstepRestartDone_barista (code := true) (third := false) (a := a) (b := b) h
    exact ⟨t, hexec, by rw [hbar, restartFirmware_same hf htrial hreload, setBarista_to]⟩
  case rom =>
    intro s f h hf htrial
    obtain ⟨t, hexec, hbar⟩ := exec_lockstepRestartDone_barista (code := false) (third := false) (a := none) (b := none) h
    exact ⟨t, hexec, by rw [hbar, restartFirmware_rom hf htrial, enterRom_bar]⟩
  case trial =>
    intro s f hserving hf htrial
    have hexec := exec_fwTrialTimeout_trial hserving hf htrial
    constructor
    · intro hvalid
      exact ⟨_, hexec, fallBack_valid hvalid⟩
    · intro hinvalid
      rw [fallBack_invalid hinvalid] at hexec
      exact ⟨_, hexec, enterRom_bar s, enterRom_fw s⟩

end Sys2Proof.Machine

/-! The CLK commands on a ready channel (R502, R505, R521). -/

namespace Sys2Proof.Machine

/-! ## What the bodies read -/

section
variable {s : State} (X : Tab Chan)

theorem fabricIdle_withChans : fabricIdle (withChans X s) = fabricIdle s := by
  have hregion (r : Nat) (st : RegSt) : regionIs (withChans X s) r st = regionIs s r st := rfl
  unfold fabricIdle
  simp only [hregion]

end

/-- The words of CLK.STATUS with test clock tck. -/
def clkFields (s : State) (tck : Nat) : List (Nat × Nat) :=
  (List.range 48).flatMap (fun k => [(32, (clockState s tck k).1), (8, bit (clockState s tck k).2)]) ++
    [(8, s.clk.m.toNat)] ++ (List.range 4).map (fun g => (8, PllRef.code (pllOf s g).ref))

/-! ## The bodies -/

section
variable {x : State} (o : Origin)

theorem bodyClkStatus_reports :
    bodyClkStatus o x = done (useFree 1 x) (packFields (clkFields x ((freeNow x).extractLsb' 0 32).toNat)) := rfl

theorem bodyClkAux_sets {k : BitVec 3} {n : BitVec 13} {start : W64} (en : Bool) (hno : x.pwr.baseReset = false)
    (hlo : 2 ≤ n.toNat) (hhi : n.toNat ≤ 4096) (hdom : domOn x 95 = true) :
    bodyClkAux k.toNat n.toNat start.toNat en o x = done (updClk (fun c =>
      { c with aux := Tab.set {} c.aux k.toNat { n := n, start := start, en := en } }) x) := by
  rw [bodyClkAux, if_neg (by simp [inBaseReset, hno]), if_neg (by omega), if_neg (by simp [hdom])]
  simp only [BitVec.ofNat_toNat, BitVec.setWidth_eq]

/-- The clock part with another multiplier and every auxiliary output disabled (R502). -/
def Clk.remultiplied (m : BitVec 7) (org : Origin) (c : Clk) : Clk :=
  { c with fabricCmd := some org, m := m, aux := c.aux.map (fun e => (e.1, { e.2 with en := false })) }

/-- With no link up a change of the multiplier stops the fabric PLL and changes nothing else but the clock part. -/
theorem changeM_alone {m : BitVec 7} (hup : ∀ p, linkUpAt x p = false) :
    changeM m.toNat (updClk (fun c => { c with fabricCmd := some o }) x) = pllOff 0 (updClk (Clk.remultiplied m o) x) := by
  have hports (y : State) (hy : y.lnk = x.lnk) :
      (List.range 6).filter (fun p => (portOf y p).role == 2 && linkUpAt y p) = [] := by
    rw [List.filter_eq_nil_iff]
    intro p _
    have hdown : linkUpAt y p = false := (congrArg (fun q : Port => q.st == .up) (portOf_congr hy p)).trans (hup p)
    simp [hdown]
  rw [changeM, hports (updClk (fun c => { c with fabricCmd := some o }) x) rfl, forEach_nil, BitVec.ofNat_toNat, BitVec.setWidth_eq]
  rfl

theorem bodyClkFabric_changes {m : BitVec 7} (hno : x.pwr.baseReset = false) (hlo : 16 ≤ m.toNat) (hhi : m.toNat ≤ Config.mMax)
    (hroot : x.lnk.member = false) (hidle : fabricIdle x = true) (hcmd : x.clk.fabricCmd = none) (hm : m ≠ x.clk.m)
    (hup : ∀ p, linkUpAt x p = false) :
    bodyClkFabric m.toNat o x = { state := pllOff 0 (updClk (Clk.remultiplied m o) x), status := .pending } := by
  have hne : m.toNat ≠ x.clk.m.toNat := fun h => hm (BitVec.eq_of_toNat_eq h)
  rw [bodyClkFabric, if_neg (by simp [inBaseReset, hno]), if_neg (by omega), if_neg (by simp [hroot, hidle, hcmd]), if_neg hne,
    changeM_alone o hup]

end

/-- With every output disabled, none is enabled. -/
theorem aux_disabled (t : Tab Aux) (k : Nat) :
    (Tab.get (α := Aux) {} (t.map (fun e : Nat × Aux => (e.1, { e.2 with en := false }))) k).en = false := by
  induction t with
  | nil => rfl
  | cons e t ih =>
    rw [List.map_cons, Tab.get]
    split
    · rfl
    · exact ih

theorem pllOff_locked (g : Nat) (s : State) : (pllOf (pllOff g s) g).locked = false := by
  have hpll : (pllOff g s).clk.plls = (updPll g (fun x => { x with locked := false }) s).clk.plls := by
    unfold pllOff
    split <;> rfl
  rw [pllOf_plls hpll, pllOf_updPll_same]

/-- Settles O17: each body's answer, and the state that it leaves. -/
theorem clkCommandsReply : Obligations.ClkCommandsReply := by
  unfold Obligations.ClkCommandsReply
  refine ⟨?status, ?aux, ?fabric⟩
  case status =>
    intro s r h
    exact ⟨_, serve_does (g := useFree 1) h (bodyClkStatus_reports _) (args := [])⟩
  case aux =>
    intro s r k n start en h hno hlo hhi hdom
    exact serve_does h (bodyClkAux_sets _ en hno hlo hhi hdom)
  case fabric =>
    intro s r m h hno hlo hhi hroot hidle hcmd hm hup
    refine ⟨pllOff 0 (updClk (Clk.remultiplied m (originOf r 0x0502)) s), ?_, rfl, pllOff_locked .., rfl, rfl, aux_disabled _⟩
    exact serve_begins (g := fun y => pllOff 0 (updClk (Clk.remultiplied m (originOf r 0x0502)) y)) h
      (bodyClkFabric_changes _ hno hlo hhi hroot ((fabricIdle_withChans _).trans hidle) hcmd hm hup)

end Sys2Proof.Machine

/-! Deep idle and wake (R493 to R495). -/

namespace Sys2Proof.Machine

/-! ## The PLL groups go down -/

/-- PLL group g and its domain go down (R493). -/
def groupDown (g : Nat) (s : State) : State := pllOff g (updDom (90 + g) (fun x => { x with st := .off }) s)

theorem domOf_groupDown (g d : Nat) (s : State) :
    domOf (groupDown g s) d = domOf (updDom (90 + g) (fun x => { x with st := .off }) s) d :=
  domOf_congr ((pllOff_frame ..).same .pwr rfl) d

theorem pllOf_groupDown (g k : Nat) (s : State) :
    (pllOf (groupDown g s) k).locked = if k = g then false else (pllOf s k).locked := by
  have hplls : (groupDown g s).clk.plls =
      (updPll g (fun x => { x with locked := false }) (updDom (90 + g) (fun x => { x with st := .off }) s)).clk.plls := by
    unfold groupDown pllOff
    split <;> rfl
  rw [pllOf_plls hplls]
  split
  · next h => rw [h, pllOf_updPll_same]
  · next h =>
    rw [pllOf_updPll_ne _ _ h]
    rfl

/-- Once groups are down, a group of them, or one that was down before, is down. -/
theorem groupsDown (l : List Nat) (g : Nat) (s : State)
    (h : g ∈ l ∨ ((domOf s (90 + g)).st = .off ∧ (pllOf s g).locked = false)) :
    (domOf (forEach l groupDown s) (90 + g)).st = .off ∧ (pllOf (forEach l groupDown s) g).locked = false := by
  induction l generalizing s with
  | nil => exact h.resolve_left List.not_mem_nil
  | cons k l ih =>
    rw [forEach_cons]
    refine ih _ ?_
    by_cases hk : g = k
    · subst hk
      exact Or.inr ⟨by rw [domOf_groupDown, domOf_updDom_same], by rw [pllOf_groupDown, if_pos rfl]⟩
    · refine h.imp (fun hmem => (List.mem_cons.1 hmem).resolve_left hk) (fun hdown => ?_)
      rw [domOf_groupDown, domOf_updDom_ne _ _ (by omega), pllOf_groupDown, if_neg hk]
      exact hdown

/-- The state in deep idle (R493). -/
def deepEntered (s : State) : State :=
  updPwr (fun p => { p with deepIdle := true }) (updDom 1 (fun x => { x with st := .retention }) (forEach [0, 1, 2, 3] groupDown s))

theorem deepEntered_dom (s : State) (d : Nat) :
    domOf (deepEntered s) d = domOf (updDom 1 (fun x => { x with st := .retention }) (forEach [0, 1, 2, 3] groupDown s)) d := rfl

theorem deepEntered_pll (s : State) (g : Nat) : pllOf (deepEntered s) g = pllOf (forEach [0, 1, 2, 3] groupDown s) g := rfl

section
variable {s : State}

theorem exec_deepIdleEnter_enters (hen : s.pwr.deepEn = true) (hdeep : s.pwr.deepIdle = false) (hwaking : s.pwr.waking = false)
    (htrip : s.pwr.tripRetention = false) (hserving : s.mbx.barista = .serving) (hdoms : ∀ d, d < 96 → idleDom s d = true)
    (hlinks : ∀ p, p < 6 → linkUpAt s p = false) (hcmds : commandsIdle s = true) :
    exec .deepIdleEnter s = .next (deepEntered s) := by
  have hall : (List.range 96).all (idleDom s) = true := List.all_eq_true.2 fun d hd => hdoms d (List.mem_range.1 hd)
  have hany : (List.range 6).any (linkUpAt s) = false :=
    List.any_eq_false.2 fun p hp => by rw [hlinks p (List.mem_range.1 hp)]; decide
  have hopen : ¬(s.pwr.deepEn = false ∨ s.pwr.deepIdle = true ∨ s.pwr.waking = true ∨ s.pwr.tripRetention = true ∨
      s.mbx.barista ≠ .serving ∨ (List.range 96).all (idleDom s) = false ∨ (List.range 6).any (linkUpAt s) = true ∨
      commandsIdle s = false) := by
    rw [hen, hdeep, hwaking, htrip, hserving, hall, hany, hcmds]
    decide
  show execDeepIdleEnter s = _
  rw [execDeepIdleEnter, if_neg hopen]
  rfl

/-! ## Wake -/

/-- The state that a wake makes before it powers up domains: the Barista island is on (R494). -/
def woken (s : State) : State :=
  drainServing (updPwr (fun p => { p with deepIdle := false, waking := true }) (setOn 1 s))

theorem woken_pwr (s : State) :
    (woken s).pwr = (updPwr (fun p => { p with deepIdle := false, waking := true }) (setOn 1 s)).pwr :=
  (drainServing_frame _).same .pwr rfl

theorem wakeDoms_none (h : s.pwr.wakeSet = 0) : wakeDoms s = [] := by
  have hnone : bitsOf (0 : BitVec 96) = [] := by
    unfold bitsOf
    rw [List.filter_eq_nil_iff]
    simp
  rw [wakeDoms, h, hnone]
  exact List.filter_eq_nil_iff.2 (by simp)

/-- The wake pin wakes the die; with no domain to wake nothing else is powered up (R494). -/
theorem exec_wakeEvent_pin (hdeep : s.pwr.deepIdle = true) (hsrc : s.pwr.wakeSources.getLsbD 0 = true)
    (hqueue : s.pwr.onQueue = []) (hset : s.pwr.wakeSet = 0) :
    ∃ t, exec (.wakeEvent .wakePin) s = .next t ∧ t.pwr.deepIdle = false ∧ t.pwr.waking = true ∧ (domOf t 1).st = .on := by
  have hpin : wakes s .wakePin = true := hsrc
  have hdoms : wakeDoms (woken s) = [] := wakeDoms_none (by rw [woken_pwr]; exact hset)
  have hpump : pump (updPwr (fun p => { p with onQueue := p.onQueue ++ [] }) (woken s)) =
      updPwr (fun p => { p with onQueue := p.onQueue ++ [] }) (woken s) := by
    refine pump_idle ?_
    show (woken s).pwr.onQueue ++ [] = []
    rw [woken_pwr, List.append_nil]
    exact hqueue
  refine ⟨updPwr (fun p => { p with onQueue := p.onQueue ++ [] }) (woken s), ?_, ?_, ?_, ?_⟩
  · show execWakeEvent .wakePin s = _
    rw [execWakeEvent, if_neg (by simp [hdeep, hpin])]
    refine congrArg Host.Outcome.next (Eq.trans ?_ hpump)
    show pump (updPwr (fun p => { p with onQueue := p.onQueue ++ (wakeDoms (woken s)).filter _ }) (woken s)) = _
    rw [hdoms, List.filter_nil]
  · show (woken s).pwr.deepIdle = false
    rw [woken_pwr]
    rfl
  · show (woken s).pwr.waking = true
    rw [woken_pwr]
    rfl
  · show (domOf (woken s) 1).st = .on
    have hisland : (woken s).pwr.doms = (setOn 1 s).pwr.doms := by rw [woken_pwr]; rfl
    rw [domOf_doms hisland, setOn, domOf_updDom_same]

theorem exec_wakeDone_ends (hwaking : s.pwr.waking = true) (hover : wakeOver s = true) :
    ∃ t, exec .wakeDone s = .next t ∧ t.pwr.waking = false := by
  show ∃ t, execWakeDone s = .next t ∧ _
  rw [execWakeDone, if_neg (by simp [hwaking, hover])]
  exact ⟨_, rfl, by rw [(finish_frame ..).same .pwr rfl]; rfl⟩

theorem bodyPwrWakeCfg_stores {src : BitVec 3} {ports : BitVec 6} (deep : Bool) {set : BitVec 96} {pins : BitVec 1152}
    (o : Origin) :
    bodyPwrWakeCfg src.toNat ports.toNat deep set.toNat pins.toNat o s = done (updPwr (fun p => { p with
      wakeSources := src, wakePorts := ports, deepEn := deep, wakeSet := set, wakePins := pins }) s) := by
  unfold bodyPwrWakeCfg
  simp only [BitVec.ofNat_toNat, BitVec.setWidth_eq]

end

/-- Settles O18: the entry into deep idle, the wake by the wake pin and its end, and the wake settings. -/
theorem deepIdleAndWakeRows : Obligations.DeepIdleAndWakeRows := by
  unfold Obligations.DeepIdleAndWakeRows
  refine ⟨⟨?enter, fun s hdeep hsrc hqueue hset => exec_wakeEvent_pin hdeep hsrc hqueue hset,
    fun s hwaking hover => exec_wakeDone_ends hwaking hover⟩,
    fun s r src ports deep set pins h => serve_does h (bodyPwrWakeCfg_stores deep _)⟩
  case enter =>
    intro s hen hdeep hwaking htrip hserving hdoms hlinks hcmds
    refine ⟨deepEntered s, exec_deepIdleEnter_enters hen hdeep hwaking htrip hserving hdoms hlinks hcmds, rfl, ?_, ?_⟩
    · rw [deepEntered_dom, domOf_updDom_same]
    · intro g hg
      obtain ⟨hoff, hlock⟩ := groupsDown [0, 1, 2, 3] g s (Or.inl (by simp; omega))
      rw [deepEntered_dom, deepEntered_pll, domOf_updDom_ne _ _ (by omega)]
      exact ⟨hoff, hlock⟩

end Sys2Proof.Machine

/-! The PWR and THM commands on a ready channel (R483, R486, R487, R492, R508, R521). -/

namespace Sys2Proof.Machine

/-! ## Reads that the channels leave alone -/

section
variable {s : State} (X : Tab Chan)

theorem domStatus_withChans (d : Nat) : domStatus (withChans X s) d = domStatus s d := rfl

theorem sensorWord_withChans (n : Nat) : sensorWord (withChans X s) n = sensorWord s n := rfl

theorem offRefused_withChans (d : Nat) : offRefused (withChans X s) d = offRefused s d := by
  unfold offRefused
  rfl

theorem hottest_withChans : hottest (withChans X s) = hottest s := by
  unfold hottest
  rfl

end

/-! ## A command over one domain -/

theorem overDoms_one (f : Nat → State → Option Status × State) (d : Nat) (x : State) :
    overDoms f [d] x = ([(d, (f d x).1)], (f d x).2) := rfl

theorem maskDoms_bits (mask : BitVec 96) : maskDoms mask.toNat = bitsOf mask := by
  unfold maskDoms
  rw [BitVec.ofNat_toNat, BitVec.setWidth_eq]

section
variable {x : State} {o : Origin} {mask : BitVec 96} {d : Nat}

/-! ### PWR.ON -/

theorem tripNow_congr {y : State} (h : y.thm = x.thm) (n : Nat) : tripNow y n = tripNow x n := by
  unfold tripNow sensorTrips
  simp only [sensorOf_thm h]

theorem switching_congr {y : State} (h : ∀ n, (domOf y n).st = (domOf x n).st) : switching y = switching x := by
  unfold switching
  simp only [h]

/-- The state in which domain d is queued to be powered up for a command (R483). -/
def onQueued (o : Origin) (d : Nat) (x : State) : State :=
  updPwr (fun p => { p with onQueue := if p.onQueue.contains d then p.onQueue else p.onQueue ++ [d] })
    (updDom d (fun y => { y with waitOn := y.waitOn ++ [o] }) x)

theorem thermalBar_of_on {n : Nat} (h : domOn x n = true) : thermalBar x n = false := by
  have hon : (domOf x n).st = .on := by simpa [domOn] using h
  simp [thermalBar, hon]

theorem onDomain_queues (hoff : (domOf x d).st = .off) (htrip : tripNow x d = false)
    (hneeds : ∀ n ∈ needsAll d, domOn x n = true) : onDomain o d x = (none, onQueued o d x) := by
  have hbar : (needsAll d).any (thermalBar x) = false :=
    List.any_eq_false.2 fun n hn => by rw [thermalBar_of_on (hneeds n hn)]; decide
  rw [onDomain, hoff]
  dsimp only
  rw [htrip, hbar, if_neg (by decide)]
  rfl

/-- Where a domain's needs are on, powering it up asks for no other domain. -/
theorem extraNeeds_none (hneeds : ∀ n ∈ needsAll d, domOn x n = true) : extraNeeds x [d] = [] := by
  unfold extraNeeds
  rw [List.filter_eq_nil_iff]
  intro n _ hn
  simp only [Bool.and_eq_true, List.any_eq_true, List.mem_filter, List.mem_singleton, List.contains_iff_mem] at hn
  obtain ⟨⟨⟨-, e, ⟨rfl, -⟩, hmem⟩, -⟩, hst⟩ := hn
  have hon : (domOf x n).st = .on := by simpa [domOn] using hneeds n hmem
  simp [hon] at hst

theorem bodyPwrOn_queues (hno : x.pwr.baseReset = false) (hmask : bitsOf mask = [d]) (hoff : (domOf x d).st = .off)
    (htrip : tripNow x d = false) (hneeds : ∀ n ∈ needsAll d, domOn x n = true) :
    bodyPwrOn mask.toNat o x = pwrAnswer o [(d, none)] (onQueued o d x) := by
  have hall : (List.range 96).filter (fun e => [d].contains e || ([] : List Nat).contains e) = [d] := by
    simp only [List.contains_cons, List.contains_nil, Bool.or_false]
    exact filter_one (bitsOf_lt hmask)
  rw [bodyPwrOn, if_neg (by simp [inBaseReset, hno]), maskDoms_one hmask]
  dsimp only
  rw [extraNeeds_none hneeds, hall, overDoms_one, onDomain_queues hoff htrip hneeds]

theorem onQueued_dom (n : Nat) : domOf (onQueued o d x) n = domOf (updDom d (fun y => { y with waitOn := y.waitOn ++ [o] }) x) n :=
  rfl

theorem onQueued_st (n : Nat) : (domOf (onQueued o d x) n).st = (domOf x n).st := by
  rw [onQueued_dom]
  by_cases hn : n = d
  · rw [hn, domOf_updDom_same]
  · rw [domOf_updDom_ne _ _ hn]

theorem onQueued_queue (h : x.pwr.onQueue = []) : (onQueued o d x).pwr.onQueue = [d] := by
  show (if x.pwr.onQueue.contains d then x.pwr.onQueue else x.pwr.onQueue ++ [d]) = [d]
  rw [h]
  rfl

/-- The queue of domains powers up the one in it where all it needs is on (R486). -/
theorem pump_begins (hqueue : x.pwr.onQueue = [d]) (hoff : (domOf x d).st = .off) (htrip : tripNow x d = false)
    (hall : ∀ n ∈ needsAll d, domOn x n = true) (hneeds : ∀ n ∈ needsOf d, domOn x n = true) (hroom : switching x < 8) :
    pump x = beginUp d x := by
  have hup {n : Nat} (h : domOn x n = true) : domUp x n = true := by
    have hon : (domOf x n).st = .on := by simpa [domOn] using h
    simp [domUp, hon]
  have hself : thermalBar x d = false := by simp [thermalBar, hoff, htrip]
  have hbarred : upBarred x d = false := by
    rw [upBarred, hself, Bool.false_or]
    exact List.any_eq_false.2 fun n hn => by simp [thermalBar_of_on (hall n hn), hup (hall n hn)]
  rw [pump, hqueue, forEach_cons, forEach_nil, hbarred, if_neg (by decide)]
  exact if_pos ⟨List.all_eq_true.2 hneeds, hroom⟩

/-! ### PWR.OFF, PWR.TAMP and PWR.RETAIN -/

/-- The state in which domain d stops behind its closed fence (R487). -/
def offFenced (o : Origin) (d : Nat) (x : State) : State :=
  closeFence d (closeSite d (updDom d (fun y => { y with st := .stopping, waitOff := some o }) x))

theorem bodyPwrOff_fences (hno : x.pwr.baseReset = false) (hmask : bitsOf mask = [d]) (hon : (domOf x d).st = .on) (h0 : d ≠ 0)
    (h1 : d ≠ 1) (h21 : d ≠ 21) (hfence : hasFence d = true) (htamp : (domOf x d).tamped = false)
    (hfree : offRefused x d = false) : bodyPwrOff mask.toNat o x = pwrAnswer o [(d, none)] (offFenced o d x) := by
  have hdom : offDomain o d x = (none, offFenced o d x) := by
    rw [offDomain, hon]
    dsimp only
    rw [if_neg (by simp [h0, h1, h21]), if_neg (by simp [hfree]), if_pos hfence, if_neg (by simp [htamp])]
    rfl
  rw [bodyPwrOff, if_neg (by simp [inBaseReset, hno]), maskDoms_one hmask, overDoms_one, hdom]

theorem offFenced_dom : domOf (offFenced o d x) d = { domOf x d with
    st := .stopping, waitOff := some o, fenced := true, tamped := false } := by
  rw [offFenced, closeFence, domOf_updDom_same, domOf_congr (closeSite_pwr ..), domOf_updDom_same]

/-- The state in which a command waits for the quiet of domain d behind its fence (R487). -/
def tampWaits (o : Origin) (d : Nat) (x : State) : State :=
  updDom d (fun y => { y with waitTamp := y.waitTamp ++ [o] }) (if (domOf x d).fenced then x else closeFence d x)

theorem bodyPwrTamp_waits (hno : x.pwr.baseReset = false) (hmask : bitsOf mask = [d]) (hon : (domOf x d).st = .on) (h0 : d ≠ 0)
    (h1 : d ≠ 1) (h21 : d ≠ 21) (hfence : hasFence d = true) (htamp : (domOf x d).tamped = false) :
    bodyPwrTamp mask.toNat o x = pwrAnswer o [(d, none)] (tampWaits o d x) := by
  have hdom : tampDomain o d x = (none, tampWaits o d x) := by
    rw [tampDomain, if_neg (by simp [h0, h1, h21]), if_neg (not_not_intro hon), if_neg (by simp [hfence, htamp])]
    rfl
  rw [bodyPwrTamp, if_neg (by simp [inBaseReset, hno]), maskDoms_one hmask, overDoms_one, hdom]

theorem tampWaits_dom : (domOf (tampWaits o d x) d).st = (domOf x d).st ∧ (domOf (tampWaits o d x) d).fenced = true ∧
    (domOf (tampWaits o d x) d).waitTamp = (domOf x d).waitTamp ++ [o] := by
  unfold tampWaits
  rw [domOf_updDom_same]
  split
  · next h => exact ⟨rfl, h, rfl⟩
  · rw [closeFence, domOf_updDom_same]
    exact ⟨rfl, rfl, rfl⟩

theorem tampWaits_mbx : (tampWaits o d x).mbx = x.mbx := by
  unfold tampWaits
  split <;> rfl

theorem tampWaits_queue : (tampWaits o d x).pwr.onQueue = x.pwr.onQueue := by
  unfold tampWaits
  split <;> rfl

/-- The state in which a command waits for the retention of domain d (R492). -/
def retainWaits (o : Origin) (d : Nat) (x : State) : State := updDom d (fun y => { y with waitRetain := y.waitRetain ++ [o] }) x

theorem bodyPwrRetain_waits (hno : x.pwr.baseReset = false) (hmask : bitsOf mask = [d]) (hregion : isRegionDom d = true)
    (hon : (domOf x d).st = .on) (hready : (regionOf x (d - 58)).st = .ready) :
    bodyPwrRetain mask.toNat o x = pwrAnswer o [(d, none)] (retainWaits o d x) := by
  have hdom : retainDomain o d x = (none, retainWaits o d x) := by
    rw [retainDomain, hready, if_neg (by decide), hon]
    rfl
  rw [bodyPwrRetain, if_neg (by simp [inBaseReset, hno]), maskDoms_one hmask, if_neg (by simp [hregion]), overDoms_one, hdom]

end

/-! ### Their replies -/

section
variable {s x : State} {r : Req} {cmd d : Nat} {args : List Byte} {body : Origin → State → Ans}

/-- With no domain queued, a PWR command over one domain that waits answers PENDING in its body's state. -/
theorem serve_pwr_waits (h : ready s r cmd = true)
    (hbody : body (originOf r cmd) (taken r cmd args s) = pwrAnswer (originOf r cmd) [(d, none)] x)
    (hbusy : (chanOf x r.channel.val).st = .busy) (hqueue : x.pwr.onQueue = []) (hc : cmd < 65536 := by decide) :
    ∃ t, Host.Outcome.next (φ := Fault) (ρ := Refusal) (serve r cmd args body s) = .next t ∧ answered t r cmd .pending [] ∧
      t.pwr = x.pwr := by
  obtain ⟨y, hserve, hans, hpwr, -⟩ := pwr_open h hbody hbusy hc
  rw [pump_idle (by rw [hpwr, hqueue])] at hserve
  exact ⟨y, congrArg Host.Outcome.next hserve, hans, hpwr⟩

end

/-! ## The THM bodies -/

section
variable {x : State} (o : Origin)

/-- The fields of THM.STATUS (R508). -/
def thmFields (s : State) : List (Nat × Nat) :=
  [(16, (BitVec.ofInt 16 (hottest s).2).toNat),
    (8, if (hottest s).1 = 72 then 0xFF else (hottest s).1),
    (8, bit s.thm.warning + 2 * bit s.thm.throttle + 4 * bit (anyRor s) + 8 * bit s.thm.restarted),
    (96, domMask ((List.range 96).filter (fun d => (domOf s d).st == .tripped))), (8, s.thm.warnC.toNat),
    (8, s.thm.throttleC.toNat)]

theorem thmFields_withChans (X : Tab Chan) : thmFields (withChans X x) = thmFields x := by
  have hdom (d : Nat) : domOf (withChans X x) d = domOf x d := rfl
  have hror : anyRor (withChans X x) = anyRor x := rfl
  unfold thmFields
  simp only [hottest_withChans, hdom, hror]
  rfl

theorem bodyThmStatus_reports : bodyThmStatus o x = done x (packFields (thmFields x)) := rfl

theorem bodyThmSensors_reports {first count : BitVec 7} (hlo : 1 ≤ count.toNat) (hhi : first.toNat + count.toNat ≤ 72) :
    bodyThmSensors first.toNat count.toNat o x =
      done x (packFields ((List.range count.toNat).map (fun k => (64, sensorWord x (first.toNat + k))))) :=
  if_neg (by omega)

theorem bodyThmLimits_sets {w h : BitVec 8} (hlo : 60 ≤ w.toNat) (hwh : w.toNat ≤ h.toNat) (hw : w.toNat ≤ 95)
    (hh : h.toNat ≤ 100) :
    bodyThmLimits w.toNat h.toNat o x = done (updThm (fun t => { t with warnC := w, throttleC := h }) x) := by
  rw [bodyThmLimits, if_pos ⟨hlo, hwh, hw, hh⟩]
  simp only [BitVec.ofNat_toNat, BitVec.setWidth_eq]

end

/-! ## The obligation -/

/-- Settles O27: each body's answer over one domain, and what it leaves of that domain once the queue is pumped. -/
theorem pwrThmCommandsReply : Obligations.PwrThmCommandsReply := by
  unfold Obligations.PwrThmCommandsReply
  refine ⟨⟨?status, ?on, ?off, ?tamp, ?retain⟩, ?thmStatus, ?sensors,
    fun s r w hh h hlo hwh hw hhi => serve_does h (bodyThmLimits_sets _ hlo hwh hw hhi)⟩
  case status =>
    intro s r mask h
    have hwords (X : Tab Chan) : bodyPwrStatus mask.toNat (originOf r 0x0401) (withChans X s) =
        done (withChans X s) (packFields ((bitsOf mask).map (fun d => (64, domStatus s d)))) := by
      simp only [bodyPwrStatus, maskDoms_bits, domStatus_withChans]
    exact serve_report h (hwords _)
  case on =>
    intro s r mask d h hno hmask hoff htrip hall hneeds hqueue hroom
    obtain ⟨y, hserve, hans, hpwr, hthm⟩ := pwr_open (args := packFields [(96, mask.toNat)]) h
      (bodyPwrOn_queues hno hmask hoff (htrip d) hall) (taken_busy' _ _ _ _ _ rfl)
    have hst (n : Nat) : (domOf y n).st = (domOf s n).st := by
      rw [domOf_congr hpwr, onQueued_st]
      rfl
    have hon {n : Nat} (hn : domOn s n = true) : domOn y n = true := by
      rw [domOn, hst]
      exact hn
    have hpump : pump y = beginUp d y :=
      pump_begins (by rw [hpwr]; exact onQueued_queue hqueue) (by rw [hst, hoff]) ((tripNow_congr (x := s) hthm d).trans (htrip d))
        (fun n hn => hon (hall n hn)) (fun n hn => hon (hneeds n hn)) (by rwa [switching_congr hst])
    refine ⟨beginUp d y, congrArg Host.Outcome.next (hserve.trans hpump), answered_same hans rfl, ?_, ?_⟩
    · rw [beginUp_dom]
    · rw [beginUp_dom, domOf_congr hpwr, onQueued_dom, domOf_updDom_same]
      rfl
  case off =>
    intro s r mask d h hno hmask hon h0 h1 h21 hfence htamp hfree hqueue
    have hbusy : (chanOf (offFenced (originOf r 0x0403) d (taken r 0x0403 (packFields [(96, mask.toNat)]) s)) r.channel.val).st =
        .busy := (congrArg Chan.st (closeSite_chan _ _ _ (ready_facts h).1)).trans (taken_busy ..)
    have hx : (offFenced (originOf r 0x0403) d (taken r 0x0403 (packFields [(96, mask.toNat)]) s)).pwr.onQueue = [] :=
      (congrArg Pwr.onQueue (closeSite_pwr ..)).trans hqueue
    obtain ⟨t, hexec, hans, hpwr⟩ := serve_pwr_waits h
      (bodyPwrOff_fences hno hmask hon h0 h1 h21 hfence htamp ((offRefused_withChans _ d).trans hfree)) hbusy hx
    refine ⟨t, hexec, hans, ?_⟩
    rw [domOf_congr hpwr, offFenced_dom]
    exact ⟨rfl, rfl, rfl⟩
  case tamp =>
    intro s r mask d h hno hmask hon h0 h1 h21 hfence htamp hqueue
    obtain ⟨t, hexec, hans, hpwr⟩ := serve_pwr_waits (args := packFields [(96, mask.toNat)]) h
      (bodyPwrTamp_waits hno hmask hon h0 h1 h21 hfence htamp) (taken_busy' _ _ _ _ _ (congrArg Mbx.chans tampWaits_mbx))
      (by rw [tampWaits_queue]; exact hqueue)
    obtain ⟨hst, hfenced, hwait⟩ := tampWaits_dom (o := originOf r 0x0404) (d := d)
      (x := taken r 0x0404 (packFields [(96, mask.toNat)]) s)
    refine ⟨t, hexec, hans, ?_⟩
    rw [domOf_congr hpwr]
    exact ⟨hst.trans hon, hfenced, hwait⟩
  case retain =>
    intro s r mask d h hno hmask hregion hon hready hqueue
    obtain ⟨t, hexec, hans, hpwr⟩ := serve_pwr_waits (args := packFields [(96, mask.toNat)]) h
      (bodyPwrRetain_waits hno hmask hregion hon hready) (taken_busy' _ _ _ _ _ rfl) hqueue
    refine ⟨t, hexec, hans, ?_⟩
    rw [domOf_congr hpwr, retainWaits, domOf_updDom_same]
    rfl
  case thmStatus =>
    intro s r h
    have hreport (X : Tab Chan) : bodyThmStatus (originOf r 0x0601) (withChans X s) =
        done (withChans X s) (packFields (thmFields s)) := by rw [bodyThmStatus_reports, thmFields_withChans]
    exact serve_report h (hreport _)
  case sensors =>
    intro s r first count h hlo hhi
    have hreport (X : Tab Chan) := bodyThmSensors_reports (x := withChans X s) (originOf r 0x0602) hlo hhi
    simp only [sensorWord_withChans] at hreport
    exact serve_report h (hreport _)

end Sys2Proof.Machine

/-! The TST and RPR commands on a ready channel (R529, R533, R535, R540, R544, R545). -/

namespace Sys2Proof.Machine

/-! ## Reads that the channels leave alone -/

section
variable {s : State} (X : Tab Chan)

theorem blockInUse_withChans (g : Nat) : blockInUse (withChans X s) g = blockInUse s g := by
  unfold blockInUse
  rfl

theorem maintenance_withChans (layer : Bool) : maintenance (withChans X s) layer = maintenance s layer := by
  unfold maintenance
  rfl

theorem namedEntry_withChans (e : W64) : namedEntry (withChans X s) e = namedEntry s e := by
  unfold namedEntry
  rfl

end

/-! ## The TST bodies -/

section
variable {x : State} (o : Origin)

/-- A test of region i, which runs with no other test beside it (R529). -/
def soleTest (o : Origin) (i : Nat) : RegionTest := { org := o, region := i, parallel := 1, running := true }

/-- The state in which a test of region i waits behind the others (R529). -/
def testQueued (o : Origin) (i : Nat) (x : State) : State :=
  updStart (fun y => { y with tests := y.tests ++ [{ soleTest o i with running := false }] })
    (setTest i 4 (updRegion i (fun g => { g with bistBusy := true }) x))

/-- The state in which region i is tested, and no other (R529). -/
def testBegun (o : Origin) (i : Nat) (x : State) : State :=
  updStart (fun y => { y with tests := [soleTest o i] })
    (zeroCarryOver i (updRegion i (fun g => { g with slots := [] }) (testQueued o i x)))

theorem testQueued_tests {i : Nat} (hnone : x.start.tests = []) :
    (testQueued o i x).start.tests = [{ soleTest o i with running := false }] := by
  show x.start.tests ++ [{ soleTest o i with running := false }] = _
  rw [hnone, List.nil_append]

theorem startTests_one {t : RegionTest} (htests : x.start.tests = [t]) (hrun : t.running = false) (hpar : t.parallel = 1) :
    startTests x = updStart (fun y => { y with tests := [{ t with running := true }] })
      (zeroCarryOver t.region (updRegion t.region (fun g => { g with slots := [] }) x)) := by
  rw [startTests, htests, startTestsGo_one t x hrun hpar]

theorem bodyTstRegion_begins {i : Fin 32} (hcool : x.thm.throttle = false) (hdom : domOn x 94 = true)
    (hbist : x.start.bistFailed = false) (hvcc : x.pwr.vccFabOk = true) (hblank : regionIs x i.val .blank = true)
    (hfree : (regionOf x i.val).bistBusy = false) (hnone : x.start.tests = []) :
    bodyTstRegion (1#32 <<< i.val).toNat 1 o x = { state := testBegun o i.val x, status := .pending } := by
  have hok : (regionIs x i.val .blank && !(regionOf x i.val).bistBusy) = true := by rw [hblank, hfree]; rfl
  have hany : [i.val].any (fun r => regionIs x r .blank && !(regionOf x r).bistBusy) = true := by simp [hok]
  have hgo : [i.val].filter (fun r => regionIs x r .blank && !(regionOf x r).bistBusy) = [i.val] := by
    simp [hok]
  have hleft : [i.val].filter (fun r => !(regionIs x r .blank && !(regionOf x r).bistBusy)) = [] := by
    simp [hblank, hfree]
  rw [bodyTstRegion, mask_one, if_neg (by simp), if_neg (by simp [hcool]), if_neg (by simp [hdom]), if_neg (by simp [hbist])]
  dsimp only
  rw [hany, if_neg (by simp [hvcc]), hgo, hleft, forEach_cons, forEach_nil]
  have hstart := startTests_one (testQueued_tests o (i := i.val) hnone) rfl rfl
  exact congrArg (fun z : State => ({ state := z, status := .pending } : Ans)) hstart

theorem testBegun_region (i : Nat) :
    (regionOf (testBegun o i x) i).bistBusy = true ∧ (regionOf (testBegun o i x) i).slots = [] := by
  have hregion : regionOf (testBegun o i x) i = { regionOf x i with bistBusy := true, slots := [] } := by
    rw [testBegun, regionOf_congr ((updStart_frame ..).same .ctx rfl), regionOf_congr ((zeroCarryOver_frame ..).same .ctx rfl),
      regionOf_updRegion_same, testQueued, regionOf_congr ((updStart_frame ..).same .ctx rfl),
      regionOf_congr ((setTest_frame ..).same .ctx rfl), regionOf_updRegion_same]
  rw [hregion]
  exact ⟨rfl, rfl⟩

theorem bodyTstRegion_refuses {mask : BitVec 32} {n : BitVec 3} (hn : n = 0 ∨ 4 < n.toNat) :
    bodyTstRegion mask.toNat n.toNat o x = refuse x .badArg :=
  if_pos (Or.inr (hn.imp (fun h => congrArg BitVec.toNat h) id))

theorem bodyTstMemory_begins {g : Fin 1152} (hdom : domOn x (sectorDom (sectorOf g.val)) = true)
    (hnone : x.start.memTest = none) (huse : blockInUse x g.val = false) (hdsp : dspBound x g.val = false)
    (hinit : (blockOf x g.val).initBusy = false) (hclear : x.mem.clearing.contains (sectorOf g.val) = false) :
    bodyTstMemory g.val 1 o x =
      { state := updStart (fun y => { y with memTest := some (o, g.val, 1) }) (updBlock g.val (fun b => { b with initBusy := true }) x)
        status := .pending } := by
  have hg := g.isLt
  have hone : (List.range 1).map (fun i => g.val + i) = [g.val] := rfl
  have hfree : ¬(x.start.memTest.isSome = true ∨ [g.val].any (fun g => blockInUse x g || dspBound x g ||
      (blockOf x g).initBusy || x.mem.clearing.contains (sectorOf g)) = true) := by
    simp only [List.any_cons, List.any_nil, hnone, huse, hdsp, hinit, hclear]
    decide
  rw [bodyTstMemory, hone, if_neg (by omega), if_neg (by simp [hdom]), if_neg hfree]
  rfl

theorem bodyTstStatus_reports :
    bodyTstStatus o x = done (useFree 1 x) (packFields ((List.range 32).map (fun i => (8, (Tab.get 0 x.start.results i).toNat)) ++
      [(32, (freeNow x).toNat), (8, x.start.rounds.toNat), (16, x.start.fails.toNat)])) := rfl

theorem bodyTstAnalog_begins {u : BitVec 2} {i : BitVec 5} (hok : analogAllowed x u.toNat i.toNat = some true)
    (hnone : x.start.anaTest = none) :
    bodyTstAnalog u.toNat i.toNat o x =
      { state := updStart (fun y => { y with anaTest := some (some o, u.toNat, i.toNat) }) x, status := .pending } := by
  rw [bodyTstAnalog, hok]
  exact if_neg (by simp [hnone])

theorem bodyTstAnalog_refuses {u : BitVec 2} {i : BitVec 5} (hbad : analogAllowed x u.toNat i.toNat = none) :
    bodyTstAnalog u.toNat i.toNat o x = refuse x .badArg := by
  rw [bodyTstAnalog, hbad]

/-! ## The RPR bodies -/

theorem bodyRprMap_reports {f : BitVec 12} {n : BitVec 8} (hlo : 1 ≤ n.toNat) (hhi : n.toNat ≤ 32) :
    bodyRprMap f.toNat n.toNat o x = done x (packFields ((16, (reportedMap x).length) ::
      (((reportedMap x).drop f.toNat).take n.toNat).map (fun e => (64, e.toNat)))) :=
  if_neg (by omega)

theorem bodyRprSkip_records {l : Bool} {p : BitVec 5} (hp : p.toNat ≤ 24) :
    bodyRprSkip l p.toNat false o x = done (recordSkip l p.toNat x) := by
  rw [bodyRprSkip, if_neg (by omega), if_pos rfl]

/-- The recorded skip position of a layer is the one recorded (R535). -/
theorem recordSkip_now (l : Bool) (p : BitVec 5) :
    (if l then (recordNow (recordSkip l p.toNat x)).skip2 else (recordNow (recordSkip l p.toNat x)).skip1) = p := by
  obtain ⟨gen, hrec⟩ := recordNow_write
    (fun y => if l then { y with skip2 := BitVec.ofNat 5 p.toNat } else { y with skip1 := BitVec.ofNat 5 p.toNat }) x
  rw [recordSkip, hrec]
  cases l <;> simp

/-- The state in which layer L2 is crossed at its new skip position (R536). -/
def upperSkipChanged (o : Origin) (p : BitVec 5) (x : State) : State :=
  updStart (fun y => { y with skip2 := p, skipCmd := some (some o, true) }) (zeroLayer true x)

theorem bodyRprSkip_changes {p : BitVec 5} (hp : p.toNat ≤ 24) (hwindow : maintenance x true = true)
    (hcmd : x.start.skipCmd = none) (hbusy : x.align.busy = false) :
    bodyRprSkip true p.toNat true o x = { state := upperSkipChanged o p x, status := .pending } := by
  rw [bodyRprSkip, if_neg (by omega), if_neg (by decide), if_neg (by simp [hwindow, hcmd, hbusy])]
  simp only [BitVec.ofNat_toNat, BitVec.setWidth_eq]
  rfl

theorem bodyRprSkip_refuses {l w : Bool} {p : BitVec 5} (hp : 24 < p.toNat) :
    bodyRprSkip l p.toNat w o x = refuse x .badArg :=
  if_pos hp

/-- With an empty map an entry of a tile or a block is taken into the map and the record, and is applied (R544). -/
theorem bodyRprRetire_takes {e n : W64} (hn : namedEntry x e = some n) (hkind : rmKind n ≠ 8)
    (hnew : (recordNow x).map.any (sameResource n) = false) (hroom : (recordNow x).map.length < 256) (hmap : x.start.map = []) :
    bodyRprRetire e false o x = done (applyRetire n (addMap n 0 0 x)) := by
  rw [bodyRprRetire, hn]
  dsimp only
  rw [if_neg (by decide), if_neg (by simp [hkind]), if_neg (by simp [hnew]), if_neg (Nat.not_le.2 hroom), if_neg hkind,
    dropSame n x hmap]

/-- An entry of the record is taken out of it (R544). -/
theorem bodyRprRetire_drops {e n : W64} (hn : namedEntry x e = some n) (hold : (recordNow x).map.any (sameResource n) = true) :
    bodyRprRetire e true o x = done (writeRecord (fun y => { y with map := y.map.filter (fun z => !sameResource n z) }) x) := by
  rw [bodyRprRetire, hn]
  dsimp only
  rw [if_pos rfl, if_pos hold]

theorem bodyRprRecord_reads {v : Nat} {ofs : BitVec 13} (hofs : ofs.toNat < 6272) :
    bodyRprRecord 0 v ofs.toNat o x = done x (((recordBytes x.start.rr x.start.rrPrev).drop ofs.toNat).take 4096) :=
  if_neg (Nat.not_le.2 hofs)

theorem bodyRprRecord_parallel {v : BitVec 8} {ofs : Nat} (hlo : 1 ≤ v.toNat) (hhi : v.toNat ≤ 8) :
    bodyRprRecord 1 v.toNat ofs o x = done (writeRecord (fun y => { y with bistParallel := v.setWidth 4 }) x) := by
  have hwidth : BitVec.ofNat 4 v.toNat = v.setWidth 4 := BitVec.ofNat_toNat 4 v
  rw [bodyRprRecord, if_pos ⟨hlo, hhi⟩, hwidth]

theorem bodyRprRecord_autoSkip {v : BitVec 8} {ofs : Nat} (hv : v.toNat ≤ 1) :
    bodyRprRecord 2 v.toNat ofs o x = done (writeRecord (fun y => { y with autoSkip := v == 1 }) x) := by
  have hone : (v.toNat == 1) = (v == 1) := by
    rw [Bool.eq_iff_iff, beq_iff_eq, beq_iff_eq, BitVec.toNat_eq]
    rfl
  rw [bodyRprRecord, if_pos hv, hone]

end

/-! ## Replies that change the repair record -/

/-- A command that completes with ST_OK in a state in which its channel is still BUSY. -/
theorem serve_done_busy {s x : State} {r : Req} {cmd : Nat} {args data : List Byte} {body : Origin → State → Ans}
    (h : ready s r cmd = true) (ha : body (originOf r cmd) (taken r cmd args s) = done x data)
    (hb : (chanOf x r.channel.val).st = .busy) (hc : cmd < 65536 := by decide) :
    ∃ t, Host.Outcome.next (φ := Fault) (ρ := Refusal) (serve r cmd args body s) = .next t ∧ answered t r cmd .ok data ∧
      Frame [.mbx, .chans, .evt, .sec] x t :=
  serve_fact (a := done x data) h ha (fun e => nomatch e) rfl rfl hb hc

/-- A command that completes by a change of the repair record, at any temperature: the record in force is the changed one but
for its generation, and the map in force is as before. -/
theorem serve_recordNow {s : State} {r : Req} {cmd : Nat} {args : List Byte} {body : Origin → State → Ans} {f : RepairRec → RepairRec}
    (h : ready s r cmd = true)
    (hbody : body (originOf r cmd) (taken r cmd args s) = done (writeRecord f (taken r cmd args s)))
    (hc : cmd < 65536 := by decide) :
    ∃ t gen, Host.Outcome.next (φ := Fault) (ρ := Refusal) (serve r cmd args body s) = .next t ∧ answered t r cmd .ok [] ∧
      t.start.map = s.start.map ∧ recordNow t = { f (recordNow s) with gen := gen } := by
  obtain ⟨t, hexec, hans, hframe⟩ := serve_done_kept h hbody ((writeRecord_frame ..).same .chans rfl) hc
  obtain ⟨gen, hrec⟩ := recordNow_write f (taken r cmd args s)
  have hstart := hframe.same .start rfl
  exact ⟨t, gen, hexec, hans, (congrArg Start.map hstart).trans (writeRecord_map ..), (recordNow_congr hstart).trans hrec⟩

/-! ## The obligation -/

/-- Settles O58: each body's answer under the hypotheses, and what such an answer leaves of the tests, the map and the
repair record. -/
theorem tstRprCommandsReply : Obligations.TstRprCommandsReply := by
  unfold Obligations.TstRprCommandsReply
  refine ⟨?region, fun s r mask n h hn => serve_refuse h (bodyTstRegion_refuses _ hn), ?memory, ?analog, ?analogRefused, ?status,
    fun s r h => serve_report h rfl, ?map, ?skip, ?skipNow, fun s r l w p h hp => serve_refuse h (bodyRprSkip_refuses _ hp),
    ?retire, ?unretire, fun s r v o h ho => serve_report h (bodyRprRecord_reads _ ho), ?parallel, ?autoSkip⟩
  case region =>
    intro s r i h hcool hdom hbist hvcc hblank hfree hnone
    obtain ⟨t, hexec, hans, hframe⟩ := serve_open_kept (args := packFields [(32, (1#32 <<< i.val).toNat), (3, 1)]) h
      (bodyTstRegion_begins _ hcool hdom hbist hvcc hblank hfree hnone) rfl
    refine ⟨t, hexec, hans, by rw [hframe.same .start rfl]; rfl, ?_⟩
    rw [regionOf_congr (hframe.same .ctx rfl)]
    exact testBegun_region _ i.val
  case memory =>
    intro s r g h hdom hnone huse hdsp hinit hclear
    have hg : (BitVec.ofNat 11 g.val).toNat = g.val := by
      rw [BitVec.toNat_ofNat, Nat.mod_eq_of_lt (by omega)]
    show ∃ t, Host.Outcome.next (serve r 0x0D03 _ (bodyTstMemory (BitVec.ofNat 11 g.val).toNat 1) s) = .next t ∧ _
    rw [hg]
    have hbody (X : Tab Chan) := bodyTstMemory_begins (x := withChans X s) (originOf r 0x0D03) hdom hnone
      ((blockInUse_withChans X _).trans huse) hdsp hinit hclear
    obtain ⟨t, hexec, hans, hframe⟩ := serve_open_kept
      (args := packFields [(11, g.val), (11, (1 : BitVec 11).toNat)]) h (hbody _) rfl
    refine ⟨t, hexec, hans, by rw [hframe.same .start rfl]; rfl, ?_⟩
    rw [blockOf_congr (hframe.same .mem rfl), blockOf_congr ((updStart_frame ..).same .mem rfl), blockOf_updBlock_same]
  case analog =>
    intro s r u i h hok hnone
    obtain ⟨t, hexec, hans, hframe⟩ := serve_open_kept (args := packFields [(2, u.toNat), (5, i.toNat)]) h
      (bodyTstAnalog_begins _ ((analogAllowed_congr rfl rfl rfl rfl ..).trans hok) hnone) rfl
    exact ⟨t, hexec, hans, by rw [hframe.same .start rfl]; rfl⟩
  case analogRefused =>
    intro s r u i h hbad
    exact serve_refuse h (bodyTstAnalog_refuses _ ((analogAllowed_congr (s := s) rfl rfl rfl rfl ..).trans hbad))
  case status =>
    intro s r h
    obtain ⟨t, hexec, hans, hframe⟩ := serve_done_kept (args := []) h (bodyTstStatus_reports _) rfl
    exact ⟨t, _, hexec, hans, by rw [hframe.same .start rfl]; rfl⟩
  case map =>
    intro s r f n h hlo hhi
    refine serve_report h ?_
    rw [bodyRprMap_reports _ hlo hhi, reportedMap_congr (x := taken r 0x0E02 _ s) (s := s) rfl]
  case skip =>
    intro s r l p h hp
    obtain ⟨t, hexec, hans, hframe⟩ := serve_done_kept (args := packFields [(1, bit l), (5, p.toNat), (1, bit false)]) h
      (bodyRprSkip_records _ hp) ((recordSkip_frame ..).same .chans rfl)
    refine ⟨t, hexec, hans, ?_⟩
    rw [recordNow_congr (hframe.same .start rfl)]
    exact recordSkip_now l p
  case skipNow =>
    intro s r p h hp hwindow hcmd hbusy
    obtain ⟨t, hexec, hans, hframe⟩ := serve_open_kept (args := packFields [(1, bit true), (5, p.toNat), (1, bit true)]) h
      (bodyRprSkip_changes _ hp ((maintenance_withChans ..).trans hwindow) hcmd hbusy) rfl
    exact ⟨t, hexec, hans, by rw [hframe.same .start rfl]; exact ⟨rfl, rfl⟩⟩
  case retire =>
    intro s r e n h hn hkind hcause hnew hroom hmap hcool
    let args := packFields [(64, e.toNat), (1, bit false)]
    have hpers : persistentCause (rmCause n) = true := by rw [hcause]; rfl
    have hbusy : (chanOf (applyRetire n (addMap n 0 0 (taken r 0x0E04 args s))) r.channel.val).st = .busy := by
      rw [applyRetire_ch]
      exact taken_busy' _ _ _ _ _ ((addMap_frame ..).same .chans rfl)
    obtain ⟨t, hexec, hans, hframe⟩ := serve_done_busy h
      (bodyRprRetire_takes _ ((namedEntry_withChans ..).trans hn) hkind hnew hroom hmap) hbusy
    have hstart : t.start = (addMap n 0 0 (taken r 0x0E04 args s)).start :=
      (hframe.same .start rfl).trans ((applyRetire_frame ..).same .start rfl)
    refine ⟨t, hexec, hans, ?_⟩
    rw [hstart]
    exact ⟨addMap_map n 0 0 _ hmap hpers hroom, addMap_rr n 0 0 _ hmap hpers hroom hcool⟩
  case unretire =>
    intro s r e n h hn hold
    obtain ⟨t, gen, hexec, hans, hmap, hrec⟩ := serve_recordNow (args := packFields [(64, e.toNat), (1, bit true)]) h
      (bodyRprRetire_drops _ ((namedEntry_withChans ..).trans hn) hold)
    exact ⟨t, hexec, hans, hmap, by rw [hrec]⟩
  case parallel =>
    intro s r v o h hlo hhi
    obtain ⟨t, gen, hexec, hans, -, hrec⟩ := serve_recordNow h (bodyRprRecord_parallel _ hlo hhi)
    exact ⟨t, hexec, hans, by rw [hrec]⟩
  case autoSkip =>
    intro s r v o h hv
    obtain ⟨t, gen, hexec, hans, -, hrec⟩ := serve_recordNow h (bodyRprRecord_autoSkip _ hv)
    exact ⟨t, hexec, hans, by rw [hrec]⟩

end Sys2Proof.Machine

/-! Tampers, reseeds, the vault and life-cycle writes (R546, R547, R555, R557 to R561). -/

namespace Sys2Proof.Machine

/-! ## The random number generator and the boot key -/

section
variable {s : State}

theorem exec_drbgReseed_clears (hmany : 2 ^ 20 ≤ s.sec.drbg) (hrun : s.sec.trngStopped = false) :
    exec .drbgReseed s = .next { s with sec := { s.sec with drbg := 0 } } :=
  if_pos ⟨hmany, hrun⟩

theorem exec_tamper_taken {cause : BitVec 8} {on : Bool} (hcause : cause = 1 ∨ cause = 2) :
    exec (.tamper cause on) s = .next (takeTamper cause on s) :=
  if_pos hcause

/-- The state in which a redraw has ended the tamper and the stop of TRNG output. -/
def trngResumed (s : State) : State :=
  updSec (fun x => { x with trngStopped := false }) (updSec (fun x => { x with redraw := false, tamper := false }) s)

/-- With no command waiting, TRNG output resumes and nothing more. -/
theorem resumeTrng_idle (hwait : s.sec.waiting = none) :
    resumeTrng (updSec (fun x => { x with redraw := false, tamper := false }) s) = trngResumed s := by
  have hnone : (trngResumed s).sec.waiting = none := hwait
  unfold resumeTrng
  dsimp only
  rw [show updSec _ (updSec _ s) = trngResumed s from rfl, hnone]

theorem drawBootKey_draws (hrun : s.sec.trngStopped = false) (hdom : domOn s 2 = true) :
    drawBootKey s = drawKey (updSec (fun x => { x with drbg := x.drbg + 1 }) s) :=
  if_neg (by rw [hrun, hdom]; decide)

/-- The redraw ends the tamper and the stop of TRNG output, and draws a boot key (R547, R558). -/
theorem exec_bootKeyRedraw_draws (hredraw : s.sec.redraw = true) (hwipe : s.sec.wiping = false) (hwait : s.sec.waiting = none)
    (hdom : domOn s 2 = true) :
    ∃ t, exec .bootKeyRedraw s = .next t ∧ t.prt.key = true ∧ t.sec = { s.sec with
      redraw := false, tamper := false, trngStopped := false, drbg := s.sec.drbg + 1 } := by
  obtain ⟨hkey, hsec⟩ := drawKey_key (updSec (fun x => { x with drbg := x.drbg + 1 }) (trngResumed s))
  refine ⟨_, ?_, hkey, hsec⟩
  show execBootKeyRedraw s = _
  rw [execBootKeyRedraw, if_neg (by simp [hredraw, hwipe]), resumeTrng_idle hwait, drawBootKey_draws (s := trngResumed s) rfl hdom]

theorem exec_trngOutputTimeout_ends (hstop : s.sec.trngStopped = true) (hwait : s.sec.waiting = none) :
    exec .trngOutputTimeout s = .next { s with sec := { s.sec with redraw := false } } := by
  have hnone : (updSec (fun x => { x with redraw := false }) s).sec.waiting = none := hwait
  show execTrngOutputTimeout s = _
  rw [execTrngOutputTimeout, if_neg (by simp [hstop])]
  dsimp only
  rw [hnone]
  rfl

theorem exec_vaultWipeDone_ends (hwipe : s.sec.wiping = true) (hpend : s.sec.pending = none) :
    exec .vaultWipeDone s = .next { s with sec := { s.sec with wiping := false } } := by
  have hidle : ¬(s.sec.pending ≠ none ∧ s.sec.redraw = false) := fun h => h.1 hpend
  show execVaultWipeDone s = _
  rw [execVaultWipeDone, if_neg (by simp [hwipe])]
  dsimp only
  rw [if_neg hidle]
  rfl

end

/-! ## The vault -/

section
variable {s : State} {q : NocReq}

/-- The only request at the vault is answered, where its response is not lost. -/
theorem answerMesh_one (st : Status) (data : List W64) (hq : s.noc.mesh = [q])
    (hlost : rspLost s q.src.toNat q.addr.toNat = false) :
    answerMesh q st data s = { s with noc := { s.noc with
      mesh := [], rsps := s.noc.rsps ++ [{ src := q.src, tag := q.tag, status := st, data := data }] } } := by
  rw [answerMesh, dropMesh_one hq, respond_go st data ((rspLost_noc ..).trans hlost)]

/-- The answer of the vault to the only request in the mesh, which goes to it (R559, R560). -/
theorem exec_vaultAccess_one (hq : s.noc.mesh = [q]) (hdest : destOf s q.addr.toNat = .vault)
    (hopen : targetShut s q.addr.toNat = false) :
    exec (.vaultAccess q.src q.tag) s =
      if vaultAllows s q.src.toNat = false then .next (answerMesh q .denied [] s)
      else if s.sec.wiping then .next (answerMesh q .busy [] s)
      else .next (serveVault q s) := by
  show execVaultAccess q.src q.tag s = _
  rw [execVaultAccess, meshReq_one hq]
  dsimp only
  rw [if_neg (not_not_intro hdest), hopen, if_neg (by decide)]

theorem serveVault_read (hop : q.op = .read) :
    serveVault q s = answerMesh q .ok
      (wordsOfBytes (tabBytes s.sec.vault (q.addr.toNat / 8 * 8 - vaultBase) (8 * (q.len.val + 1)))) s := by
  rw [serveVault, hop]

end

/-! ## Life-cycle transitions and scan -/

section
variable {s : State}

/-- A transition written outside a wipe takes the new state into the next group (R555). -/
theorem exec_lifecycleDone_moves {org : Option Origin} {old new : BitVec 3} (hpend : s.sec.pending = some (org, old, new))
    (hwipe : s.sec.wiping = false) :
    ∃ t, exec .lifecycleDone s = .next t ∧ t.sec.life = new ∧ t.sec.groups = s.sec.groups ++ [new] ∧ t.sec.pending = none ∧
      (new = 4 → t.load.store = [] ∧ t.load.inits = [] ∧ t.tag.lock = 0xFF) := by
  obtain ⟨hlife, hgroups, hnone, heffects⟩ := te_facts old new
    (updSec (fun x => { x with life := new, groups := x.groups ++ [new], pending := none }) s)
  show ∃ t, execLifecycleDone s = .next t ∧ _
  rw [execLifecycleDone, hpend]
  dsimp only
  rw [if_neg (by simp [hwipe])]
  refine ⟨_, rfl, ?_⟩
  rw [(finishOpt_frame ..).same .sec rfl, (raise_frame ..).same .sec rfl, (finishOpt_frame ..).same .load rfl,
    (raise_frame ..).same .load rfl, (finishOpt_frame ..).same .tag rfl, (raise_frame ..).same .tag rfl]
  exact ⟨hlife, hgroups, hnone, heffects⟩

/-- The state after the key and the vault are emptied for scan (R561). -/
def scanCleared (s : State) : State :=
  updSec (fun x => { clearCore x with vault := [], wiping := false }) (updPrt (fun x => { x with cache := [] }) (zeroiseKey s))

/-- ERROR is shown, DONE is not, and the die stays in scan (R561). -/
def scanMarked (x : State) : State :=
  { x with ext := { x.ext with error := true, done := false }, start := { x.start with scanBase := true } }

theorem scanMarked_marks (x : State) : (scanMarked x).start.scanBase = true ∧ (scanMarked x).ext.error = true ∧
    (scanMarked x).ext.done = false ∧ (scanMarked x).prt = x.prt ∧ (scanMarked x).sec = x.sec :=
  ⟨rfl, rfl, rfl, rfl, rfl⟩

/-- With no flash write under way, scan entry leaves no boot key, no vault and no nonce. -/
theorem scanEntered_empty (hpend : s.sec.pending = none) (hjob : s.tag.job = none) :
    (allLinksDown (cutOff (scanCleared s))).prt.key = false ∧ (allLinksDown (cutOff (scanCleared s))).sec.vault = [] ∧
      (allLinksDown (cutOff (scanCleared s))).sec.nonce = 0 := by
  rw [cutOff_idle (s := scanCleared s) hpend hjob, (allLinksDown_frame _).same .prt rfl, (allLinksDown_frame _).same .sec rfl]
  exact ⟨rfl, rfl, rfl⟩

theorem exec_jtagScanBase_enters (hend : s.sec.life ≠ 3) (hret : s.sec.life ≠ 4) :
    exec .jtagScanBase s = .next (scanMarked (allLinksDown (cutOff (scanCleared s)))) := by
  show execJtagScanBase s = _
  rw [execJtagScanBase, if_neg (not_or.2 ⟨hend, hret⟩), scanMarked, scanCleared]

theorem exec_jtagScanBase_denied (h : s.sec.life = 3 ∨ s.sec.life = 4) :
    exec .jtagScanBase s = .next { s with start := { s.start with jtag := .bypass } } :=
  if_pos h

/-- With every bank held and every link down, boundary scan takes any instruction. -/
theorem exec_jtagBoundaryScan_takes (i : JtagInst) (hbanks : ∀ b, b < 24 → bankReleased s b = false)
    (hlinks : ∀ p, p < 6 → linkUpAt s p = false) :
    exec (.jtagBoundaryScan i) s = .next { s with start := { s.start with jtag := i } } := by
  have hb : (List.range 24).any (bankReleased s) = false :=
    List.any_eq_false.2 fun b h => by rw [hbanks b (List.mem_range.1 h)]; decide
  have hl : (List.range 6).any (linkUpAt s) = false :=
    List.any_eq_false.2 fun p h => by rw [hlinks p (List.mem_range.1 h)]; decide
  show execJtagBoundaryScan i s = _
  rw [execJtagBoundaryScan, hb, hl]
  dsimp only
  rw [if_pos (by simp)]

end

/-- Settles O49: the outcome of each row under its hypotheses. -/
theorem securityRows : Obligations.SecurityRows := by
  unfold Obligations.SecurityRows
  refine ⟨fun s hmany hrun => exec_drbgReseed_clears hmany hrun, ?tamper, ?health,
    fun s hredraw hwipe hwait hdom => exec_bootKeyRedraw_draws hredraw hwipe hwait hdom,
    fun s hstop hwait => exec_trngOutputTimeout_ends hstop hwait,
    fun s hwipe hpend => exec_vaultWipeDone_ends hwipe hpend, ?denied, ?busy, ?read,
    fun s org old new hpend hwipe => exec_lifecycleDone_moves hpend hwipe,
    ?scan,
    fun s h => exec_jtagScanBase_denied h,
    fun s i hbanks hlinks => exec_jtagBoundaryScan_takes i hbanks hlinks⟩
  case tamper =>
    intro s cause on hcause hwipe hpend hjob hdom
    exact ⟨_, exec_tamper_taken hcause, tamper_facts hwipe hpend hjob hdom⟩
  case health =>
    intro s hwipe hpend hjob hdom
    obtain ⟨hkey, hsec⟩ := tamper_facts (s := updSec (fun x => { x with trngStopped := true }) s) (c := 3) (on := false)
      hwipe hpend hjob hdom
    refine ⟨_, rfl, hkey, hsec.trans ?_⟩
    rw [Bool.or_false]
    rfl
  case scan =>
    intro s hend hret hpend hjob
    obtain ⟨hbase, herror, hdone, hprt, hsec⟩ := scanMarked_marks (allLinksDown (cutOff (scanCleared s)))
    refine ⟨_, exec_jtagScanBase_enters hend hret, hbase, herror, hdone, ?_⟩
    rw [hprt, hsec]
    exact scanEntered_empty hpend hjob
  case denied =>
    intro s q hq hdest hopen hallow hlost
    rw [exec_vaultAccess_one hq hdest hopen, if_pos hallow, answerMesh_one _ _ hq hlost]
  case busy =>
    intro s q hq hdest hopen hallow hwipe hlost
    rw [exec_vaultAccess_one hq hdest hopen, if_neg (by simp [hallow]), if_pos hwipe, answerMesh_one _ _ hq hlost]
  case read =>
    intro s q hq hdest hopen hallow hwipe hop hlost
    rw [exec_vaultAccess_one hq hdest hopen, if_neg (by simp [hallow]), if_neg (by simp [hwipe]), serveVault_read hop,
      answerMesh_one _ _ hq hlost]

end Sys2Proof.Machine

/-! TAG_ACCESS, tag page writes and the TAG commands (R562 to R567). -/

namespace Sys2Proof.Machine

/-! ## Rows -/

section
variable {s : State}

theorem exec_jtagTagAccess_reads {dr : W64} (h : dr.getLsbD 62 = false) :
    exec (.jtagTagAccess dr) s = .next { s with
      tag := { s.tag with jtagDr := tagWord s s.tag.jtagAddr.toNat, jtagAddr := dr.extractLsb' 32 14 } } :=
  if_neg (by rw [h]; decide)

theorem exec_jtagTagAccess_write {dr : W64} (h : dr.getLsbD 62 = true) : exec (.jtagTagAccess dr) s = .next s :=
  if_pos h

/-- A page write that no command waits for completes with its bytes and its count (R564). -/
theorem exec_tagWriteDone_applies {j : TagJob} (hjob : s.tag.job = some j) (horg : j.org = none) :
    exec .tagWriteDone s = .next (applyTag j s) := by
  show execTagWriteDone s = _
  rw [execTagWriteDone, hjob]
  dsimp only
  rw [horg]
  rfl

end

/-! ## The TAG bodies -/

section
variable {x : State} (o : Origin)

/-- The fields of TAG.READ: the bytes, and the write counts of the pages that hold them. -/
def tagFields (x : State) (ofs len : Nat) : List (Nat × Nat) :=
  (tabBytes x.tag.bytes ofs len).map (fun b => (8, b.toNat)) ++
    ((List.range 128).filter (fun p => decide (ofs / 64 ≤ p ∧ p ≤ (ofs + len - 1) / 64))).map
      (fun p => (32, (Tab.get 0 x.tag.counts p).toNat))

theorem bodyTagRead_reports {ofs len : BitVec 13} (hlo : 1 ≤ len.toNat) (hhi : len.toNat ≤ 4096)
    (hend : ofs.toNat + len.toNat ≤ 8192) :
    bodyTagRead ofs.toNat len.toNat o x = done x (packFields (tagFields x ofs.toNat len.toNat)) :=
  if_neg (by omega)

/-- The state in which a page write has begun. -/
def tagWriting (o : Origin) (ofs : Nat) (d : List Byte) (x : State) : State :=
  { x with tag := { x.tag with job := some { org := some o, offset := ofs, data := d } } }

theorem bodyTagWrite_begins {ofs : BitVec 13} {d : List Byte} (hlo : 1 ≤ d.length) (hhi : ofs.toNat % 64 + d.length ≤ 64)
    (hlock : x.tag.lock.getLsbD (ofs.toNat / 1024) = false) (hlife : x.sec.life ≠ 4) (hcool : tooHot x = false)
    (hdom : domOn x 2 = true) (hjob : x.tag.job = none) :
    bodyTagWrite ofs.toNat d o x = { state := tagWriting o ofs.toNat d x, status := .pending } := by
  rw [bodyTagWrite, if_neg (by omega), if_neg (by rw [hlock]; decide), if_neg hlife, if_neg (by simp [hcool]),
    if_neg (by simp [hdom]), if_neg (not_not_intro hjob), tagWriting]

theorem bodyTagWrite_denied {ofs : BitVec 13} {d : List Byte} (hlo : 1 ≤ d.length) (hhi : ofs.toNat % 64 + d.length ≤ 64)
    (hlock : x.tag.lock.getLsbD (ofs.toNat / 1024) = true) : bodyTagWrite ofs.toNat d o x = refuse x .denied := by
  rw [bodyTagWrite, if_neg (by omega), if_pos hlock]

/-- The state with the pages of a mask locked. -/
def tagLocked (m : BitVec 8) (x : State) : State := { x with tag := { x.tag with lock := x.tag.lock ||| m } }

theorem bodyTagLock_locks {m : BitVec 8} (hcool : tooHot x = false) (hjob : x.tag.job = none) :
    bodyTagLock m.toNat o x = done (tagLocked m x) := by
  rw [bodyTagLock, if_neg (by simp [hcool]), hjob, BitVec.ofNat_toNat, BitVec.setWidth_eq]
  exact if_neg Bool.false_ne_true

end

/-- Settles O51: the two rows, and each body's answer with the reply that it gives on a ready channel. -/
theorem tagCommands : Obligations.TagCommands := by
  unfold Obligations.TagCommands
  exact ⟨fun s dr h => exec_jtagTagAccess_reads h, fun s dr h => exec_jtagTagAccess_write h,
    fun s j hjob horg => exec_tagWriteDone_applies hjob horg,
    fun s r ofs len h hlo hhi hend => serve_report h (bodyTagRead_reports _ hlo hhi hend),
    fun s r ofs d h hlo hhi hlock hlife hcool hdom hjob =>
      serve_begins (g := tagWriting (originOf r 0x1002) ofs.toNat d) h
        (bodyTagWrite_begins _ hlo hhi hlock hlife hcool hdom hjob),
    fun s r ofs d h hlo hhi hlock => serve_refuse h (bodyTagWrite_denied _ hlo hhi hlock),
    fun s r m h hcool hjob => serve_does (g := tagLocked m) h (bodyTagLock_locks _ hcool hjob),
    fun s r h => serve_report h rfl⟩

end Sys2Proof.Machine
